-- ==== Sys2Proof/Word.lean ====
section
/-!
DEFINITION. The word types of the Mordax architecture (spec/09_encoding_rules.md R107, spec/03_arithmetic_rules.md R37, R38).
-/
namespace Sys2Proof

/-- A byte of memory (R107: words are stored little-endian). -/
abbrev Byte := BitVec 8

/-- A 32-bit instruction word or register cell. -/
abbrev Word := BitVec 32

/-- The 64-bit value of an even/odd register pair (R37). -/
abbrev DWord := BitVec 64

/-- A register field of an instruction word (Table 9.3). -/
abbrev Field := BitVec 7

/-- The guard field g (R113). -/
abbrev Guard := BitVec 3

end Sys2Proof
end

