-- ==== Sys2Proof/Config.lean ====
section
/-!
DEFINITION. What the manual leaves open for good: free values with no body, so no proof can see them. A statement that
holds, holds whatever they are.
-/
namespace Sys2Proof.Config

/-- A special function faithfully rounded (R48) returns one of the two bracketing values: `true` takes the upper one.
The first argument numbers the function, the second is the operand (log 5). -/
opaque sfuPick : Nat → Word → Bool

/-- The bytes of firmware image number n, which stands outside the machine (R369; log 8). -/
opaque imageBytes : Nat → List Byte
/-- The bytes of an image's header, which holds its security version number: svn and image (R369; log 8). -/
opaque imageHeader (svn image : Nat) : List Byte
/-- The ECDSA signature (r, s) that an image carries (R369; log 8). -/
opaque imageSignature (svn image : Nat) : Nat × Nat
/-- The root public key, a point of the curve, under which an image is signed (R369; log 8). -/
opaque imageKey (svn image : Nat) : Nat × Nat
/-- The SHA-384 hash of the root public key, fused into the package (R369; log 8). -/
opaque fusedKeyHash : Nat

/-- The answer to an SPDM message on a port, over the measurements in force (R370): the running image, its SVN, FEATACC and the
repair actions (log 8). -/
opaque spdmAnswer (port msg image svn : Nat) (featacc : Word) (repairs : List (List Nat)) : Nat

/-- The least security version number, fused into the package (R369; log 8). -/
opaque minimumSvn : Nat

/-- A value that the manual gives an effect no number for: the reader's counter (`Clock.free`) numbers the draws (log 3). -/
opaque freeValue : Nat → DWord

/-- A scratchpad byte of a block that nothing has written since the block was placed (R11), by block and address (log 3). -/
opaque scratchByte : Nat → Byte

/-- The row of an HBM stack that a physical line lies in (R346): the manual gives no layout of rows (log 49). -/
opaque hbmRow : Nat → Nat

/-- Spare rows that remain for a row after a number of repairs (R346, log 49). -/
opaque rowSpare : Nat → Nat → Bool

end Sys2Proof.Config
end

