-- ==== Sys2Proof/Machine/Float.lean ====
section
/-!
DEFINITION. Floating-point formats, exact values and rounding (spec/03_arithmetic_rules.md R35 to R48). Bit patterns are
naturals here; an exact finite value is sign, significand and a power of two, so nothing is rounded before the one
rounding a rule names.
-/
namespace Sys2Proof.Machine

/-- A binary format of Table 3.1: exponent and fraction widths. -/
structure Fmt where
  /-- Exponent bits. -/
  eb : Nat
  /-- Fraction bits. -/
  fb : Nat
deriving DecidableEq, Repr

/-- FP64 (Table 3.1). -/
def fp64 : Fmt := ⟨11, 52⟩
/-- FP32. -/
def fp32 : Fmt := ⟨8, 23⟩
/-- FP16. -/
def fp16 : Fmt := ⟨5, 10⟩
/-- BF16. -/
def bf16 : Fmt := ⟨8, 7⟩

/-- Width of a pattern in bits. -/
def Fmt.width (f : Fmt) : Nat := 1 + f.eb + f.fb
/-- Exponent bias. -/
def Fmt.bias (f : Fmt) : Nat := 2 ^ (f.eb - 1) - 1
/-- Power of two of the least significant fraction bit of subnormals. -/
def Fmt.qmin (f : Fmt) : Int := 1 - (f.bias : Int) - (f.fb : Int)
/-- Magnitude pattern of infinity. -/
def Fmt.infBits (f : Fmt) : Nat := (2 ^ f.eb - 1) * 2 ^ f.fb
/-- Pattern of the sign bit. -/
def Fmt.signBit (f : Fmt) : Nat := 2 ^ (f.eb + f.fb)
/-- The pattern with a sign. -/
def Fmt.signed (f : Fmt) (neg : Bool) (mag : Nat) : Nat := (if neg then f.signBit else 0) + mag
/-- The canonical NaN: sign 0, quiet bit 1, payload 0 (R35). -/
def Fmt.qnan (f : Fmt) : Nat := f.infBits + 2 ^ (f.fb - 1)

/-- The value of a pattern (R35). -/
inductive FVal where
  /-- Sign, quiet bit, payload. -/
  | nan (neg quiet : Bool) (payload : Nat)
  | inf (neg : Bool)
  /-- (-1)^neg × m × 2^e; m = 0 is a zero with a sign. -/
  | fin (neg : Bool) (m : Nat) (e : Int)
deriving DecidableEq, Repr

/-- The value of a pattern (R35, Table 3.1). -/
def Fmt.value (f : Fmt) (x : Nat) : FVal :=
  let neg := x.testBit (f.eb + f.fb)
  let ex := x / 2 ^ f.fb % 2 ^ f.eb
  let fr := x % 2 ^ f.fb
  if ex = 2 ^ f.eb - 1 then
    if fr = 0 then .inf neg else .nan neg (fr.testBit (f.fb - 1)) (fr % 2 ^ (f.fb - 1))
  else if ex = 0 then .fin neg fr f.qmin
  else .fin neg (2 ^ f.fb + fr) (f.qmin + (ex : Int) - 1)

/-- A NaN. -/
def FVal.isNan : FVal → Bool
  | .nan _ _ _ => true
  | _ => false
/-- A signalling NaN. -/
def FVal.isSnan : FVal → Bool
  | .nan _ q _ => !q
  | _ => false
/-- An infinity. -/
def FVal.isInf : FVal → Bool
  | .inf _ => true
  | _ => false
/-- A zero. -/
def FVal.isZero : FVal → Bool
  | .fin _ m _ => m == 0
  | _ => false
/-- The sign. -/
def FVal.neg : FVal → Bool
  | .nan n _ _ => n
  | .inf n => n
  | .fin n _ _ => n
/-- The value with the other sign. -/
def FVal.negate : FVal → FVal
  | .nan n q p => .nan n q p
  | .inf n => .inf !n
  | .fin n m e => .fin (!n) m e

/-- The FP flags in CFPS positions (Table 3.3). -/
abbrev FFlags := BitVec 5
/-- Invalid. -/
def flagNV : FFlags := 1
/-- Divide by zero. -/
def flagDZ : FFlags := 2
/-- Overflow; NX is raised too (R47). -/
def flagOF : FFlags := 4
/-- Underflow. -/
def flagUF : FFlags := 8
/-- Inexact. -/
def flagNX : FFlags := 16
/-- A flag under a condition. -/
def flagIf (c : Bool) (f : FFlags) : FFlags := if c then f else 0

/-- Rounding modes: those of CFPM.RM (Table 3.2), and away from zero for the upper bracket of R48. -/
inductive RMode where
  | rne | rtz | rtp | rtn | away
deriving DecidableEq, Repr

/-- CFPM.RM (Table 3.2). -/
def RMode.ofBits (m : BitVec 2) : RMode :=
  match m.toNat with
  | 0 => .rne
  | 1 => .rtz
  | 2 => .rtp
  | _ => .rtn

/-- Does a magnitude with quotient `q`, remainder compared with a half as `cmp`, and `inexact` round away from zero? -/
def RMode.up (rm : RMode) (neg : Bool) (odd : Bool) (cmp : Ordering) (inexact : Bool) : Bool :=
  match rm with
  | .rne => cmp == .gt || (cmp == .eq && odd)
  | .rtz => false
  | .rtp => inexact && !neg
  | .rtn => inexact && neg
  | .away => inexact

/-- m × 2^e as a multiple of 2^q: the rounded quotient and whether it is inexact (R40). -/
def roundQuot (rm : RMode) (neg : Bool) (m : Nat) (e q : Int) : Nat × Bool :=
  if q ≤ e then (m * 2 ^ (e - q).toNat, false)
  else
    let sh := (q - e).toNat
    if m = 0 then (0, false)
    else if m.log2 + 2 < sh then (if rm.up neg false .lt true then 1 else 0, true)
    else
      let quo := m / 2 ^ sh
      let r := m % 2 ^ sh
      let inexact := r != 0
      (if rm.up neg (quo % 2 == 1) (compare (2 * r) (2 ^ sh)) inexact then quo + 1 else quo, inexact)

/-- ROUND(x, f, m) of an exact finite x with its flags (R40, R47). Tininess is judged after rounding. -/
def Fmt.round (f : Fmt) (rm : RMode) (neg : Bool) (m : Nat) (e : Int) : Nat × FFlags :=
  if m = 0 then (f.signed neg 0, 0)
  else
    let q := max ((m.log2 : Int) + e - (f.fb : Int)) f.qmin
    let (mq, inexact) := roundQuot rm neg m e q
    let mag := (q - f.qmin).toNat * 2 ^ f.fb + mq
    if f.infBits ≤ mag then
      let big := match rm with
        | .rne | .away => f.infBits
        | .rtz => f.infBits - 1
        | .rtp => if neg then f.infBits - 1 else f.infBits
        | .rtn => if neg then f.infBits else f.infBits - 1
      (f.signed neg big, flagOF ||| flagNX)
    else (f.signed neg mag, flagIf inexact flagNX ||| flagIf (inexact && decide (mag < 2 ^ f.fb)) flagUF)

/-- What the mode register fixes for an FP instruction (Table 3.2). -/
structure FEnv where
  rm : RMode
  /-- FZ. -/
  fz : Bool
deriving DecidableEq, Repr

/-- CFPM as an environment. -/
def FEnv.ofCfpm (w : Word) : FEnv := ⟨RMode.ofBits (w.extractLsb' 0 2), w.getLsbD 2⟩

/-- Source flush (R44): a subnormal source becomes a zero of its sign. -/
def Fmt.flushIn (f : Fmt) (env : FEnv) (x : Nat) : Nat :=
  let mag := x % f.signBit
  if env.fz && mag != 0 && decide (mag < 2 ^ f.fb) then x - mag else x

/-- Result flush (R44): a nonzero subnormal result becomes a zero of its sign and raises UF and NX. -/
def Fmt.flushOut (f : Fmt) (env : FEnv) (r : Nat × FFlags) : Nat × FFlags :=
  let mag := r.1 % f.signBit
  if env.fz && mag != 0 && decide (mag < 2 ^ f.fb) then (r.1 - mag, r.2 ||| flagUF ||| flagNX) else r

/-- FOP(x, f) of an exact finite x (R138). -/
def Fmt.fop (f : Fmt) (env : FEnv) (neg : Bool) (m : Nat) (e : Int) : Nat × FFlags := f.flushOut env (f.round env.rm neg m e)

/-- A NaN of a format as a NaN of another, quieted (R45). -/
def Fmt.ofNan (src dst : Fmt) (neg : Bool) (payload : Nat) : Nat :=
  let p := if src.fb ≤ dst.fb then payload * 2 ^ (dst.fb - src.fb) else payload / 2 ^ (src.fb - dst.fb)
  dst.signed neg (dst.qnan + p)

/-- The first NaN of the list, quieted, and NV where any is signalling (R45, R47); none where no value is a NaN. -/
def Fmt.nanOf (f : Fmt) (vs : List FVal) : Option (Nat × FFlags) :=
  match vs.find? FVal.isNan with
  | some (.nan n _ p) => some (f.ofNan f n p, flagIf (vs.any FVal.isSnan) flagNV)
  | _ => none

/-- The exact sum of two finite values: sign, significand, exponent. A zero sum of opposite signs is -0 only under RTN (R40). -/
def addFin (rm : RMode) (n1 : Bool) (m1 : Nat) (e1 : Int) (n2 : Bool) (m2 : Nat) (e2 : Int) : Bool × Nat × Int :=
  if m1 = 0 && m2 = 0 then (if n1 == n2 then n1 else rm == .rtn, 0, 0)
  else if m1 = 0 then (n2, m2, e2)
  else if m2 = 0 then (n1, m1, e1)
  else
    let e := min e1 e2
    let x : Int := (if n1 then -1 else 1) * (m1 * 2 ^ (e1 - e).toNat : Nat)
    let y : Int := (if n2 then -1 else 1) * (m2 * 2 ^ (e2 - e).toNat : Nat)
    let t := x + y
    if t = 0 then (rm == .rtn, 0, 0) else (decide (t < 0), t.natAbs, e)

/-- Sum of two values that are no NaN (R40, R47). -/
def Fmt.sumVals (f : Fmt) (env : FEnv) (x y : FVal) : Nat × FFlags :=
  match x, y with
  | .inf a, .inf b => if a == b then (f.signed a f.infBits, 0) else (f.qnan, flagNV)
  | .inf a, _ => (f.signed a f.infBits, 0)
  | _, .inf b => (f.signed b f.infBits, 0)
  | .fin n1 m1 e1, .fin n2 m2 e2 =>
    let (n, m, e) := addFin env.rm n1 m1 e1 n2 m2 e2
    f.fop env n m e
  | _, _ => (f.qnan, 0)

/-- Product of two values that are no NaN, exact: none for 0 × infinity. -/
def mulVals (x y : FVal) : Option FVal :=
  match x, y with
  | .fin n1 m1 e1, .fin n2 m2 e2 => some (.fin (n1 != n2) (m1 * m2) (e1 + e2))
  | .inf a, .fin n m _ => if m = 0 then none else some (.inf (a != n))
  | .fin n m _, .inf a => if m = 0 then none else some (.inf (a != n))
  | .inf a, .inf b => some (.inf (a != b))
  | _, _ => none

/-- FADD (R157). -/
def Fmt.add (f : Fmt) (env : FEnv) (a b : Nat) : Nat × FFlags :=
  let x := f.value (f.flushIn env a)
  let y := f.value (f.flushIn env b)
  match f.nanOf [x, y] with
  | some r => r
  | none => f.sumVals env x y

/-- FSUB (R157): a - b; a NaN b keeps its sign (R45). -/
def Fmt.sub (f : Fmt) (env : FEnv) (a b : Nat) : Nat × FFlags :=
  let x := f.value (f.flushIn env a)
  let y := f.value (f.flushIn env b)
  match f.nanOf [x, y] with
  | some r => r
  | none => f.sumVals env x y.negate

/-- FMUL (R157). -/
def Fmt.mul (f : Fmt) (env : FEnv) (a b : Nat) : Nat × FFlags :=
  let x := f.value (f.flushIn env a)
  let y := f.value (f.flushIn env b)
  match f.nanOf [x, y] with
  | some r => r
  | none =>
    match mulVals x y with
    | some (.fin n m e) => f.fop env n m e
    | some (.inf n) => (f.signed n f.infBits, 0)
    | _ => (f.qnan, flagNV)

/-- FFMA (R157): a × b + d with one rounding; 0 × infinity raises NV even where d is a quiet NaN. -/
def Fmt.fma (f : Fmt) (env : FEnv) (a b d : Nat) : Nat × FFlags :=
  let x := f.value (f.flushIn env a)
  let y := f.value (f.flushIn env b)
  let z := f.value (f.flushIn env d)
  match f.nanOf [x, y, z] with
  | some r => (r.1, r.2 ||| flagIf (!x.isNan && !y.isNan && (mulVals x y).isNone) flagNV)
  | none =>
    match mulVals x y with
    | some p => f.sumVals env p z
    | none => (f.qnan, flagNV)

/-- x < y of two values that are no NaN; -0 and +0 are equal. -/
def ltVals (x y : FVal) : Bool :=
  match x, y with
  | .inf a, .inf b => a && !b
  | .inf a, _ => a
  | _, .inf b => !b
  | .fin n1 m1 e1, .fin n2 m2 e2 =>
    let e := min e1 e2
    let p : Int := (if n1 then -1 else 1) * (m1 * 2 ^ (e1 - e).toNat : Nat)
    let q : Int := (if n2 then -1 else 1) * (m2 * 2 ^ (e2 - e).toNat : Nat)
    decide (p < q)
  | _, _ => false

/-- x before y in the order of R46, where -0 lies below +0. -/
def below (x y : FVal) : Bool := ltVals x y || (x.isZero && y.isZero && x.neg && !y.neg)

/-- FMIN (`mx` false) and FMAX (R46, R157). -/
def Fmt.minmax (f : Fmt) (env : FEnv) (mx : Bool) (a b : Nat) : Nat × FFlags :=
  let a := f.flushIn env a
  let b := f.flushIn env b
  let x := f.value a
  let y := f.value b
  let nv := flagIf (x.isSnan || y.isSnan) flagNV
  if x.isNan && y.isNan then (((f.nanOf [x, y]).getD (f.qnan, 0)).1, nv)
  else if x.isNan then (b, nv)
  else if y.isNan then (a, nv)
  else if mx then (if below x y then b else a, nv)
  else (if below y x then b else a, nv)

/-- An FP condition of Table 11.4, with its flags (R150). -/
def Fmt.cmp (f : Fmt) (env : FEnv) (cond : Nat) (a b : Nat) : Bool × FFlags :=
  let x := f.value (f.flushIn env a)
  let y := f.value (f.flushIn env b)
  let un := x.isNan || y.isNan
  let lt := !un && ltVals x y
  let gt := !un && ltVals y x
  let eq := !un && !lt && !gt
  let sn := flagIf (x.isSnan || y.isSnan) flagNV
  let qn := flagIf un flagNV
  match cond with
  | 0 => (eq, sn)
  | 1 => (!eq, sn)
  | 2 => (lt, qn)
  | 3 => (lt || eq, qn)
  | 4 => (gt, qn)
  | 5 => (gt || eq, qn)
  | 6 => (un, sn)
  | _ => (!un, sn)

/-- FSCL (R157): a × 2^n, formed exactly for every n. -/
def Fmt.scale (f : Fmt) (env : FEnv) (a : Nat) (n : Int) : Nat × FFlags :=
  let a := f.flushIn env a
  let x := f.value a
  match f.nanOf [x] with
  | some r => r
  | none =>
    match x with
    | .fin neg m e => if m = 0 then (a, 0) else f.fop env neg m (e + n)
    | _ => (a, 0)

/-- FCLASS (R158): the one-hot class mask of Table 11.7. -/
def Fmt.classOf (f : Fmt) (a : Nat) : Nat :=
  match f.value a with
  | .nan _ q _ => if q then 2 ^ 9 else 2 ^ 8
  | .inf n => if n then 2 ^ 0 else 2 ^ 7
  | .fin n m _ =>
    if m = 0 then (if n then 2 ^ 3 else 2 ^ 4)
    else if m < 2 ^ f.fb then (if n then 2 ^ 2 else 2 ^ 5)
    else (if n then 2 ^ 1 else 2 ^ 6)

/-- FRND (R159): an integral value of the sign of a; NV for a signalling NaN and no other flag. -/
def Fmt.integral (f : Fmt) (env : FEnv) (rm : RMode) (a : Nat) : Nat × FFlags :=
  let a := f.flushIn env a
  let x := f.value a
  match f.nanOf [x] with
  | some r => r
  | none =>
    match x with
    | .fin neg m e => if 0 ≤ e || m = 0 then (a, 0) else ((f.round .rne neg (roundQuot rm neg m e 0).1 0).1, 0)
    | _ => (a, 0)

/-- Format to format (R162, R44, R45): `src` and `dst` may be equal. -/
def Fmt.convert (src dst : Fmt) (env : FEnv) (a : Nat) : Nat × FFlags :=
  match src.value (src.flushIn env a) with
  | .nan n q p => (src.ofNan dst n p, flagIf (!q) flagNV)
  | .inf n => (dst.signed n dst.infBits, 0)
  | .fin n m e => dst.fop env n m e

/-- Integer to format (R162). -/
def Fmt.ofInt (dst : Fmt) (env : FEnv) (x : Int) : Nat × FFlags := dst.fop env (decide (x < 0)) x.natAbs 0

/-- CVTI (R163, Table 11.11): the integer in lo to hi, with its flags. -/
def Fmt.toInteger (src : Fmt) (env : FEnv) (rm : RMode) (lo hi : Int) (a : Nat) : Int × FFlags :=
  match src.value (src.flushIn env a) with
  | .nan _ _ _ => (0, flagNV)
  | .inf n => (if n then lo else hi, flagNV)
  | .fin n m e =>
    let (q, inexact) := roundQuot rm n m e 0
    let v : Int := if n then -(q : Int) else q
    if hi < v then (hi, flagNV) else if v < lo then (lo, flagNV) else (v, flagIf inexact flagNX)

/-- The nearest value of a format to a rational num / den > 0, ties to even (R120: RNE of an exact real). -/
def Fmt.rneRat (f : Fmt) (num den : Nat) : Nat :=
  let y := num * 2 ^ 200 / den
  (f.round .rne false (2 * y + 1) (-201)).1

end Sys2Proof.Machine
end

