-- ==== Sys2Proof/Syntax.lean ====
section
/-!
DEFINITION. The instructions of the Mordax architecture and the events of the package: one constructor of `Instr`
for each row of spec/opcode_table.json, in the table's order. Fields are those of the row's encoding
(spec/09_encoding_rules.md Tables 9.1, 9.3, 9.6 and the modifier tables); event rows carry the operands that pick
which queue, slice, block or register the event concerns.
-/
namespace Sys2Proof

/-- The memory modifier word (Table 9.6, R121). -/
structure MemMod where
  /-- Buffer record 0 to 63. -/
  recNo : BitVec 6
  /-- k-register that holds the policy word. -/
  pol : BitVec 6
  /-- Width code: 2^WID bytes a lane. -/
  wid : BitVec 4
  /-- Signed byte offset. -/
  off : BitVec 16
deriving DecidableEq, Repr

/-- The crew modifier word (Table 13.1, R180). -/
structure CrewMod where
  /-- Operation, as each instruction lists it. -/
  opc : BitVec 5
  /-- 1: the member mask is the value of k-register `mkReg`. -/
  some : BitVec 1
  /-- k-register of the member mask. -/
  mkReg : BitVec 6
  /-- Operand type. -/
  type : BitVec 4
  /-- IMM, as each instruction lists it. -/
  imm : BitVec 7
deriving DecidableEq, Repr

/-- The contract modifier word (Table 15.7, R225). -/
structure ContractMod where
  /-- PIN: 0 SCRATCH, 1 RESIDENT. -/
  kind : BitVec 1
  /-- PIN: lifetime; STPART: kind in [1:0]. -/
  life : BitVec 3
deriving DecidableEq, Repr

/-- The KV modifier word (Table 15.8, R228). -/
structure KvMod where
  /-- Vector field of the register group. -/
  vr : BitVec 6
  /-- ASSAY: 0 THRESH, 1 TOPN. -/
  mode : BitVec 1
  /-- KVFORK: q-register of the refusal predicate. -/
  qd : BitVec 2
deriving DecidableEq, Repr

/-- The girth modifier word (Table 15.9, R233). -/
structure GirthMod where
  /-- GUPD: operation of Table 15.5; GDISMT: 0 BYID, 1 BYTAG. -/
  op : BitVec 4
  /-- GUPD: 64-bit word. -/
  w64 : BitVec 1
  /-- GUPD: word index. -/
  word : BitVec 4
  /-- 1: write the predicate q_QD. -/
  pen : BitVec 1
  /-- q-register number. -/
  qd : BitVec 2
deriving DecidableEq, Repr

/-- The MMA modifier word (Table 17.5, R249). -/
structure MmaMod where
  /-- Pcount - 1. -/
  pm1 : BitVec 6
  /-- k-register of the valid row count. -/
  vc : BitVec 6
  /-- 1: `vc` is given. -/
  vce : BitVec 1
  /-- KEEPA. -/
  ka : BitVec 1
  /-- KEEPB. -/
  kb : BitVec 1
  /-- Group size code of the grouped forms. -/
  gs : BitVec 2
  /-- sel of the grouped forms (R54). -/
  sel : BitVec 2
  /-- Vector field of sr. -/
  sr : BitVec 6
deriving DecidableEq, Repr

/-- The ALOAD modifier word (R254). -/
structure AloadMod where
  /-- 0 ROW, 1 COL. -/
  lay : BitVec 2
  /-- 0 FP32, 1 BF16, 2 FP16. -/
  fmt : BitVec 2
deriving DecidableEq, Repr

/-- The ASTORE modifier word (Table 17.6, R255). -/
structure AstoreMod where
  /-- Buffer record, DST = MEM. -/
  recNo : BitVec 6
  /-- Policy k-register, DST = MEM. -/
  pol : BitVec 6
  /-- 0 SPAD, 1 MEM, 2 QUEUE. -/
  dst : BitVec 2
  /-- 0 ROW, 1 COL, 2 BLK8, 3 PANEL. -/
  lay : BitVec 2
  /-- 0 FP32, 1 BF16, 2 FP16, 3 I8. -/
  fmt : BitVec 2
  /-- 1: scale row r by the factor in lane r of b. -/
  rf : BitVec 1
  /-- k-register of the I8 scale. -/
  sc : BitVec 6
deriving DecidableEq, Repr

/-- The QPOP modifier word (R246). -/
structure QpopMod where
  /-- 1: the entry stays at the head. -/
  peek : BitVec 1
  /-- Feed form: words - 1. -/
  cnt : BitVec 5
deriving DecidableEq, Repr

/-- The copy modifier word (Table 17.11, R267). -/
structure CopyMod where
  /-- Quarter of the target queue. -/
  qtr : BitVec 2
  /-- Operand queue. -/
  qn : BitVec 4
  /-- SMELT: 0 KEY, 1 VALUE. -/
  val : BitVec 1
  /-- CPYM: members of the cluster group. -/
  mask : BitVec 8
  /-- CPYIX: 1 takes indices from a vector register. -/
  ixv : BitVec 1
  /-- CPYIX: index count - 1. -/
  ixc : BitVec 5
  /-- CPYIX: k-register number or vector field. -/
  ix : BitVec 6
deriving DecidableEq, Repr

/-- The three logs of a die that the driver frees by a read index (R327, R340). -/
inductive LogKind where
  | violation
  | array
  | bus
deriving DecidableEq, Repr

/-- The management registers of Table 29.1 that have no event row of their own (R365). The manual gives no offsets
inside the per-queue, per-context and per-cluster blocks, so a register is named by what it holds. -/
inductive MgmtReg where
  | qbase (q : Nat) | qlog (q : Nat) | qctx (q : Nat) | cbase (q : Nat) | tailpa (q : Nat) | headpa (q : Nat)
  | topTable (ctx : Nat) | privileged (ctx : Nat) | tenant (ctx : Nat) | checkMode (ctx : Nat) | routing (ctx : Nat)
  | wdl (ctx : Nat) | pinQuota (ctx : Nat) | bpmask (ctx : Nat) | shtbase (ctx : Nat) | shtlen (ctx : Nat)
  | fqbase (ctx : Nat) | fqlog (ctx : Nat) | swapbase (ctx : Nat) | swaplen (ctx : Nat)
  /-- CMD0 to CMD15 (Table 29.4). -/
  | cmd (n : Nat)
  /-- CMDGO: writing 1 starts the command (R373). -/
  | cmdgo
  /-- DBGSEL1 to DBGSEL3 (Table 29.7). -/
  | dbgsel (n : Nat)
  /-- CLBUDGET, written by firmware (R357). -/
  | clbudget (cl : Nat)
  /-- A read-only register: the write is ignored (Table 0.4). -/
  | readOnly (off : Nat)
  /-- An offset that Table 29.1 does not name: the write is ignored (R365). -/
  | unnamed (off : Nat)
deriving DecidableEq, Repr

/-- The instructions of Table 9.10, the clause header of Table 9.1, and the events of the package: one constructor a row of
spec/opcode_table.json. -/
inductive Instr where
  /-- IADD (R145): Adds two 32-bit integers modulo 2^32. -/
  | iadd (d : Field) (a : Field) (b : Field) (g : Guard)
  /-- IADDC (R146): Adds with carry in and out through the carry predicate. -/
  | iaddc (d : Field) (a : Field) (b : Field) (g : Guard)
  /-- ISUB (R145): Subtracts two 32-bit integers modulo 2^32. -/
  | isub (d : Field) (a : Field) (b : Field) (g : Guard)
  /-- ISUBB (R146): Subtracts with borrow through the carry predicate. -/
  | isubb (d : Field) (a : Field) (b : Field) (g : Guard)
  /-- IMUL (R145): Writes the low 32 bits of a 32-bit product. -/
  | imul (d : Field) (a : Field) (b : Field) (g : Guard)
  /-- IMULHS (R145): Writes the high 32 bits of a signed product. -/
  | imulhs (d : Field) (a : Field) (b : Field) (g : Guard)
  /-- IMULHU (R145): Writes the high 32 bits of an unsigned product. -/
  | imulhu (d : Field) (a : Field) (b : Field) (g : Guard)
  /-- IMAD (R145): Multiplies and adds d modulo 2^32. -/
  | imad (d : Field) (a : Field) (b : Field) (g : Guard)
  /-- IMAD64 (R145): Adds an unsigned 32x32 product to a 64-bit pair. -/
  | imad64 (d : Field) (a : Field) (b : Field) (g : Guard)
  /-- IDIV (R147): Signed division toward zero, with defined results for zero and overflow. -/
  | idiv (d : Field) (a : Field) (b : Field) (g : Guard)
  /-- IDIVU (R147): Unsigned division, giving all ones for a zero divisor. -/
  | idivu (d : Field) (a : Field) (b : Field) (g : Guard)
  /-- IREM (R147): Signed remainder taking the dividend's sign. -/
  | irem (d : Field) (a : Field) (b : Field) (g : Guard)
  /-- IREMU (R147): Unsigned remainder, giving a for a zero divisor. -/
  | iremu (d : Field) (a : Field) (b : Field) (g : Guard)
  /-- IMIN (R145): Signed minimum. -/
  | imin (d : Field) (a : Field) (b : Field) (g : Guard)
  /-- IMAX (R145): Signed maximum. -/
  | imax (d : Field) (a : Field) (b : Field) (g : Guard)
  /-- IMINU (R145): Unsigned minimum. -/
  | iminu (d : Field) (a : Field) (b : Field) (g : Guard)
  /-- IMAXU (R145): Unsigned maximum. -/
  | imaxu (d : Field) (a : Field) (b : Field) (g : Guard)
  /-- IABS (R145): Absolute value modulo 2^32. -/
  | iabs (d : Field) (a : Field) (g : Guard)
  /-- ICMP (R149): Signed integer compare into one predicate. -/
  | icmp (path : BitVec 1) (cond : BitVec 3) (pred : BitVec 3) (a : Field) (b : Field) (g : Guard)
  /-- ICMPU (R149): Unsigned integer compare into one predicate. -/
  | icmpu (path : BitVec 1) (cond : BitVec 3) (pred : BitVec 3) (a : Field) (b : Field) (g : Guard)
  /-- IADD64 (R145): 64-bit pair addition. -/
  | iadd64 (d : Field) (a : Field) (b : Field) (g : Guard)
  /-- ISUB64 (R145): 64-bit pair subtraction. -/
  | isub64 (d : Field) (a : Field) (b : Field) (g : Guard)
  /-- IMUL64 (R145): Low 64 bits of a 64-bit product. -/
  | imul64 (d : Field) (a : Field) (b : Field) (g : Guard)
  /-- LEA (R148): Adds a shifted index into the base held in d. -/
  | lea (d : Field) (a : Field) (b : Field) (g : Guard)
  /-- LEA64 (R148): Adds a sign-extended shifted index into a 64-bit base. -/
  | lea64 (d : Field) (a : Field) (b : Field) (g : Guard)
  /-- AND (R151): Bitwise AND. -/
  | and (d : Field) (a : Field) (b : Field) (g : Guard)
  /-- OR (R151): Bitwise OR. -/
  | or (d : Field) (a : Field) (b : Field) (g : Guard)
  /-- XOR (R151): Bitwise XOR. -/
  | xor (d : Field) (a : Field) (b : Field) (g : Guard)
  /-- ANDN (R151): a AND NOT b. -/
  | andn (d : Field) (a : Field) (b : Field) (g : Guard)
  /-- ORN (R151): a OR NOT b. -/
  | orn (d : Field) (a : Field) (b : Field) (g : Guard)
  /-- SHL (R151): Logical left shift, zero for counts of 32 or more. -/
  | shl (d : Field) (a : Field) (b : Field) (g : Guard)
  /-- SHR (R151): Logical right shift. -/
  | shr (d : Field) (a : Field) (b : Field) (g : Guard)
  /-- SAR (R151): Arithmetic right shift. -/
  | sar (d : Field) (a : Field) (b : Field) (g : Guard)
  /-- ROTL (R151): Left rotation by b[4:0]. -/
  | rotl (d : Field) (a : Field) (b : Field) (g : Guard)
  /-- FSHL (R152): 64-bit funnel shift left of {d, a}. -/
  | fshl (d : Field) (a : Field) (b : Field) (g : Guard)
  /-- FSHR (R152): 64-bit funnel shift right of {a, d}. -/
  | fshr (d : Field) (a : Field) (b : Field) (g : Guard)
  /-- BFE (R153): Extracts a bit field, optionally sign-extended. -/
  | bfe (d : Field) (a : Field) (b : Field) (g : Guard)
  /-- BFI (R153): Inserts a bit field into d. -/
  | bfi (d : Field) (a : Field) (b : Field) (g : Guard)
  /-- POPC (R154): Population count. -/
  | popc (d : Field) (a : Field) (g : Guard)
  /-- CLZ (R154): Count of leading zeros of a 32-bit value. -/
  | clz (d : Field) (a : Field) (g : Guard)
  /-- CLZ64 (R154): Count of leading zeros of a 64-bit pair. -/
  | clz64 (d : Field) (a : Field) (g : Guard)
  /-- BREV (R154): Bit reversal. -/
  | brev (d : Field) (a : Field) (g : Guard)
  /-- BYTEP (R155): Byte permutation of {b, a} under the selector in d. -/
  | bytep (d : Field) (a : Field) (b : Field) (g : Guard)
  /-- SEL (R156): Selects a or b by the predicate that g names. -/
  | sel (d : Field) (a : Field) (b : Field) (s : BitVec 3)
  /-- FADD (R157): FP32 addition. -/
  | fadd (d : Field) (a : Field) (b : Field) (g : Guard)
  /-- FSUB (R157): FP32 subtraction. -/
  | fsub (d : Field) (a : Field) (b : Field) (g : Guard)
  /-- FMUL (R157): FP32 multiplication. -/
  | fmul (d : Field) (a : Field) (b : Field) (g : Guard)
  /-- FFMA (R157): FP32 fused multiply-add into d. -/
  | ffma (d : Field) (a : Field) (b : Field) (g : Guard)
  /-- FMIN (R157): FP32 minimum under R46. -/
  | fmin (d : Field) (a : Field) (b : Field) (g : Guard)
  /-- FMAX (R157): FP32 maximum under R46. -/
  | fmax (d : Field) (a : Field) (b : Field) (g : Guard)
  /-- FCMP (R150): FP32 compare into one predicate. -/
  | fcmp (path : BitVec 1) (cond : BitVec 3) (pred : BitVec 3) (a : Field) (b : Field) (g : Guard)
  /-- FCLASS (R158): Writes a one-hot class mask of a. -/
  | fclass (d : Field) (a : Field) (g : Guard)
  /-- FRND (R159): Rounds an FP32 value to an integral value. -/
  | frnd (d : Field) (a : Field) (m : BitVec 3) (g : Guard)
  /-- FSCL (R157): Scales an FP32 value by a power of two. -/
  | fscl (d : Field) (a : Field) (b : Field) (g : Guard)
  /-- HADD2 (R160): Packed FP16 addition. -/
  | hadd2 (d : Field) (a : Field) (b : Field) (g : Guard)
  /-- HMUL2 (R160): Packed FP16 multiplication. -/
  | hmul2 (d : Field) (a : Field) (b : Field) (g : Guard)
  /-- HFMA2 (R160): Packed FP16 fused multiply-add. -/
  | hfma2 (d : Field) (a : Field) (b : Field) (g : Guard)
  /-- HMIN2 (R160): Packed FP16 minimum. -/
  | hmin2 (d : Field) (a : Field) (b : Field) (g : Guard)
  /-- HMAX2 (R160): Packed FP16 maximum. -/
  | hmax2 (d : Field) (a : Field) (b : Field) (g : Guard)
  /-- HCMP2 (R160): Packed FP16 compare into two predicates. -/
  | hcmp2 (path : BitVec 1) (cond : BitVec 3) (pred : BitVec 3) (a : Field) (b : Field) (g : Guard)
  /-- BADD2 (R160): Packed BF16 addition. -/
  | badd2 (d : Field) (a : Field) (b : Field) (g : Guard)
  /-- BMUL2 (R160): Packed BF16 multiplication. -/
  | bmul2 (d : Field) (a : Field) (b : Field) (g : Guard)
  /-- BFMA2 (R160): Packed BF16 fused multiply-add. -/
  | bfma2 (d : Field) (a : Field) (b : Field) (g : Guard)
  /-- BMIN2 (R160): Packed BF16 minimum. -/
  | bmin2 (d : Field) (a : Field) (b : Field) (g : Guard)
  /-- BMAX2 (R160): Packed BF16 maximum. -/
  | bmax2 (d : Field) (a : Field) (b : Field) (g : Guard)
  /-- BCMP2 (R160): Packed BF16 compare into two predicates. -/
  | bcmp2 (path : BitVec 1) (cond : BitVec 3) (pred : BitVec 3) (a : Field) (b : Field) (g : Guard)
  /-- DADD (R161): FP64 addition on register pairs. -/
  | dadd (d : Field) (a : Field) (b : Field) (g : Guard)
  /-- DMUL (R161): FP64 multiplication on register pairs. -/
  | dmul (d : Field) (a : Field) (b : Field) (g : Guard)
  /-- DFMA (R161): FP64 fused multiply-add on register pairs. -/
  | dfma (d : Field) (a : Field) (b : Field) (g : Guard)
  /-- DCMP (R161): FP64 compare into one predicate. -/
  | dcmp (path : BitVec 1) (cond : BitVec 3) (pred : BitVec 3) (a : Field) (b : Field) (g : Guard)
  /-- CVTF (R162): Converts a value to an FP format. -/
  | cvtf (d : Field) (a : Field) (h : BitVec 1) (src : BitVec 3) (dst : BitVec 2) (g : Guard)
  /-- CVTI (R163): Converts an FP value to an integer under a rounding mode. -/
  | cvti (d : Field) (a : Field) (mode : BitVec 3) (dst : BitVec 2) (src : BitVec 2) (g : Guard)
  /-- PACK2 (R164): Packs a register pair into two 16-bit elements. -/
  | pack2 (d : Field) (a : Field) (m : BitVec 3) (g : Guard)
  /-- RCP (R165): Faithfully rounded reciprocal on the SFU. -/
  | rcp (d : Field) (a : Field) (g : Guard)
  /-- RSQ (R165): Faithfully rounded reciprocal square root. -/
  | rsq (d : Field) (a : Field) (g : Guard)
  /-- SQRT (R165): Correctly rounded square root under RM. -/
  | sqrt (d : Field) (a : Field) (g : Guard)
  /-- EXP2 (R165): Faithfully rounded 2^a. -/
  | exp2 (d : Field) (a : Field) (g : Guard)
  /-- LOG2 (R165): Faithfully rounded log2 a. -/
  | log2 (d : Field) (a : Field) (g : Guard)
  /-- SINP (R165): Faithfully rounded sin(pi a). -/
  | sinp (d : Field) (a : Field) (g : Guard)
  /-- COSP (R165): Faithfully rounded cos(pi a). -/
  | cosp (d : Field) (a : Field) (g : Guard)
  /-- TANH (R165): Faithfully rounded tanh a. -/
  | tanh (d : Field) (a : Field) (g : Guard)
  /-- MOV (R166): Copies bits between vector and uniform registers in four forms including V2K and K2V. -/
  | mov (d : Field) (a : Field) (g : Guard)
  /-- MOVI (R167): Loads a sign-extended 14-bit immediate. -/
  | movi (d : Field) (i : BitVec 14) (g : Guard)
  /-- MOVL (R167): Loads the following 32-bit literal word. -/
  | movl (d : Field) (g : Guard) (lit : Word)
  /-- BRA (R171): PC-relative branch by vote, splitting the bundle when votes are mixed. -/
  | bra (n : BitVec 1) (i : BitVec 14) (g : Guard)
  /-- BRAU (R172): Uniform branch on one q-predicate, moving only the issuing bundle. -/
  | brau (n : BitVec 1) (q : BitVec 2) (i : BitVec 14) (g : Guard)
  /-- JMP (R173): Jump by a signed word offset in the literal word. -/
  | jmp (g : Guard) (lit : Word)
  /-- JMPI (R173): Indirect jump to each thread's code address. -/
  | jmpi (a : Field) (g : Guard)
  /-- CALL (R175): PC-relative call pushing the return address on the call state. -/
  | call (i : BitVec 14) (g : Guard)
  /-- CALLI (R175): Indirect call to each thread's code address. -/
  | calli (a : Field) (g : Guard)
  /-- RET (R176): Pops the return stack, refilling from the spill area when empty. -/
  | ret (g : Guard)
  /-- REFORM (R178): Files the bundle's threads under its PC so that they reconverge. -/
  | reform
  /-- EXIT (R179): Ends each active guarded thread and clears its LIVEMASK bit. -/
  | exit (g : Guard)
  /-- NOP (R178): Changes nothing. -/
  | nop
  /-- YIELD (R178): Makes the bundle wait for 8 cycles. -/
  | yieldI
  /-- VOTE (R182): Crew vote per tile into a ballot and predicate. -/
  | vote (d : Field) (g : Guard) (m : CrewMod)
  /-- SHFL (R183): Moves values between lanes within a tile. -/
  | shfl (d : Field) (a : Field) (b : Field) (g : Guard) (m : CrewMod)
  /-- CRED (R184): Crew reduction over a fixed tree. -/
  | cred (d : Field) (a : Field) (g : Guard) (m : CrewMod)
  /-- CSCAN (R184): Crew inclusive or exclusive scan over a fixed tree. -/
  | cscan (d : Field) (a : Field) (g : Guard) (m : CrewMod)
  /-- MATCH (R185): Finds lanes of a tile holding equal values. -/
  | matchEq (d : Field) (a : Field) (g : Guard) (m : CrewMod)
  /-- CSYNC (R186): Joins the arrived threads of a crew into one bundle. -/
  | csync (g : Guard) (m : CrewMod)
  /-- BAR (R187): Block or cluster-group barrier with fence semantics. -/
  | bar (scope : BitVec 1) (id : BitVec 4)
  /-- LBAR (R189): Launch-wide barrier. -/
  | lbar
  /-- WAITCMP (R192): Arms monitors and waits until each lane's location satisfies a compare. -/
  | waitcmp (u : BitVec 1) (cond : BitVec 3) (a : Field) (b : Field) (g : Guard) (m : MemMod)
  /-- FENCE (R193): Acquire, release or acquire-release fence of a scope. -/
  | fence (ord : BitVec 2) (scope : BitVec 3)
  /-- FENCEO (R194): Cheap owner side of the asymmetric fence pair. -/
  | fenceo
  /-- FENCER (R194): Remote side of the asymmetric pair, draining and invalidating every core in scope. -/
  | fencer (scope : BitVec 3)
  /-- PLOP (R195): Predicate logic by a 4-entry lookup table. -/
  | plop (path : BitVec 1) (r : BitVec 3) (pb : BitVec 3) (pa : BitVec 3) (lut : BitVec 4) (g : Guard)
  /-- P2V (R196): Copies predicates into a register. -/
  | p2v (d : Field) (g : Guard)
  /-- V2P (R196): Sets predicates from register bits under a mask. -/
  | v2p (path : BitVec 1) (a : Field) (b : Field) (g : Guard)
  /-- RDSR (R197): Reads a special register. -/
  | rdsr (d : Field) (i : BitVec 7) (g : Guard)
  /-- WRSR (R198): Writes ABND, CFPM or CFPS from a k-register. -/
  | wrsr (a : BitVec 6) (i : BitVec 7) (g : Guard)
  /-- WINB_IMM (R200): Sets the window base from an immediate. -/
  | winbImm (i : BitVec 7) (g : Guard)
  /-- WINB_REG (R200): Sets the window base from a k-register. -/
  | winbReg (a : BitVec 6) (g : Guard)
  /-- CPART (R201): Sets the crew's tile partition width. -/
  | cpart (w : BitVec 3) (g : Guard)
  /-- TRAP (R202): Raises a software trap or breakpoint with a code. -/
  | trap (c : BitVec 7) (g : Guard)
  /-- CANCEL_SELF (R203): Cancels the level of the named kind that encloses the issuing launch. -/
  | cancelSelf (l : BitVec 2) (g : Guard)
  /-- CANCEL_ID (R203): Cancels the level whose id a k-register holds. -/
  | cancelId (a : BitVec 6) (l : BitVec 2) (g : Guard)
  /-- WQPOP (R206): Pops an entry from the launch's work queue. -/
  | wqpop (d : BitVec 6) (q : BitVec 2) (g : Guard)
  /-- WQPUSH (R206): Pushes an entry onto the launch's work queue. -/
  | wqpush (a : BitVec 6) (q : BitVec 2) (g : Guard)
  /-- LD (R214): Record-based vector load. -/
  | ld (d : Field) (a : Field) (b : Field) (g : Guard) (m : MemMod)
  /-- ST (R214): Record-based vector store into the store buffer. -/
  | st (d : Field) (a : Field) (g : Guard) (m : MemMod)
  /-- LDK (R214): Record-based uniform load. -/
  | ldk (d : Field) (a : Field) (b : Field) (g : Guard) (m : MemMod)
  /-- STK (R214): Record-based uniform store. -/
  | stk (d : Field) (a : Field) (g : Guard) (m : MemMod)
  /-- LDS (R215): Scratchpad load. -/
  | lds (d : Field) (a : Field) (b : Field) (g : Guard) (m : MemMod)
  /-- STS (R215): Scratchpad store. -/
  | sts (d : Field) (a : Field) (g : Guard) (m : MemMod)
  /-- STSM (R215): Masked scratchpad store. -/
  | stsm (d : Field) (a : Field) (b : Field) (g : Guard) (m : MemMod)
  /-- LDP (R218): Load from a cluster-group member's scratchpad. -/
  | ldp (d : Field) (a : Field) (b : Field) (g : Guard) (m : MemMod)
  /-- STP (R218): Store to a cluster-group member's scratchpad. -/
  | stp (d : Field) (a : Field) (b : Field) (g : Guard) (m : MemMod)
  /-- LDX (R214): Unaligned record-based load. -/
  | ldx (d : Field) (a : Field) (b : Field) (g : Guard) (m : MemMod)
  /-- STM (R214): Masked, unaligned record-based store. -/
  | stm (d : Field) (a : Field) (b : Field) (g : Guard) (m : MemMod)
  /-- ATOM (R219): Vector atomic returning the old value. -/
  | atom (d : Field) (a : Field) (b : Field) (g : Guard) (m : MemMod)
  /-- ATOMK (R219): Uniform atomic returning the old value. -/
  | atomk (d : Field) (a : Field) (b : Field) (g : Guard) (m : MemMod)
  /-- RED (R219): Vector atomic that returns nothing. -/
  | red (d : Field) (a : Field) (b : Field) (g : Guard) (m : MemMod)
  /-- CAS (R220): Vector compare-and-swap with success predicate. -/
  | cas (d : Field) (a : Field) (b : Field) (g : Guard) (m : MemMod)
  /-- INVL1 (R222): Flash-invalidates every L1 line of the context in the core. -/
  | invl1 (g : Guard)
  /-- INVL1_LINE (R222): Invalidates the L1 line holding one virtual address. -/
  | invl1Line (a : BitVec 6) (g : Guard)
  /-- PREF (R223): Starts an unordered prefetch fill. -/
  | pref (a : Field) (b : Field) (g : Guard) (m : MemMod)
  /-- RECLD (R224): Validates and loads a buffer record from k-registers or memory. -/
  | recld (a : Field) (b : Field) (g : Guard) (m : MemMod)
  /-- PIN (R225): Requests a pin contract from the contract sequencer. -/
  | pin (d : Field) (a : Field) (g : Guard) (m : ContractMod)
  /-- UNPIN (R225): Ends an EXPLICIT pin. -/
  | unpin (d : Field) (a : Field) (g : Guard) (m : ContractMod)
  /-- CCTR (R225): Sets one tenant's way mask on a set of slices. -/
  | cctr (d : Field) (a : Field) (g : Guard) (m : ContractMod)
  /-- STPART (R225): Changes the kind of a range of granules of one slice. -/
  | stpart (d : Field) (a : Field) (g : Guard) (m : ContractMod)
  /-- KVAPP (R229): Appends one token's key and value rows to KV pages. -/
  | kvapp (a : Field) (g : Guard) (m : KvMod)
  /-- KVFORK (R230): Raises a KV page's reference count. -/
  | kvfork (d : Field) (a : Field) (g : Guard) (m : KvMod)
  /-- KVFREE (R230): Lowers a KV page's reference count, freeing it at zero. -/
  | kvfree (a : Field) (g : Guard) (m : KvMod)
  /-- KVHM (R231): Reads a key page's hallmark and token count. -/
  | kvhm (d : Field) (a : Field) (g : Guard) (m : KvMod)
  /-- ASSAY (R232): Bounds page scores from hallmarks and writes a gather list. -/
  | assay (d : Field) (a : Field) (g : Guard) (m : KvMod)
  /-- GREAD (R234): Reads a girth slot at its passage. -/
  | gread (d : Field) (a : Field) (g : Guard) (m : GirthMod)
  /-- GUPD (R234): Atomically updates a girth slot word. -/
  | gupd (d : Field) (a : Field) (b : Field) (g : Guard) (m : GirthMod)
  /-- GCINCH (R234): Captures a girth slot for one revolution. -/
  | gcinch (d : Field) (a : Field) (g : Guard) (m : GirthMod)
  /-- GCLOSE (R234): Writes and releases a held girth slot at the ending passage. -/
  | gclose (a : Field) (b : Field) (g : Guard) (m : GirthMod)
  /-- GMOUNT (R234): Boards an empty segment slot with a tag and data. -/
  | gmount (d : Field) (a : Field) (b : Field) (g : Guard) (m : GirthMod)
  /-- GDISMT (R234): Alights a girth slot by id or by tag. -/
  | gdismt (d : Field) (a : Field) (g : Guard) (m : GirthMod)
  /-- GFENCE (R236): Fence that also orders girth operations. -/
  | gfence (scope : BitVec 3)
  /-- MMAB (R250): BF16 matrix multiply-accumulate from operand queues. -/
  | mmab (d : Field) (a : Field) (b : Field) (m : MmaMod)
  /-- MMAH (R250): FP16 matrix multiply-accumulate. -/
  | mmah (d : Field) (a : Field) (b : Field) (m : MmaMod)
  /-- MMAI8 (R250): Grouped I8 matrix multiply-accumulate. -/
  | mmai8 (d : Field) (a : Field) (b : Field) (m : MmaMod)
  /-- MMAI84 (R250): Grouped I8 by I4 matrix multiply-accumulate. -/
  | mmai84 (d : Field) (a : Field) (b : Field) (m : MmaMod)
  /-- MMAI4 (R250): Grouped I4 matrix multiply-accumulate. -/
  | mmai4 (d : Field) (a : Field) (b : Field) (m : MmaMod)
  /-- ACLR (R253): Clears an accumulator tile and its partials. -/
  | aclr (d : Field)
  /-- ALOAD (R254): Loads a tile from scratchpad. -/
  | aload (d : Field) (a : Field) (m : AloadMod)
  /-- ASTORE (R255): Writes a tile to scratchpad, memory or a queue with conversion. -/
  | astore (d : Field) (a : Field) (b : Field) (m : AstoreMod)
  /-- AROWMX (R259): Integer ceiling of each row maximum against a reference. -/
  | arowmx (d : Field) (a : Field) (b : Field)
  /-- AEXPB (R260): Forms power-of-two softmax weights, optionally pushing a panel. -/
  | aexpb (d : Field) (a : Field) (b : Field) (push : BitVec 1)
  /-- ASHIFT (R261): Scales each tile row by a power of two. -/
  | ashift (d : Field) (b : Field)
  /-- AROWSM (R262): Sums each tile row from a starting value. -/
  | arowsm (d : Field) (a : Field) (b : Field)
  /-- QPUSH (R245): Pushes one entry into a queue window of the crew's quarter. -/
  | qpush (d : Field) (a : Field)
  /-- QPOP (R246): Pops or peeks the head entry of a queue window. -/
  | qpop (d : Field) (a : Field) (b : Field) (m : QpopMod)
  /-- QSTAT (R247): Crew form: reads the state of a window of its own quarter. -/
  | qstat (d : BitVec 6) (a : Field)
  /-- QSTAT_FEED (R247): Feed form: reads the state of a window of a named quarter. -/
  | qstatFeed (d : BitVec 6) (a : Field) (b : Field)
  /-- CPY (R270): Copies a descriptor box into scratchpad as its dense image. -/
  | cpy (a : Field) (m : CopyMod)
  /-- CPYM (R271): Multicasts a box into several cluster-group scratchpads. -/
  | cpym (a : Field) (m : CopyMod)
  /-- CPYQ (R272): Copies a box as panels into an operand queue. -/
  | cpyq (a : Field) (m : CopyMod)
  /-- CPYIX (R273): Gathers indexed rows into scratchpad. -/
  | cpyix (a : Field) (m : CopyMod)
  /-- SMELT (R276): Streams KV pages as panels into an operand queue. -/
  | smelt (a : Field) (m : CopyMod)
  /-- CPYS (R274): Copies a scratchpad image out to a descriptor box. -/
  | cpys (a : Field) (m : CopyMod)
  /-- TXPOSE (R275): Transposes a rank-2 box through a slice transpose unit. -/
  | txpose (a : Field) (m : CopyMod)
  /-- TDMK (R265): Reads, validates and registers a tensor descriptor. -/
  | tdmk (d : Field) (a : Field) (m : MemMod)
  /-- TDFREE (R266): Frees a tensor-descriptor handle. -/
  | tdfree (a : BitVec 6)
  /-- FEND (R277): Ends the feed thread. -/
  | fend
  /-- CLAUSE_HEADER (R108): Header word issued with a clause's first instruction, checking WAIT and fixing SETA, SETB and LEN. -/
  | clauseHeader (wait : BitVec 12) (seta : BitVec 4) (setb : BitVec 4) (len : BitVec 4)
  /-- ISSUE_SELECT (R19): Each cycle the quarter issue stage picks at most one vector-path and one uniform-path candidate by rank. -/
  | issueSelect (core : Nat) (qtr : Nat)
  /-- BAR_RESUME (R187): Barrier threads resume 6 or 40 cycles after the completing arrival. -/
  | barResume (blk : Nat) (id : Nat) (cluster : Bool)
  /-- LBAR_RELEASE_WINDOW (R190): Each 128-cycle window releases six clusters of LBAR-waiting blocks. -/
  | lbarReleaseWindow (l : Nat)
  /-- YIELD_EXPIRE (R178): A yielded bundle becomes ready after 8 cycles. -/
  | yieldExpire (n : Nat)
  /-- WAITCMP_POLL (R192): A WAITCMP without a monitor re-reads every 1,024 or 4,096 cycles. -/
  | waitcmpPoll (n : Nat)
  /-- CANCEL_STOP (R204): The stop reaches a crew, which halts at its next header and whose block counts complete. -/
  | cancelStop (blk : Nat)
  /-- RESULT_LAND (R109): A long-latency result lands in its registers, tile or predicate. -/
  | resultLand (n : Nat)
  /-- STORE_BUFFER_LEAVE (R87): A store-buffer entry is taken by the L1 port and sent to its home point. -/
  | storeBufferLeave (n : Nat)
  /-- STORE_ACK (R87): A store is acknowledged at its home point. -/
  | storeAck (n : Nat)
  /-- FENCER_VISIT (R91): FENCER drains and invalidates one core, fixing its serialisation instant. -/
  | fencerVisit (n : Nat)
  /-- ENGINE_WRITE_LAND (R101): An engine write lands at scratchpad or its home point. -/
  | engineWriteLand (n : Nat)
  /-- PANEL_LAND (R242): A queue entry lands and may be popped in reservation order. -/
  | panelLand (n : Nat)
  /-- ENGINE_COMPLETE (R99): An engine operation completes and signals its completion object. -/
  | engineComplete (n : Nat)
  /-- CREW_START (R308): A placed block's crews first issue 128 cycles after placement. -/
  | crewStart (blk : Nat)
  /-- BLOCK_COMPLETE (R10): A block completes and releases its resources, decrementing its launch counter. -/
  | blockComplete (blk : Nat)
  /-- LEVEL_COMPLETE (R306): A launch, graph, phase or job completes after its pins have ended. -/
  | levelComplete (kind : Nat) (n : Nat)
  /-- CXL_SNOOP (R364): A host snoop invalidates a device-held Shared line. -/
  | cxlSnoop (line : Nat)
  /-- TAIL_REREAD (R303): The dispatcher re-reads a lost tail line within 32 cycles. -/
  | tailReread (q : Nat)
  /-- RECORD_TAKE (R305): A launch record is read, checked, and accepted or refused. -/
  | recordTake (q : Nat)
  /-- LAUNCH_RELEASE (R307): A launch is released once every predecessor has completed DONE. -/
  | launchRelease (l : Nat)
  /-- SEGMENT_CLEAR (R284): A launch's girth segment is cleared during a revolution after release or after its end. -/
  | segmentClear (l : Nat)
  /-- LAUNCH_BLOCKING (R308): A launch whose next block has waited 65,536 cycles becomes blocking. -/
  | launchBlocking (l : Nat)
  /-- SWAP_OUT (R319): After its drains a stopped block begins saving its swap state. -/
  | swapOut (blk : Nat)
  /-- SWAP_SAVE_DONE (R320): The block's swap state has been saved. -/
  | swapSaveDone (blk : Nat)
  /-- SWAP_RESTORE (R319): A swapped-out block is placed again and its state restored. -/
  | swapRestore (blk : Nat) (core : Nat)
  /-- FAULT_ENTRY_WRITE (R328): A fault entry is written to the fault queue with MSI-X vector 64. -/
  | faultEntryWrite (n : Nat)
  /-- WATCHDOG (R317): A crew's issue-free count reaches 2^WDL and raises WATCHDOG. -/
  | watchdog (rc : Nat)
  /-- SLICE_SERVE (R77): A slice serves one request in arrival order. -/
  | sliceServe (sl : Nat)
  /-- MSC_FILL (R60): An HBM fill lands in the MSC with its eviction class. -/
  | mscFill (n : Nat)
  /-- WRITEBACK_SEND (R62): The write-back buffer sends its oldest entry toward HBM. -/
  | writebackSend (sl : Nat)
  /-- WRITEBACK_FREE (R62): A write-back entry is freed 8 cycles after it is sent. -/
  | writebackFree (sl : Nat)
  /-- MASK_APPLY (R64): A slice applies a new tenant way mask between two requests. -/
  | maskApply (sl : Nat)
  /-- CONTRACT_COMPLETE (R226): A contract operation completes and its status lands. -/
  | contractComplete (n : Nat)
  /-- PIN_LINE_COPY (R71): One line of a RESIDENT pin is copied from HBM into PIN granules. -/
  | pinLineCopy (p : Nat) (sl : Nat)
  /-- PIN_DRAIN_START (R71): Lifetime end or UNPIN reaches a slice and the pin enters DRAINING. -/
  | pinDrainStart (p : Nat) (sl : Nat)
  /-- PIN_LINE_WRITEBACK (R71): One pinned line begins its write-back. -/
  | pinLineWriteback (p : Nat) (sl : Nat)
  /-- PIN_LINE_WRITTEN (R71): A line's write-back reaches the HBM controller 8 cycles later. -/
  | pinLineWritten (p : Nat) (sl : Nat)
  /-- STPART_APPLY (R76): A slice writes back and invalidates its MSC and rewrites its map. -/
  | stpartApply (n : Nat)
  /-- LINK_WINDOW_END (R79): A 4,096-cycle occupancy window ends and a quiet link narrows. -/
  | linkWindowEnd (link : Nat)
  /-- LINK_WIDEN (R79): A narrowed link's queue reaches 4 flits and it renegotiates to full width. -/
  | linkWiden (link : Nat)
  /-- LINK_RENEGOTIATION_END (R79): A 24-cycle width renegotiation ends. -/
  | linkRenegotiationEnd (link : Nat)
  /-- HMAP_TAKE_EFFECT (R82): An HMAP change takes effect after every slice has flushed the region. -/
  | hmapTakeEffect (r : Nat)
  /-- WALK_LEVEL_READ (R325): A page-walk level read returns and the walk proceeds, installs or faults. -/
  | walkLevelRead (n : Nat)
  /-- KV_COUNT_TEST (R229): A KVAPP's reference-count test is performed at a home slice. -/
  | kvCountTest (n : Nat)
  /-- KVAPP_PERFORM (R229): Both rows are written and the hallmark widened at K's home slice. -/
  | kvappPerform (n : Nat)
  /-- PAGE_EVICT_DONE (R294): An evicting page's copy completes and it becomes EVICTED. -/
  | pageEvictDone (ctx : Nat) (page : Nat)
  /-- PAGE_INSTALL_DONE (R294): An installing page's copy completes and it becomes RESIDENT. -/
  | pageInstallDone (ctx : Nat) (page : Nat)
  /-- KV_PAGE_OP (R230): A fork, free or hallmark read is performed at the page's home slice. -/
  | kvPageOp (n : Nat)
  /-- GIRTH_PASSAGE (R285): A slot passes a stop and the stop acts on one ready operation on it. -/
  | girthPassage (stop : Nat) (slot : Nat)
  /-- HOLD_END (R286): A hold ends one revolution later, applying a ready GCLOSE. -/
  | holdEnd (slot : Nat)
  /-- RESERVATION_EXPIRE (R287): A reservation ends at the reserving stop's next passage. -/
  | reservationExpire (slot : Nat)
  /-- COMPARE_SIGNATURES (R343): A guarded pair's signatures are compared 48 cycles after the later arrival. -/
  | compareSignatures (p : Nat)
  /-- ROLLBACK_RESTORE_DONE (R351): Both blocks are restored and resume at the checkpoint's PC. -/
  | rollbackRestoreDone (p : Nat)
  /-- REENCODE_LINE (R333): The pass rewrites one line in the new mode. -/
  | reencodeLine (sl : Nat)
  /-- SWEEP_LINE (R334): The sweeper reads, decodes and if needed rewrites one line. -/
  | sweepLine (sl : Nat)
  /-- SLICE_EVACUATE (R347): A spare physical slice is brought up with the old slice's state. -/
  | sliceEvacuate (sl : Nat)
  /-- EVAC_LINE_MOVE (R347): One line moves to the spare slice with its state and poison. -/
  | evacLineMove (sl : Nat)
  /-- BUDGET_INTERVAL_START (R357): Each 2,048-cycle interval resets REM and releases waiting requests in order. -/
  | budgetIntervalStart (cl : Nat)
  /-- CLUSTER_PORT_CHARGE (R358): A request at the cluster port is charged or waits for the next interval. -/
  | clusterPortCharge (n : Nat)
  /-- QUOTA_REFILL (R360): Every PERIOD ms REM is refilled and pre-empted blocks become placeable. -/
  | quotaRefill (ctx : Nat)
  /-- SWAP_RESTORE_DONE (R320): A resumed block's saved state has been restored, 400 + ceil(S/128) cycles after the copy begins, and its threads return to their saved states. -/
  | swapRestoreDone (blk : Nat)
  /-- CHECKPOINT_DONE (R343): A guarded pair's checkpoint copy into its PIN area completes 64 + ceil(D/128) cycles after a matching comparison. -/
  | checkpointDone (p : Nat)
  /-- WQ_EXECUTE (R206): The work-queue unit performs one WQPOP or WQPUSH on HEAD and TAIL. -/
  | wqExecute
  /-- CANCEL_ARRIVE (R204): A CANCEL reaches the primary dispatcher and stops placement and release of the level. -/
  | cancelArrive
  /-- PLACE_BLOCK (R308): The dispatcher places the next fitting block of the highest-ranked launch. -/
  | placeBlock
  /-- CONTRACT_DECIDE (R70): The contract sequencer decides and applies one contract operation. -/
  | contractDecide
  /-- HEAT_DECAY (R295): Every 2^20 cycles every live page's heat halves. -/
  | heatDecay
  /-- COMMAND_COMPLETE (R373): A running command completes and CMDSTAT.DONE is set. -/
  | commandComplete
  /-- DBG_RESUME (R374): The selected crew continues from its state. -/
  | dbgResume
  /-- DBG_STEP (R374): The selected crew issues one instruction. -/
  | dbgStep
  /-- DBG_KILL (R374): The selected crew's block is killed. -/
  | dbgKill
  /-- PACKAGE_RESET (R371): Package reset starts GCYC and the start-up order. -/
  | packageReset
  /-- PREEMPT (R318): A block is pre-empted at an instruction boundary of every crew. -/
  | preempt (blk : Nat)
  /-- HMAP_WRITE (R82): The driver writes an HMAP entry. -/
  | hmapWrite (r : Nat) (v : BitVec 16)
  /-- SLCECC_WRITE (R333): A write to SLCECC.MODE starts or restarts the re-encoding pass. -/
  | slceccWrite (sl : Nat) (v : Word)
  /-- SWEEP_FORCE (R334): At a 2,048-cycle window end the sweeper takes one array cycle. -/
  | sweepForce (sl : Nat)
  /-- HBM_ROW_REPAIR (R346): A failing HBM row is remapped to a spare row, or the page retirement is notified. -/
  | hbmRowRepair (row : Nat)
  /-- SLCINJ_WRITE (R348): The driver writes an injection register. -/
  | slcinjWrite (sl : Nat) (which : Bool) (v : DWord)
  /-- YOKE_WINDOW_END (R353): At each 1,024-cycle window end the yoke sets band, PREF, ballast and gating. -/
  | yokeWindowEnd (pair : Nat) (iu : BitVec 12) (il : BitVec 12)
  /-- ENERGY_CHARGE (R359): Each 1,024-cycle window charges a block's energy to its context. -/
  | energyCharge (blk : Nat) (amount : Nat)
  /-- EQCFG_WRITE (R360): A write to EQCFG sets REM to QUOTA and restarts the period. -/
  | eqcfgWrite (ctx : Nat) (v : DWord)
  /-- FEATACC_WRITE (R368): The driver writes the accepted feature set. -/
  | feataccWrite (v : Word)
  /-- CREAD_WRITE (R366): The driver frees completion entries. -/
  | creadWrite (q : Nat) (v : Word)
  /-- FQREAD_WRITE (R328): The driver frees fault-queue entries, letting pending entries be written. -/
  | fqreadWrite (ctx : Nat) (v : Word)
  /-- REGISTER_WRITE (R365): A write to a management register without behaviour of its own, or to an unnamed offset, which is ignored. -/
  | registerWrite (r : MgmtReg) (v : DWord)
  /-- SHOOTDOWN (R326): Removes matching TLB entries and completes after old translations' accesses. -/
  | shootdown (ctx : Nat) (base : Nat) (len : Nat)
  /-- FAULT_RESUME (R314): The faulted crew continues at its resume point. `seq` is the SEQ of an entry of the context's fault queue, or 2^32 plus that
  of an entry of the ring in firmware space, which firmware serves (log 42). -/
  | faultResume (ctx : Nat) (seq : Nat)
  /-- FAULT_SKIP (R314): The faulted crew continues at the word after the faulting instruction. -/
  | faultSkip (ctx : Nat) (seq : Nat)
  /-- FAULT_KILL (R314): The faulted block is stopped and its launch ends KILLED. -/
  | faultKill (ctx : Nat) (seq : Nat)
  /-- FAULT_CANCEL (R314): Cancels a named level in answer to a fault entry. -/
  | faultCancel (ctx : Nat) (seq : Nat) (level : BitVec 2) (id : Word)
  /-- REPAIR_SPARE_CORE (R346): A spare core takes a logical core's number and stop. -/
  | repairSpareCore (core : Nat)
  /-- REPAIR_CLUSTER_DRAIN (R346): Every block of a cluster is swapped out and it leaves placement. -/
  | repairClusterDrain (cl : Nat)
  /-- REPAIR_CLUSTER_RETURN (R346): A drained cluster returns to placement. -/
  | repairClusterReturn (cl : Nat)
  /-- REPAIR_SPARE_SLICE (R347): Starts evacuation of a slice to a spare. -/
  | repairSpareSlice (sl : Nat)
  /-- REPAIR_HBM_PAGE_RETIRE (R346): Retires a 32 KiB HBM page. -/
  | repairHbmPageRetire (pa : Nat)
  /-- RESCTR (R292): Creates a reserve contract from a host record. -/
  | resctr (ctx : Nat) (pa : Nat)
  /-- RESEND (R292): Ends a context's reserve contract. -/
  | resend (ctx : Nat)
  /-- CTXEND (R373): Ends a context, cancelling its work and returning its areas. -/
  | ctxend (ctx : Nat)
  /-- COMMAND_UNKNOWN (R373): An unlisted command opcode completes at once with BADARG. -/
  | commandUnknown (op : Nat)
  /-- DBGSEL0_WRITE (R374): Selects a context and clears DBGSTAT.ERR. -/
  | dbgsel0Write (v : Word)
  /-- DBG_STATE_WRITE (R374): Writes the selected crew's state, accepted only while it is halted or awaits service. -/
  | dbgStateWrite (off : Nat) (v : Word)
  /-- HOST_MEM_ACCESS (R363): A CXL.mem access is served at its home slice. -/
  | hostMemAccess (port : Nat) (addr : Nat) (data : List Byte) (write : Bool)
  /-- LINK_RETRAIN (R364): A CXL link error retrains the link, holding requests. -/
  | linkRetrain (port : Nat)
  /-- FIRMWARE_UPDATE (R369): A signed firmware image is verified and installed live or rejected. -/
  | firmwareUpdate (svn : Nat) (image : Nat)
  /-- SPDM_REQUEST (R370): An SPDM attestation message over the DOE mailbox is answered. -/
  | spdmRequest (port : Nat) (msg : Nat)
  /-- LINK_UP (R371): A CXL port finishes training or retraining with its link partner, so the management space opens at start-up or held requests move again. -/
  | linkUp (port : Nat)
  /-- LOG_READ_INDEX_WRITE (R327): The driver advances the read index of a die's violation, array or bus log, freeing entries so that new events are logged rather than dropped. -/
  | logReadIndexWrite (die : Nat) (log : LogKind) (v : Nat)
  /-- BIN_AGED (R18): A bin's oldest entry reaches BAGE cycles of waiting and becomes eligible to issue. -/
  | binAged (n : Nat)
  /-- BIN_OVERDUE (R18): A candidate reaches 4 x BAGE cycles of waiting and takes rank 1. -/
  | binOverdue (n : Nat)
deriving DecidableEq, Repr

end Sys2Proof
end

