-- ==== Sys2Proof/Machine/State.lean ====
section
/-!
DEFINITION. The state of the package as plain data: what INVENTORY.md lists under its heading State, in groups. Sparse
tables are lists of keys and values in one canonical form (keys rising, no default value listed); the accessors of
Machine/Ops.lean keep that form.
-/
namespace Sys2Proof.Machine

/-- A sparse table: keys strictly rising, no entry equal to the table's default. -/
abbrev SMap (α : Type) := List (Nat × α)

/-- Why the machine stops with a fault: never. Every fault of the manual is an exception that the machine takes, which is a next
state (R312 to R315), so the type has no constructor. Safe. -/
inductive Fault where
deriving DecidableEq, Repr

/-- Why an instruction is refused. -/
inductive Refusal where
  /-- Raised by the arms of `exec` whose meaning is not written yet. Safe: nothing can be proved of a run that stops. -/
  | notModelled (mnemonic : String)
deriving DecidableEq, Repr

/-! ## Threads, bundles, bins -/

/-- A thread of the bundle's block, by lane and crew (R7, R13). -/
structure Member where
  lane : Nat
  crew : Nat
deriving DecidableEq, Repr

/-- Place of a PC inside its clause (R108, R109). -/
structure Clause where
  /-- SETA of the header, 0 to 12. -/
  seta : Nat
  /-- SETB of the header. -/
  setb : Nat
  /-- Words of the clause from the PC on. -/
  left : Nat
deriving DecidableEq, Repr

/-- What a bundle waits for (R26, Table 1.3). -/
inductive Wait where
  /-- RUNNING: ready to issue. -/
  | ready
  /-- WAIT flags of a header (R109). -/
  | flags (mask : BitVec 12)
  /-- The scoreboard (R110). -/
  | score
  /-- A condition of the instruction itself, which it tests at issue: queue, presence bit, store buffer, walk, fence, engine fork. -/
  | again
  /-- Such a condition that makes the crew WAITING as a whole: a walk of its access (R211), an absent scratchpad line (R217), a member that is swapped
  out (R218, R268), a full store buffer (R87), a queue entry or place (R244). -/
  | crew
  /-- The girth stop of its core is full (R285). -/
  | girthFull
  /-- HELD at a crew-bound instruction (R16, R23). -/
  | held
  /-- YIELD, until GCYC reaches the cycle (R178). -/
  | yielded (cycle : Nat)
  /-- BAR of an ID and scope (R187); `go` is the cycle of resumption once it has completed. -/
  | bar (id : Nat) (cluster : Bool) (go : Option Nat)
  /-- LBAR (R189); `go` once the launch's barrier has completed. -/
  | lbar (go : Bool)
  /-- WAITCMP: its monitors carry the number (R192). -/
  | monitor (id : Nat)
  /-- FENCER (R194). -/
  | fencer (id : Nat)
  /-- An interlocked operation, until the pending operation has landed (WQ, RECLD with MEM, TDMK, KVAPP, QPOP). -/
  | pend (id : Nat)
deriving DecidableEq, Repr

/-- A bundle: threads of one block at one PC, each in its own lane (R13); or a feed thread. -/
structure Bundle where
  blk : Nat
  /-- A feed thread: no members (R30). -/
  feed : Bool
  /-- Code address (R169). -/
  pc : Word
  /-- None where the next word must be a header. -/
  clause : Option Clause
  members : List Member
  wait : Wait
  /-- Cycle from which its waiting time counts (R18). -/
  since : Nat
  /-- Drawn at a REFORM PC, which it passes without filing (R17). -/
  pass : Bool
  /-- Words to advance when the wait ends. -/
  adv : Nat
  /-- It issues ahead of what Table 1.1 ranks: 0 no; 1 a uniform-path instruction that port conflicts have deferred (R310); 2 the candidate of
  a quarter that the SFU or the load/store port has refused (R311); 3 + c the part of crew c of a bundle split by crew (R22). -/
  ahead : Nat := 0
deriving DecidableEq, Repr

/-- A waiting thread of a bin (R14): lane and slot, with the cycle it was filed. -/
structure BinEntry where
  lane : Nat
  slot : Nat
  filed : Nat
  /-- None where the thread came by a transfer or off the end of a clause, so that its next word must be a header (R111). -/
  clause : Option Clause
  /-- It has arrived at a crew-bound instruction whose other lanes are awaited (R23). -/
  held : Bool := false
deriving DecidableEq, Repr

/-- A filing bin in use (R14). -/
structure Bin where
  core : Nat
  qtr : Nat
  blk : Nat
  pc : Word
  entries : List BinEntry
deriving DecidableEq, Repr

/-! ## Faults -/

/-- Fault classes of Table 23.3. -/
inductive Trap where
  | illop | member | maskself | partialCrew | atomdup | xlate | prot | bounds | misalign | peergone | girthseg | kvpos | queue
  | holdovf | eccunc | trap | watchdog
deriving DecidableEq, Repr

/-- A fault entry and the threads it stopped (R312 to R315, Table 23.8). -/
structure FaultRec where
  /-- Order of raising; the entry's SEQ is given when it is written. -/
  id : Nat
  /-- SEQ of the written entry, 0 before. -/
  seq : Nat
  blk : Nat
  feed : Bool
  crew : Nat
  lane : Nat
  pc : Word
  clause : Option Clause
  /-- Clause of the word after a word that had to be a header and is none (R109). -/
  after : Option Clause
  cls : Trap
  code : Nat
  va : Nat
  time : Nat
  /-- Threads that RESUME and SKIP move (R314). -/
  threads : List Member
  /-- Words of the faulting instruction. -/
  words : Nat
  /-- RESUME continues at the next word (TRAP codes 0 to 127). -/
  nextWord : Bool
  /-- Routed to the control core (R314). -/
  toCore : Bool
  /-- Inspect mode (R313). -/
  inspect : Bool
  /-- Written to its queue (R328). -/
  written : Bool
  /-- Its threads have been stepped on and stand among the bundles (R374). -/
  moved : Bool
  /-- A command has served its entry, and its threads are still here: KILL, CANCEL, or a stopped launch (R314, R204). -/
  served : Bool := false
deriving DecidableEq, Repr

/-! ## Registers -/

/-- The partial of a tile element (R49): P in 36 bits, E or unset, s, and the special marks. -/
structure Partial where
  p : Int
  e : Option Int
  s : Nat
  nan : Bool
  pinf : Bool
  ninf : Bool
deriving DecidableEq, Repr

/-- Crew state outside the register banks (R116, R199, R41). -/
structure CrewSt where
  wb : Nat
  abnd : Nat
  /-- LOG2W (Table 13.5). -/
  cpart : Nat
  cfpm : Word
  cfps : Word
  live : Word
deriving DecidableEq, Repr

/-- Call state of a thread (R174): depth and the hardware entries, newest first. -/
structure CallSt where
  depth : Nat
  hw : List Word
  /-- Entries above h that the debug window has written (Table 29.8). -/
  rest : List (Nat × Word) := []
deriving DecidableEq, Repr

/-- Register files of every placed block, by block, crew, register, lane (R7, R27, R30). -/
structure Regs where
  /-- Vector cells, keyed by `cellKey`. -/
  cells : SMap Word
  /-- Accumulator partials, keyed by `partKey`. -/
  parts : SMap Partial
  /-- k-registers, keyed by `kKey`. -/
  k : SMap Word
  /-- q-registers, keyed by `qKey`. -/
  q : SMap Bool
  /-- p1 to p7 in bits 1 to 7 of a thread, keyed by `thrKey`. -/
  p : SMap (BitVec 8)
  /-- Crew state, keyed by `crewKey`. -/
  crew : SMap CrewSt
  /-- Call state of threads and feed threads, keyed by `thrKey`. -/
  call : SMap CallSt
deriving DecidableEq, Repr

/-- A register that a pending operation will write (R110). -/
inductive RegKey where
  /-- Cell of a crew, every lane. -/
  | cell (blk crew cell : Nat)
  /-- k-register of a crew, or of the feed context (crew 32). -/
  | k (blk crew n : Nat)
  | q (blk crew n : Nat)
  /-- Predicate p_n of a crew. -/
  | p (blk crew n : Nat)
deriving DecidableEq, Repr

/-- A register write that a pending operation makes when it lands. -/
inductive RegWr where
  | cell (crew cell lane : Nat) (w : Word)
  | k (crew n : Nat) (w : Word)
  | q (crew n : Nat) (v : Bool)
  | p (crew lane n : Nat) (v : Bool)
  | flags (crew : Nat) (f : BitVec 5)
  /-- Partial of a tile element (R49). -/
  | part (crew cell lane : Nat) (x : Partial)
deriving DecidableEq, Repr

/-! ## Pending operations and memory in flight -/

/-- One lane of a pending load: where its bytes go, and the bytes that have arrived. -/
structure LaneLoad where
  lane : Nat
  crew : Nat
  /-- Offset of the first byte from the lane's address, and the bytes: pieces that have arrived. -/
  got : List (Nat × List Byte)
  /-- Bytes that the block's own held stores supply (R344; log 13): offset and value. -/
  held : List (Nat × Byte)
deriving DecidableEq, Repr

/-- How a pending operation turns the bytes of its lanes into registers when it lands. -/
inductive Plan where
  /-- The register writes are known. -/
  | none
  /-- Vector load to cells from `cell` on, of 2^wid bytes (R210). -/
  | vload (cell wid : Nat) (sx : Bool)
  /-- Uniform load to k-registers. -/
  | kload (crew n wid : Nat) (sx : Bool)
  /-- Vector atomic: old value to cells; `sp` names the success predicate, `cmp` the compare values by lane (R219, R220). -/
  | vatom (cell wid sp : Nat) (cmp : List (Nat × Nat))
  /-- Uniform atomic. -/
  | katom (crew n wid : Nat) (sq : Option Nat) (cmp : Nat)
  /-- RECLD with MEM into a record (R224). -/
  | recld (recNo : Nat)
  /-- TDMK: the image into a descriptor handle, kd (R265). -/
  | tdmk (kd : Nat)
  /-- WQPOP or WQPUSH: the register writes are known once the work-queue unit has performed it (R205). -/
  | wq
  /-- KVAPP's tests (R229): the operation continues as an engine. -/
  | kvtest
  /-- The refill loads of a RET (R174), whose bytes the RET takes when it issues again. -/
  | refill
deriving DecidableEq, Repr

/-- An operation that is not complete: it holds a completion flag and the registers it will write (R109, R110). -/
structure Pend where
  id : Nat
  blk : Nat
  /-- Crew, or 32 for the feed context. -/
  crew : Nat
  /-- Flag 1 to 12, 0 for none. -/
  flag : Nat
  /-- SETA kind: it lands results; else it is complete when its parts are. -/
  seta : Bool
  regs : List RegKey
  outs : List RegWr
  plan : Plan
  lanes : List LaneLoad
  /-- Parts not yet performed at their home points. -/
  parts : Nat
  /-- It is a read of memory (R90). -/
  isRead : Bool
  /-- It is a write of memory or an atomic that a release waits for (Table 7.1). -/
  isWrite : Bool
  /-- Code address, for a fault found after issue (R213). -/
  pc : Word
  /-- Poisoned bytes have arrived (R213). -/
  poisoned : Bool
  /-- Acquire of its scope when it lands (R86, R89); 0 none. -/
  acq : Nat
  /-- A twin's operation, which receives the results of the primary's operation of this number (R341). -/
  mirror : Option Nat
  /-- Of the matrix group (R119). -/
  matrix : Bool
  /-- Threads of the bundle that issued it. -/
  ms : List Member := []
deriving DecidableEq, Repr

/-- A line of a store buffer (R87). -/
structure SbEntry where
  id : Nat
  core : Nat
  qtr : Nat
  blk : Nat
  crew : Nat
  /-- Physical address of the line. -/
  pa : Nat
  /-- Bytes to store: offset and value, offsets rising. -/
  bytes : List (Nat × Byte)
  home : Nat
  /-- Policy word of the store (R60). -/
  pol : Word
  /-- Count of releases and fences of the crew before the store (R87). -/
  epoch : Nat
  /-- Pending operations that the entry completes a part of. -/
  pends : List Nat
  ctx : Nat
  ccls : Nat
  ilv : Nat
  /-- Entries to be acknowledged before it leaves: those for the lower lines of its lanes' accesses (R87), and in a guarded block what its
  held store comes after (R103). -/
  after : List Nat
  /-- It has left for its home point and awaits the acknowledgement. -/
  left : Bool
deriving DecidableEq, Repr

/-- A line copy in an L1 (R88). -/
structure L1Line where
  core : Nat
  ctx : Nat
  /-- Physical line number. -/
  line : Nat
  data : List Byte
  /-- Poisoned 8-byte words of the copy. -/
  bad : BitVec 8
  used : Nat
deriving DecidableEq, Repr

/-- A translation (Tables 23.5, 23.6). -/
structure Xlate where
  ctx : Nat
  /-- First virtual address of the page. -/
  va : Nat
  /-- Log2 of the page size: 39, 27 or 15. -/
  size : Nat
  /-- First physical address. -/
  pa : Nat
  mtype : Nat
  ccls : Nat
  ilv : Nat
  sel : Nat
  r : Bool
  w : Bool
  x : Bool
deriving DecidableEq, Repr

/-- A TLB entry (R325): of a core, or of a cluster (`cluster` true, `unit` the cluster number). -/
structure TlbEntry where
  cluster : Bool
  unit : Nat
  tr : Xlate
  used : Nat
deriving DecidableEq, Repr

/-- A page walk in flight (R325). -/
structure Walk where
  id : Nat
  die : Nat
  ctx : Nat
  /-- VA[55:15]. -/
  page : Nat
  level : Nat
  /-- Physical address of the table. -/
  table : Nat
  /-- Cores that wait for it; 384 is the work-queue unit, 385 the contract sequencer. -/
  cores : List Nat
  /-- Cycle in which its next read sets out. -/
  at' : Nat := 0
deriving DecidableEq, Repr

/-- What a walk has given a unit that keeps no TLB (R325): the translation of a page, none for XLATE. It serves the operation that the unit works on. -/
structure Got where
  unit : Nat
  ctx : Nat
  /-- VA[55:15] of the request. -/
  page : Nat
  tr : Option Xlate
deriving DecidableEq, Repr

/-- A shard-table entry that a copy or a TDMK of a crew or feed context reads, once for the instruction (R375). -/
structure ShardRead where
  id : Nat
  blk : Nat
  crew : Nat
  va : Nat
  /-- Cycle in which it set out. -/
  at' : Nat
  /-- Charged at the cluster port (R358). -/
  paid : Bool
  value : Option Nat
deriving DecidableEq, Repr

/-- A request at a home slice. -/
inductive ReqKind where
  /-- Read of `len` bytes for a lane of a pending load, its piece at byte `off` of the datum. -/
  | load (len lane crew off : Nat) (fill : Bool)
  /-- Store-buffer entry `id`. -/
  | store (id : Nat) (bytes : List (Nat × Byte))
  /-- An atomic of a lane: Table 15.5 operation, width in bytes, operands; the point at which it executes (0 the home slice, 1 the
  core's L1 copy, 2 the cluster unit), and the pending operation that its write-through belongs to. -/
  | atomic (op wid lane crew : Nat) (v n : Nat) (pt wt : Nat)
  /-- Prefetch. -/
  | pref (fill : Bool)
  /-- The read of a lane of a WAITCMP, at arming or at a poll (R192). -/
  | monitor (id lane crew wid : Nat) (poll : Bool)
deriving DecidableEq, Repr

/-- A request in a slice's queue (R77). -/
structure Req where
  id : Nat
  slice : Nat
  core : Nat
  ctx : Nat
  pa : Nat
  kind : ReqKind
  /-- Pending operation it belongs to. -/
  pend : Nat
  /-- TKEEP and TNORM of the request (R60). -/
  tkeep : Nat
  tnorm : Nat
  ccls : Nat
  ilv : Nat
  /-- Charged by the cluster's byte budget (R358). -/
  charged : Bool
  /-- Interval start for which it waits at the cluster port, 0 for none. -/
  heldTo : Nat
  /-- Cycle in which it set out. -/
  at' : Nat := 0
  /-- Number of the instruction that it is a part of, 0 for none: that of its first pending operation. -/
  inst : Nat := 0
  /-- Request for the lower line of the same lane's access, which is served before it (R97); 0 for none. -/
  after : Nat := 0
  /-- What another lane of the same load has read of the line: its bytes and its poisoned words (R95). -/
  seen : Option (List Byte × BitVec 8) := none
  /-- It sets out from the cluster unit (R77, R93). -/
  unit : Bool := false
  /-- An atomic's lane that stands at its execution point: no lane of the instruction has read poison there (R213); and the point is at the home slice,
  which the request has reached. -/
  fit : Bool := false
  there : Bool := false
  /-- The request whose access it completes: of a copy's atomic, behind its write-through (R326); 0 for none. -/
  parent : Nat := 0
deriving DecidableEq, Repr

/-- A fill of an MSC line in flight, with the requests behind it (R60, R63). -/
structure Fill where
  id : Nat
  slice : Nat
  line : Nat
  loc : Nat
  tenant : Nat
  cls : Nat
  reqs : List Req
deriving DecidableEq, Repr

/-- A store performed at its home point whose acknowledgement is on its way (R87). -/
structure Ack where
  id : Nat
  /-- Store-buffer entry. -/
  entry : Nat
  pends : List Nat
deriving DecidableEq, Repr

/-- A line of a cluster's atomic buffer (R93). -/
structure AbufLine where
  cluster : Nat
  line : Nat
  data : List Byte
  used : Nat
  /-- Poisoned 8-byte words of the line. -/
  bad : BitVec 8 := 0
deriving DecidableEq, Repr

/-- A WAITCMP monitor (R192). -/
structure Mon where
  /-- Number of the WAITCMP. -/
  id : Nat
  blk : Nat
  crew : Nat
  lane : Nat
  slice : Nat
  pa : Nat
  wid : Nat
  cond : Nat
  unsigned : Bool
  value : Nat
  /-- Armed at the slice, or polled. -/
  armed : Bool
  done : Bool
  /-- Scope of its acquire, 0 for none (R191). -/
  acq : Nat
  /-- A read for it is on its way. -/
  asked : Bool := false
  /-- It has read a poisoned value (R213). -/
  bad : Bool := false
  /-- The request that reads for it. -/
  req : Option Req := none
deriving DecidableEq, Repr

/-- Operations in flight, store buffers, first-level caches and translation (files 07, 09, 23). -/
structure Pipe where
  /-- Next number for an operation. -/
  nextId : Nat
  pends : List Pend
  sbuf : List SbEntry
  l1 : List L1Line
  tlb : List TlbEntry
  walks : List Walk
  /-- Walk verdicts that a waiting access takes when it issues again: context and page. -/
  xfaults : List (Nat × Nat)
  /-- Results of the walks of the work-queue unit and the sequencer. -/
  got : List Got := []
  /-- Reads of the shard table, until their copy or TDMK has done with them. -/
  shards : List ShardRead := []
  reqs : List Req
  /-- Lanes of atomics that stand at their execution points until every lane of the instruction does (R213). -/
  atoms : List Req := []
  fills : List Fill
  acks : List Ack
  abuf : List AbufLine
  mons : List Mon
deriving DecidableEq, Repr

/-! ## Schedule -/

/-- A FENCER under way (R91): cores still to visit. -/
structure Fencer where
  id : Nat
  blk : Nat
  crews : List Nat
  scope : Nat
  cores : List Nat
deriving DecidableEq, Repr

/-- A release fence that makes later writes of a crew wait (R90). -/
structure FenceRec where
  blk : Nat
  crew : Nat
  scope : Nat
  /-- Pending writes that it waits for. -/
  waits : List Nat
  /-- Store-buffer entries that must leave (crew and block scope). -/
  leave : List Nat
  /-- It holds back girth operations too (R102). -/
  girth : Bool
  /-- Threads of its bundle, to which it applies (R193). -/
  ms : List Member := []
deriving DecidableEq, Repr

/-- Threads of a crew that wait, filed or held, at a crew-bound instruction: what R24 decides at an EXIT. -/
structure ArriveRec where
  blk : Nat
  crew : Nat
  pc : Word
  clause : Option Clause
  /-- Member mask read by the last arrival. -/
  mask : Word
  /-- All 32 lanes are awaited, and a lane that exits makes PARTIAL. -/
  whole : Bool
  words : Nat
deriving DecidableEq, Repr

/-- Schedule, issue and fault state (files 01, 09, 23). -/
structure Sched where
  /-- Due events, oldest first; the driver's moves stand in it too (log 1). -/
  agenda : List Instr
  turn : Nat
  cur : Bundle
  curOn : Bool
  /-- The uniform-path candidate that issues in the same cycle, behind the vector-path one (R19, R28). -/
  second : Option Bundle
  bundles : List Bundle
  bins : List Bin
  arrs : List ArriveRec
  /-- Flags that an engine with writes to memory has signalled, not yet observed (R100): block, crew, flag. -/
  joins : List (Nat × Nat × Nat)
  faults : List FaultRec
  nextFault : Nat
  /-- SBSTALL by quarter (core × 4 + quarter). -/
  sbstall : SMap Nat
  fencers : List Fencer
  fences : List FenceRec
  /-- Count of releases and fences of a crew (R87), by crew. -/
  epochs : SMap Nat
  /-- Cycles without issue counted by the watchdog, by register context (R317): the cycle it last issued. -/
  lastIssue : SMap Nat
  /-- Context last served by each AAE (R30). -/
  aae : SMap Nat
  /-- The rotating pointers of a core's SFU and load/store port (R311): the quarter at which the next grant starts to look, keyed by
  core × 2 + (0 SFU, 1 port). -/
  grant : SMap Nat
deriving DecidableEq, Repr

/-- Clock (R199), and the counter the free values are drawn by (log 3). -/
structure Clock where
  gcyc : BitVec 64
  /-- Cycle up to which the schedule has closed the windows that begin at fixed multiples (log 1). -/
  seen : Nat
  free : Nat
deriving DecidableEq, Repr

/-! ## Memory -/

/-- Bytes of HBM, pin aperture, host and peer memory by physical address, and the poisoned 8-byte words by number, those of
scratchpads (from 2^59 on) among them (R335). -/
structure Mem where
  cells : List Host.Cell
  poison : SMap Bool
deriving DecidableEq, Repr

/-! ## Scratchpads, queues, descriptors, engines -/

/-- An entry of a queue window (R242). -/
structure QEntry where
  id : Nat
  landed : Bool
  data : List Byte
  bad : Bool
deriving DecidableEq, Repr

/-- A queue window of a block in a quarter (R241). -/
structure Win where
  blk : Nat
  qtr : Nat
  /-- 0 to 7 oq, 8 to 11 bq. -/
  q : Nat
  entries : List QEntry
  /-- Crews that have executed a push to it (Table 17.2). -/
  pushers : List Nat
deriving DecidableEq, Repr

/-- A tensor descriptor handle (R265). -/
structure TDesc where
  blk : Nat
  handle : Nat
  image : BitVec 2048
  /-- Recorded under VALIDATE: translations of the ranges, and whether every page has W. -/
  valid : Bool
  wOk : Bool
  trs : List Xlate
  /-- SHOFF of each shard, by its coordinates dimension by dimension (R375). -/
  shoffs : List (List Nat × Int)
deriving DecidableEq, Repr

/-- A write an engine still has to make (R99). -/
inductive Move where
  /-- Scratchpad bytes of blocks at an offset, from physical addresses read once, or zeros; the line's presence bit is owed in each. -/
  | spadFromMem (blks : List Nat) (off : Nat) (pas : List (Option Nat))
  /-- Memory bytes from scratchpad. -/
  | memFromSpad (blk off : Nat) (pas : List (Option Nat))
  /-- Memory bytes from memory. -/
  | memFromMem (src dst : List (Option Nat))
  /-- A 4-bit code of memory, in the low or high half of its byte, from a code of memory or 0. -/
  | codeFromMem (src : Option (Nat × Bool)) (dst : Nat × Bool)
  /-- A KV append (R229): key page, value page, slot, rows. -/
  | kvWrite (ctx k u slot : Nat) (krow vrow : List (BitVec 16))
deriving DecidableEq, Repr

/-- A panel an engine still has to push (R242). -/
structure Panel where
  qtr : Nat
  q : Nat
  /-- Entry number once reserved. -/
  entry : Option Nat
  /-- Source bytes by physical address; none for zero. -/
  pas : List (Option Nat)
  /-- SMELT: page, token block, channel block, value panel. -/
  kv : Option (Nat × Nat × Nat × Bool)
  /-- SMELT: place of the page in its list. -/
  item : Nat := 0
deriving DecidableEq, Repr

/-- An ASSAY under way (R232): page list, length, TOPN, T or N, gather list, query, kd. -/
structure AssaySt where
  list : Nat
  n : Nat
  topn : Bool
  param : Nat
  out : Nat
  query : List (BitVec 16)
  kd : Nat
deriving DecidableEq, Repr

/-- An engine operation under way (R99). -/
structure Engine where
  id : Nat
  blk : Nat
  crew : Nat
  pend : Nat
  moves : List Move
  panels : List Panel
  assay : Option AssaySt
  /-- Translations taken at its issue, or at TDMK (R268). -/
  trs : List Xlate
  /-- It writes memory rather than scratchpad (R100). -/
  toMem : Bool
  /-- Interval start for which it waits at the cluster port, 0 for none (R358). -/
  heldTo : Nat
  /-- The requests of its next move have been charged at an interval start (R358). -/
  paid : Bool := false
  /-- Reserve contract that lived at its issue, 0 for none (R292). -/
  gen : Nat := 0
  /-- Lines of panels still to land that have crossed the bus in one transfer with those of another panel (R350). -/
  crossed : List Nat := []
  /-- Cycle in which its next accesses set out. -/
  at' : Nat := 0
deriving DecidableEq, Repr

/-- Scratchpads, presence bits, queue windows, records, descriptors, engines (files 09, 15, 17). -/
structure Spad where
  /-- Scratchpad bytes that have been written, keyed by `spadKey`; the others are undefined (R11). -/
  bytes : SMap (Option Byte)
  /-- Lines whose presence bit is clear, with the engine writes in flight to them, keyed by block and line (R217, R269). -/
  absent : SMap Nat
  wins : List Win
  /-- Buffer records, keyed by block × 64 + record. -/
  recs : SMap (BitVec 256)
  tds : List TDesc
  engines : List Engine
deriving DecidableEq, Repr

/-! ## Slices and contracts -/

/-- An MSC line (R60 to R67). -/
structure MscLine where
  slice : Nat
  /-- Physical line number. -/
  line : Nat
  set : Nat
  way : Nat
  cls : Nat
  filler : Nat
  dirty : Bool
  used : Nat
  /-- Bytes and poisoned words of a copy that another home's access has parted from memory's (R82); memory holds those of the others. -/
  own : Option (List Byte × BitVec 8) := none
  /-- While it is dirty and memory holds its bytes: what HBM holds behind it (R82). -/
  hbm : List Byte × BitVec 8 := ([], 0)
deriving DecidableEq, Repr

/-- A pin (R68 to R72). -/
structure Pin where
  id : Nat
  ctx : Nat
  va : Nat
  len : Nat
  resident : Bool
  /-- 0 launch, 1 graph, 2 phase, 3 job, 4 explicit; and the id of the level. -/
  life : Nat
  level : Nat
  /-- 0 FILLING, 1 LIVE, 2 DRAINING, 3 ENDED (Table 5.5). -/
  state : Nat
  granules : Nat
  /-- Physical lines with their home slice, in place order (R349), and whether the current transfer has done them. -/
  lines : List (Nat × Nat × Bool)
  /-- Write-backs begun and not yet at the HBM controller: physical lines. -/
  sending : List Nat
  /-- Slices the lifetime end has reached. -/
  started : List Nat
  /-- Granules taken: slice and granule. -/
  took : List (Nat × Nat)
  /-- Its lifetime has ended, or an UNPIN has been granted: it is to be drained. -/
  ending : Bool
deriving DecidableEq, Repr

/-- A contract operation (R70). -/
inductive SeqOp where
  | pin (va len : Nat) (resident : Bool) (life : Nat)
  | unpin (va : Nat)
  | cctr (slices : List Nat) (tenant : Nat) (mask : BitVec 16) (rsv : Bool)
  | stpart (slice first count kind : Nat)
  | resctr (pa : Nat)
  | resend
deriving DecidableEq, Repr

/-- A contract operation queued or running at the sequencer (R70, R226). -/
structure SeqRec where
  id : Nat
  ctx : Nat
  launch : Nat
  /-- Pending operation whose kd takes the status, 0 for a driver command. -/
  pend : Nat
  blk : Nat
  crew : Nat
  kd : Nat
  op : SeqOp
  decided : Bool
  status : Nat
  /-- Slices still to apply the operation, or the pin it waits for. -/
  slices : List Nat
  pinId : Nat
  /-- The record of a reserve contract, once it has been read (R292). -/
  rec' : Option (BitVec 4352) := none
deriving DecidableEq, Repr

/-- A link direction (R79). -/
structure Link where
  /-- 0 full, 1 half, 2 quarter. -/
  width : Nat
  busy : Nat
  queue : Nat
  /-- Width it renegotiates to. -/
  reneg : Option Nat
  /-- Cycle in which `queue` was counted: a narrowed link passes one flit in two or four cycles. -/
  since : Nat := 0
  /-- The queue has reached 4 flits since the link narrowed. -/
  peak : Bool := false
deriving DecidableEq, Repr

/-- ECC state of a slice (Tables 25.1, 26.1; R334, R338, R339). -/
structure SliceEcc where
  mode : Nat
  busy : Bool
  /-- Next line of the re-encoding pass. -/
  pos : Nat
  /-- Passes that a write to MODE cut off, newest first: the line each had reached and the mode it wrote. The last stands for the mode
  before them all and reaches every line. -/
  passes : List (Nat × Nat)
  /-- Next line of the sweeper. -/
  sweep : Nat
  /-- One more than the number of the 2,048-cycle window in which it last swept (R334). -/
  swept : Nat
  inj0 : DWord
  inj1 : DWord
  /-- Lane swaps: group and lane. -/
  swaps : List (Nat × Nat)
  degraded : Bool
  /-- Spare groups used. -/
  spares : Nat
deriving DecidableEq, Repr

/-- A physical fault that stands and has still to strike (R335, R337; log 49). -/
inductive PhysFault where
  /-- The next transfer of an aligned pair of a slice's array lines, in one direction, fails parity in a lane group in `att` attempts from its attempt
  `first` on, counted from 0. -/
  | bus (slice pair grp first att : Nat) (write : Bool)
  /-- The next fill of a line from HBM meets an error in an 8-byte word, which the stack corrects or not. -/
  | hbm (line word : Nat) (corrected : Bool)
deriving DecidableEq, Repr

/-- An evacuation to a spare slice (R347). -/
structure Evac where
  slice : Nat
  pos : Nat
  total : Nat
deriving DecidableEq, Repr

/-- A log of a die (R327, R340): entries with their numbers, entries written, read index, overflow count. -/
structure Ring where
  entries : List (Nat × BitVec 256)
  written : Nat
  read : Nat
  overflow : Nat
deriving DecidableEq, Repr

/-- Slices, contracts, links, error handling (files 05, 25, 26). -/
structure Slices where
  /-- Granule kinds, keyed by slice × 8192 + granule, MSC by default below 7,936. -/
  kinds : SMap Nat
  /-- Way masks, keyed by slice × 16 + tenant. -/
  masks : SMap (BitVec 16)
  /-- Masks to be applied between two requests: slice, tenant, mask, sequencer operation. -/
  maskNext : List (Nat × Nat × BitVec 16 × Nat)
  lines : List MscLine
  /-- Write-back buffers: slice, line, sent. -/
  wbuf : List (Nat × Nat × Bool)
  pins : List Pin
  seq : List SeqRec
  /-- HMAP entries by region, pin-aperture regions from 4,096 on. -/
  hmap : SMap (BitVec 16)
  hmapNext : List (Nat × BitVec 16)
  links : SMap Link
  ecc : SMap SliceEcc
  /-- Mode tags of array lines that are not those of the re-encoding pass, plus 1; keyed by slice × 2^21 + line (R333). -/
  tags : SMap Nat
  evacs : List Evac
  /-- Spare slices used, by die. -/
  sparesUsed : SMap Nat
  /-- Logical slices that a spare serves since an evacuation ended, oldest first (R346, R370). -/
  replaced : List Nat := []
  /-- Logs: die × 4 + (0 violation, 1 array, 2 bus). -/
  logs : SMap Ring
  /-- HBM rows remapped to a spare row, and how often; pages retired. -/
  rows : SMap Nat
  retired : List Nat
  /-- Physical faults that have still to strike (log 49). -/
  phys : List PhysFault := []
  /-- Corrected HBM errors of the last 2^32 cycles: row and cycle; and rows that await their repair (R346). -/
  rowErrs : List (Nat × Nat) := []
  rowDue : List Nat := []
deriving DecidableEq, Repr

/-! ## KV reserve -/

/-- A reserve contract (Table 21.1). -/
structure Reserve where
  quota : Nat
  ch : Nat
  rope : Bool
  omega : List Word
  backbase : Nat
  slices : List Nat
  /-- Translations of the backing area, taken at its creation (R75). -/
  trs : List Xlate
  /-- Number of the contract. -/
  gen : Nat := 0
  /-- It has ended, while pages are still in transfer (R292). -/
  ended : Bool := false
deriving DecidableEq, Repr

/-- Where a KV page is (R294). -/
inductive PageState where
  | free | resident | evicting | evicted | installing
deriving DecidableEq, Repr

/-- A KV page (R294). -/
structure KvPage where
  count : Nat
  heat : Nat
  present : BitVec 64
  dirty : Bool
  st : PageState
  /-- Slice and frame. -/
  frame : Option (Nat × Nat)
  /-- Key page: it has a hallmark. -/
  isKey : Bool
  /-- Aligned pairs of lines that its transfer has reached. -/
  pos : Nat := 0
  /-- Cycle in which the next accesses of its transfer set out. -/
  at' : Nat := 0
deriving DecidableEq, Repr

/-- A KV operation at a home slice (R229, R230). -/
inductive KvOp where
  | fork (page : Nat) (kd qd : Nat)
  | free (page : Nat)
  | hallmark (page : Nat) (kd : Nat) (cell : Nat)
  /-- Count tests of KVAPP: page still to test, the other page, slot, rows, pc. -/
  | test (k u : Nat) (kOk uOk : Option Bool) (slot : Nat) (krow vrow : List (BitVec 16))
deriving DecidableEq, Repr

/-- A queued KV operation. -/
structure KvRec where
  id : Nat
  ctx : Nat
  blk : Nat
  crew : Nat
  pend : Nat
  lanes : List Member
  op : KvOp
  /-- Reserve contract that lived at its issue (R292). -/
  gen : Nat := 0
  /-- Cycle in which it set out. -/
  at' : Nat := 0
deriving DecidableEq, Repr

/-- Reserve contracts, pages, rows, hallmarks (files 15, 21). -/
structure Kv where
  res : SMap (Option Reserve)
  /-- Pages keyed by context × 2^32 + page id. -/
  pages : SMap KvPage
  /-- Row elements of resident pages, keyed by page key × 16,384 + slot × 256 + channel. -/
  rows : SMap (BitVec 16)
  /-- Hallmarks: minimum and maximum of each channel, keyed by page key × 512 + 2 × channel + (0 min, 1 max). -/
  hall : SMap (BitVec 16)
  ops : List KvRec
  /-- Multiples of 2^20 cycles at which the heats have been halved (R295). -/
  decays : Nat := 0
deriving DecidableEq, Repr

/-! ## Girth -/

/-- A slot header (Table 19.2) with the holding crew and the cycles of its hold and reservation. -/
structure SlotHdr where
  seg : Nat
  tag : Word
  /-- HSTOP, block and crew, cycle at which the hold ends. -/
  hold : Option (Nat × Nat × Nat × Nat)
  /-- RSTOP and the cycle at which the reservation ends. -/
  rsv : Option (Nat × Nat)
deriving DecidableEq, Repr

/-- What a pending girth operation does (R234). -/
inductive GirthAct where
  | read (cell : Nat) (q : Option Nat)
  | update (op word : Nat) (w64 : Bool) (v n : Nat) (kd : Nat) (q : Option Nat)
  | cinch (cell : Nat)
  | close (data : List Word) (q : Option Nat)
  | mount (tag : Word) (data : List Word) (kd : Nat)
  /-- By id, or by tag. -/
  | dismount (byTag : Option Word) (cell : Nat) (q : Option Nat)
deriving DecidableEq, Repr

/-- A pending girth operation of a stop (R285). -/
structure GirthOp where
  pend : Nat
  stop : Nat
  qtr : Nat
  ready : Nat
  /-- The next passage is looked for from this cycle on; slots that have passed in that very cycle already. -/
  from' : Nat
  passed : List Nat
  blk : Nat
  crew : Nat
  lanes : List Member
  base : Nat
  len : Nat
  slot : Nat
  act : GirthAct
deriving DecidableEq, Repr

/-- The girth (file 19). -/
structure Girth where
  /-- Slot words, keyed by slot × 16 + word. -/
  data : SMap Word
  hdr : SMap SlotHdr
  ops : List GirthOp
deriving DecidableEq, Repr

/-! ## Dispatcher -/

/-- A launch queue (R302, R303, Table 29.1). -/
structure LQueue where
  qbase : Nat
  qlog : Nat
  ctx : Nat
  cbase : Nat
  tailpa : Nat
  headpa : Nat
  head : Nat
  /-- TAIL as last read; the line is held until a snoop. -/
  tail : Nat
  shared : Bool
  overrun : Bool
  /-- CTXEND has stopped it from being read. -/
  stopped : Bool
  lastId : Nat
  cread : Nat
  cwritten : Nat
deriving DecidableEq, Repr

/-- State of a launch (R306 to R308). -/
inductive LaunchState where
  | waiting | released | cleared | ending | ended
deriving DecidableEq, Repr

/-- A launch: its record and what the dispatcher keeps (R304 to R308). -/
structure Launch where
  /-- The model's number of the launch; ids repeat across contexts. -/
  uid : Nat
  id : Nat
  /-- The 128-byte record (Table 23.1). -/
  record : BitVec 1024
  queue : Nat
  ctx : Nat
  st : LaunchState
  /-- Blocks not complete. -/
  counter : Nat
  /-- Next linear index to place. -/
  nextBlk : Nat
  releasedAt : Nat
  /-- Cycle from which the next block waits (R308). -/
  waitFrom : Nat
  blocking : Bool
  /-- The block that waits: 2 × its linear index + 1 for one still to be placed, 2 × its number + 2 for one that returns. -/
  waitFor : Nat := 0
  /-- Completion status so far (Table 23.2). -/
  status : Nat
  stopped : Bool
  wqHead : Nat
  wqTail : Nat
  /-- Earlier LBAR releases (R190). -/
  lbars : Nat
  /-- Release under way: clusters still to release in order. -/
  lbarOrder : List Nat
  /-- Blocks whose arrival at the LBAR is complete, in the order in which the arrivals completed (R190). -/
  lbarCame : List Nat := []
  /-- Girth segment: 0 untouched, 1 cleared for it, 2 cleared after it. -/
  segState : Nat
  /-- Cycle from which its segment is to be cleared (R284). -/
  clearFrom : Nat
deriving DecidableEq, Repr

/-- A graph, phase or job (R306): kind 1, 2, 3. -/
structure Level where
  kind : Nat
  id : Nat
  ctx : Nat
  parent : Nat
  counter : Nat
  closed : Bool
  anyKilled : Bool
  anyCancelled : Bool
  ended : Bool
  stopped : Bool
  queue : Nat
deriving DecidableEq, Repr

/-- State of a block. -/
inductive BlkState where
  /-- Placed, its crews not yet issuing (R308). -/
  | placed
  | running
  /-- Stopped at instruction boundaries, draining (R318, R319). -/
  | draining
  | saving
  | swapped
  | restoring
  /-- Stopped by cancellation or a kill, completing (R204). -/
  | stopping
  | complete
deriving DecidableEq, Repr

/-- A block (R7, R308, R319). -/
structure Block where
  id : Nat
  /-- Number (`uid`) of its launch. -/
  launch : Nat
  /-- Linear index. -/
  lin : Nat
  core : Nat
  st : BlkState
  /-- The swap run in the context's area: unit and count; none while it stays in place (R321). -/
  run : Option (Nat × Nat)
  /-- May be placed again (R314). -/
  placeable : Bool
  /-- Swapped out without having moved (R321). -/
  inPlace : Bool
  /-- Feed thread has ended. -/
  feedDone : Bool
  /-- First byte of its scratchpad allocation, and first register cell of each crew's run, by crew (R309). -/
  spadBase : Nat
  cellBase : List Nat
  /-- The twin of a guarded pair's primary, or the primary of a twin. -/
  twin : Option Nat
  primary : Bool
  /-- Waits for the end of its energy quota (R360). -/
  quotaWait : Bool
  placedAt : Nat
  /-- Cycle from which its watchdogs do not count (R317). -/
  exclAt : Option Nat
  /-- Number of the 1,024-cycle energy window that was charged last, plus one (R359). -/
  charged : Nat
  /-- Why it is pre-empted or swapped out (R317, R318): 0 it is not, 1 a wait at LBAR or WAITCMP, 2 another reason, 3 its energy quota; 3
  stands until the block issues again (R361). -/
  why : Nat := 0
  /-- Number of the energy window, plus one, at whose end its quota pre-empted it (R361). -/
  spentAt : Nat := 0
  /-- Cycle in which its save or restore began. -/
  at' : Nat := 0
  /-- Cycle in which it last left its core: by its completion, or at the end of its save. -/
  leftAt : Nat := 0
deriving DecidableEq, Repr

/-- A work-queue operation at the dispatcher (R206). -/
structure WqOp where
  pend : Nat
  blk : Nat
  crew : Nat
  push : Bool
  value : Word
  kd : Nat
  qd : Nat
  /-- Cycle in which it set out. -/
  at' : Nat := 0
deriving DecidableEq, Repr

/-- A CANCEL on its way to the dispatcher (R204): kind 0 to 3. -/
structure CancelRec where
  ctx : Nat
  kind : Nat
  id : Nat
deriving DecidableEq, Repr

/-- Dispatcher (files 13, 23). -/
structure Disp where
  queues : SMap LQueue
  launches : List Launch
  levels : List Level
  /-- Completions: context, launch id, status; newest first, at most 4,096 a context. -/
  done : List (Nat × Nat × Nat)
  blocks : List Block
  nextBlk : Nat
  wq : List WqOp
  cancels : List CancelRec
  /-- Physical position of a logical core that is not its own number (R346), keyed by core. -/
  phys : SMap Nat
  /-- Cores retired without a spare, clusters drained. -/
  retired : List Nat
  drained : List Nat
deriving DecidableEq, Repr

/-! ## Host -/

/-- A context page (Table 29.1). -/
structure CtxPage where
  live : Bool
  top : Nat
  privileged : Bool
  tenant : Nat
  /-- Check mode: true VALIDATE. -/
  validate : Bool
  routing : BitVec 17
  wdl : Nat
  pinq : Nat
  bpmask : BitVec 16
  shtbase : Nat
  shtlen : Nat
  fqbase : Nat
  fqlog : Nat
  fqset : Bool
  fqread : Nat
  fqwritten : Nat
  swapbase : Nat
  swaplen : Nat
  eqcfg : DWord
  /-- EQREM: REM in [31:0], the quota pre-emptions in [63:32]. -/
  eqrem : DWord
  /-- Cycle of the next refill. -/
  eqnext : Nat
deriving DecidableEq, Repr

/-- A CXL port (R363, R364, R371). -/
structure Port where
  up : Bool
  retraining : Bool
deriving DecidableEq, Repr

/-- What the running command of the command window waits for (R373). -/
inductive CmdRun where
  | idle
  /-- SHOOTDOWN: accesses translated by old entries, by number (R326). -/
  | accesses (ids : List Nat)
  /-- RESCTR, RESEND: the sequencer's operation. -/
  | seq (id : Nat)
  /-- The sequencer's operation is complete, with a status. -/
  | closed (status : Nat)
  | ctxend (ctx : Nat)
  /-- REPAIR: the swap-outs of a core, or of a cluster; an evacuation. -/
  | core (n : Nat)
  | drain (cl : Nat)
  | evac (slice : Nat)
deriving DecidableEq, Repr

/-- An access of the host through CXL.mem that has to wait (R364): byte of the port's range, bytes, whether it writes, and the cycle in which it came. -/
structure HostAcc where
  port : Nat
  addr : Nat
  data : List Byte
  write : Bool
  at' : Nat
deriving DecidableEq, Repr

/-- What the package sends to the host. -/
inductive HostOut where
  /-- Bytes at a host physical address, and the cycle in which they set out. -/
  | write (x : Nat) (bs : List Byte) (at' : Nat)
  /-- An MSI-X message. -/
  | msi (v : Nat)
deriving DecidableEq, Repr

/-- Host side (file 29). -/
structure HostSt where
  featacc : Word
  /-- FEATACC has been written once. -/
  featWritten : Bool
  featLocked : Bool
  ctxs : SMap CtxPage
  swapFull : SMap Nat
  cmd : SMap Word
  cmdRun : CmdRun
  cmdStatus : Nat
  dbgsel : SMap Word
  dbgErr : Bool
  /-- Crew that issues one instruction (R374). -/
  dbgStep : List (Nat × Nat)
  /-- MSI-X vectors sent, newest first. -/
  msix : List Nat
  boot : Nat
  fwSvn : Nat
  fwImage : Nat
  spdm : List (Nat × Nat)
  ports : SMap Port
  /-- Fault entries in firmware space, newest first. -/
  fwRing : List (BitVec 512)
  /-- Host accesses that wait at their ports, oldest first. -/
  heldAcc : List HostAcc
  /-- Stores of the host to its memory whose snoop is still to come (R364), oldest first: line of host memory, bytes from its start. -/
  stores : List (Nat × List Byte) := []
  /-- Writes of the package to host memory and messages that have still to leave, in posted-write order (R364, R367). -/
  out : List HostOut := []
deriving DecidableEq, Repr

/-! ## Power -/

/-- The yoke of a stacked cluster pair (Table 27.1). -/
structure Yoke where
  pref : Nat
  glev : Nat
  blev : Nat
  iu : BitVec 12
  il : BitVec 12
  /-- Number of the 1,024-cycle window that it last closed, plus one (R352). -/
  win : Nat
  /-- The three windows before, newest first: the cycle in which each one's levels ended, its PREF and its GLEV (R355). -/
  past : List (Nat × Nat × Nat)
deriving DecidableEq, Repr

/-- Whose requests wait at a cluster port. -/
inductive PortUser where
  /-- A request of a core or of the cluster unit. -/
  | req
  /-- Those of an engine's next move. -/
  | engine
  /-- The read of a shard-table entry. -/
  | shard
deriving DecidableEq, Repr

/-- Requests that wait at a cluster port (R358), with the charges still to be made and the cycle from which CLBSTALL has still to count them. -/
structure PortWait where
  who : PortUser
  id : Nat
  charges : List Nat
  since : Nat
deriving DecidableEq, Repr

/-- A cluster's byte budget (Table 27.3). -/
structure Budget where
  /-- In force, and to be in force from the next interval on: BUD64. -/
  budget : Nat
  next : Nat
  rem : Nat
  /-- CLBSTALL, but for what the requests that still wait have waited since it last counted them. -/
  stall : DWord
  /-- Number of the 2,048-cycle interval that has started last. -/
  ivl : Nat
  /-- Requests that wait at the cluster's ports, in the order in which they reached them (R358). -/
  port : List PortWait := []
deriving DecidableEq, Repr

/-- Power (file 27). -/
structure Power where
  yoke : SMap Yoke
  bud : SMap Budget
  /-- Energy charged to each energy context. -/
  meters : SMap Nat
deriving DecidableEq, Repr

/-! ## Guarded launches -/

/-- How an operation of a primary has ended that the twin has still to receive (R341): its register writes, poisoned bytes, or its trap
with code and address. -/
structure GuardRes where
  id : Nat
  ws : List RegWr
  poisoned : Bool
  trap : Option (Trap × Nat × Nat × Nat)
deriving DecidableEq, Repr

/-- A guarded pair (R341 to R345). -/
structure Pair where
  primary : Nat
  twin : Nat
  /-- Block and code of the arrivals at comparison points (`threadsCode` of a bundle; 33: the block at a barrier, 34: at its end; from 4096 on a
  bundle at a store that found its hold buffer full); those that may act after a match. -/
  arrived : List (Nat × Nat)
  go : List (Nat × Nat)
  /-- Operations of the primary whose results the twin has still to receive: bundle code, and numbers of its operations; and those of them that
  have ended. -/
  acts : List (Nat × List Nat)
  ended : List GuardRes
  /-- Both as the checkpoint found them. -/
  acts0 : List (Nat × List Nat)
  ended0 : List GuardRes
  /-- Block and code of bundles whose next store is a comparison point (R344). -/
  holdPts : List (Nat × Nat)
  /-- Rollbacks in a row to the checkpoint. -/
  rollbacks : Nat
  /-- A block took ECCUNC: the pair must roll back. -/
  bad : Bool
  /-- The commit actions of a match, and then the checkpoint, are under way. -/
  checking : Bool
  /-- A rollback is under way. -/
  restoring : Bool
  /-- PIN granules of the pair's area: slice and granule (R341). -/
  area : List (Nat × Nat)
deriving DecidableEq, Repr

/-- A store of a guarded block held until the comparison (R344). -/
structure HoldStore where
  blk : Nat
  crew : Nat
  /-- Physical address of the line. -/
  pa : Nat
  bytes : List (Nat × Byte)
  home : Nat
  pol : Word
  ctx : Nat
  ccls : Nat
  ilv : Nat
  pends : List Nat
  /-- Its number, which its store-buffer entry will bear. -/
  id : Nat := 0
  /-- Count of releases and fences of the crew before the store. -/
  epoch : Nat := 0
  /-- Held stores that are performed before it: earlier ones to its line, those behind a release or fence of its crew, and that to the lower
  line of its lane's access (R97, R103). -/
  after : List Nat := []
deriving DecidableEq, Repr

/-- What a checkpoint keeps of a block (R343). -/
structure Snapshot where
  blk : Nat
  regs : Regs
  bundles : List Bundle
  bins : List Bin
  bytes : SMap (Option Byte)
  absent : SMap Nat
  wins : List Win
  recs : SMap (BitVec 256)
  tds : List TDesc
  arrs : List ArriveRec
  /-- Engines into its own scratchpad and windows, and their operations. -/
  engines : List Engine
  pends : List Pend
  /-- Poisoned scratchpad words. -/
  poison : SMap Bool
deriving DecidableEq, Repr

/-- Guarded execution (file 25). -/
structure Guarded where
  pairs : List Pair
  /-- Signature of each crew and feed context, by register context. -/
  sigs : SMap DWord
  hold : List HoldStore
  snaps : List Snapshot
deriving DecidableEq, Repr

/-- The package. -/
structure State where
  clk : Clock
  sch : Sched
  regs : Regs
  pipe : Pipe
  mem : Mem
  sp : Spad
  sl : Slices
  kv : Kv
  gi : Girth
  disp : Disp
  host : HostSt
  pow : Power
  grd : Guarded
deriving DecidableEq, Repr

/-- A bundle with no thread. -/
def Bundle.none : Bundle :=
  { blk := 0, feed := false, pc := 0, clause := Option.none, members := [], wait := .ready, since := 0, pass := false, adv := 0 }

/-- The machine right after package reset: nothing placed, no level live, every cache empty (R371). Values the manual gives no
reset value for are those of log 4. -/
def State.reset : State where
  clk := { gcyc := 0, seen := 0, free := 0 }
  sch := { agenda := [], turn := 0, cur := Bundle.none, curOn := false, second := none, bundles := [], bins := [], arrs := [], joins := [], faults := [], nextFault := 1,
           sbstall := [], fencers := [], fences := [], epochs := [], lastIssue := [], aae := [], grant := [] }
  regs := { cells := [], parts := [], k := [], q := [], p := [], crew := [], call := [] }
  pipe := { nextId := 1, pends := [], sbuf := [], l1 := [], tlb := [], walks := [], xfaults := [], reqs := [], fills := [],
            acks := [], abuf := [], mons := [] }
  mem := { cells := [], poison := [] }
  sp := { bytes := [], absent := [], wins := [], recs := [], tds := [], engines := [] }
  sl := { kinds := [], masks := [], maskNext := [], lines := [], wbuf := [], pins := [], seq := [], hmap := [], hmapNext := [],
          links := [], ecc := [], tags := [], evacs := [], sparesUsed := [], logs := [], rows := [], retired := [] }
  kv := { res := [], pages := [], rows := [], hall := [], ops := [] }
  gi := { data := [], hdr := [], ops := [] }
  disp := { queues := [], launches := [], levels := [], done := [], blocks := [], nextBlk := 1, wq := [], cancels := [], phys := [],
            retired := [], drained := [] }
  host := { featacc := 0, featWritten := false, featLocked := false, ctxs := [], swapFull := [], cmd := [], cmdRun := .idle, cmdStatus := 0,
            dbgsel := [], dbgErr := false, dbgStep := [], msix := [], boot := 1, fwSvn := 0, fwImage := 0, spdm := [], ports := [],
            fwRing := [], heldAcc := [] }
  pow := { yoke := [], bud := [], meters := [] }
  grd := { pairs := [], sigs := [], hold := [], snaps := [] }

end Sys2Proof.Machine
end

