-- ==== Sys2Proof/Machine/Ops.lean ====
section
/-!
DEFINITION. Named operations over the state: sparse tables, registers, memory, blocks and launches, the schedule, and taking
and leaving an exception (spec/01, 09, 23).
-/
namespace Sys2Proof.Machine

/-! ## Free values (log 3) -/

/-- The free value that the next draw gives. -/
def State.freshValue (s : State) : DWord := Config.freeValue s.clk.free
/-- The state after a draw. -/
def State.drawn (s : State) : State := { s with clk := { s.clk with free := s.clk.free + 1 } }

/-! ## Sparse tables -/

/-- The value at a key; `d` where the key is not listed. -/
def mget {α : Type} (d : α) : SMap α → Nat → α
  | [], _ => d
  | (k', v) :: t, k => if k' = k then v else mget d t k

/-- The table without a key. -/
def mdel {α : Type} (m : SMap α) (k : Nat) : SMap α := m.filter fun e => e.1 != k

/-- Insert before the first greater key. -/
def mins {α : Type} : SMap α → Nat → α → SMap α
  | [], k, v => [(k, v)]
  | (k', v') :: t, k, v => if k < k' then (k, v) :: (k', v') :: t else (k', v') :: mins t k v

/-- Write a key; the default is not listed. -/
def mput {α : Type} [DecidableEq α] (d : α) (m : SMap α) (k : Nat) (v : α) : SMap α :=
  if v = d then mdel m k else mins (mdel m k) k v

/-- Write several keys, the last write of a key remaining. -/
def mputs {α : Type} [DecidableEq α] (d : α) (m : SMap α) (kvs : List (Nat × α)) : SMap α :=
  kvs.foldl (fun m e => mput d m e.1 e.2) m

/-- The canonical form: keys strictly rising, no entry equal to the default. -/
def mwf {α : Type} [DecidableEq α] (d : α) : SMap α → Bool
  | [] => true
  | (k, v) :: t => v != d && t.all (fun e => k < e.1) && mwf d t

/-! ## Bits -/

/-- Field of a natural number: `w` bits from bit `lo`. -/
def bits (x lo w : Nat) : Nat := x / 2 ^ lo % 2 ^ w

/-- Sign-extend the low n bits. -/
def sext (x n : Nat) : Int := let y := x % 2 ^ n; if y < 2 ^ (n - 1) then y else (y : Int) - 2 ^ n

/-- The low 32 bits of an integer. -/
def wordOfInt (x : Int) : Word := BitVec.ofInt 32 x

/-- Little-endian value of bytes (R107). -/
def bytesToNat : List Byte → Nat
  | [] => 0
  | b :: t => b.toNat + 256 * bytesToNat t

/-- The low n bytes of a number, little-endian. -/
def natToBytes : Nat → Nat → List Byte
  | 0, _ => []
  | n + 1, x => BitVec.ofNat 8 x :: natToBytes n (x / 256)

/-- Remove repeats, keeping the first. -/
def dedup {α : Type} [DecidableEq α] (l : List α) : List α := l.foldl (fun acc a => if a ∈ acc then acc else acc ++ [a]) []

/-- Insertion by a key. -/
def insertBy {α : Type} (f : α → Nat) (a : α) : List α → List α
  | [] => [a]
  | b :: t => if f a < f b then a :: b :: t else b :: insertBy f a t

/-- Stable sort by a key. -/
def sortBy {α : Type} (f : α → Nat) (l : List α) : List α := l.foldl (fun acc a => insertBy f a acc) []

/-! ## Register keys (R7, R12) -/

/-- Key of a vector cell: block, crew, cell, lane. -/
def cellKey (b c n l : Nat) : Nat := ((b * 32 + c) * 1024 + n) * 32 + l
/-- Key of a crew or, with crew 32, of a feed context. -/
def crewKey (b c : Nat) : Nat := b * 33 + c
/-- Key of a k-register. -/
def kKey (b c n : Nat) : Nat := crewKey b c * 64 + n
/-- Key of a q-register. -/
def qKey (b c n : Nat) : Nat := crewKey b c * 4 + n
/-- Key of a thread. -/
def thrKey (b c l : Nat) : Nat := crewKey b c * 32 + l
/-- The crew number that stands for the feed context. -/
def feedCrew : Nat := 32

/-- Crew state before it is placed (Tables 3.2, 3.3, 13.3, 13.5). -/
def CrewSt.init : CrewSt := { wb := 0, abnd := 0, cpart := 5, cfpm := 0, cfps := 0, live := 0xFFFFFFFF }
/-- The reset partial (R49). -/
def Partial.reset : Partial := { p := 0, e := none, s := 0, nan := false, pinf := false, ninf := false }
/-- Call state with nothing pushed. -/
def CallSt.init : CallSt := { depth := 0, hw := [] }

/-- Vector cell of a lane. -/
def Regs.vcell (r : Regs) (b c n l : Nat) : Word := mget 0 r.cells (cellKey b c n l)
/-- Write a cell of a lane. -/
def Regs.setCell (r : Regs) (b c n l : Nat) (w : Word) : Regs := { r with cells := mput 0 r.cells (cellKey b c n l) w }
/-- Partial of the element in a cell. -/
def Regs.part (r : Regs) (b c n l : Nat) : Partial := mget .reset r.parts (cellKey b c n l)
/-- Write a partial. -/
def Regs.setPart (r : Regs) (b c n l : Nat) (x : Partial) : Regs := { r with parts := mput .reset r.parts (cellKey b c n l) x }
/-- k-register of a crew or feed context. -/
def Regs.kreg (r : Regs) (b c n : Nat) : Word := mget 0 r.k (kKey b c n)
/-- Write a k-register. -/
def Regs.setK (r : Regs) (b c n : Nat) (w : Word) : Regs := { r with k := mput 0 r.k (kKey b c n) w }
/-- q-register. -/
def Regs.qreg (r : Regs) (b c n : Nat) : Bool := mget false r.q (qKey b c n)
/-- Write a q-register. -/
def Regs.setQ (r : Regs) (b c n : Nat) (v : Bool) : Regs := { r with q := mput false r.q (qKey b c n) v }
/-- Predicate p_n of a thread; p0 is true (R113). -/
def Regs.preg (r : Regs) (b c l n : Nat) : Bool := n == 0 || (mget 0 r.p (thrKey b c l)).getLsbD n
/-- Write p_n; p0 takes no write. -/
def Regs.setP (r : Regs) (b c l n : Nat) (v : Bool) : Regs :=
  if n = 0 then r
  else
    let old := mget 0 r.p (thrKey b c l)
    let bit : BitVec 8 := 1 <<< n
    { r with p := mput 0 r.p (thrKey b c l) (if v then old ||| bit else old &&& ~~~bit) }
/-- Crew state. -/
def Regs.crewSt (r : Regs) (b c : Nat) : CrewSt := mget .init r.crew (crewKey b c)
/-- Write crew state. -/
def Regs.setCrew (r : Regs) (b c : Nat) (x : CrewSt) : Regs := { r with crew := mput .init r.crew (crewKey b c) x }
/-- OR flags into CFPS (R42). -/
def Regs.orFlags (r : Regs) (b c : Nat) (f : FFlags) : Regs :=
  let x := r.crewSt b c
  r.setCrew b c { x with cfps := x.cfps ||| f.setWidth 32 }
/-- Call state of a thread. -/
def Regs.callSt (r : Regs) (b c l : Nat) : CallSt := mget .init r.call (thrKey b c l)
/-- Write call state. -/
def Regs.setCall (r : Regs) (b c l : Nat) (x : CallSt) : Regs := { r with call := mput .init r.call (thrKey b c l) x }

/-- One register write of a pending operation of block b. -/
def Regs.apply (r : Regs) (b : Nat) : RegWr → Regs
  | .cell c n l w => r.setCell b c n l w
  | .k c n w => r.setK b c n w
  | .q c n v => r.setQ b c n v
  | .p c l n v => r.setP b c l n v
  | .flags c f => r.orFlags b c f
  | .part c n l x => r.setPart b c n l x

/-- Register writes in order. -/
def Regs.applyAll (r : Regs) (b : Nat) (ws : List RegWr) : Regs := ws.foldl (fun r w => r.apply b w) r

/-! ## Blocks, launches, contexts -/

/-- No block. -/
def Block.none : Block :=
  { id := 0, launch := 0, lin := 0, core := 0, st := .complete, run := Option.none, placeable := false, inPlace := false, feedDone := true,
    spadBase := 0, cellBase := [], twin := Option.none, primary := true, quotaWait := false, placedAt := 0, exclAt := Option.none, charged := 0 }
/-- No launch. -/
def Launch.none : Launch :=
  { uid := 0, id := 0, record := 0, queue := 0, ctx := 0, st := .ended, counter := 0, nextBlk := 0, releasedAt := 0, waitFrom := 0,
    blocking := false, status := 0, stopped := false, wqHead := 0, wqTail := 0, lbars := 0, lbarOrder := [], segState := 0, clearFrom := 0 }
/-- A context page before the driver writes it (Tables 23.x, 29.1): WDL 32 (R317), PERIOD 1,000 and QUOTA 0 (Table 27.4). -/
def CtxPage.init : CtxPage :=
  { live := false, top := 0, privileged := false, tenant := 0, validate := false, routing := 0, wdl := 32, pinq := 0, bpmask := 0,
    shtbase := 0, shtlen := 0, fqbase := 0, fqlog := 0, fqset := false, fqread := 0, fqwritten := 0, swapbase := 0, swaplen := 0,
    eqcfg := 0xFA00000000000000, eqrem := 0, eqnext := 0 }

/-- Block by number. -/
def State.block (s : State) (b : Nat) : Block := (s.disp.blocks.find? (·.id == b)).getD .none
/-- Launch by the model's number. -/
def State.launch (s : State) (u : Nat) : Launch := (s.disp.launches.find? (·.uid == u)).getD .none
/-- Launch of a block. -/
def State.launchOf (s : State) (b : Nat) : Launch := s.launch (s.block b).launch
/-- Context page. -/
def State.ctx (s : State) (c : Nat) : CtxPage := mget .init s.host.ctxs c
/-- Write a context page. -/
def State.setCtx (s : State) (c : Nat) (x : CtxPage) : State := { s with host := { s.host with ctxs := mput .init s.host.ctxs c x } }
/-- Context of a block. -/
def State.ctxOf (s : State) (b : Nat) : Nat := (s.launchOf b).ctx
/-- Tenant of a context (R65). -/
def State.tenant (s : State) (c : Nat) : Nat := (s.ctx c).tenant
/-- Replace a block. -/
def State.setBlock (s : State) (x : Block) : State :=
  { s with disp := { s.disp with blocks := s.disp.blocks.map fun y => if y.id == x.id then x else y } }
/-- Replace a launch. -/
def State.setLaunch (s : State) (x : Launch) : State :=
  { s with disp := { s.disp with launches := s.disp.launches.map fun y => if y.uid == x.uid then x else y } }
/-- The clock as a number. -/
def State.now (s : State) : Nat := s.clk.gcyc.toNat

/-- Field of the launch record (Table 23.1). -/
def Launch.fld (l : Launch) (lo w : Nat) : Nat := (l.record.extractLsb' lo w).toNat
/-- KENTRY. -/
def Launch.kentry (l : Launch) : Nat := l.fld 32 32
/-- FENTRY. -/
def Launch.fentry (l : Launch) : Nat := l.fld 64 32
/-- CODEBASE. -/
def Launch.codebase (l : Launch) : Nat := l.fld 96 64
/-- NBLKX, NBLKY, NBLKZ by axis. -/
def Launch.nblk (l : Launch) (axis : Nat) : Nat := l.fld (160 + 32 * axis) 25
/-- Number of blocks. -/
def Launch.total (l : Launch) : Nat := l.nblk 0 * l.nblk 1 * l.nblk 2
/-- CREWS. -/
def Launch.crews (l : Launch) : Nat := l.fld 256 6
/-- regs: 8 × REGS8. -/
def Launch.regs (l : Launch) : Nat := 8 * l.fld 262 8
/-- ACC. -/
def Launch.acc (l : Launch) : Nat := l.fld 270 5
/-- scratch: 1,024 × SCRK. -/
def Launch.scratch (l : Launch) : Nat := 1024 * l.fld 275 10
/-- PRIO. -/
def Launch.prio (l : Launch) : Nat := l.fld 285 3
/-- BAGE. -/
def Launch.bage (l : Launch) : Nat := l.fld 288 8
/-- Blocks of a cluster group: 2^GROUPL. -/
def Launch.group (l : Launch) : Nat := 2 ^ l.fld 296 2
/-- GUARDED. -/
def Launch.guarded (l : Launch) : Bool := l.fld 298 1 == 1
/-- TRAPMODE: inspect. -/
def Launch.inspect (l : Launch) : Bool := l.fld 299 1 == 1
/-- ECTX. -/
def Launch.ectx (l : Launch) : Nat := l.fld 300 8
/-- CALLDEPTH. -/
def Launch.calldepth (l : Launch) : Nat := l.fld 308 6
/-- WQL. -/
def Launch.wql (l : Launch) : Nat := l.fld 314 5
/-- GBASE. -/
def Launch.gbase (l : Launch) : Nat := l.fld 320 11
/-- GLEN. -/
def Launch.glen (l : Launch) : Nat := l.fld 331 11
/-- GSEG. -/
def Launch.gseg (l : Launch) : Nat := l.fld 342 12
/-- GLAST, PLAST, JLAST by level kind 1 to 3. -/
def Launch.last (l : Launch) (kind : Nat) : Bool := l.fld (353 + kind) 1 == 1
/-- CALLBASE. -/
def Launch.callbase (l : Launch) : Nat := l.fld 384 64
/-- WQBASE. -/
def Launch.wqbase (l : Launch) : Nat := l.fld 448 64
/-- PREDn. -/
def Launch.pred (l : Launch) (n : Nat) : Nat := l.fld (576 + 32 * n) 32
/-- LAUNCHID, GRAPHID, PHASEID, JOBID by level kind 0 to 3. -/
def Launch.levelId (l : Launch) (kind : Nat) : Nat := if kind = 0 then l.id else l.fld (672 + 32 * kind) 32
/-- DEPTH of window w. -/
def Launch.depth (l : Launch) (w : Nat) : Nat := l.fld (800 + 16 * w) 7
/-- Panel bytes of window w. -/
def Launch.panel (l : Launch) (w : Nat) : Nat := 64 * l.fld (808 + 16 * w) 8
/-- queues: window bytes of a quarter (R304). -/
def Launch.queues (l : Launch) : Nat := ((List.range 12).map fun w => l.depth w * l.panel w).sum

/-- Quarter of a crew (R8). -/
def crewQtr (c : Nat) : Nat := c % 4
/-- Slot of a crew in its quarter (R8). -/
def crewSlot (c : Nat) : Nat := c / 4
/-- Die of a core. -/
def coreDie (core : Nat) : Nat := core / 96
/-- Cluster of a core, 0 to 47. -/
def coreCluster (core : Nat) : Nat := core / 8
/-- Block index on an axis (R308: x + NBLKX × (y + NBLKY × z)). -/
def blockIdx (l : Launch) (lin axis : Nat) : Nat :=
  if axis = 0 then lin % l.nblk 0
  else if axis = 1 then lin / l.nblk 0 % l.nblk 1
  else lin / (l.nblk 0 * l.nblk 1)

/-! ## Memory bytes (R82, R107) -/

/-- What a byte of memory that nothing has written reads as (log 2). -/
def memDefault : Byte := 0
/-- Byte at a physical address. -/
def State.memByte (s : State) (pa : Nat) : Byte := mget memDefault s.mem.cells pa
/-- n bytes from a physical address. -/
def State.memBytes (s : State) (pa n : Nat) : List Byte := (List.range n).map fun i => s.memByte (pa + i)
/-- Store a byte. -/
def Mem.put (m : Mem) (pa : Nat) (b : Byte) : Mem := { m with cells := mput memDefault m.cells pa b }
/-- Store bytes at offsets from an address. -/
def Mem.putAt (m : Mem) (pa : Nat) (bs : List (Nat × Byte)) : Mem := bs.foldl (fun m e => m.put (pa + e.1) e.2) m
/-- Store consecutive bytes. -/
def Mem.putBytes (m : Mem) (pa : Nat) (bs : List Byte) : Mem := m.putAt pa ((List.range bs.length).zip bs)
/-- The canonical form of memory. -/
def Mem.wf (m : Mem) : Bool := mwf memDefault m.cells

/-- Is any of n bytes poisoned (R335)? Poison is kept by words of 8 bytes. -/
def State.poisonedAt (s : State) (pa n : Nat) : Bool := (List.range ((pa % 8 + n + 7) / 8)).any fun i => mget false s.mem.poison (pa / 8 + i)

/-- Poisoned words of a line of memory. -/
def State.lineBad (s : State) (line : Nat) : BitVec 8 :=
  (List.range 8).foldl (fun m i => if mget false s.mem.poison (line * 8 + i) then m ||| 1 <<< i else m) 0
/-- Bytes and poisoned words of a line of memory. -/
def State.lineData (s : State) (line : Nat) : List Byte × BitVec 8 := (s.memBytes (line * 64) 64, s.lineBad line)
/-- Is any of n bytes from an offset of a line among poisoned words of it? -/
def wordsBad (bad : BitVec 8) (off n : Nat) : Bool := (List.range 8).any fun i => bad.getLsbD i && decide (8 * i < off + n) && decide (off < 8 * i + 8)

/-! ## What a home serves of a line (R82)

A line has one home where the driver keeps R82's condition, and then its bytes are those of memory. Where two homes hold a line, at most one copy is memory's;
the others are their own (`MscLine.own`). -/

/-- The MSC line of a slice that holds a line. -/
def State.mscFind (s : State) (slice line : Nat) : Option MscLine := s.sl.lines.find? fun m => m.slice == slice && m.line == line
/-- Is it a copy of a line whose bytes memory holds? -/
def MscLine.shares (m : MscLine) (line : Nat) : Bool := m.line == line && m.own.isNone
/-- What stands behind the slices of a line: what HBM holds under a dirty copy, else memory's bytes. -/
def State.behind (s : State) (line : Nat) : List Byte × BitVec 8 :=
  match s.sl.lines.find? fun m => m.shares line with
  | some m => if m.dirty then m.hbm else s.lineData line
  | none => s.lineData line
/-- Bytes and poisoned words of a line as a home slice serves it. -/
def State.homeData (s : State) (slice line : Nat) : List Byte × BitVec 8 :=
  match s.mscFind slice line with
  | some m => m.own.getD (s.lineData line)
  | none => s.behind line
/-- n bytes of a line from a physical address as its home slice serves them. -/
def State.homeBytes (s : State) (slice pa n : Nat) : List Byte := ((s.homeData slice (pa / 64)).1.drop (pa % 64)).take n
/-- Is any of n bytes of a line poisoned at its home slice? -/
def State.homeBad (s : State) (slice pa n : Nat) : Bool := wordsBad (s.homeData slice (pa / 64)).2 (pa % 64) n

/-- Key of a scratchpad byte of a block. -/
def spadKey (b x : Nat) : Nat := b * 2 ^ 20 + x
/-- Scratchpad byte of a block's area: a free value until something has written it (R11; log 3). -/
def Spad.byte (p : Spad) (b x : Nat) : Byte := (mget none p.bytes (spadKey b x)).getD (Config.scratchByte (spadKey b x))
/-- n scratchpad bytes. -/
def Spad.read (p : Spad) (b x n : Nat) : List Byte := (List.range n).map fun i => p.byte b (x + i)
/-- Store scratchpad bytes at offsets. -/
def Spad.write (p : Spad) (b x : Nat) (bs : List (Nat × Byte)) : Spad :=
  { p with bytes := bs.foldl (fun m e => mput none m (spadKey b (x + e.1)) (some e.2)) p.bytes }

/-! ## The issuing bundle -/

/-- Crew of the issuing bundle: that of its lowest lane; the feed context's number for a feed thread. -/
def Bundle.crew (u : Bundle) : Nat := if u.feed then feedCrew else (u.members.head?.map (·.crew)).getD 0
/-- Crews of the bundle, each once. -/
def Bundle.crews (u : Bundle) : List Nat := if u.feed then [feedCrew] else dedup (u.members.map (·.crew))
/-- Core of the issuing block. -/
def State.curCore (s : State) : Nat := (s.block s.sch.cur.blk).core
/-- Quarter of the issuing bundle. -/
def State.curQtr (s : State) : Nat := crewQtr s.sch.cur.crew
/-- Does the guard hold in a thread (R113)? -/
def State.guardOn (s : State) (g : Guard) (m : Member) : Bool := s.regs.preg s.sch.cur.blk m.crew m.lane g.toNat
/-- Active lanes whose guard is true. -/
def State.lanesOn (s : State) (g : Guard) : List Member := s.sch.cur.members.filter (s.guardOn g)
/-- Guard of a uniform-path instruction: that of the lowest active lane (R27); a feed thread has none. -/
def State.uniformOn (s : State) (g : Guard) : Bool :=
  match s.sch.cur.members.head? with
  | some m => s.guardOn g m
  | none => true

/-- Replace the issuing bundle. -/
def State.setCur (s : State) (u : Bundle) : State := { s with sch := { s.sch with cur := u } }
/-- Replace the register files. -/
def State.setRegs (s : State) (r : Regs) : State := { s with regs := r }
/-- Replace the pending operations and caches. -/
def State.setPipe (s : State) (p : Pipe) : State := { s with pipe := p }

/-- Move a bundle n words on inside its clause; at the clause's end the next word must be a header (R108). -/
def Bundle.step (u : Bundle) (n now : Nat) : Bundle :=
  { u with
    pc := u.pc + BitVec.ofNat 32 (4 * n)
    clause := match u.clause with
      | .some c => if c.left ≤ n then .none else .some { c with left := c.left - n }
      | .none => .none
    wait := .ready, since := now, pass := false, adv := 0, ahead := 0 }

/-- Has a bundle with this wait not issued its instruction: it is RUNNING, HELD, or WAITING for a condition under which the instruction issues
(R26)? -/
def Wait.unissued : Wait → Bool
  | .ready | .flags _ | .score | .again | .crew | .girthFull | .held => true
  | _ => false

/-- The issuing bundle goes on at the word after an instruction of n words. -/
def State.advance (s : State) (n : Nat) : State := s.setCur (s.sch.cur.step n s.now)
/-- The issuing bundle waits; `adv` words are passed when the wait ends. Its waiting time counts from the cycle in which it last issued: a
bundle that cannot issue its instruction yet keeps it (R18). -/
def State.park (s : State) (w : Wait) (adv : Nat) : State :=
  s.setCur { s.sch.cur with wait := w, adv := adv, since := if w.unissued then s.sch.cur.since else s.now, ahead := 0 }
/-- Take the issuing bundle away. -/
def State.dropCur (s : State) : State := { s with sch := { s.sch with curOn := false, cur := Bundle.none } }
/-- Put bundles among those that wait for issue. -/
def State.addBundles (s : State) (us : List Bundle) : State :=
  { s with sch := { s.sch with bundles := s.sch.bundles ++ us.filter fun u => u.feed || !u.members.isEmpty } }
/-- An event that becomes due (log 1). -/
def State.due (s : State) (is : List Instr) : State := { s with sch := { s.sch with agenda := s.sch.agenda ++ is } }

/-! ## Completion flags (R109) -/

/-- Is flag fn of a crew or feed context pending? -/
def State.flagPending (s : State) (b c n : Nat) : Bool := s.pipe.pends.any fun p => p.blk == b && p.crew == c && p.flag == n && n != 0
/-- Is a register the destination of a pending result (R110)? -/
def State.keyPending (s : State) (k : RegKey) : Bool := s.pipe.pends.any fun p => p.regs.contains k
/-- SETA flag of the issuing clause. -/
def State.seta (s : State) : Nat := (s.sch.cur.clause.map (·.seta)).getD 0
/-- SETB flag of the issuing clause. -/
def State.setb (s : State) : Nat := (s.sch.cur.clause.map (·.setb)).getD 0
/-- A pending operation with nothing filled in. -/
def Pend.blank : Pend :=
  { id := 0, blk := 0, crew := 0, flag := 0, seta := true, regs := [], outs := [], plan := .none, lanes := [], parts := 0,
    isRead := false, isWrite := false, pc := 0, poisoned := false, acq := 0, mirror := none, matrix := false }
/-- Threads of a bundle: its members, or the feed thread. -/
def Bundle.threads (u : Bundle) : List Member := if u.feed then [⟨0, feedCrew⟩] else u.members
/-- Code of a bundle's threads, by which guarded blocks know it: its lowest thread. -/
def threadsCode (feed : Bool) (ms : List Member) : Nat := if feed then feedCrew else (ms.map fun m => 128 + 32 * m.crew + m.lane).foldl min 2048
/-- Code of a bundle. -/
def Bundle.code (u : Bundle) : Nat := threadsCode u.feed u.members

/-- Add a pending operation; it takes the next number. -/
def State.addPend (s : State) (p : Pend) : State :=
  { s with pipe := { s.pipe with nextId := s.pipe.nextId + 1, pends := s.pipe.pends ++ [{ p with id := s.pipe.nextId, ms := s.sch.cur.threads }] } }
/-- Change the pending operation of a number. -/
def State.mapPend (s : State) (id : Nat) (f : Pend → Pend) : State :=
  { s with pipe := { s.pipe with pends := s.pipe.pends.map fun p => if p.id == id then f p else p } }
/-- Remove a pending operation. -/
def State.dropPend (s : State) (id : Nat) : State :=
  { s with pipe := { s.pipe with pends := s.pipe.pends.filter fun p => p.id != id } }
/-- The pending operation of a number. -/
def State.pend (s : State) (id : Nat) : Option Pend := s.pipe.pends.find? (·.id == id)

/-! ## Taking an exception (R312 to R316) and returning from one (R314) -/

/-- Class number of Table 23.3. -/
def Trap.num : Trap → Nat
  | .illop => 1 | .member => 2 | .maskself => 3 | .partialCrew => 4 | .atomdup => 5 | .xlate => 6 | .prot => 7 | .bounds => 8
  | .misalign => 9 | .peergone => 10 | .girthseg => 11 | .kvpos => 12 | .queue => 13 | .holdovf => 14 | .eccunc => 15
  | .trap => 16 | .watchdog => 17

/-- Does the class report a virtual address (R314)? -/
def Trap.hasVa : Trap → Bool
  | .xlate | .prot | .bounds | .misalign | .kvpos => true
  | _ => false

/-- Bin entries of a crew as threads. -/
def Bin.threadsOf (n : Bin) (crew : Nat) : List Member :=
  (n.entries.filter fun e => e.slot * 4 + n.qtr == crew).map fun e => ⟨e.lane, crew⟩

/-- Does an entry of a bin stand for a thread of a crew inside a clause? One outside must meet a header (R111) and reaches no instruction there. -/
def Bin.inside (n : Bin) (crew : Nat) (e : BinEntry) : Bool := e.slot * 4 + n.qtr == crew && e.clause.isSome
/-- Bin entries of a crew inside a clause as threads. -/
def Bin.insideOf (n : Bin) (crew : Nat) : List Member := (n.entries.filter (n.inside crew)).map fun e => ⟨e.lane, crew⟩

/-- Threads of a crew of a block that are arrived at a PC outside the issuing bundle: filed or held there (R23). -/
def State.arrivedElsewhere (s : State) (b crew : Nat) (pc : Word) : List Member :=
  ((s.sch.bins.filter fun n => n.blk == b && n.pc == pc).flatMap (·.insideOf crew)) ++
  ((s.sch.bundles.filter fun u => !u.feed && u.blk == b && u.pc == pc && u.wait == .held).flatMap fun u =>
    u.members.filter (·.crew == crew))

/-- Remove threads of a crew at a PC from bins and held bundles (R14: an empty bin is FREE). -/
def Sched.withdraw (h : Sched) (b crew : Nat) (pc : Word) : Sched :=
  { h with
    bins := (h.bins.map fun n => if n.blk == b && n.pc == pc then { n with entries := n.entries.filter fun e => !(n.inside crew e) } else n)
      |>.filter fun n => !n.entries.isEmpty
    bundles := (h.bundles.map fun u =>
        if !u.feed && u.blk == b && u.pc == pc && u.wait == .held then { u with members := u.members.filter (·.crew != crew) } else u)
      |>.filter fun u => u.feed || !u.members.isEmpty }

/-- Members in lane order. -/
def laneSort (ms : List Member) : List Member := sortBy (·.lane) ms

/-- Route of a class (R314, R328): to the control core where the context's mask says so or it has no fault queue. -/
def State.routedToCore (s : State) (ctx : Nat) (t : Trap) : Bool :=
  let p := s.ctx ctx
  p.routing.getLsbD (t.num - 1) || !p.fqset

/-! ## The girth's slots and a block that leaves (R235, R289) -/

/-- A slot header that nothing has written (Table 19.2). -/
def SlotHdr.init : SlotHdr := { seg := 0, tag := 0, hold := none, rsv := none }
/-- Header of a girth slot. -/
def State.slotHdr (s : State) (n : Nat) : SlotHdr := mget .init s.gi.hdr n
/-- Write a header. -/
def State.setHdr (s : State) (n : Nat) (h : SlotHdr) : State := { s with gi := { s.gi with hdr := mput .init s.gi.hdr n h } }

/-- Does a hold belong to a block? -/
def SlotHdr.heldBy (h : SlotHdr) (b : Nat) : Bool := match h.hold with
  | some x => x.2.1 == b
  | none => false
/-- Is a slot held by a crew of a block? -/
def SlotHdr.heldOf (h : SlotHdr) (b c : Nat) : Bool := h.heldBy b && h.hold.any fun x => x.2.2.1 == c
/-- A hold that will lapse at its ending passage: no crew closes it any more (R289). -/
def SlotHdr.lapsing (h : SlotHdr) : SlotHdr := { h with hold := h.hold.map fun x => (x.1, 0, 0, x.2.2.2) }
/-- The holds of a block will lapse, the data staying (R289). -/
def State.lapseHolds (s : State) (b : Nat) : State :=
  s.gi.hdr.foldl (fun t (e : Nat × SlotHdr) => if e.2.heldBy b then t.setHdr e.1 e.2.lapsing else t) s
/-- The holds of a crew will lapse (R289). -/
def State.lapseCrew (s : State) (b c : Nat) : State :=
  s.gi.hdr.foldl (fun t (e : Nat × SlotHdr) =>
    if e.2.heldOf b c then t.setHdr e.1 e.2.lapsing else t) s

/-- No stop of the girth: where a girth operation stands that is abandoned until it is issued again. -/
def noStop : Nat := 384

/-- The girth operations of a block that have not acted are abandoned until the block is back, and its holds will lapse (R235, R289). -/
def State.leaveGirth (s : State) (b : Nat) : State :=
  State.lapseHolds { s with gi := { s.gi with ops := s.gi.ops.map fun (o : GirthOp) => if o.blk == b then { o with stop := noStop } else o } } b
/-- Abandoned operations of a core's running blocks are issued again while its stop has room: at most 32 are pending there (R235, R285). -/
def State.backGirth (s : State) (core : Nat) : State :=
  let back := (s.gi.ops.filter fun o => o.stop == noStop && (s.block o.blk).core == core && (s.block o.blk).st == .running &&
    !(s.sch.faults.any fun f => f.blk == o.blk && f.inspect && !f.feed && f.crew == o.crew)).take (32 - (s.gi.ops.filter fun o => o.stop == core).length)
  let send := fun (o : GirthOp) => if back.contains o = true then { o with stop := core, ready := s.now + 3, from' := s.now + 3, passed := [] } else o
  { s with gi := { s.gi with ops := s.gi.ops.map send } }

/-- A fault of a crew or feed context in inspect mode: the block's girth operations that have not acted are abandoned, and those of the crews that
run on issue again at once (R235, R313); the holds of the HALTED crew will lapse (R289; log 36). -/
def State.faultGirth (s : State) (f : FaultRec) : State :=
  let t := { s with gi := { s.gi with ops := s.gi.ops.map fun (o : GirthOp) => if o.blk == f.blk then { o with stop := noStop } else o } }
  (if f.feed then t else t.lapseCrew f.blk f.crew).backGirth (s.block f.blk).core

/-- A block stops at instruction boundaries to be swapped out, for a reason (R313, R318); one that has stopped already has a reason more: other
than a wait it stands. -/
def State.stopBlock (s : State) (b why : Nat) : State :=
  let x := s.block b
  if x.st == .running || x.st == .placed then ((s.setBlock { x with st := .draining, why := why }).leaveGirth b).due [.swapOut b]
  else if why == 2 && x.why == 1 then s.setBlock { x with why := 2 }
  else s

/-- Blocks of a launch that are placed and not complete. -/
def State.liveBlocks (s : State) (u : Nat) : List Nat := (s.disp.blocks.filter fun x => x.launch == u && x.st != .complete).map fun x => x.id

/-- Blocks placed and not complete, a guarded pair counting once: what a stopped launch still waits for. -/
def State.outstanding (s : State) (u : Nat) : Nat :=
  (s.disp.blocks.filter fun x => x.launch == u && x.st != .complete && x.primary).length

/-- A launch stops with a status (R204, Table 23.2): nothing more of it is placed, its blocks stop, and it completes after the last. -/
def State.stopLaunch (s : State) (u status : Nat) : State :=
  let l := s.launch u
  let t := s.setLaunch { l with stopped := true, status := max l.status status, counter := s.outstanding u, nextBlk := l.total }
  t.due ((t.liveBlocks u).map Instr.cancelStop ++ if s.outstanding u = 0 then [.levelComplete 0 u] else [])

/-- The block is killed (R313, R314): its launch stops and ends KILLED. -/
def State.killBlock (s : State) (b : Nat) : State := s.stopLaunch (s.block b).launch 2

/-- What an instruction tells the exception entry. -/
structure TrapInfo where
  cls : Trap
  code : Nat := 0
  va : Nat := 0
  lane : Nat := 0
  words : Nat := 1
  /-- The fault applies to every arrived thread of the crew (R24, R314). -/
  bound : Bool := false
  /-- Clause of the next word, where the faulting word had to be a header. -/
  after : Option Clause := none
deriving DecidableEq, Repr

/-- Fault record of a thread set (R314, Table 23.8). -/
def State.mkFault (s : State) (i : TrapInfo) (u : Bundle) (threads : List Member) : FaultRec :=
  let l := s.launchOf u.blk
  { id := s.sch.nextFault, seq := 0, blk := u.blk, feed := u.feed, crew := if u.feed then 0 else ((threads.find? fun m => m.lane == i.lane).map fun m => m.crew).getD u.crew, lane := if u.feed then 0 else i.lane,
    pc := u.pc, clause := u.clause, after := i.after, cls := i.cls, code := i.code, va := if i.cls.hasVa then i.va else 0, time := s.now,
    threads := threads, words := i.words, nextWord := i.cls == .trap && i.code < 128,
    toCore := s.routedToCore l.ctx i.cls, inspect := l.inspect, written := false, moved := false }

/-- The guarded pair of a block (R341). -/
def State.pairOf (s : State) (b : Nat) : Option Pair := s.grd.pairs.find? fun p => p.primary == b || p.twin == b
/-- Change the pair of a primary. -/
def State.mapPair (s : State) (primary : Nat) (f : Pair → Pair) : State :=
  { s with grd := { s.grd with pairs := s.grd.pairs.map fun p => if p.primary == primary then f p else p } }
/-- ECCUNC in a guarded block: its pair must roll back (R345). Where the commit action of a match is what took it, no checkpoint follows that action;
else one that is under way is made first, since what its match let act is not repeated (R290, R345). -/
def State.pairBad (s : State) (b : Nat) (own : Bool) : State :=
  match s.pairOf b with
  | some p => (s.mapPair p.primary fun q => { q with bad := true, checking := q.checking && !own }).due [.compareSignatures p.primary]
  | none => s

/-- The walk verdicts of a context are told (R324): a later access walks again. -/
def State.dropVerdicts (s : State) (ctx : Nat) : State := { s with pipe := { s.pipe with xfaults := s.pipe.xfaults.filter fun e => e.1 != ctx } }

/-- Taking an exception (R312 to R316): the issuing bundle and, at a crew-bound instruction, the crew's arrived threads stop at
the faulting instruction, which changes nothing; a fault entry follows. In swap mode the block is swapped out; in inspect
mode the crew is HALTED. ECCUNC in an unguarded launch kills the block without an entry (R313); in a guarded one it rolls the
pair back (R345). -/
def State.takeTrap (s : State) (i : TrapInfo) : State :=
  let u := s.sch.cur
  let l := s.launchOf u.blk
  if i.cls == .eccunc then (if l.guarded then s.dropCur.pairBad u.blk true else s.dropCur.killBlock u.blk)
  else
    let others := if i.bound && !u.feed then s.arrivedElsewhere u.blk u.crew u.pc else []
    let f := s.mkFault i u (laneSort (u.members ++ others))
    let h := if i.bound && !u.feed then s.sch.withdraw u.blk u.crew u.pc else s.sch
    let s := if i.cls == .xlate then s.dropVerdicts l.ctx else s
    let s := { s with sch := { h with faults := h.faults ++ [f], nextFault := h.nextFault + 1, curOn := false, cur := Bundle.none } }
    if l.inspect then (s.faultGirth f).due [.faultEntryWrite f.id] else (s.stopBlock u.blk 2).due [.faultEntryWrite f.id]

/-- The exception of an illegal instruction (R128). -/
def State.illop (s : State) (words : Nat) (bound : Bool) : State :=
  s.takeTrap { cls := .illop, words := words, bound := bound, lane := (s.sch.cur.members.head?.map fun m => m.lane).getD 0 }

/-- Threads that skip their instruction make no commit action there (R343). -/
def State.spendGo (s : State) (b c : Nat) : State := match s.pairOf b with
  | some p => s.mapPair p.primary fun q => { q with go := q.go.erase (b, c) }
  | none => s

/-- Returning from an exception (R314): the threads of a fault record continue as one unfiled bundle at the point Table 23.3 gives,
or at the next word where `skip` says so. -/
def State.leaveTrap (s : State) (f : FaultRec) (skip : Bool) : State :=
  let u : Bundle := { blk := f.blk, feed := f.feed, pc := f.pc, clause := f.clause, members := f.threads, wait := .ready,
                      since := s.now, pass := false, adv := 0 }
  let u := if skip || f.nextWord then { u.step f.words s.now with clause := if f.clause.isNone then f.after else (u.step f.words s.now).clause } else u
  let s := { s with sch := { s.sch with faults := s.sch.faults.filter (·.id != f.id) } }
  let s := if f.moved then s else s.addBundles [u]
  let s := if f.cls == .holdovf && !skip then
    match s.pairOf f.blk with
    | some p => s.mapPair p.primary fun q => { q with holdPts := q.holdPts ++ [(f.blk, threadsCode f.feed f.threads)] }
    | none => s
  else s
  let s := if skip then s.spendGo f.blk (threadsCode f.feed f.threads) else s
  let x := s.block f.blk
  let waiting := s.sch.faults.any fun g => g.blk == f.blk && !g.inspect
  if f.inspect then s.backGirth x.core
  else if waiting then s
  else (s.setBlock { x with placeable := true }).due (if x.inPlace then [.swapRestore x.id x.core] else [])

/-- A crew of an inspect-mode launch that awaits service is HALTED (R313). -/
def State.halted (s : State) (b crew : Nat) (feed : Bool) : Bool :=
  s.sch.faults.any fun f => f.blk == b && f.inspect && f.feed == feed && (feed || f.crew == crew)

/-- Has a crew, or the feed context, of a block been told to issue one instruction, and not done so yet (R374)? -/
def State.stepping (s : State) (b c : Nat) : Bool := s.host.dbgStep.contains (b, c)
/-- A step of a crew is over, or has given way to a command. -/
def State.stepOver (s : State) (b c : Nat) : State := { s with host := { s.host with dbgStep := s.host.dbgStep.filter fun e => e != (b, c) } }
/-- Number of a fault's crew, the feed context having one of its own. -/
def FaultRec.crewNo (f : FaultRec) : Nat := if f.feed then feedCrew else f.crew
/-- Fault records of a crew or feed context of a block. -/
def State.faultsOf (s : State) (b c : Nat) : List FaultRec := s.sch.faults.filter fun f => f.blk == b && f.crewNo == c

end Sys2Proof.Machine
end

