-- ==== Sys2Proof/Machine/Flags.lean ====
section
/-!
DEFINITION. Flag and predicate computations: integer conditions and carries (spec/11 R146, R149, R150), the FP environment of
CFPM and the flags of CFPS (spec/03 R41, R42), and the inline constants (spec/09 R120).
-/
namespace Sys2Proof.Machine

/-- Integer condition of Table 11.4 on exact values; 6 and 7 are ILLOP. -/
def intCond (cond : Nat) (x y : Int) : Bool :=
  match cond with
  | 0 => x == y
  | 1 => x != y
  | 2 => decide (x < y)
  | 3 => decide (x ≤ y)
  | 4 => decide (y < x)
  | _ => decide (y ≤ x)

/-- IADDC (R146): the sum and the carry out. -/
def addCarry (a b : Word) (cy : Bool) : Word × Bool :=
  let t := a.toNat + b.toNat + cy.toNat
  (BitVec.ofNat 32 t, decide (2 ^ 32 ≤ t))

/-- ISUBB (R146): the difference and the borrow out. -/
def subBorrow (a b : Word) (cy : Bool) : Word × Bool := (a - b - BitVec.ofNat 32 cy.toNat, decide (a.toNat < b.toNat + cy.toNat))

/-- The FP environment of a crew: CFPM at issue (R42). -/
def Regs.fenv (r : Regs) (b c : Nat) : FEnv := FEnv.ofCfpm (r.crewSt b c).cfpm

/-- Integer column of Table 9.5. -/
def intConst (n : Nat) : Word :=
  if n < 32 then BitVec.ofNat 32 n
  else if n < 48 then - BitVec.ofNat 32 (n - 31)
  else if n < 56 then BitVec.ofNat 32 (2 ^ (n - 42))
  else match n with
    | 56 => 0x000000FF
    | 57 => 0x0000FFFF
    | 58 => 0x7FFFFFFF
    | 59 => 0x80000000
    | 60 => 0x00FF00FF
    | 61 => 0x0F0F0F0F
    | 62 => 0x55555555
    | _ => 0x33333333

/-- A constant in a 64-bit integer operand (R115): entries 32 to 47 sign-extended, the others zero-extended. -/
def intConst64 (n : Nat) : DWord := if 32 ≤ n ∧ n < 48 then (intConst n).signExtend 64 else (intConst n).zeroExtend 64

/-- The seven irrational and recurring entries 56 to 62 of Table 9.5 in a format: RNE of the exact value. -/
def fpConstTab (f : Fmt) : List Nat :=
  if f = fp64 then [0x3FD5555555555555, 0x3FC999999999999A, 0x3FC2492492492492, 0x3FBC71C71C71C71C, 0x3FF71547652B82FE,
    0x3FE62E42FEFA39EF, 0x3FE6A09E667F3BCD]
  else if f = fp32 then [0x3EAAAAAB, 0x3E4CCCCD, 0x3E124925, 0x3DE38E39, 0x3FB8AA3B, 0x3F317218, 0x3F3504F3]
  else if f = fp16 then [0x3555, 0x3266, 0x3092, 0x2F1C, 0x3DC5, 0x398C, 0x39A8]
  else [0x3EAB, 0x3E4D, 0x3E12, 0x3DE4, 0x3FB9, 0x3F31, 0x3F35]

/-- Float column of Table 9.5 in a format (R120). -/
def fpConst (f : Fmt) (n : Nat) : Nat :=
  if n < 32 then (f.round .rne false n 0).1
  else if n < 48 then (f.round .rne true (n - 31) 0).1
  else if n < 56 then (f.round .rne false 1 (47 - (n : Int))).1
  else if n = 63 then f.infBits
  else (fpConstTab f).getD (n - 56) 0

/-- How a b constant is read. -/
inductive Cst where
  /-- Integer column, 32 bits. -/
  | int
  /-- Integer column, 64 bits. -/
  | int64
  /-- Float column of a format. -/
  | fp (f : Fmt)
  /-- Float column of a 16-bit format, in both elements. -/
  | packed (f : Fmt)
deriving DecidableEq, Repr

/-- The constant C[n] as an operand. -/
def Cst.val (k : Cst) (n : Nat) : DWord :=
  match k with
  | .int => (intConst n).zeroExtend 64
  | .int64 => intConst64 n
  | .fp f => BitVec.ofNat 64 (fpConst f n)
  | .packed f => BitVec.ofNat 64 (fpConst f n * 2 ^ 16 + fpConst f n)

end Sys2Proof.Machine
end

