-- ==== Sys2Proof/WellFormed.lean ====
section
/-!
DEFINITION. Which instruction words are well formed: the ILLOP conditions of spec/09_encoding_rules.md Table 9.12 and of the
instruction entries that depend on the word alone (register classes, pairs, groups, reserved values of fields). Conditions
that depend on the machine's state (FEATACC, tiles that exist, queue windows, the issuer) are the meanings'.
-/
namespace Sys2Proof

/-- Why an instruction word is ILLOP whatever the state (R128). -/
inductive FormError where
  /-- A field the instruction does not use is not zero (R115, R121). -/
  | reservedField
  /-- A register field names a class the path does not allow (Table 9.4, R140, R208). -/
  | registerClass
  /-- An odd register where a pair is required (R37). -/
  | oddPair
  /-- A register group that starts or ends where it may not (R210, R228, R234, R267). -/
  | group
  /-- A predicate number the path does not allow (R149, R156, R195, R209). -/
  | predicate
  /-- A condition the instruction does not have (R150, R191). -/
  | condition
  /-- An operation, type, mode, format, scope or kind code that is not listed. -/
  | code
  /-- A width outside Table 15.3 (R210). -/
  | width
  /-- A special register that is reserved, or written when RO (R128, R198). -/
  | specialRegister
  /-- A tile number above 15 (R240). -/
  | tile
  /-- A queue number the instruction cannot take (R240). -/
  | queue
  /-- A clause header with LEN 0 or SETA or SETB 13 to 15 (R108). -/
  | header
deriving DecidableEq, Repr

/-- The first condition that holds. -/
def firstError : List (Bool × FormError) → Option FormError
  | [] => none
  | (true, e) :: _ => some e
  | (false, _) :: t => firstError t

/-- The field is in the k range 0x40 to 0x7F (Table 9.4). -/
def Field.isK (f : Field) : Bool := f.getLsbD 6

/-- The register number of the field within its class. -/
def Field.num (f : Field) : Nat := f.toNat % 64

/-- The register number is odd. -/
def Field.odd (f : Field) : Bool := f.getLsbD 0

/-- a on the uniform path must be a k-register (Table 9.4). -/
def uniformA (d a : Field) : Bool × FormError := (d.isK && !a.isK, .registerClass)

/-- d must be a vector register. -/
def needV (d : Field) : Bool × FormError := (d.isK, .registerClass)

/-- The field must be a k-register. -/
def needK (d : Field) : Bool × FormError := (!d.isK, .registerClass)

/-- The field must be even (R37). -/
def needEven (f : Field) : Bool × FormError := (f.odd, .oddPair)

/-- b must be even where it names a register; a constant may be any (R115). -/
def needEvenB (b : Field) : Bool × FormError := (!b.isK && b.odd, .oddPair)

/-- Either path, 32-bit operands. -/
def formDA (d a : Field) : List (Bool × FormError) := [uniformA d a]

/-- Vector path only (R140). -/
def formV (d : Field) : List (Bool × FormError) := [needV d]

/-- FP64 group (R161): vector path, pairs. -/
def formD (d a b : Field) : List (Bool × FormError) := [needV d, needEven d, needEven a, needEvenB b]

/-- Integer pair forms on either path (R145). -/
def form64 (d a b : Field) : List (Bool × FormError) := [uniformA d a, needEven d, needEven a, needEvenB b]

/-- Compares (R149): PRED 0 is ILLOP on the vector path, 4 to 7 on the uniform path. -/
def formCmp (path : BitVec 1) (pred : BitVec 3) (a : Field) : List (Bool × FormError) :=
  [(path == 1 && !a.isK, .registerClass), (path == 0 && pred == 0, .predicate), (path == 1 && 4 ≤ pred.toNat, .predicate)]

/-- Packed compares (R149): no uniform form, PRED 0 and PRED 7 are ILLOP. -/
def formCmp2 (path : BitVec 1) (pred : BitVec 3) : List (Bool × FormError) :=
  [(path == 1, .registerClass), (pred == 0 || pred == 7, .predicate)]

/-- The member mask of Table 13.1: MK must be 0 when SOME is 0. -/
def formMask (m : CrewMod) : Bool × FormError := (m.some == 0 && m.mkReg != 0, .reservedField)

/-- The number of registers of a datum of 2^wid bytes (R210). -/
def groupRegs (wid : BitVec 4) : Nat := if wid.toNat ≤ 2 then 1 else 2 ^ (wid.toNat - 2)

/-- A group of `n` registers at a multiple of `al`, ending at 63 or below (R210, R219). -/
def badGroup (f : Field) (al n : Nat) : Bool × FormError := (f.num % al != 0 || 64 < f.num + n, .group)

/-- The data group of a load or store (R210). -/
def formData (d : Field) (m : MemMod) : Bool × FormError := badGroup d (groupRegs m.wid) (groupRegs m.wid)

/-- Widths up to 2^k bytes (Table 15.3). -/
def maxWidth (m : MemMod) (k : Nat) : Bool × FormError := (k < m.wid.toNat, .width)

/-- The option field b of LD, LDK, LDX, LDS (Table 15.2): [6:4] reserved, SX only for 1 and 2 bytes. -/
def formLoadB (b : Field) (m : MemMod) : List (Bool × FormError) :=
  [(16 ≤ b.toNat, .reservedField), (b.getLsbD 3 && 2 ≤ m.wid.toNat, .code)]

/-- Operands of an atomic operation: ADDB and CAS take two (Table 15.5). -/
def atomOperands (op : BitVec 4) : Nat := if op.toNat == 10 || op.toNat == 12 then 2 else 1

/-- OP of an atomic's b field (Table 15.2). -/
def atomOp (b : Field) : BitVec 4 := b.extractLsb' 3 4

/-- EP or SP of a b field (Table 15.2). -/
def fieldEP (b : Field) : BitVec 3 := b.extractLsb' 0 3

/-- Width and group of ATOM, ATOMK, RED, CAS (Table 15.3, R219). -/
def formAtom (d : Field) (op : BitVec 4) (m : MemMod) : List (Bool × FormError) :=
  [(m.wid != 2 && m.wid != 3, .width), (op == 11 && m.wid == 3, .code),
   badGroup d (groupRegs m.wid) (atomOperands op * groupRegs m.wid)]

/-- EP on the uniform path: 0 none, 1 to 4 name q0 to q3 (R209). -/
def formEPk (b : Field) : Bool × FormError := (4 < (fieldEP b).toNat, .predicate)

/-- A k-register at a multiple of `al`. -/
def formGroupK (a : Field) (al : Nat) : List (Bool × FormError) := [needK a, (a.num % al != 0, .group)]

/-- The girth modifier fields a non-GUPD instruction leaves zero, and QD without PEN (R233). -/
def formGirth (m : GirthMod) (opMax : Nat) (penOk : Bool) : List (Bool × FormError) :=
  [(opMax < m.op.toNat && opMax == 0, .reservedField), (opMax < m.op.toNat, .code),
   (m.w64 != 0 || m.word != 0, .reservedField), (!penOk && (m.pen != 0 || m.qd != 0), .reservedField),
   (m.pen == 0 && m.qd != 0, .reservedField)]

/-- A tile field (R240). -/
def formTile (d : Field) : Bool × FormError := (15 < d.toNat, .tile)

/-- An operand queue field (R240). -/
def formOq (f : Field) : Bool × FormError := (7 < f.toNat, .queue)

/-- Any queue field (R240). -/
def formQ (f : Field) : Bool × FormError := (11 < f.toNat, .queue)

/-- What all MMA forms share (R249). -/
def formMma (d a b : Field) (m : MmaMod) : List (Bool × FormError) :=
  [formTile d, formOq a, formOq b, (a == b, .queue), (m.vce == 0 && m.vc != 0, .reservedField)]

/-- MMAB and MMAH leave GS, SEL and SR zero (Table 17.5). -/
def formMmaFp (m : MmaMod) : List (Bool × FormError) := [(m.gs != 0 || m.sel != 0 || m.sr != 0, .reservedField)]

/-- The grouped forms: Pcount 1, G at most K, SR a multiple of 8 (R53, Table 17.5). -/
def formMmaGrp (m : MmaMod) (gsMax : Nat) : List (Bool × FormError) :=
  [(m.pm1 != 0, .code), (gsMax < m.gs.toNat, .code), (m.sr.toNat % 8 != 0, .group)]

/-- The copy modifier fields an instruction leaves zero (R267). -/
def formCopy (a : Field) (m : CopyMod) (queue mask ix val : Bool) : List (Bool × FormError) :=
  formGroupK a 16 ++
  [(!queue && (m.qtr != 0 || m.qn != 0), .reservedField), (queue && 7 < m.qn.toNat, .queue),
   (!mask && m.mask != 0, .reservedField), (mask && m.mask == 0, .code),
   (!ix && (m.ixv != 0 || m.ixc != 0 || m.ix != 0), .reservedField), (!val && m.val != 0, .reservedField)]

/-- CRED and CSCAN (Table 13.2): types 0 and 1 for integer operations, 0 to 3 for OP 8 to 10. -/
def formRed (d a : Field) (m : CrewMod) : List (Bool × FormError) :=
  [needV d, formMask m, (10 < m.opc.toNat, .code), (3 < m.type.toNat, .code), (m.opc.toNat < 8 && 1 < m.type.toNat, .code),
   (m.type == 1 && (d.odd || a.odd), .oddPair)]

/-- The static ILLOP condition of an instruction, if one holds. The event rows have no word and no such condition. -/
def Instr.formError : Instr → Option FormError
  | .iadd d a _ _ | .iaddc d a _ _ | .isub d a _ _ | .isubb d a _ _ | .imul d a _ _ | .imulhs d a _ _ | .imulhu d a _ _
  | .imad d a _ _ | .idiv d a _ _ | .idivu d a _ _ | .irem d a _ _ | .iremu d a _ _ | .imin d a _ _ | .imax d a _ _
  | .iminu d a _ _ | .imaxu d a _ _ | .lea d a _ _ | .and d a _ _ | .or d a _ _ | .xor d a _ _ | .andn d a _ _
  | .orn d a _ _ | .shl d a _ _ | .shr d a _ _ | .sar d a _ _ | .rotl d a _ _ | .fshl d a _ _ | .fshr d a _ _
  | .bfe d a _ _ | .bfi d a _ _ | .bytep d a _ _ | .fadd d a _ _ | .fsub d a _ _ | .fmul d a _ _ | .ffma d a _ _
  | .fmin d a _ _ | .fmax d a _ _ | .fscl d a _ _ => firstError (formDA d a)
  | .iabs d a _ | .popc d a _ | .clz d a _ | .brev d a _ | .fclass d a _ => firstError (formDA d a)
  | .imad64 d a _ _ | .lea64 d a _ _ => firstError [uniformA d a, needEven d]
  | .iadd64 d a b _ | .isub64 d a b _ | .imul64 d a b _ => firstError (form64 d a b)
  | .clz64 d a _ => firstError [uniformA d a, needEven a]
  | .icmp path cond pred a _ _ | .icmpu path cond pred a _ _ => firstError (formCmp path pred a ++ [(decide (6 ≤ cond.toNat), .condition)])
  | .fcmp path _ pred a _ _ => firstError (formCmp path pred a)
  | .hcmp2 path _ pred _ _ _ | .bcmp2 path _ pred _ _ _ => firstError (formCmp2 path pred)
  | .dcmp path _ pred a b _ => firstError [(path == 1, .registerClass), (pred == 0, .predicate), needEven a, needEvenB b]
  | .sel d a _ s => firstError [uniformA d a, (d.isK && 4 ≤ s.toNat, .predicate)]
  | .frnd d a m _ => firstError [uniformA d a, (5 ≤ m.toNat, .code)]
  | .hadd2 d _ _ _ | .hmul2 d _ _ _ | .hfma2 d _ _ _ | .hmin2 d _ _ _ | .hmax2 d _ _ _
  | .badd2 d _ _ _ | .bmul2 d _ _ _ | .bfma2 d _ _ _ | .bmin2 d _ _ _ | .bmax2 d _ _ _ => firstError (formV d)
  | .dadd d a b _ | .dmul d a b _ | .dfma d a b _ => firstError (formD d a b)
  | .cvtf d a h src dst _ => firstError [uniformA d a, (h == 1 && src != 2 && src != 3, .code),
      ((src == 1 || src == 6 || src == 7) && a.odd, .oddPair), (dst == 1 && d.odd, .oddPair)]
  | .cvti d a mode dst src _ => firstError [uniformA d a, (5 ≤ mode.toNat, .code), (src == 1 && a.odd, .oddPair),
      (2 ≤ dst.toNat && d.odd, .oddPair)]
  | .pack2 d a m _ => firstError [needV d, needEven a, (5 ≤ m.toNat, .code)]
  | .rcp d _ _ | .rsq d _ _ | .sqrt d _ _ | .exp2 d _ _ | .log2 d _ _ | .sinp d _ _ | .cosp d _ _ | .tanh d _ _ => firstError (formV d)
  | .mov _ _ _ | .movi _ _ _ | .movl _ _ _ | .bra _ _ _ | .brau _ _ _ _ | .jmp _ _ | .jmpi _ _ | .call _ _ | .calli _ _
  | .ret _ | .reform | .exit _ | .nop | .yieldI | .bar _ _ | .lbar | .fenceo | .p2v _ _ | .winbImm _ _ | .winbReg _ _
  | .trap _ _ | .cancelSelf _ _ | .cancelId _ _ _ | .wqpop _ _ _ | .wqpush _ _ _ | .invl1 _ | .tdfree _ | .fend => none
  | .vote d _ m => firstError [needV d, formMask m, (2 < m.opc.toNat, .code), (m.type != 0, .code)]
  | .shfl d a _ _ m => firstError [needV d, formMask m, (3 < m.opc.toNat, .code), (1 < m.type.toNat, .code),
      (m.type == 1 && (d.odd || a.odd), .oddPair), (8 ≤ m.imm.toNat, .reservedField)]
  | .cred d a _ m => firstError (formRed d a m ++ [(m.imm != 0, .reservedField)])
  | .cscan d a _ m => firstError (formRed d a m ++ [(decide (2 ≤ m.imm.toNat), .reservedField)])
  | .matchEq d a _ m => firstError [needV d, formMask m, (m.opc != 0, .code), (1 < m.type.toNat, .code),
      (m.type == 1 && (d.odd || a.odd), .oddPair), (8 ≤ m.imm.toNat, .reservedField)]
  | .csync _ m => firstError [formMask m, (m.opc != 0 || m.type != 0 || m.imm != 0, .code)]
  | .waitcmp _ cond _ b _ m => firstError [(6 ≤ cond.toNat, .condition), (m.wid != 2 && m.wid != 3, .width),
      (m.wid == 3 && !b.isK && b.odd, .oddPair)]
  | .fence ord scope => firstError [(ord == 0, .code), (6 ≤ scope.toNat, .code)]
  | .fencer scope => firstError [(scope != 2 && scope != 3 && scope != 4, .code)]
  | .gfence scope => firstError [(6 ≤ scope.toNat, .code)]
  | .plop path r pb pa _ _ => firstError [(path == 0 && r == 0, .predicate),
      (path == 1 && (4 ≤ r.toNat || 4 ≤ pa.toNat || 4 ≤ pb.toNat), .predicate)]
  | .v2p path a _ _ => firstError [(path == 1 && !a.isK, .registerClass)]
  | .rdsr d i _ => firstError [(0x1C ≤ i.toNat, .specialRegister), (i == 0x0B && d.odd, .oddPair)]
  | .wrsr _ i _ => firstError [(i != 0x0D && i != 0x0F && i != 0x10, .specialRegister)]
  | .cpart w _ => firstError [(w == 0 || 6 ≤ w.toNat, .code)]
  | .ld d _ b _ m => firstError ([needV d, maxWidth m 6, formData d m] ++ formLoadB b m)
  | .st d _ _ m => firstError [needV d, maxWidth m 6, formData d m]
  | .ldk d a b _ m => firstError ([needK d, needK a, maxWidth m 6, formData d m, formEPk b] ++ formLoadB b m)
  | .stk d a _ m => firstError [needK d, needK a, maxWidth m 6, formData d m]
  | .lds d _ b _ m => firstError ([needV d, maxWidth m 6, formData d m, (m.recNo != 0, .reservedField),
      (fieldEP b != 0, .reservedField)] ++ formLoadB b m)
  | .sts d _ _ m => firstError [needV d, maxWidth m 6, formData d m, (m.recNo != 0, .reservedField)]
  | .stsm d _ _ _ m => firstError [needV d, maxWidth m 5, formData d m, (m.recNo != 0, .reservedField)]
  | .ldp d _ _ _ m | .stp d _ _ _ m => firstError [needV d, maxWidth m 6, formData d m, (m.recNo != 0, .reservedField)]
  | .ldx d _ b _ m => firstError ([needV d, maxWidth m 5, formData d m] ++ formLoadB b m)
  | .stm d _ _ _ m => firstError [needV d, maxWidth m 5, formData d m]
  | .atom d _ b _ m => firstError ([needV d, (12 ≤ (atomOp b).toNat, .code)] ++ formAtom d (atomOp b) m)
  | .atomk d a b _ m => firstError ([needK d, needK a, (13 ≤ (atomOp b).toNat, .code), formEPk b] ++ formAtom d (atomOp b) m)
  | .red d _ b _ m => firstError ([needV d, (12 ≤ (atomOp b).toNat, .code), (fieldEP b != 0, .reservedField)] ++ formAtom d (atomOp b) m)
  | .cas d _ b _ m => firstError ([needV d, (8 ≤ b.toNat, .reservedField)] ++ formAtom d 12 m)
  | .invl1Line a _ => firstError [(a.getLsbD 0, .oddPair)]
  | .pref _ b _ m => firstError [(2 ≤ b.toNat, .reservedField), maxWidth m 6]
  | .recld a b _ m => firstError [needK a, (2 ≤ b.toNat, .reservedField), (m.wid != 0, .width),
      (b == 0 && a.num % 8 != 0, .group), (b == 0 && (m.pol != 0 || m.off != 0), .reservedField), (b == 1 && a.odd, .oddPair)]
  | .pin d a _ m => firstError ([needK d] ++ formGroupK a 4 ++ [(decide (5 ≤ m.life.toNat), .code)])
  | .unpin d a _ m => firstError ([needK d] ++ formGroupK a 2 ++ [(m.kind != 0 || m.life != 0, .reservedField)])
  | .cctr d a _ m => firstError ([needK d] ++ formGroupK a 8 ++ [(m.kind != 0 || m.life != 0, .reservedField)])
  | .stpart d a _ m => firstError ([needK d] ++ formGroupK a 4 ++ [(m.kind != 0 || 4 ≤ m.life.toNat, .reservedField)])
  | .kvapp a _ m => firstError (formGroupK a 4 ++ [(m.vr.toNat % 8 != 0, .group), (m.mode != 0 || m.qd != 0, .reservedField)])
  | .kvfork d a _ m => firstError [needK d, needK a, (m.vr != 0 || m.mode != 0, .reservedField)]
  | .kvfree a _ m => firstError [needK a, (m.vr != 0 || m.mode != 0 || m.qd != 0, .reservedField)]
  | .kvhm d a _ m => firstError [needK d, needK a, (m.vr.toNat % 8 != 0, .group), (m.mode != 0 || m.qd != 0, .reservedField)]
  | .assay d a _ m => firstError ([needK d] ++ formGroupK a 4 ++ [(m.vr.toNat % 4 != 0, .group), (m.qd != 0, .reservedField)])
  | .gread d a _ m => firstError ([needV d, needK a] ++ formGirth m 0 true)
  | .gupd d a b _ m => firstError [needK d, needK a, (b.isK, .registerClass), (12 < m.op.toNat, .code), (m.op == 11 && m.w64 == 1, .code),
      (m.w64 == 1 && (m.word.getLsbD 0 || d.odd), .oddPair), badGroup b (m.w64.toNat + 1) (atomOperands m.op * (m.w64.toNat + 1)),
      (m.pen == 0 && m.qd != 0, .reservedField)]
  | .gcinch d a _ m => firstError ([needV d, needK a] ++ formGirth m 0 false)
  | .gclose a b _ m => firstError ([needK a, (b.isK, .registerClass), (b.num % 16 != 0, .group)] ++ formGirth m 0 true)
  | .gmount d a b _ m => firstError ([needK d, needK a, (b.isK, .registerClass), (b.num % 16 != 0, .group)] ++ formGirth m 0 false)
  | .gdismt d a _ m => firstError ([needV d, needK a] ++ formGirth m 1 true)
  | .mmab d a b m | .mmah d a b m => firstError (formMma d a b m ++ formMmaFp m)
  | .mmai8 d a b m => firstError (formMma d a b m ++ formMmaGrp m 1)
  | .mmai84 d a b m | .mmai4 d a b m => firstError (formMma d a b m ++ formMmaGrp m 2)
  | .aclr d => firstError [formTile d]
  | .aload d a m => firstError [formTile d, needK a, (2 ≤ m.lay.toNat, .code), (m.fmt == 3, .code)]
  | .astore d a b m => firstError [formTile d, (m.dst == 3, .code), (m.dst != 2 && !a.isK, .registerClass), (m.dst == 2 && 7 < a.toNat, .queue),
      (m.dst != 1 && (m.recNo != 0 || m.pol != 0), .reservedField), (m.dst == 1 && m.fmt != 0, .reservedField),
      (m.rf == 0 && b != 0, .reservedField), (m.dst != 1 && m.fmt != 3 && m.sc != 0, .reservedField),
      (m.lay == 3 && m.fmt == 0, .code), (m.dst == 1 && 2 ≤ m.lay.toNat, .code), (m.dst == 2 && m.lay != 3, .code)]
  | .arowmx d a _ | .arowsm d a _ => firstError [needV d, formTile a]
  | .aexpb d a _ push => firstError [formTile a, (push == 1 && 7 < d.toNat, .queue), (push == 0 && d != 0, .reservedField)]
  | .ashift d _ => firstError [formTile d]
  | .qpush d a => firstError [formQ d, needV a]
  | .qpop _ a _ _ => firstError [formQ a]
  | .qstat _ a => firstError [formQ a]
  | .qstatFeed _ a b => firstError [formQ a, (4 ≤ b.toNat, .code)]
  | .cpy a m | .cpys a m | .txpose a m => firstError (formCopy a m false false false false)
  | .cpym a m => firstError (formCopy a m false true false false)
  | .cpyq a m => firstError (formCopy a m true false false false)
  | .cpyix a m => firstError (formCopy a m false false true false ++ [(m.ixv == 0 && 63 < m.ix.toNat + m.ixc.toNat, .group)])
  | .smelt a m => firstError (formCopy a m true false false true)
  | .tdmk d a m => firstError [needK d, needK a, needEven a, (m.recNo != 0, .reservedField), (m.wid != 0, .width)]
  | .clauseHeader _ seta setb len => firstError [(len == 0, .header), (13 ≤ seta.toNat || 13 ≤ setb.toNat, .header)]
  | .issueSelect _ _ | .binAged _ | .binOverdue _ | .barResume _ _ _ | .lbarReleaseWindow _ | .yieldExpire _ | .waitcmpPoll _
  | .wqExecute | .cancelArrive | .cancelStop _ | .resultLand _ | .storeBufferLeave _ | .storeAck _ | .fencerVisit _
  | .engineWriteLand _ | .panelLand _ | .engineComplete _ | .placeBlock | .crewStart _ | .blockComplete _ | .levelComplete _ _
  | .cxlSnoop _ | .tailReread _ | .recordTake _ | .launchRelease _ | .segmentClear _ | .launchBlocking _ | .preempt _
  | .swapOut _ | .swapSaveDone _ | .swapRestore _ _ | .faultEntryWrite _ | .watchdog _ | .sliceServe _ | .mscFill _
  | .writebackSend _ | .writebackFree _ | .maskApply _ | .contractDecide | .contractComplete _ | .pinLineCopy _ _
  | .pinDrainStart _ _ | .pinLineWriteback _ _ | .pinLineWritten _ _ | .stpartApply _ | .linkWindowEnd _ | .linkWiden _
  | .linkRenegotiationEnd _ | .hmapWrite _ _ | .hmapTakeEffect _ | .walkLevelRead _ | .kvCountTest _ | .kvappPerform _
  | .pageEvictDone _ _ | .pageInstallDone _ _ | .kvPageOp _ | .heatDecay | .girthPassage _ _ | .holdEnd _
  | .reservationExpire _ | .compareSignatures _ | .rollbackRestoreDone _ | .slceccWrite _ _ | .reencodeLine _ | .sweepLine _
  | .sweepForce _ | .sliceEvacuate _ | .evacLineMove _ | .hbmRowRepair _ | .slcinjWrite _ _ _ | .yokeWindowEnd _ _ _
  | .budgetIntervalStart _ | .clusterPortCharge _ | .energyCharge _ _ | .quotaRefill _ | .eqcfgWrite _ _ | .feataccWrite _
  | .creadWrite _ _ | .fqreadWrite _ _ | .registerWrite _ _ | .shootdown _ _ _ | .faultResume _ _ | .faultSkip _ _
  | .faultKill _ _ | .faultCancel _ _ _ _ | .repairSpareCore _ | .repairClusterDrain _ | .repairClusterReturn _
  | .repairSpareSlice _ | .repairHbmPageRetire _ | .resctr _ _ | .resend _ | .ctxend _ | .commandUnknown _ | .commandComplete
  | .dbgResume | .dbgStep | .dbgKill | .dbgsel0Write _ | .dbgStateWrite _ _ | .hostMemAccess _ _ _ _ | .linkRetrain _
  | .firmwareUpdate _ _ | .spdmRequest _ _ | .packageReset | .swapRestoreDone _ | .checkpointDone _ | .linkUp _
  | .logReadIndexWrite _ _ _ => none

/-- The instruction's word breaks no rule that depends on the word alone. -/
def WellFormed (i : Instr) : Prop := i.formError = none

end Sys2Proof
end

