-- ==== Sys2Proof/Machine/Operands.lean ====
section
/-!
DEFINITION. The issue of an instruction: what is checked before it acts (spec/09 R127, R128; spec/01 R15, R16, R22 to R24, R31;
spec/09 R110), and the operand forms of Table 9.4.
-/
namespace Sys2Proof.Machine

/-! ## Filing (R14 to R16) -/

/-- File threads of a block under a PC of a quarter, in the bin of that key or a FREE one; none where the fallback of R16 applies. `held` says that
they have arrived at a crew-bound instruction (R23). -/
def Sched.file (h : Sched) (core qtr : Nat) (u : Bundle) (pc : Word) (cl : Option Clause) (ms : List Member) (now : Nat) (held : Bool := false) : Option Sched :=
  let es := ms.map fun m => (⟨m.lane, crewSlot m.crew, now, cl, held⟩ : BinEntry)
  if h.bins.any fun n => n.core == core && n.qtr == qtr && n.blk == u.blk && n.pc == pc then
    some { h with bins := h.bins.map fun n =>
      if n.core == core && n.qtr == qtr && n.blk == u.blk && n.pc == pc then { n with entries := n.entries ++ es } else n }
  else if (h.bins.filter fun n => n.core == core && n.qtr == qtr).length < 32 then
    some { h with bins := h.bins ++ [⟨core, qtr, u.blk, pc, es⟩] }
  else none

/-- Do the threads of a block in this state file: it stands on its core, and is neither saved nor SWAPPED (R26)? -/
def BlkState.files : BlkState → Bool
  | .running | .draining | .stopping => true
  | .placed | .saving | .swapped | .restoring | .complete => false

/-- Held bundles of a quarter try to file again (R16); those of a SWAPPED block stay held (R26). -/
def State.refileHeld (s : State) (core qtr : Nat) : State :=
  (s.sch.bundles.filter fun u => u.wait == .held && (s.block u.blk).st.files && (s.block u.blk).core == core && !u.feed && crewQtr u.crew == qtr).foldl (fun t u =>
    match t.sch.file core qtr u u.pc u.clause u.members t.now true with
    | some h => { t with sch := { h with bundles := h.bundles.erase u } }
    | none => t) s

/-- One part of a divergent branch: filed at its next PC, or run on as its own bundle (R15, R16, R170). -/
def State.filePart (s : State) (u : Bundle) (pc : Word) (cl : Option Clause) (ms : List Member) : State :=
  let core := (s.block u.blk).core
  let qtr := crewQtr ((ms.head?.map fun m => m.crew).getD 0)
  let s := s.refileHeld core qtr
  if ms.isEmpty then s
  else match s.sch.file core qtr u pc cl ms s.now with
    | some h => { s with sch := h }
    | none => s.addBundles [{ u with pc := pc, clause := cl, members := ms, wait := .ready, since := s.now, pass := false, adv := 0, ahead := 0 }]

/-! ## The gate -/

/-- Crew binding of an instruction (R22 to R24). -/
inductive Bound where
  /-- Any bundle. -/
  | none
  /-- A bundle of one crew. -/
  | crew
  /-- Crew operations with a member mask (Table 13.1). -/
  | members (m : CrewMod)
  /-- All 32 lanes arrived: the matrix and queue groups, and whole-crew KV instructions. -/
  | whole
deriving DecidableEq, Repr

/-- What the issue stage needs to know of an instruction. -/
structure Issue where
  words : Nat := 1
  bound : Bound := .none
  guard : Guard := 0
  /-- In Table 1.4. -/
  feed : Bool := false
  /-- Issued by feed threads only. -/
  feedOnly : Bool := false
  /-- Bit of FEATACC that gates it (R127). -/
  feat : Option Nat := Option.none
  /-- A further ILLOP condition of its entry that depends on the state. -/
  bad : Bool := false
  /-- Registers it reads or writes (R110). -/
  keys : List RegKey := []
deriving DecidableEq, Repr

/-- ILLOP conditions that depend on the word alone (Table 9.12). -/
def formIllop (i : Instr) : Bool := i.formError.isSome

/-- ILLOP before any effect (R128): feature gate, feed subset, guard in a feed thread, the form. -/
def illopNow (i : Instr) (q : Issue) (s : State) : Bool :=
  (match q.feat with
    | some n => !s.host.featacc.getLsbD n
    | .none => false) ||
  (s.sch.cur.feed && (!q.feed || q.guard != 0)) || (!s.sch.cur.feed && q.feedOnly) || formIllop i

/-- What the gate decides. -/
inductive Gate where
  /-- The instruction does not execute now. -/
  | stop (s : State)
  /-- It executes in this state. -/
  | go (s : State)
deriving DecidableEq, Repr

/-- A bundle of several crews is split into one part per crew, and the parts issue next, in ascending crew order (R22; log 18). -/
def State.splitByCrew (s : State) : State :=
  let u := s.sch.cur
  let parts := (sortBy (fun c => c) u.crews).map fun c =>
    { u with members := u.members.filter fun m => m.crew == c, since := s.now, ahead := 3 + c }
  s.dropCur.addBundles parts

/-- Lanes set in a mask. -/
def lanesIn (mask : Word) : List Nat := (List.range 32).filter mask.getLsbD

/-- Threads of the issuing crew that stand at its PC, those of the bundle and those that wait there filed or held, in lane order (R23). -/
def State.gathered (s : State) : List Member :=
  laneSort (s.sch.cur.members ++ s.arrivedElsewhere s.sch.cur.blk s.sch.cur.crew s.sch.cur.pc)
/-- Are all lanes of a mask among the gathered threads? -/
def State.hasLanes (s : State) (mask : Word) : Bool := (lanesIn mask).all fun l => s.gathered.any fun m => m.lane == l

/-- The member mask in force (R180, R181). -/
def State.memberMask (s : State) (m : CrewMod) : Word :=
  if m.some = 1 then s.regs.kreg s.sch.cur.blk s.sch.cur.crew m.mkReg.toNat else 0xFFFFFFFF

/-- Arrival at a crew-bound instruction that awaits the lanes of `mask` (R23): the arrived threads join one bundle, or are filed, or
are held. -/
def State.arrive (s : State) (mask : Word) (whole : Bool) (words : Nat) : Gate :=
  let u := s.sch.cur
  let rest := s.sch.arrs.filter fun r => !(r.blk == u.blk && r.crew == u.crew && r.pc == u.pc)
  if s.hasLanes mask then
    .go { s with sch := { s.sch.withdraw u.blk u.crew u.pc with cur := { u with members := s.gathered }, arrs := rest } }
  else
    let new : ArriveRec := { blk := u.blk, crew := u.crew, pc := u.pc, clause := u.clause, mask := mask, whole := whole, words := words }
    let s := { s with sch := { s.sch with arrs := rest ++ [new] } }
    match s.sch.file s.curCore s.curQtr u u.pc u.clause u.members s.now true with
    | some h => .stop { s with sch := { h with curOn := false, cur := Bundle.none } }
    | none => .stop (s.park .held 0)

/-- Members of the crew that are live. -/
def State.liveMask (s : State) (b c : Nat) : Word := (s.regs.crewSt b c).live

/-- Lowest lane of a list of threads. -/
def lowLane (ms : List Member) : Nat := (ms.head?.map fun m => m.lane).getD 0

/-- The scoreboard (R110): a source or destination with a pending write makes the crew stall, and SBSTALL of the quarter rises. A feed thread lives in
no quarter; its stalls count in quarter 0 of its core (log 48). -/
def State.scoreboard (s : State) (keys : List RegKey) : Gate :=
  if keys.any s.keyPending then
    let q := s.curCore * 4 + s.curQtr
    let n := mget 0 s.sch.sbstall q
    let h := if s.sch.cur.wait = .score then s.sch else { s.sch with sbstall := mput 0 s.sch.sbstall q (n + 1) }
    .stop ({ s with sch := h }.park .score 0)
  else .go s

/-- Act once no register of `keys` has a pending result. -/
def State.withKeys (s : State) (keys : List RegKey) (act : State → State) : State :=
  match s.scoreboard keys with
  | .stop t => t
  | .go t => act t

/-- Keys of a guard (R110: a predicate is a source). -/
def State.guardKeys (s : State) (g : Guard) : List RegKey :=
  if g = 0 then [] else s.sch.cur.crews.map fun c => .p s.sch.cur.blk c g.toNat

/-- Key of the member mask's k-register, which an arriving part reads at its own issue (R181). -/
def State.maskKeys (s : State) (m : CrewMod) : List RegKey :=
  if m.some = 1 then [.k s.sch.cur.blk s.sch.cur.crew m.mkReg.toNat] else []

/-- The member rules of a crew operation (R180, R181, R23). The part whose arrival completes the set decides MASKSELF and MEMBER against the
mask that it has read; a set that an exited lane keeps from completing is decided when a part arrives (log 47). -/
def State.memberGate (s : State) (m : CrewMod) (words : Nat) : Gate :=
  let u := s.sch.cur
  let mask := s.memberMask m
  let out := s.gathered.filter fun t => !mask.getLsbD t.lane
  let gone := decide (mask &&& ~~~(s.liveMask u.blk u.crew) ≠ 0)
  if (gone || s.hasLanes mask) && !out.isEmpty then .stop (s.takeTrap { cls := .maskself, lane := lowLane out, words := words, bound := true })
  else if gone then .stop (s.takeTrap { cls := .member, lane := lowLane s.gathered, words := words, bound := true })
  else s.arrive mask false words

/-- The rule of whole-crew instructions (R24, R239). -/
def State.wholeGate (s : State) (words : Nat) : Gate :=
  let u := s.sch.cur
  if s.liveMask u.blk u.crew ≠ 0xFFFFFFFF then
    .stop (s.takeTrap { cls := .partialCrew, lane := lowLane u.members, words := words, bound := true })
  else s.arrive 0xFFFFFFFF true words

/-- Does the binding fault or wait for the whole crew? -/
def Bound.all : Bound → Bool
  | .none | .crew => false
  | .members _ | .whole => true

/-- Everything decided before an instruction acts, in the order: ILLOP of the word, crew split, the entry's own ILLOP, the scoreboard for the
member mask, member rules, arrival, the scoreboard for the rest. -/
def gate (i : Instr) (q : Issue) (s : State) : Gate :=
  let u := s.sch.cur
  if illopNow i q s then .stop (s.illop q.words q.bound.all)
  else if !u.feed && q.bound != .none && 1 < u.crews.length then .stop s.splitByCrew
  else if q.bad then .stop (s.illop q.words q.bound.all)
  else
    let arrived : Gate := if u.feed then .go s else match q.bound with
      | .none | .crew => .go s
      | .members m => match s.scoreboard (s.maskKeys m) with
        | .stop t => .stop t
        | .go t => t.memberGate m q.words
      | .whole => s.wholeGate q.words
    match arrived with
    | .stop t => .stop t
    | .go t => t.scoreboard (q.keys ++ t.guardKeys q.guard)

/-- An instruction passes the gate and acts. -/
def issue (i : Instr) (q : Issue) (s : State) (act : State → State) : Host.Outcome State Fault Refusal :=
  match gate i q s with
  | .stop t => .next t
  | .go t => .next (act t)

/-! ## Operand forms (Table 9.4) -/

/-- Cell that a vector field names in a crew: WB + n (R116). -/
def Regs.cellOf (r : Regs) (b c : Nat) (f : Field) : Nat := (r.crewSt b c).wb + f.num

/-- Scoreboard keys of n registers from a field: cells of every crew of the bundle, or k-registers. -/
def State.fieldKeys (s : State) (f : Field) (k : Bool) (n : Nat) : List RegKey :=
  let u := s.sch.cur
  u.crews.flatMap fun c => (List.range n).map fun j =>
    if k then .k u.blk c (f.num + j) else .cell u.blk c (s.regs.cellOf u.blk c f + j)

/-- Keys of an a field (Table 9.4). -/
def State.aKeys (s : State) (a : Field) (n : Nat) : List RegKey := s.fieldKeys a a.isK n
/-- Keys of a b field; a constant names no register. -/
def State.bKeys (s : State) (uniform : Bool) (b : Field) (n : Nat) : List RegKey := if b.isK then [] else s.fieldKeys b uniform n

/-- Two words as a pair, the even register low (R37). -/
def pair (lo hi : Word) : DWord := hi ++ lo

/-- k-register or pair as a 64-bit operand. -/
def Regs.kval (r : Regs) (b c n : Nat) (wide : Bool) : DWord :=
  if wide then pair (r.kreg b c n) (r.kreg b c (n + 1)) else (r.kreg b c n).zeroExtend 64

/-- Vector register or pair of a thread. -/
def Regs.vval (r : Regs) (b : Nat) (m : Member) (f : Field) (wide : Bool) : DWord :=
  let n := r.cellOf b m.crew f
  if wide then pair (r.vcell b m.crew n m.lane) (r.vcell b m.crew (n + 1) m.lane) else (r.vcell b m.crew n m.lane).zeroExtend 64

/-- An a operand of a thread on the vector path. -/
def Regs.aval (r : Regs) (b : Nat) (m : Member) (f : Field) (wide : Bool) : DWord :=
  if f.isK then r.kval b m.crew f.num wide else r.vval b m f wide
/-- A b operand of a thread on the vector path. -/
def Regs.bval (r : Regs) (b : Nat) (m : Member) (k : Cst) (f : Field) (wide : Bool) : DWord :=
  if f.isK then k.val f.num else r.vval b m f wide
/-- A b operand on the uniform path. -/
def Regs.ubval (r : Regs) (b c : Nat) (k : Cst) (f : Field) (wide : Bool) : DWord :=
  if f.isK then k.val f.num else r.kval b c f.num wide

/-- The low word of an operand. -/
def lo (x : DWord) : Word := x.setWidth 32
/-- The high word. -/
def hi (x : DWord) : Word := x.extractLsb' 32 32

/-! ## The shape of a compute instruction (R137 to R141) -/

/-- Widths of the operands and how a b constant is read. -/
structure Shape where
  wd : Bool := false
  wa : Bool := false
  wb : Bool := false
  cst : Cst := .int
deriving DecidableEq, Repr

/-- What a compute instruction computes from its environment and its a, b and d operands: result and flags. -/
abbrev LaneFn := FEnv → DWord → DWord → DWord → DWord × FFlags

/-- A function without flags. -/
def pure3 (f : DWord → DWord → DWord → DWord) : LaneFn := fun _ a b d => (f a b d, 0)
/-- A 32-bit function of a and b. -/
def fn2 (f : Word → Word → Word) : LaneFn := pure3 fun a b _ => (f (lo a) (lo b)).zeroExtend 64
/-- A 32-bit function of a, b and d. -/
def fn3 (f : Word → Word → Word → Word) : LaneFn := pure3 fun a b d => (f (lo a) (lo b) (lo d)).zeroExtend 64

/-- Register writes of a result to d in a thread. -/
def Regs.vwr (r : Regs) (b : Nat) (m : Member) (d : Field) (wide : Bool) (x : DWord) : List RegWr :=
  let n := r.cellOf b m.crew d
  .cell m.crew n m.lane (lo x) :: (if wide then [.cell m.crew (n + 1) m.lane (hi x)] else [])
/-- Register writes of a result to a k-register. -/
def kwr (c : Nat) (d : Field) (wide : Bool) (x : DWord) : List RegWr :=
  .k c d.num (lo x) :: (if wide then [.k c (d.num + 1) (hi x)] else [])

/-- Flag writes, where a flag is raised (R42). -/
def flagWr (c : Nat) (f : FFlags) : List RegWr := if f = 0 then [] else [.flags c f]

/-- The register writes of a compute instruction (R139): on the uniform path once, under the guard of the lowest active lane; on
the vector path in every active lane whose guard is true, sources read before any write. -/
def computeWr (sh : Shape) (fn : LaneFn) (d a b : Field) (g : Guard) (s : State) : List RegWr :=
  let u := s.sch.cur
  let r := s.regs
  if d.isK then
    if s.uniformOn g then
      let c := u.crew
      let x := fn (r.fenv u.blk c) (r.kval u.blk c a.num sh.wa) (r.ubval u.blk c sh.cst b sh.wb) (r.kval u.blk c d.num sh.wd)
      kwr c d sh.wd x.1 ++ flagWr c x.2
    else []
  else
    (s.lanesOn g).flatMap fun m =>
      let x := fn (r.fenv u.blk m.crew) (r.aval u.blk m a sh.wa) (r.bval u.blk m sh.cst b sh.wb) (r.vval u.blk m d sh.wd)
      r.vwr u.blk m d sh.wd x.1 ++ flagWr m.crew x.2

/-- Registers of a width. -/
def regsOf (wide : Bool) : Nat := if wide then 2 else 1

/-- Issue of a compute instruction. -/
def computeIssue (sh : Shape) (d a b : Field) (g : Guard) (words : Nat) (feed : Bool) (s : State) : Issue :=
  { words := words, bound := if d.isK then .crew else .none, guard := g, feed := feed && d.isK,
    keys := s.fieldKeys d d.isK (regsOf sh.wd) ++ s.aKeys a (regsOf sh.wa) ++ s.bKeys d.isK b (regsOf sh.wb) }

/-- The state with register writes made at once. -/
def State.wrote (s : State) (ws : List RegWr) : State := s.setRegs (s.regs.applyAll s.sch.cur.blk ws)

/-- A compute instruction of fixed latency. -/
def compute (i : Instr) (sh : Shape) (fn : LaneFn) (d a b : Field) (g : Guard) (feed : Bool) (s : State) :
    Host.Outcome State Fault Refusal :=
  issue i (computeIssue sh d a b g 1 feed s) s fun t => (t.wrote (computeWr sh fn d a b g t)).advance 1

/-- Crew of a register write. -/
def RegWr.crew : RegWr → Nat
  | .cell c _ _ _ => c
  | .k c _ _ => c
  | .q c _ _ => c
  | .p c _ _ _ => c
  | .flags c _ => c
  | .part c _ _ _ => c

/-- The register a write goes to; CFPS is not on the scoreboard. -/
def RegWr.key (b : Nat) : RegWr → List RegKey
  | .cell c n _ _ => [.cell b c n]
  | .k c n _ => [.k b c n]
  | .q c n _ => [.q b c n]
  | .p c _ n _ => [.p b c n]
  | .flags _ _ => []
  | .part c n _ _ => [.cell b c n]

/-- Start a long-latency operation whose register writes are known: one pending operation for each crew of the bundle (R109). -/
def State.startSeta (s : State) (ws : List RegWr) : State :=
  let u := s.sch.cur
  u.crews.foldl (fun t c =>
    let mine := ws.filter fun w => w.crew == c
    t.addPend { Pend.blank with blk := u.blk, crew := c, flag := s.seta, regs := dedup (mine.flatMap (RegWr.key u.blk)), outs := mine, pc := u.pc }) s

/-- A compute instruction of SETA kind. -/
def computeLong (i : Instr) (sh : Shape) (fn : LaneFn) (d a b : Field) (g : Guard) (feed : Bool) (s : State) :
    Host.Outcome State Fault Refusal :=
  issue i (computeIssue sh d a b g 1 feed s) s fun t => (t.startSeta (computeWr sh fn d a b g t)).advance 1

/-- The b field of an instruction without a b operand: constant 0, which names no register. -/
def constZero : Field := 0x40

/-- An SFU instruction: until it has completed it owes the flags of its crews, be they none (R42). -/
def computeSfu (i : Instr) (fn : LaneFn) (d a : Field) (g : Guard) (s : State) : Host.Outcome State Fault Refusal :=
  issue i (computeIssue {} d a constZero g 1 false s) s fun t =>
    (t.startSeta (computeWr {} fn d a constZero g t ++ t.sch.cur.crews.map fun c => .flags c 0)).advance 1

/-- A compare (Table 11.3): one predicate in each active lane, or a q-register. -/
def compareWr (sh : Shape) (fn : FEnv → DWord → DWord → Bool × FFlags) (path : BitVec 1) (pred : BitVec 3) (a b : Field) (g : Guard)
    (s : State) : List RegWr :=
  let u := s.sch.cur
  let r := s.regs
  if path = 1 then
    if s.uniformOn g then
      let x := fn (r.fenv u.blk u.crew) (r.kval u.blk u.crew a.num sh.wa) (r.ubval u.blk u.crew sh.cst b sh.wb)
      .q u.crew pred.toNat x.1 :: flagWr u.crew x.2
    else []
  else
    (s.lanesOn g).flatMap fun m =>
      let x := fn (r.fenv u.blk m.crew) (r.aval u.blk m a sh.wa) (r.bval u.blk m sh.cst b sh.wb)
      .p m.crew m.lane pred.toNat x.1 :: flagWr m.crew x.2

/-- Key of a predicate destination or source. -/
def State.predKeys (s : State) (uniform : Bool) (n : Nat) : List RegKey :=
  s.sch.cur.crews.map fun c => if uniform then .q s.sch.cur.blk c n else .p s.sch.cur.blk c n

/-- A compare instruction. -/
def compare1 (i : Instr) (sh : Shape) (fn : FEnv → DWord → DWord → Bool × FFlags) (path : BitVec 1) (pred : BitVec 3) (a b : Field)
    (g : Guard) (feed : Bool) (s : State) : Host.Outcome State Fault Refusal :=
  issue i { bound := if path = 1 then .crew else .none, guard := g, feed := feed && path == 1,
            keys := s.predKeys (path == 1) pred.toNat ++ s.aKeys a (regsOf sh.wa) ++ s.bKeys (path == 1) b (regsOf sh.wb) } s
    fun t => (t.wrote (compareWr sh fn path pred a b g t)).advance 1

end Sys2Proof.Machine
end

