-- ==== Sys2Proof/Machine/Xlate.lean ====
section
/-!
DEFINITION. Translation (spec/23_scheduling_rules.md R322 to R325), home slices (spec/05_store_rules.md R59, R82) and the physical
map (Table 5.9).
-/
namespace Sys2Proof.Machine

/-! ## Physical map and homes -/

/-- Regions of Table 5.9. -/
inductive PaRegion where
  | hbm | pin | host | peer | reserved
deriving DecidableEq, Repr

/-- Region of a physical address (Table 5.9). -/
def paRegion (pa : Nat) : PaRegion :=
  match bits pa 50 2 with
  | 0 => if bits pa 39 11 = 0 then .hbm else if bits pa 39 11 = 1 then .pin else .reserved
  | 1 => .reserved
  | 2 => .host
  | _ => .peer

/-- XOR of the w-bit fields of a 46-bit line number (R59). -/
def foldBits (w : Nat) : Nat → Nat → Nat
  | 0, _ => 0
  | k + 1, n => Nat.xor (n % 2 ^ w) (foldBits w k (n / 2 ^ w))
/-- fold7 (R59). -/
def fold7 (n : Nat) : Nat := foldBits 7 7 n
/-- fold5 (R59). -/
def fold5 (n : Nat) : Nat := foldBits 5 10 n

/-- Line number of a physical address. -/
def lineOf (pa : Nat) : Nat := pa / 64

/-- Home slice of a line under an interleave (Table 5.2). -/
def homeSlice (ilv sel n : Nat) : Nat :=
  match ilv with
  | 0 => fold7 n
  | 1 => 32 * (sel % 4) + fold5 n
  | _ => sel % 128

/-- Slice-local line number L (Table 5.2). -/
def localLine (ilv n : Nat) : Nat :=
  match ilv with
  | 0 => n / 2 ^ 7
  | 1 => n / 2 ^ 5
  | _ => n

/-- HMAP region number of a physical address; pin-aperture regions from 4,096 on (R82). -/
def hmapRegion (pa : Nat) : Nat := (if paRegion pa = .pin then 4096 else 0) + bits pa 27 12

/-- ILV and SEL of an access without a page entry (R82): the HMAP entry of an HBM or pin line, else package-wide. -/
def State.physIlv (s : State) (pa : Nat) : Nat × Nat :=
  match paRegion pa with
  | .hbm | .pin => let e := (mget 0 s.sl.hmap (hmapRegion pa)).toNat; (bits e 7 2, bits e 0 7)
  | _ => (0, 0)

/-! ## Page entries (R323, R324) -/

/-- What a walk level gives. -/
inductive WalkRes where
  /-- The next level's table. -/
  | table (pa : Nat)
  | leaf (x : Xlate)
  | fault
deriving DecidableEq, Repr

/-- Log2 of the page a leaf at a level maps (Table 23.5). -/
def leafSize (level : Nat) : Nat := match level with
  | 1 => 39
  | 2 => 27
  | _ => 15

/-- Index of a level (Table 23.5). -/
def walkIndex (level va : Nat) : Nat := match level with
  | 0 => bits va 51 5
  | 1 => bits va 39 12
  | 2 => bits va 27 12
  | _ => bits va 15 12

/-- Tables may stand in HBM and host memory only (R324). -/
def tableOk (pa : Nat) : Bool := paRegion pa == .hbm || paRegion pa == .host

/-- The region that MTYPE names (Table 23.6). -/
def mtypeRegion (m : Nat) : PaRegion := match m with
  | 0 => .hbm
  | 1 => .pin
  | 2 => .host
  | 3 => .peer
  | _ => .reserved

/-- A page entry read at a level (R323, R324). -/
def walkEntry (ctx level va e : Nat) : WalkRes :=
  let frame := bits e 20 37 * 2 ^ 15
  if bits e 0 1 = 0 then .fault
  else if bits e 1 1 = 0 then
    if level = 3 then .fault
    else if bits e 2 18 ≠ 0 || bits e 57 7 ≠ 0 then .fault
    else if !tableOk frame then .fault
    else .table frame
  else if level = 0 then .fault
  else
    let size := leafSize level
    let ilv := bits e 5 2
    let sel := bits e 7 7
    let mtype := bits e 16 4
    if frame % 2 ^ size ≠ 0 || ilv = 3 || 4 ≤ mtype || bits e 14 2 = 3 || (ilv = 0 && sel ≠ 0) || (ilv = 1 && 4 ≤ sel) then .fault
    else if paRegion frame ≠ mtypeRegion mtype then .fault
    else if bits e 57 7 ≠ ctx then .fault
    else .leaf { ctx := ctx, va := va / 2 ^ size * 2 ^ size, size := size, pa := frame, mtype := mtype, ccls := bits e 14 2, ilv := ilv,
                 sel := sel, r := bits e 2 1 = 1, w := bits e 3 1 = 1, x := bits e 4 1 = 1 }

/-- Physical address of the entry that a level reads. -/
def walkAddr (table level va : Nat) : Nat := table + 8 * walkIndex level va

/-- Read an entry of a table at its home slice (R82). -/
def State.walkRead (s : State) (ctx level table va : Nat) : WalkRes :=
  let pa := walkAddr table level va
  let il := s.physIlv pa
  walkEntry ctx level va (bytesToNat (s.homeBytes (homeSlice il.1 il.2 (lineOf pa)) pa 8))

/-- What the tables hold from a level on. -/
def State.walkFrom (s : State) (ctx va : Nat) : Nat → Nat → Nat → Option Xlate
  | 0, _, _ => none
  | k + 1, level, table =>
    match s.walkRead ctx level table va with
    | .table t => s.walkFrom ctx va k (level + 1) t
    | .leaf x => some x
    | .fault => none

/-- The translation that the tables hold for an address, as a look ahead of an access (R109, R111); no walker reads. -/
def State.walkNow (s : State) (ctx va : Nat) : Option Xlate :=
  if 2 ^ 56 ≤ va || !tableOk (s.ctx ctx).top then none else s.walkFrom ctx va 4 0 (s.ctx ctx).top

/-- Physical address of a virtual address in the page. -/
def Xlate.phys (x : Xlate) (va : Nat) : Nat := x.pa + (va - x.va)
/-- Does the translation map the address of the context? -/
def Xlate.hits (x : Xlate) (ctx va : Nat) : Bool := x.ctx == ctx && decide (x.va ≤ va) && decide (va < x.va + 2 ^ x.size)
/-- Home slice of a virtual address's line. -/
def Xlate.home (x : Xlate) (va : Nat) : Nat := homeSlice x.ilv x.sel (lineOf (x.phys va))

/-! ## TLBs (R325) -/

/-- Set of a cluster TLB that an entry falls in. -/
def tlbSet (x : Xlate) : Nat := x.va / 2 ^ x.size % 256

/-- Insert into a TLB of a capacity, the least recently used entry of its set leaving. -/
def tlbInsert (tlb : List TlbEntry) (cluster : Bool) (unit : Nat) (x : Xlate) (now : Nat) : List TlbEntry :=
  let same := fun (e : TlbEntry) => e.cluster == cluster && e.unit == unit && (!cluster || tlbSet e.tr == tlbSet x)
  let tlb := tlb.filter fun e => !(same e && e.tr.ctx == x.ctx && e.tr.va == x.va && e.tr.size == x.size)
  let mine := sortBy (·.used) (tlb.filter same)
  let full := decide ((if cluster then 8 else 64) ≤ mine.length)
  let tlb := if full then match mine.head? with
    | some old => tlb.filter fun e => !(e == old)
    | none => tlb
  else tlb
  tlb ++ [{ cluster := cluster, unit := unit, tr := x, used := now }]

/-- The state with another TLB contents. -/
def State.setTlb (s : State) (t : List TlbEntry) : State := { s with pipe := { s.pipe with tlb := t } }

/-- Result of a lookup by a core. -/
inductive XRes where
  | ok (x : Xlate)
  /-- A walk is under way: the access waits. -/
  | miss
  /-- XLATE (R324). -/
  | fault
deriving DecidableEq, Repr

/-- Entry of a TLB that maps an address. -/
def State.tlbFind (s : State) (cluster : Bool) (unit ctx va : Nat) : Option TlbEntry :=
  s.pipe.tlb.find? fun e => e.cluster == cluster && e.unit == unit && e.tr.hits ctx va

/-- The work-queue unit and the contract sequencer among those that wait for walks. -/
def wqWalker : Nat := 384
/-- The contract sequencer. -/
def seqWalker : Nat := 385

/-- Start a walk of a die for a core or unit, or join the one in flight with its key. Walks of a die stand in arrival order: its 64 walkers serve the first 64, and later ones
wait (R325). -/
def State.startWalk (s : State) (die core ctx va : Nat) : State :=
  let page := va / 2 ^ 15
  let p := s.pipe
  if p.walks.any fun w => w.die == die && w.ctx == ctx && w.page == page then
    { s with pipe := { p with walks := p.walks.map fun w =>
        if w.die == die && w.ctx == ctx && w.page == page then { w with cores := dedup (w.cores ++ [core]) } else w } }
  else
    { s with pipe := { p with nextId := p.nextId + 1, walks := p.walks ++
        [{ id := p.nextId, die := die, ctx := ctx, page := page, level := 0, table := (s.ctx ctx).top, cores := [core], at' := s.now }] } }

/-- Walks of a die that its walkers serve. -/
def State.walking (s : State) (die : Nat) : List Walk := (s.pipe.walks.filter fun w => w.die == die).take 64

/-- A hit in the core's TLB or its cluster's (R325). It makes its entry most recently used. -/
def State.tlbHit (s : State) (core ctx va : Nat) : Option (Xlate × State) :=
  match s.tlbFind false core ctx va with
  | some e => some (e.tr, s.setTlb (s.pipe.tlb.map fun f => if f == e then { e with used := s.now } else f))
  | none => (s.tlbFind true (coreCluster core) ctx va).map fun e =>
    let t := s.setTlb (s.pipe.tlb.map fun f => if f == e then { e with used := s.now } else f)
    (e.tr, t.setTlb (tlbInsert t.pipe.tlb false core e.tr s.now))

/-- A page is installed in the TLBs of cores and of their clusters (R325). -/
def State.tlbInstall (s : State) (cores : List Nat) (x : Xlate) : State :=
  let tlb := cores.foldl (fun t c => tlbInsert t false c x s.now) s.pipe.tlb
  s.setTlb ((dedup (cores.map coreCluster)).foldl (fun t c => tlbInsert t true c x s.now) tlb)

/-- Translation of an address for a core: core TLB, cluster TLB, walk (R325). -/
def State.translate (s : State) (core ctx va : Nat) : XRes × State :=
  if 2 ^ 56 ≤ va then (.fault, s)
  else match s.tlbHit core ctx va with
    | some r => (.ok r.1, r.2)
    | none => if s.pipe.xfaults.contains (ctx, va / 2 ^ 15) then (.fault, s) else (.miss, s.startWalk (coreDie core) core ctx va)

/-- Translate addresses in order. -/
def State.translateAll (s : State) (core ctx : Nat) : List Nat → List XRes × State
  | [] => ([], s)
  | va :: t =>
    let (r, s1) := s.translate core ctx va
    let (rs, s2) := s1.translateAll core ctx t
    (r :: rs, s2)

/-- Outcome of a try that may have to wait. -/
inductive Tried (ε α : Type) where
  | ok (a : α)
  | wait
  | bad (e : ε)
deriving DecidableEq, Repr

/-- Go on with what a try gave. -/
def Tried.andThen {ε α β : Type} (r : Tried ε α × State) (f : α → State → Tried ε β × State) : Tried ε β × State := match r.1 with
  | .ok a => f a r.2
  | .wait => (.wait, r.2)
  | .bad e => (.bad e, r.2)

/-- A unit's way to translate an address. -/
abbrev Walker := State → Nat → XRes × State

/-- Translate an address, or name it. -/
def Walker.try (xl : Walker) (s : State) (va : Nat) : Tried Nat Xlate × State := match xl s va with
  | (.ok x, t) => (.ok x, t)
  | (.miss, t) => (.wait, t)
  | (.fault, t) => (.bad va, t)

/-- Translations of every page from an address to a last one, or the first address that does not translate. -/
def rangeTrs (xl : Walker) : Nat → Nat → Nat → State → Tried Nat (List Xlate) × State
  | 0, _, _, s => (.ok [], s)
  | k + 1, va, last, s =>
    if last < va then (.ok [], s)
    else Tried.andThen (xl.try s va) fun x t => Tried.andThen (rangeTrs xl k (x.va + 2 ^ x.size) last t) fun l u => (.ok (x :: l), u)

end Sys2Proof.Machine
end

