-- ==== Sys2Proof/Machine/Store.lean ====
section
/-!
DEFINITION. The store: the MSC of a slice, the L1, store buffers, requests and their effect at the home point (spec/05 R60 to R67,
R72; spec/07 R87, R88, R93; spec/15 R212, R213, R219; spec/13 R192).
-/
namespace Sys2Proof.Machine

/-! ## The memory-side cache (R60 to R67) -/

/-- Eviction hash of a line (R60). -/
def evictHash (n : Nat) : Nat := Nat.xor (Nat.xor (bits n 0 12) (bits n 12 12)) (Nat.xor (bits n 24 12) (bits n 36 10))

/-- Eviction classes (R60). -/
def clsKeep : Nat := 0
/-- NORMAL. -/
def clsNormal : Nat := 1
/-- STREAM. -/
def clsStream : Nat := 2

/-- Class of a line under a request's thresholds (R60). -/
def lineClass (n tkeep tnorm : Nat) : Nat :=
  if evictHash n < tkeep then clsKeep else if evictHash n < tnorm then clsNormal else clsStream

/-- Kind of a granule (R58): 0 MSC, 1 PIN, 2 KVR, 3 SYS. -/
def State.granule (s : State) (slice g : Nat) : Nat := if 7936 ≤ g then 3 else mget 0 s.sl.kinds (slice * 8192 + g)

/-- Granules below 7,936 of a slice that are not MSC. -/
def State.nonMsc (s : State) (slice : Nat) : Nat := (s.sl.kinds.filter fun e => e.1 / 8192 == slice && e.1 % 8192 < 7936).length

/-- Number of sets of a slice's MSC (R61). -/
def State.mscSets (s : State) (slice : Nat) : Nat := 16 * (7936 - s.nonMsc slice)

/-- Replace the MSC lines. -/
def State.setLines (s : State) (ls : List MscLine) : State := { s with sl := { s.sl with lines := ls } }

/-- An access writes a line of the MSC: an HBM line becomes dirty (R62), and what HBM holds of it stays behind (R82). -/
def State.soil (s : State) (m : MscLine) : MscLine :=
  if m.dirty || paRegion (m.line * 64) != .hbm then m else { m with dirty := true, hbm := s.lineData m.line }

/-- A hit: most recently used; a write to an HBM line makes it dirty (R62, R66). -/
def State.mscHit (s : State) (slice line : Nat) (write : Bool) : State :=
  s.setLines (s.sl.lines.map fun m =>
    if m.slice == slice && m.line == line then { (if write then s.soil m else m) with used := s.now } else m)

/-- Words of a line that bytes at offsets write whole. -/
def wholeWords (bs : List (Nat × Byte)) : BitVec 8 :=
  (List.range 8).foldl (fun m i => if (List.range 8).all fun j => bs.any fun e => e.1 == 8 * i + j then m ||| 1 <<< i else m) 0
/-- Write bytes at offsets of a line's image. -/
def putBytes (data : List Byte) (bs : List (Nat × Byte)) : List Byte := bs.foldl (fun d e => d.set e.1 e.2) data
/-- A line's image with bytes at offsets written: a word written whole loses its poison (R335). -/
def putLine (d : List Byte × BitVec 8) (bs : List (Nat × Byte)) : List Byte × BitVec 8 := (putBytes d.1 bs, d.2 &&& ~~~wholeWords bs)

/-- Change the MSC lines that `f` names. -/
def State.mapLines (s : State) (f : MscLine → Bool) (g : MscLine → MscLine) : State := s.setLines (s.sl.lines.map fun m => if f m then g m else m)
/-- Poison 8-byte words by number (R335). -/
def State.poisonWords (s : State) (ws : List Nat) : State :=
  { s with mem := { s.mem with poison := ws.foldl (fun p w => mput false p w true) s.mem.poison } }
/-- Poison words of a line at a home slice, a bit for each. -/
def State.poisonHome (s : State) (slice line : Nat) (bad : BitVec 8) : State :=
  match (s.mscFind slice line).bind fun m => m.own with
  | some d => s.mapLines (fun m => m.slice == slice && m.line == line) fun m => { m with own := some (d.1, d.2 ||| bad) }
  | none => s.poisonWords (((List.range 8).filter bad.getLsbD).map fun i => 8 * line + i)

/-- Bytes of a write that cover a whole ECC word clear its poison (R335): 8 bytes under SECDED, 32 under DEC. -/
def clearPoison (unit : Nat) (p : SMap Bool) (pa : Nat) (bs : List (Nat × Byte)) : SMap Bool :=
  let base := pa / unit * unit
  let whole := (List.range (64 / unit + 1)).filter fun i =>
    (List.range unit).all fun j => bs.any fun e => pa + e.1 == base + i * unit + j
  whole.foldl (fun p i => (List.range (unit / 8)).foldl (fun p j => mput false p ((base + i * unit) / 8 + j) false) p) p
/-- Write bytes of memory, and the poison of their words. -/
def State.memPut (s : State) (unit pa : Nat) (bs : List (Nat × Byte)) : State :=
  { s with mem := { s.mem.putAt pa bs with poison := clearPoison unit s.mem.poison pa bs } }

/-- Bytes, with poisoned words among them, are written behind the slices of a line: to HBM or the host. A copy that memory stands for keeps what it holds
(R82). -/
def State.putBehind (s : State) (unit pa : Nat) (bs : List (Nat × Byte)) (bad : BitVec 8) : State :=
  let line := pa / 64
  let put := fun (t : State) => (t.memPut unit pa bs).poisonWords (((List.range 8).filter bad.getLsbD).map fun i => 8 * line + i)
  match s.sl.lines.find? fun m => m.shares line with
  | some m =>
    if m.dirty then s.mapLines (fun m => m.shares line) fun m =>
      let d := putLine m.hbm (bs.map fun e => (pa % 64 + e.1, e.2))
      { m with hbm := (d.1, d.2 ||| bad) }
    else put (s.mapLines (fun m => m.shares line) fun m => { m with own := some (s.lineData line) })
  | none => put s

/-- A dirty copy of its own is written back (R62, R82): the others keep what they hold. -/
def State.backOwn (s : State) (m : MscLine) : State :=
  match m.own with
  | some d => if m.dirty then s.putBehind 8 (64 * m.line) ((List.range 64).zip d.1) d.2 else s
  | none => s

/-- Way mask of a tenant (R64). -/
def State.wayMask (s : State) (slice tenant : Nat) : BitVec 16 := mget 0xFFFF s.sl.masks (slice * 16 + tenant)

/-- The victim's place for a fill (R66): the way, and the line that leaves it. None where the mask is zero. Of several invalid ways the lowest-numbered
is taken: the manual does not say which (log 50). -/
def State.victim (s : State) (slice set tenant : Nat) : Option (Nat × Option MscLine) :=
  let ways := (List.range 16).filter (s.wayMask slice tenant).getLsbD
  let here := s.sl.lines.filter fun m => m.slice == slice && m.set == set
  match ways.find? fun w => !(here.any fun m => m.way == w) with
  | some w => some (w, none)
  | none =>
    let cand := here.filter fun m => ways.contains m.way
    let pick := fun (c : Nat) => (sortBy (·.used) (cand.filter fun m => m.cls == c)).head?
    match (pick clsStream).orElse fun _ => (pick clsNormal).orElse fun _ => pick clsKeep with
    | some m => some (m.way, some m)
    | none => none

/-- Entries in use in a slice's write-back buffer (R62). -/
def State.wbufCount (s : State) (slice : Nat) : Nat := (s.sl.wbuf.filter fun e => e.1 == slice).length

/-- Fill a line into the MSC (R60, R66): none where a fill that needs a victim finds the write-back buffer full (R62). -/
def State.mscFillLine (s : State) (slice line loc tenant cls : Nat) (dirty : Bool) : Option State :=
  if s.mscSets slice = 0 then some s
  else
    let set := loc % s.mscSets slice
    match s.victim slice set tenant with
    | none => some s
    | some (way, old) =>
      let new : MscLine := { slice := slice, line := line, set := set, way := way, cls := cls, filler := tenant, dirty := dirty, used := s.now,
                             own := (s.sl.lines.find? fun m => m.shares line).map fun _ => s.behind line, hbm := if dirty then s.lineData line else ([], 0) }
      match old with
      | none => some (s.setLines (s.sl.lines ++ [new]))
      | some m =>
        let t := (s.setLines ((s.sl.lines.filter fun x => !(x == m)) ++ [new])).backOwn m
        if 16 ≤ s.wbufCount slice then none
        else some (if m.dirty then { t with sl := { t.sl with wbuf := t.sl.wbuf ++ [(slice, m.line, false)] } } else t)

/-! ## The L1 (R88) -/

/-- Set of a line in an L1. -/
def l1Set (line : Nat) : Nat := line % 256

/-- Replace the L1 lines. -/
def State.setL1 (s : State) (ls : List L1Line) : State := { s with pipe := { s.pipe with l1 := ls } }

/-- The copy of a line for a context. -/
def State.l1Find (s : State) (core ctx line : Nat) : Option L1Line :=
  s.pipe.l1.find? fun x => x.core == core && x.ctx == ctx && x.line == line

/-- A hit makes its line most recently used. -/
def State.l1Touch (s : State) (core ctx line : Nat) : State :=
  s.setL1 (s.pipe.l1.map fun x => if x.core == core && x.ctx == ctx && x.line == line then { x with used := s.now } else x)

/-- Is any of n bytes of an L1 copy poisoned? -/
def L1Line.badAt (x : L1Line) (off n : Nat) : Bool := wordsBad x.bad off n

/-- Requests that are on their way, or stand behind a fill or at their execution points. -/
def State.inFlight (s : State) : List Req := s.pipe.reqs ++ (s.pipe.fills.flatMap fun f => f.reqs) ++ s.pipe.atoms

/-- Stores to a line that a set of cores has sent and that are not yet performed, oldest first: their bytes by offset in the line. -/
def State.onTheWay (s : State) (cores : Nat → Bool) (line : Nat) : List (Nat × Byte) :=
  let rs := s.inFlight.filter fun r => cores r.core && lineOf r.pa == line
  (sortBy (fun r => r.id) rs).flatMap fun r => match r.kind with
    | .store _ bs => bs.map fun e => (r.pa % 64 + e.1, e.2)
    | _ => []

/-- The line as a reply brings it to the L1: the home point's bytes, under the core's own stores that are on their way there. -/
def State.l1Image (s : State) (slice core ctx line : Nat) : L1Line :=
  let d := s.homeData slice line
  { core := core, ctx := ctx, line := line, data := putBytes d.1 (s.onTheWay (fun c => c == core) line), bad := d.2, used := s.now }

/-- A reply (R88): it refreshes a present copy, which counts as a fill for its recency (log 50), and where `fill` says so it takes an invalid way, or else
the least recently used. -/
def State.l1Reply (s : State) (slice core ctx line : Nat) (fill : Bool) : State :=
  let img := s.l1Image slice core ctx line
  match s.l1Find core ctx line with
  | some _ => s.setL1 (s.pipe.l1.map fun x => if x.core == core && x.ctx == ctx && x.line == line then img else x)
  | none =>
    if !fill then s
    else
      let mine := sortBy (·.used) (s.pipe.l1.filter fun x => x.core == core && l1Set x.line == l1Set line)
      if 8 ≤ mine.length then
        match mine.head? with
        | some old => s.setL1 ((s.pipe.l1.filter fun x => !(x == old)) ++ [img])
        | none => s
      else s.setL1 (s.pipe.l1 ++ [img])

/-- Store bytes into every L1 copy of a line in a core (R87, R88): a word written whole loses its poison there too (R335). A store's update is no hit
for the line's recency (log 50). -/
def State.l1Update (s : State) (core line : Nat) (bs : List (Nat × Byte)) : State :=
  let put := fun (x : L1Line) => if x.core == core && x.line == line then { x with data := putBytes x.data bs, bad := x.bad &&& ~~~wholeWords bs } else x
  s.setL1 (s.pipe.l1.map put)

/-- Flash-invalidate every line of a context in a core (R86, R222). -/
def State.l1Flash (s : State) (core ctx : Nat) : State := s.setL1 (s.pipe.l1.filter fun x => !(x.core == core && x.ctx == ctx))
/-- Invalidate a line in a core. -/
def State.l1Drop (s : State) (core line : Nat) : State := s.setL1 (s.pipe.l1.filter fun x => !(x.core == core && x.line == line))

/-! ## Pins, ECC state and logs (R72, R327, R332, R340) -/

/-- The pin, not ENDED, that covers a physical line (R72). -/
def State.pinOf (s : State) (line : Nat) : Option Pin := s.sl.pins.find? fun p => p.state != 3 && p.lines.any fun l => l.1 == line

/-- How a line stands in a pin (R72): served from PIN granules, waiting for a transfer, or not pinned. -/
inductive PinView where
  | served | waits | none
deriving DecidableEq, Repr

/-- State of a line in the pin that covers it (R72). -/
def State.pinView (s : State) (line : Nat) : PinView :=
  match s.pinOf line with
  | .none => .none
  | some p =>
    let done := p.lines.any fun l => l.1 == line && l.2.2
    if p.state = 0 then (if done then .served else .waits)
    else if p.state = 1 then .served
    else if done then .none
    else if p.sending.contains line then .waits else .served

/-- Is the line of the pin aperture backed by no SCRATCH pin (R72)? An access to it takes XLATE. -/
def State.apertureHole (s : State) (pa : Nat) : Bool := paRegion pa == .pin && (s.pinView (lineOf pa) == .none)

/-- ECC state of a slice after reset: SECDED (Table 25.1). -/
def SliceEcc.init : SliceEcc :=
  { mode := 0, busy := false, pos := 0, passes := [], sweep := 0, swept := 0, inj0 := 0, inj1 := 0, swaps := [], degraded := false, spares := 0 }
/-- ECC state of a slice. -/
def State.ecc (s : State) (slice : Nat) : SliceEcc := mget .init s.sl.ecc slice

/-- An empty ring. -/
def Ring.init : Ring := { entries := [], written := 0, read := 0, overflow := 0 }
/-- Append an entry to a ring of a capacity; a full ring drops it and counts the overflow. -/
def Ring.push (r : Ring) (cap : Nat) (e : BitVec 256) : Ring :=
  if cap ≤ r.entries.length then { r with overflow := r.overflow + 1 }
  else { r with entries := r.entries ++ [(r.written, e)], written := r.written + 1 }

/-- A CXL port before it has trained (R371). -/
def Port.init : Port := { up := false, retraining := false }
/-- A CXL port. -/
def State.port (s : State) (n : Nat) : Port := mget .init s.host.ports n
/-- Something waits to be sent to the host. -/
def State.hostWaits (s : State) (o : HostOut) : State := { s with host := { s.host with out := s.host.out ++ [o] } }

/-- Send an MSI-X message by the port of die 0, behind what has still to leave for the host (R364, R367). -/
def State.msi (s : State) (v : Nat) : State :=
  if s.host.out.isEmpty && !(s.port 0).retraining then { s with host := { s.host with msix := v :: s.host.msix } } else s.hostWaits (.msi v)

/-- Append an entry to a log of a capacity; an overflow is a management event (R327, R340, R367). -/
def State.logPush (s : State) (key cap : Nat) (e : BitVec 256) : State :=
  let r := mget .init s.sl.logs key
  let t := { s with sl := { s.sl with logs := mput .init s.sl.logs key (r.push cap e) } }
  if cap ≤ r.entries.length then t.msi 65 else t

end Sys2Proof.Machine
end

