-- ==== Sys2Proof/Machine/Array.lean ====
section
/-!
DEFINITION. The store arrays of a slice: which array line holds a line (spec/05 R61, R75, R349), the mode tags, the decoder, the
vertical bus and their logs (spec/25 R332 to R340; spec/26 R348).
-/
namespace Sys2Proof.Machine

/-! ## Array lines -/

/-- Lines of a slice's array. -/
def arrayLines : Nat := 2097152

/-- Granules of a slice of a kind other than MSC, ascending. -/
def State.kindGranules (s : State) (slice kind : Nat) : List Nat :=
  (s.sl.kinds.filter fun e => e.1 / 8192 == slice && e.2 == kind).map fun e => e.1 % 8192

/-- The i-th MSC granule of a slice, ascending. -/
def State.mscGranule (s : State) (slice i : Nat) : Nat :=
  (sortBy id ((s.sl.kinds.filter fun e => e.1 / 8192 == slice).map fun e => e.1 % 8192)).foldl (fun g n => if n ≤ g then g + 1 else g) i

/-- Array line of a way of a set (R61). -/
def State.wayLine (s : State) (slice set way : Nat) : Nat :=
  let m := 16 * set + way
  256 * s.mscGranule slice (m / 256) + m % 256

/-- Granules that a pin has taken at a slice, in the order of its places (R349). -/
def Pin.granulesAt (p : Pin) (slice : Nat) : List Nat := (p.took.filter fun e => e.1 == slice).map fun e => e.2
/-- Lines of a pin at a slice, in place order. -/
def Pin.linesAt (p : Pin) (slice : Nat) : List (Nat × Nat × Bool) := p.lines.filter fun l => l.2.1 == slice

/-- Array line of a pinned line: its slice and line. -/
def Pin.arrayLine (p : Pin) (line : Nat) : Option (Nat × Nat) :=
  match p.lines.find? fun l => l.1 == line with
  | none => none
  | some l =>
    let place := ((p.linesAt l.2.1).findIdx? fun x => x.1 == line).getD 0
    some (l.2.1, 256 * (p.granulesAt l.2.1).getD (place / 256) 0 + place % 256)

/-- Granules of a frame (R75). -/
def State.frameGranules (s : State) (slice f : Nat) : Nat × Nat :=
  let g := sortBy id (s.kindGranules slice 2)
  (g.getD (2 * f) 0, g.getD (2 * f + 1) 0)

/-- The place of line k of a page in the poison table: above every physical line and every scratchpad line. -/
def kvLine (key k : Nat) : Nat := 2 ^ 60 + 512 * key + k
/-- Array line of line k of a page's frame. -/
def State.frameLine (s : State) (slice f k : Nat) : Nat :=
  let g := s.frameGranules slice f
  256 * (if k < 256 then g.1 else g.2) + k % 256

/-- The array line of a line of a page's frame, by its number (`kvLine`): slice and line; none where the page has no frame. -/
def State.kvFrame (s : State) (line : Nat) : Option (Nat × Nat) :=
  let n := line - kvLine 0 0
  ((s.kv.pages.find? fun e => e.1 == n / 512).bind fun e => e.2.frame).map fun f => (f.1, s.frameLine f.1 f.2 (n % 512))

/-- What an array line holds: a physical line, or a line of a KV page. -/
def State.arrayHolds (s : State) (slice a : Nat) : Option Nat :=
  let ofPin := s.sl.pins.findSome? fun p =>
    if p.state = 3 then none
    else match (p.granulesAt slice).findIdx? fun g => g == a / 256 with
      | some i => ((p.linesAt slice)[256 * i + a % 256]?).map fun l => l.1
      | none => none
  let ofMsc := (s.sl.lines.find? fun m => m.slice == slice && s.wayLine slice m.set m.way == a).map fun m => m.line
  let ofPage := s.kv.pages.findSome? fun e => match e.2.frame with
    | some f =>
      let g := s.frameGranules f.1 f.2
      if f.1 != slice then none
      else if g.1 == a / 256 then some (kvLine e.1 (a % 256))
      else if g.2 == a / 256 then some (kvLine e.1 (256 + a % 256))
      else none
    | none => none
  ofPin.orElse fun _ => ofMsc.orElse fun _ => ofPage

/-! ## Tags (R333) -/

/-- Write the ECC state of a slice. -/
def State.setEcc (s : State) (slice : Nat) (e : SliceEcc) : State := { s with sl := { s.sl with ecc := mput .init s.sl.ecc slice e } }

/-- Mode in which a line is encoded. -/
def State.lineMode (s : State) (slice a : Nat) : Nat :=
  let e := s.ecc slice
  match mget 0 s.sl.tags (slice * arrayLines + a) with
  | m + 1 => m
  | 0 => if !e.busy || a < e.pos then e.mode else ((e.passes.find? fun p => a < p.1).map fun p => p.2).getD e.mode

/-- A line is written in the newest mode. -/
def State.tagLine (s : State) (slice a : Nat) : State :=
  let e := s.ecc slice
  if e.busy && e.pos ≤ a then { s with sl := { s.sl with tags := mput 0 s.sl.tags (slice * arrayLines + a) (e.mode + 1) } } else s

/-! ## Logs (R340) -/

/-- Array log entry (Table 25.3). -/
def arrayEntry (time slice line word kind mode nbit bit0 bit1 id : Nat) : BitVec 256 :=
  BitVec.ofNat 256 (time % 2 ^ 64 * 2 ^ 192 + slice % 128 * 2 ^ 185 + line % 2 ^ 21 * 2 ^ 164 + word % 8 * 2 ^ 161 + kind % 8 * 2 ^ 158 +
    mode % 2 * 2 ^ 157 + nbit % 4 * 2 ^ 155 + bit0 % 512 * 2 ^ 146 + bit1 % 512 * 2 ^ 137 + id % 2 ^ 32)

/-- Bus log entry (Table 25.4). -/
def busEntry (time slice layer dir fails action grp spare gall gfirst : Nat) : BitVec 256 :=
  BitVec.ofNat 256 (time % 2 ^ 64 * 2 ^ 192 + slice % 128 * 2 ^ 185 + layer % 4 * 2 ^ 183 + dir % 2 * 2 ^ 182 + fails % 8 * 2 ^ 179 +
    action % 8 * 2 ^ 176 + grp % 64 * 2 ^ 170 + spare % 2 * 2 ^ 169 + gall % 2 ^ 64 * 2 ^ 64 + gfirst % 2 ^ 64)

/-- SLICE, LINE, WORD and KIND of an array entry. -/
def entryKey (e : BitVec 256) : BitVec 34 := e.extractLsb' 158 34
/-- REPEAT raised by one, up to 0xFFFF. -/
def bumpRepeat (e : BitVec 256) : BitVec 256 := if e.extractLsb' 121 16 = 0xFFFF#16 then e else e + 1#256 <<< 121

/-- Die of a slice. -/
def sliceDie (slice : Nat) : Nat := slice / 32

/-- Log an array event: it merges into the entry of the same SLICE, LINE, WORD and KIND. -/
def State.logArray (s : State) (slice : Nat) (e : BitVec 256) : State :=
  let key := 4 * sliceDie slice + 1
  let r := mget .init s.sl.logs key
  if r.entries.any fun x => entryKey x.2 == entryKey e then
    let es := r.entries.map fun x => if entryKey x.2 == entryKey e then (x.1, bumpRepeat x.2) else x
    { s with sl := { s.sl with logs := mput .init s.sl.logs key { r with entries := es } } }
  else s.logPush key 64 e

/-! ## Poison (R335, R339) -/

/-- Poison n words of a line that a slice holds, or of a line of a frame, from word w on. -/
def State.poisonLine (s : State) (slice line w n : Nat) : State :=
  s.poisonHome slice line ((List.range n).foldl (fun m i => m ||| (1 : BitVec 8) <<< (w + i)) 0)

/-! ## Injections (R348) -/

/-- Fields of an injection register (Table 26.1). -/
structure Inj where
  arm : Bool
  bus : Bool
  att : Nat
  grp : Nat
  bit : Nat
  word : Nat
  line : Nat
deriving DecidableEq, Repr

/-- Decode an injection register. -/
def injOf (v : DWord) : Inj :=
  let x := v.toNat
  { arm := bits x 63 1 == 1, bus := bits x 62 1 == 1, att := bits x 59 3, grp := bits x 53 6, bit := bits x 44 9, word := bits x 41 3,
    line := bits x 20 21 }
/-- A register that has fired. -/
def disarm (v : DWord) : DWord := v &&& ~~~(1#64 <<< 63)

/-- The injections of a slice. -/
def SliceEcc.injs (e : SliceEcc) : List Inj := [injOf e.inj0, injOf e.inj1]
/-- Clear ARM of the injections that fire. -/
def SliceEcc.fired (e : SliceEcc) (f : Inj → Bool) : SliceEcc :=
  { e with inj0 := if f (injOf e.inj0) then disarm e.inj0 else e.inj0, inj1 := if f (injOf e.inj1) then disarm e.inj1 else e.inj1 }

/-- Bits inverted in word w of a line: two inversions of one bit undo each other. -/
def flippedBits (is : List Inj) (mode w : Nat) : List Nat :=
  let bs := (is.filter fun i => i.word == w && decide (i.bit < if mode = 0 then 72 else 288)).map fun i => i.bit
  match bs with
  | [a, b] => if a = b then [] else [min a b, max a b]
  | l => l

/-- The decoder's work on one ECC word of a line that an access or the sweeper reads (R335, R340). -/
def State.decodeWord (s : State) (slice a mode lid : Nat) (sweep : Bool) (w : Nat) (bs : List Nat) : State :=
  if bs.isEmpty then s
  else if bs.length ≤ mode + 1 then
    s.logArray slice (arrayEntry s.now slice a w (if sweep then 2 else 0) mode bs.length (bs.getD 0 0) (bs.getD 1 0) lid)
  else
    let t := s.logArray slice (arrayEntry s.now slice a w (if sweep then 3 else 1) mode 0 0 0 lid)
    match s.arrayHolds slice a with
    | some line => if mode = 0 then t.poisonLine slice line w 1 else t.poisonLine slice line (4 * w) 4
    | none => t

/-- Read of an array line by the decoder: array injections on the line fire. -/
def State.decodeLine (s : State) (slice a lid : Nat) (sweep : Bool) : State :=
  let e := s.ecc slice
  let fires := fun (i : Inj) => i.arm && !i.bus && i.line == a
  let is := e.injs.filter fires
  if is.isEmpty then s
  else
    let mode := s.lineMode slice a
    let t := s.setEcc slice (e.fired fires)
    (List.range (if mode = 0 then 8 else 2)).foldl (fun t w => t.decodeWord slice a mode lid sweep w (flippedBits is mode w)) t

/-! ## The vertical bus (R337 to R339) -/

/-- Bitmap of groups. -/
def groupMask (gs : List Nat) : Nat := (dedup gs).foldl (fun n g => n + 2 ^ g) 0

/-- A die has two spare slices (R56); is one left? -/
def State.spareSlice (s : State) (die : Nat) : Bool := mget 0 s.sl.sparesUsed die < 2

/-- A fault on a transfer: its lane group, the first attempt that it fails, and how many from there on. -/
structure Hit where
  grp : Nat
  first : Nat
  att : Nat
deriving DecidableEq, Repr

/-- Groups that fail parity in attempt i, counted from 0. -/
def failsIn (hits : List Hit) (i : Nat) : List Nat := dedup ((hits.filter fun h => decide (h.first ≤ i) && decide (i < h.first + h.att)).map fun h => h.grp)
/-- Failed attempts of a transfer (R338): it is retried up to 3 times while a group fails. -/
def failCount (hits : List Hit) : Nat := ((List.range 4).takeWhile fun i => !(failsIn hits i).isEmpty).length
/-- Groups that fail in any attempt of a transfer. -/
def failsAll (hits : List Hit) : List Nat := (List.range (failCount hits)).flatMap (failsIn hits)
/-- The group to swap (R338): that of the most failures, a tie to the lower group. -/
def worstGroup (hits : List Hit) : Nat := ((sortBy (fun g => (8 - ((failsAll hits).filter fun x => x == g).length) * 64 + g) (failsAll hits)).head?).getD 0

/-- Log a transfer that failed parity (R340). -/
def State.logBus (s : State) (slice a : Nat) (write : Bool) (hits : List Hit) (action grp spare : Nat) : State :=
  s.logPush (4 * sliceDie slice + 2) 64 (busEntry s.now slice (a / 256 / 2048) write.toNat (failCount hits) action grp spare
    (groupMask (failsAll hits)) (groupMask (failsIn hits 0)))

/-- Poison both lines of an aligned pair (R339). -/
def State.poisonPair (s : State) (slice a : Nat) : State :=
  [a / 2 * 2, a / 2 * 2 + 1].foldl (fun t x => match s.arrayHolds slice x with
    | some line => t.poisonLine slice line 0 8
    | none => t) s

/-- A transfer that reaches the retry limit: a lane swap, or with no spare group both lines of the pair are poisoned and the slice evacuated. -/
def State.busLimit (s : State) (slice a : Nat) (write : Bool) (hits : List Hit) : State :=
  let e := s.ecc slice
  if e.spares < 2 then
    let g := worstGroup hits
    ((s.setEcc slice { e with swaps := e.swaps ++ [(g, e.spares)], spares := e.spares + 1 }).logBus slice a write hits 1 g e.spares).msi 65
  else
    let t := s.poisonPair slice a
    if e.degraded then t.logBus slice a write hits 3 0 0
    else if s.sl.evacs.any fun v => v.slice == slice then t.logBus slice a write hits 2 0 0
    else if s.spareSlice (sliceDie slice) then (t.logBus slice a write hits 2 0 0).due [.sliceEvacuate slice]
    else ((t.setEcc slice { e with degraded := true }).logBus slice a write hits 3 0 0).msi 65

/-- Does a physical fault strike a transfer? -/
def PhysFault.onBus (slice a : Nat) (write : Bool) : PhysFault → Option Hit
  | .bus sl p g f n w => if sl == slice && p == a / 2 && w == write then some ⟨g, f, n⟩ else none
  | .hbm _ _ _ => none

/-- The transfer of a line's aligned pair over the vertical bus (R337 to R339): what strikes it fails parity in its groups, a group that has been
swapped onto a spare no more. Bus injections fire on reads (R348). -/
def State.busTransfer (s : State) (slice a : Nat) (write : Bool) : State :=
  let e := s.ecc slice
  let fires := fun (i : Inj) => !write && i.arm && i.bus && i.line / 2 == a / 2
  let injs := e.injs.filter fires
  let phys := s.sl.phys.filterMap (PhysFault.onBus slice a write)
  if injs.isEmpty && phys.isEmpty then s
  else
    let t := s.setEcc slice (e.fired fires)
    let t := { t with sl := { t.sl with phys := t.sl.phys.filter fun f => (f.onBus slice a write).isNone } }
    let hits := (injs.map (fun i => Hit.mk i.grp 0 i.att) ++ phys).filter fun h => !(e.swaps.any fun w => w.1 == h.grp)
    let fails := failCount hits
    if fails = 0 then t
    else if fails < 4 then t.logBus slice a write hits 0 0 0
    else t.busLimit slice a write hits

/-- An array read for a request, an engine or a write-back: the decoder on the die, then the bus (R337). -/
def State.arrayRead (s : State) (slice a lid : Nat) : State := (s.decodeLine slice a lid false).busTransfer slice a false

/-- Array lines in order, those of one aligned pair that follow each other together: they cross the bus in one transfer (R350). -/
def pairsOf : List (Nat × Nat) → List (List (Nat × Nat))
  | [] => []
  | [x] => [[x]]
  | x :: y :: t => if x.1 == y.1 && x.2 / 2 == y.2 / 2 then [x, y] :: pairsOf t else [x] :: pairsOf (y :: t)

/-- Array reads of lines in order, pair by pair: the decoder's work on each line, then one transfer. -/
def State.arrayReads (lid : Nat) (ls : List (Nat × Nat)) (s : State) : State :=
  (pairsOf ls).foldl (fun s p => match p with
    | x :: _ => (p.foldl (fun t y => t.decodeLine y.1 y.2 lid false) s).busTransfer x.1 x.2 false
    | [] => s) s

/-- Array lines are written in order: their bytes, which stand in memory already, cross the bus pair by pair, and the lines are rewritten in the newest mode
(R333, R337); a transfer that fails poisons them (R339). -/
def State.arrayWrites (ls : List (Nat × Nat)) (s : State) : State :=
  (pairsOf ls).foldl (fun s p => match p with
    | x :: _ => p.foldl (fun t y => t.tagLine y.1 y.2) (s.busTransfer x.1 x.2 true)
    | [] => s) s

/-! ## HBM errors on fills (R335, R340, R346) -/

/-- Does a physical fault strike a fill of a line: its word, and whether the stack corrects it? -/
def PhysFault.onFill (line : Nat) : PhysFault → Option (Nat × Bool)
  | .hbm l w c => if l == line then some (w % 8, c) else none
  | .bus _ _ _ _ _ _ => none

/-- A row has met an error: it is due for repair after one that poisons, or with the eighth corrected one within 2^32 cycles (R346). -/
def State.rowError (s : State) (row : Nat) (corrected : Bool) : State :=
  let errs := (if corrected then [(row, s.now)] else []) ++ s.sl.rowErrs.filter fun e => s.now < e.2 + 2 ^ 32
  let due := !corrected || decide (8 ≤ (errs.filter fun e => e.1 == row).length)
  { s with sl := { s.sl with rowErrs := errs, rowDue := if due then dedup (s.sl.rowDue ++ [row]) else s.sl.rowDue } }

/-- A line read from HBM into an array line: an uncorrectable error poisons its ECC word and is logged (R335, R340 KIND 4). -/
def State.hbmFill (s : State) (slice a line lid : Nat) : State :=
  let hits := s.sl.phys.filterMap (PhysFault.onFill line)
  let s := if hits.isEmpty then s else { s with sl := { s.sl with phys := s.sl.phys.filter fun f => (f.onFill line).isNone } }
  hits.foldl (fun t h =>
    let mode := (t.ecc slice).mode
    let w := if mode = 0 then h.1 else h.1 / 4
    let t := t.rowError (Config.hbmRow line) h.2
    if h.2 then t
    else (if mode = 0 then t.poisonLine slice line w 1 else t.poisonLine slice line (4 * w) 4).logArray slice (arrayEntry t.now slice a w 4 mode 0 0 0 lid)) s

/-- Where a physical line stands in the arrays: in the PIN granules of the pin that serves it, or in the MSC of its home slice. -/
def State.arrayPlace (s : State) (slice line : Nat) : Option (Nat × Nat) :=
  match (if s.pinView line == .served then (s.pinOf line).bind fun p => p.arrayLine line else none) with
  | some x => some x
  | none => (s.mscFind slice line).map fun m => (slice, s.wayLine slice m.set m.way)

/-- A reader reads a line from the arrays, where it stands there. -/
def State.readLine (s : State) (slice line lid : Nat) : State := match s.arrayPlace slice line with
  | some x => s.arrayRead x.1 x.2 lid
  | none => s
/-- A writer writes a line in the arrays: its pair crosses the bus, and the line is rewritten in the newest mode (R333, R337). -/
def State.writeLine (s : State) (slice line : Nat) : State := match s.arrayPlace slice line with
  | some x => State.arrayWrites [x] s
  | none => s

/-- Bytes of the ECC word that a line's bytes lie in, as the line is encoded: 8 under SECDED, 32 under DEC (R335). -/
def State.eccUnit (s : State) (slice line : Nat) : Nat :=
  let mode := match s.arrayPlace slice line with
    | some x => s.lineMode x.1 x.2
    | none => (s.ecc slice).mode
  if mode = 0 then 8 else 32

end Sys2Proof.Machine
end

