-- ==== Sys2Proof/Machine/Lines.lean ====
section
/-!
DEFINITION. Byte budgets, links, and a line at its home slice: what a request carries, where it waits, hits and fills (spec/05 R60 to R67, R72, R77 to
R79; spec/27 R357, R358).
-/
namespace Sys2Proof.Machine

/-! ## Budgets and links -/

/-- Is the request a store? An atomic writes once every lane of its instruction stands at its execution point. -/
def ReqKind.isWrite : ReqKind → Bool
  | .store _ _ => true
  | .load _ _ _ _ _ | .atomic _ _ _ _ _ _ _ _ | .pref _ | .monitor _ _ _ _ _ => false
/-- Does the request do its work at a CXL port: a system-scope atomic, or a WAITCMP's read, of a host or peer line (R192, R364)? -/
def Req.atPort (r : Req) : Bool := (paRegion r.pa == .host || paRegion r.pa == .peer) && match r.kind with
  | .atomic _ _ _ _ _ _ pt _ => pt == 3
  | .monitor _ _ _ _ _ => true
  | _ => false

/-- Does a store write all 64 bytes of its line (R62)? -/
def ReqKind.wholeLine : ReqKind → Bool
  | .store _ bs => 64 ≤ bs.length
  | _ => false

/-- Data bytes that the request is charged for (R358). -/
def ReqKind.charge : ReqKind → Nat
  | .load len _ _ _ _ => 32 * ((len + 31) / 32)
  | .store _ bs => 32 * ((max 1 bs.length + 31) / 32)
  | .atomic _ wid _ _ _ _ _ _ => 32 * ((wid + 31) / 32)
  | .pref _ => 64
  | .monitor _ _ _ wid _ => 32 * ((wid + 31) / 32)

/-- A cluster's budget after reset (Table 27.3). -/
def Budget.init : Budget := { budget := 0, next := 0, rem := 0, stall := 0, ivl := 0 }
/-- The byte budget of a cluster. -/
def State.bud (s : State) (cl : Nat) : Budget := mget .init s.pow.bud cl
/-- Write a budget. -/
def State.setBud (s : State) (cl : Nat) (b : Budget) : State := { s with pow := { s.pow with bud := mput .init s.pow.bud cl b } }

/-- First cycle of the next budget interval. -/
def State.nextInterval (s : State) : Nat := (s.now / 2048 + 1) * 2048

/-- Charge requests in turn while they fit (R358): the budget after it, and the charges that do not fit. -/
def payFor (b : Budget) : List Nat → Budget × List Nat
  | [] => (b, [])
  | c :: t => if b.budget = 0 then (b, []) else if c ≤ b.rem then payFor { b with rem := b.rem - c } t else (b, c :: t)

/-- A request of a cluster, already charged as far as the budget went, waits at the port for the next interval. -/
def State.portWait (s : State) (cl : Nat) (b : Budget) (w : PortWait) : State := s.setBud cl { b with port := b.port ++ [w] }

/-- Request-cycles that a wait adds to CLBSTALL by a cycle (R357). -/
def PortWait.stalled (w : PortWait) (c : Nat) : Nat := w.charges.length * (c - w.since)
/-- CLBSTALL of a cluster (R357). -/
def State.clbstall (s : State) (cl : Nat) : DWord :=
  (s.bud cl).stall + BitVec.ofNat 64 (((s.bud cl).port.map fun w => w.stalled s.now).sum)

/-- A waiting request is charged at an interval's start: it leaves, or waits for the interval after. -/
def State.leavePort (cl start : Nat) (s : State) (w : PortWait) : State :=
  let b := s.bud cl
  let pipe := fun (r : Req) => if r.id == w.id && w.who == .req then { r with charged := true, heldTo := 0 } else r
  let hold := fun (r : Req) => if r.id == w.id && w.who == .req then { r with heldTo := start + 2048 } else r
  let paid := fun (e : Engine) => if e.id == w.id && w.who == .engine then { e with paid := true, heldTo := 0 } else e
  let held := fun (e : Engine) => if e.id == w.id && w.who == .engine then { e with heldTo := start + 2048 } else e
  let read := fun (r : ShardRead) => if r.id == w.id && w.who == .shard then { r with paid := true } else r
  match payFor { b with stall := b.stall + BitVec.ofNat 64 (w.stalled start) } w.charges with
  | (c, []) => { s.setBud cl c with
      pipe := { s.pipe with reqs := s.pipe.reqs.map pipe, shards := s.pipe.shards.map read }, sp := { s.sp with engines := s.sp.engines.map paid } }
  | (c, cs) =>
    { s.setBud cl { c with port := c.port ++ [{ w with charges := cs, since := start }] } with
      pipe := { s.pipe with reqs := s.pipe.reqs.map hold }, sp := { s.sp with engines := s.sp.engines.map held } }

/-- The n-th interval starts at a cluster (R357, R358): REM is the budget, and those of the waiting requests that still stand are charged in the
order in which they reached the port. -/
def State.startInterval (cl n : Nat) (s : State) : State :=
  let b := s.bud cl
  let stands := fun (w : PortWait) => match w.who with
    | .req => s.pipe.reqs.any fun r => r.id == w.id
    | .engine => s.sp.engines.any fun e => e.id == w.id
    | .shard => s.pipe.shards.any fun r => r.id == w.id
  (b.port.filter stands).foldl (State.leavePort cl (2048 * n)) (s.setBud cl { b with budget := b.next, rem := 64 * b.next, ivl := n, port := [] })

/-- The interval that a cluster stands in has started, with those before it that have not; each lets a request at least go, so that the later of many
find none. -/
def State.interval (s : State) (cl : Nat) : State :=
  let b := s.bud cl
  let k := s.now / 2048
  if k ≤ b.ivl then s
  else ((List.range (min (k - b.ivl - 1) (b.port.map fun w => w.charges.length).sum)).foldl (fun t i => t.startInterval cl (b.ivl + 1 + i)) s).startInterval cl k

/-- A link at full width (R79). -/
def Link.init : Link := { width := 0, busy := 0, queue := 0, reneg := none }
/-- State of a link direction. -/
def State.link (s : State) (n : Nat) : Link := mget .init s.sl.links n
/-- Write a link. -/
def State.setLink (s : State) (n : Nat) (l : Link) : State := { s with sl := { s.sl with links := mput .init s.sl.links n l } }

/-- Where the messages of an access enter a request butterfly (R77): the die, its input port, the data bytes that they carry, and the cycle in which it
set out. -/
structure Via where
  die : Nat
  port : Nat
  bytes : Nat
  at' : Nat := 0
deriving DecidableEq, Repr

/-- The cluster port of a core. -/
def coreVia (core n : Nat) : Via := { die := coreDie core, port := 4 * (coreCluster core % 12) + core % 4, bytes := n }
/-- The port of the cluster unit and the cluster copy engine. -/
def unitVia (core n : Nat) : Via := { die := coreDie core, port := 4 * (coreCluster core % 12) + 3, bytes := n }
/-- The CXL port of a die: of the HBM and CXL ports 56 to 59, the first (log 21). -/
def cxlVia (die n : Nat) : Via := { die := die, port := 56, bytes := n }
/-- A control port of a die, of its walkers, sequencer, work-queue unit and slices: of the ports 60 to 63, the first (log 21). -/
def ctlVia (die n : Nat) : Via := { die := die, port := 60, bytes := n }
/-- Link of the bridge from a die to a neighbour. -/
def bridgeLink (from' to' : Nat) : Nat := 384 + 4 * from' + to'
/-- Bridges from die to die (R3): between diagonal dies through the lower-numbered die that borders both. -/
def bridges (from' to' : Nat) : List Nat :=
  if from' = to' then []
  else if from' + to' = 3 then
    let via := if from' = 0 || from' = 3 then 1 else 0
    [bridgeLink from' via, bridgeLink via to']
  else [bridgeLink from' to']

/-- Flits of a request and of its reply that read or write n bytes (R77). -/
def flitsOf (write : Bool) (n : Nat) : Nat × Nat := if write then (1 + (n + 31) / 32, 1) else (1, max 1 ((n + 31) / 32))

/-- Flits of a request and of its reply (R77). The rule counts loads and stores; for the other kinds the counts are the model's choice (log 6). -/
def ReqKind.flits : ReqKind → Nat × Nat
  | .load len _ _ _ _ => flitsOf false len
  | .store _ bs => flitsOf true bs.length
  | .atomic _ wid _ _ _ _ _ _ => (1 + (wid + 31) / 32, max 1 ((wid + 31) / 32))
  | .pref _ => (1, 2)
  | .monitor _ _ _ _ _ => (1, 1)

/-- Bridges of a round trip between dies, with the flits out and back (R78). -/
def bridgeTrip (d e f g : Nat) : List (Nat × Nat) := ((bridges d e).map fun b => (b, f)) ++ (bridges e d).map fun b => (b, g)
/-- Links of a round trip to a slice, with its flits: those of the cluster port, whose direction toward the network is 2k and the other 2k + 1, and the
bridges (R77, R78). -/
def Via.links (v : Via) (slice : Nat) (f : Nat × Nat) : List (Nat × Nat) :=
  let k := 48 * v.die + v.port
  (if v.port < 48 then [(2 * k, f.1), (2 * k + 1, f.2)] else []) ++ bridgeTrip v.die (sliceDie slice) f.1 f.2
/-- Input port at the home die (R77): its own, or one of the last bridge that the request comes over. -/
def Via.inputPort (v : Via) (slice : Nat) : Nat :=
  let e := sliceDie slice
  if v.die = e then v.port
  else
    let last := if v.die + e = 3 then (if v.die = 0 || v.die = 3 then 1 else 0) else v.die
    48 + 4 * (if (List.range 4).any fun x => x != e && x + e != 3 && x < last then 1 else 0) + v.port % 4
/-- Bridges between a slice and the HBM stack of a line; those of a line of its own die and of other regions are none. -/
def stackTrip (slice line : Nat) (f : Nat × Nat) : List (Nat × Nat) :=
  if paRegion (line * 64) == .hbm then bridgeTrip (sliceDie slice) (bits (line * 64) 37 2) f.1 f.2 else []

/-- Where a request enters the network: at its core's port, or its cluster unit's. -/
def Req.via (r : Req) : Via := if r.unit then unitVia r.core 0 else coreVia r.core 0
/-- Links of a request with the flits that cross them. -/
def Req.links (r : Req) : List (Nat × Nat) := r.via.links r.slice r.kind.flits
/-- Slice port of a request (R77). -/
def Req.slicePort (r : Req) : Nat := r.via.inputPort r.slice % 2

/-- Extra cycles of a message of F flits on a link of a width (R79). -/
def widthExtra (width f : Nat) : Nat := match width with
  | 0 => 0
  | 1 => f - 1
  | _ => 3 * (f - 1)

/-- Flits that still queue at a link's input: a narrowed link passes one in two or four cycles. -/
def State.linkQueue (s : State) (n : Nat) : Nat :=
  let l := s.link n
  l.queue - (s.now - l.since) / 2 ^ l.width

/-- A message crosses a link: the link is busy for the message's cycles, and flits queue at a narrowed one; a queue that reaches 4 is to widen it. -/
def State.cross (s : State) (n f : Nat) : State :=
  let l := s.link n
  let q := if l.width = 0 then 0 else s.linkQueue n + f
  s.setLink n { l with busy := l.busy + f + widthExtra l.width f, queue := q, since := s.now, peak := l.peak || decide (4 ≤ q) }

/-- Messages cross links. -/
def State.crossAll (s : State) (ls : List (Nat × Nat)) : State := ls.foldl (fun t e => t.cross e.1 e.2) s
/-- Is a link of a path under renegotiation? It holds every flit that is queued for it. -/
def State.pathHolds (s : State) (ls : List (Nat × Nat)) : Bool := ls.any fun e => (s.link e.1).reneg.isSome
/-- Every link direction: those of the cluster ports, and of the bridges between dies that border each other. -/
def allLinks : List Nat :=
  List.range 384 ++ (List.range 4).flatMap fun d => ((List.range 4).filter fun e => d != e && d + e != 3).map (bridgeLink d)
/-- Links whose window has a change to make or a count to clear: what carried something, and what may still narrow. -/
def State.idleLinks (s : State) : List Nat := allLinks.filter fun n => let l := s.link n; l.busy != 0 || (l.width < 2 && l.reneg.isNone)

/-- Does an access to a host or peer line wait for the port of the home slice's die, which retrains (R364)? -/
def State.portHolds (s : State) (slice pa : Nat) : Bool := (paRegion pa == .host || paRegion pa == .peer) && (s.port (sliceDie slice)).retraining

/-- A link under renegotiation, or a retraining port, holds every request queued for it. -/
def State.linksHold (s : State) (r : Req) : Bool := s.pathHolds r.links || s.portHolds r.slice r.pa
/-- Has a request passed its cluster port, and may its message cross? -/
def State.arrived (s : State) (r : Req) : Bool := (r.charged || (s.bud (coreCluster r.core)).budget == 0) && !s.linksHold r
/-- Does a request stand at a slice ahead of an access that has come there (R77)? Of those of one cycle the ones on slice port 0 come first. -/
def State.queuedAhead (s : State) (slice : Nat) (v : Via) : Bool :=
  s.pipe.reqs.any fun r => r.slice == slice && s.arrived r &&
    (decide (r.at' < v.at') || (r.at' == v.at' && decide (r.slicePort ≤ v.inputPort slice % 2)))

/-! ## Fills -/

/-- What an access does with a line at its home slice. -/
inductive LineUse where
  | read
  /-- It writes some of its bytes, or all 64. -/
  | part | whole
deriving DecidableEq, Repr

/-- Does the access write? -/
def LineUse.writes (u : LineUse) : Bool := u != .read

/-- Fill a line; the array read of a dirty victim comes first, then the read from HBM unless the access writes all of the line (R62). None
where the line has to wait: for the write-back buffer, or for a bridge. -/
def State.fillMsc (s : State) (slice line loc tenant cls lid : Nat) (u : LineUse) : Option State :=
  let trip := if u == LineUse.whole then [] else stackTrip slice line (flitsOf false 64)
  if s.pathHolds trip then none
  else
    let s := match (if s.mscSets slice = 0 then none else s.victim slice (loc % s.mscSets slice) tenant) with
      | some (_, some m) => if m.dirty then s.arrayRead slice (s.wayLine slice m.set m.way) 0 else s
      | _ => s
    (s.mscFillLine slice line loc tenant cls u.writes).map fun t =>
      let t := t.crossAll trip
      if u == LineUse.whole then t
      else match t.mscFind slice line with
        | some m => (t.hbmFill slice (t.wayLine slice m.set m.way) line lid).writeLine slice line
        | none => t

/-- Is a region cached in the MSC (Table 5.1)? -/
def mscRegion (pa : Nat) : Bool := paRegion pa == .hbm || paRegion pa == .host

/-- Does a miss on a line allocate (R64, Table 23.6)? -/
def State.allocates (s : State) (slice line tenant ccls : Nat) : Bool :=
  ccls == 0 && mscRegion (line * 64) && s.wayMask slice tenant != 0 && s.mscSets slice != 0

/-- An access of a unit to a line at its home slice, up to the array: it takes its turn behind the requests that stand there (R77); then a hit, a fill of
class NORMAL (R377), or the memory behind it. The flag says whether the array is still to be read, or written once the bytes are in place. None while it has
to wait: for its turn, a link, a port, a pin's transfer, a fill in flight, a full write-back buffer. -/
def State.admitLine (s : State) (slice line loc tenant ccls lid : Nat) (u : LineUse) (v : Via) : Option (State × Bool) :=
  let path := v.links slice (flitsOf u.writes v.bytes)
  if s.portHolds slice (line * 64) || s.pathHolds path || s.queuedAhead slice v then none else
  match s.pinView line with
  | .waits => none
  | .served => some (s.crossAll path, true)
  | .none =>
    if s.pipe.fills.any fun f => f.slice == slice && f.line == line then none
    else if (s.mscFind slice line).isSome then some ((s.mscHit slice line u.writes).crossAll path, true)
    else if s.allocates slice line tenant ccls && !(u.writes && paRegion (line * 64) == .host) then
      (s.fillMsc slice line loc tenant clsNormal lid u).map fun t => (t.crossAll path, u.writes)
    else
      let trip := stackTrip slice line (flitsOf u.writes v.bytes)
      if s.pathHolds trip then none else some ((s.crossAll trip).crossAll path, false)

/-- An access of n messages to a slice's own lines, records or metadata, which no line of the MSC serves: it takes its turn there (R77). None while it has to
wait for that, or for a link. -/
def State.reachSlice (s : State) (slice n : Nat) (v : Via) (write : Bool) : Option State :=
  let path := v.links slice (flitsOf write v.bytes)
  if s.pathHolds path || s.queuedAhead slice v then none else some ((List.range n).foldl (fun t _ => t.crossAll path) s)

/-- An access to a line comes to its home slice: a read reads the array where the line stands there; the bytes of a write are still to be put. None while it
has to wait. -/
def State.touchLine (s : State) (slice line loc tenant ccls lid : Nat) (u : LineUse) (v : Via) : Option State :=
  (s.admitLine slice line loc tenant ccls lid u v).map fun t =>
    if t.2 && !u.writes then t.1.readLine slice line lid else t.1

/-- A line reached at its home slice by a physical access (R82): a page walk's, or swap traffic. -/
def State.touchPhys (s : State) (v : Via) (pa tenant ccls : Nat) (u : LineUse) : Option State :=
  let il := s.physIlv pa
  let line := lineOf pa
  s.touchLine (homeSlice il.1 il.2 line) line (localLine il.1 line) tenant ccls 0 u v

/-- Physical address of a host physical address (Table 5.9). -/
def hostPa (x : Nat) : Nat := 2 ^ 51 + x % 2 ^ 50
/-- n bytes of host memory as a number, as their home slices serve them. -/
def State.hostRead (s : State) (x n : Nat) : Nat :=
  bytesToNat ((List.range n).flatMap fun i => s.homeBytes (homeSlice 0 0 (lineOf (hostPa (x + i)))) (hostPa (x + i)) 1)

/-- The dispatcher's and the sequencer's accesses to n bytes of host memory reach their lines, filling nothing (R65); none while one has to wait: for a port,
a link, or its turn. -/
def State.hostReach (s : State) (x n at' : Nat) (write : Bool) : Option State :=
  (dedup ((List.range n).map fun i => lineOf (hostPa (x + i)))).foldl (fun t line =>
    t.bind fun t => t.touchPhys { ctlVia 0 (min n 64) with at' := at' } (64 * line) 0 1 (if write then .part else .read)) (some s)

/-- A line reached at its home slice by its translation. -/
def State.touchVia (s : State) (v : Via) (x : Xlate) (va tenant ccls lid : Nat) (u : LineUse) : Option State :=
  let line := lineOf (x.phys va)
  s.touchLine (x.home va) line (localLine x.ilv line) tenant ccls lid u v

/-! ## Translation in one event (R325) -/

/-- A walk from a level: each level's entry is read at its home slice, for the tenant of the context; it misses where a line has to wait. -/
def State.walkTouch (s : State) (die ctx va : Nat) : Nat → Nat → Nat → XRes × State
  | 0, _, _ => (.fault, s)
  | k + 1, level, table =>
    match (if tableOk table then s.touchPhys (ctlVia die 8) (walkAddr table level va) (s.tenant ctx) 0 .read else some s) with
    | none => (.miss, s)
    | some t => match (if tableOk table then t.walkRead ctx level table va else .fault) with
      | .table p => t.walkTouch die ctx va k (level + 1) p
      | .leaf x => (.ok x, t)
      | .fault => (.fault, t)

/-- Translation for a unit of die 0 that keeps no TLB (R70, R206): what a walk has given it, or a walk among those of the die. -/
def State.unitWalker (unit ctx : Nat) : Walker := fun s va =>
  if 2 ^ 56 ≤ va then (.fault, s)
  else match s.pipe.got.find? fun g => g.unit == unit && g.ctx == ctx && (match g.tr with
      | some x => x.hits ctx va
      | none => g.page == va / 2 ^ 15) with
    | some g => (match g.tr with
      | some x => .ok x
      | none => .fault, s)
    | none => (.miss, s.startWalk 0 unit ctx va)
/-- The operation of a unit is over, and with it what walks have given it. -/
def State.unitDone (s : State) (unit : Nat) : State := { s with pipe := { s.pipe with got := s.pipe.got.filter fun g => g.unit != unit } }

/-- Translation for an engine at its issue: the TLBs of its core, or a walk, behind the walk in flight for the page or with no walker free (log 39). -/
def State.copyWalker (core ctx : Nat) : Walker := fun s va =>
  if 2 ^ 56 ≤ va then (.fault, s)
  else match s.tlbHit core ctx va with
    | some r => (.ok r.1, r.2)
    | none =>
      if s.pipe.xfaults.contains (ctx, va / 2 ^ 15) then (.fault, s)
      else if 64 ≤ (s.walking (coreDie core)).length || s.pipe.walks.any fun w => w.die == coreDie core && w.ctx == ctx && w.page == va / 2 ^ 15 then
        (.miss, s.startWalk (coreDie core) core ctx va)
      else match s.walkTouch (coreDie core) ctx va 4 0 (s.ctx ctx).top with
        | (.ok x, t) => (.ok x, t.tlbInstall [core] x)
        | r => r

end Sys2Proof.Machine
end

