-- ==== Sys2Proof/Machine/Home.lean ====
section
/-!
DEFINITION. Effects at the home point: memory, poison, monitors, acquires, atomics, and what a served request does (spec/07 R86 to R88, R93; spec/13 R192;
spec/15 R212, R213, R219; spec/25 R335).
-/
namespace Sys2Proof.Machine

/-! ## Effects at the home point -/

/-- WAITCMP conditions on a value of n bits (R192). -/
def monCond (cond : Nat) (unsigned : Bool) (n v x : Nat) : Bool :=
  if unsigned then intCond cond (v % 2 ^ n) (x % 2 ^ n) else intCond cond (sext v n) (sext x n)

/-- A monitor reads its location: it is satisfied where the condition holds, and stays so; a poisoned value is noted (R213). -/
def State.monRead (s : State) (m : Mon) : Mon :=
  if s.homeBad m.slice m.pa m.wid then { m with bad := m.bad || !m.done }
  else { m with done := m.done || monCond m.cond m.unsigned (8 * m.wid) (bytesToNat (s.homeBytes m.slice m.pa m.wid)) m.value }

/-- Acquire of a scope by a crew of a block (Table 7.1): cluster and wider invalidate the core's lines of the context; die and wider
empty the cluster's atomic buffer (R93). -/
def State.acquire (s : State) (b scope : Nat) : State :=
  let core := (s.block b).core
  let t := if 2 ≤ scope then s.l1Flash core (s.ctxOf b) else s
  if 3 ≤ scope then { t with pipe := { t.pipe with abuf := t.pipe.abuf.filter fun x => x.cluster != coreCluster core } } else t

/-- A bundle whose wait has ended goes on behind its instruction; its waiting time counts from that instruction's issue (R18). -/
def Bundle.resume (u : Bundle) : Bundle := u.step u.adv u.since

/-- Bundles that wait, the issuing one among them. -/
def State.everyBundle (s : State) : List Bundle := (if s.sch.curOn then [s.sch.cur] else []) ++ s.sch.bundles

/-- Change bundles, the issuing one among them. -/
def State.mapBundles (s : State) (f : Bundle → Bundle) : State :=
  { s with sch := { s.sch with cur := if s.sch.curOn then f s.sch.cur else s.sch.cur, bundles := s.sch.bundles.map f } }

/-- Bundles whose every monitor is satisfied continue, with the acquire of their WAITCMP (R192, R104). -/
def State.wakeMonitors (s : State) : State :=
  let ids := dedup (s.pipe.mons.map fun m => m.id)
  let done := ids.filter fun i => s.pipe.mons.all fun m => m.id != i || m.done
  if done.isEmpty then s
  else
    let t := (s.everyBundle.filter fun u => done.any fun i => u.wait == .monitor i).foldl (fun t u =>
      let acq := (t.pipe.mons.filter fun m => u.wait == .monitor m.id).foldl (fun n m => max n m.acq) 0
      t.acquire u.blk acq) s
    let t := t.mapBundles fun u => if done.any fun i => u.wait == .monitor i then u.resume else u
    { t with pipe := { t.pipe with mons := t.pipe.mons.filter fun m => !(done.contains m.id) } }

/-- Some monitors read: the replies refresh the copies that their cores hold of the lines (R88), satisfied ones let their bundles go on; one that has read
poison is consumed at the next poll event (R213). -/
def State.readMonitors (s : State) (f : Mon → Bool) (g : Mon → Mon) : State :=
  if s.pipe.mons.any f then
    let t := (s.pipe.mons.filter f).foldl (fun t m => t.l1Reply m.slice (t.block m.blk).core (t.ctxOf m.blk) (lineOf m.pa) false) s
    let t := State.wakeMonitors { t with pipe := { t.pipe with mons := t.pipe.mons.map fun m => if f m then t.monRead (g m) else m } }
    if t.pipe.mons.any fun m => m.bad then t.due [.waitcmpPoll 0] else t
  else s

/-- Monitors of a line read their location, at its home slice, after a write to it (R192). -/
def State.monWrite (s : State) (slice line : Nat) : State :=
  let f := fun (m : Mon) => m.armed && m.slice == slice && lineOf m.pa == line
  match s.pipe.mons.find? f with
  | none => s
  | some m => (s.readLine slice line (s.launchOf m.blk).id).readMonitors f id
/-- A read for a monitor reaches its location (R192): the first arms it at the home slice while one of its 512 is free; host and peer locations
are polled. -/
def State.monitorAt (s : State) (r : Req) (id lane crew : Nat) (poll : Bool) : State :=
  let free := decide ((s.pipe.mons.filter fun x => x.armed && x.slice == r.slice).length < 512)
  let here := paRegion r.pa == .hbm || paRegion r.pa == .pin
  s.readMonitors (fun m => m.id == id && m.lane == lane && m.crew == crew && m.asked) fun m => { m with asked := false, armed := free && here && !poll }

/-- Write bytes of a line at its home slice, with the poison of their words: to its copy where memory holds that, to a copy of its own, else behind the
slices; a write to a host line goes there too (R62, R82). -/
def State.homePut (s : State) (slice pa : Nat) (bs : List (Nat × Byte)) : State :=
  let unit := s.eccUnit slice (lineOf pa)
  match s.mscFind slice (lineOf pa) with
  | none => s.putBehind unit pa bs 0
  | some m => match m.own with
    | none => s.memPut unit pa bs
    | some d =>
      let t := s.mapLines (fun m => m.slice == slice && m.line == lineOf pa) fun m => { m with own := some (putLine d (bs.map fun e => (pa % 64 + e.1, e.2))) }
      if paRegion pa == .hbm then t else t.putBehind unit pa bs 0

/-- Write bytes of a line at their home point: memory and poison, the arrays where the line stands there, monitors. -/
def State.homeWrite (s : State) (slice pa : Nat) (bs : List (Nat × Byte)) : State :=
  ((s.homePut slice pa bs).writeLine slice (lineOf pa)).monWrite slice (lineOf pa)

/-- The place of a scratchpad byte in the poison table (R335): scratchpad words stand above every physical address. -/
def spadPa (b x : Nat) : Nat := 2 ^ 62 + spadKey b x
/-- Is any of n scratchpad bytes poisoned? -/
def State.spadBad (s : State) (b x n : Nat) : Bool := s.poisonedAt (spadPa b x) n
/-- Store scratchpad bytes at offsets from x: whole words lose their poison (R335). -/
def State.spadWrite (s : State) (b x : Nat) (bs : List (Nat × Byte)) : State :=
  { s with sp := s.sp.write b x bs, mem := { s.mem with poison := clearPoison 8 s.mem.poison (spadPa b x) bs } }
/-- Offsets from 0 for consecutive bytes. -/
def atOffsets (bs : List Byte) : List (Nat × Byte) := (List.range bs.length).zip bs
/-- Is the presence bit of any line of n scratchpad bytes clear (R217)? -/
def State.lineAbsent (s : State) (b x n : Nat) : Bool :=
  n != 0 && (List.range ((x % 64 + n + 63) / 64)).any fun i => mget 0 s.sp.absent (spadKey b x / 64 + i) != 0

/-- Bytes that a guarded block's held stores supply for n bytes at an address (R344): offset and value. -/
def State.heldBytes (s : State) (b pa n : Nat) : List (Nat × Byte) :=
  (s.grd.hold.filter fun h => h.blk == b).flatMap fun h =>
    (h.bytes.filter fun e => decide (pa ≤ h.pa + e.1) && decide (h.pa + e.1 < pa + n)).map fun e => (h.pa + e.1 - pa, e.2)

/-- New value of an atomic (Table 15.5): n bits, operands v and w. -/
def atomNew (op n old v w : Nat) : Nat :=
  match op with
  | 0 => (old + v) % 2 ^ n
  | 1 => if sext v n < sext old n then v else old
  | 2 => if sext old n < sext v n then v else old
  | 3 => min old v
  | 4 => max old v
  | 5 => old &&& v
  | 6 => old ||| v
  | 7 => old ^^^ v
  | 8 => v
  | 9 => if v ≤ old then 0 else old + 1
  | 10 => if w ≤ old then old else min (old + v) w
  | 11 => (fp32.add ⟨.rne, false⟩ old v).1
  | _ => if old = v then w else old

/-! ## Requests (R77, R87, R93) -/

/-- Add bytes that have arrived for a lane of a pending load. -/
def Pend.deliver (p : Pend) (lane crew off : Nat) (bs : List Byte) (bad : Bool) : Pend :=
  let take := fun (l : LaneLoad) => if l.lane == lane && l.crew == crew then { l with got := l.got ++ [(off, bs)] } else l
  { p with
    lanes := p.lanes.map take
    parts := p.parts - 1, poisoned := p.poisoned || bad }

/-- One part of a pending operation is complete. -/
def State.partDone (s : State) (id : Nat) : State := s.mapPend id fun p => { p with parts := p.parts - 1 }

/-- Add a request to its slice's queue. -/
def State.addReq (s : State) (r : Req) : State :=
  { s with pipe := { s.pipe with nextId := s.pipe.nextId + 1, reqs := s.pipe.reqs ++ [{ r with id := s.pipe.nextId, at' := s.now }] } }

/-- The line of a cluster's atomic buffer. -/
def State.abufFind (s : State) (cl line : Nat) : Option AbufLine := s.pipe.abuf.find? fun x => x.cluster == cl && x.line == line

/-- Write a line of a cluster's atomic buffer: 64 lines, the least recently used one leaving (R93). -/
def State.setAbuf (s : State) (cl line : Nat) (data : List Byte) (bad : BitVec 8) : State :=
  let rest := s.pipe.abuf.filter fun x => !(x.cluster == cl && x.line == line)
  let mine := sortBy (fun x => x.used) (rest.filter fun x => x.cluster == cl)
  let rest := if 64 ≤ mine.length then (match mine.head? with
    | some old => rest.filter fun x => !(x == old)
    | none => rest) else rest
  { s with pipe := { s.pipe with abuf := rest ++ [{ cluster := cl, line := line, data := data, used := s.now, bad := bad }] } }

/-- A write that threads of a cluster make at the home point reaches the line that its atomic buffer holds (R94, R106 axiom 3): bytes by offset. -/
def State.abufUpdate (s : State) (cl line : Nat) (bs : List (Nat × Byte)) : State :=
  let put := fun (x : AbufLine) => if x.cluster == cl && x.line == line then { x with data := putBytes x.data bs, bad := x.bad &&& ~~~wholeWords bs } else x
  { s with pipe := { s.pipe with abuf := s.pipe.abuf.map put } }

/-- The line of the atomic buffer, or what a fill of it brings from the home slice, under the unit's write-throughs that are on their way there. -/
def State.abufLine (s : State) (slice cl line : Nat) : List Byte × BitVec 8 :=
  match s.abufFind cl line with
  | some x => (x.data, x.bad)
  | none =>
    let way := ((sortBy (fun r => r.id) (s.inFlight.filter fun r => r.unit && coreCluster r.core == cl && lineOf r.pa == line)).flatMap fun r => match r.kind with
      | .store _ bs => bs.map fun e => (r.pa % 64 + e.1, e.2)
      | _ => [])
    putLine (s.homeData slice line) way

/-- An atomic of a lane at a line copy (R93): the L1's or the cluster unit's. The copy takes the new value, and so does the core's own L1 copy (R106 axiom
1), which is written through to the home slice as a store, and the old value returns. The write-through of one that stands at the home slice keeps its
place there. -/
def State.atomicCopy (s : State) (r : Req) (op wid lane crew v n pt wt : Nat) (data : List Byte) (bad : BitVec 8) : State :=
  let line := lineOf r.pa
  let off := r.pa % 64
  let old := bytesToNat ((data.drop off).take wid)
  let bs := atOffsets (natToBytes wid (atomNew op (8 * wid) old v n))
  let there := bs.map fun e => (off + e.1, e.2)
  let t := s.l1Update r.core line there
  let t := if pt = 1 then t else t.setAbuf (coreCluster r.core) line (putBytes data there) (bad &&& ~~~wholeWords there)
  let w := { r with kind := .store 0 bs, pend := wt, charged := false, heldTo := 0, inst := 0, after := 0, seen := none, fit := false, there := false, parent := if r.parent = 0 then r.id else r.parent }
  let t := if !r.there then t.addReq w
    else { t with pipe := { t.pipe with nextId := t.pipe.nextId + 1, reqs := { w with id := t.pipe.nextId, at' := r.at' - 1 } :: t.pipe.reqs } }
  t.mapPend r.pend fun p => p.deliver lane crew 0 (natToBytes wid old) false

/-- Is the old value that a lane of an atomic reads at its execution point poisoned (R213)? -/
def State.atomPoison (s : State) (r : Req) : Bool := match r.kind with
  | .atomic _ wid _ _ _ _ pt _ =>
    match (if pt = 1 then s.l1Find r.core r.ctx (lineOf r.pa) else none) with
    | some x => x.badAt (r.pa % 64) wid
    | none => if pt = 2 then wordsBad (s.abufLine r.slice (coreCluster r.core) (lineOf r.pa)).2 (r.pa % 64) wid else s.homeBad r.slice r.pa wid
  | _ => false

/-- An atomic of a lane at its execution point (R93, R221): the home slice, the home die's CXL port, or a copy of its line. -/
def State.atomicAt (s : State) (r : Req) (op wid lane crew v n pt wt : Nat) : State :=
  let line := lineOf r.pa
  if pt = 1 then
    let t := if (s.l1Find r.core r.ctx line).isSome then s.l1Touch r.core r.ctx line else s.l1Reply r.slice r.core r.ctx line true
    let x := (t.l1Find r.core r.ctx line).getD (t.l1Image r.slice r.core r.ctx line)
    t.atomicCopy r op wid lane crew v n pt wt x.data x.bad
  else if pt = 2 then
    let x := s.abufLine r.slice (coreCluster r.core) line
    s.atomicCopy r op wid lane crew v n pt wt x.1 x.2
  else
    let t := s.mscHit r.slice line true
    let old := natToBytes wid (bytesToNat (t.homeBytes r.slice r.pa wid))
    let bs := atOffsets (natToBytes wid (atomNew op (8 * wid) (bytesToNat old) v n))
    let t := ((t.homeWrite r.slice r.pa bs).l1Drop r.core line).abufUpdate (coreCluster r.core) line (bs.map fun e => (r.pa % 64 + e.1, e.2))
    t.mapPend r.pend fun p => p.deliver lane crew 0 old false

/-- A lane of an atomic has found that a lane of its instruction reads poison: it writes nothing (R213, R336). -/
def State.atomBad (s : State) (r : Req) : State := match r.kind with
  | .atomic _ wid lane crew _ _ _ wt => (s.mapPend r.pend fun p => p.deliver lane crew 0 (List.replicate wid 0) true).partDone wt
  | _ => s

/-- Lanes of an instruction's atomic. -/
def Req.atomOf (r : Req) (i : Nat) : Bool := r.inst == i && match r.kind with
  | .atomic _ _ _ _ _ _ _ _ => true
  | _ => false

/-- The execution point of an atomic's lane: its kind, and the core, cluster or slice. -/
def Req.point (r : Req) : Nat × Nat := match r.kind with
  | .atomic _ _ _ _ _ _ pt _ => (pt, if pt = 1 then r.core else if pt = 2 then coreCluster r.core else r.slice)
  | _ => (0, r.slice)

/-- Is a write of a cluster's threads to the line of its atomic buffer on its way to the home slice, other than the unit's write-throughs? An atomic on
the buffer's copy then comes behind it there (R94). -/
def State.unitBehind (s : State) (r : Req) : Bool :=
  (s.pipe.reqs ++ s.pipe.fills.flatMap fun f => f.reqs).any fun x => !x.unit && coreCluster x.core == coreCluster r.core && lineOf x.pa == lineOf r.pa &&
    match x.kind with
      | .store _ _ | .atomic _ _ _ _ _ _ _ _ => true
      | _ => false

/-- A lane of an atomic that may act does so, in arrival order at its point (R221); at a copy with a write before it, at the home slice. -/
def State.atomAct (s : State) (r : Req) : State :=
  if (s.pipe.atoms.takeWhile fun x => x.id != r.id).any fun x => lineOf x.pa == lineOf r.pa && x.point == r.point then s
  else
    let t := { s with pipe := { s.pipe with atoms := s.pipe.atoms.filter fun x => x.id != r.id } }
    match r.kind with
    | .atomic op wid lane crew v n pt wt => if pt = 2 && !r.there && s.unitBehind r then t.addReq r else t.atomicAt r op wid lane crew v n pt wt
    | _ => t

/-- Once every lane of an instruction's atomic stands at its execution point, it is known whether one reads poison, and then none writes (R213, R336);
else each acts behind the atomics that stand there before it. `here` is the request that is being served. -/
def State.settleAtoms (s : State) (i here : Nat) : State :=
  let t := if (s.pipe.reqs ++ s.pipe.fills.flatMap fun f => f.reqs).any fun r => r.atomOf i && r.id != here then s
    else
      let rs := s.pipe.atoms.filter fun r => r.atomOf i && !r.fit
      if rs.any s.atomPoison then
        rs.foldl State.atomBad { s with pipe := { s.pipe with atoms := s.pipe.atoms.filter fun r => !(rs.contains r) } }
      else { s with pipe := { s.pipe with atoms := s.pipe.atoms.map fun r => if r.atomOf i then { r with fit := true } else r } }
  (t.pipe.atoms.filter fun r => r.fit).foldl State.atomAct t

/-- A lane of an atomic stands at its execution point. -/
def State.atomHere (s : State) (r : Req) : State :=
  State.settleAtoms { s with pipe := { s.pipe with atoms := s.pipe.atoms ++ [{ r with there := true }] } } r.inst r.id

/-- What a lane of a load has read of a line is what the load's other lanes read of it (R95). -/
def State.sameRead (s : State) (r : Req) (d : List Byte × BitVec 8) : State :=
  let see := fun (x : Req) => if r.inst != 0 && x.inst == r.inst && lineOf x.pa == lineOf r.pa then { x with seen := some d } else x
  let fill := fun (f : Fill) => { f with reqs := f.reqs.map see }
  { s with pipe := { s.pipe with reqs := s.pipe.reqs.map see, fills := s.pipe.fills.map fill } }

/-- What a request does at the home point when it is served. -/
def State.perform (s : State) (r : Req) : State :=
  let line := lineOf r.pa
  match r.kind with
  | .load len lane crew off fill =>
    let d := r.seen.getD (s.homeData r.slice line)
    let bs := (d.1.drop (r.pa % 64)).take len
    ((s.mapPend r.pend fun p => p.deliver lane crew off bs (wordsBad d.2 (r.pa % 64) len)).sameRead r d).l1Reply r.slice r.core r.ctx line fill
  | .store id bs =>
    let t := s.homeWrite r.slice r.pa bs
    let t := if r.unit then t else t.abufUpdate (coreCluster r.core) line (bs.map fun e => (r.pa % 64 + e.1, e.2))
    let pends := ((s.pipe.sbuf.find? fun e => e.id == id).map fun e => e.pends).getD (if r.pend = 0 then [] else [r.pend])
    { t with pipe := { t.pipe with acks := t.pipe.acks ++ [{ id := r.id, entry := id, pends := pends }] } }
  | .atomic _ _ _ _ _ _ _ _ => s.atomHere r
  | .pref fill => if fill then s.l1Reply r.slice r.core r.ctx line true else s
  | .monitor id lane crew _ poll => s.monitorAt r id lane crew poll

end Sys2Proof.Machine
end

