-- ==== Sys2Proof/Machine/Access.lean ====
section
/-!
DEFINITION. Accesses of a core: records and policy words (spec/09 R122 to R124), the checks of Table 15.4 (spec/15 R211), ordering
(spec/07 R86, R89, R90, R103), loads, store-buffer entry (R87) and the violation log (spec/23 R327).
-/
namespace Sys2Proof.Machine

/-! ## Records and policy words -/

/-- A field of a buffer record (Table 9.7). -/
def recFld (r : BitVec 256) (low w : Nat) : Nat := (r.extractLsb' low w).toNat
/-- BASE. -/
def recBase (r : BitVec 256) : Nat := recFld r 0 64
/-- EXTENT. -/
def recExtent (r : BitVec 256) : Nat := recFld r 64 48
/-- STRIDE0, signed. -/
def recStride0 (r : BitVec 256) : Int := sext (recFld r 112 32) 32
/-- STRIDE1, signed. -/
def recStride1 (r : BitVec 256) : Int := sext (recFld r 144 32) 32
/-- FMT. -/
def recFmt (r : BitVec 256) : Nat := recFld r 176 8
/-- CHECK: TRAP. -/
def recTrap (r : BitVec 256) : Bool := recFld r 184 4 == 1
/-- DIMS. -/
def recDims (r : BitVec 256) : Nat := recFld r 188 4
/-- COUNT0. -/
def recCount0 (r : BitVec 256) : Nat := recFld r 192 32

/-- A record that RECLD refuses (R123). -/
def recInvalid (r : BitVec 256) : Bool :=
  1 < recFld r 184 4 || (recDims r != 1 && recDims r != 2) || (recDims r == 2 && recCount0 r == 0) || 0x0D < recFmt r || recFld r 224 32 != 0

/-- Record of a block's record table. -/
def State.record (s : State) (b n : Nat) : BitVec 256 := mget 0 s.sp.recs (b * 64 + n)

/-- Offset from BASE of element e (R122); exact. -/
def recOffset (r : BitVec 256) (off : Int) (e : Nat) : Int :=
  if recDims r = 2 then (e % recCount0 r : Nat) * recStride0 r + (e / recCount0 r : Nat) * recStride1 r + off
  else (e : Int) * recStride0 r + off

/-- Offset field of a memory modifier (Table 9.6). -/
def memOff (m : MemMod) : Int := m.off.toInt
/-- Width of a memory modifier in bytes. -/
def memWidth (m : MemMod) : Nat := 2 ^ m.wid.toNat

/-- An invalid policy word (R124). -/
def polBad (p : Word) : Bool := p.getLsbD 31 || 6 ≤ (p.extractLsb' 24 3).toNat || p.extractLsb' 29 2 == 3
/-- Scope of a policy word (Table 9.9). -/
def polScope (p : Word) : Nat := (p.extractLsb' 24 3).toNat
/-- Acquire. -/
def polAcq (p : Word) : Bool := p.getLsbD 27
/-- Release. -/
def polRel (p : Word) : Bool := p.getLsbD 28
/-- L1 treatment. -/
def polL1 (p : Word) : Nat := (p.extractLsb' 29 2).toNat
/-- TKEEP. -/
def polKeep (p : Word) : Nat := (p.extractLsb' 0 12).toNat
/-- TNORM; the spills' own policy, marked by bit 31, which no valid policy word sets, makes every line NORMAL (R377). -/
def polNorm (p : Word) : Nat := if p.getLsbD 31 then 4096 else (p.extractLsb' 12 12).toNat

/-- Policy word that a thread's crew reads (R12, R124). -/
def State.pol (s : State) (m : MemMod) (crew : Nat) : Word := s.regs.kreg s.sch.cur.blk crew m.pol.toNat

/-- Crews of a list of threads, each once. -/
def crewsOf (ms : List Member) : List Nat := dedup (ms.map fun m => m.crew)

/-- Scoreboard keys of the policy word. -/
def State.polKeys (s : State) (n : Nat) : List RegKey := s.sch.cur.crews.map fun c => .k s.sch.cur.blk c n

/-! ## The violation log (R327) -/

/-- Violation log entry (Table 23.7). -/
def violationEntry (addr : Nat) (pc : Word) (lin crew lane ctx kind id : Nat) : BitVec 256 :=
  BitVec.ofNat 256 (addr % 2 ^ 64 * 2 ^ 192 + pc.toNat * 2 ^ 160 + lin % 2 ^ 24 * 2 ^ 136 + crew % 32 * 2 ^ 131 + lane % 32 * 2 ^ 126 +
    ctx % 128 * 2 ^ 119 + kind % 8 * 2 ^ 116 + id % 2 ^ 32)

/-- Append an event of a block to the violation log of its die. -/
def State.logViolation (s : State) (b : Nat) (addr : Nat) (pc : Word) (crew lane kind : Nat) : State :=
  let x := s.block b
  let l := s.launchOf b
  s.logPush (coreDie x.core * 4) 256 (violationEntry addr pc x.lin crew lane l.ctx kind l.id)

/-! ## The checks of Table 15.4 (R211) -/

/-- A part of a lane's access within one line. -/
structure Piece where
  /-- Byte of the datum at which it starts, and its length. -/
  off : Nat
  len : Nat
  va : Nat
  tr : Xlate
deriving DecidableEq, Repr

/-- Physical address of a piece. -/
def Piece.pa (p : Piece) : Nat := p.tr.phys p.va
/-- Home slice of a piece. -/
def Piece.home (p : Piece) : Nat := p.tr.home p.va

/-- Parts of w bytes at an address by line, ascending (R97): offset, length, address. -/
def lineParts (va w : Nat) : List (Nat × Nat × Nat) :=
  let n := min w (64 - va % 64)
  if n = w then [(0, w, va)] else [(0, n, va), (n, w - n, va + n)]

/-- What an access checks. -/
structure Need where
  align : Bool := true
  r : Bool := false
  w : Bool := false
  /-- ATOMDUP (R95). -/
  dup : Bool := false
  /-- A store: a page without W drops the lane (step 6). -/
  store : Bool := false
  /-- PREF: failing lanes drop silently (R211). -/
  silent : Bool := false
  /-- Crews whose loads may hit an L1 copy, which a pin's end leaves (R72). -/
  l1 : List Nat := []
deriving DecidableEq, Repr

/-- A lane that passed the checks. -/
structure LaneAcc where
  m : Member
  va : Nat
  parts : List Piece
deriving DecidableEq, Repr

/-- Outcome of the checks. -/
inductive Checked where
  | trap (i : TrapInfo)
  /-- A walk is under way. -/
  | miss (s : State)
  /-- Lanes that act, and lanes dropped out of bounds. -/
  | ok (s : State) (lanes : List LaneAcc) (oob : List Member)
deriving DecidableEq, Repr

/-- Does an access to a physical address find a hole of the pin aperture (R72)? One that hits an L1 copy does not reach the slice. -/
def State.holeAt (s : State) (core ctx : Nat) (l1 : Bool) (pa : Nat) : Bool :=
  s.apertureHole pa && !(l1 && (s.l1Find core ctx (lineOf pa)).isSome)

/-- Translate the parts of a lane; `l1` says that it may hit the L1. -/
def State.laneParts (s : State) (core ctx : Nat) (l1 : Bool) : List (Nat × Nat × Nat) → State × List (Option Piece) × Bool
  | [] => (s, [], false)
  | (off, len, va) :: t =>
    let (r, s1) := s.translate core ctx va
    let (s2, ps, miss) := s1.laneParts core ctx l1 t
    match r with
    | .ok x => (s2, (if s.holeAt core ctx l1 (x.phys va) then none else some ⟨off, len, va, x⟩) :: ps, miss)
    | .miss => (s2, none :: ps, true)
    | .fault => (s2, none :: ps, miss)

/-- Translate the lanes of an access: for each lane its parts, none where an address does not translate; and whether a walk is
under way. -/
def State.lanesParts (s : State) (core ctx w : Nat) (l1 : List Nat) : List (Member × Nat) → State × List (Member × Nat × Option (List Piece)) × Bool
  | [] => (s, [], false)
  | (m, va) :: t =>
    let (s1, ps, miss1) := s.laneParts core ctx (l1.contains m.crew) (lineParts va w)
    let (s2, rest, miss2) := s1.lanesParts core ctx w l1 t
    (s2, (m, va, if ps.all Option.isSome then some (ps.filterMap id) else none) :: rest, miss1 || miss2)

/-- The first access of w bytes that overlaps a later one of the list (R95, R211). -/
def anyOverlap (w : Nat) : List (Member × Nat) → Option Member
  | [] => none
  | (m, a) :: t => if t.any fun e => decide (a < e.2 + w) && decide (e.2 < a + w) then some m else anyOverlap w t

/-- The checks of Table 15.4 over lanes with their addresses (those below 0 or past 2^56 do not translate). -/
def State.checkLanes (s : State) (w : Nat) (words : Nat) (n : Need) (lanes : List (Member × Nat)) (oob : List Member) : Checked :=
  let b := s.sch.cur.blk
  let mis := lanes.filter fun e => n.align && e.2 % w != 0
  match mis.head? with
  | some e => .trap { cls := .misalign, va := e.2, lane := e.1.lane, words := words }
  | none =>
    let (t, xs, miss) := s.lanesParts (s.block b).core (s.ctxOf b) w n.l1 lanes
    if miss then .miss t
    else
      let bad := xs.filter fun e => e.2.2.isNone
      let good := xs.filterMap fun e => e.2.2.map fun ps => (⟨e.1, e.2.1, ps⟩ : LaneAcc)
      match (if n.silent then none else bad.head?) with
      | some e => .trap { cls := .xlate, va := e.2.1, lane := e.1.lane, words := words }
      | none =>
        let lacks := fun (a : LaneAcc) => a.parts.any fun p => (n.r && !p.tr.r) || (n.w && !p.tr.w)
        match (if n.silent then none else (good.filter lacks).head?) with
        | some a => .trap { cls := .prot, va := a.va, lane := a.m.lane, words := words }
        | none =>
          let good := good.filter fun a => !(n.silent && lacks a)
          match (if n.dup then anyOverlap w (good.map fun a => (a.m, a.va)) else none) with
          | some m => .trap { cls := .atomdup, lane := m.lane, words := words }
          | none =>
            let dropped := if n.store then good.filter fun a => a.parts.any fun p => !p.tr.w else []
            let t := dropped.foldl (fun t a => t.logViolation b a.va t.sch.cur.pc a.m.crew a.m.lane 1) t
            .ok t (good.filter fun a => !(dropped.contains a)) oob

/-- A record-based access of lanes with their offsets from BASE: bounds first (R122), then Table 15.4. -/
def State.checkOffsets (s : State) (r : BitVec 256) (w words : Nat) (n : Need) (os : List (Member × Int)) : Checked :=
  let inside := fun (o : Int) => decide (0 ≤ o) && decide (o + w ≤ recExtent r)
  let out := os.filter fun e => !inside e.2
  match (if recTrap r && !n.silent then out.head? else none) with
  | some e => .trap { cls := .bounds, va := (BitVec.ofInt 64 ((recBase r : Int) + e.2)).toNat, lane := e.1.lane, words := words }
  | none =>
    let b := s.sch.cur.blk
    let here := (os.filter fun e => inside e.2).map fun e => (e.1, ((recBase r : Int) + e.2).toNat)
    match s.checkLanes w words n here (out.map fun e => e.1) with
    | .ok t lanes oob =>
      let log := fun (t : State) (e : Member × Int) => t.logViolation b (BitVec.ofInt 64 e.2).toNat t.sch.cur.pc e.1.crew e.1.lane 0
      .ok (if n.silent then t else out.foldl log t) lanes oob
    | x => x

/-- A record-based access of lanes with their element indices (R122). -/
def State.checkRecord (s : State) (r : BitVec 256) (off : Int) (w words : Nat) (n : Need) (lanes : List (Member × Nat)) : Checked :=
  s.checkOffsets r w words n (lanes.map fun e => (e.1, recOffset r off e.2))

/-! ## Ordering (R86, R89, R90, R103) -/

/-- Stores of a crew that have not left the quarter store buffer. -/
def State.inBuffer (s : State) (b c : Nat) : Bool := s.pipe.sbuf.any fun e => e.blk == b && e.crew == c && !e.left
/-- Stores of a guarded block's crew that await the comparison (R103, R344). -/
def State.inHold (s : State) (b c : Nat) : Bool := s.grd.hold.any fun h => h.blk == b && h.crew == c
/-- Reads of memory of a crew that have not landed (R90). -/
def State.readsPending (s : State) (b c : Nat) : Bool := s.pipe.pends.any fun p => p.blk == b && p.crew == c && p.isRead
/-- Has a bundle a thread of a list? -/
def Bundle.among (u : Bundle) (ms : List Member) : Bool := u.threads.any ms.contains
/-- Reads of memory of a bundle's threads that have not landed (R90, R193). -/
def State.readsOf (s : State) (u : Bundle) : Bool := s.pipe.pends.any fun p => p.blk == u.blk && p.isRead && u.among p.ms
/-- Writes of a crew that are not acknowledged. -/
def State.writesPending (s : State) (b c : Nat) : Bool := s.pipe.pends.any fun p => p.blk == b && p.crew == c && p.isWrite
/-- Has the release of a scope still to wait: for the crew's writes as Table 7.1 says, and for its reads, which it covers too (R86)? -/
def State.releaseWaits (s : State) (b c scope : Nat) : Bool :=
  s.inBuffer b c || s.inHold b c || s.readsPending b c || (2 ≤ scope && s.writesPending b c)
/-- Is what a release fence waits for still to come (R90)? -/
def State.fenceHolds (s : State) (f : FenceRec) : Bool :=
  (s.pipe.pends.any fun p => f.waits.contains p.id) || (s.pipe.sbuf.any fun e => !e.left && f.leave.contains e.id) ||
    s.grd.hold.any fun h => f.leave.contains h.id
/-- Is a write of a bundle held back by a release fence of its threads (R90, R193)? -/
def State.fenced (s : State) (u : Bundle) : Bool := s.sch.fences.any fun f => f.blk == u.blk && u.among f.ms && s.fenceHolds f
/-- Is a girth operation of a bundle held back (R102)? -/
def State.girthFenced (s : State) (u : Bundle) : Bool := s.sch.fences.any fun f => f.blk == u.blk && u.among f.ms && f.girth && s.fenceHolds f

/-- Do bytes at a physical address overlap a buffered store of the quarter (R87)? -/
def State.bufferOverlap (s : State) (core qtr pa len : Nat) : Bool :=
  s.pipe.sbuf.any fun e => e.core == core && e.qtr == qtr && !e.left && e.bytes.any fun x => decide (pa ≤ e.pa + x.1) && decide (e.pa + x.1 < pa + len)

/-- Must a load wait: for a buffered store of its quarter (R87), or for the crew's own atomic on the bytes? -/
def State.loadBlocked (s : State) (lanes : List LaneAcc) : Bool :=
  lanes.any fun a => a.parts.any fun p =>
    s.bufferOverlap s.curCore (crewQtr a.m.crew) p.pa p.len ||
    (s.inFlight.any fun r => r.core == s.curCore && match r.kind with
      | .atomic _ wid _ crew _ _ _ _ => crew == a.m.crew && decide (p.pa < r.pa + wid) && decide (r.pa < p.pa + p.len)
      | _ => false)

/-! ## Data groups (R210) -/

/-- Registers of a datum of w bytes. -/
def groupLen (w : Nat) : Nat := if w ≤ 4 then 1 else w / 4

/-- Bytes of a datum in vector cells from `cell` on. -/
def Regs.groupBytes (r : Regs) (b : Nat) (m : Member) (cell w : Nat) : List Byte :=
  ((List.range (groupLen w)).flatMap fun j => natToBytes 4 (r.vcell b m.crew (cell + j) m.lane).toNat).take w
/-- Bytes of a datum in k-registers from n on. -/
def Regs.kBytes (r : Regs) (b c n w : Nat) : List Byte :=
  ((List.range (groupLen w)).flatMap fun j => natToBytes 4 (r.kreg b c (n + j)).toNat).take w

/-- Words of a loaded datum: a datum of 1 or 2 bytes is filled with zeros or its sign. -/
def loadWords (w : Nat) (sx : Bool) (bs : List Byte) : List Word :=
  let v := bytesToNat bs
  if w ≤ 2 then [if sx then wordOfInt (sext v (8 * w)) else BitVec.ofNat 32 v]
  else (List.range (groupLen w)).map fun j => BitVec.ofNat 32 (v / 2 ^ (32 * j))

/-- Bytes of a lane in order of their place in the datum. -/
def LaneLoad.bytes (l : LaneLoad) : List Byte := putBytes ((sortBy (fun e => e.1) l.got).flatMap fun e => e.2) l.held

/-- Register writes of words to vector cells. -/
def cellWrs (m : Member) (cell : Nat) (ws : List Word) : List RegWr := ((List.range ws.length).zip ws).map fun e => .cell m.crew (cell + e.1) m.lane e.2
/-- Register writes of words to k-registers. -/
def kWrs (c n : Nat) (ws : List Word) : List RegWr := ((List.range ws.length).zip ws).map fun e => .k c (n + e.1) e.2

/-! ## Starting loads and stores -/

/-- Does a policy send its loads to the home point: L1 bypass, or an acquire of scope cluster or wider (R86, R88)? -/
def polHome (pol : Word) : Bool := polL1 pol == 2 || (polAcq pol && 2 ≤ polScope pol)

/-- Crews of the issuing bundle whose loads under their policy words may hit an L1 copy. -/
def State.hitCrews (s : State) (pol : Nat → Word) : List Nat := s.sch.cur.crews.filter fun c => !polHome (pol c)

/-- Is a load of a crew, or a read of its WAITCMP, to a line on its way? A later load of the crew comes behind it (R106 axiom 1). -/
def State.readAhead (s : State) (core crew line : Nat) : Bool := s.inFlight.any fun r => r.core == core && lineOf r.pa == line && match r.kind with
  | .load _ _ c _ _ => c == crew
  | .monitor _ _ c _ _ => c == crew
  | _ => false

/-- Lines that an instruction's loads read at their home points: those of policies that say so, and those that an earlier load of the crew still reads
there; all lanes of a load that read one line read it there where one of them does (R95). -/
def State.homeLines (s : State) (pol : Nat → Word) (lanes : List LaneAcc) : List Nat :=
  dedup (lanes.flatMap fun a => (a.parts.filter fun p => polHome (pol a.m.crew) || s.readAhead s.curCore a.m.crew (lineOf p.pa)).map fun p => lineOf p.pa)

/-- Lanes of a load that still have to bring their bytes, with what held stores supply. -/
def State.laneLoads (s : State) (lanes : List LaneAcc) : List LaneLoad :=
  lanes.map fun a =>
    { lane := a.m.lane, crew := a.m.crew, got := [],
      held := a.parts.flatMap fun p => (s.heldBytes s.sch.cur.blk p.pa p.len).map fun e => (p.off + e.1, e.2) }

/-- Send one part of a load: from the L1 copy where the policy allows and one is present, else a request (R88, R212), behind that for the lane's
lower line (R97). `inst` numbers the instruction, `home` lists the lines that it reads at their home points. -/
def State.loadPart (s : State) (inst pend : Nat) (home : List Nat) (m : Member) (pol : Word) (low : Nat) (p : Piece) : State × Nat :=
  let b := s.sch.cur.blk
  let core := (s.block b).core
  let ctx := s.ctxOf b
  match (if home.contains (lineOf p.pa) then none else s.l1Find core ctx (lineOf p.pa)) with
  | some x =>
    ((s.l1Touch core ctx (lineOf p.pa)).mapPend pend fun q => q.deliver m.lane m.crew p.off ((x.data.drop (p.pa % 64)).take p.len) (x.badAt (p.pa % 64) p.len), low)
  | none =>
    (s.addReq { id := 0, slice := p.home, core := core, ctx := ctx, pa := p.pa, kind := .load p.len m.lane m.crew p.off (polL1 pol == 0), pend := pend,
                tkeep := polKeep pol, tnorm := polNorm pol, ccls := p.tr.ccls, ilv := p.tr.ilv, charged := false, heldTo := 0, inst := inst, after := low },
     s.pipe.nextId)

/-- Send the parts of a lane in ascending order. -/
def State.loadLane (s : State) (inst pend : Nat) (home : List Nat) (pol : Word) (a : LaneAcc) : State :=
  (a.parts.foldl (fun (x : State × Nat) p => x.1.loadPart inst pend home a.m pol x.2 p) (s, 0)).1

/-- Start the loads of a pending operation of an instruction. -/
def State.loadParts (s : State) (inst pend : Nat) (home : List Nat) (pol : Nat → Word) (lanes : List LaneAcc) : State :=
  lanes.foldl (fun s a => s.loadLane inst pend home (pol a.m.crew) a) s

/-- A store of one lane to one line. -/
structure LineStore where
  crew : Nat
  pa : Nat
  bytes : List (Nat × Byte)
  home : Nat
  pol : Word
  ccls : Nat
  ilv : Nat
  /-- The higher line of a lane's access that spans two. -/
  upper : Bool
deriving DecidableEq, Repr

/-- Bytes of a part, by offset in its line; `sel` says which bytes of the datum are stored. -/
def partBytes (p : Piece) (bs : List Byte) (sel : Nat → Bool) : List (Nat × Byte) :=
  ((List.range p.len).filter fun j => sel (p.off + j)).map fun j => (p.pa % 64 + j, bs.getD (p.off + j) 0)

/-- A store of one lane that passed its checks: its bytes, and a bit mask of those that are stored. -/
structure StoreAcc where
  acc : LaneAcc
  bytes : List Byte
  mask : Nat
deriving DecidableEq, Repr

/-- Line stores of a lane, lower line first. -/
def StoreAcc.stores (a : StoreAcc) (pol : Word) : List LineStore :=
  a.acc.parts.map fun p => { crew := a.acc.m.crew, pa := p.pa / 64 * 64, bytes := partBytes p a.bytes a.mask.testBit, home := p.home, pol := pol,
                             ccls := p.tr.ccls, ilv := p.tr.ilv, upper := p.off != 0 }

/-- Record of a store in the signature (R342): the VA, the byte mask and the bytes. -/
def StoreAcc.record (a : StoreAcc) : List Byte :=
  natToBytes 8 a.acc.va ++ natToBytes 8 (a.mask % 2 ^ a.bytes.length) ++
    ((List.range a.bytes.length).filter a.mask.testBit).map fun j => a.bytes.getD j 0

/-- Every byte of a datum. -/
def fullMask : Nat := 2 ^ 64 - 1

/-- Bytes over bytes, the later remaining. -/
def overlay (old new : List (Nat × Byte)) : List (Nat × Byte) := mputs' old new
where
  /-- Each new byte replaces the old one at its offset; offsets rising. -/
  mputs' (old new : List (Nat × Byte)) : List (Nat × Byte) := new.foldl (fun m e => mins (mdel m e.1) e.1 e.2) old

/-- Epoch of a crew: releases and fences so far (R87). -/
def State.epoch (s : State) (b c : Nat) : Nat := mget 0 s.sch.epochs (crewKey b c)
/-- A release, FENCE or FENCEO of a crew ends the merging of its entries (R87). -/
def State.nextEpoch (s : State) (b c : Nat) : State :=
  { s with sch := { s.sch with epochs := mput 0 s.sch.epochs (crewKey b c) (s.epoch b c + 1) } }

/-- Can a line store merge into an entry (R87)? -/
def SbEntry.takes (e : SbEntry) (core qtr b c pa epoch : Nat) : Bool :=
  e.core == core && e.qtr == qtr && e.blk == b && e.crew == c && e.pa == pa && e.epoch == epoch && !e.left

/-- Entries that a store-buffer entry leaves behind: those that are to be acknowledged first, and earlier ones for its line (R87). -/
def State.sbWaits (s : State) (e : SbEntry) : List Nat :=
  e.after ++ (s.pipe.sbuf.filter fun x => x.core == e.core && x.qtr == e.qtr && x.pa == e.pa && !x.left && x.id < e.id).map fun x => x.id
/-- Does an entry wait for another, itself or through others, at most n deep? -/
def State.waitsFor (s : State) (to' : Nat) : Nat → Nat → Bool
  | 0, _ => false
  | n + 1, i => i == to' || match s.pipe.sbuf.find? fun e => e.id == i with
    | some e => (s.sbWaits e).any fun j => s.waitsFor to' n j
    | none => false

/-- The entry that a line store merges into (R87): the crew's newest for its line, unless the lower line's entry `prev` would wait for it. -/
def State.mergeEntry (s : State) (b : Nat) (prev : Option Nat) (x : LineStore) : Option SbEntry :=
  match (s.pipe.sbuf.filter fun e => e.takes (s.block b).core (crewQtr x.crew) b x.crew x.pa (s.epoch b x.crew)).getLast? with
  | some e => if x.upper && prev.any fun i => s.waitsFor e.id 40 i then none else some e
  | none => none

/-- Enter a line store into the quarter's store buffer for a pending operation (R87). `prev` is the entry of the lower line. -/
def State.enterStore (s : State) (b : Nat) (pend : Nat) (prev : Option Nat) (x : LineStore) : State × Option Nat :=
  let low := if x.upper then prev.toList else []
  match s.mergeEntry b prev x with
  | some e =>
    let e2 := { e with bytes := overlay e.bytes x.bytes, pends := dedup (e.pends ++ [pend]), after := dedup (e.after ++ low) }
    let t := { s with pipe := { s.pipe with sbuf := s.pipe.sbuf.map fun y => if y.id == e.id then e2 else y } }
    (if e.pends.contains pend then t else t.mapPend pend fun p => { p with parts := p.parts + 1 }, some e.id)
  | none =>
    let id := s.pipe.nextId
    let e : SbEntry := { id := id, core := (s.block b).core, qtr := crewQtr x.crew, blk := b, crew := x.crew, pa := x.pa, bytes := x.bytes, home := x.home,
                         pol := x.pol, epoch := s.epoch b x.crew, pends := [pend], ctx := s.ctxOf b, ccls := x.ccls, ilv := x.ilv, after := low, left := false }
    ({ s with pipe := { s.pipe with nextId := id + 1, sbuf := s.pipe.sbuf ++ [e] } }.mapPend pend fun p => { p with parts := p.parts + 1 }, some id)

/-- Entries of a quarter's store buffer. -/
def State.bufferUse (s : State) (core qtr : Nat) : Nat := (s.pipe.sbuf.filter fun e => e.core == core && e.qtr == qtr && !e.left).length

/-- Lines of a guarded block's hold buffer (R344). -/
def State.holdLines (s : State) (b : Nat) : Nat := (dedup ((s.grd.hold.filter fun h => h.blk == b).map fun h => h.pa)).length

/-- Held stores that a new one of a guarded block comes after: those to its line, and those of its crew behind which a release or fence stands (R90,
R103). -/
def State.heldBefore (s : State) (b : Nat) (x : LineStore) : List Nat :=
  (s.grd.hold.filter fun h => h.blk == b && (h.pa == x.pa || (h.crew == x.crew && decide (h.epoch < s.epoch b x.crew)))).map fun h => h.id

/-- Hold a line store of a guarded block until the comparison (R344): it merges into its line's entry. What stands between two stores to one line keeps
them apart in the entry, in their order (log 13). -/
def State.holdStore (s : State) (b pend : Nat) (prev : Option Nat) (x : LineStore) : State × Option Nat :=
  let s := s.mapPend pend fun p => { p with parts := p.parts + 1 }
  let last := (s.grd.hold.filter fun h => h.blk == b && h.pa == x.pa).getLast?
  match (if x.upper then none else last.filter fun h => h.crew == x.crew && h.epoch == s.epoch b x.crew) with
  | some h =>
    let put := fun (g : HoldStore) => if g.id == h.id then { g with bytes := overlay g.bytes x.bytes, pends := g.pends ++ [pend] } else g
    ({ s with grd := { s.grd with hold := s.grd.hold.map put } }, some h.id)
  | none =>
    let id := s.pipe.nextId
    let h : HoldStore := { blk := b, crew := x.crew, pa := x.pa, bytes := x.bytes, home := x.home, pol := x.pol, ctx := s.ctxOf b, ccls := x.ccls, ilv := x.ilv,
                           pends := [pend], id := id, epoch := s.epoch b x.crew, after := s.heldBefore b x ++ if x.upper then prev.toList else [] }
    ({ s with pipe := { s.pipe with nextId := id + 1 }, grd := { s.grd with hold := s.grd.hold ++ [h] } }, some id)

/-- Is the block's launch guarded (R341)? -/
def State.guardedBlk (s : State) (b : Nat) : Bool := (s.launchOf b).guarded

/-! ## Signatures (R342) -/

/-- One bit of CRC-64 with the ECMA-182 polynomial. -/
def crcBit (c : DWord) (bit : Bool) : DWord := if c.getLsbD 63 != bit then (c <<< 1) ^^^ 0x42F0E1EBA9EA3693 else c <<< 1
/-- A byte, most significant bit first. -/
def crcByte (c : DWord) (b : Byte) : DWord := (List.range 8).foldl (fun c i => crcBit c (b.getLsbD (7 - i))) c
/-- Signature key: that of the crew. -/
def State.signature (s : State) (b c : Nat) : DWord := mget 0 s.grd.sigs (crewKey b c)
/-- Add a record's bytes to a crew's signature, in a guarded launch (R342). -/
def State.sign (s : State) (b c : Nat) (bs : List Byte) : State :=
  if s.guardedBlk b then { s with grd := { s.grd with sigs := mput 0 s.grd.sigs (crewKey b c) (bs.foldl crcByte (s.signature b c)) } } else s

/-- Enter the line stores of an instruction: into the store buffer, or into the hold buffer of a guarded block. -/
def State.enterStores (s : State) (b pend : Nat) (xs : List LineStore) : State :=
  let one := fun (a : State × Option Nat) (x : LineStore) => if s.guardedBlk b then a.1.holdStore b pend a.2 x else a.1.enterStore b pend a.2 x
  (xs.foldl one (s, none)).1

/-- Does the store buffer of a quarter have room for line stores (R87)? An instruction that needs more than 32 entries enters an empty buffer as one
(log 11). -/
def State.bufferRoom (s : State) (b core qtr : Nat) (xs : List LineStore) : Bool :=
  s.bufferUse core qtr == 0 || (s.enterStores b 0 xs).bufferUse core qtr ≤ 32

end Sys2Proof.Machine
end

