-- ==== Sys2Proof/Machine/Commit.lean ====
section
/-!
DEFINITION. Guarded blocks at an instruction (spec/25 R341 to R345): commit points, the results of the primary that the twin
receives, and the start of stores.
-/
namespace Sys2Proof.Machine

/-- Numbers of the operations that an action has started. -/
def State.started (before after : State) : List Nat :=
  ((after.pipe.pends.filter fun p => before.pipe.nextId ≤ p.id).map fun p => p.id) ++
  (match after.sch.cur.wait with
    | .monitor m => [m]
    | _ => [])

/-- An operation of a primary that the twin has still to receive has ended: how is kept for it (R341). -/
def State.noteEnd (s : State) (g : GuardRes) : State :=
  { s with grd := { s.grd with pairs := s.grd.pairs.map fun (p : Pair) => if p.acts.any (fun e => e.2.contains g.id) then { p with ended := p.ended ++ [g] } else p } }

/-- A twin's action has no effect on shared state, and its operations take the results of the primary's (R341). -/
def State.mirrored (before after : State) (ids : List Nat) (ended : List GuardRes) : State :=
  let m := (State.started before after).zip ids
  let fix := fun (p : Pend) => match m.find? fun e => e.1 == p.id with
    | some e =>
      let q : Pend := { p with parts := 1, outs := [], lanes := [], plan := if p.plan == .wq then .wq else .none }
      match ended.find? fun g => g.id == e.2 with
      | some g => { q with parts := 0, outs := g.ws, poisoned := g.poisoned }
      | none => { q with mirror := some e.2 }
    | none => p
  let wait := match after.sch.cur.wait with
    | .monitor i => .monitor (((m.find? fun e => e.1 == i).map fun e => e.2).getD i)
    | w => w
  let pipe := { before.pipe with nextId := after.pipe.nextId, tlb := after.pipe.tlb, walks := after.pipe.walks, xfaults := after.pipe.xfaults,
                                 pends := after.pipe.pends.map fix }
  { after with
    sch := { after.sch with cur := { after.sch.cur with wait := wait } }
    pipe := pipe
    mem := before.mem
    sl := before.sl
    kv := before.kv
    gi := before.gi
    disp := { after.disp with wq := before.disp.wq, cancels := before.disp.cancels }
    sp := { after.sp with engines := before.sp.engines } }

/-- A twin's WAITCMP whose primary's is over goes on, with the acquire of its own monitors (R192, R341). -/
def State.monitorOver (s before after : State) : State :=
  match s.sch.cur.wait with
  | .monitor i =>
    if before.pipe.mons.any fun m => m.id == i then s
    else
      let acq := (after.pipe.mons.filter fun m => after.sch.cur.wait == .monitor m.id).foldl (fun n m => max n m.acq) 0
      let t := s.acquire s.sch.cur.blk acq
      t.setCur t.sch.cur.resume
  | _ => s

/-- Does the issuing bundle wait to issue the instruction again? -/
def State.retries (s : State) : Bool := s.sch.curOn && s.sch.cur.wait.unissued && s.sch.cur.wait != .ready

/-- An action on shared state: in a guarded pair the primary makes it and the twin receives the results (R341). -/
def State.share (s : State) (act : State → State) : State :=
  let b := s.sch.cur.blk
  let c := s.sch.cur.code
  match s.pairOf b with
  | none => act s
  | some p =>
    let t := act s
    if t.retries then t
    else if p.primary == b then t.mapPair p.primary fun q => { q with acts := q.acts ++ [(c, State.started s t)] }
    else match p.acts.find? fun e => e.1 == c with
      | none => s.park .again 0
      | some e =>
        let used := fun (q : Pair) => { q with acts := q.acts.erase e, ended := q.ended.filter fun g => !(e.2.contains g.id) }
        match (p.ended.filter fun g => e.2.contains g.id).findSome? fun g => g.trap with
        | some (cls, code, va, words) =>
          (s.mapPair p.primary used).takeTrap { cls := cls, code := code, va := va, words := words, lane := lowLane s.sch.cur.members }
        | none => ((State.mirrored s t e.2 p.ended).monitorOver s t).mapPair p.primary used

/-- Arrival of a bundle by its code (33: of the whole block) at a comparison point (R343). -/
def State.arriveAt (s : State) (b c : Nat) : State :=
  match s.pairOf b with
  | some p => s.mapPair p.primary fun q => if q.arrived.contains (b, c) then q else { q with arrived := q.arrived ++ [(b, c)] }
  | none => s
/-- Has the comparison point passed? -/
def State.mayGo (s : State) (b c : Nat) : Bool :=
  match s.pairOf b with
  | some p => p.go.contains (b, c)
  | none => true
/-- The block acts after its comparison. -/
def State.usedGo (s : State) (b c : Nat) : State :=
  match s.pairOf b with
  | some p => s.mapPair p.primary fun q => { q with go := q.go.erase (b, c) }
  | none => s

/-- An action that is a commit point (R343): in a guarded block it waits for the comparison, after its records, each under its crew, have entered the
signatures (R342). -/
def State.atPoint (s : State) (rec : State → List (Nat × List Byte)) (act : State → State) : State :=
  let b := s.sch.cur.blk
  let c := s.sch.cur.code
  match s.pairOf b with
  | none => act s
  | some p =>
    if p.go.contains (b, c) then
      let t := act s
      if t.retries then t else t.usedGo b c
    else if p.arrived.contains (b, c) then s.park .again 0
    else (((rec s).foldl (fun t e => t.sign b e.1 e.2) s).arriveAt b c).park .again 0

/-- The record of one crew, the issuing bundle's. -/
def State.oneRecord (s : State) (bs : List Byte) : List (Nat × List Byte) := [(s.sch.cur.crew, bs)]

/-- Records of every crew of the issuing bundle. -/
def State.crewRecords (s : State) (f : Nat → List Byte) : List (Nat × List Byte) := s.sch.cur.crews.map fun c => (c, f c)

/-- A commit point whose action is on shared state: the primary of a guarded pair makes it (R341, R343). -/
def State.atCommit (s : State) (rec : State → List (Nat × List Byte)) (act : State → State) : State := s.atPoint rec fun t => t.share act

/-- A commit point whose action each block of the pair makes for itself: an engine into scratchpads of the cluster group (R341, R343). -/
def State.atCommitBoth (s : State) (rec : State → List (Nat × List Byte)) (act : State → State) : State := s.atPoint rec act

/-- An instruction whose action is on shared state. -/
def issueShared (i : Instr) (q : Issue) (s : State) (act : State → State) : Host.Outcome State Fault Refusal :=
  issue i q s fun t => t.share act

/-- An instruction that is a commit point. -/
def issueCommit (i : Instr) (q : Issue) (s : State) (rec : State → List (Nat × List Byte)) (act : State → State) : Host.Outcome State Fault Refusal :=
  issue i q s fun t => t.atCommit rec act

/-- Stores without the bytes that a later one of the list writes: of two lanes of one store the higher one's value is written (R95). -/
def lastWins : List LineStore → List LineStore
  | [] => []
  | x :: t => { x with bytes := x.bytes.filter fun e => !(t.any fun y => y.pa == x.pa && y.bytes.any fun f => f.1 == e.1) } :: lastWins t

/-- Line stores of lanes, in lane order. -/
def lineStores (pol : Nat → Word) (xs : List StoreAcc) : List LineStore := lastWins (xs.flatMap fun x => x.stores (pol x.acc.m.crew))

/-- Begin the stores of an instruction: one pending operation for each crew of its bundle (R87, R109), and its records in the crew's
signature (R342). -/
def State.beginStores (s : State) (flag : Nat) (isWrite : Bool) (pol : Nat → Word) (xs : List StoreAcc) : State :=
  let u := s.sch.cur
  let all := lineStores pol xs
  u.crews.foldl (fun t c =>
    ((t.addPend { Pend.blank with blk := u.blk, crew := c, flag := flag, seta := false, isWrite := isWrite, pc := u.pc }).enterStores u.blk
      t.pipe.nextId (all.filter fun x => x.crew == c)).sign u.blk c ((xs.filter fun x => x.acc.m.crew == c).flatMap StoreAcc.record)) s

/-- Lines that stores would add to a guarded block's hold buffer (R344). -/
def State.newHoldLines (s : State) (b : Nat) (xs : List LineStore) : Nat :=
  ((dedup (xs.map fun x => x.pa)).filter fun pa => !(s.grd.hold.any fun h => h.blk == b && h.pa == pa)).length

/-- May line stores enter now (R87, R344)? -/
inductive Room where
  | enter
  /-- The store buffer is full: the crew is WAITING. -/
  | wait
  /-- HOLDOVF. -/
  | holdovf
  /-- The store is a comparison point, after a RESUME from HOLDOVF. -/
  | compare
deriving DecidableEq, Repr

/-- Where line stores of the issuing bundle may go. -/
def State.room (s : State) (xs : List LineStore) : Room :=
  let b := s.sch.cur.blk
  match s.pairOf b with
  | some p =>
    if p.holdPts.contains (b, s.sch.cur.code) then .compare
    else if 512 < s.holdLines b + s.newHoldLines b xs then .holdovf
    else .enter
  | none => if s.bufferRoom b s.curCore s.curQtr xs then .enter else .wait

/-- Enter the stores of an instruction that its checks have left in state `t`, or wait, or take HOLDOVF, as in state `s` (R87, R344). -/
def State.storeAll (s t : State) (words flag : Nat) (isWrite : Bool) (pol : Nat → Word) (xs : List StoreAcc) (done : State → State) : State :=
  match t.room (lineStores pol xs) with
  | .enter =>
    done (t.beginStores flag isWrite pol xs)
  | .wait => s.park .crew 0
  | .holdovf => s.takeTrap { cls := .holdovf, lane := lowLane s.sch.cur.members, words := words }
  | .compare => (s.arriveAt s.sch.cur.blk (4096 + s.sch.cur.code)).park .again 0

/-- Must a write of the issuing bundle wait for a release fence, or for the release of its own policy word (R86, R89, R90; log 10)? -/
def State.orderWaits (s : State) (pol : Nat → Word) : Bool :=
  s.fenced s.sch.cur || s.sch.cur.crews.any fun c => polRel (pol c) && s.releaseWaits s.sch.cur.blk c (polScope (pol c))

/-- Must a store to memory of the issuing bundle wait? In a guarded block the hold buffer orders the stores (R103; log 13). -/
def State.writeWaits (s : State) (pol : Nat → Word) : Bool := (s.pairOf s.sch.cur.blk).isNone && s.orderWaits pol

/-- A release ends the merging of its crew's entries (R87). -/
def State.cutReleases (s : State) (pol : Nat → Word) : State :=
  s.sch.cur.crews.foldl (fun t c => if polRel (pol c) then t.nextEpoch s.sch.cur.blk c else t) s

/-- The stores of a checked instruction, under their policy words. -/
def State.storeOut (s t : State) (words : Nat) (pol : Nat → Word) (xs : List StoreAcc) (done : State → State) : State :=
  if s.writeWaits pol then s.park .again 0
  else s.storeAll (if s.guardedBlk s.sch.cur.blk then t.cutReleases pol else t) words s.setb true pol xs fun t => done (t.cutReleases pol)

end Sys2Proof.Machine
end

