-- ==== Sys2Proof/Decode.lean ====
section
/-!
DEFINITION. The decoder and the encoder of the Mordax instruction words, from the layouts of
spec/09_encoding_rules.md (Tables 9.1, 9.3, 9.6, 9.10, 9.11) and the modifier tables of the instruction chapters.
The decoder is total: a word that is no instruction is refused by name. Conditions on the values of fields are
`Instr.formError`'s and the meanings'; here only bits no field covers must be zero.
-/
namespace Sys2Proof

/-- Why words are not an instruction (R111, R125, R128). Each is an ILLOP of the machine. -/
inductive DecodeError where
  /-- Opcode 0xB0 to 0xFE (R125). -/
  | unassigned
  /-- 0xFF inside a clause body (R125). -/
  | headerInBody
  /-- The word where a header must stand is none (R111). -/
  | notHeader
  /-- A bit that belongs to no field of the instruction is not zero (R115). -/
  | reserved
  /-- A field that must name a k-register names a vector register (Table 9.4). -/
  | registerClass
  /-- The extension word lies beyond LEN (R128). -/
  | noExtension
  /-- Fewer bytes than a word. -/
  | short
deriving DecidableEq, Repr

/-- Field d, bits [23:17] (Table 9.3). -/
def fd (w : Word) : Field := w.extractLsb' 17 7
/-- Field a, bits [16:10]. -/
def fa (w : Word) : Field := w.extractLsb' 10 7
/-- Field b or imm7, bits [9:3]. -/
def fb (w : Word) : Field := w.extractLsb' 3 7
/-- Field g, bits [2:0]. -/
def fg (w : Word) : Guard := w.extractLsb' 0 3
/-- imm14, bits [16:3]. -/
def fi (w : Word) : BitVec 14 := w.extractLsb' 3 14
/-- Opcode, bits [31:24]. -/
def fop (w : Word) : BitVec 8 := w.extractLsb' 24 8
/-- The k-register number of a field in the k range. -/
def flo (f : Field) : BitVec 6 := f.extractLsb' 0 6
/-- The field that names a k-register. -/
def kf (n : BitVec 6) : Field := (1 : BitVec 1) ++ n

/-- Memory modifier word (Table 9.6). -/
def decMem (x : Word) : MemMod := ⟨x.extractLsb' 26 6, x.extractLsb' 20 6, x.extractLsb' 16 4, x.extractLsb' 0 16⟩
/-- Crew modifier word (Table 13.1). -/
def decCrew (x : Word) : CrewMod :=
  ⟨x.extractLsb' 27 5, x.extractLsb' 26 1, x.extractLsb' 20 6, x.extractLsb' 16 4, x.extractLsb' 0 7⟩
/-- Its reserved bits [15:7]. -/
def crewRsv (x : Word) : BitVec 9 := x.extractLsb' 7 9
/-- Contract modifier word (Table 15.7). -/
def decContract (x : Word) : ContractMod := ⟨x.extractLsb' 3 1, x.extractLsb' 0 3⟩
/-- Its reserved bits [31:4]. -/
def contractRsv (x : Word) : BitVec 28 := x.extractLsb' 4 28
/-- KV modifier word (Table 15.8). -/
def decKv (x : Word) : KvMod := ⟨x.extractLsb' 26 6, x.extractLsb' 25 1, x.extractLsb' 0 2⟩
/-- Its reserved bits [24:2]. -/
def kvRsv (x : Word) : BitVec 23 := x.extractLsb' 2 23
/-- Girth modifier word (Table 15.9). -/
def decGirth (x : Word) : GirthMod :=
  ⟨x.extractLsb' 28 4, x.extractLsb' 27 1, x.extractLsb' 23 4, x.extractLsb' 22 1, x.extractLsb' 20 2⟩
/-- Its reserved bits [19:0]. -/
def girthRsv (x : Word) : BitVec 20 := x.extractLsb' 0 20
/-- MMA modifier word (Table 17.5). -/
def decMma (x : Word) : MmaMod :=
  ⟨x.extractLsb' 26 6, x.extractLsb' 20 6, x.extractLsb' 19 1, x.extractLsb' 18 1, x.extractLsb' 17 1, x.extractLsb' 15 2,
   x.extractLsb' 13 2, x.extractLsb' 7 6⟩
/-- Its reserved bits [6:0]. -/
def mmaRsv (x : Word) : BitVec 7 := x.extractLsb' 0 7
/-- ALOAD modifier word (R254). -/
def decAload (x : Word) : AloadMod := ⟨x.extractLsb' 16 2, x.extractLsb' 14 2⟩
/-- Its reserved bits [31:18] and [13:0]. -/
def aloadRsv (x : Word) : BitVec 28 := x.extractLsb' 18 14 ++ x.extractLsb' 0 14
/-- ASTORE modifier word (Table 17.6). -/
def decAstore (x : Word) : AstoreMod :=
  ⟨x.extractLsb' 26 6, x.extractLsb' 20 6, x.extractLsb' 18 2, x.extractLsb' 16 2, x.extractLsb' 14 2, x.extractLsb' 13 1,
   x.extractLsb' 7 6⟩
/-- Its reserved bits [6:0]. -/
def astoreRsv (x : Word) : BitVec 7 := x.extractLsb' 0 7
/-- QPOP modifier word (R246). -/
def decQpop (x : Word) : QpopMod := ⟨x.extractLsb' 5 1, x.extractLsb' 0 5⟩
/-- Its reserved bits [31:6]. -/
def qpopRsv (x : Word) : BitVec 26 := x.extractLsb' 6 26
/-- Copy modifier word (Table 17.11). -/
def decCopy (x : Word) : CopyMod :=
  ⟨x.extractLsb' 30 2, x.extractLsb' 26 4, x.extractLsb' 25 1, x.extractLsb' 17 8, x.extractLsb' 16 1, x.extractLsb' 11 5,
   x.extractLsb' 5 6⟩
/-- Its reserved bits [4:0]. -/
def copyRsv (x : Word) : BitVec 5 := x.extractLsb' 0 5

/-- The instruction, where the reserved bits are zero. -/
def body (p : Prop) [Decidable p] (i : Instr) : Except DecodeError Instr := if p then .ok i else .error .reserved

/-- The field must name a k-register. -/
def kOnly (f : Field) (r : Except DecodeError Instr) : Except DecodeError Instr := if f.isK then r else .error .registerClass

/-- The extension word, where the clause has one. -/
def ext (e : Option Word) (f : Word → Except DecodeError Instr) : Except DecodeError Instr :=
  match e with
  | some x => f x
  | none => .error .noExtension

/-- A clause header (Table 9.1). -/
def decodeHeader (w : Word) : Except DecodeError Instr :=
  if fop w = 0xFF then .ok (.clauseHeader (w.extractLsb' 12 12) (w.extractLsb' 8 4) (w.extractLsb' 4 4) (w.extractLsb' 0 4))
  else .error .notHeader

/-- The instruction with opcode `op` whose first word is `w` and whose extension word, where the clause has room for one, is `e`
(Tables 9.10, 9.11). `feed` tells the two QSTAT rows apart (R247). -/
def decodeOp (feed : Bool) (op : Nat) (w : Word) (e : Option Word) : Except DecodeError Instr :=
  match op with
  | 0x00 => .ok (.iadd (fd w) (fa w) (fb w) (fg w))
  | 0x01 => .ok (.iaddc (fd w) (fa w) (fb w) (fg w))
  | 0x02 => .ok (.isub (fd w) (fa w) (fb w) (fg w))
  | 0x03 => .ok (.isubb (fd w) (fa w) (fb w) (fg w))
  | 0x04 => .ok (.imul (fd w) (fa w) (fb w) (fg w))
  | 0x05 => .ok (.imulhs (fd w) (fa w) (fb w) (fg w))
  | 0x06 => .ok (.imulhu (fd w) (fa w) (fb w) (fg w))
  | 0x07 => .ok (.imad (fd w) (fa w) (fb w) (fg w))
  | 0x08 => .ok (.imad64 (fd w) (fa w) (fb w) (fg w))
  | 0x09 => .ok (.idiv (fd w) (fa w) (fb w) (fg w))
  | 0x0A => .ok (.idivu (fd w) (fa w) (fb w) (fg w))
  | 0x0B => .ok (.irem (fd w) (fa w) (fb w) (fg w))
  | 0x0C => .ok (.iremu (fd w) (fa w) (fb w) (fg w))
  | 0x0D => .ok (.imin (fd w) (fa w) (fb w) (fg w))
  | 0x0E => .ok (.imax (fd w) (fa w) (fb w) (fg w))
  | 0x0F => .ok (.iminu (fd w) (fa w) (fb w) (fg w))
  | 0x10 => .ok (.imaxu (fd w) (fa w) (fb w) (fg w))
  | 0x11 => body (fb w = 0) (.iabs (fd w) (fa w) (fg w))
  | 0x12 => .ok (.icmp ((fd w).extractLsb' 6 1) ((fd w).extractLsb' 3 3) ((fd w).extractLsb' 0 3) (fa w) (fb w) (fg w))
  | 0x13 => .ok (.icmpu ((fd w).extractLsb' 6 1) ((fd w).extractLsb' 3 3) ((fd w).extractLsb' 0 3) (fa w) (fb w) (fg w))
  | 0x14 => .ok (.iadd64 (fd w) (fa w) (fb w) (fg w))
  | 0x15 => .ok (.isub64 (fd w) (fa w) (fb w) (fg w))
  | 0x16 => .ok (.imul64 (fd w) (fa w) (fb w) (fg w))
  | 0x17 => .ok (.lea (fd w) (fa w) (fb w) (fg w))
  | 0x18 => .ok (.lea64 (fd w) (fa w) (fb w) (fg w))
  | 0x19 => .ok (.and (fd w) (fa w) (fb w) (fg w))
  | 0x1A => .ok (.or (fd w) (fa w) (fb w) (fg w))
  | 0x1B => .ok (.xor (fd w) (fa w) (fb w) (fg w))
  | 0x1C => .ok (.andn (fd w) (fa w) (fb w) (fg w))
  | 0x1D => .ok (.orn (fd w) (fa w) (fb w) (fg w))
  | 0x1E => .ok (.shl (fd w) (fa w) (fb w) (fg w))
  | 0x1F => .ok (.shr (fd w) (fa w) (fb w) (fg w))
  | 0x20 => .ok (.sar (fd w) (fa w) (fb w) (fg w))
  | 0x21 => .ok (.rotl (fd w) (fa w) (fb w) (fg w))
  | 0x22 => .ok (.fshl (fd w) (fa w) (fb w) (fg w))
  | 0x23 => .ok (.fshr (fd w) (fa w) (fb w) (fg w))
  | 0x24 => .ok (.bfe (fd w) (fa w) (fb w) (fg w))
  | 0x25 => .ok (.bfi (fd w) (fa w) (fb w) (fg w))
  | 0x26 => body (fb w = 0) (.popc (fd w) (fa w) (fg w))
  | 0x27 => body (fb w = 0) (.clz (fd w) (fa w) (fg w))
  | 0x28 => body (fb w = 0) (.clz64 (fd w) (fa w) (fg w))
  | 0x29 => body (fb w = 0) (.brev (fd w) (fa w) (fg w))
  | 0x2A => .ok (.bytep (fd w) (fa w) (fb w) (fg w))
  | 0x2B => .ok (.sel (fd w) (fa w) (fb w) (fg w))
  | 0x2C => .ok (.fadd (fd w) (fa w) (fb w) (fg w))
  | 0x2D => .ok (.fsub (fd w) (fa w) (fb w) (fg w))
  | 0x2E => .ok (.fmul (fd w) (fa w) (fb w) (fg w))
  | 0x2F => .ok (.ffma (fd w) (fa w) (fb w) (fg w))
  | 0x30 => .ok (.fmin (fd w) (fa w) (fb w) (fg w))
  | 0x31 => .ok (.fmax (fd w) (fa w) (fb w) (fg w))
  | 0x32 => .ok (.fcmp ((fd w).extractLsb' 6 1) ((fd w).extractLsb' 3 3) ((fd w).extractLsb' 0 3) (fa w) (fb w) (fg w))
  | 0x33 => body (fb w = 0) (.fclass (fd w) (fa w) (fg w))
  | 0x34 => body ((fb w).extractLsb' 3 4 = 0) (.frnd (fd w) (fa w) ((fb w).extractLsb' 0 3) (fg w))
  | 0x35 => .ok (.fscl (fd w) (fa w) (fb w) (fg w))
  | 0x36 => .ok (.hadd2 (fd w) (fa w) (fb w) (fg w))
  | 0x37 => .ok (.hmul2 (fd w) (fa w) (fb w) (fg w))
  | 0x38 => .ok (.hfma2 (fd w) (fa w) (fb w) (fg w))
  | 0x39 => .ok (.hmin2 (fd w) (fa w) (fb w) (fg w))
  | 0x3A => .ok (.hmax2 (fd w) (fa w) (fb w) (fg w))
  | 0x3B => .ok (.hcmp2 ((fd w).extractLsb' 6 1) ((fd w).extractLsb' 3 3) ((fd w).extractLsb' 0 3) (fa w) (fb w) (fg w))
  | 0x3C => .ok (.badd2 (fd w) (fa w) (fb w) (fg w))
  | 0x3D => .ok (.bmul2 (fd w) (fa w) (fb w) (fg w))
  | 0x3E => .ok (.bfma2 (fd w) (fa w) (fb w) (fg w))
  | 0x3F => .ok (.bmin2 (fd w) (fa w) (fb w) (fg w))
  | 0x40 => .ok (.bmax2 (fd w) (fa w) (fb w) (fg w))
  | 0x41 => .ok (.bcmp2 ((fd w).extractLsb' 6 1) ((fd w).extractLsb' 3 3) ((fd w).extractLsb' 0 3) (fa w) (fb w) (fg w))
  | 0x42 => .ok (.dadd (fd w) (fa w) (fb w) (fg w))
  | 0x43 => .ok (.dmul (fd w) (fa w) (fb w) (fg w))
  | 0x44 => .ok (.dfma (fd w) (fa w) (fb w) (fg w))
  | 0x45 => .ok (.dcmp ((fd w).extractLsb' 6 1) ((fd w).extractLsb' 3 3) ((fd w).extractLsb' 0 3) (fa w) (fb w) (fg w))
  | 0x46 => body ((fb w).extractLsb' 2 1 = 0) (.cvtf (fd w) (fa w) ((fb w).extractLsb' 6 1) ((fb w).extractLsb' 3 3) ((fb w).extractLsb' 0 2) (fg w))
  | 0x47 => .ok (.cvti (fd w) (fa w) ((fb w).extractLsb' 4 3) ((fb w).extractLsb' 2 2) ((fb w).extractLsb' 0 2) (fg w))
  | 0x48 => body ((fb w).extractLsb' 3 4 = 0) (.pack2 (fd w) (fa w) ((fb w).extractLsb' 0 3) (fg w))
  | 0x49 => body (fb w = 0) (.rcp (fd w) (fa w) (fg w))
  | 0x4A => body (fb w = 0) (.rsq (fd w) (fa w) (fg w))
  | 0x4B => body (fb w = 0) (.sqrt (fd w) (fa w) (fg w))
  | 0x4C => body (fb w = 0) (.exp2 (fd w) (fa w) (fg w))
  | 0x4D => body (fb w = 0) (.log2 (fd w) (fa w) (fg w))
  | 0x4E => body (fb w = 0) (.sinp (fd w) (fa w) (fg w))
  | 0x4F => body (fb w = 0) (.cosp (fd w) (fa w) (fg w))
  | 0x50 => body (fb w = 0) (.tanh (fd w) (fa w) (fg w))
  | 0x51 => body (fb w = 0) (.mov (fd w) (fa w) (fg w))
  | 0x52 => .ok (.movi (fd w) (fi w) (fg w))
  | 0x53 => ext e fun x => body (fi w = 0) (.movl (fd w) (fg w) (x))
  | 0x54 => body ((fd w).extractLsb' 1 6 = 0) (.bra ((fd w).extractLsb' 0 1) (fi w) (fg w))
  | 0x55 => body ((fd w).extractLsb' 3 4 = 0) (.brau ((fd w).extractLsb' 2 1) ((fd w).extractLsb' 0 2) (fi w) (fg w))
  | 0x56 => ext e fun x => body (fd w = 0 ∧ fi w = 0) (.jmp (fg w) (x))
  | 0x57 => body (fd w = 0 ∧ fb w = 0) (.jmpi (fa w) (fg w))
  | 0x58 => body (fd w = 0) (.call (fi w) (fg w))
  | 0x59 => body (fd w = 0 ∧ fb w = 0) (.calli (fa w) (fg w))
  | 0x5A => body (fd w = 0 ∧ fa w = 0 ∧ fb w = 0) (.ret (fg w))
  | 0x5B => body (fd w = 0 ∧ fa w = 0 ∧ fb w = 0 ∧ fg w = 0) .reform
  | 0x5C => body (fd w = 0 ∧ fa w = 0 ∧ fb w = 0) (.exit (fg w))
  | 0x5D => body (fd w = 0 ∧ fa w = 0 ∧ fb w = 0 ∧ fg w = 0) .nop
  | 0x5E => body (fd w = 0 ∧ fa w = 0 ∧ fb w = 0 ∧ fg w = 0) .yieldI
  | 0x5F => ext e fun x => body (fa w = 0 ∧ fb w = 0 ∧ crewRsv x = 0) (.vote (fd w) (fg w) (decCrew x))
  | 0x60 => ext e fun x => body (crewRsv x = 0) (.shfl (fd w) (fa w) (fb w) (fg w) (decCrew x))
  | 0x61 => ext e fun x => body (fb w = 0 ∧ crewRsv x = 0) (.cred (fd w) (fa w) (fg w) (decCrew x))
  | 0x62 => ext e fun x => body (fb w = 0 ∧ crewRsv x = 0) (.cscan (fd w) (fa w) (fg w) (decCrew x))
  | 0x63 => ext e fun x => body (fb w = 0 ∧ crewRsv x = 0) (.matchEq (fd w) (fa w) (fg w) (decCrew x))
  | 0x64 => ext e fun x => body (fd w = 0 ∧ fa w = 0 ∧ fb w = 0 ∧ crewRsv x = 0) (.csync (fg w) (decCrew x))
  | 0x65 => body (fd w = 0 ∧ fa w = 0 ∧ fg w = 0 ∧ (fb w).extractLsb' 5 2 = 0) (.bar ((fb w).extractLsb' 4 1) ((fb w).extractLsb' 0 4))
  | 0x66 => body (fd w = 0 ∧ fa w = 0 ∧ fb w = 0 ∧ fg w = 0) .lbar
  | 0x67 => ext e fun x => body ((fd w).extractLsb' 0 3 = 0) (.waitcmp ((fd w).extractLsb' 6 1) ((fd w).extractLsb' 3 3) (fa w) (fb w) (fg w) (decMem x))
  | 0x68 => body (fd w = 0 ∧ fa w = 0 ∧ fg w = 0 ∧ (fb w).extractLsb' 5 2 = 0) (.fence ((fb w).extractLsb' 3 2) ((fb w).extractLsb' 0 3))
  | 0x69 => body (fd w = 0 ∧ fa w = 0 ∧ fb w = 0 ∧ fg w = 0) .fenceo
  | 0x6A => body (fd w = 0 ∧ fa w = 0 ∧ fg w = 0 ∧ (fb w).extractLsb' 3 4 = 0) (.fencer ((fb w).extractLsb' 0 3))
  | 0x6B => body ((fd w).extractLsb' 3 3 = 0 ∧ (fa w).extractLsb' 6 1 = 0 ∧ (fb w).extractLsb' 4 3 = 0) (.plop ((fd w).extractLsb' 6 1) ((fd w).extractLsb' 0 3) ((fa w).extractLsb' 3 3) ((fa w).extractLsb' 0 3) ((fb w).extractLsb' 0 4) (fg w))
  | 0x6C => body (fa w = 0 ∧ fb w = 0) (.p2v (fd w) (fg w))
  | 0x6D => body ((fd w).extractLsb' 0 6 = 0) (.v2p ((fd w).extractLsb' 6 1) (fa w) (fb w) (fg w))
  | 0x6E => body (fa w = 0) (.rdsr (fd w) (fb w) (fg w))
  | 0x6F => kOnly (fa w) (body (fd w = 0) (.wrsr (flo (fa w)) (fb w) (fg w)))
  | 0x70 => if fa w = 0 then body (fd w = 0) (.winbImm (fb w) (fg w)) else kOnly (fa w) (body (fd w = 0 ∧ fb w = 0) (.winbReg (flo (fa w)) (fg w)))
  | 0x71 => body (fd w = 0 ∧ fa w = 0 ∧ (fb w).extractLsb' 3 4 = 0) (.cpart ((fb w).extractLsb' 0 3) (fg w))
  | 0x72 => body (fd w = 0 ∧ fa w = 0) (.trap (fb w) (fg w))
  | 0x73 => if (fb w).getLsbD 2 then body (fd w = 0 ∧ fa w = 0 ∧ (fb w).extractLsb' 3 4 = 0) (.cancelSelf ((fb w).extractLsb' 0 2) (fg w)) else kOnly (fa w) (body (fd w = 0 ∧ (fb w).extractLsb' 3 4 = 0) (.cancelId (flo (fa w)) ((fb w).extractLsb' 0 2) (fg w)))
  | 0x74 => if (fb w).getLsbD 0 then kOnly (fa w) (body (fd w = 0 ∧ (fb w).extractLsb' 3 4 = 0) (.wqpush (flo (fa w)) ((fb w).extractLsb' 1 2) (fg w))) else kOnly (fd w) (body (fa w = 0 ∧ (fb w).extractLsb' 3 4 = 0) (.wqpop (flo (fd w)) ((fb w).extractLsb' 1 2) (fg w)))
  | 0x75 => ext e fun x => .ok (.ld (fd w) (fa w) (fb w) (fg w) (decMem x))
  | 0x76 => ext e fun x => body (fb w = 0) (.st (fd w) (fa w) (fg w) (decMem x))
  | 0x77 => ext e fun x => .ok (.ldk (fd w) (fa w) (fb w) (fg w) (decMem x))
  | 0x78 => ext e fun x => body (fb w = 0) (.stk (fd w) (fa w) (fg w) (decMem x))
  | 0x79 => ext e fun x => .ok (.lds (fd w) (fa w) (fb w) (fg w) (decMem x))
  | 0x7A => ext e fun x => body (fb w = 0) (.sts (fd w) (fa w) (fg w) (decMem x))
  | 0x7B => ext e fun x => .ok (.stsm (fd w) (fa w) (fb w) (fg w) (decMem x))
  | 0x7C => ext e fun x => .ok (.ldp (fd w) (fa w) (fb w) (fg w) (decMem x))
  | 0x7D => ext e fun x => .ok (.stp (fd w) (fa w) (fb w) (fg w) (decMem x))
  | 0x7E => ext e fun x => .ok (.ldx (fd w) (fa w) (fb w) (fg w) (decMem x))
  | 0x7F => ext e fun x => .ok (.stm (fd w) (fa w) (fb w) (fg w) (decMem x))
  | 0x80 => ext e fun x => .ok (.atom (fd w) (fa w) (fb w) (fg w) (decMem x))
  | 0x81 => ext e fun x => .ok (.atomk (fd w) (fa w) (fb w) (fg w) (decMem x))
  | 0x82 => ext e fun x => .ok (.red (fd w) (fa w) (fb w) (fg w) (decMem x))
  | 0x83 => ext e fun x => .ok (.cas (fd w) (fa w) (fb w) (fg w) (decMem x))
  | 0x84 => if (fb w).getLsbD 0 then kOnly (fa w) (body (fd w = 0 ∧ (fb w).extractLsb' 1 6 = 0) (.invl1Line (flo (fa w)) (fg w))) else body (fd w = 0 ∧ fa w = 0 ∧ fb w = 0) (.invl1 (fg w))
  | 0x85 => ext e fun x => body (fd w = 0) (.pref (fa w) (fb w) (fg w) (decMem x))
  | 0x86 => ext e fun x => body (fd w = 0) (.recld (fa w) (fb w) (fg w) (decMem x))
  | 0x87 => ext e fun x => body (fb w = 0 ∧ contractRsv x = 0) (.pin (fd w) (fa w) (fg w) (decContract x))
  | 0x88 => ext e fun x => body (fb w = 0 ∧ contractRsv x = 0) (.unpin (fd w) (fa w) (fg w) (decContract x))
  | 0x89 => ext e fun x => body (fb w = 0 ∧ contractRsv x = 0) (.cctr (fd w) (fa w) (fg w) (decContract x))
  | 0x8A => ext e fun x => body (fb w = 0 ∧ contractRsv x = 0) (.stpart (fd w) (fa w) (fg w) (decContract x))
  | 0x8B => ext e fun x => body (fd w = 0 ∧ fb w = 0 ∧ kvRsv x = 0) (.kvapp (fa w) (fg w) (decKv x))
  | 0x8C => ext e fun x => body (fb w = 0 ∧ kvRsv x = 0) (.kvfork (fd w) (fa w) (fg w) (decKv x))
  | 0x8D => ext e fun x => body (fd w = 0 ∧ fb w = 0 ∧ kvRsv x = 0) (.kvfree (fa w) (fg w) (decKv x))
  | 0x8E => ext e fun x => body (fb w = 0 ∧ kvRsv x = 0) (.kvhm (fd w) (fa w) (fg w) (decKv x))
  | 0x8F => ext e fun x => body (fb w = 0 ∧ kvRsv x = 0) (.assay (fd w) (fa w) (fg w) (decKv x))
  | 0x90 => ext e fun x => body (fb w = 0 ∧ girthRsv x = 0) (.gread (fd w) (fa w) (fg w) (decGirth x))
  | 0x91 => ext e fun x => body (girthRsv x = 0) (.gupd (fd w) (fa w) (fb w) (fg w) (decGirth x))
  | 0x92 => ext e fun x => body (fb w = 0 ∧ girthRsv x = 0) (.gcinch (fd w) (fa w) (fg w) (decGirth x))
  | 0x93 => ext e fun x => body (fd w = 0 ∧ girthRsv x = 0) (.gclose (fa w) (fb w) (fg w) (decGirth x))
  | 0x94 => ext e fun x => body (girthRsv x = 0) (.gmount (fd w) (fa w) (fb w) (fg w) (decGirth x))
  | 0x95 => ext e fun x => body (fb w = 0 ∧ girthRsv x = 0) (.gdismt (fd w) (fa w) (fg w) (decGirth x))
  | 0x96 => body (fd w = 0 ∧ fa w = 0 ∧ fg w = 0 ∧ (fb w).extractLsb' 3 4 = 0) (.gfence ((fb w).extractLsb' 0 3))
  | 0x97 => ext e fun x => body (fg w = 0 ∧ mmaRsv x = 0) (.mmab (fd w) (fa w) (fb w) (decMma x))
  | 0x98 => ext e fun x => body (fg w = 0 ∧ mmaRsv x = 0) (.mmah (fd w) (fa w) (fb w) (decMma x))
  | 0x99 => ext e fun x => body (fg w = 0 ∧ mmaRsv x = 0) (.mmai8 (fd w) (fa w) (fb w) (decMma x))
  | 0x9A => ext e fun x => body (fg w = 0 ∧ mmaRsv x = 0) (.mmai84 (fd w) (fa w) (fb w) (decMma x))
  | 0x9B => ext e fun x => body (fg w = 0 ∧ mmaRsv x = 0) (.mmai4 (fd w) (fa w) (fb w) (decMma x))
  | 0x9C => body (fa w = 0 ∧ fb w = 0 ∧ fg w = 0) (.aclr (fd w))
  | 0x9D => ext e fun x => body (fb w = 0 ∧ fg w = 0 ∧ aloadRsv x = 0) (.aload (fd w) (fa w) (decAload x))
  | 0x9E => ext e fun x => body (fg w = 0 ∧ astoreRsv x = 0) (.astore (fd w) (fa w) (fb w) (decAstore x))
  | 0x9F => body (fg w = 0) (.arowmx (fd w) (fa w) (fb w))
  | 0xA0 => ext e fun x => body (fg w = 0 ∧ x.extractLsb' 1 31 = 0) (.aexpb (fd w) (fa w) (fb w) (x.extractLsb' 0 1))
  | 0xA1 => body (fa w = 0 ∧ fg w = 0) (.ashift (fd w) (fb w))
  | 0xA2 => body (fg w = 0) (.arowsm (fd w) (fa w) (fb w))
  | 0xA3 => ext e fun x => body (fb w = 0 ∧ fg w = 0 ∧ x = 0) (.qpush (fd w) (fa w))
  | 0xA4 => ext e fun x => body (fg w = 0 ∧ qpopRsv x = 0) (.qpop (fd w) (fa w) (fb w) (decQpop x))
  | 0xA5 => kOnly (fd w) (if feed ∨ fb w ≠ 0 then body (fg w = 0) (.qstatFeed (flo (fd w)) (fa w) (fb w)) else body (fg w = 0) (.qstat (flo (fd w)) (fa w)))
  | 0xA6 => ext e fun x => body (fd w = 0 ∧ fb w = 0 ∧ fg w = 0 ∧ copyRsv x = 0) (.cpy (fa w) (decCopy x))
  | 0xA7 => ext e fun x => body (fd w = 0 ∧ fb w = 0 ∧ fg w = 0 ∧ copyRsv x = 0) (.cpym (fa w) (decCopy x))
  | 0xA8 => ext e fun x => body (fd w = 0 ∧ fb w = 0 ∧ fg w = 0 ∧ copyRsv x = 0) (.cpyq (fa w) (decCopy x))
  | 0xA9 => ext e fun x => body (fd w = 0 ∧ fb w = 0 ∧ fg w = 0 ∧ copyRsv x = 0) (.cpyix (fa w) (decCopy x))
  | 0xAA => ext e fun x => body (fd w = 0 ∧ fb w = 0 ∧ fg w = 0 ∧ copyRsv x = 0) (.smelt (fa w) (decCopy x))
  | 0xAB => ext e fun x => body (fd w = 0 ∧ fb w = 0 ∧ fg w = 0 ∧ copyRsv x = 0) (.cpys (fa w) (decCopy x))
  | 0xAC => ext e fun x => body (fd w = 0 ∧ fb w = 0 ∧ fg w = 0 ∧ copyRsv x = 0) (.txpose (fa w) (decCopy x))
  | 0xAD => ext e fun x => body (fb w = 0 ∧ fg w = 0) (.tdmk (fd w) (fa w) (decMem x))
  | 0xAE => kOnly (fa w) (body (fd w = 0 ∧ fb w = 0 ∧ fg w = 0) (.tdfree (flo (fa w))))
  | 0xAF => body (fd w = 0 ∧ fa w = 0 ∧ fb w = 0 ∧ fg w = 0) .fend
  | 0xFF => .error .headerInBody
  | _ => .error .unassigned

/-- The instruction of a first word and an extension word. -/
def decodeBody (feed : Bool) (w : Word) (e : Option Word) : Except DecodeError Instr := decodeOp feed (fop w).toNat w e

/-- Little-endian word of four bytes (R107). -/
def wordOfBytes (b0 b1 b2 b3 : Byte) : Word := b3 ++ b2 ++ b1 ++ b0

/-- The four bytes of a word, the lowest address first (R107). -/
def bytesOfWord (w : Word) : List Byte := [w.extractLsb' 0 8, w.extractLsb' 8 8, w.extractLsb' 16 8, w.extractLsb' 24 8]

/-- The decoder on bytes: where a header must stand, the header; else an instruction and its extension word. -/
def decode (feed header : Bool) : List Byte → Except DecodeError Instr
  | b0 :: b1 :: b2 :: b3 :: rest =>
    if header then decodeHeader (wordOfBytes b0 b1 b2 b3)
    else match rest with
      | c0 :: c1 :: c2 :: c3 :: _ => decodeBody feed (wordOfBytes b0 b1 b2 b3) (some (wordOfBytes c0 c1 c2 c3))
      | _ => decodeBody feed (wordOfBytes b0 b1 b2 b3) none
  | _ => .error .short

/-- Formats F-R and F-I (Table 9.3). -/
def fR (op : BitVec 8) (d a b : Field) (g : Guard) : Word := op ++ d ++ a ++ b ++ g
/-- Formats F-W and F-L (Table 9.3). -/
def fW (op : BitVec 8) (d : Field) (i : BitVec 14) (g : Guard) : Word := op ++ d ++ i ++ g
/-- Memory modifier word. -/
def encMem (m : MemMod) : Word := m.recNo ++ m.pol ++ m.wid ++ m.off
/-- Crew modifier word. -/
def encCrew (m : CrewMod) : Word := m.opc ++ m.some ++ m.mkReg ++ m.type ++ (0 : BitVec 9) ++ m.imm
/-- Contract modifier word. -/
def encContract (m : ContractMod) : Word := (0 : BitVec 28) ++ m.kind ++ m.life
/-- KV modifier word. -/
def encKv (m : KvMod) : Word := m.vr ++ m.mode ++ (0 : BitVec 23) ++ m.qd
/-- Girth modifier word. -/
def encGirth (m : GirthMod) : Word := m.op ++ m.w64 ++ m.word ++ m.pen ++ m.qd ++ (0 : BitVec 20)
/-- MMA modifier word. -/
def encMma (m : MmaMod) : Word := m.pm1 ++ m.vc ++ m.vce ++ m.ka ++ m.kb ++ m.gs ++ m.sel ++ m.sr ++ (0 : BitVec 7)
/-- ALOAD modifier word. -/
def encAload (m : AloadMod) : Word := (0 : BitVec 14) ++ m.lay ++ m.fmt ++ (0 : BitVec 14)
/-- ASTORE modifier word. -/
def encAstore (m : AstoreMod) : Word := m.recNo ++ m.pol ++ m.dst ++ m.lay ++ m.fmt ++ m.rf ++ m.sc ++ (0 : BitVec 7)
/-- QPOP modifier word. -/
def encQpop (m : QpopMod) : Word := (0 : BitVec 26) ++ m.peek ++ m.cnt
/-- Copy modifier word. -/
def encCopy (m : CopyMod) : Word := m.qtr ++ m.qn ++ m.val ++ m.mask ++ m.ixv ++ m.ixc ++ m.ix ++ (0 : BitVec 5)

/-- The words of an instruction, the first at the lowest address (Tables 9.3, 9.10). An event row has no words. -/
def encode : Instr → List Word
  | .iadd d a b g => [fR 0x00 d a b g]
  | .iaddc d a b g => [fR 0x01 d a b g]
  | .isub d a b g => [fR 0x02 d a b g]
  | .isubb d a b g => [fR 0x03 d a b g]
  | .imul d a b g => [fR 0x04 d a b g]
  | .imulhs d a b g => [fR 0x05 d a b g]
  | .imulhu d a b g => [fR 0x06 d a b g]
  | .imad d a b g => [fR 0x07 d a b g]
  | .imad64 d a b g => [fR 0x08 d a b g]
  | .idiv d a b g => [fR 0x09 d a b g]
  | .idivu d a b g => [fR 0x0A d a b g]
  | .irem d a b g => [fR 0x0B d a b g]
  | .iremu d a b g => [fR 0x0C d a b g]
  | .imin d a b g => [fR 0x0D d a b g]
  | .imax d a b g => [fR 0x0E d a b g]
  | .iminu d a b g => [fR 0x0F d a b g]
  | .imaxu d a b g => [fR 0x10 d a b g]
  | .iabs d a g => [fR 0x11 d a 0 g]
  | .icmp path cond pred a b g => [fR 0x12 (path ++ cond ++ pred) a b g]
  | .icmpu path cond pred a b g => [fR 0x13 (path ++ cond ++ pred) a b g]
  | .iadd64 d a b g => [fR 0x14 d a b g]
  | .isub64 d a b g => [fR 0x15 d a b g]
  | .imul64 d a b g => [fR 0x16 d a b g]
  | .lea d a b g => [fR 0x17 d a b g]
  | .lea64 d a b g => [fR 0x18 d a b g]
  | .and d a b g => [fR 0x19 d a b g]
  | .or d a b g => [fR 0x1A d a b g]
  | .xor d a b g => [fR 0x1B d a b g]
  | .andn d a b g => [fR 0x1C d a b g]
  | .orn d a b g => [fR 0x1D d a b g]
  | .shl d a b g => [fR 0x1E d a b g]
  | .shr d a b g => [fR 0x1F d a b g]
  | .sar d a b g => [fR 0x20 d a b g]
  | .rotl d a b g => [fR 0x21 d a b g]
  | .fshl d a b g => [fR 0x22 d a b g]
  | .fshr d a b g => [fR 0x23 d a b g]
  | .bfe d a b g => [fR 0x24 d a b g]
  | .bfi d a b g => [fR 0x25 d a b g]
  | .popc d a g => [fR 0x26 d a 0 g]
  | .clz d a g => [fR 0x27 d a 0 g]
  | .clz64 d a g => [fR 0x28 d a 0 g]
  | .brev d a g => [fR 0x29 d a 0 g]
  | .bytep d a b g => [fR 0x2A d a b g]
  | .sel d a b s => [fR 0x2B d a b s]
  | .fadd d a b g => [fR 0x2C d a b g]
  | .fsub d a b g => [fR 0x2D d a b g]
  | .fmul d a b g => [fR 0x2E d a b g]
  | .ffma d a b g => [fR 0x2F d a b g]
  | .fmin d a b g => [fR 0x30 d a b g]
  | .fmax d a b g => [fR 0x31 d a b g]
  | .fcmp path cond pred a b g => [fR 0x32 (path ++ cond ++ pred) a b g]
  | .fclass d a g => [fR 0x33 d a 0 g]
  | .frnd d a m g => [fR 0x34 d a ((0 : BitVec 4) ++ m) g]
  | .fscl d a b g => [fR 0x35 d a b g]
  | .hadd2 d a b g => [fR 0x36 d a b g]
  | .hmul2 d a b g => [fR 0x37 d a b g]
  | .hfma2 d a b g => [fR 0x38 d a b g]
  | .hmin2 d a b g => [fR 0x39 d a b g]
  | .hmax2 d a b g => [fR 0x3A d a b g]
  | .hcmp2 path cond pred a b g => [fR 0x3B (path ++ cond ++ pred) a b g]
  | .badd2 d a b g => [fR 0x3C d a b g]
  | .bmul2 d a b g => [fR 0x3D d a b g]
  | .bfma2 d a b g => [fR 0x3E d a b g]
  | .bmin2 d a b g => [fR 0x3F d a b g]
  | .bmax2 d a b g => [fR 0x40 d a b g]
  | .bcmp2 path cond pred a b g => [fR 0x41 (path ++ cond ++ pred) a b g]
  | .dadd d a b g => [fR 0x42 d a b g]
  | .dmul d a b g => [fR 0x43 d a b g]
  | .dfma d a b g => [fR 0x44 d a b g]
  | .dcmp path cond pred a b g => [fR 0x45 (path ++ cond ++ pred) a b g]
  | .cvtf d a h src dst g => [fR 0x46 d a (h ++ src ++ (0 : BitVec 1) ++ dst) g]
  | .cvti d a mode dst src g => [fR 0x47 d a (mode ++ dst ++ src) g]
  | .pack2 d a m g => [fR 0x48 d a ((0 : BitVec 4) ++ m) g]
  | .rcp d a g => [fR 0x49 d a 0 g]
  | .rsq d a g => [fR 0x4A d a 0 g]
  | .sqrt d a g => [fR 0x4B d a 0 g]
  | .exp2 d a g => [fR 0x4C d a 0 g]
  | .log2 d a g => [fR 0x4D d a 0 g]
  | .sinp d a g => [fR 0x4E d a 0 g]
  | .cosp d a g => [fR 0x4F d a 0 g]
  | .tanh d a g => [fR 0x50 d a 0 g]
  | .mov d a g => [fR 0x51 d a 0 g]
  | .movi d i g => [fW 0x52 d i g]
  | .movl d g lit => [fW 0x53 d 0 g, lit]
  | .bra n i g => [fW 0x54 ((0 : BitVec 6) ++ n) i g]
  | .brau n q i g => [fW 0x55 ((0 : BitVec 4) ++ n ++ q) i g]
  | .jmp g lit => [fW 0x56 0 0 g, lit]
  | .jmpi a g => [fR 0x57 0 a 0 g]
  | .call i g => [fW 0x58 0 i g]
  | .calli a g => [fR 0x59 0 a 0 g]
  | .ret g => [fR 0x5A 0 0 0 g]
  | .reform => [fR 0x5B 0 0 0 0]
  | .exit g => [fR 0x5C 0 0 0 g]
  | .nop => [fR 0x5D 0 0 0 0]
  | .yieldI => [fR 0x5E 0 0 0 0]
  | .vote d g m => [fR 0x5F d 0 0 g, encCrew m]
  | .shfl d a b g m => [fR 0x60 d a b g, encCrew m]
  | .cred d a g m => [fR 0x61 d a 0 g, encCrew m]
  | .cscan d a g m => [fR 0x62 d a 0 g, encCrew m]
  | .matchEq d a g m => [fR 0x63 d a 0 g, encCrew m]
  | .csync g m => [fR 0x64 0 0 0 g, encCrew m]
  | .bar scope id => [fR 0x65 0 0 ((0 : BitVec 2) ++ scope ++ id) 0]
  | .lbar => [fR 0x66 0 0 0 0]
  | .waitcmp u cond a b g m => [fR 0x67 (u ++ cond ++ (0 : BitVec 3)) a b g, encMem m]
  | .fence ord scope => [fR 0x68 0 0 ((0 : BitVec 2) ++ ord ++ scope) 0]
  | .fenceo => [fR 0x69 0 0 0 0]
  | .fencer scope => [fR 0x6A 0 0 ((0 : BitVec 4) ++ scope) 0]
  | .plop path r pb pa lut g => [fR 0x6B (path ++ (0 : BitVec 3) ++ r) ((0 : BitVec 1) ++ pb ++ pa) ((0 : BitVec 3) ++ lut) g]
  | .p2v d g => [fR 0x6C d 0 0 g]
  | .v2p path a b g => [fR 0x6D (path ++ (0 : BitVec 6)) a b g]
  | .rdsr d i g => [fR 0x6E d 0 i g]
  | .wrsr a i g => [fR 0x6F 0 (kf a) i g]
  | .winbImm i g => [fR 0x70 0 0 i g]
  | .winbReg a g => [fR 0x70 0 (kf a) 0 g]
  | .cpart w g => [fR 0x71 0 0 ((0 : BitVec 4) ++ w) g]
  | .trap c g => [fR 0x72 0 0 c g]
  | .cancelSelf l g => [fR 0x73 0 0 ((0 : BitVec 4) ++ (1 : BitVec 1) ++ l) g]
  | .cancelId a l g => [fR 0x73 0 (kf a) ((0 : BitVec 4) ++ (0 : BitVec 1) ++ l) g]
  | .wqpop d q g => [fR 0x74 (kf d) 0 ((0 : BitVec 4) ++ q ++ (0 : BitVec 1)) g]
  | .wqpush a q g => [fR 0x74 0 (kf a) ((0 : BitVec 4) ++ q ++ (1 : BitVec 1)) g]
  | .ld d a b g m => [fR 0x75 d a b g, encMem m]
  | .st d a g m => [fR 0x76 d a 0 g, encMem m]
  | .ldk d a b g m => [fR 0x77 d a b g, encMem m]
  | .stk d a g m => [fR 0x78 d a 0 g, encMem m]
  | .lds d a b g m => [fR 0x79 d a b g, encMem m]
  | .sts d a g m => [fR 0x7A d a 0 g, encMem m]
  | .stsm d a b g m => [fR 0x7B d a b g, encMem m]
  | .ldp d a b g m => [fR 0x7C d a b g, encMem m]
  | .stp d a b g m => [fR 0x7D d a b g, encMem m]
  | .ldx d a b g m => [fR 0x7E d a b g, encMem m]
  | .stm d a b g m => [fR 0x7F d a b g, encMem m]
  | .atom d a b g m => [fR 0x80 d a b g, encMem m]
  | .atomk d a b g m => [fR 0x81 d a b g, encMem m]
  | .red d a b g m => [fR 0x82 d a b g, encMem m]
  | .cas d a b g m => [fR 0x83 d a b g, encMem m]
  | .invl1 g => [fR 0x84 0 0 0 g]
  | .invl1Line a g => [fR 0x84 0 (kf a) 1 g]
  | .pref a b g m => [fR 0x85 0 a b g, encMem m]
  | .recld a b g m => [fR 0x86 0 a b g, encMem m]
  | .pin d a g m => [fR 0x87 d a 0 g, encContract m]
  | .unpin d a g m => [fR 0x88 d a 0 g, encContract m]
  | .cctr d a g m => [fR 0x89 d a 0 g, encContract m]
  | .stpart d a g m => [fR 0x8A d a 0 g, encContract m]
  | .kvapp a g m => [fR 0x8B 0 a 0 g, encKv m]
  | .kvfork d a g m => [fR 0x8C d a 0 g, encKv m]
  | .kvfree a g m => [fR 0x8D 0 a 0 g, encKv m]
  | .kvhm d a g m => [fR 0x8E d a 0 g, encKv m]
  | .assay d a g m => [fR 0x8F d a 0 g, encKv m]
  | .gread d a g m => [fR 0x90 d a 0 g, encGirth m]
  | .gupd d a b g m => [fR 0x91 d a b g, encGirth m]
  | .gcinch d a g m => [fR 0x92 d a 0 g, encGirth m]
  | .gclose a b g m => [fR 0x93 0 a b g, encGirth m]
  | .gmount d a b g m => [fR 0x94 d a b g, encGirth m]
  | .gdismt d a g m => [fR 0x95 d a 0 g, encGirth m]
  | .gfence scope => [fR 0x96 0 0 ((0 : BitVec 4) ++ scope) 0]
  | .mmab d a b m => [fR 0x97 d a b 0, encMma m]
  | .mmah d a b m => [fR 0x98 d a b 0, encMma m]
  | .mmai8 d a b m => [fR 0x99 d a b 0, encMma m]
  | .mmai84 d a b m => [fR 0x9A d a b 0, encMma m]
  | .mmai4 d a b m => [fR 0x9B d a b 0, encMma m]
  | .aclr d => [fR 0x9C d 0 0 0]
  | .aload d a m => [fR 0x9D d a 0 0, encAload m]
  | .astore d a b m => [fR 0x9E d a b 0, encAstore m]
  | .arowmx d a b => [fR 0x9F d a b 0]
  | .aexpb d a b push => [fR 0xA0 d a b 0, (0 : BitVec 31) ++ push]
  | .ashift d b => [fR 0xA1 d 0 b 0]
  | .arowsm d a b => [fR 0xA2 d a b 0]
  | .qpush d a => [fR 0xA3 d a 0 0, 0]
  | .qpop d a b m => [fR 0xA4 d a b 0, encQpop m]
  | .qstat d a => [fR 0xA5 (kf d) a 0 0]
  | .qstatFeed d a b => [fR 0xA5 (kf d) a b 0]
  | .cpy a m => [fR 0xA6 0 a 0 0, encCopy m]
  | .cpym a m => [fR 0xA7 0 a 0 0, encCopy m]
  | .cpyq a m => [fR 0xA8 0 a 0 0, encCopy m]
  | .cpyix a m => [fR 0xA9 0 a 0 0, encCopy m]
  | .smelt a m => [fR 0xAA 0 a 0 0, encCopy m]
  | .cpys a m => [fR 0xAB 0 a 0 0, encCopy m]
  | .txpose a m => [fR 0xAC 0 a 0 0, encCopy m]
  | .tdmk d a m => [fR 0xAD d a 0 0, encMem m]
  | .tdfree a => [fR 0xAE 0 (kf a) 0 0]
  | .fend => [fR 0xAF 0 0 0 0]
  | .clauseHeader wait seta setb len => [(0xFF : BitVec 8) ++ wait ++ seta ++ setb ++ len]
  | .issueSelect _ _ | .binAged _ | .binOverdue _ | .barResume _ _ _ | .lbarReleaseWindow _ | .yieldExpire _
  | .waitcmpPoll _ | .wqExecute | .cancelArrive | .cancelStop _ | .resultLand _ | .storeBufferLeave _ | .storeAck _
  | .fencerVisit _ | .engineWriteLand _ | .panelLand _ | .engineComplete _ | .placeBlock | .crewStart _ | .blockComplete _
  | .levelComplete _ _ | .cxlSnoop _ | .tailReread _ | .recordTake _ | .launchRelease _ | .segmentClear _
  | .launchBlocking _ | .preempt _ | .swapOut _ | .swapSaveDone _ | .swapRestore _ _ | .faultEntryWrite _ | .watchdog _
  | .sliceServe _ | .mscFill _ | .writebackSend _ | .writebackFree _ | .maskApply _ | .contractDecide | .contractComplete _
  | .pinLineCopy _ _ | .pinDrainStart _ _ | .pinLineWriteback _ _ | .pinLineWritten _ _ | .stpartApply _ | .linkWindowEnd _
  | .linkWiden _ | .linkRenegotiationEnd _ | .hmapWrite _ _ | .hmapTakeEffect _ | .walkLevelRead _ | .kvCountTest _
  | .kvappPerform _ | .pageEvictDone _ _ | .pageInstallDone _ _ | .kvPageOp _ | .heatDecay | .girthPassage _ _ | .holdEnd _
  | .reservationExpire _ | .compareSignatures _ | .rollbackRestoreDone _ | .slceccWrite _ _ | .reencodeLine _
  | .sweepLine _ | .sweepForce _ | .sliceEvacuate _ | .evacLineMove _ | .hbmRowRepair _ | .slcinjWrite _ _ _
  | .yokeWindowEnd _ _ _ | .budgetIntervalStart _ | .clusterPortCharge _ | .energyCharge _ _ | .quotaRefill _
  | .eqcfgWrite _ _ | .feataccWrite _ | .creadWrite _ _ | .fqreadWrite _ _ | .registerWrite _ _ | .shootdown _ _ _
  | .faultResume _ _ | .faultSkip _ _ | .faultKill _ _ | .faultCancel _ _ _ _ | .repairSpareCore _ | .repairClusterDrain _
  | .repairClusterReturn _ | .repairSpareSlice _ | .repairHbmPageRetire _ | .resctr _ _ | .resend _ | .ctxend _
  | .commandUnknown _ | .commandComplete | .dbgResume | .dbgStep | .dbgKill | .dbgsel0Write _ | .dbgStateWrite _ _
  | .hostMemAccess _ _ _ _ | .linkRetrain _ | .firmwareUpdate _ _ | .spdmRequest _ _ | .packageReset | .swapRestoreDone _
  | .checkpointDone _ | .linkUp _ | .logReadIndexWrite _ _ _ => []

/-- Does the instruction stand where a clause header must stand? -/
def Instr.isHeader : Instr → Bool
  | .clauseHeader _ _ _ _ => true
  | _ => false

/-- The instruction the decoder reads from a word numbered as the opcode table numbers it: bits 31..0 are the first word,
bits 63..32 the extension word, zero where the row gives none. An opcode of 0xFF is read where a header must stand. -/
def decodeTableWord (nbits w : Nat) : Option Instr :=
  let v := w % 2 ^ nbits
  let w0 : Word := BitVec.ofNat 32 v
  let w1 : Word := BitVec.ofNat 32 (v / 2 ^ 32)
  match decode false (fop w0 == 0xFF) (bytesOfWord w0 ++ bytesOfWord w1) with
  | .ok i => some i
  | .error _ => none

end Sys2Proof
end

