-- ==== Sys2Proof/Machine/Fetch.lean ====
section
/-!
DEFINITION. Fetching an instruction (spec/09_encoding_rules.md R107 to R111; spec/13_isa_control.md R169), what a bundle
will issue next, and the placing of one instruction for the host (log 9).
-/
namespace Sys2Proof.Machine

/-- What the fetch at the issuing bundle's PC gives. -/
inductive Fetched where
  /-- The bundle waits for a walk, or has taken an exception. -/
  | wait (s : State)
  | instr (i : Instr) (s : State)
deriving DecidableEq, Repr

/-- The bundle that still issues goes back among the bundles. -/
def State.putBack (s : State) : State :=
  if s.sch.curOn then { s with sch := { s.sch with curOn := false, cur := Bundle.none } } |>.addBundles [s.sch.cur] else s

/-- A word of the code image for the issuing bundle (R169): translation with X, poison (R336). -/
inductive FetchWord where
  | ok (w : Word) (s : State)
  | miss (s : State)
  | trap (c : Trap) (va : Nat) (s : State)
deriving DecidableEq, Repr

/-- Fetch the word at a code address; the read fills nothing, and where the line stands in the arrays it is read there (log 39). -/
def State.fetchWord (s : State) (pc : Word) : FetchWord :=
  let b := s.sch.cur.blk
  let l := s.launchOf b
  let va := (l.codebase + pc.toNat) % 2 ^ 64
  match s.translate s.curCore l.ctx va with
  | (.miss, t) => .miss t
  | (.fault, t) => .trap .xlate va t
  | (.ok x, t) =>
    if !x.x then .trap .prot va t
    else
      let t := t.readLine (x.home va) (lineOf (x.phys va)) l.id
      if t.homeBad (x.home va) (x.phys va) 4 then .trap .eccunc va t else .ok (BitVec.ofNat 32 (bytesToNat (t.homeBytes (x.home va) (x.phys va) 4))) t

/-- Opcodes with an extension word (Table 9.11: F-L and F-M). -/
def hasExt (op : Nat) : Bool :=
  op == 0x53 || op == 0x56 || (0x5F ≤ op && op ≤ 0x64) || op == 0x67 || (0x75 ≤ op && op ≤ 0x83) || (0x85 ≤ op && op ≤ 0x95) ||
  (0x97 ≤ op && op ≤ 0x9B) || op == 0x9D || op == 0x9E || op == 0xA0 || op == 0xA3 || op == 0xA4 || (0xA6 ≤ op && op ≤ 0xAD)

/-- The exception of a fetch, at the instruction the word belongs to (R169). -/
def State.fetchTrap (s : State) (c : Trap) (va : Nat) : State := s.takeTrap { cls := c, va := va, lane := lowLane s.sch.cur.members }

/-- The decoded instruction, or ILLOP (R111, R128). -/
def decoded (r : Except DecodeError Instr) (s : State) : Fetched :=
  match r with
  | .ok i => .instr i s
  | .error _ => .wait (s.illop 1 false)

/-- The clause that the word after a code address belongs to (R109): that of the nearest header before the address which reaches that far. -/
def State.clauseAfter (s : State) (ctx codebase : Nat) (pc : Word) : Option Clause :=
  (List.range 15).findSome? fun i =>
    let va := codebase + pc.toNat - 4 * (i + 1)
    match (if pc.toNat < 4 * (i + 1) then none else s.walkNow ctx va) with
    | none => none
    | some x =>
      let w := BitVec.ofNat 32 (bytesToNat (s.homeBytes (x.home va) (x.phys va) 4))
      let len := bits w.toNat 0 4
      if fop w != 0xFF || len ≤ i then none
      else some (if len = i + 1 then none else some { seta := bits w.toNat 8 4, setb := bits w.toNat 4 4, left := len - (i + 1) })
  |>.join

/-- The word at a code address as a bundle of the block would fetch it, read ahead of its issue: nothing changes. -/
def State.peekWord (s : State) (b : Nat) (pc : Word) : Option Word :=
  let l := s.launchOf b
  let va := (l.codebase + pc.toNat) % 2 ^ 64
  (((s.tlbFind false (s.block b).core l.ctx va).map fun e => e.tr).orElse fun _ => s.walkNow l.ctx va).map fun x =>
    BitVec.ofNat 32 (bytesToNat (s.homeBytes (x.home va) (x.phys va) 4))

/-- The instruction at a code address inside a clause, ahead of its issue. -/
def State.peekBody (s : State) (b : Nat) (feed : Bool) (pc : Word) (left : Nat) : Option Instr :=
  (s.peekWord b pc).bind fun w =>
    let x := if hasExt (fop w).toNat && decide (2 ≤ left) then s.peekWord b (pc + 4) else none
    match decodeBody feed w x with
    | .ok i => some i
    | .error _ => none

/-- The instruction that a bundle at a code address issues next: behind a header, the clause's first (R109). -/
def State.peekInstr (s : State) (b : Nat) (feed : Bool) (pc : Word) : Option Clause → Option Instr
  | some c => s.peekBody b feed pc c.left
  | none => (s.peekWord b pc).bind fun w => match decodeHeader w with
    | .ok (.clauseHeader _ _ _ len) => s.peekBody b feed (pc + 4) len.toNat
    | _ => none

/-- Which lanes an instruction awaits (R23, R24, R228). -/
def awaitsOf : Instr → Bound
  | .vote _ _ m | .shfl _ _ _ _ m | .cred _ _ _ m | .cscan _ _ _ m | .matchEq _ _ _ m | .csync _ m => .members m
  | .mmab _ _ _ _ | .mmah _ _ _ _ | .mmai8 _ _ _ _ | .mmai84 _ _ _ _ | .mmai4 _ _ _ _ | .aclr _ | .aload _ _ _ | .astore _ _ _ _ |
    .arowmx _ _ _ | .aexpb _ _ _ _ | .ashift _ _ | .arowsm _ _ _ | .qpush _ _ | .qpop _ _ _ _ | .qstat _ _ | .kvapp _ _ _ | .kvhm _ _ _ _ |
    .assay _ _ _ _ => .whole
  | .cpyix _ m => if m.ixv = 1 then .whole else .none
  | _ => .none

/-- ILLOP at a word that had to be a header (R111). -/
def State.noHeader (s : State) : State :=
  let u := s.sch.cur
  let l := s.launchOf u.blk
  s.takeTrap { cls := .illop, lane := lowLane u.members, after := s.clauseAfter l.ctx l.codebase u.pc }

/-- Fetch and decode at the issuing bundle's PC: a header where a clause must start, else an instruction of the clause. -/
def fetchCur (s : State) : Fetched :=
  let u := s.sch.cur
  match s.fetchWord u.pc with
  | .miss t => .wait (t.park .again 0).putBack
  | .trap c va t => .wait (t.fetchTrap c va)
  | .ok w t =>
    match u.clause with
    | none => match decodeHeader w with
      | .ok i => .instr i t
      | .error _ => .wait t.noHeader
    | some c =>
      if hasExt (fop w).toNat && decide (2 ≤ c.left) then
        match t.fetchWord (u.pc + 4) with
        | .miss t2 => .wait (t2.park .again 0).putBack
        | .trap k va t2 => .wait (t2.fetchTrap k va)
        | .ok x t2 => decoded (decodeBody u.feed w (some x)) t2
      else decoded (decodeBody u.feed w none) t

/-! ## Placing one instruction (log 9) -/

/-- Record of the launch that runs the placed instruction: 1 block of 1 crew, 256 registers, 4 tiles, 64 KiB of scratchpad, all
windows declared; its words from word 31 down. -/
def probeRecord : BitVec 1024 :=
  BitVec.ofNat 1024 (([0, 0x02040204, 0x02040204, 0x20022002, 0x20022002, 0x20022002, 0x20022002, 0, 0, 0, 0, 0, 0, 0, 0, 0, 0, 0, 0, 0, 0, 0x408000,
    0x800018, 0x2010801, 1, 1, 1, 0, 0x100000, 0, 0, 1] : List Nat).foldl (fun n w => n * 2 ^ 32 + w) 0)

/-- Opcodes that only a feed thread issues (R239). -/
def feedOpcode (op : Nat) : Bool := op == 0xAA || op == 0xAF

/-- A state that issues the two words next, from a block placed on core 0. -/
def State.withWords (s : State) (w0 w1 : Word) : State :=
  let header := fop w0 == 0xFF
  let feed := feedOpcode (fop w0).toNat
  let page : Xlate := { ctx := 0, va := 0x100000, size := 15, pa := 0x100000, mtype := 0, ccls := 0, ilv := 0, sel := 0, r := true, w := true, x := true }
  let b : Block := { Block.none with id := 1, launch := 1, st := .running, feedDone := false }
  let l : Launch := { Launch.none with uid := 1, id := 1, record := probeRecord, st := .cleared, counter := 1, nextBlk := 1, segState := 1 }
  let u : Bundle := { blk := 1, feed := feed, pc := 0, clause := if header then none else some ⟨0, 0, 15⟩,
                      members := if feed then [] else (List.range 32).map fun i => ⟨i, 0⟩, wait := .ready, since := s.now, pass := false, adv := 0 }
  { s with
    sch := { s.sch with agenda := [], cur := u, curOn := true }
    pipe := { s.pipe with tlb := [{ cluster := false, unit := 0, tr := page, used := 0 }] }
    regs := s.regs.setCrew 1 0 { CrewSt.init with abnd := 128 }
    mem := s.mem.putBytes 0x100000 (bytesOfWord w0 ++ bytesOfWord w1)
    disp := { s.disp with blocks := [b], launches := [l], nextBlk := 2 }
    host := { s.host with featacc := 0xF, ctxs := mput .init s.host.ctxs 0 { CtxPage.init with live := true, privileged := true } } }

end Sys2Proof.Machine
end

