-- ==== Sys2Proof/Machine/Control.lean ====
section
/-!
DEFINITION. Control transfers, the shape of bundles, barriers' completion and the end of threads, opcodes 0x54 to 0x5E and the
clause header (spec/13_isa_control.md R168 to R179, R187 to R190; spec/09 R108, R109, R111; spec/01 R15 to R17, R21, R32).
-/
namespace Sys2Proof.Machine

/-! ## Targets (R169, R170) -/

/-- Fetch check of a code address (R169). -/
inductive CodeRes where
  | ok (s : State)
  | miss (s : State)
  | trap (c : Trap) (va : Nat) (s : State)
deriving DecidableEq, Repr

/-- Does the word at a code address translate, with X (R169)? -/
def State.codeCheck (s : State) (pc : Word) : CodeRes :=
  let l := s.launchOf s.sch.cur.blk
  let va := (l.codebase + pc.toNat) % 2 ^ 64
  match s.translate s.curCore l.ctx va with
  | (.miss, t) => .miss t
  | (.fault, t) => .trap .xlate va t
  | (.ok x, t) => if x.x then .ok t else .trap .prot va t

/-- Check targets of lanes in lane order, then act: ILLOP for bits [1:0], XLATE or PROT for the fetch (R169). -/
def State.withTargets (s : State) (act : State → State) : List (Nat × Word) → State
  | [] => act s
  | (lane, pc) :: rest =>
    if pc.toNat % 4 ≠ 0 then s.takeTrap { cls := .illop, lane := lane }
    else match s.codeCheck pc with
      | .miss t => t.park .again 0
      | .trap c va t => t.takeTrap { cls := c, va := va, lane := lane }
      | .ok t => t.withTargets act rest

/-- The threads that a transfer asks: the lanes whose guard is true, or the feed thread. -/
def State.voters (s : State) (g : Guard) : List Member := if s.sch.cur.feed then [⟨0, feedCrew⟩] else s.lanesOn g

/-- Move the taken threads to their targets (R21, R170): whole where all go to one, whole on where none is taken, else one part for
each distinct target and the not-taken part, each filed at its next PC. -/
def State.transfer (s : State) (words : Nat) (gos : List (Member × Word)) : State :=
  let u := s.sch.cur
  match gos with
  | [] => s.advance words
  | (_, pc) :: _ =>
    if (gos.all fun e => e.2 == pc) && (u.feed || gos.length == u.members.length) then
      s.setCur { u with pc := pc, clause := none, wait := .ready, since := s.now, pass := false, adv := 0, ahead := 0 }
    else
      let rest := u.members.filter fun m => !(gos.any fun e => e.1 == m)
      let next := u.step words s.now
      let t := (dedup (gos.map fun e => e.2)).foldl
        (fun t pc => t.filePart u pc none ((gos.filter fun e => e.2 == pc).map fun e => e.1)) s.dropCur
      t.filePart u next.pc next.clause rest

/-- A transfer of taken threads with their targets, all targets checked first. -/
def State.jump (s : State) (words : Nat) (gos : List (Member × Word)) : State :=
  s.withTargets (fun t => t.transfer words gos) (gos.map fun e => (e.1.lane, e.2))

/-- PC-relative target of a word offset. -/
def relTarget (pc : Word) (off : BitVec 14) : Word := pc + 4 * off.signExtend 32

/-- BRA (R171): every thread whose vote is true moves to PC + 4 × imm14; NOT inverts the vote. -/
def execBra (n : BitVec 1) (i : BitVec 14) (g : Guard) (s : State) : Host.Outcome State Fault Refusal :=
  issue (.bra n i g) { guard := g } s fun t =>
    let taken := t.sch.cur.members.filter fun m => t.guardOn g m != (n == 1)
    t.jump 1 (taken.map fun m => (m, relTarget t.sch.cur.pc i))

/-- BRAU (R172): one uniform predicate moves the whole bundle. -/
def execBrau (n : BitVec 1) (q : BitVec 2) (i : BitVec 14) (g : Guard) (s : State) : Host.Outcome State Fault Refusal :=
  issue (.brau n q i g) { bound := .crew, guard := g, feed := true, keys := [.q s.sch.cur.blk s.sch.cur.crew q.toNat] } s fun t =>
    let u := t.sch.cur
    if t.uniformOn g && (t.regs.qreg u.blk u.crew q.toNat != (n == 1)) then
      let pc := relTarget u.pc i
      t.withTargets (fun t => t.setCur { t.sch.cur with pc := pc, clause := none, wait := .ready, since := t.now, pass := false, adv := 0, ahead := 0 })
        [(lowLane u.members, pc)]
    else t.advance 1

/-- JMP (R173): PC + 4 × the literal. -/
def execJmp (g : Guard) (lit : Word) (s : State) : Host.Outcome State Fault Refusal :=
  issue (.jmp g lit) { words := 2, guard := g, feed := true } s fun t =>
    t.jump 2 ((t.voters g).map fun m => (m, t.sch.cur.pc + 4 * lit))

/-- JMPI (R173): each thread's own target. -/
def execJmpi (a : Field) (g : Guard) (s : State) : Host.Outcome State Fault Refusal :=
  issue (.jmpi a g) { guard := g, keys := s.aKeys a 1 } s fun t =>
    t.jump 1 ((t.lanesOn g).map fun m => (m, lo (t.regs.aval t.sch.cur.blk m a false)))

/-! ## Calls (R174 to R177) -/

/-- Depth limit of a thread: 4 + CALLDEPTH; 4 for a feed thread. -/
def State.depthLimit (s : State) : Nat := if s.sch.cur.feed then 4 else 4 + (s.launchOf s.sch.cur.blk).calldepth

/-- Address of the spill slot of the entry at depth j of a thread (R174). -/
def State.spillSlot (s : State) (m : Member) (j : Nat) : Nat :=
  let b := s.block s.sch.cur.blk
  let l := s.launchOf s.sch.cur.blk
  l.callbase + 4 * (l.calldepth * ((b.lin * l.crews + m.crew) * 32 + m.lane) + j)

/-- Return address: the first word after the calling clause (R111). -/
def Bundle.returnPc (u : Bundle) : Word := u.pc + BitVec.ofNat 32 (4 * ((u.clause.map fun c => c.left).getD 1))

/-- Push a return address; a full hardware stack has lost its oldest entry to the spill area. -/
def CallSt.push (x : CallSt) (pc : Word) : CallSt := { depth := x.depth + 1, hw := pc :: x.hw.take 3 }

/-- Push on the threads' call states. -/
def Regs.pushAll (r : Regs) (b : Nat) (ms : List Member) (pc : Word) : Regs :=
  ms.foldl (fun r m => r.setCall b m.crew m.lane ((r.callSt b m.crew m.lane).push pc)) r

/-- Policy of spill stores and refill loads: relaxed, block scope, L1 allocation (R174), class NORMAL (R377). -/
def spillPolicy : Word := 0x81000000

/-- CALL and CALLI of the taken threads (R175, R177): CALLOVF, the targets, the spills, then the transfer. -/
def State.callWith (s : State) (gos : List (Member × Word)) : State :=
  let b := s.sch.cur.blk
  let st := fun (m : Member) => s.regs.callSt b m.crew m.lane
  match gos.find? fun e => (st e.1).depth == s.depthLimit with
  | some e => s.takeTrap { cls := .trap, code := 128, lane := e.1.lane }
  | none =>
    s.withTargets (fun t =>
      let full := (gos.map fun e => e.1).filter fun m => (st m).hw.length == 4
      let go := fun (t : State) => (t.setRegs (t.regs.pushAll b (gos.map fun e => e.1) t.sch.cur.returnPc)).transfer 1 gos
      match t.checkLanes 4 1 { w := true } (full.map fun m => (m, t.spillSlot m ((st m).depth - 4))) [] with
      | .trap i => t.takeTrap i
      | .miss t => t.park .crew 0
      | .ok t lanes _ =>
        if lanes.isEmpty then go t
        else
          let xs := lanes.map fun a => (⟨a, natToBytes 4 ((st a.m).hw.getLastD 0).toNat, fullMask⟩ : StoreAcc)
          s.storeAll t 1 0 false (fun _ => spillPolicy) xs go) (gos.map fun e => (e.1.lane, e.2))

/-- CALL (R175). -/
def execCall (i : BitVec 14) (g : Guard) (s : State) : Host.Outcome State Fault Refusal :=
  issue (.call i g) { guard := g, feed := true } s fun t => t.callWith ((t.voters g).map fun m => (m, relTarget t.sch.cur.pc i))

/-- CALLI (R175). -/
def execCalli (a : Field) (g : Guard) (s : State) : Host.Outcome State Fault Refusal :=
  issue (.calli a g) { guard := g, keys := s.aKeys a 1 } s fun t =>
    t.callWith ((t.lanesOn g).map fun m => (m, lo (t.regs.aval t.sch.cur.blk m a false)))

/-- Is an operation the refill loads of a RET bundle (R174)? -/
def Pend.refills (p : Pend) (u : Bundle) : Bool := p.plan == .refill && p.blk == u.blk && p.pc == u.pc && p.lanes.all fun l => u.members.contains ⟨l.lane, l.crew⟩

/-- Start the refill loads of a RET: relaxed loads of block scope, one pending operation for each crew (R174). -/
def State.startRefills (s : State) (lanes : List LaneAcc) : State :=
  let u := s.sch.cur
  (dedup (lanes.map fun a => a.m.crew)).foldl (fun t c =>
    let ls := lanes.filter fun a => a.m.crew == c
    (t.addPend { Pend.blank with
      blk := u.blk, crew := c, plan := .refill, lanes := s.laneLoads ls, parts := (ls.map fun a => a.parts.length).sum
      pc := u.pc }).loadParts s.pipe.nextId t.pipe.nextId (s.homeLines (fun _ => spillPolicy) lanes) (fun _ => spillPolicy) ls) s

/-- The RET of a bundle is over: so are its refill loads. -/
def State.dropRefills (s : State) (u : Bundle) : State := { s with pipe := { s.pipe with pends := s.pipe.pends.filter fun p => !p.refills u } }

/-- The bytes that a thread's refill load has brought. -/
def refilled (ps : List Pend) (m : Member) : Option Word :=
  ((ps.flatMap fun p => p.lanes).find? fun l => l.lane == m.lane && l.crew == m.crew).map fun l => BitVec.ofNat 32 (bytesToNat l.bytes)

/-- Pop the newest entry; a refilled entry is popped at once. -/
def CallSt.pop (x : CallSt) : CallSt := { depth := x.depth - 1, hw := x.hw.drop 1 }

/-- The transfer of a RET whose return addresses are at hand: the targets, then the pops (R176, R177). -/
def State.returnTo (s : State) (gos : List (Member × Word)) : State :=
  let b := s.sch.cur.blk
  s.withTargets (fun t =>
    let r := gos.foldl (fun r e => r.setCall b e.1.crew e.1.lane (r.callSt b e.1.crew e.1.lane).pop) t.regs
    (t.setRegs r).transfer 1 gos) (gos.map fun e => (e.1.lane, e.2))

/-- RET with the refill loads `ps`, all complete, of its threads whose hardware entries are gone. -/
def State.returnWith (s : State) (ps : List Pend) (ms : List Member) : State :=
  let u := s.sch.cur
  let top := fun (m : Member) => match (s.regs.callSt u.blk m.crew m.lane).hw with
    | pc :: _ => pc
    | [] => (refilled ps m).getD 0
  match ps.find? fun p => p.poisoned with
  | some p => (s.takeTrap { cls := .eccunc, lane := ((p.lanes.map fun l => l.lane).min?).getD 0 }).dropRefills u
  | none =>
    let t := s.returnTo (ms.map fun m => (m, top m))
    if t.retries then t else t.dropRefills u

/-- RET of the taken threads (R174, R176, R177): RETEMPTY; the refill loads, with the checks of Table 15.4; then the transfer. -/
def State.returnFrom (s : State) (ms : List Member) : State :=
  let u := s.sch.cur
  let st := fun (m : Member) => s.regs.callSt u.blk m.crew m.lane
  match ms.find? fun m => (st m).depth == 0 with
  | some m => s.takeTrap { cls := .trap, code := 129, lane := m.lane }
  | none =>
    let empty := ms.filter fun m => (st m).hw.isEmpty
    let ps := s.pipe.pends.filter fun p => p.refills u
    if empty.all fun m => (refilled ps m).isSome then (if ps.any fun p => p.parts != 0 then s.park .again 0 else s.returnWith ps ms)
    else match s.checkLanes 4 1 { r := true, l1 := u.crews } (empty.map fun m => (m, s.spillSlot m ((st m).depth - 1))) [] with
      | .trap i => s.takeTrap i
      | .miss t => t.park .crew 0
      | .ok t lanes _ => (if t.loadBlocked lanes then s else (t.dropRefills u).startRefills lanes).park .again 0

/-- RET (R176). -/
def execRet (g : Guard) (s : State) : Host.Outcome State Fault Refusal :=
  issue (.ret g) { guard := g, feed := true } s fun t => t.returnFrom (t.voters g)

/-! ## Shaping bundles (R178) -/

/-- REFORM (R178, R15 to R17): the threads are filed under its own PC; a drawn bundle passes it; without a bin it is a NOP. -/
def execReform (s : State) : Host.Outcome State Fault Refusal :=
  issue .reform {} s fun t =>
    let u := t.sch.cur
    if u.pass then t.advance 1
    else
      let t := t.refileHeld t.curCore t.curQtr
      match t.sch.file t.curCore t.curQtr u u.pc u.clause u.members t.now with
      | some h => { t with sch := { h with curOn := false, cur := Bundle.none } }
      | none => t.advance 1

/-- NOP (R178). -/
def execNop (s : State) : Host.Outcome State Fault Refusal := issue .nop { feed := true } s fun t => t.advance 1

/-- YIELD (R178): WAITING for the 8 cycles after its issue. -/
def execYieldI (s : State) : Host.Outcome State Fault Refusal :=
  issue .yieldI { feed := true } s fun t => t.park (.yielded (t.now + 8)) 1

/-! ## Barriers complete (R187 to R190) -/

/-- Live threads of a block. -/
def State.liveThreads (s : State) (b : Nat) : Nat :=
  ((List.range (s.launchOf b).crews).map fun c => (lanesIn (s.liveMask b c)).length).sum

/-- Threads of a block that wait as `p` says. -/
def State.waitingThreads (s : State) (b : Nat) (p : Wait → Bool) : Nat :=
  ((s.everyBundle.filter fun u => u.blk == b && !u.feed && p u.wait).map fun u => u.members.length).sum

/-- Blocks of a block's cluster group (R34). -/
def State.groupOf (s : State) (b : Nat) : List Nat :=
  let x := s.block b
  let n := (s.launchOf b).group
  (s.disp.blocks.filter fun y => y.launch == x.launch && y.primary == x.primary && y.lin / n == x.lin / n).map fun y => y.id

/-- Crews of a block. -/
def State.crewList (s : State) (b : Nat) : List Nat := List.range (s.launchOf b).crews

/-- Has every crew of a block made its release of a scope, and have its reads returned (R188, R90)? -/
def State.settled (s : State) (b scope : Nat) : Bool :=
  (s.crewList b).all fun c => !s.releaseWaits b c scope && !s.readsPending b c &&
    (scope < 4 || !(s.gi.ops.any fun g => g.blk == b && g.crew == c))

/-- Has a block nothing left to wait for at a barrier: complete, or all its live threads there? -/
def State.blockArrived (s : State) (b : Nat) (p : Wait → Bool) : Bool :=
  (s.block b).st == .complete || s.waitingThreads b p == s.liveThreads b

/-- A guarded block that has arrived at a barrier is at a comparison point (R343). -/
def State.noteArrivals (s : State) (bs : List Nat) (p : Wait → Bool) : State :=
  bs.foldl (fun s b => if s.guardedBlk b && s.blockArrived b p && 0 < s.waitingThreads b p && !s.mayGo b 33 then s.arriveAt b 33 else s) s

/-- A barrier of an ID and scope completes (R187, R188): every live thread of its blocks waits at it and the release is performed. -/
def State.barReady (s : State) (bs : List Nat) (id : Nat) (cl : Bool) : Bool :=
  let p := fun w => w == Wait.bar id cl none
  (bs.all fun b => s.blockArrived b p && (s.settled b (if cl then 2 else 1) || s.waitingThreads b p == 0) &&
    (!s.guardedBlk b || s.mayGo b 33 || s.waitingThreads b p == 0)) && (bs.any fun b => 0 < s.waitingThreads b p)

/-- Test a barrier, and complete it: its threads resume 6 or 40 cycles later (R187), after the acquire of its scope (R188). -/
def State.barCheck (s : State) (b id : Nat) (cl : Bool) : State :=
  let bs := if cl then s.groupOf b else [b]
  let p := fun w => w == Wait.bar id cl none
  let s := s.noteArrivals bs p
  if s.barReady bs id cl then
    let here := bs.filter fun b => 0 < s.waitingThreads b p
    let t := here.foldl (fun t b => (t.usedGo b 33).acquire b (if cl then 2 else 1)) s
    t.mapBundles fun u => if bs.contains u.blk && !u.feed && p u.wait then { u with wait := .bar id cl (some (s.now + if cl then 40 else 6)) } else u
  else s

/-- Test every barrier that a thread of the block's group waits at. -/
def State.checkBars (s : State) (b : Nat) : State :=
  let g := s.groupOf b
  let at' := fun (u : Bundle) => match u.wait with
    | .bar id cl none => if g.contains u.blk && (cl || u.blk == b) then some (id, cl) else none
    | _ => none
  (dedup (s.everyBundle.filterMap at')).foldl (fun s e => s.barCheck b e.1 e.2) s

/-- Clusters of blocks in the order of an LBAR's release (R190): ascending from (g × 5) mod 48, wrapping. -/
def lbarOrderOf (g : Nat) (clusters : List Nat) : List Nat := sortBy (fun c => (c + 48 - g * 5 % 48) % 48) (dedup clusters)

/-- Is a block on its core? -/
def BlkState.resident : BlkState → Bool
  | .placed | .running | .draining | .saving | .stopping => true
  | .swapped | .restoring | .complete => false

/-- Does a block stand at an LBAR: all its live threads wait there, or it is released and not resumed yet? -/
def State.atLbar (s : State) (b : Nat) : Bool :=
  (s.blockArrived b (fun w => w == Wait.lbar false) && 0 < s.waitingThreads b fun w => w == Wait.lbar false) ||
    s.sch.bundles.any fun u => u.blk == b && !u.feed && u.wait == .lbar true

/-- The arrivals that are complete, each in the order in which it became so: by an LBAR, or by an EXIT (R189, R190). -/
def State.noteLbar (s : State) (l : Nat) : State :=
  let x := s.launch l
  let here := (s.liveBlocks l).filter s.atLbar
  s.setLaunch { x with lbarCame := (x.lbarCame.filter here.contains) ++ here.filter fun b => !x.lbarCame.contains b }

/-- The launch barrier completes (R189): every block of the launch has arrived or completed. -/
def State.lbarCheck (s : State) (u : Nat) : State :=
  let bs := s.liveBlocks u
  let p := fun w => w == Wait.lbar false
  let s := (s.noteLbar u).noteArrivals bs p
  let l := s.launch u
  let here := bs.filter fun b => 0 < s.waitingThreads b p
  if l.nextBlk == l.total && !here.isEmpty && (bs.all fun b => s.blockArrived b p) &&
      (here.all fun b => s.settled b 4 && (!s.guardedBlk b || s.mayGo b 33)) then
    let t := here.foldl (fun t b => t.usedGo b 33) s
    let t := t.mapBundles fun x => if here.contains x.blk && !x.feed && p x.wait then { x with wait := .lbar true } else x
    let cs := (here.filter fun b => (s.block b).st.resident).map fun b => coreCluster (s.block b).core
    t.setLaunch { l with lbars := l.lbars + 1, lbarOrder := lbarOrderOf l.lbars cs }
  else s

/-! ## Threads end (R179, R10, R32) -/

/-- Threads that wait filed or held at a crew-bound instruction take a member fault (R24, R179). -/
def State.trapOthers (s : State) (r : ArriveRec) (cls : Trap) : State :=
  let ms := laneSort (s.arrivedElsewhere r.blk r.crew r.pc)
  if ms.isEmpty then s
  else
    let u : Bundle := { blk := r.blk, feed := false, pc := r.pc, clause := r.clause, members := ms, wait := .ready, since := s.now,
                        pass := false, adv := 0 }
    let h := s.sch.withdraw r.blk r.crew r.pc
    let at' := if cls = .maskself then ms.filter fun m => !r.mask.getLsbD m.lane else ms
    let t := State.takeTrap { s with sch := { h with cur := u, curOn := true, arrs := h.arrs.erase r } } { cls := cls, lane := lowLane at', words := r.words }
    { t with sch := { t.sch with cur := s.sch.cur, curOn := s.sch.curOn } }

/-- Crews of a block with threads on file under a PC at a crew-bound instruction that they have not reached yet, as arrivals (R24). -/
def State.filedArrivals (s : State) (b : Nat) (n : Bin) : List ArriveRec :=
  let es := n.entries.filter fun e => e.clause.isSome
  let cl := (es.head?).bind fun e => e.clause
  let cs := (dedup (es.map fun e => e.slot * 4 + n.qtr)).filter fun c => !(s.sch.arrs.any fun r => r.blk == b && r.crew == c && r.pc == n.pc)
  match (if es.isEmpty then none else s.peekInstr b false n.pc cl).map fun i => (awaitsOf i, (encode i).length) with
  | some (.whole, w) => cs.map fun c => ⟨b, c, n.pc, cl, 0xFFFFFFFF, true, w⟩
  | some (.members m, w) => cs.map fun c => ⟨b, c, n.pc, cl, if m.some = 1 then s.regs.kreg b c m.mkReg.toNat else 0xFFFFFFFF, false, w⟩
  | _ => []

/-- Member faults that the exit of threads makes (R24): of threads that wait filed or held at a crew-bound instruction. Where a named lane exits, MASKSELF of an
arrived thread that the mask does not name is tested before MEMBER (Table 1.2). -/
def State.exitFaults (s : State) (b : Nat) (out : List Member) : State :=
  (s.sch.arrs ++ (s.sch.bins.filter fun n => n.blk == b).flatMap (s.filedArrivals b)).foldl (fun s r =>
    let mine := out.filter fun m => m.crew == r.crew
    if r.blk != b || mine.isEmpty then s
    else if r.whole then s.trapOthers r .partialCrew
    else if mine.any fun m => r.mask.getLsbD m.lane then
      s.trapOthers r (if (s.arrivedElsewhere r.blk r.crew r.pc).any fun m => !r.mask.getLsbD m.lane then .maskself else .member)
    else s) s

/-- Does nothing keep the block from completing (R10)? -/
def State.blockOver (s : State) (b : Nat) : Bool :=
  let x := s.block b
  x.id != 0 && x.st != .complete && s.liveThreads b == 0 && x.feedDone && !(s.sp.engines.any fun e => e.blk == b)
/-- The block's completion becomes due in the cycle in which its last condition is met (R330). -/
def State.noteOver (s : State) (b : Nat) : State := if s.blockOver b then s.due [.blockComplete b] else s

/-- The feed thread of a block ends at its next instruction boundary (R32). -/
def State.stopFeed (s : State) (b : Nat) : State :=
  let t := { s with sch := { s.sch with bundles := s.sch.bundles.filter fun u => !(u.blk == b && u.feed) } }
  t.setBlock { t.block b with feedDone := true }

/-- LIVEMASK bits of threads clear. -/
def Regs.clearLive (r : Regs) (b : Nat) (out : List Member) : Regs :=
  out.foldl (fun r m => let x := r.crewSt b m.crew; r.setCrew b m.crew { x with live := x.live &&& ~~~(1#32 <<< m.lane) }) r

/-- When the last consumer of a quarter's operand queues has exited, the engine panels still to land there are discarded (R244). -/
def State.discardPanels (s : State) (b : Nat) : State :=
  let gone := fun (qtr : Nat) => (List.range (s.launchOf b).crews).all fun c => crewQtr c != qtr || s.liveMask b c == 0
  { s with sp := { s.sp with
    engines := s.sp.engines.map fun e => if e.blk == b then { e with panels := e.panels.filter fun p => !gone p.qtr } else e
    wins := s.sp.wins.map fun w => if w.blk == b && w.q < 8 && gone w.qtr then { w with entries := w.entries.filter fun e => e.landed } else w } }

/-- Threads of the issuing bundle exit (R179). Their pending results are discarded where they land (`State.wanted`). -/
def State.exitThreads (s : State) (out : List Member) : State :=
  let u := s.sch.cur
  if out.isEmpty then s.advance 1
  else
    let rest := u.members.filter fun m => !(out.contains m)
    let s := s.setRegs (s.regs.clearLive u.blk out)
    let s := if rest.isEmpty then s.dropCur else (s.setCur { u with members := rest }).advance 1
    let s := (s.exitFaults u.blk out).discardPanels u.blk
    let s := (s.checkBars u.blk).lbarCheck (s.block u.blk).launch
    let s := if s.liveThreads u.blk == 0 then s.stopFeed u.blk else s
    s.noteOver u.blk

/-- EXIT (R179). -/
def execExit (g : Guard) (s : State) : Host.Outcome State Fault Refusal :=
  issue (.exit g) { guard := g } s fun t => t.exitThreads (t.lanesOn g)

/-! ## The clause header (R108, R109) -/

/-- Flags of a crew or feed context that a WAIT field names and that are pending (R109). -/
def State.waitsOn (s : State) (wait : BitVec 12) : Bool :=
  let u := s.sch.cur
  u.crews.any fun c => (List.range 12).any fun i => wait.getLsbD i && s.flagPending u.blk c (i + 1)

/-- Flags of WAIT whose engines wrote memory: the start of the clause observes them (R100). -/
def State.observed (s : State) (wait : BitVec 12) : List (Nat × Nat × Nat) :=
  let u := s.sch.cur
  s.sch.joins.filter fun j => j.1 == u.blk && u.crews.contains j.2.1 && 1 ≤ j.2.2 && wait.getLsbD (j.2.2 - 1)

/-- The start of a clause that observes engine writes to memory acts as an acquire of device scope (R100, Table 7.3). -/
def State.observe (s : State) (wait : BitVec 12) : State :=
  let js := s.observed wait
  if js.isEmpty then s
  else State.acquire { s with sch := { s.sch with joins := s.sch.joins.filter fun j => !(js.contains j) } } s.sch.cur.blk 4

/-- A bundle of a cancelled or killed block stops at a header word, before issuing from it (R204). -/
def State.stopAtHeader (s : State) : State := s.dropCur.due [.cancelStop s.sch.cur.blk]

/-- A clause header (R108, R109): the threads wait while a flag of WAIT is pending; then the clause starts at the next word. -/
def execClauseHeader (wait : BitVec 12) (seta setb len : BitVec 4) (s : State) : Host.Outcome State Fault Refusal :=
  if formIllop (.clauseHeader wait seta setb len) then .next (s.illop 1 false)
  else if (s.block s.sch.cur.blk).st == .stopping then .next s.stopAtHeader
  else if s.waitsOn wait then .next (s.park (.flags wait) 0)
  else
    let t := s.observe wait
    .next (t.setCur { t.sch.cur with
      pc := t.sch.cur.pc + 4, clause := some ⟨seta.toNat, setb.toNat, len.toNat⟩, wait := .ready, pass := false, adv := 0 })

end Sys2Proof.Machine
end

