-- ==== Sys2Proof/Machine/Sync.lean ====
section
/-!
DEFINITION. Barriers, waits and fences, opcodes 0x65 to 0x6A (spec/13_isa_control.md R187 to R194; spec/07 R85 to R92, R102, R104).
-/
namespace Sys2Proof.Machine

/-- A release, FENCE, FENCEO or FENCER of the crews of the issuing bundle ends the merging of their entries (R87). -/
def State.cutEpochs (s : State) : State := s.sch.cur.crews.foldl (fun t c => t.nextEpoch s.sch.cur.blk c) s

/-- BAR (R187, R188): the threads are WAITING; the last awaited arrival completes the barrier. CLUSTER in a launch of group 1 is
ILLOP. -/
def execBar (scope : BitVec 1) (id : BitVec 4) (s : State) : Host.Outcome State Fault Refusal :=
  issue (.bar scope id) { bad := scope == 1 && (s.launchOf s.sch.cur.blk).group == 1 } s fun t =>
    (t.cutEpochs.park (.bar id.toNat (scope == 1) none) 1).barCheck t.sch.cur.blk id.toNat (scope == 1)

/-- LBAR (R189). -/
def execLbar (s : State) : Host.Outcome State Fault Refusal :=
  issue .lbar {} s fun t => (t.cutEpochs.park (.lbar false) 1).lbarCheck (t.block t.sch.cur.blk).launch

/-! ## WAITCMP (R191, R192) -/

/-- Are the policy words of the issuing crews invalid, or do they hold an order the instruction excludes (R89, R124)? -/
def State.polIllop (s : State) (m : MemMod) (noAcq noRel : Bool) : Bool :=
  s.sch.cur.crews.any fun c => let p := s.pol m c; polBad p || (noAcq && polAcq p) || (noRel && polRel p)

/-- Monitors of a WAITCMP, each with the read that it sends to its home slice (R192, R104). -/
def State.armMonitors (s : State) (id : Nat) (u : BitVec 1) (cond : BitVec 3) (b : Field) (m : MemMod) (lanes : List LaneAcc) : State :=
  lanes.foldl (fun t a =>
    match a.parts.head? with
    | none => t
    | some p =>
      let pol := t.pol m a.m.crew
      let r : Req := { id := 0, slice := p.home, core := t.curCore, ctx := t.ctxOf t.sch.cur.blk, pa := p.pa, pend := 0,
                       kind := .monitor id a.m.lane a.m.crew (memWidth m) false, tkeep := polKeep pol, tnorm := polNorm pol, ccls := p.tr.ccls,
                       ilv := p.tr.ilv, charged := false, heldTo := 0 }
      let x : Mon := { id := id, blk := t.sch.cur.blk, crew := a.m.crew, lane := a.m.lane, slice := p.home, pa := p.pa, wid := memWidth m,
                       cond := cond.toNat, unsigned := u == 1,
                       value := (t.regs.bval t.sch.cur.blk a.m .int64 b (m.wid == 3)).toNat % 2 ^ (8 * memWidth m),
                       armed := false, done := false, acq := if polAcq pol then polScope pol else 0, asked := true, req := some r }
      { t with pipe := { t.pipe with mons := t.pipe.mons ++ [x] } }.addReq r) s

/-- WAITCMP's lanes as element indices (R122). -/
def State.elemLanes (s : State) (a : Field) (g : Guard) : List (Member × Nat) :=
  (s.lanesOn g).map fun t => (t, (lo (s.regs.aval s.sch.cur.blk t a false)).toNat)

/-- What WAITCMP does once its lanes are checked. -/
def State.waitOn (s : State) (u : BitVec 1) (cond : BitVec 3) (b : Field) (m : MemMod) (lanes : List LaneAcc) : State :=
  if lanes.isEmpty then s.advance 2
  else
    let id := s.pipe.nextId
    ({ s with pipe := { s.pipe with nextId := id + 1 } }.armMonitors id u cond b m lanes).park (.monitor id) 2

/-- Record of a WAITCMP in the signature (R342): the VA, COND and the compare value of each lane of a crew. -/
def State.waitRecord (s : State) (cond : BitVec 3) (a b : Field) (g : Guard) (m : MemMod) (c : Nat) : List Byte :=
  let r := s.record s.sch.cur.blk m.recNo.toNat
  ((s.elemLanes a g).filter fun e => e.1.crew == c).flatMap fun e =>
    natToBytes 8 ((recBase r : Int) + recOffset r (memOff m) e.2).toNat ++ natToBytes 1 cond.toNat ++
      natToBytes 8 (s.regs.bval s.sch.cur.blk e.1 .int64 b (m.wid == 3)).toNat

/-- WAITCMP (R191, R192): a monitor for each lane; the bundle waits until every lane is satisfied. A commit point of guarded
launches. -/
def execWaitcmp (u : BitVec 1) (cond : BitVec 3) (a b : Field) (g : Guard) (m : MemMod) (s : State) : Host.Outcome State Fault Refusal :=
  issueCommit (.waitcmp u cond a b g m)
    { words := 2, guard := g, keys := s.aKeys a 1 ++ s.bKeys false b (regsOf (m.wid == 3)) ++ s.polKeys m.pol.toNat } s
    (fun t => t.crewRecords (t.waitRecord cond a b g m)) fun t =>
      if t.polIllop m false true then t.illop 2 false
      else
        match t.checkRecord (t.record t.sch.cur.blk m.recNo.toNat) (memOff m) (memWidth m) 2 { r := true } (t.elemLanes a g) with
        | .trap i => t.takeTrap i
        | .miss t => t.park .crew 0
        | .ok u' lanes _ => if u'.loadBlocked lanes then t.park .again 0 else u'.waitOn u cond b m lanes

/-! ## Fences (R90, R91, R102) -/

/-- Girth operations of a bundle's threads not yet performed (R102). -/
def State.girthPending (s : State) (u : Bundle) : Bool :=
  s.gi.ops.any fun g => g.blk == u.blk && u.among g.lanes

/-- The release part of a fence (R90, R193): later writes of its bundle's threads wait for what Table 7.1 names; `girth` says that later girth
operations do too (R102). -/
def State.releaseFence (s : State) (b c scope : Nat) (girth : Bool) : State :=
  let waits := if 2 ≤ scope then (s.pipe.pends.filter fun p => p.blk == b && p.crew == c && p.isWrite).map fun p => p.id else []
  let leave := ((s.pipe.sbuf.filter fun e => e.blk == b && e.crew == c && !e.left).map fun e => e.id) ++
    (s.grd.hold.filter fun h => h.blk == b && h.crew == c).map fun h => h.id
  let f : FenceRec := { blk := b, crew := c, scope := scope, waits := waits, leave := leave, girth := girth, ms := s.sch.cur.threads }
  { s with sch := { s.sch with fences := (s.sch.fences.filter s.fenceHolds) ++ [f] } }

/-- A fence of the issuing bundle: acquire (bit 0) and release (bit 1) parts. An acquire fence comes after the crew's earlier reads have
returned; one that orders girth operations waits for the crew's (R102). -/
def State.fence (s : State) (ord scope : Nat) (girth : Bool) : State :=
  let u := s.sch.cur
  let acq := ord % 2 == 1
  let rel := 2 ≤ ord
  if (acq && s.readsOf u) || (girth && s.girthPending u) then s.park .again 0
  else
    let s := if rel then u.crews.foldl (fun t c => t.releaseFence u.blk c scope girth) s else s
    let s := if acq then s.acquire u.blk scope else s
    s.cutEpochs.advance 1

/-- FENCE (R193, R90). -/
def execFence (ord : BitVec 2) (scope : BitVec 3) (s : State) : Host.Outcome State Fault Refusal :=
  issue (.fence ord scope) {} s fun t => t.fence ord.toNat scope.toNat (4 ≤ scope.toNat)

/-- GFENCE (R236, R102): an acquire-release FENCE of its scope that orders the crew's girth operations whatever the scope. As a girth instruction it
is a commit point of guarded launches (R343). -/
def execGfence (scope : BitVec 3) (s : State) : Host.Outcome State Fault Refusal :=
  issue (.gfence scope) { feat := some 0 } s fun t => t.atCommitBoth (fun t => t.crewRecords fun _ => natToBytes 1 0x96) fun t => t.fence 3 scope.toNat true

/-- FENCEO (R194, R91): it splits the merging of the crew's entries. -/
def execFenceo (s : State) : Host.Outcome State Fault Refusal := issue .fenceo {} s fun t => t.cutEpochs.advance 1

/-- Cores in an instance of a scope, for the core of a block, without those out of service (R91). -/
def State.coresIn (s : State) (core scope : Nat) : List Nat :=
  (List.range 384).filter fun k =>
    (scope == 4 || (scope == 3 && coreDie k == coreDie core) || (scope == 2 && coreCluster k == coreCluster core)) &&
    !(s.disp.retired.contains k)

/-- FENCER (R194, R91): the bundle waits while every core of the scope is drained and its L1 invalidated. -/
def execFencer (scope : BitVec 3) (s : State) : Host.Outcome State Fault Refusal :=
  issue (.fencer scope) {} s fun t =>
    let u := t.sch.cur
    let t := t.cutEpochs
    let f : Fencer := { id := t.pipe.nextId, blk := u.blk, crews := u.crews, scope := scope.toNat, cores := t.coresIn t.curCore scope.toNat }
    let t := { t with pipe := { t.pipe with nextId := t.pipe.nextId + 1 }, sch := { t.sch with fencers := t.sch.fencers ++ [f] } }
    t.park (.fencer f.id) 1

end Sys2Proof.Machine
end

