-- ==== Sys2Proof/Machine/Sfu.lean ====
section
/-!
DEFINITION. The special functions of the SFU (spec/03_arithmetic_rules.md R48, Table 3.4; spec/11_isa_compute.md R165). Each
function is computed as an exact or floored multiple of a small power of two, from which the two FP32 values that
bracket the exact result follow; which of the two is delivered is the free choice `Config.sfuPick` (log 5).
-/
namespace Sys2Proof.Machine

/-- Fixed-point precision of the series below, in bits. -/
def sfuBits : Nat := 240
/-- 1 in fixed point. -/
def fixOne : Nat := 2 ^ sfuBits
/-- ln 2 in fixed point, rounded down. -/
def fixLn2 : Nat := 1224685061431752149387114016819916847747660333428801675508466606222838698
/-- pi in fixed point, rounded down. -/
def fixPi : Nat := 5550713758724461735233077129787137796835226094488409880962709825408003150

/-- Product in fixed point. -/
def fixMul (x y : Nat) : Nat := x * y / fixOne

/-- Sum of `term × y^j / ((n+1)(n+2)…)`: the exponential series. -/
def expSeries : Nat → Nat → Nat → Nat → Nat
  | 0, _, _, _ => 0
  | k + 1, n, term, y => term + expSeries k (n + 1) (fixMul term y / (n + 1)) y

/-- 2^f for f in [0, 1), in fixed point. -/
def fixExp2 (f : Nat) : Nat := expSeries 70 0 fixOne (fixMul f fixLn2)

/-- Alternating series of sine and cosine with step 2: terms term, -term·y²/((n+1)(n+2)), … as positive and negative sums. -/
def trigSeries : Nat → Nat → Nat → Nat → Bool → Nat × Nat
  | 0, _, _, _, _ => (0, 0)
  | k + 1, n, term, yy, neg =>
    let (p, m) := trigSeries k (n + 2) (fixMul term yy / ((n + 1) * (n + 2))) yy (!neg)
    if neg then (p, m + term) else (p + term, m)

/-- sin y for y in [0, 1] in fixed point. -/
def fixSin (y : Nat) : Nat := let (p, m) := trigSeries 35 1 y (fixMul y y) false; p - m
/-- cos y for y in (0, 1] in fixed point; below 1. -/
def fixCos (y : Nat) : Nat := let (p, m) := trigSeries 35 0 fixOne (fixMul y y) false; min (p - m) (fixOne - 1)

/-- Sum of z^(2j+1)/(2j+1): the inverse hyperbolic tangent series. -/
def atanhSeries : Nat → Nat → Nat → Nat → Nat
  | 0, _, _, _ => 0
  | k + 1, n, pw, zz => pw / n + atanhSeries k (n + 2) (fixMul pw zz) zz

/-- Floor of the square root, bit by bit. -/
def isqrtGo (n : Nat) : Nat → Nat → Nat
  | 0, r => r
  | k + 1, r => isqrtGo n k (if (r + 2 ^ k) * (r + 2 ^ k) ≤ n then r + 2 ^ k else r)
/-- Floor of the square root. -/
def isqrt (n : Nat) : Nat := isqrtGo n (n.log2 / 2 + 1) 0

/-- One of the two values that bracket y × 2^e, where y is a floor and the exact value is above it (R48). -/
def faithful (fn : Nat) (x : Word) (env : FEnv) (neg : Bool) (y : Nat) (e : Int) : Nat × FFlags :=
  fp32.flushOut env (fp32.round (if Config.sfuPick fn x then .away else .rtz) neg (2 * y + 1) (e - 1))

/-- The same where y × 2^e may be the exact result: it is delivered when it is representable, and else one of the two values that bracket it; RM is
ignored (R48). -/
def faithfulOr (exact : Bool) (fn : Nat) (x : Word) (env : FEnv) (neg : Bool) (y : Nat) (e : Int) : Nat × FFlags :=
  if exact then fp32.flushOut env (fp32.round (if Config.sfuPick fn x then .away else .rtz) neg y e) else faithful fn x env neg y e

/-- The magnitude m × 2^e in fixed point; exact for every FP32 value below 2^sfuBits. -/
def toFix (m : Nat) (e : Int) : Nat := m * 2 ^ (e + (sfuBits : Int)).toNat

/-- The shared frame of the SFU functions: flush, NaN sources, then the function on the value. -/
def sfuFrame (env : FEnv) (a : Word) (fn : FVal → Nat → Nat × FFlags) : Nat × FFlags :=
  let x := fp32.flushIn env a.toNat
  let v := fp32.value x
  match fp32.nanOf [v] with
  | some r => r
  | none => fn v x

/-- The canonical NaN with NV. -/
def sfuInvalid : Nat × FFlags := (fp32.qnan, flagNV)

/-- RCP: 1 / a. -/
def sfuRcp (env : FEnv) (a : Word) : Nat × FFlags :=
  sfuFrame env a fun v _ =>
    match v with
    | .fin n m e =>
      if m = 0 then (fp32.signed n fp32.infBits, flagDZ)
      else
        let y := 2 ^ 160 / m
        faithfulOr (y * m == 2 ^ 160) 0 a env n y (-160 - e)
    | .inf n => (fp32.signed n 0, 0)
    | .nan _ _ _ => sfuInvalid

/-- RSQ: 1 / √a. -/
def sfuRsq (env : FEnv) (a : Word) : Nat × FFlags :=
  sfuFrame env a fun v _ =>
    match v with
    | .fin n m e =>
      if m = 0 then (fp32.signed n fp32.infBits, flagDZ)
      else if n then sfuInvalid
      else
        let m := if e % 2 = 0 then m else 2 * m
        let e := if e % 2 = 0 then e else e - 1
        let y := isqrt (2 ^ 240 / m)
        faithfulOr (y * y * m == 2 ^ 240) 1 a env false y (-120 - e / 2)
    | .inf n => if n then sfuInvalid else (0, 0)
    | .nan _ _ _ => sfuInvalid

/-- SQRT: √a, rounded once under RM. -/
def sfuSqrt (env : FEnv) (a : Word) : Nat × FFlags :=
  sfuFrame env a fun v x =>
    match v with
    | .fin n m e =>
      if m = 0 then (x, 0)
      else if n then sfuInvalid
      else
        let m := if e % 2 = 0 then m else 2 * m
        let e := if e % 2 = 0 then e else e - 1
        let y := isqrt (m * 2 ^ 80)
        let sticky := if y * y = m * 2 ^ 80 then 0 else 1
        fp32.fop env false (2 * y + sticky) (e / 2 - 41)
    | .inf n => if n then sfuInvalid else (x, 0)
    | .nan _ _ _ => sfuInvalid

/-- EXP2: 2^a. Below the least subnormal the result is RNE of the exact value (Table 3.4). -/
def sfuExp2 (env : FEnv) (a : Word) : Nat × FFlags :=
  sfuFrame env a fun v _ =>
    match v with
    | .fin n m e =>
      if m = 0 then fp32.fop env false 1 0
      else if ltVals (.fin n m e) (.fin true 149 0) then
        fp32.flushOut env (if ltVals (.fin true 150 0) (.fin n m e) then 1 else 0, flagUF ||| flagNX)
      else if !(ltVals (.fin n m e) (.fin false 128 0)) then (fp32.infBits, flagOF ||| flagNX)
      else
        let x : Int := (if n then -1 else 1) * (toFix m e : Int)
        let k := x / (fixOne : Int)
        let f := (x % (fixOne : Int)).toNat
        if f = 0 then fp32.fop env false 1 k else faithful 2 a env false (fixExp2 f) (k - sfuBits)
    | .inf n => if n then (0, 0) else (fp32.infBits, 0)
    | .nan _ _ _ => sfuInvalid

/-- LOG2: log2 a. -/
def sfuLog2 (env : FEnv) (a : Word) : Nat × FFlags :=
  sfuFrame env a fun v _ =>
    match v with
    | .fin n m e =>
      if m = 0 then (fp32.signed true fp32.infBits, flagDZ)
      else if n then sfuInvalid
      else
        let l := m.log2
        let k := (l : Int) + e
        if m = 2 ^ l then fp32.ofInt env k
        else
          let z := (m - 2 ^ l) * fixOne / (m + 2 ^ l)
          let t : Int := k * (fixOne : Int) + (2 * atanhSeries 90 1 z (fixMul z z) * fixOne / fixLn2 : Nat)
          faithful 3 a env (decide (t < 0)) t.natAbs (-(sfuBits : Int))
    | .inf n => if n then sfuInvalid else (fp32.infBits, 0)
    | .nan _ _ _ => sfuInvalid

/-- sin(πr) for r in [0, 2) in fixed point: sign, magnitude, exact. -/
def sinTurn (r : Nat) : Bool × Nat × Bool :=
  let neg := decide (fixOne ≤ r)
  let r := r % fixOne
  let r := if fixOne < 2 * r then fixOne - r else r
  if r = 0 then (neg, 0, true)
  else if 2 * r = fixOne then (neg, fixOne, true)
  else if 4 * r ≤ fixOne then (neg, fixSin (fixMul r fixPi), false)
  else (neg, fixCos (fixMul (fixOne / 2 - r) fixPi), false)

/-- SINP: sin(πa). -/
def sfuSinp (env : FEnv) (a : Word) : Nat × FFlags :=
  sfuFrame env a fun v _ =>
    match v with
    | .fin n m e =>
      let (s, y, exact) := sinTurn (toFix m e % (2 * fixOne))
      if y = 0 then (fp32.signed n 0, 0) else faithfulOr exact 4 a env (n != s) y (-(sfuBits : Int))
    | _ => sfuInvalid

/-- COSP: cos(πa). -/
def sfuCosp (env : FEnv) (a : Word) : Nat × FFlags :=
  sfuFrame env a fun v _ =>
    match v with
    | .fin _ m e =>
      let (s, y, exact) := sinTurn ((toFix m e + fixOne / 2) % (2 * fixOne))
      if y = 0 then (0, 0) else faithfulOr exact 5 a env s y (-(sfuBits : Int))
    | _ => sfuInvalid

/-- TANH: tanh a. -/
def sfuTanh (env : FEnv) (a : Word) : Nat × FFlags :=
  sfuFrame env a fun v x =>
    match v with
    | .fin n m e =>
      if m = 0 then (x, 0)
      else if (m.log2 : Int) + e < -40 then faithful 6 a env n (m * 2 ^ 64 - 1) (e - 64)
      else if 7 ≤ (m.log2 : Int) + e then faithful 6 a env n (fixOne - 1) (-(sfuBits : Int))
      else
        let t := 2 * toFix m e * fixOne / fixLn2
        let u := fixOne * fixOne / fixExp2 (t % fixOne) / 2 ^ (t / fixOne)
        faithful 6 a env n (min ((fixOne - u) * fixOne / (fixOne + u)) (fixOne - 1)) (-(sfuBits : Int))
    | .inf n => fp32.fop env n 1 0
    | .nan _ _ _ => sfuInvalid

end Sys2Proof.Machine
end

