-- ==== Sys2Proof/Machine/Tile.lean ====
section
/-!
DEFINITION. Accumulator tiles and the matrix arithmetic (spec/03 R49 to R54; spec/09 R116; spec/17 Table 17.4).
-/
namespace Sys2Proof.Machine

/-- The matrix group's rounding: RNE, no flush (R51). -/
def mEnv : FEnv := ⟨.rne, false⟩
/-- The canonical NaN of FP32. -/
def mNan : Nat := 0x7FC00000

/-- Is an FP32 pattern a NaN? -/
def isNan32 (x : Nat) : Bool := (fp32.value x).isNan

/-- RNE sum of two FP32 values, every NaN canonical. -/
def mAdd (a b : Nat) : Nat := let r := (fp32.add mEnv a b).1; if isNan32 r then mNan else r

/-- PROMOTE (R51): the new FP32 value of an element; its partial is reset. -/
def promote (acc : Nat) (x : Partial) : Nat :=
  if x.nan || (x.pinf && x.ninf) || isNan32 acc then mNan
  else if x.pinf then (if acc = fp32.signed true fp32.infBits then mNan else fp32.infBits)
  else if x.ninf then (if acc = fp32.infBits then mNan else fp32.signed true fp32.infBits)
  else
    let v := match x.e with
      | some e => if x.p = 0 then 0 else (fp32.round .rne (decide (x.p < 0)) x.p.natAbs (e - 29)).1
      | none => 0
    mAdd acc v

/-! ## Tiles (R116) -/

/-- First cell of tile i of a crew. -/
def Regs.tileCell (r : Regs) (b c i : Nat) : Nat := (r.crewSt b c).abnd + 32 * i

/-- Does the tile exist (R116)? -/
def State.tileExists (s : State) (b c i : Nat) : Bool := i ≤ 15 && s.regs.tileCell b c i + 32 ≤ (s.launchOf b).regs

/-- Scoreboard keys of a tile's 32 cells. -/
def State.tileKeys (s : State) (i : Nat) : List RegKey :=
  let u := s.sch.cur
  (List.range 32).map fun j => .cell u.blk u.crew (s.regs.tileCell u.blk u.crew i + j)

/-- FP32 value of element (row, col) of the tile at a cell. -/
def Regs.elemAt (r : Regs) (b c cell row col : Nat) : Nat := (r.vcell b c (cell + col) row).toNat

/-- The rows of a tile after PROMOTE: 32 lists of 32 values. -/
def Regs.promoted (r : Regs) (b c cell : Nat) : List (List Nat) :=
  (List.range 32).map fun row => (List.range 32).map fun col => promote (r.elemAt b c cell row col) (r.part b c (cell + col) row)

/-- Register writes that store rows of values into a tile with reset partials. -/
def tileWr (c cell : Nat) (rows : List (List Nat)) : List RegWr :=
  ((List.range 32).zip rows).flatMap fun e => ((List.range 32).zip e.2).flatMap fun x =>
    [.cell c (cell + x.1) e.1 (BitVec.ofNat 32 x.2), .part c (cell + x.1) e.1 .reset]

/-- PROMOTE every element of the tile at a cell (R52). -/
def Regs.promoteTile (r : Regs) (b c cell : Nat) : Regs := r.applyAll b (tileWr c cell (r.promoted b c cell))

/-- PROMOTE every tile that exists (R119). -/
def State.promoteAll (s : State) (b c : Nat) : State :=
  s.setRegs (((List.range 16).filter (s.tileExists b c)).foldl (fun r i => r.promoteTile b c (s.regs.tileCell b c i)) s.regs)

/-! ## A k-step (R50) -/

/-- A nonzero finite product: sign, magnitude of its significand product, product exponent. -/
def product (f : Fmt) (x y : Nat) : Option (Bool × Nat × Int) :=
  match f.value x, f.value y with
  | .fin n1 m1 e1, .fin n2 m2 e2 => if m1 = 0 || m2 = 0 then none else some (n1 != n2, m1 * m2, e1 + e2 + 2 * (f.fb : Int) + 6)
  | _, _ => none

/-- Special marks that a product sets. -/
def special (f : Fmt) (p : Partial) (x y : Nat) : Partial :=
  let a := f.value x
  let b := f.value y
  if a.isNan || b.isNan || (a.isInf && b.isZero) || (a.isZero && b.isInf) then { p with nan := true }
  else if a.isInf || b.isInf then (if a.neg != b.neg then { p with ninf := true } else { p with pinf := true })
  else p

/-- One k-step on an element: its partial and FP32 value (R50). -/
def kstep (f : Fmt) (pcount : Nat) (xys : List (Nat × Nat)) (el : Partial × Nat) : Partial × Nat :=
  let p := xys.foldl (fun p e => special f p e.1 e.2) el.1
  let ts := xys.filterMap fun e => product f e.1 e.2
  let p := match ts.map (fun t => t.2.2) with
    | [] => p
    | e0 :: es =>
      let emax := es.foldl max e0
      let base := match p.e with
        | none => (p.p, emax)
        | some e => if e < emax then (p.p.tdiv (2 ^ (emax - e).toNat), emax) else (p.p, e)
      let shift := if f = bf16 then 9 else 3
      let sum := ts.foldl (fun (acc : Int) (t : Bool × Nat × Int) =>
        let w : Int := (t.2.1 * 2 ^ shift / 2 ^ (base.2 - t.2.2).toNat : Nat)
        if t.1 then acc - w else acc + w) base.1
      { p with p := sum, e := some base.2 }
  let p := { p with s := p.s + 1 }
  if pcount ≤ p.s then (.reset, promote el.2 p) else (p, el.2)

/-- Cut a list into pieces of n. -/
def pieces {α : Type} (n : Nat) : Nat → List α → List (List α)
  | 0, _ => []
  | k + 1, l => l.take n :: pieces n k (l.drop n)

/-- The four k-steps of an MMAB or MMAH on an element. -/
def mmaFp (f : Fmt) (pcount : Nat) (xs ys : List Nat) (el : Partial × Nat) : Partial × Nat :=
  (pieces 8 4 (xs.zip ys)).foldl (fun el xy => kstep f pcount xy el) el

/-! ## Grouped forms (R53, R54) -/

/-- One group: scales and zero points of both sides, codes of both sides. A sum of zero adds +0, also where one scale is a
zero and the other infinite (R53's last branch). Where the manual states no value (log 51), a scale product of zero adds +0, and zero times infinity gives
the canonical NaN for a sum that is not zero. -/
def groupStep (sa za sb zb : Nat) (as bs : List Nat) (acc : Nat) : Nat :=
  let t : Int := ((as.zip bs).map fun e => ((e.1 : Int) - za) * ((e.2 : Int) - zb)).foldl (· + ·) 0
  let x := fp16.value sa
  let y := fp16.value sb
  if x.isNan || y.isNan || isNan32 acc then mNan
  else match mulVals x y with
    | none => if t = 0 then mAdd acc 0 else mNan
    | some (.inf n) =>
      if t = 0 then mNan
      else
        let r := fp32.signed (n != decide (t < 0)) fp32.infBits
        if acc = fp32.signed (!(n != decide (t < 0))) fp32.infBits then mNan else r
    | some (.fin n m e) =>
      let v := if t = 0 || m = 0 then 0 else (fp32.round .rne (n != decide (t < 0)) (t.natAbs * m) e).1
      mAdd acc v
    | _ => mNan

/-- Scale and zero point of a scale word; an I4 side has a 4-bit zero point. -/
def scaleOf (w : Word) (i4 : Bool) : Nat × Nat := (bits w.toNat 0 16, bits w.toNat 16 (if i4 then 4 else 8))

/-- The groups of an instruction on an element, in ascending K. -/
def mmaGrp (g sel : Nat) (a4 b4 : Bool) (wa wb : Nat → Word) (xs ys : List Nat) (acc : Nat) : Nat :=
  let n := xs.length / g
  (((List.range n).zip ((pieces g n xs).zip (pieces g n ys)))).foldl (fun acc e =>
    let a := scaleOf (wa ((sel + e.1) % 4)) a4
    let b := scaleOf (wb ((sel + e.1) % 4)) b4
    groupStep a.1 a.2 b.1 b.2 e.2.1 e.2.2 acc) acc

/-! ## Panels (Table 17.4) -/

/-- Row r of a panel: 64 bytes. -/
def panelRow (data : List Byte) (r : Nat) : List Nat := ((data.drop (64 * r)).take 64).map fun b => b.toNat

/-- 16-bit elements of 64 bytes. -/
def elems16 : List Nat → List Nat
  | a :: b :: t => (a + 256 * b) :: elems16 t
  | _ => []
/-- I4 codes of 64 bytes: the even index in bits [3:0]. -/
def elems4 (l : List Nat) : List Nat := l.flatMap fun b => [b % 16, b / 16]

/-- Bytes of a panel from its 32 runs of 16-bit elements. -/
def panelOf16 (rows : List (List Nat)) : List Byte := rows.flatMap fun r => r.flatMap fun x => natToBytes 2 x

end Sys2Proof.Machine
end

