-- ==== Sys2Proof/Machine/Queue.lean ====
section
/-!
DEFINITION. Queue windows and QPUSH, QPOP, QSTAT (spec/17_isa_matrix.md R239 to R247).
-/
namespace Sys2Proof.Machine

/-! ## Windows (R241 to R244) -/

/-- Window q of a block in a quarter: empty where nothing has been reserved. -/
def State.win (s : State) (b qtr q : Nat) : Win :=
  (s.sp.wins.find? fun w => w.blk == b && w.qtr == qtr && w.q == q).getD { blk := b, qtr := qtr, q := q, entries := [], pushers := [] }

/-- Write a window; one that is empty and without pushers is not listed. -/
def State.setWin (s : State) (w : Win) : State :=
  let rest := s.sp.wins.filter fun x => !(x.blk == w.blk && x.qtr == w.qtr && x.q == w.q)
  { s with sp := { s.sp with wins := if w.entries.isEmpty && w.pushers.isEmpty then rest else rest ++ [w] } }

/-- Crews of a block in a quarter that have a live thread. -/
def State.crewsLive (s : State) (b qtr : Nat) : List Nat :=
  (List.range (s.launchOf b).crews).filter fun c => crewQtr c == qtr && s.liveMask b c != 0

/-- Is a producer bound to the window (Table 17.2)? -/
def State.producerBound (s : State) (b qtr q : Nat) : Bool :=
  if q < 8 then
    !(s.block b).feedDone || (s.sp.engines.any fun e => e.blk == b && e.panels.any fun p => p.qtr == qtr && p.q == q) ||
    ((s.win b qtr q).pushers.any fun c => (s.crewsLive b qtr).contains c)
  else !(s.crewsLive b qtr).isEmpty

/-- Is a consumer bound to the window (Table 17.2)? -/
def State.consumerBound (s : State) (b qtr q : Nat) : Bool := if q < 8 then !(s.crewsLive b qtr).isEmpty else !(s.block b).feedDone

/-- Depth and panel bytes of a window of a block. -/
def State.winDepth (s : State) (b q : Nat) : Nat := (s.launchOf b).depth q
/-- Panel bytes. -/
def State.winPanel (s : State) (b q : Nat) : Nat := (s.launchOf b).panel q

/-- What a pop of n entries finds (R244). -/
inductive Popped where
  | data (es : List QEntry)
  | wait
  /-- QUEUE. -/
  | stuck
deriving DecidableEq, Repr

/-- A pop or peek of the first n entries. -/
def State.popLook (s : State) (b qtr q n : Nat) : Popped :=
  let es := (s.win b qtr q).entries.take n
  if es.length == n && es.all fun e => e.landed then .data es
  else if s.producerBound b qtr q then .wait
  else .stuck

/-- Reserve the tail entry of a window for an engine's panel, if there is room (R242). -/
def State.reservePanel (s : State) (b : Nat) (p : Panel) : State × Panel :=
  let w := s.win b p.qtr p.q
  if p.entry.isSome || s.winDepth b p.q ≤ w.entries.length then (s, p)
  else
    let e : QEntry := { id := s.pipe.nextId, landed := false, data := [], bad := false }
    let t := s.setWin { w with entries := w.entries ++ [e] }
    ({ t with pipe := { t.pipe with nextId := t.pipe.nextId + 1 } }, { p with entry := some e.id })

/-- Reserve entries for an engine's panels in panel order. -/
def State.reserveFor (s : State) (b : Nat) : List Panel → State × List Panel
  | [] => (s, [])
  | p :: t =>
    let x := s.reservePanel b p
    let y := x.1.reserveFor b t
    (y.1, x.2 :: y.2)

/-- Reserve entries for the panels of every engine, engines in the order of their issue (R242): a full window holds them. -/
def State.reservePanels (s : State) : State :=
  s.sp.engines.foldl (fun t e =>
    let x := t.reserveFor e.blk e.panels
    { x.1 with sp := { x.1.sp with engines := x.1.sp.engines.map fun y => if y.id == e.id then { y with panels := x.2 } else y } }) s

/-- Take n entries from the head; waiting panels take the places. -/
def State.popTake (s : State) (b qtr q n : Nat) : State :=
  let w := s.win b qtr q
  (s.setWin { w with entries := w.entries.drop n }).reservePanels

/-- Reserve and land an entry at the tail, by a crew's push (R242). -/
def State.pushEntry (s : State) (b qtr q crew : Nat) (data : List Byte) (bad : Bool) : State :=
  let w := s.win b qtr q
  let e : QEntry := { id := s.pipe.nextId, landed := true, data := data, bad := bad }
  let t := s.setWin { w with entries := w.entries ++ [e], pushers := dedup (w.pushers ++ [crew]) }
  { t with pipe := { t.pipe with nextId := t.pipe.nextId + 1 } }

/-- QUEUE at the issuing instruction. -/
def State.queueTrap (s : State) (words : Nat) (bound : Bool) : State :=
  s.takeTrap { cls := .queue, lane := lowLane s.sch.cur.members, words := words, bound := bound }

/-- A push by the issuing crew into a window (R244): it waits while the window is full and a consumer is bound. -/
def State.pushTo (s : State) (words q : Nat) (act : State → State) : State :=
  let b := s.sch.cur.blk
  let qtr := s.curQtr
  if (s.win b qtr q).entries.length < s.winDepth b q then act s
  else if s.consumerBound b qtr q then s.park .again 0
  else s.queueTrap words true

/-! ## QPUSH, QPOP, QSTAT (R245 to R247) -/

/-- Bytes of an entry: lane i supplies 4m bytes (R245). -/
def State.entryBytes (s : State) (a : Field) (m : Nat) : List Byte :=
  (List.range 32).flatMap fun i =>
    let u := s.sch.cur
    let t : Member := ⟨i, u.crew⟩
    s.regs.groupBytes u.blk t (s.regs.cellOf u.blk u.crew a) (4 * m)

/-- Registers of a lane's share of a panel: none where the panel is not 128 × m bytes, m from 1 to 64, or the group does not fit. -/
def groupOfPanel (panel : Nat) (f : Field) : Option Nat :=
  let m := panel / 128
  if panel % 128 = 0 && 1 ≤ m && m ≤ 64 && f.num % m = 0 && f.num + m ≤ 64 then some m else none

/-- QPUSH's effect. -/
def State.qpush (s : State) (q : Nat) (a : Field) : State :=
  let b := s.sch.cur.blk
  let c := s.sch.cur.crew
  let panel := s.winPanel b q
  match (if s.winDepth b q = 0 then none else groupOfPanel panel a) with
  | none => s.queueTrap 2 true
  | some m =>
    s.withKeys (s.fieldKeys a false m) fun s =>
      if 8 ≤ q && s.releaseWaits b c 4 then s.park .again 0
      else s.pushTo 2 q fun t =>
        let t := if 8 ≤ q then t.nextEpoch b c else t
        (t.pushEntry b t.curQtr q c (t.entryBytes a m) false).advance 2

/-- QPUSH (R245). -/
def execQpush (d a : Field) (s : State) : Host.Outcome State Fault Refusal :=
  issue (.qpush d a) { words := 2, bound := .whole } s fun t => t.qpush d.toNat a

/-- Register writes of a popped entry: lane i's words of the entry to a group (R246). -/
def popWr (c cell m : Nat) (data : List Byte) : List RegWr :=
  (List.range 32).flatMap fun i => cellWrs ⟨i, c⟩ cell (loadWords (4 * m) false ((data.drop (4 * m * i)).take (4 * m)))

/-- QPOP, crew form. -/
def State.qpopCrew (s : State) (d : Field) (q : Nat) (m : QpopMod) : State :=
  let b := s.sch.cur.blk
  let c := s.sch.cur.crew
  match (if s.winDepth b q = 0 then none else groupOfPanel (s.winPanel b q) d) with
  | none => s.queueTrap 2 true
  | some n =>
    s.withKeys (s.fieldKeys d false n) fun s => match s.popLook b s.curQtr q 1 with
      | .wait => s.park .crew 0
      | .stuck => s.queueTrap 2 true
      | .data es =>
        if es.any fun e => e.bad then s.takeTrap { cls := .eccunc, words := 2 }
        else
          let data := (es.head?.map fun e => e.data).getD []
          let t := if m.peek = 1 then s else s.popTake b s.curQtr q 1
          (t.wrote (popWr c (s.regs.cellOf b c d) n data)).advance 2

/-- QPOP, feed form (R246): words of the entry to k-registers, and an acquire of device scope. -/
def State.qpopFeed (s : State) (d : Field) (q qtr : Nat) (m : QpopMod) : State :=
  let b := s.sch.cur.blk
  if s.winDepth b q = 0 then s.queueTrap 2 false
  else match s.popLook b qtr q 1 with
    | .wait => s.park .crew 0
    | .stuck => s.queueTrap 2 false
    | .data es =>
      if es.any fun e => e.bad then s.takeTrap { cls := .eccunc, words := 2 }
      else
        let data := (es.head?.map fun e => e.data).getD []
        let ws := loadWords 128 false data
        let t := if m.peek = 1 then s else s.popTake b qtr q 1
        let t := t.acquire b 4
        (t.wrote (kWrs feedCrew d.num (ws.take (m.cnt.toNat + 1)))).advance 2

/-- What makes a QPOP ILLOP in the issuer (R239, R246): a crew's back queue, b or CNT, or k-range d; a feed thread's operand queue, vector
d, quarter above 3, or words past k63. -/
def qpopBad (feed : Bool) (d a b : Field) (m : QpopMod) : Bool :=
  if feed then a.toNat < 8 || !d.isK || 3 < b.toNat || 63 < d.num + m.cnt.toNat
  else 8 ≤ a.toNat || d.isK || b != 0 || m.cnt != 0

/-- QPOP (R246). -/
def execQpop (d a b : Field) (m : QpopMod) (s : State) : Host.Outcome State Fault Refusal :=
  let feed := s.sch.cur.feed
  issue (.qpop d a b m)
    { words := 2, bound := .whole, feed := true, bad := qpopBad feed d a b m,
      keys := if feed then s.fieldKeys d true (m.cnt.toNat + 1) else [] } s fun t =>
    if feed then t.qpopFeed d a.toNat b.toNat m else t.qpopCrew d a.toNat m

/-- State of a window as QSTAT gives it (Table 17.3). -/
def State.qstat (s : State) (b qtr q : Nat) : Word :=
  let es := (s.win b qtr q).entries
  let ready := (es.takeWhile fun e => e.landed).length
  let rsvd := (es.filter fun e => !e.landed).length
  BitVec.ofNat 32 ((if s.producerBound b qtr q then 2 ^ 31 else 0) + (if s.consumerBound b qtr q then 2 ^ 30 else 0) +
    s.winDepth b q * 2 ^ 16 + rsvd * 2 ^ 8 + ready)

/-- QSTAT of a crew (R247): a window of its own quarter. -/
def execQstat (d : BitVec 6) (a : Field) (s : State) : Host.Outcome State Fault Refusal :=
  issue (.qstat d a) { bound := .whole, keys := [.k s.sch.cur.blk s.sch.cur.crew d.toNat] } s fun t =>
    (t.wrote [.k t.sch.cur.crew d.toNat (t.qstat t.sch.cur.blk t.curQtr a.toNat)]).advance 1

/-- QSTAT of a feed thread (R247): any window of any quarter. -/
def execQstatFeed (d : BitVec 6) (a b : Field) (s : State) : Host.Outcome State Fault Refusal :=
  issue (.qstatFeed d a b) { feed := true, feedOnly := true, keys := [.k s.sch.cur.blk feedCrew d.toNat] } s fun t =>
    (t.wrote [.k feedCrew d.toNat (t.qstat t.sch.cur.blk b.toNat a.toNat)]).advance 1

end Sys2Proof.Machine
end

