-- ==== Sys2Proof/Machine/Matrix.lean ====
section
/-!
DEFINITION. The matrix group, opcodes 0x97 to 0xA2 (spec/17_isa_matrix.md R248 to R262; spec/03 R49 to R54). No instruction of the
group reads CFPM or sets CFPS (R252).
-/
namespace Sys2Proof.Machine

/-! ## MMA (R249, R250) -/

/-- Is the queue field an operand window with a 2,048-byte panel (R249)? -/
def State.panelQueue (s : State) (q : Nat) : Bool :=
  q < 8 && s.winDepth s.sch.cur.blk q != 0 && s.winPanel s.sch.cur.blk q == 2048

/-- What an MMA does to the element (row, column) of its tile: panels of A and B in, partial and value from before. -/
abbrev ElemFn := List (List Byte) → List Byte → Nat → Nat → Partial × Nat → Partial × Nat

/-- Rows that an MMA works on (R250): min(k[VC], 32) where VC is given. -/
def State.mmaRows (s : State) (m : MmaMod) : Nat :=
  if m.vce = 1 then min (s.regs.kreg s.sch.cur.blk s.sch.cur.crew m.vc.toNat).toNat 32 else 32

/-- Register writes of an MMA on the tile at a cell: rows below n. -/
def State.mmaWr (s : State) (cell n : Nat) (f : Nat → Nat → Partial × Nat → Partial × Nat) : List RegWr :=
  let b := s.sch.cur.blk
  let c := s.sch.cur.crew
  (List.range n).flatMap fun i => (List.range 32).flatMap fun j =>
    let x := f i j (s.regs.part b c (cell + j) i, s.regs.elemAt b c cell i j)
    [.cell c (cell + j) i (BitVec.ofNat 32 x.2), .part c (cell + j) i x.1]

/-- An MMA that needs `na` panels of A: it waits for its queues, pops what it does not keep, and its tile is pending. -/
def State.mma (s : State) (d a b : Nat) (m : MmaMod) (na : Nat) (f : ElemFn) : State :=
  let k := s.sch.cur.blk
  let c := s.sch.cur.crew
  if !(s.panelQueue a && s.panelQueue b) then s.queueTrap 2 true
  else match s.popLook k s.curQtr a na, s.popLook k s.curQtr b 1 with
    | .stuck, _ | _, .stuck => s.queueTrap 2 true
    | .wait, _ | _, .wait => s.park .crew 0
    | .data as, .data bs =>
      if (as ++ bs).any fun e => e.bad then s.takeTrap { cls := .eccunc, words := 2 }
      else
        let t := if m.ka = 1 then s else s.popTake k s.curQtr a na
        let t := if m.kb = 1 then t else t.popTake k s.curQtr b 1
        let pb := (bs.head?.map fun e => e.data).getD []
        let outs := s.mmaWr (s.regs.tileCell k c d) (s.mmaRows m) (f (as.map fun e => e.data) pb)
        (t.addPend { Pend.blank with blk := k, crew := c, flag := s.seta, regs := s.tileKeys d, outs := outs, pc := s.sch.cur.pc,
                                     matrix := true }).advance 2

/-- Group size of the grouped forms (Table 17.5). -/
def groupSize (m : MmaMod) : Nat := 32 * 2 ^ m.gs.toNat

/-- The scale registers, counted from sr, that the groups of a grouped form of depth k read (R54). -/
def scaleRegs (m : MmaMod) (k : Nat) : List Nat :=
  dedup ((List.range (k / groupSize m)).flatMap fun g => [(m.sel.toNat + g) % 4, 4 + (m.sel.toNat + g) % 4])

/-- Issue of an MMA; k is the depth of a grouped form, 0 of MMAB and MMAH. -/
def mmaIssue (d : Field) (m : MmaMod) (k : Nat) (feat : Option Nat) (s : State) : Issue :=
  let u := s.sch.cur
  { words := 2, bound := .whole, feat := feat, bad := !s.tileExists u.blk u.crew d.toNat,
    keys := s.tileKeys d.toNat ++ (if m.vce = 1 then [.k u.blk u.crew m.vc.toNat] else []) ++
      (scaleRegs m k).map fun j => .cell u.blk u.crew ((s.regs.crewSt u.blk u.crew).wb + m.sr.toNat + j) }

/-- An element under MMAB and MMAH (R50). -/
def elemFp (f : Fmt) (m : MmaMod) : ElemFn := fun as b i j el =>
  mmaFp f (m.pm1.toNat + 1) (elems16 (panelRow (as.headD []) i)) (elems16 (panelRow b j)) el

/-- An element under a grouped form (R53, R54): the partial is left reset (log 14). -/
def State.elemGrp (s : State) (a4 b4 : Bool) (m : MmaMod) (xa : List (List Byte) → Nat → List Nat) (xb : List Byte → Nat → List Nat) : ElemFn :=
  fun as b i j el =>
    let k := s.sch.cur.blk
    let c := s.sch.cur.crew
    let sr := (s.regs.crewSt k c).wb + m.sr.toNat
    (.reset, mmaGrp (groupSize m) m.sel.toNat a4 b4 (fun g => s.regs.vcell k c (sr + g) i) (fun g => s.regs.vcell k c (sr + 4 + g) j)
      (xa as i) (xb b j) el.2)

/-- MMAB (R250). -/
def execMmab (d a b : Field) (m : MmaMod) (s : State) : Host.Outcome State Fault Refusal :=
  issue (.mmab d a b m) (mmaIssue d m 0 none s) s fun t => t.mma d.toNat a.toNat b.toNat m 1 (elemFp bf16 m)

/-- MMAH (R250). -/
def execMmah (d a b : Field) (m : MmaMod) (s : State) : Host.Outcome State Fault Refusal :=
  issue (.mmah d a b m) (mmaIssue d m 0 none s) s fun t => t.mma d.toNat a.toNat b.toNat m 1 (elemFp fp16 m)

/-- I8 codes of one panel. -/
def codes8 (as : List (List Byte)) (i : Nat) : List Nat := as.flatMap fun p => panelRow p i

/-- MMAI8 (R250, R53): K = 64. -/
def execMmai8 (d a b : Field) (m : MmaMod) (s : State) : Host.Outcome State Fault Refusal :=
  issue (.mmai8 d a b m) (mmaIssue d m 64 none s) s fun t =>
    t.mma d.toNat a.toNat b.toNat m 1 (t.elemGrp false false m codes8 panelRow)

/-- MMAI84 (R250, R53): K = 128, A as two I8 panels (R248). -/
def execMmai84 (d a b : Field) (m : MmaMod) (s : State) : Host.Outcome State Fault Refusal :=
  issue (.mmai84 d a b m) (mmaIssue d m 128 (some 3) s) s fun t =>
    t.mma d.toNat a.toNat b.toNat m 2 (t.elemGrp false true m codes8 fun p j => elems4 (panelRow p j))

/-- MMAI4 (R250, R53): K = 128. -/
def execMmai4 (d a b : Field) (m : MmaMod) (s : State) : Host.Outcome State Fault Refusal :=
  issue (.mmai4 d a b m) (mmaIssue d m 128 (some 3) s) s fun t =>
    t.mma d.toNat a.toNat b.toNat m 1
      (t.elemGrp true true m (fun as i => elems4 (panelRow (as.headD []) i)) fun p j => elems4 (panelRow p j))

/-! ## ACLR and ALOAD (R253, R254) -/

/-- Issue of an instruction on tile i. -/
def tileIssue (i : Nat) (words : Nat) (keys : List RegKey) (s : State) : Issue :=
  let u := s.sch.cur
  { words := words, bound := .whole, bad := !s.tileExists u.blk u.crew i, keys := s.tileKeys i ++ keys }

/-- First cell of tile i of the issuing crew. -/
def State.tileAt (s : State) (i : Nat) : Nat := s.regs.tileCell s.sch.cur.blk s.sch.cur.crew i
/-- The tile after PROMOTE (R252). -/
def State.tileRows (s : State) (i : Nat) : List (List Nat) := s.regs.promoted s.sch.cur.blk s.sch.cur.crew (s.tileAt i)
/-- The state with the elements of a tile replaced, partials reset. -/
def State.setTile (s : State) (i : Nat) (rows : List (List Nat)) : State := s.wrote (tileWr s.sch.cur.crew (s.tileAt i) rows)

/-- ACLR (R253). -/
def execAclr (d : Field) (s : State) : Host.Outcome State Fault Refusal :=
  issue (.aclr d) (tileIssue d.toNat 1 [] s) s fun t => (t.setTile d.toNat (List.replicate 32 (List.replicate 32 0))).advance 1

/-- An element of a format as FP32, every NaN canonical (R254). -/
def widen (fmt : Nat) (x : Nat) : Nat :=
  let y := match fmt with
    | 0 => x
    | 1 => x * 2 ^ 16
    | _ => (fp16.convert fp32 mEnv x).1
  if isNan32 y then mNan else y

/-- Element index of (row, column) under ROW and COL. -/
def rowCol (lay : Nat) (i j : Nat) : Nat := if lay = 0 then 32 * i + j else 32 * j + i

/-- ALOAD's effect. -/
def State.aload (s : State) (d : Nat) (ka : Nat) (m : AloadMod) : State :=
  let b := s.sch.cur.blk
  let c := s.sch.cur.crew
  let x := (s.regs.kreg b c ka).toNat
  let e := if m.fmt = 0 then 4 else 2
  if x % 64 ≠ 0 then s.takeTrap { cls := .misalign, va := x, lane := lowLane s.sch.cur.members, words := 2, bound := true }
  else if (s.launchOf b).scratch < x + 1024 * e then
    s.takeTrap { cls := .bounds, va := x, lane := lowLane s.sch.cur.members, words := 2, bound := true }
  else if s.lineAbsent b x (1024 * e) then s.park .again 0
  else
    let el := fun (i j : Nat) => widen m.fmt.toNat (bytesToNat (s.sp.read b (x + e * rowCol m.lay.toNat i j) e))
    let rows := (List.range 32).map fun i => (List.range 32).map fun j => el i j
    (s.addPend { Pend.blank with blk := b, crew := c, flag := s.seta, regs := s.tileKeys d, outs := tileWr c (s.tileAt d) rows,
                                 pc := s.sch.cur.pc, matrix := true, poisoned := s.spadBad b x (1024 * e) }).advance 2

/-- ALOAD (R254). -/
def execAload (d a : Field) (m : AloadMod) (s : State) : Host.Outcome State Fault Refusal :=
  issue (.aload d a m) (tileIssue d.toNat 2 [.k s.sch.cur.blk s.sch.cur.crew a.num] s) s fun t => t.aload d.toNat a.num m

/-! ## ASTORE (R255 to R258) -/

/-- RNE product, every NaN canonical. -/
def mMul (a b : Nat) : Nat := let r := (fp32.mul mEnv a b).1; if isNan32 r then mNan else r

/-- An element converted to a format code of Table 17.6 (R257). -/
def convElem (fmt : Nat) (f : Option Nat) (scale : Nat) (y : Nat) : Nat :=
  let y := match f with
    | some r => mMul y r
    | none => y
  match fmt with
  | 0 => if isNan32 y then mNan else y
  | 1 => if isNan32 y then bf16.qnan else (fp32.convert bf16 mEnv y).1
  | 2 => if isNan32 y then fp16.qnan else (fp32.convert fp16 mEnv y).1
  | _ =>
    let t := mMul y scale
    if isNan32 t then 0x80 else ((fp32.toInteger mEnv .rne (-128) 127 t).1 + 128).toNat

/-- Bytes of an element in a format code. -/
def fmtBytes (fmt : Nat) : Nat := match fmt with
  | 0 => 4
  | 1 | 2 => 2
  | _ => 1

/-- The factor of row r (Table 17.6, RF). -/
def State.rowFactor (s : State) (b : Field) (m : AstoreMod) (r : Nat) : Option Nat :=
  if m.rf = 1 then some (lo (s.regs.bval s.sch.cur.blk ⟨r, s.sch.cur.crew⟩ (.fp fp32) b false)).toNat else none

/-- The tile converted: rows of element patterns. -/
def State.astoreRows (s : State) (d b : Field) (m : AstoreMod) (fmt : Nat) : List (List Nat) :=
  let scale := (s.regs.kreg s.sch.cur.blk s.sch.cur.crew m.sc.toNat).toNat
  ((List.range 32).zip (s.tileRows d.toNat)).map fun e => e.2.map fun y => convElem fmt (s.rowFactor b m e.1) scale y

/-- Offset of element (r, c) in a layout (Table 17.7). -/
def layOffset (lay e r c : Nat) : Nat := match lay with
  | 0 => e * (32 * r + c)
  | 1 => e * (32 * c + r)
  | 2 => e * (64 * (4 * (r / 8) + c / 8) + 8 * (r % 8) + c % 8)
  | _ => 64 * r + e * c

/-- The image of converted rows in a layout: offsets and bytes. An I8 panel's upper half holds 0x80. -/
def layImage (lay fmt : Nat) (rows : List (List Nat)) : List (Nat × Byte) :=
  let e := fmtBytes fmt
  (((List.range 32).zip rows).flatMap fun x => ((List.range 32).zip x.2).flatMap fun y =>
    ((List.range e).zip (natToBytes e y.2)).map fun z => (layOffset lay e x.1 y.1 + z.1, z.2)) ++
  (if lay = 3 && fmt = 3 then (List.range 32).flatMap fun r => (List.range 32).map fun j => (64 * r + 32 + j, (0x80 : Byte)) else [])

/-- Bytes that an image takes (Table 17.7). -/
def layBytes (lay fmt : Nat) : Nat := if lay = 3 then 2048 else 1024 * fmtBytes fmt

/-- A panel from an image. -/
def imagePanel (img : List (Nat × Byte)) : List Byte := (List.range 2048).map fun i => ((img.find? fun e => e.1 == i).map fun e => e.2).getD 0

/-- The state with a tile promoted (R252). -/
def State.promoteOne (s : State) (i : Nat) : State := s.setTile i (s.tileRows i)

/-- A pending operation of SETB kind that only times its flag. -/
def State.flagSetb (s : State) : State :=
  s.addPend { Pend.blank with blk := s.sch.cur.blk, crew := s.sch.cur.crew, flag := s.setb, seta := false, pc := s.sch.cur.pc, matrix := true }

/-- Operations from a number on are of the matrix group (R119). -/
def State.asMatrix (s : State) (from' : Nat) : State :=
  { s with pipe := { s.pipe with pends := s.pipe.pends.map fun p => if from' ≤ p.id then { p with matrix := true } else p } }

/-- ASTORE to scratchpad (R258). -/
def State.astoreSpad (s : State) (d a b : Field) (m : AstoreMod) : State :=
  let k := s.sch.cur.blk
  let x := (s.regs.kreg k s.sch.cur.crew a.num).toNat
  let n := layBytes m.lay.toNat m.fmt.toNat
  if x % 64 ≠ 0 then s.takeTrap { cls := .misalign, va := x, lane := lowLane s.sch.cur.members, words := 2, bound := true }
  else if (s.launchOf k).scratch < x + n then
    s.takeTrap { cls := .bounds, va := x, lane := lowLane s.sch.cur.members, words := 2, bound := true }
  else (((s.promoteOne d.toNat).spadWrite k x (layImage m.lay.toNat m.fmt.toNat (s.astoreRows d b m m.fmt.toNat))).flagSetb).advance 2

/-- ASTORE to a queue (R258). -/
def State.astoreQueue (s : State) (d a b : Field) (m : AstoreMod) : State :=
  if !s.panelQueue a.toNat then s.queueTrap 2 true
  else s.pushTo 2 a.toNat fun t =>
    (((t.promoteOne d.toNat).pushEntry t.sch.cur.blk t.curQtr a.toNat t.sch.cur.crew
      (imagePanel (layImage 3 m.fmt.toNat (s.astoreRows d b m m.fmt.toNat))) false).flagSetb).advance 2

/-- Conversion that a record's FMT fixes (R258): a format code of Table 17.6. -/
def recConv (fmt : Nat) : Option Nat := match fmt with
  | 0x0A => some 0
  | 0x09 => some 1
  | 0x08 => some 2
  | 0x0C => some 3
  | _ => none

/-- Offset of element (r, c) from BASE (R258). -/
def astoreOffset (r : BitVec 256) (lay ka row col : Nat) : Int :=
  let u := ka % recCount0 r
  let w := ka / recCount0 r
  if lay = 0 then ((u + col : Nat) : Int) * recStride0 r + ((w + row : Nat) : Int) * recStride1 r
  else ((u + row : Nat) : Int) * recStride0 r + ((w + col : Nat) : Int) * recStride1 r

/-- The memory modifier that ASTORE's REC and POL stand for. -/
def astoreModMem (m : AstoreMod) : MemMod := { recNo := m.recNo, pol := m.pol, wid := 0, off := 0 }

/-- Stores of the elements that passed the checks, lane by lane in ascending column (R258). -/
def astoreAccs (e : Nat) (es : List (Member × Nat × Nat)) (lanes : List LaneAcc) : List StoreAcc :=
  ((es.filter fun x => lanes.any fun a => a.m == x.1 && a.va == x.2.1).zip lanes).map fun x => ⟨x.2, natToBytes e x.1.2.2, fullMask⟩

/-- ASTORE to memory (R258). -/
def State.astoreMem (s : State) (d a b : Field) (m : AstoreMod) : State :=
  let k := s.sch.cur.blk
  let c := s.sch.cur.crew
  let r := s.record k m.recNo.toNat
  match (if recDims r = 2 then recConv (recFmt r) else none) with
  | none => s.illop 2 true
  | some fmt =>
    if (fmt != 3 && m.sc != 0) || s.polIllop (astoreModMem m) true false then s.illop 2 true
    else
      let ka := (s.regs.kreg k c a.num).toNat
      let es : List (Member × Int × Nat) := ((List.range 32).zip (s.astoreRows d b m fmt)).flatMap fun x =>
        ((List.range 32).zip x.2).map fun y => (⟨x.1, c⟩, astoreOffset r m.lay.toNat ka x.1 y.1, y.2)
      match s.checkOffsets r (fmtBytes fmt) 2 { store := true } (es.map fun e => (e.1, e.2.1)) with
      | .trap i => s.takeTrap { i with bound := true }
      | .miss t => t.park .crew 0
      | .ok t lanes _ =>
        let xs := astoreAccs (fmtBytes fmt) (es.map fun e => (e.1, ((recBase r : Int) + e.2.1).toNat, e.2.2)) lanes
        if xs.isEmpty then ((t.promoteOne d.toNat).flagSetb).advance 2
        else s.storeOut (t.promoteOne d.toNat) 2 (s.pol (astoreModMem m)) xs fun t => (t.asMatrix s.pipe.nextId).advance 2

/-- Keys of ASTORE's operands; SC is read where the elements become I8, to memory by the record's FMT (R257, R258). -/
def astoreKeys (a b : Field) (m : AstoreMod) (s : State) : List RegKey :=
  let u := s.sch.cur
  (if m.dst = 2 then [] else [.k u.blk u.crew a.num]) ++ (if m.rf = 1 then s.bKeys false b 1 else []) ++
    (if m.dst = 1 then s.polKeys m.pol.toNat else []) ++ 
    (if (if m.dst = 1 then (let r := s.record u.blk m.recNo.toNat; recDims r = 2 && recConv (recFmt r) == some 3) else m.fmt = 3) then [.k u.blk u.crew m.sc.toNat] else [])

/-- ASTORE (R255). -/
def execAstore (d a b : Field) (m : AstoreMod) (s : State) : Host.Outcome State Fault Refusal :=
  issue (.astore d a b m) (tileIssue d.toNat 2 (astoreKeys a b m s) s) s fun t =>
    if m.dst = 0 then t.astoreSpad d a b m
    else if m.dst = 1 then t.astoreMem d a b m
    else t.astoreQueue d a b m

/-! ## Row operations (R259 to R262) -/

/-- Maximum of a row under R46; none where every element is NaN. -/
def rowMax (xs : List Nat) : Option Nat :=
  match xs.filter fun x => !isNan32 x with
  | [] => none
  | x :: t => some (t.foldl (fun m y => (fp32.minmax mEnv true m y).1) x)

/-- The integer ceiling of a row maximum, saturated (R259). -/
def rowCeil (xs : List Nat) : Int :=
  match rowMax xs with
  | none => -(2 ^ 31)
  | some x => (fp32.toInteger mEnv .rtp (-(2 ^ 31)) (2 ^ 31 - 1) x).1

/-- Lanes of a crew. -/
def crewLanes (c : Nat) : List Member := (List.range 32).map fun i => ⟨i, c⟩

/-- AROWMX (R259). -/
def execArowmx (d a b : Field) (s : State) : Host.Outcome State Fault Refusal :=
  issue (.arowmx d a b) (tileIssue a.toNat 1 (s.fieldKeys d false 1 ++ s.bKeys false b 1) s) s fun t =>
    let k := t.sch.cur.blk
    let ws := (crewLanes t.sch.cur.crew).flatMap fun l =>
      let x : Int := (lo (t.regs.bval k l .int b false)).toInt
      let y := rowCeil ((t.tileRows a.toNat).getD l.lane [])
      t.regs.vwr k l d false ((wordOfInt (if y < x then x else y)).zeroExtend 64)
    ((t.promoteOne a.toNat).wrote ws).advance 1

/-- x − m for an FP32 x and an integer m, rounded once (R260). -/
def subInt (x : Nat) (m : Int) : Nat := (fp32.sumVals mEnv (fp32.value x) (.fin (decide (0 < m)) m.natAbs 0)).1

/-- The weight of an element: a BF16 pattern (R260). -/
def weight (x : Nat) (m : Int) : Nat :=
  if isNan32 x then bf16.qnan else (fp32.convert bf16 mEnv (sfuExp2 mEnv (BitVec.ofNat 32 (subInt x m))).1).1

/-- AEXPB's effect. -/
def State.aexpb (s : State) (d a b : Field) (push : Bool) : State :=
  let k := s.sch.cur.blk
  let c := s.sch.cur.crew
  let ws := ((List.range 32).zip (s.tileRows a.toNat)).map fun e =>
    e.2.map fun x => weight x (lo (s.regs.bval k ⟨e.1, c⟩ .int b false)).toInt
  let put := fun (t : State) => t.setTile a.toNat (ws.map fun r => r.map fun w => w * 2 ^ 16)
  if !push then (put s).advance 2
  else if !s.panelQueue d.toNat then s.queueTrap 2 true
  else s.pushTo 2 d.toNat fun t => ((put t).pushEntry k t.curQtr d.toNat c (panelOf16 ws) false).advance 2

/-- AEXPB (R260): two words. -/
def execAexpb (d a b : Field) (push : BitVec 1) (s : State) : Host.Outcome State Fault Refusal :=
  issue (.aexpb d a b push) (tileIssue a.toNat 2 (s.bKeys false b 1) s) s fun t => t.aexpb d a b (push == 1)

/-- x × 2^n, every NaN canonical (R261). -/
def scaleElem (x : Nat) (n : Int) : Nat := if isNan32 x then mNan else (fp32.scale mEnv x n).1

/-- ASHIFT (R261). -/
def execAshift (d b : Field) (s : State) : Host.Outcome State Fault Refusal :=
  issue (.ashift d b) (tileIssue d.toNat 1 (s.bKeys false b 1) s) s fun t =>
    let rows := ((List.range 32).zip (t.tileRows d.toNat)).map fun e =>
      e.2.map fun x => scaleElem x (-(lo (t.regs.bval t.sch.cur.blk ⟨e.1, t.sch.cur.crew⟩ .int b false)).toInt)
    (t.setTile d.toNat rows).advance 1

/-- AROWSM (R262). -/
def execArowsm (d a b : Field) (s : State) : Host.Outcome State Fault Refusal :=
  issue (.arowsm d a b) (tileIssue a.toNat 1 (s.fieldKeys d false 1 ++ s.bKeys false b 1) s) s fun t =>
    let k := t.sch.cur.blk
    let ws := (crewLanes t.sch.cur.crew).flatMap fun l =>
      let x := (lo (t.regs.bval k l (.fp fp32) b false)).toNat
      t.regs.vwr k l d false (BitVec.ofNat 64 (((t.tileRows a.toNat).getD l.lane []).foldl mAdd (if isNan32 x then mNan else x)))
    ((t.promoteOne a.toNat).wrote ws).advance 1

end Sys2Proof.Machine
end

