-- ==== Sys2Proof/Machine/Memory.lean ====
section
/-!
DEFINITION. Loads and stores, scratchpad and peer access, L1 maintenance, prefetch and records, opcodes 0x75 to 0x7F and 0x84 to 0x86
(spec/15_isa_memory.md R208 to R218, R222 to R224; spec/24 R329).
-/
namespace Sys2Proof.Machine

/-! ## What loads share (R209 to R213) -/

/-- SX of a load's option field (Table 15.2). -/
def optSx (b : Field) : Bool := b.getLsbD 3

/-- EP's writes (R209): `bad` lanes get true and the others false. -/
def epWr (ep : Nat) (lanes bad : List Member) : List RegWr :=
  if ep = 0 then [] else lanes.map fun m => .p m.crew m.lane ep (bad.contains m)

/-- EP's key. -/
def State.epKeys (s : State) (uniform : Bool) (ep : Nat) : List RegKey :=
  if ep = 0 then [] else s.predKeys uniform (if uniform then ep - 1 else ep)

/-- Zeros for lanes that were dropped out of bounds (Table 15.4 step 1). -/
def State.zeroWr (s : State) (f : Field) (w : Nat) (oob : List Member) : List RegWr :=
  oob.flatMap fun m => cellWrs m (s.regs.cellOf s.sch.cur.blk m.crew f) (List.replicate (groupLen w) 0)

/-- Scope of a policy's acquire, 0 for none; one of crew or block scope counts as 1, so that later accesses wait for it too (R89). -/
def acqOf (pol : Word) : Nat := if polAcq pol then max 1 (polScope pol) else 0
/-- Acquire of a crew's part of an access: none where it accesses nothing (R329). -/
def State.acqAt (s : State) (m : MemMod) (c : Nat) (empty : Bool) : Nat := if empty then 0 else acqOf (s.pol m c)

/-- After a load or atomic has started: an acquire makes its bundle wait for the result (R89), else the bundle goes on. -/
def State.afterRead (s : State) (first : Nat) (acq : Bool) (words : Nat) : State := if acq then s.park (.pend first) words else s.advance words

/-- Start a vector load of the lanes that passed the checks: one pending operation for each crew. -/
def State.startLoad (s : State) (d : Field) (w ep : Nat) (sx : Bool) (m : MemMod) (lanes : List LaneAcc) (oob : List Member) : State :=
  let u := s.sch.cur
  let home := s.homeLines (s.pol m) lanes
  let all := (lanes.map fun a => a.m) ++ oob
  let t := u.crews.foldl (fun t c =>
    let ls := lanes.filter fun a => a.m.crew == c
    let os := oob.filter fun x => x.crew == c
    let outs := s.zeroWr d w os ++ epWr ep (all.filter fun x => x.crew == c) os
    let cell := s.regs.cellOf u.blk c d
    let keys := (if ls.isEmpty && os.isEmpty then [] else (List.range (groupLen w)).map fun j => .cell u.blk c (cell + j)) ++
      (if ep = 0 || all.isEmpty then [] else [.p u.blk c ep])
    (t.addPend { Pend.blank with
      blk := u.blk, crew := c, flag := s.seta, regs := keys, outs := outs, plan := .vload cell m.wid.toNat sx, lanes := s.laneLoads ls
      parts := (ls.map fun a => a.parts.length).sum, isRead := true, pc := u.pc
      acq := s.acqAt m c ls.isEmpty }).loadParts s.pipe.nextId t.pipe.nextId home (s.pol m) ls) s
  t.afterRead s.pipe.nextId (lanes.any fun a => polAcq (s.pol m a.m.crew)) 2

/-- A record-based vector load. -/
def State.load (s : State) (d a b : Field) (g : Guard) (m : MemMod) (align : Bool) : State :=
  let w := memWidth m
  if s.polIllop m false true then s.illop 2 false
  else
    let ls := s.elemLanes a g
    match s.checkRecord (s.record s.sch.cur.blk m.recNo.toNat) (memOff m) w 2 { align := align, r := true, l1 := s.hitCrews (s.pol m) } ls with
    | .trap i => s.takeTrap i
    | .miss t => t.park .crew 0
    | .ok t lanes oob => if t.loadBlocked lanes then s.park .again 0 else t.startLoad d w (fieldEP b).toNat (optSx b) m lanes oob

/-- Issue of a vector-path access with a data group of w bytes. -/
def vecIssue (d a : Field) (n : Nat) (g : Guard) (m : MemMod) (more : List RegKey) (s : State) : Issue :=
  { words := 2, guard := g, keys := s.fieldKeys d false n ++ s.aKeys a 1 ++ s.polKeys m.pol.toNat ++ more }

/-- LD (R214). -/
def execLd (d a b : Field) (g : Guard) (m : MemMod) (s : State) : Host.Outcome State Fault Refusal :=
  issue (.ld d a b g m) (vecIssue d a (groupLen (memWidth m)) g m (s.epKeys false (fieldEP b).toNat) s) s fun t => t.load d a b g m true

/-- LDX (R214): the address need not be aligned. -/
def execLdx (d a b : Field) (g : Guard) (m : MemMod) (s : State) : Host.Outcome State Fault Refusal :=
  issue (.ldx d a b g m) (vecIssue d a (groupLen (memWidth m)) g m (s.epKeys false (fieldEP b).toNat) s) s fun t => t.load d a b g m false

/-! ## Uniform loads and stores -/

/-- The one access of a uniform instruction, for its lowest active lane: the member and the element index; none where its guard is
false. -/
def State.uniformElem (s : State) (a : Field) (g : Guard) : List (Member × Nat) :=
  if s.uniformOn g then
    let c := s.sch.cur.crew
    [(⟨lowLane s.sch.cur.members, c⟩, (s.regs.kreg s.sch.cur.blk c a.num).toNat)]
  else []

/-- Issue of a uniform-path access. -/
def uniIssue (d a : Field) (n : Nat) (g : Guard) (m : MemMod) (more : List RegKey) (s : State) : Issue :=
  { words := 2, bound := .crew, guard := g, keys := s.fieldKeys d true n ++ s.fieldKeys a true 1 ++ s.polKeys m.pol.toNat ++ more }

/-- EP's write on the uniform path. -/
def epWrK (c ep : Nat) (v : Bool) : List RegWr := if ep = 0 then [] else [.q c (ep - 1) v]

/-- LDK's effect. -/
def State.loadK (s : State) (d a b : Field) (g : Guard) (m : MemMod) : State :=
  let w := memWidth m
  let u := s.sch.cur
  let c := u.crew
  let ep := (fieldEP b).toNat
  if s.polIllop m false true then s.illop 2 false
  else
    let ls := s.uniformElem a g
    match s.checkRecord (s.record u.blk m.recNo.toNat) (memOff m) w 2 { r := true, l1 := s.hitCrews (s.pol m) } ls with
    | .trap i => s.takeTrap i
    | .miss t => t.park .crew 0
    | .ok t lanes oob =>
      if t.loadBlocked lanes then s.park .again 0
      else
        let outs := (if oob.isEmpty then [] else kWrs c d.num (List.replicate (groupLen w) 0)) ++ (if ls.isEmpty then [] else epWrK c ep (!oob.isEmpty))
        let keys := if ls.isEmpty then [] else t.fieldKeys d true (groupLen w) ++ t.epKeys true ep
        let t2 := (t.addPend { Pend.blank with
          blk := u.blk, crew := c, flag := s.seta, regs := keys, outs := outs, plan := .kload c d.num m.wid.toNat (optSx b)
          lanes := t.laneLoads lanes, parts := (lanes.map fun x => x.parts.length).sum, isRead := true, pc := u.pc
          acq := s.acqAt m c lanes.isEmpty }).loadParts t.pipe.nextId t.pipe.nextId (s.homeLines (s.pol m) lanes) (s.pol m) lanes
        t2.afterRead t.pipe.nextId (!lanes.isEmpty && polAcq (s.pol m c)) 2

/-- LDK (R214). -/
def execLdk (d a b : Field) (g : Guard) (m : MemMod) (s : State) : Host.Outcome State Fault Refusal :=
  issue (.ldk d a b g m) (uniIssue d a (groupLen (memWidth m)) g m (s.epKeys true (fieldEP b).toNat) s) s fun t => t.loadK d a b g m

/-- A store to memory of lanes given by element index; `data` gives a lane's bytes and the mask of those stored. Steps 3 and 6 of R211 look at all w bytes of a
lane, whatever STM's mask selects of them, by the model's choice (log 26). -/
def State.store (s : State) (ls : List (Member × Nat)) (m : MemMod) (align : Bool) (data : Member → List Byte × Nat) : State :=
  if s.polIllop m true false then s.illop 2 false
  else match s.checkRecord (s.record s.sch.cur.blk m.recNo.toNat) (memOff m) (memWidth m) 2 { align := align, store := true } ls with
    | .trap i => s.takeTrap i
    | .miss t => t.park .crew 0
    | .ok t lanes _ =>
      let xs := lanes.map fun a => (⟨a, (data a.m).1, (data a.m).2⟩ : StoreAcc)
      if xs.isEmpty then (t.beginStores s.setb false (s.pol m) []).advance 2
      else s.storeOut t 2 (s.pol m) xs fun t => t.advance 2

/-- Bytes of a lane's data group. -/
def State.groupData (s : State) (d : Field) (w : Nat) (x : Member) : List Byte :=
  s.regs.groupBytes s.sch.cur.blk x (s.regs.cellOf s.sch.cur.blk x.crew d) w

/-- ST (R214). -/
def execSt (d a : Field) (g : Guard) (m : MemMod) (s : State) : Host.Outcome State Fault Refusal :=
  issue (.st d a g m) (vecIssue d a (groupLen (memWidth m)) g m [] s) s fun t =>
    t.store (t.elemLanes a g) m true fun x => (t.groupData d (memWidth m) x, fullMask)

/-- STM (R214): the bytes that the mask in b selects, at any alignment. -/
def execStm (d a b : Field) (g : Guard) (m : MemMod) (s : State) : Host.Outcome State Fault Refusal :=
  issue (.stm d a b g m) (vecIssue d a (groupLen (memWidth m)) g m (s.bKeys false b 1) s) s fun t =>
    t.store (t.elemLanes a g) m false fun x =>
      (t.groupData d (memWidth m) x, (lo (t.regs.bval t.sch.cur.blk x .int b false)).toNat)

/-- STK (R214). -/
def execStk (d a : Field) (g : Guard) (m : MemMod) (s : State) : Host.Outcome State Fault Refusal :=
  issue (.stk d a g m) (uniIssue d a (groupLen (memWidth m)) g m [] s) s fun t =>
    t.store (t.uniformElem a g) m true fun x => (t.regs.kBytes t.sch.cur.blk x.crew d.num (memWidth m), fullMask)

/-! ## Scratchpad and peer access (R215 to R218) -/

/-- A lane's access to a scratchpad area: the block and the offset in it. -/
structure SpadAcc where
  m : Member
  blk : Nat
  x : Nat
deriving DecidableEq, Repr

/-- Outcome of the scratchpad checks. -/
inductive SpadRes where
  | trap (i : TrapInfo)
  /-- A member of the group is swapped out (R218). -/
  | wait
  | ok (l : List SpadAcc)
deriving DecidableEq, Repr

/-- MISALIGN, then BOUNDS, over lanes with their blocks and exact offsets (R215). -/
def State.spadCheck (s : State) (w : Nat) (ls : List (Member × Nat × Int)) : SpadRes :=
  let scratch : Int := (s.launchOf s.sch.cur.blk).scratch
  match ls.find? fun e => e.2.2 % (w : Int) != 0 with
  | some e => .trap { cls := .misalign, va := (BitVec.ofInt 64 e.2.2).toNat, lane := e.1.lane, words := 2 }
  | none => match ls.find? fun e => decide (e.2.2 < 0) || decide (scratch < e.2.2 + (w : Int)) with
    | some e => .trap { cls := .bounds, va := (BitVec.ofInt 64 e.2.2).toNat, lane := e.1.lane, words := 2 }
    | none => .ok (ls.map fun e => ⟨e.1, e.2.1, e.2.2.toNat⟩)

/-- Offset of a lane (R215): ZX(a) + SX(OFF). -/
def State.spadOff (s : State) (a : Field) (m : MemMod) (x : Member) : Int := ((lo (s.regs.aval s.sch.cur.blk x a false)).toNat : Int) + memOff m

/-- The block's own area. -/
def State.ownSpad (s : State) (a : Field) (g : Guard) (m : MemMod) : SpadRes :=
  s.spadCheck (memWidth m) ((s.lanesOn g).map fun x => (x, s.sch.cur.blk, s.spadOff a m x))

/-- Member m of the cluster group of a block, if it is placed and not complete (R34, R218). -/
def State.memberOf (s : State) (b m : Nat) : Option Nat :=
  let n := (s.launchOf b).group
  if n ≤ m then none
  else (s.groupOf b).find? fun y => (s.block y).lin == (s.block b).lin / n * n + m && (s.block y).st != .complete

/-- A member's area (R218): PEERGONE first, then the checks of R215, then the wait for a member that is swapped out. -/
def State.peerSpad (s : State) (a b : Field) (g : Guard) (m : MemMod) : SpadRes :=
  let k := s.sch.cur.blk
  let ls := (s.lanesOn g).map fun x => (x, s.memberOf k (lo (s.regs.bval k x .int b false)).toNat)
  match ls.find? fun e => e.2.isNone with
  | some e => .trap { cls := .peergone, lane := e.1.lane, words := 2 }
  | none => match s.spadCheck (memWidth m) (ls.map fun e => (e.1, e.2.getD 0, s.spadOff a m e.1)) with
    | .ok l => if l.any fun e => !(s.block e.blk).st.resident then .wait else .ok l
    | r => r

/-- A load from scratchpads, read at the banks when it issues (R216): it waits for absent lines (R217). -/
def State.spadLoad (s : State) (d : Field) (sx : Bool) (m : MemMod) (r : SpadRes) : State :=
  let w := memWidth m
  let u := s.sch.cur
  if s.polIllop m false true then s.illop 2 false
  else match r with
    | .trap i => s.takeTrap i
    | .wait => s.park .crew 0
    | .ok l =>
      if l.any fun e => s.lineAbsent e.blk e.x w then s.park .crew 0
      else
        let t := u.crews.foldl (fun t c =>
          let mine := l.filter fun e => e.m.crew == c
          let cell := s.regs.cellOf u.blk c d
          let outs := mine.flatMap fun e => cellWrs e.m cell (loadWords w sx (s.sp.read e.blk e.x w))
          t.addPend { Pend.blank with
            blk := u.blk, crew := c, flag := s.seta, regs := if mine.isEmpty then [] else (List.range (groupLen w)).map fun j => .cell u.blk c (cell + j)
            outs := outs, isRead := true, pc := u.pc, poisoned := mine.any fun e => s.spadBad e.blk e.x w
            acq := s.acqAt m c mine.isEmpty }) s
        t.afterRead s.pipe.nextId (l.any fun e => polAcq (s.pol m e.m.crew)) 2

/-- LDS (R215). -/
def execLds (d a b : Field) (g : Guard) (m : MemMod) (s : State) : Host.Outcome State Fault Refusal :=
  issue (.lds d a b g m) (vecIssue d a (groupLen (memWidth m)) g m [] s) s fun t => t.spadLoad d (optSx b) m (t.ownSpad a g m)

/-- LDP (R218). -/
def execLdp (d a b : Field) (g : Guard) (m : MemMod) (s : State) : Host.Outcome State Fault Refusal :=
  issue (.ldp d a b g m) (vecIssue d a (groupLen (memWidth m)) g m (s.bKeys false b 1) s) s fun t => t.spadLoad d false m (t.peerSpad a b g m)

/-- Bytes of a datum that a mask selects, by offset. -/
def maskBytes (bs : List Byte) (mask : Nat) : List (Nat × Byte) := (atOffsets bs).filter fun e => mask.testBit e.1

/-- A store to scratchpads, made at the banks when it issues, the lanes in ascending order (R216, R95); `peer` writes are awaited by
releases (Table 7.1). -/
def State.spadStore (s : State) (m : MemMod) (peer : Bool) (r : SpadRes) (data : Member → List Byte × Nat) : State :=
  let u := s.sch.cur
  if s.polIllop m true false then s.illop 2 false
  else match r with
    | .trap i => s.takeTrap i
    | .wait => s.park .crew 0
    | .ok l =>
      if !l.isEmpty && s.orderWaits (s.pol m) then s.park .again 0
      else
        let t := l.foldl (fun t e => t.spadWrite e.blk e.x (maskBytes (data e.m).1 (data e.m).2)) s
        let t := u.crews.foldl (fun t c =>
          t.addPend { Pend.blank with blk := u.blk, crew := c, flag := s.setb, seta := false, isWrite := peer && !l.isEmpty, pc := u.pc }) t
        (t.cutReleases (s.pol m)).advance 2

/-- STS (R215). -/
def execSts (d a : Field) (g : Guard) (m : MemMod) (s : State) : Host.Outcome State Fault Refusal :=
  issue (.sts d a g m) (vecIssue d a (groupLen (memWidth m)) g m [] s) s fun t =>
    t.spadStore m false (t.ownSpad a g m) fun x => (t.groupData d (memWidth m) x, fullMask)

/-- STSM (R215): the bytes that the mask in b selects. -/
def execStsm (d a b : Field) (g : Guard) (m : MemMod) (s : State) : Host.Outcome State Fault Refusal :=
  issue (.stsm d a b g m) (vecIssue d a (groupLen (memWidth m)) g m (s.bKeys false b 1) s) s fun t =>
    t.spadStore m false (t.ownSpad a g m) fun x =>
      (t.groupData d (memWidth m) x, (lo (t.regs.bval t.sch.cur.blk x .int b false)).toNat)

/-- STP (R218). -/
def execStp (d a b : Field) (g : Guard) (m : MemMod) (s : State) : Host.Outcome State Fault Refusal :=
  issue (.stp d a b g m) (vecIssue d a (groupLen (memWidth m)) g m (s.bKeys false b 1) s) s fun t =>
    t.spadStore m true (t.peerSpad a b g m) fun x => (t.groupData d (memWidth m) x, fullMask)

/-! ## L1 maintenance and prefetch (R222, R223) -/

/-- INVL1 of every line of the context in the core (R222). -/
def execInvl1 (g : Guard) (s : State) : Host.Outcome State Fault Refusal :=
  issue (.invl1 g) { guard := g } s fun t =>
    (if (t.lanesOn g).isEmpty then t else t.l1Flash t.curCore (t.ctxOf t.sch.cur.blk)).advance 1

/-- Invalidate a context's copy of the line that holds an address, if the address translates and a copy is present. -/
def State.invLine (s : State) (core ctx va : Nat) : State × Bool :=
  match s.translate core ctx va with
  | (.ok x, t) => (t.setL1 (t.pipe.l1.filter fun y => !(y.core == core && y.ctx == ctx && y.line == lineOf (x.phys va))), false)
  | (.miss, t) => (t, true)
  | (.fault, t) => (t, false)

/-- INVL1 ka (R222), for each crew of the bundle that has an active lane. -/
def execInvl1Line (a : BitVec 6) (g : Guard) (s : State) : Host.Outcome State Fault Refusal :=
  issue (.invl1Line a g)
    { guard := g, keys := s.sch.cur.crews.flatMap fun c => [.k s.sch.cur.blk c a.toNat, .k s.sch.cur.blk c (a.toNat + 1)] } s fun t =>
    let vas := (crewsOf (t.lanesOn g)).map fun c => (t.regs.kval t.sch.cur.blk c a.toNat true).toNat
    let r := vas.foldl (fun (x : State × Bool) va => let y := x.1.invLine t.curCore (t.ctxOf t.sch.cur.blk) va; (y.1, x.2 || y.2)) (t, false)
    if r.2 then r.1.park .again 0 else r.1.advance 1

/-- PREF (R223): a request for the line of each lane that passes. Translation and permission look at all w bytes from base + o, also those past the line or
page that is fetched, by the model's choice (log 26): R223 does not say. -/
def execPref (a b : Field) (g : Guard) (m : MemMod) (s : State) : Host.Outcome State Fault Refusal :=
  issue (.pref a b g m) { words := 2, guard := g, keys := s.aKeys a 1 ++ s.polKeys m.pol.toNat } s fun t =>
    if t.polIllop m false true then t.illop 2 false
    else match t.checkRecord (t.record t.sch.cur.blk m.recNo.toNat) (memOff m) (memWidth m) 2 { align := false, r := true, silent := true } (t.elemLanes a g) with
      | .trap i => t.takeTrap i
      | .miss t => t.park .crew 0
      | .ok t lanes _ =>
        (lanes.foldl (fun t x => match x.parts.head? with
          | some p => t.addReq { id := 0, slice := p.home, core := t.curCore, ctx := t.ctxOf t.sch.cur.blk, pa := p.pa / 64 * 64, kind := .pref (b.getLsbD 0),
                                 pend := 0, tkeep := polKeep (t.pol m x.m.crew), tnorm := polNorm (t.pol m x.m.crew), ccls := p.tr.ccls, ilv := p.tr.ilv, charged := false, heldTo := 0 }
          | none => t) t).advance 2

/-! ## RECLD (R224) -/

/-- Write an entry of a block's record table. -/
def State.setRecord (s : State) (b n : Nat) (r : BitVec 256) : State :=
  { s with sp := { s.sp with recs := mput 0 s.sp.recs (b * 64 + n) r } }

/-- Record from eight words, the first low. -/
def recOfWords (ws : List Word) : BitVec 256 := BitVec.ofNat 256 (bytesToNat (ws.flatMap fun w => natToBytes 4 w.toNat))

/-- A policy with L1 treatment bypass (R224, R265). -/
def bypass (pol : Word) : Word := (pol &&& 0x9FFFFFFF) ||| 0x40000000

/-- RECLD from k-registers. -/
def State.recldK (s : State) (a : Field) (n : Nat) : State :=
  let r := recOfWords ((List.range 8).map fun j => s.regs.kreg s.sch.cur.blk s.sch.cur.crew (a.num + j))
  if recInvalid r then s.illop 2 false else (s.setRecord s.sch.cur.blk n r).advance 2

/-- RECLD from memory: the crew waits for the bytes. -/
def State.recldMem (s : State) (a : Field) (m : MemMod) : State :=
  let u := s.sch.cur
  let c := u.crew
  let pol := s.pol m c
  if s.polIllop m false true then s.illop 2 false
  else
    let va := ((s.regs.kval u.blk c a.num true).toNat + memOff m)
    let x : Member := ⟨lowLane u.members, c⟩
    match s.checkLanes 32 2 { r := true } [(x, (BitVec.ofInt 64 va).toNat)] [] with
    | .trap i => s.takeTrap i
    | .miss t => t.park .crew 0
    | .ok t lanes _ =>
      if t.loadBlocked lanes then s.park .again 0
      else
        let t2 := (t.addPend { Pend.blank with
          blk := u.blk, crew := c, plan := .recld m.recNo.toNat, lanes := t.laneLoads lanes
          parts := (lanes.map fun y => y.parts.length).sum, isRead := true, pc := u.pc, acq := acqOf pol }).loadParts t.pipe.nextId t.pipe.nextId (t.homeLines (fun _ => bypass pol) lanes)
          (fun _ => bypass pol) lanes
        t2.park (.pend t.pipe.nextId) 2

/-- RECLD (R224). -/
def execRecld (a b : Field) (g : Guard) (m : MemMod) (s : State) : Host.Outcome State Fault Refusal :=
  let mem := b.getLsbD 0
  issue (.recld a b g m)
    { words := 2, bound := .crew, guard := g, keys := s.fieldKeys a true (if mem then 2 else 8) ++ (if mem then s.polKeys m.pol.toNat else []) } s fun t =>
    if !t.uniformOn g then t.advance 2
    else if mem then t.recldMem a m
    else t.recldK a m.recNo.toNat

end Sys2Proof.Machine
end

