-- ==== Sys2Proof/Machine/Atomic.lean ====
section
/-!
DEFINITION. Atomics, opcodes 0x80 to 0x83 (spec/15_isa_memory.md R219 to R221; spec/07 R93 to R95, R103).
-/
namespace Sys2Proof.Machine

/-- Operands of an atomic in a lane: from a data group's bytes, one operand after another (R219). -/
def atomArgs (w : Nat) (bs : List Byte) : Nat × Nat := (bytesToNat (bs.take w), bytesToNat ((bs.drop w).take w))

/-- What an atomic instruction is. -/
structure AtomForm where
  op : Nat
  wid : Nat
  /-- It returns the old value. -/
  ret : Bool
deriving DecidableEq, Repr

/-- Bytes of an atomic's operand group. -/
def AtomForm.bytes (f : AtomForm) : Nat := atomOperands (BitVec.ofNat 4 f.op) * f.wid

/-- Execution point of a scope at a physical address (Table 7.1): 1 the core's L1 copy, 2 the cluster unit, 0 the home point, which of host and peer
lines at system scope is the home die's CXL port, 3 (R364). -/
def atomPoint (scope pa : Nat) : Nat :=
  if scope < 2 then 1 else if scope = 2 then 2 else if scope = 5 && (paRegion pa == .host || paRegion pa == .peer) then 3 else 0

/-- Must an atomic wait: for a store of its own core on its bytes that is not performed, or for an atomic of its core on its line
that is under way (R94, R106)? -/
def State.atomBlocked (s : State) (lanes : List LaneAcc) : Bool :=
  lanes.any fun a => a.parts.any fun p =>
    (s.pipe.sbuf.any fun e => e.core == s.curCore && e.bytes.any fun x => decide (p.pa ≤ e.pa + x.1) && decide (e.pa + x.1 < p.pa + p.len)) ||
    (s.inFlight.any fun r => r.core == s.curCore && lineOf r.pa == lineOf p.pa && match r.kind with
      | .atomic _ _ _ _ _ _ _ _ => true
      | _ => false)

/-- Start the atomic of one lane: it stands at a copy that is present, else it goes to the home slice. -/
def State.atomLane (s : State) (f : AtomForm) (inst pend wt : Nat) (pol : Word) (a : LaneAcc) (args : Nat × Nat) : State :=
  match a.parts.head? with
  | none => s
  | some p =>
    let core := s.curCore
    let ctx := s.ctxOf s.sch.cur.blk
    let pt := atomPoint (polScope pol) p.pa
    let line := lineOf p.pa
    let r : Req := { id := s.pipe.nextId, slice := p.home, core := core, ctx := ctx, pa := p.pa,
                     kind := .atomic f.op f.wid a.m.lane a.m.crew args.1 args.2 pt wt, pend := pend
                     tkeep := polKeep pol, tnorm := polNorm pol, ccls := p.tr.ccls, ilv := p.tr.ilv, charged := false, heldTo := 0, inst := inst, unit := pt == 2 }
    let here := if pt = 1 then (s.l1Find core ctx line).isSome else pt = 2 && (s.abufFind (coreCluster core) line).isSome
    if here then { s with pipe := { s.pipe with nextId := s.pipe.nextId + 1, atoms := s.pipe.atoms ++ [r] } }
    else (if pt = 0 || pt = 3 then s.l1Drop core line else s).addReq r

/-- Does a copy in the core or its cluster perform an access's atomic, which is then written through (Table 7.1)? -/
def throughAt (scope : Nat) (a : LaneAcc) : Bool := a.parts.any fun p => let pt := atomPoint scope p.pa; pt == 1 || pt == 2

/-- Start the atomics of a crew's lanes: the pending operation of the instruction, and one for the write-throughs (Table 7.1). For RED
the instruction is complete when its writes are acknowledged, so its own operation counts them. -/
def State.startAtoms (s : State) (f : AtomForm) (inst c : Nat) (p : Pend) (pol : Word) (lanes : List LaneAcc) (args : Member → Nat × Nat) : State :=
  let u := s.sch.cur
  let n := lanes.length
  let own := s.pipe.nextId
  let through := (lanes.filter (throughAt (polScope pol))).length
  let t := s.addPend { p with blk := u.blk, crew := c, pc := u.pc, isRead := f.ret, isWrite := 0 < n, parts := if f.ret then n else n + through }
  let (t, wt) := if f.ret && 0 < through then
      (t.addPend { Pend.blank with blk := u.blk, crew := c, seta := false, isWrite := true, parts := through, pc := u.pc }, own + 1)
    else (t, if 0 < through then own else 0)
  lanes.foldl (fun t a => t.atomLane f inst own wt pol a (args a.m)) t

/-- A vector atomic (R219, R220): its group is d, `ep` the error predicate, `sp` the success predicate. -/
def State.atomV (s : State) (f : AtomForm) (d a : Field) (ep sp : Nat) (g : Guard) (m : MemMod) : State :=
  let u := s.sch.cur
  if s.polIllop m (!f.ret) false then s.illop 2 false
  else
    let ls := s.elemLanes a g
    match s.checkRecord (s.record u.blk m.recNo.toNat) (memOff m) f.wid 2 { r := true, w := true, dup := true } ls with
    | .trap i => s.takeTrap i
    | .miss t => t.park .crew 0
    | .ok t lanes oob =>
      if !lanes.isEmpty && (t.atomBlocked lanes || t.orderWaits (s.pol m)) then s.park .again 0
      else
        let args := fun (x : Member) => atomArgs f.wid (s.groupData d f.bytes x)
        let all := (lanes.map fun y => y.m) ++ oob
        let t := u.crews.foldl (fun t c =>
          let here := fun (x : Member) => x.crew == c
          let mine := lanes.filter fun y => here y.m
          let os := oob.filter here
          let cell := s.regs.cellOf u.blk c d
          let outs := if f.ret then s.zeroWr d f.wid os ++ epWr ep (all.filter here) os ++ epWr sp os [] else []
          let keys := if !f.ret || (mine.isEmpty && os.isEmpty) then [] else
            ((List.range (groupLen f.wid)).map fun j => .cell u.blk c (cell + j)) ++ (if ep + sp = 0 then [] else [.p u.blk c (ep + sp)])
          let p : Pend := { Pend.blank with
            flag := if f.ret then s.seta else s.setb, seta := f.ret, regs := keys, outs := outs, acq := s.acqAt m c mine.isEmpty
            plan := if f.ret then .vatom cell m.wid.toNat sp (mine.map fun y => (y.m.lane, (args y.m).1)) else .none
            lanes := mine.map fun y => { lane := y.m.lane, crew := c, got := [], held := [] } }
          t.startAtoms f s.pipe.nextId c p (s.pol m c) mine args) t
        ((t.settleAtoms s.pipe.nextId 0).cutReleases (s.pol m)).afterRead s.pipe.nextId (f.ret && lanes.any fun a => polAcq (s.pol m a.m.crew)) 2

/-- Record of an atomic in the signature (R342): for each lane the VA, the OP and the operand group, crew by crew. -/
def State.atomRecord (s : State) (f : AtomForm) (ls : List (Member × Nat)) (m : MemMod) (group : Member → List Byte) : List (Nat × List Byte) :=
  let r := s.record s.sch.cur.blk m.recNo.toNat
  s.crewRecords fun c => (ls.filter fun e => e.1.crew == c).flatMap fun e => natToBytes 8 ((recBase r : Int) + recOffset r (memOff m) e.2).toNat ++ natToBytes 1 f.op ++ group e.1

/-- Registers of an operand group. -/
def AtomForm.regs (f : AtomForm) : Nat := f.bytes / 4

/-- Issue of a vector atomic. -/
def atomIssue (f : AtomForm) (d a : Field) (pred : Nat) (g : Guard) (m : MemMod) (s : State) : Issue :=
  vecIssue d a f.regs g m (if f.ret then s.epKeys false pred else []) s

/-- ATOM (R219). -/
def execAtom (d a b : Field) (g : Guard) (m : MemMod) (s : State) : Host.Outcome State Fault Refusal :=
  let f : AtomForm := ⟨(atomOp b).toNat, memWidth m, true⟩
  let ep := (fieldEP b).toNat
  issueCommit (.atom d a b g m) (atomIssue f d a ep g m s) s
    (fun t => t.atomRecord f (t.elemLanes a g) m (t.groupData d f.bytes)) fun t => t.atomV f d a ep 0 g m

/-- RED (R219): it writes no register. -/
def execRed (d a b : Field) (g : Guard) (m : MemMod) (s : State) : Host.Outcome State Fault Refusal :=
  let f : AtomForm := ⟨(atomOp b).toNat, memWidth m, false⟩
  issueCommit (.red d a b g m) (atomIssue f d a 0 g m s) s
    (fun t => t.atomRecord f (t.elemLanes a g) m (t.groupData d f.bytes)) fun t => t.atomV f d a 0 0 g m

/-- CAS (R220): SP receives the success of each active lane. -/
def execCas (d a b : Field) (g : Guard) (m : MemMod) (s : State) : Host.Outcome State Fault Refusal :=
  let f : AtomForm := ⟨12, memWidth m, true⟩
  let sp := (fieldEP b).toNat
  issueCommit (.cas d a b g m) (atomIssue f d a sp g m s) s
    (fun t => t.atomRecord f (t.elemLanes a g) m (t.groupData d f.bytes)) fun t => t.atomV f d a 0 sp g m

/-- ATOMK's effect: EP is the error predicate, or under OP 12 the success predicate (R220). -/
def State.atomK (s : State) (f : AtomForm) (d a : Field) (ep : Nat) (g : Guard) (m : MemMod) : State :=
  let u := s.sch.cur
  let c := u.crew
  if s.polIllop m false false then s.illop 2 false
  else
    let ls := s.uniformElem a g
    match s.checkRecord (s.record u.blk m.recNo.toNat) (memOff m) f.wid 2 { r := true, w := true } ls with
    | .trap i => s.takeTrap i
    | .miss t => t.park .crew 0
    | .ok t lanes oob =>
      if !lanes.isEmpty && (t.atomBlocked lanes || t.orderWaits (s.pol m)) then s.park .again 0
      else
        let args := atomArgs f.wid (s.regs.kBytes u.blk c d.num f.bytes)
        let cas := f.op == 12
        let outs := (if oob.isEmpty then [] else kWrs c d.num (List.replicate (groupLen f.wid) 0)) ++
          (if ls.isEmpty then [] else epWrK c ep (!oob.isEmpty && !cas))
        let keys := if ls.isEmpty then [] else s.fieldKeys d true (groupLen f.wid) ++ s.epKeys true ep
        let p : Pend := { Pend.blank with
          flag := s.seta, regs := keys, outs := outs, acq := s.acqAt m c lanes.isEmpty
          plan := .katom c d.num m.wid.toNat (if cas && ep != 0 then some (ep - 1) else none) args.1
          lanes := lanes.map fun y => { lane := y.m.lane, crew := c, got := [], held := [] } }
        let t := t.startAtoms f s.pipe.nextId c p (s.pol m c) lanes fun _ => args
        ((t.settleAtoms s.pipe.nextId 0).cutReleases (s.pol m)).afterRead s.pipe.nextId (!lanes.isEmpty && polAcq (s.pol m c)) 2

/-- ATOMK (R219). -/
def execAtomk (d a b : Field) (g : Guard) (m : MemMod) (s : State) : Host.Outcome State Fault Refusal :=
  let f : AtomForm := ⟨(atomOp b).toNat, memWidth m, true⟩
  let ep := (fieldEP b).toNat
  issueCommit (.atomk d a b g m) (uniIssue d a f.regs g m (s.epKeys true ep) s) s
    (fun t => t.atomRecord f (t.uniformElem a g) m fun x => t.regs.kBytes t.sch.cur.blk x.crew d.num f.bytes) fun t =>
    t.atomK f d a ep g m

end Sys2Proof.Machine
end

