-- ==== Sys2Proof/Machine/Contract.lean ====
section
/-!
DEFINITION. The contract instructions, opcodes 0x87 to 0x8A (spec/15_isa_memory.md R225 to R227; spec/05 R64, R68 to R76): each sends
one request to the contract sequencer, whose status lands in kd.
-/
namespace Sys2Proof.Machine

/-- Issue of an instruction of the uniform path with kd and a group of n k-registers. -/
def groupIssue (d a : Field) (n : Nat) (g : Guard) (s : State) : Issue :=
  { words := 2, bound := .crew, guard := g, keys := s.fieldKeys d true 1 ++ s.fieldKeys a true n }

/-- A memory-group instruction with no active lane (R329): complete, with nothing accessed or written. -/
def State.emptyOp (s : State) (flag words : Nat) (seta : Bool) : State :=
  (s.addPend { Pend.blank with blk := s.sch.cur.blk, crew := s.sch.cur.crew, flag := flag, seta := seta, pc := s.sch.cur.pc }).advance words

/-- k-register a + j of the issuing crew. -/
def State.opK (s : State) (a : Field) (j : Nat) : Word := s.regs.kreg s.sch.cur.blk s.sch.cur.crew (a.num + j)
/-- The pair at a + j as a number. -/
def State.opPair (s : State) (a : Field) (j : Nat) : Nat := (s.regs.kval s.sch.cur.blk s.sch.cur.crew (a.num + j) true).toNat

/-- A sequencer operation before it is decided. -/
def SeqRec.blank : SeqRec :=
  { id := 0, ctx := 0, launch := 0, pend := 0, blk := 0, crew := 0, kd := 0, op := .resend, decided := false, status := 0, slices := [], pinId := 0 }

/-- Send an operation to the contract sequencer (R70, R225): its status is pending in kd. -/
def State.sendContract (s : State) (d : Field) (op : SeqOp) : State :=
  let u := s.sch.cur
  let id := s.pipe.nextId
  let t := s.addPend { Pend.blank with blk := u.blk, crew := u.crew, flag := s.seta, regs := [.k u.blk u.crew d.num], parts := 1, pc := u.pc }
  let r : SeqRec := { SeqRec.blank with id := id, ctx := s.ctxOf u.blk, launch := (s.block u.blk).launch, pend := id, blk := u.blk, crew := u.crew,
                                        kd := d.num, op := op }
  { t with sl := { t.sl with seq := t.sl.seq ++ [r] } }.advance 2

/-- A contract instruction under its guard. -/
def State.contract (s : State) (d : Field) (g : Guard) (op : SeqOp) : State :=
  if s.uniformOn g then s.sendContract d op else s.emptyOp s.seta 2 true

/-- A privileged contract instruction (R76, R226): PROT in a context that is not privileged. -/
def State.contractPriv (s : State) (d : Field) (g : Guard) (op : SeqOp) : State :=
  if s.uniformOn g && !(s.ctx (s.ctxOf s.sch.cur.blk)).privileged then s.takeTrap { cls := .prot, lane := lowLane s.sch.cur.members, words := 2 }
  else s.contract d g op

/-- PIN (R225, R68). -/
def execPin (d a : Field) (g : Guard) (m : ContractMod) (s : State) : Host.Outcome State Fault Refusal :=
  issueShared (.pin d a g m) (groupIssue d a 4 g s) s fun t =>
    t.contract d g (.pin (t.opPair a 0) (t.opPair a 2) (m.kind == 1) m.life.toNat)

/-- UNPIN (R225, R71). -/
def execUnpin (d a : Field) (g : Guard) (m : ContractMod) (s : State) : Host.Outcome State Fault Refusal :=
  issueShared (.unpin d a g m) (groupIssue d a 2 g s) s fun t => t.contract d g (.unpin (t.opPair a 0))

/-- Slices that four k-registers name: bit s of k(a + s div 32) (Table 15.6). -/
def State.sliceSet (s : State) (a : Field) : List Nat := (List.range 128).filter fun n => (s.opK a (n / 32)).getLsbD (n % 32)

/-- CCTR (R225, R64, R226). -/
def execCctr (d a : Field) (g : Guard) (m : ContractMod) (s : State) : Host.Outcome State Fault Refusal :=
  issueShared (.cctr d a g m) (groupIssue d a 8 g s) s fun t =>
    let x := (t.opK a 4).toNat
    t.contractPriv d g (.cctr (t.sliceSet a) (bits x 16 4) (BitVec.ofNat 16 x) (bits x 20 12 != 0))

/-- STPART (R225, R76, R226). -/
def execStpart (d a : Field) (g : Guard) (m : ContractMod) (s : State) : Host.Outcome State Fault Refusal :=
  issueShared (.stpart d a g m) (groupIssue d a 4 g s) s fun t =>
    t.contractPriv d g (.stpart (t.opK a 0).toNat (t.opK a 1).toNat (t.opK a 2).toNat (m.life.toNat % 4))

end Sys2Proof.Machine
end

