-- ==== Sys2Proof/Machine/Kv.lean ====
section
/-!
DEFINITION. The KV instructions and ASSAY, opcodes 0x8B to 0x8F (spec/15_isa_memory.md R228 to R232; spec/21 R291 to R298), as far as
their issue goes; what they do at the home slices stands in Machine/KvEvents.lean.
-/
namespace Sys2Proof.Machine

/-! ## Engine forks (R99) -/

/-- Must a fork still wait for a store, an atomic write or a read of the crew, or for a release fence (R99, R90)? -/
def State.forkWaits (s : State) : Bool :=
  let u := s.sch.cur
  s.fenced u || s.readsOf u || u.crews.any fun c =>
    s.inBuffer u.blk c || s.pipe.pends.any fun p => p.blk == u.blk && p.crew == c && p.isWrite && 0 < p.parts

/-- An engine with nothing to do. -/
def Engine.blank : Engine := { id := 0, blk := 0, crew := 0, pend := 0, moves := [], panels := [], assay := none, trs := [], toMem := false, heldTo := 0 }

/-- Does a move write memory rather than scratchpad (R100)? -/
def Move.toMem : Move → Bool
  | .spadFromMem _ _ _ => false
  | .memFromSpad _ _ _ | .memFromMem _ _ | .codeFromMem _ _ | .kvWrite _ _ _ _ _ _ => true

/-! ## Contracts and pages -/

/-- The reserve contract of a context; one that has ended is none, though pages of it are still in transfer (R292). -/
def State.reserve (s : State) (ctx : Nat) : Option Reserve := (mget none s.kv.res ctx).filter fun r => !r.ended
/-- Number of the contract of a context, 0 for none. -/
def State.resGen (s : State) (ctx : Nat) : Nat := ((s.reserve ctx).map fun r => r.gen).getD 0
/-- The contract of a context as an operation issued under one finds it: none after that one's end, though another has replaced it (R292). -/
def State.reserveAt (s : State) (ctx gen : Nat) : Option Reserve := (s.reserve ctx).filter fun r => r.gen == gen
/-- Quota: 0 without a contract (R292). -/
def State.quota (s : State) (ctx : Nat) : Nat := ((s.reserve ctx).map fun r => r.quota).getD 0
/-- Key of a page. -/
def pageKey (ctx p : Nat) : Nat := ctx * 2 ^ 32 + p
/-- A page that is free (Table 21.2). -/
def KvPage.init : KvPage :=
  { count := 0, heat := 0, present := 0, dirty := false, st := .free, frame := none, isKey := false }
/-- Fork an engine for a pending operation (R99); it acts under the reserve contract that lives at its issue (R292). -/
def State.fork (s : State) (e : Engine) : State :=
  let f := { e with id := s.pipe.nextId, toMem := e.moves.any Move.toMem, at' := s.now, gen := if e.gen = 0 then s.resGen (s.ctxOf e.blk) else e.gen }
  { s with pipe := { s.pipe with nextId := s.pipe.nextId + 1 }, sp := { s.sp with engines := s.sp.engines ++ [f] } }

/-- Page of a context. -/
def State.page (s : State) (ctx p : Nat) : KvPage := mget .init s.kv.pages (pageKey ctx p)
/-- Home slice of a page (R293). -/
def Reserve.home (r : Reserve) (p : Nat) : Nat := r.slices.getD (p % r.slices.length) 0
/-- Address of slot t of backing page p (R293, R294). -/
def Reserve.slotVa (r : Reserve) (p t : Nat) : Nat := r.backbase + 32768 * p + 512 * t

/-- A row vector of 256 channels (R228): lane i holds channels 8i to 8i + 7 in four registers. -/
def State.rowVec (s : State) (vr : Nat) : List (BitVec 16) :=
  let u := s.sch.cur
  let cell := (s.regs.crewSt u.blk u.crew).wb + vr
  (List.range 256).map fun c =>
    let w := s.regs.vcell u.blk u.crew (cell + c % 8 / 2) (c / 8)
    if c % 2 = 0 then w.extractLsb' 0 16 else w.extractLsb' 16 16

/-! ## KVAPP (R229) -/

/-- The sine and cosine of an angle in units of 2^−32 turn, faithfully rounded to FP32 (R229; log 5). -/
def turnSin (t : Word) : Nat :=
  let x := sinTurn (t.toNat * 2 ^ (sfuBits - 31))
  if x.2.1 = 0 then 0 else (faithfulOr x.2.2 7 t ⟨.rne, false⟩ x.1 x.2.1 (-(sfuBits : Int))).1
/-- The cosine. -/
def turnCos (t : Word) : Nat :=
  let x := sinTurn ((t.toNat * 2 ^ (sfuBits - 31) + fixOne / 2) % (2 * fixOne))
  if x.2.1 = 0 then 0 else (faithfulOr x.2.2 8 t ⟨.rne, false⟩ x.1 x.2.1 (-(sfuBits : Int))).1

/-- A pair of key channels rotated (R229). -/
def rotatePair (t : Word) (x y : Nat) : Nat × Nat :=
  let c := turnCos t
  let n := turnSin t
  let a := x * 2 ^ 16
  let b := y * 2 ^ 16
  let e : FEnv := ⟨.rne, false⟩
  let m := fun (p q : Nat) => (fp32.mul e p q).1
  ((fp32.convert bf16 e (fp32.sub e (m a c) (m b n)).1).1, (fp32.convert bf16 e (fp32.add e (m a n) (m b c)).1).1)

/-- The key row after any rotation, channels at or above CH zero (R228, R229). -/
def Reserve.keyRow (r : Reserve) (p : Nat) (row : List (BitVec 16)) : List (BitVec 16) :=
  (List.range 256).map fun c =>
    if r.ch ≤ c then 0
    else if r.rope then
      let t : Word := BitVec.ofNat 32 (p * (r.omega.getD (c / 2) 0).toNat)
      let xy := rotatePair t (row.getD (c / 2 * 2) 0).toNat (row.getD (c / 2 * 2 + 1) 0).toNat
      BitVec.ofNat 16 (if c % 2 = 0 then xy.1 else xy.2)
    else row.getD c 0

/-- The value row, channels at or above CH zero. -/
def Reserve.valueRow (r : Reserve) (row : List (BitVec 16)) : List (BitVec 16) :=
  (List.range 256).map fun c => if r.ch ≤ c then 0 else row.getD c 0

/-- Operation record with nothing filled in. -/
def KvRec.blank : KvRec := { id := 0, ctx := 0, blk := 0, crew := 0, pend := 0, lanes := [], op := .free 0 }

/-- Queue an operation at its home slice for a pending operation. -/
def State.kvSend (s : State) (p : Pend) (op : KvOp) : State :=
  let u := s.sch.cur
  let id := s.pipe.nextId
  let t := s.addPend { p with blk := u.blk, crew := u.crew, parts := 1, pc := u.pc }
  let ctx := s.ctxOf u.blk
  let o := { KvRec.blank with id := id, ctx := ctx, blk := u.blk, crew := u.crew, pend := id, op := op, gen := s.resGen ctx, at' := s.now }
  { t with kv := { t.kv with ops := t.kv.ops ++ [o] } }

/-- PROT at the issuing KV instruction. -/
def State.kvProt (s : State) (bound : Bool) : State := s.takeTrap { cls := .prot, lane := lowLane s.sch.cur.members, words := 2, bound := bound }

/-- KVAPP's effect at issue: PROT where the context has no contract (R292), KVPOS, PROT, then the count tests, for which the crew waits. -/
def State.kvapp (s : State) (a : Field) (m : KvMod) : State :=
  let u := s.sch.cur
  let ctx := s.ctxOf u.blk
  let k := (s.opK a 0).toNat
  let v := (s.opK a 1).toNat
  let p := (s.opK a 2).toNat
  let lane := lowLane u.members
  match s.reserve ctx with
  | none => s.kvProt true
  | some r =>
    if 2 ^ 24 ≤ p then
      let va := r.slotVa k (p % 64)
      (s.logViolation u.blk va u.pc u.crew lane 2).takeTrap { cls := .kvpos, va := va, lane := lane, words := 2, bound := true }
    else if r.quota ≤ k || r.quota ≤ v || k == v then s.kvProt true
    else if s.forkWaits then s.park .again 0
    else
      let op : KvOp := .test k v none none (p % 64) (r.keyRow p (s.rowVec m.vr.toNat)) (r.valueRow (s.rowVec (m.vr.toNat + 4)))
      (s.kvSend { Pend.blank with flag := s.setb, seta := false, plan := .kvtest } op).park (.pend s.pipe.nextId) 2

/-- Keys of a register group of n vector registers. -/
def State.vrKeys (s : State) (vr n : Nat) : List RegKey :=
  let u := s.sch.cur
  (List.range n).map fun j => .cell u.blk u.crew ((s.regs.crewSt u.blk u.crew).wb + vr + j)

/-- Issue of a whole-crew KV instruction. -/
def kvIssue (keys : List RegKey) (g : Guard) : Issue := { words := 2, bound := .whole, guard := g, feat := some 1, keys := keys }

/-- Operands of KVAPP for the signature (R342). -/
def State.kvappRecord (s : State) (a : Field) (m : KvMod) : List Byte :=
  ((List.range 3).flatMap fun j => natToBytes 4 (s.opK a j).toNat) ++
    (s.rowVec m.vr.toNat ++ s.rowVec (m.vr.toNat + 4)).flatMap fun x => natToBytes 2 x.toNat

/-- KVAPP (R229). -/
def execKvapp (a : Field) (g : Guard) (m : KvMod) (s : State) : Host.Outcome State Fault Refusal :=
  issueCommit (.kvapp a g m) (kvIssue (s.fieldKeys a true 3 ++ s.vrKeys m.vr.toNat 8) g) s (fun t => t.oneRecord (t.kvappRecord a m)) fun t =>
    if t.uniformOn g then t.kvapp a m else t.emptyOp t.setb 2 false

/-! ## KVFORK, KVFREE, KVHM (R230, R231) -/

/-- KVFORK (R230). -/
def execKvfork (d a : Field) (g : Guard) (m : KvMod) (s : State) : Host.Outcome State Fault Refusal :=
  issueShared (.kvfork d a g m)
    { words := 2, bound := .crew, guard := g, feat := some 1, keys := s.fieldKeys d true 1 ++ s.fieldKeys a true 1 ++ s.predKeys true m.qd.toNat } s fun t =>
    let u := t.sch.cur
    let p := (t.opK a 0).toNat
    if !t.uniformOn g then t.emptyOp t.seta 2 true
    else if t.quota (t.ctxOf u.blk) ≤ p then t.kvProt false
    else (t.kvSend { Pend.blank with flag := t.seta, regs := [.k u.blk u.crew d.num, .q u.blk u.crew m.qd.toNat] } (.fork p d.num m.qd.toNat)).advance 2

/-- KVFREE (R230). -/
def execKvfree (a : Field) (g : Guard) (m : KvMod) (s : State) : Host.Outcome State Fault Refusal :=
  issueShared (.kvfree a g m) { words := 2, bound := .crew, guard := g, feat := some 1, keys := s.fieldKeys a true 1 } s fun t =>
    let p := (t.opK a 0).toNat
    if !t.uniformOn g then t.emptyOp t.setb 2 false
    else if t.quota (t.ctxOf t.sch.cur.blk) ≤ p then t.kvProt false
    else (t.kvSend { Pend.blank with flag := t.setb, seta := false } (.free p)).advance 2

/-- KVHM (R231). -/
def execKvhm (d a : Field) (g : Guard) (m : KvMod) (s : State) : Host.Outcome State Fault Refusal :=
  issueShared (.kvhm d a g m) (kvIssue (s.fieldKeys d true 1 ++ s.fieldKeys a true 1 ++ s.vrKeys m.vr.toNat 8) g) s fun t =>
    let u := t.sch.cur
    let p := (t.opK a 0).toNat
    if !t.uniformOn g then t.emptyOp t.seta 2 true
    else if t.quota (t.ctxOf u.blk) ≤ p then t.kvProt true
    else (t.kvSend { Pend.blank with flag := t.seta, regs := .k u.blk u.crew d.num :: t.vrKeys m.vr.toNat 8 }
            (.hallmark p d.num ((t.regs.crewSt u.blk u.crew).wb + m.vr.toNat))).advance 2

/-! ## ASSAY (R232) -/

/-- The issue checks of ASSAY: ILLOP, MISALIGN, BOUNDS; `l`, `n`, `x`, `o` are its four operands. -/
def assayTrap (scratch l n x o : Nat) (topn : Bool) (lane : Nat) : Option TrapInfo :=
  if 4096 < n || (topn && 256 < x) then some { cls := .illop, lane := lane, words := 2, bound := true }
  else if l % 4 ≠ 0 then some { cls := .misalign, va := l, lane := lane, words := 2, bound := true }
  else if o % 4 ≠ 0 then some { cls := .misalign, va := o, lane := lane, words := 2, bound := true }
  else if scratch < l + 4 * n then some { cls := .bounds, va := l, lane := lane, words := 2, bound := true }
  else if scratch < o + 4 * n then some { cls := .bounds, va := o, lane := lane, words := 2, bound := true }
  else none

/-- ASSAY's effect at issue: the checks, then the engine. -/
def State.assay (s : State) (d a : Field) (m : KvMod) : State :=
  let u := s.sch.cur
  let l := (s.opK a 0).toNat
  let n := (s.opK a 1).toNat
  let x := (s.opK a 2).toNat
  let o := (s.opK a 3).toNat
  match assayTrap (s.launchOf u.blk).scratch l n x o (m.mode == 1) (lowLane u.members) with
  | some i => s.takeTrap i
  | none =>
    if s.forkWaits then s.park .again 0
    else
      let id := s.pipe.nextId
      let t := s.addPend { Pend.blank with blk := u.blk, crew := u.crew, flag := s.seta, regs := [.k u.blk u.crew d.num], parts := 1, pc := u.pc }
      let q : AssaySt := { list := l, n := n, topn := m.mode == 1, param := x, out := o, query := s.rowVec m.vr.toNat, kd := d.num }
      (t.fork { Engine.blank with blk := u.blk, crew := u.crew, pend := id, assay := some q }).advance 2

/-- ASSAY (R232). -/
def execAssay (d a : Field) (g : Guard) (m : KvMod) (s : State) : Host.Outcome State Fault Refusal :=
  issue (.assay d a g m) (kvIssue (s.fieldKeys d true 1 ++ s.fieldKeys a true 4 ++ s.vrKeys m.vr.toNat 4) g) s fun t =>
    if t.uniformOn g then t.assay d a m else t.emptyOp t.seta 2 true

/-! ## Heat (R295) -/

/-- Every page with a count above 0 halves its heat. -/
def State.halveHeats (s : State) : State :=
  let ps := s.kv.pages.foldl (fun m e => if 0 < e.2.count then mput .init m e.1 { e.2 with heat := e.2.heat / 2 } else m) s.kv.pages
  { s with kv := { s.kv with pages := ps, decays := s.kv.decays + 1 } }

/-- The halvings of the multiples of 2^20 that the clock has passed; a fifth changes nothing. What a multiple's own cycle raises comes before its halving. -/
def State.settleHeat (s : State) : State :=
  let n := (s.now - 1) / 2 ^ 20
  if n ≤ s.kv.decays then s
  else
    let t := (List.range (min 4 (n - s.kv.decays))).foldl (fun t _ => t.halveHeats) s
    { t with kv := { t.kv with decays := n } }

end Sys2Proof.Machine
end

