-- ==== Sys2Proof/Machine/Girth.lean ====
section
/-!
DEFINITION. The girth instructions, opcodes 0x90 to 0x95 (spec/15_isa_memory.md R233 to R235; spec/19 R280 to R290), as far as their
issue goes; they act at a passage (Machine/GirthEvents.lean).
-/
namespace Sys2Proof.Machine

/-- Issue of a girth instruction. -/
def girthIssue (keys : List RegKey) (g : Guard) : Issue := { words := 2, bound := .crew, guard := g, feat := some 0, keys := keys }

/-- Does a slot id lie in the launch's segment (R233)? -/
def Launch.inSegment (l : Launch) (slot : Nat) : Bool := decide (l.gbase ≤ slot) && decide (slot < l.gbase + l.glen)

/-- Keys of QD, where PEN is 1. -/
def State.qdKeys (s : State) (m : GirthMod) : List RegKey := if m.pen = 1 then [.q s.sch.cur.blk s.sch.cur.crew m.qd.toNat] else []
/-- QD, where PEN is 1. -/
def girthQ (m : GirthMod) : Option Nat := if m.pen = 1 then some m.qd.toNat else none

/-- GIRTHSEG at the issuing instruction. -/
def State.girthSeg (s : State) : State := s.takeTrap { cls := .girthseg, lane := lowLane s.sch.cur.members, words := 2 }

/-- Send a girth operation to the stop of the core (R234, R285): it is ready 3 cycles later. A fence that orders the crew's girth operations
(R102) makes the bundle wait, and all 32 places in use make the crew WAITING (R285). -/
def State.girthSend (s : State) (p : Pend) (slot : Nat) (act : GirthAct) : State :=
  let u := s.sch.cur
  let l := s.launchOf u.blk
  if s.girthFenced u then s.park .again 0
  else if 32 ≤ (s.gi.ops.filter fun o => o.stop == s.curCore).length then s.park .girthFull 0
  else
    let id := s.pipe.nextId
    let t := s.addPend { p with blk := u.blk, crew := u.crew, flag := s.seta, parts := 1, pc := u.pc }
    let o : GirthOp := { pend := id, stop := s.curCore, qtr := s.curQtr, ready := s.now + 3, from' := s.now + 3, passed := [], blk := u.blk, crew := u.crew, lanes := u.members,
                         base := l.gbase, len := l.glen, slot := slot, act := act }
    { t with gi := { t.gi with ops := t.gi.ops ++ [o] } }.advance 2

/-- A girth instruction on a slot id in ka. -/
def State.onSlot (s : State) (a : Field) (g : Guard) (regs : List RegKey) (act : State → GirthAct) : State :=
  let slot := (s.opK a 0).toNat
  if !s.uniformOn g then s.emptyOp s.seta 2 true
  else if !(s.launchOf s.sch.cur.blk).inSegment slot then s.girthSeg
  else s.girthSend { Pend.blank with regs := regs } slot (act s)

/-- Record of a girth instruction in the signature (R342): the slot id or tag, the operation, and the operand group. -/
def State.girthRecord (s : State) (a : Field) (op : Nat) (group : List Word) : List Byte :=
  natToBytes 4 (s.opK a 0).toNat ++ natToBytes 2 op ++ group.flatMap fun w => natToBytes 4 w.toNat

/-- Words of the group at kb. -/
def State.groupK (s : State) (b : Field) (n : Nat) : List Word := (List.range n).map fun j => s.opK b j

/-- First cell of a vector destination. -/
def State.cellD (s : State) (d : Field) : Nat := s.regs.cellOf s.sch.cur.blk s.sch.cur.crew d

/-- GREAD (R234). -/
def execGread (d a : Field) (g : Guard) (m : GirthMod) (s : State) : Host.Outcome State Fault Refusal :=
  issueCommit (.gread d a g m) (girthIssue (s.fieldKeys d false 1 ++ s.fieldKeys a true 1 ++ s.qdKeys m) g) s (fun t => t.oneRecord (t.girthRecord a 0x90 [])) fun t =>
    t.onSlot a g (t.fieldKeys d false 1 ++ t.qdKeys m) fun t => .read (t.cellD d) (girthQ m)

/-- Operand registers of GUPD. -/
def gupdRegs (m : GirthMod) : Nat := atomOperands m.op * (m.w64.toNat + 1)

/-- GUPD (R234): OP of Table 15.5 on word WORD, a pair with W64. -/
def execGupd (d a b : Field) (g : Guard) (m : GirthMod) (s : State) : Host.Outcome State Fault Refusal :=
  let n := m.w64.toNat + 1
  issueCommit (.gupd d a b g m)
    (girthIssue (s.fieldKeys d true n ++ s.fieldKeys a true 1 ++ s.fieldKeys b true (gupdRegs m) ++ s.qdKeys m) g) s
    (fun t => t.oneRecord (t.girthRecord a (0x100 + 512 * m.op.toNat + 16 * m.w64.toNat + m.word.toNat) (t.groupK b (gupdRegs m)))) fun t =>
    t.onSlot a g (t.fieldKeys d true n ++ t.qdKeys m) fun t =>
      let args := atomArgs (4 * n) (t.regs.kBytes t.sch.cur.blk t.sch.cur.crew b.num (4 * gupdRegs m))
      .update m.op.toNat m.word.toNat (m.w64 == 1) args.1 args.2 d.num (girthQ m)

/-- GCINCH (R234). -/
def execGcinch (d a : Field) (g : Guard) (m : GirthMod) (s : State) : Host.Outcome State Fault Refusal :=
  issueCommit (.gcinch d a g m) (girthIssue (s.fieldKeys d false 1 ++ s.fieldKeys a true 1) g) s (fun t => t.oneRecord (t.girthRecord a 0x92 [])) fun t =>
    t.onSlot a g (t.fieldKeys d false 1) fun t => .cinch (t.cellD d)

/-- GCLOSE (R234). -/
def execGclose (a b : Field) (g : Guard) (m : GirthMod) (s : State) : Host.Outcome State Fault Refusal :=
  issueCommit (.gclose a b g m) (girthIssue (s.fieldKeys a true 1 ++ s.fieldKeys b true 16 ++ s.qdKeys m) g) s
    (fun t => t.oneRecord (t.girthRecord a 0x93 (t.groupK b 16))) fun t =>
    t.onSlot a g (t.qdKeys m) fun t => .close (t.groupK b 16) (girthQ m)

/-- GMOUNT (R234): tag ka boards the segment; tag 0 is ILLOP, an empty segment GIRTHSEG; with both it takes ILLOP (log 36). -/
def execGmount (d a b : Field) (g : Guard) (m : GirthMod) (s : State) : Host.Outcome State Fault Refusal :=
  issueCommit (.gmount d a b g m) (girthIssue (s.fieldKeys d true 1 ++ s.fieldKeys a true 1 ++ s.fieldKeys b true 16) g) s
    (fun t => t.oneRecord (t.girthRecord a 0x94 (t.groupK b 16))) fun t =>
    if !t.uniformOn g then t.emptyOp t.seta 2 true
    else if t.opK a 0 = 0 then t.illop 2 false
    else if (t.launchOf t.sch.cur.blk).glen = 0 then t.girthSeg
    else t.girthSend { Pend.blank with regs := t.fieldKeys d true 1 } 0 (.mount (t.opK a 0) (t.groupK b 16) d.num)

/-- GDISMT (R234): by slot id, or by tag. -/
def execGdismt (d a : Field) (g : Guard) (m : GirthMod) (s : State) : Host.Outcome State Fault Refusal :=
  issueCommit (.gdismt d a g m) (girthIssue (s.fieldKeys d false 1 ++ s.fieldKeys a true 1 ++ s.qdKeys m) g) s
    (fun t => t.oneRecord (t.girthRecord a (0x95 + 256 * m.op.toNat) [])) fun t =>
    if m.op = 0 then t.onSlot a g (t.fieldKeys d false 1 ++ t.qdKeys m) fun t => .dismount none (t.cellD d) (girthQ m)
    else if !t.uniformOn g then t.emptyOp t.seta 2 true
    else if (t.launchOf t.sch.cur.blk).glen = 0 then t.girthSeg
    else t.girthSend { Pend.blank with regs := t.fieldKeys d false 1 ++ t.qdKeys m } 0 (.dismount (some (t.opK a 0)) (t.cellD d) (girthQ m))

end Sys2Proof.Machine
end

