-- ==== Sys2Proof/Machine/Tensor.lean ====
section
/-!
DEFINITION. Tensor descriptors, shard tables and boxes (spec/17_isa_matrix.md R263 to R265; spec/29_host_rules.md R375).
-/
namespace Sys2Proof.Machine

/-! ## Fields of a descriptor (Table 17.9) -/

/-- A field of the image. -/
def tdFld (x : BitVec 2048) (low w : Nat) : Nat := (x.extractLsb' low w).toNat
/-- BASE. -/
def tdBase (x : BitVec 2048) : Nat := tdFld x 0 64
/-- EXTENT. -/
def tdExtent (x : BitVec 2048) : Nat := tdFld x 64 48
/-- FMT. -/
def tdFmt (x : BitVec 2048) : Nat := tdFld x 112 8
/-- RANK. -/
def tdRank (x : BitVec 2048) : Nat := tdFld x 120 4
/-- SIZE of dimension d. -/
def tdSize (x : BitVec 2048) (d : Nat) : Nat := tdFld x (256 + 128 * d) 32
/-- BOX. -/
def tdBox (x : BitVec 2048) (d : Nat) : Nat := tdFld x (256 + 128 * d + 32) 32
/-- STRIDE, signed. -/
def tdStride (x : BitVec 2048) (d : Nat) : Int := sext (tdFld x (256 + 128 * d + 64) 48) 48
/-- SHARDS. -/
def tdShards (x : BitVec 2048) (d : Nat) : Nat := tdFld x (256 + 128 * d + 112) 8
/-- AXIS. -/
def tdAxis (x : BitVec 2048) (d : Nat) : Nat := tdFld x (256 + 128 * d + 120) 4
/-- P_d = SIZE_d ÷ SHARDS_d (R264). -/
def tdPart (x : BitVec 2048) (d : Nat) : Nat := tdSize x d / tdShards x d
/-- Dimensions of the descriptor. -/
def tdDims (x : BitVec 2048) : List Nat := List.range (tdRank x)

/-- I4G: dimension 0 counts codes, two to a byte (R263). -/
def tdI4 (x : BitVec 2048) : Bool := tdFmt x == 0x0D
/-- Codes to a cell of dimension 0: 2 for I4, else 1. -/
def tdUnit (x : BitVec 2048) : Nat := if tdI4 x then 2 else 1

/-- Bytes of a cell: an element, or a pair of I4 codes (Table 9.8). -/
def cellBytes (fmt : Nat) : Nat := match fmt with
  | 0x02 | 0x03 | 0x08 | 0x09 => 2
  | 0x04 | 0x05 | 0x0A => 4
  | 0x06 | 0x07 | 0x0B => 8
  | _ => 1

/-- Cells of the box along dimension d. -/
def tdCells (x : BitVec 2048) (d : Nat) : Nat := if d = 0 then tdBox x 0 / tdUnit x else tdBox x d
/-- Cells of the box. -/
def tdCount (x : BitVec 2048) : Nat := ((tdDims x).map (tdCells x)).foldl (· * ·) 1
/-- Bytes of the box. -/
def tdBytes (x : BitVec 2048) : Nat := tdCount x * cellBytes (tdFmt x)

/-- Are two of a list equal? -/
def hasRepeat (l : List Nat) : Bool := (dedup l).length != l.length

/-- What makes an image ILLOP (R265); the entries at and above RANK are reserved (R263). -/
def tdInvalid (x : BitVec 2048) : Bool :=
  tdFld x 124 132 != 0 || tdFld x 1792 256 != 0 || tdRank x == 0 || 12 < tdRank x || 0x0D < tdFmt x ||
  ((List.range 12).any fun d => if d < tdRank x then
      tdFld x (256 + 128 * d + 124) 4 != 0 || tdSize x d == 0 || tdBox x d == 0 || tdShards x d == 0 || tdSize x d % tdShards x d != 0
    else tdFld x (256 + 128 * d) 128 != 0) ||
  hasRepeat (((tdDims x).filter fun d => 1 < tdShards x d).map (tdAxis x)) ||
  (tdI4 x && (tdSize x 0 % 2 != 0 || tdBox x 0 % 2 != 0))

/-! ## Shard tables (R375) -/

/-- Does an entry match a shard's coordinates, dimension by dimension? -/
def shardMatches (x : BitVec 2048) (e : Nat) (c : List Nat) : Bool :=
  bits e 0 1 == 1 && ((tdDims x).zip c).all fun q =>
    tdShards x q.1 ≤ 1 || (let v := bits e (128 + 8 * tdAxis x q.1) 8; v == 0xFF || v == q.2)

/-- A fault of a copy or of TDMK, and its address where the manual gives it one. -/
abbrev CellTrap := Trap × Option Nat

/-- What does not translate raises XLATE. -/
def xlateBad {α : Type} (r : Tried Nat α × State) : Tried CellTrap α × State := match r with
  | (.ok a, t) => (.ok a, t)
  | (.wait, t) => (.wait, t)
  | (.bad va, t) => (.bad (.xlate, some va), t)

/-- Who reads a descriptor: a crew or feed context of a block. -/
structure TdUser where
  blk : Nat
  crew : Nat
deriving DecidableEq, Repr

/-- The read of a shard-table entry by a user, where it is under way or done. -/
def State.shardRead (s : State) (w : TdUser) (va : Nat) : Option ShardRead := s.pipe.shards.find? fun r => r.blk == w.blk && r.crew == w.crew && r.va == va
/-- Change a read of the shard table. -/
def State.mapShard (s : State) (id : Nat) (f : ShardRead → ShardRead) : State :=
  { s with pipe := { s.pipe with shards := s.pipe.shards.map fun r => if r.id == id then f r else r } }
/-- A user has done with the shard table. -/
def State.dropShards (s : State) (w : TdUser) : State :=
  { s with pipe := { s.pipe with shards := s.pipe.shards.filter fun r => !(r.blk == w.blk && r.crew == w.crew) } }

/-- The read of an entry stands at the cluster port, charged there or waiting for the next interval (R358). -/
def State.sendShard (s : State) (w : TdUser) (va : Nat) : ShardRead × State :=
  match s.shardRead w va with
  | some r => (r, s)
  | none =>
    let cl := coreCluster (s.block w.blk).core
    let t := s.interval cl
    let pay := payFor (t.bud cl) [32]
    let r : ShardRead := { id := t.pipe.nextId, blk := w.blk, crew := w.crew, va := va, at' := t.now, paid := pay.2.isEmpty, value := none }
    let t := { t with pipe := { t.pipe with nextId := t.pipe.nextId + 1, shards := t.pipe.shards ++ [r] } }
    (r, if pay.2.isEmpty then t.setBud cl pay.1 else t.portWait cl pay.1 ⟨.shard, r.id, pay.2, t.now⟩)

/-- Read an entry of the shard table as a bypass load at its home slice. Poison is consumed (R336). -/
def State.shardEntry (s : State) (w : TdUser) (va : Nat) : Tried CellTrap Nat × State :=
  let core := (s.block w.blk).core
  let ctx := s.ctxOf w.blk
  Tried.andThen (xlateBad ((State.copyWalker core ctx).try s va)) fun x t =>
    if t.apertureHole (x.phys va) then (.bad (.xlate, some va), t)
    else
      let (r, t) := t.sendShard w va
      match r.value with
      | some v => (.ok v, t)
      | none =>
        if !r.paid then (.wait, t)
        else match t.touchVia { coreVia core 32 with at' := r.at' } x va (t.tenant ctx) x.ccls 0 .read with
          | none => (.wait, t)
          | some u =>
            let v := bytesToNat (u.homeBytes (x.home va) (x.phys va) 32)
            if u.homeBad (x.home va) (x.phys va) 32 then (.bad (.eccunc, none), u) else (.ok v, u.mapShard r.id fun r => { r with value := some v })

/-- Look a shard up from entry i on: SHOFF, or XLATE, which has no address where nothing matches. -/
def State.shardFrom (w : TdUser) (x : BitVec 2048) (c : List Nat) : Nat → Nat → State → Tried CellTrap Int × State
  | 0, _, s => (.bad (.xlate, none), s)
  | k + 1, i, s => Tried.andThen (s.shardEntry w ((s.ctx (s.ctxOf w.blk)).shtbase + 32 * i)) fun e t =>
    if shardMatches x e c then (.ok (sext (bits e 64 64) 64), t) else State.shardFrom w x c k (i + 1) t

/-- Is a dimension sharded? -/
def tdSharded (x : BitVec 2048) : Bool := (tdDims x).any fun d => decide (1 < tdShards x d)

/-- SHOFF(c) (R264): 0 where no dimension is sharded. -/
def State.shoff (w : TdUser) (x : BitVec 2048) (c : List Nat) (s : State) : Tried CellTrap Int × State :=
  if tdSharded x then State.shardFrom w x c (min 1024 (s.ctx (s.ctxOf w.blk)).shtlen) 0 s else (.ok 0, s)

/-- SHOFFs of several shards. A sharded descriptor of a context without a table has none (R375). -/
def State.shoffs (w : TdUser) (x : BitVec 2048) : List (List Nat) → State → Tried CellTrap (List (List Nat × Int)) × State
  | [], s => if tdSharded x && (s.ctx (s.ctxOf w.blk)).shtlen == 0 then (.bad (.xlate, none), s) else (.ok [], s)
  | c :: cs, s => Tried.andThen (State.shoff w x c s) fun v t => Tried.andThen (State.shoffs w x cs t) fun r u => (.ok ((c, v) :: r), u)

/-! ## Boxes (R264) -/

/-- Mixed-radix digits of a number, dimension 0 first. -/
def radixDigits : List Nat → Nat → List Nat
  | [], _ => []
  | r :: t, n => n % r :: radixDigits t (n / r)

/-- Coordinates of every cell of the box from an origin, in the order of the dense image. -/
def boxCells (x : BitVec 2048) (o : List Int) : List (List Int) :=
  (List.range (tdCount x)).map fun n =>
    ((tdDims x).zip (radixDigits ((tdDims x).map (tdCells x)) n)).map fun q =>
      o.getD q.1 0 + (if q.1 = 0 then (tdUnit x * q.2 : Nat) else q.2 : Nat)

/-- Is the element at global coordinates inside the tensor? -/
def tdInside (x : BitVec 2048) (c : List Int) : Bool :=
  ((tdDims x).zip c).all fun q => decide (0 ≤ q.2) && decide (q.2 < tdSize x q.1)
/-- Shard of an inside element, dimension by dimension. -/
def tdShard (x : BitVec 2048) (c : List Int) : List Nat := ((tdDims x).zip c).map fun q => q.2.toNat / tdPart x q.1

/-- Address of an inside element's cell, SHOFF given; and, for an I4 code, whether it is the high one. A pair of codes that straddles two shards is read
whole from the shard of its first code (log 52). -/
def tdAddr (x : BitVec 2048) (shoff : Int) (c : List Int) : Nat × Bool :=
  let l := fun (q : Nat × Int) => q.2.toNat % tdPart x q.1
  let a := ((tdDims x).zip c).foldl (fun (a : Int) q => a + ((if q.1 = 0 then l q / tdUnit x else l q : Nat) : Int) * tdStride x q.1)
    ((tdBase x : Int) + shoff)
  ((BitVec.ofInt 64 a).toNat, tdI4 x && (l (0, c.headD 0)) % 2 == 1)

/-- Addresses of the cells, none outside the tensor. -/
def cellAddrs (x : BitVec 2048) (sh : List (List Nat × Int)) (cells : List (List Int)) : List (Option (Nat × Bool)) :=
  cells.map fun c =>
    if tdInside x c then some (tdAddr x (((sh.find? fun e => e.1 == tdShard x c).map fun e => e.2).getD 0) c) else none

/-! ## Translations of a copy (R268) -/

/-- Physical address of an address under translations. -/
def trPa (trs : List Xlate) (ctx va : Nat) : Option Nat := (trs.find? fun x => x.hits ctx va).map fun x => x.phys va
/-- Home slice of a physical address under translations; that of a physical access where none covers it. -/
def State.trHome (s : State) (trs : List Xlate) (pa : Nat) : Nat :=
  match trs.find? fun x => decide (x.pa ≤ pa) && decide (pa < x.pa + 2 ^ x.size) with
  | some x => homeSlice x.ilv x.sel (lineOf pa)
  | none => let e := s.physIlv pa; homeSlice e.1 e.2 (lineOf pa)

/-- Take the translations of addresses: those taken, or the first address that does not translate. A line of the pin aperture that no
SCRATCH pin backs does not (R72). -/
def State.takeTrs (xl : Walker) (ctx : Nat) : List Nat → List Xlate → State → Tried Nat (List Xlate) × State
  | [], trs, s => (.ok trs, s)
  | va :: vas, trs, s =>
    match trs.find? fun x => x.hits ctx va with
    | some x => if s.apertureHole (x.phys va) then (.bad va, s) else State.takeTrs xl ctx vas trs s
    | none => Tried.andThen (xl.try s va) fun x t => if t.apertureHole (x.phys va) then (.bad va, t) else State.takeTrs xl ctx vas (trs ++ [x]) t

/-- Offsets from BASE + SHOFF of the lowest and highest byte that an element inside SIZE of one shard can reach (R265). -/
def tdReach (x : BitVec 2048) : Int × Int :=
  let top := fun (d : Nat) => (((if d = 0 then (tdPart x 0 + tdUnit x - 1) / tdUnit x else tdPart x d) - 1 : Nat) : Int) * tdStride x d
  ((tdDims x).foldl (fun a d => a + min 0 (top d)) 0, (tdDims x).foldl (fun a d => a + max 0 (top d)) 0 + (cellBytes (tdFmt x) : Int) - 1)

/-- Every shard of a descriptor. -/
def tdShardList (x : BitVec 2048) : List (List Nat) :=
  let rs := (tdDims x).map (tdShards x)
  (List.range (rs.foldl (· * ·) 1)).map (radixDigits rs)

/-! ## TDMK's result (R265) -/

/-- The checked ranges of a VALIDATE descriptor: BOUNDS, then XLATE and PROT. -/
def State.tdRanges (xl : Walker) (x : BitVec 2048) : List (List Nat × Int) → List Xlate → State → Tried CellTrap (List Xlate) × State
  | [], trs, s => (.ok trs, s)
  | c :: cs, trs, s =>
    let r := tdReach x
    let base := (tdBase x : Int) + c.2
    let va := fun (o : Int) => (BitVec.ofInt 64 (base + o)).toNat
    if r.1 < 0 then (.bad (.bounds, some (va r.1)), s)
    else if (tdExtent x : Int) ≤ r.2 then (.bad (.bounds, some (va r.2)), s)
    else Tried.andThen (xlateBad (rangeTrs xl (r.2.toNat / 2 ^ 15 + 2) (va r.1) (va r.1 + r.2.toNat) s)) fun ts t =>
      match ts.find? fun y => !y.r with
      | some y => (.bad (.prot, some (max y.va (va r.1))), t)
      | none => State.tdRanges xl x cs (trs ++ ts.filter fun y => !(trs.contains y)) t

/-- TDMK's checks of an image for a crew or feed context: the descriptor, or the fault. -/
def State.tdMake (s : State) (w : TdUser) (x : BitVec 2048) : Tried CellTrap TDesc × State :=
  let ctx := s.ctxOf w.blk
  let core := (s.block w.blk).core
  let td : TDesc := { blk := w.blk, handle := 0, image := x, valid := (s.ctx ctx).validate, wOk := false, trs := [], shoffs := [] }
  if tdInvalid x then (.bad (.illop, none), s)
  else if !(s.ctx ctx).validate then (.ok td, s)
  else Tried.andThen (State.shoffs w x (tdShardList x) s) fun sh t =>
    Tried.andThen (State.tdRanges (State.copyWalker core ctx) x sh [] t) fun trs u =>
      (.ok { td with wOk := trs.all fun y => y.w, trs := trs, shoffs := sh }, u)

/-- The lowest free handle of a block. -/
def State.freeHandle (s : State) (b : Nat) : Option Nat := (List.range 32).find? fun h => !(s.sp.tds.any fun t => t.blk == b && t.handle == h)
/-- Descriptor of a handle. -/
def State.tdesc (s : State) (b h : Nat) : Option TDesc := s.sp.tds.find? fun t => t.blk == b && t.handle == h

end Sys2Proof.Machine
end

