-- ==== Sys2Proof/Machine/Copy.lean ====
section
/-!
DEFINITION. The copy instructions, TDMK, TDFREE and FEND, opcodes 0xA6 to 0xAF (spec/17_isa_matrix.md R263 to R277; spec/18 R301), as
far as their issue goes; what the engines do stands in Machine/Engines.lean.
-/
namespace Sys2Proof.Machine

/-! ## What copies share (R267, R268) -/

/-- A fault of a copy at its issue. -/
def State.copyTrap (s : State) (c : Trap) (va : Nat) : State := s.takeTrap { cls := c, va := va, lane := lowLane s.sch.cur.members, words := 2 }
/-- A fault to which the manual gives no address: a free value (log 3). -/
def State.copyTrapFree (s : State) (c : Trap) : State := s.drawn.copyTrap c s.freshValue.toNat

/-- Descriptor that k-register a + j names. -/
def State.copyTd (s : State) (a : Field) (j : Nat) : Option TDesc := s.tdesc s.sch.cur.blk (s.opK a j).toNat
/-- Rank of the descriptor that k-register a names, 0 for none. -/
def State.copyRank (s : State) (a : Field) : Nat := ((s.copyTd a 0).map fun t => tdRank t.image).getD 0
/-- Origin of n coordinates from k-register a + j, signed. -/
def State.copyOrigin (s : State) (a : Field) (j n : Nat) : List Int := (List.range n).map fun i => (s.opK a (j + i)).toInt

/-- Issue of a copy whose group has n registers. -/
def copyIssue (a : Field) (n : Nat) (s : State) : Issue := { words := 2, bound := .crew, feed := true, keys := s.fieldKeys a true n }

/-- Addresses and translations of a copy's cells. -/
structure CellTrs where
  cells : List (Option (Nat × Bool))
  trs : List Xlate
deriving DecidableEq, Repr

/-- Bytes of a cell's addresses. -/
def cellVas (es : Nat) (c : Option (Nat × Bool)) : List Nat := match c with
  | some a => (List.range es).map fun i => a.1 + i
  | none => []

/-- Steps 5 and 6 of Table 17.12 over the cells of a descriptor: translations, then R of a source or W of a destination. -/
def State.cellTrs (td : TDesc) (write : Bool) (cells : List (List Int)) (s : State) : Tried CellTrap CellTrs × State :=
  let ctx := s.ctxOf td.blk
  let core := (s.block td.blk).core
  let x := td.image
  if td.valid then (if write && !td.wOk then .bad (.prot, none) else .ok ⟨cellAddrs x td.shoffs cells, td.trs⟩, s)
  else Tried.andThen (State.shoffs ⟨td.blk, s.sch.cur.crew⟩ x (dedup ((cells.filter (tdInside x)).map (tdShard x))) s) fun sh t =>
    let as := cellAddrs x sh cells
    let vas := as.flatMap (cellVas (cellBytes (tdFmt x)))
    Tried.andThen (xlateBad (State.takeTrs (State.copyWalker core ctx) ctx vas [] t)) fun trs u =>
      match vas.find? fun va => trs.any fun t => t.hits ctx va && !(if write then t.w else t.r) with
      | some va => (.bad (.prot, some va), u)
      | none => (.ok ⟨as, trs⟩, u)

/-- The issuing copy has done with the shard table (R375). -/
def State.shardsDone (s : State) : State := s.dropShards ⟨s.sch.cur.blk, s.sch.cur.crew⟩

/-- Go on with what a copy's checks gave; the copy waits for a walk, a line or its cluster's budget, or takes the fault. -/
def afterCells {α : Type} (r : Tried CellTrap α × State) (act : α → State → State) : State := match r with
  | (.ok x, t) => act x t
  | (.wait, t) => t.park .crew 0
  | (.bad (.eccunc, _), t) => t.shardsDone.takeTrap { cls := .eccunc }
  | (.bad (c, some va), t) => t.shardsDone.copyTrap c va
  | (.bad (c, none), t) => t.shardsDone.copyTrapFree c

/-- Act on the cells of a box, or take the fault. -/
def State.withCells (s : State) (td : TDesc) (write : Bool) (cells : List (List Int)) (act : CellTrs → State → State) : State :=
  afterCells (s.cellTrs td write cells) act

/-- Steps 5 and 6 over the cells of a source and of a destination: XLATE of either comes before PROT (Table 17.12). -/
def State.cellTrs2 (s : State) (src : TDesc) (from' : List (List Int)) (dst : TDesc) (to' : List (List Int)) :
    Tried CellTrap (CellTrs × CellTrs) × State :=
  let a := State.cellTrs src false from' s
  let b := State.cellTrs dst true to' a.2
  match a.1, b.1 with
  | .ok x, .ok y => (.ok (x, y), b.2)
  | .wait, _ => (.wait, a.2)
  | .bad (.prot, _), .bad (.xlate, va2) => (.bad (.xlate, va2), b.2)
  | .bad (.prot, _), .wait | .ok _, .wait => (.wait, b.2)
  | .bad e, _ => (.bad e, b.2)
  | .ok _, .bad e => (.bad e, b.2)

/-- Physical addresses of the dense image's bytes, none outside the tensor. -/
def CellTrs.pas (x : CellTrs) (ctx es : Nat) : List (Option Nat) :=
  x.cells.flatMap fun c => match c with
    | some a => (List.range es).map fun i => trPa x.trs ctx (a.1 + i)
    | none => List.replicate es none

/-- Split a run of items at an offset into parts that end at multiples of 64: offset and items. -/
def lineSplit {α : Type} : Nat → Nat → List α → List (Nat × List α)
  | 0, _, _ => []
  | k + 1, off, l =>
    if l.isEmpty then []
    else
      let n := 64 - off % 64
      (off, l.take n) :: lineSplit k (off + n) (l.drop n)

/-- Parts of a run by scratchpad line. -/
def byLine {α : Type} (off : Nat) (l : List α) : List (Nat × List α) := lineSplit (l.length / 64 + 2) off l

/-- Fork a copy (R99, R268): its flag is pending; the lines it writes lose their presence bits (R269). -/
def State.forkCopy (s : State) (e : Engine) : State :=
  let u := s.sch.cur
  let id := s.pipe.nextId
  let t := s.shardsDone.addPend { Pend.blank with blk := u.blk, crew := u.crew, flag := s.setb, seta := false, parts := 1, pc := u.pc }
  let absent := e.moves.foldl (fun m v => match v with
    | .spadFromMem bs off _ => bs.foldl (fun m b => let k := spadKey b off / 64; mput 0 m k (mget 0 m k + 1)) m
    | _ => m) t.sp.absent
  let t := { t with sp := { t.sp with absent := absent } }
  ((t.fork { e with blk := u.blk, crew := u.crew, pend := id }).reservePanels).advance 2

/-- A copy waits for its crew's accesses (R99) and then forks. -/
def State.startCopy (s : State) (e : Engine) : State :=
  if s.forkWaits then s.park .again 0 else s.forkCopy e

/-- Step 1 of Table 17.12 for n bytes at S. -/
def State.spadRange (s : State) (o n : Nat) (act : State → State) : State :=
  if o % 64 ≠ 0 then s.copyTrap .misalign o
  else if (s.launchOf s.sch.cur.blk).scratch < o + n then s.copyTrap .bounds o
  else act s

/-- A copy with the descriptor of k-register a. -/
def State.withTd (s : State) (a : Field) (j : Nat) (act : TDesc → State) : State := match s.copyTd a j with
  | some td => act td
  | none => s.illop 2 false

/-! ## Into scratchpad: CPY, CPYM, CPYIX -/

/-- Parts of a run at an offset by the line that its addresses lie in. -/
def bySource : Nat → List (Option Nat) → List (Nat × List (Option Nat))
  | _, [] => []
  | off, p :: t => match bySource (off + 1) t with
    | (o, q :: qs) :: r => if (p.map lineOf) == q.map lineOf then (off, p :: q :: qs) :: r else (off, [p]) :: (o, q :: qs) :: r
    | r => (off, [p]) :: r

/-- Moves that write a dense image into the areas of blocks at S, each byte read once for all of them (R271). -/
def imageMoves (blks : List Nat) (o : Nat) (pas : List (Option Nat)) : List Move :=
  (byLine o pas).flatMap fun p => (bySource p.1 p.2).map fun q => .spadFromMem blks q.1 q.2

/-- Copy the box into areas of blocks. -/
def State.copyIn (s : State) (td : TDesc) (a : Field) (blks : List Nat) : State :=
  let x := td.image
  s.withCells td false (boxCells x (s.copyOrigin a 2 (tdRank x))) fun c s =>
    s.startCopy { Engine.blank with moves := imageMoves blks (s.opK a 1).toNat (c.pas (s.ctxOf td.blk) (cellBytes (tdFmt x))), trs := c.trs }

/-- Does an origin along dimension 0 suit the format (R263)? An odd one of I4 codes is ILLOP. -/
def originOdd (x : BitVec 2048) (o : List Int) : Bool := tdI4 x && o.headD 0 % 2 != 0

/-- A box copy: handle, origin, then the rest. -/
def State.withBox (s : State) (a : Field) (act : TDesc → State) : State :=
  s.withTd a 0 fun td => if originOdd td.image (s.copyOrigin a 2 (tdRank td.image)) then s.illop 2 false else act td

/-- CPY (R270). -/
def execCpy (a : Field) (m : CopyMod) (s : State) : Host.Outcome State Fault Refusal :=
  issue (.cpy a m) (copyIssue a (2 + s.copyRank a) s) s fun t =>
    t.withBox a fun td => t.spadRange (t.opK a 1).toNat (tdBytes td.image) fun t => t.copyIn td a [t.sch.cur.blk]

/-- CPYM's effect: the members that MASK names; one that is swapped out makes the issuer wait. -/
def State.copyMembers (s : State) (a : Field) (m : CopyMod) : State :=
  s.withBox a fun td => s.spadRange (s.opK a 1).toNat (tdBytes td.image) fun t =>
    let named := ((List.range 8).filter m.mask.getLsbD).map (t.memberOf t.sch.cur.blk)
    if named.any fun x => x.isNone then t.copyTrap .peergone 0
    else
      let blks := named.filterMap id
      if blks.any fun b => !(t.block b).st.resident then t.park .crew 0 else t.copyIn td a blks

/-- CPYM (R271). It writes outside the block's own scratchpad: a commit point (R343), with nothing for the signature (R342). -/
def execCpym (a : Field) (m : CopyMod) (s : State) : Host.Outcome State Fault Refusal :=
  issue (.cpym a m) (copyIssue a (2 + s.copyRank a) s) s fun t => t.atCommitBoth (fun _ => []) fun t => t.copyMembers a m

/-- Pitch of gathered rows (R273). -/
def rowPitch (bytes : Nat) : Nat := 4 * (32 * ((bytes + 127) / 128) + 1)

/-- Row indices of CPYIX (R273). -/
def State.copyRows (s : State) (m : CopyMod) : List Nat :=
  let u := s.sch.cur
  (List.range (m.ixc.toNat + 1)).map fun t =>
    if m.ixv = 1 then (s.regs.vcell u.blk u.crew ((s.regs.crewSt u.blk u.crew).wb + m.ix.toNat) t).toNat
    else (s.regs.kreg u.blk u.crew (m.ix.toNat + t)).toNat

/-- CPYIX's effect: rank 2, the scratchpad range, the indices, the translations. The range ends with the last row's bytes, and a line that only a gap
between rows touches keeps its presence bit (log 52). -/
def State.copyIx (s : State) (a : Field) (m : CopyMod) : State :=
  s.withTd a 0 fun td =>
    let x := td.image
    let o := s.copyOrigin a 2 1
    let es := cellBytes (tdFmt x)
    let n := tdCells x 0
    let rows := s.copyRows m
    let pitch := rowPitch (n * es)
    let base := (s.opK a 1).toNat
    if tdRank x ≠ 2 || originOdd x o then s.illop 2 false
    else s.spadRange base (m.ixc.toNat * pitch + n * es) fun s =>
      if rows.any fun r => tdSize x 1 ≤ r then s.copyTrapFree .bounds
      else
        let cells : List (List Int) := rows.flatMap fun (r : Nat) => (List.range n).map fun (i : Nat) => [o.headD 0 + ((tdUnit x * i : Nat) : Int), (r : Int)]
        s.withCells td false cells fun c s =>
          let pas := c.pas (s.ctxOf td.blk) es
          let moves := (List.range rows.length).flatMap fun t =>
            imageMoves [s.sch.cur.blk] (base + t * pitch) ((pas.drop (t * n * es)).take (n * es))
          s.startCopy { Engine.blank with moves := moves, trs := c.trs }

/-- Keys of CPYIX's indices. -/
def State.ixKeys (s : State) (m : CopyMod) : List RegKey :=
  let u := s.sch.cur
  if m.ixv = 1 then [.cell u.blk u.crew ((s.regs.crewSt u.blk u.crew).wb + m.ix.toNat)]
  else (List.range (m.ixc.toNat + 1)).map fun j => .k u.blk u.crew (m.ix.toNat + j)

/-- CPYIX (R273): indices in a vector register need a whole crew, and are ILLOP in a feed thread. -/
def execCpyix (a : Field) (m : CopyMod) (s : State) : Host.Outcome State Fault Refusal :=
  issue (.cpyix a m)
    { words := 2, bound := if m.ixv = 1 then .whole else .crew, feed := m.ixv == 0, keys := s.fieldKeys a true 3 ++ s.ixKeys m } s fun t =>
    t.copyIx a m

/-! ## Into operand queues: CPYQ, SMELT -/

/-- QUEUE at a copy (Table 17.12 step 4): an undeclared window, a panel that does not fit, or another quarter named by a crew. -/
def State.copyQueue (s : State) (m : CopyMod) (fits : Nat → Bool) (act : State → State) : State :=
  let u := s.sch.cur
  if s.winDepth u.blk m.qn.toNat = 0 || !(fits (s.winPanel u.blk m.qn.toNat)) || (!u.feed && m.qtr.toNat != s.curQtr) then s.copyTrap .queue 0
  else act s

/-- Panels of an engine for a window with a consumer; without one they are discarded (R244). So are those of an instruction that issues after the last
consumer has exited (log 52). -/
def State.panelsFor (s : State) (m : CopyMod) (ps : List Panel) : List Panel :=
  if s.consumerBound s.sch.cur.blk m.qtr.toNat m.qn.toNat then ps else []

/-- Consecutive parts of n items. -/
def chunksOf {α : Type} (n : Nat) (l : List α) : List (List α) := (List.range (l.length / n)).map fun i => (l.drop (n * i)).take n

/-- CPYQ (R272): the dense image as consecutive panels. -/
def execCpyq (a : Field) (m : CopyMod) (s : State) : Host.Outcome State Fault Refusal :=
  issue (.cpyq a m) (copyIssue a (2 + s.copyRank a) s) s fun t =>
    t.withBox a fun td =>
      let x := td.image
      t.copyQueue m (fun p => tdBytes x % p == 0) fun t =>
        t.withCells td false (boxCells x (t.copyOrigin a 2 (tdRank x))) fun c t =>
          let parts := chunksOf (t.winPanel t.sch.cur.blk m.qn.toNat) (c.pas (t.ctxOf td.blk) (cellBytes (tdFmt x)))
          let ps := parts.map fun p => ({ qtr := m.qtr.toNat, q := m.qn.toNat, entry := none, pas := p, kv := none } : Panel)
          t.startCopy { Engine.blank with panels := t.panelsFor m ps, trs := c.trs }

/-- Panels of a page (R276): token block, and within it channel block. -/
def pagePanels (m : CopyMod) (ch page : Nat) : List Panel :=
  (List.range 2).flatMap fun tb => (List.range ((ch + 31) / 32)).map fun cb =>
    { qtr := m.qtr.toNat, q := m.qn.toNat, entry := none, pas := [], kv := some (page, tb, cb, m.val == 1) }

/-- Panels of the pages of a list, in its order. -/
def smeltPanels (m : CopyMod) (ch : Nat) (ids : List Nat) : List Panel :=
  ((List.range ids.length).zip ids).flatMap fun e => (pagePanels m ch e.2).map fun p => { p with item := e.1 }

/-- Raise the heat of a page by 1, at most to 15 (R295); a free page has none. -/
def State.heatUp (s : State) (ctx p : Nat) : State :=
  let x := s.page ctx p
  if x.st == .free then s else { s with kv := { s.kv with pages := mput .init s.kv.pages (pageKey ctx p) { x with heat := min 15 (x.heat + 1) } } }

/-- A page list in scratchpad. -/
def State.pageList (s : State) (b o n : Nat) : List Nat := (List.range n).map fun i => bytesToNat (s.sp.read b (o + 4 * i) 4)

/-- SMELT once its checks have passed (R276, R301): the list is read, all of it at issue by the model's choice (log 24); an id at or above the quota is logged
and yields no panel. -/
def State.smelt (s : State) (m : CopyMod) (o n : Nat) : State :=
  let u := s.sch.cur
  let ctx := s.ctxOf u.blk
  let lead := ((s.pairOf u.blk).map fun p => p.primary == u.blk).getD true
  if s.forkWaits || s.lineAbsent u.blk o (4 * n) then s.park .again 0
  else
    let ids := s.pageList u.blk o n
    let ok := fun (p : Nat) => decide (p < s.quota ctx)
    let t := ids.foldl (fun t p =>
      if ok p then (if lead then t.heatUp ctx p else t) else t.logViolation u.blk p u.pc 0 0 3) s
    let ps := smeltPanels m (((s.reserve ctx).map fun r => r.ch).getD 0) (ids.filter ok)
    t.startCopy { Engine.blank with panels := t.panelsFor m ps }

/-- SMELT (R276). -/
def execSmelt (a : Field) (m : CopyMod) (s : State) : Host.Outcome State Fault Refusal :=
  issue (.smelt a m) { copyIssue a 2 s with feedOnly := true } s fun t =>
    let o := (t.opK a 0).toNat
    let n := (t.opK a 1).toNat
    if 4096 < n then t.illop 2 false
    else if o % 4 ≠ 0 then t.copyTrap .misalign o
    else if (t.launchOf t.sch.cur.blk).scratch < o + 4 * n then t.copyTrap .bounds o
    else t.copyQueue m (fun p => p == 2048) fun t => t.smelt m o n

/-! ## Out to memory: CPYS, TXPOSE -/

/-- A copy's record for the signature (R342): the images of its descriptors, which the k-registers of `descs` name, and the operands. -/
def State.copyRecord (s : State) (a : Field) (descs : List Nat) (n : Nat) : List Byte :=
  (descs.flatMap fun j => ((s.copyTd a j).map fun t => natToBytes 256 t.image.toNat).getD []) ++ (List.range n).flatMap fun j => natToBytes 4 (s.opK a j).toNat

/-- Consecutive items of one line joined: offset, addresses. -/
def joinLines : List (Nat × Nat) → List (Nat × List Nat)
  | [] => []
  | (o, p) :: t => match joinLines t with
    | (o2, p2 :: ps) :: r => if o2 = o + 1 && p2 = p + 1 && p2 / 64 = p / 64 then (o, p :: p2 :: ps) :: r else (o, [p]) :: (o2, p2 :: ps) :: r
    | r => (o, [p]) :: r

/-- Moves of CPYS (R274): the bytes of the image at S inside the tensor, line by line of memory. -/
def outMoves (b o : Nat) (pas : List (Option Nat)) : List Move :=
  let put := ((List.range pas.length).zip pas).filterMap fun e => e.2.map fun p => (e.1, p)
  (joinLines put).map fun e => .memFromSpad b (o + e.1) (e.2.map some)

/-- CPYS's effect; its engine waits for absent lines of its source (R269). -/
def State.copyOut (s : State) (a : Field) : State :=
  s.withBox a fun td =>
    let x := td.image
    let o := (s.opK a 1).toNat
    s.spadRange o (tdBytes x) fun s =>
      s.withCells td true (boxCells x (s.copyOrigin a 2 (tdRank x))) fun c s =>
        s.startCopy { Engine.blank with moves := outMoves s.sch.cur.blk o (c.pas (s.ctxOf td.blk) (cellBytes (tdFmt x))), trs := c.trs }

/-- CPYS (R274): a commit point of guarded launches. -/
def execCpys (a : Field) (m : CopyMod) (s : State) : Host.Outcome State Fault Refusal :=
  issueCommit (.cpys a m) (copyIssue a (2 + s.copyRank a) s) s (fun t => t.oneRecord (t.copyRecord a [0] (2 + t.copyRank a))) fun t => t.copyOut a

/-- Move of one transposed element: its cell, or for I4 its code. -/
def transMove (ctx es : Nat) (i4 : Bool) (src dst : CellTrs) (i : Nat) : List Move :=
  match dst.cells.getD i none with
  | none => []
  | some d =>
    let from' := src.cells.getD i none
    if i4 then match trPa dst.trs ctx d.1 with
      | some p => [.codeFromMem (from'.bind fun f => (trPa src.trs ctx f.1).map fun q => (q, f.2)) (p, d.2)]
      | none => []
    else
      let pas := fun (x : CellTrs) (c : Option (Nat × Bool)) => match c with
        | some a => (List.range es).map fun j => trPa x.trs ctx (a.1 + j)
        | none => List.replicate es none
      [.memFromMem (pas src from') (pas dst (some d))]

/-- TXPOSE's effect (R275). -/
def State.transpose (s : State) (a : Field) : State :=
  s.withTd a 0 fun h => s.withTd a 1 fun h2 =>
    let x := h.image
    let y := h2.image
    if tdRank x ≠ 2 || tdRank y ≠ 2 || tdFmt x ≠ tdFmt y then s.illop 2 false
    else if originOdd x (s.copyOrigin a 2 2) || originOdd y (s.copyOrigin a 4 2) then s.illop 2 false
    else if 65536 < tdBytes x then s.copyTrapFree .bounds
    else
      let o := s.copyOrigin a 2 2
      let p := s.copyOrigin a 4 2
      let bs := (List.range (tdBox x 1)).flatMap fun j => (List.range (tdBox x 0)).map fun i => (i, j)
      let at' := fun (c : List Int) (i j : Nat) => [c.getD 0 0 + (i : Int), c.getD 1 0 + (j : Int)]
      afterCells (s.cellTrs2 h (bs.map fun b => at' o b.1 b.2) h2 (bs.map fun b => at' p b.2 b.1)) fun c s =>
        let moves := (List.range bs.length).flatMap (transMove (s.ctxOf h.blk) (cellBytes (tdFmt x)) (tdI4 x) c.1 c.2)
        s.startCopy { Engine.blank with moves := moves, trs := c.1.trs ++ c.2.trs }

/-- TXPOSE (R275): a commit point of guarded launches. -/
def execTxpose (a : Field) (m : CopyMod) (s : State) : Host.Outcome State Fault Refusal :=
  issueCommit (.txpose a m) (copyIssue a 6 s) s (fun t => t.oneRecord (t.copyRecord a [0, 1] 6)) fun t => t.transpose a

/-! ## TDMK, TDFREE, FEND -/

/-- TDMK's effect at issue (R265): a bypass load of 256 bytes, for which the crew or feed context waits; it sets no flag (Table 9.2). -/
def State.tdmk (s : State) (d a : Field) (m : MemMod) : State :=
  let u := s.sch.cur
  let c := u.crew
  let pol := s.pol m c
  let va := (BitVec.ofInt 64 ((s.regs.kval u.blk c a.num true).toNat + memOff m)).toNat
  let x : Member := ⟨lowLane u.members, c⟩
  if s.polIllop m false true then s.illop 2 false
  else if va % 256 ≠ 0 then s.copyTrap .misalign va
  else match s.checkLanes 64 2 { r := true } ((List.range 4).map fun i => (x, va + 64 * i)) [] with
    | .trap i => s.takeTrap i
    | .miss t => t.park .crew 0
    | .ok t lanes _ =>
      let acc : LaneAcc := ⟨x, va, ((List.range 4).zip lanes).flatMap fun e => e.2.parts.map fun p => { p with off := p.off + 64 * e.1 }⟩
      if t.loadBlocked [acc] then s.park .again 0
      else
        let t2 := (t.addPend { Pend.blank with
          blk := u.blk, crew := c, flag := 0, regs := [.k u.blk c d.num], plan := .tdmk d.num, lanes := t.laneLoads [acc]
          parts := acc.parts.length, isRead := true, pc := u.pc, acq := acqOf pol }).loadParts t.pipe.nextId t.pipe.nextId (t.homeLines (fun _ => bypass pol) [acc])
          (fun _ => bypass pol) [acc]
        t2.park (.pend t.pipe.nextId) 2

/-- TDMK (R265). -/
def execTdmk (d a : Field) (m : MemMod) (s : State) : Host.Outcome State Fault Refusal :=
  issue (.tdmk d a m)
    { words := 2, bound := .crew, feed := true, keys := s.fieldKeys d true 1 ++ s.fieldKeys a true 2 ++ s.polKeys m.pol.toNat } s fun t => t.tdmk d a m

/-- TDFREE (R266). -/
def execTdfree (a : BitVec 6) (s : State) : Host.Outcome State Fault Refusal :=
  issue (.tdfree a) { bound := .crew, feed := true, keys := [.k s.sch.cur.blk s.sch.cur.crew a.toNat] } s fun t =>
    let h := (t.regs.kreg t.sch.cur.blk t.sch.cur.crew a.toNat).toNat
    if 32 ≤ h then t.illop 1 false
    else { t with sp := { t.sp with tds := t.sp.tds.filter fun x => !(x.blk == t.sch.cur.blk && x.handle == h) } }.advance 1

/-- FEND (R277, R32): the feed thread ends. -/
def execFend (s : State) : Host.Outcome State Fault Refusal :=
  issue .fend { feed := true, feedOnly := true } s fun t =>
    let b := t.sch.cur.blk
    ((t.dropCur).stopFeed b).noteOver b

end Sys2Proof.Machine
end

