-- ==== Sys2Proof/Machine/Ports.lean ====
section
/-!
DEFINITION. What the issue stage of a quarter asks of an instruction before it issues: its path (spec/09 R114; spec/15 R207), the ports of
the uniform bank that it takes (spec/23 R310), and the shared unit of the core that it needs (spec/23 R311; Table 11.1).
-/
namespace Sys2Proof.Machine

/-- A unit that the quarters of a core share (R311). -/
inductive CoreUnit where
  | sfu
  /-- The load/store port. -/
  | port
deriving DecidableEq, Repr

/-- Number of a unit in the keys of `Sched.grant`. -/
def CoreUnit.num : CoreUnit → Nat
  | .sfu => 0
  | .port => 1

/-- The needs of an instruction at issue. -/
structure Needs where
  /-- It issues on the uniform path (R114). -/
  uniform : Bool := false
  /-- Ports of the uniform bank (R310). -/
  ports : Nat := 0
  unit : Option CoreUnit := none
deriving DecidableEq, Repr

/-- Port of an a field: a k-register. -/
def aPort (a : Field) : Nat := if a.isK then 1 else 0
/-- Port of a b field: on the uniform path a k-register, where it is no constant (Table 9.4). -/
def bPort (uniform : Bool) (b : Field) : Nat := if uniform && !b.isK then 1 else 0

/-- Sources a and b; on the uniform path d too where the form reads it (R141). -/
def needs3 (d a b : Field) (readsD : Bool) : Needs :=
  { uniform := d.isK, ports := aPort a + bPort d.isK b + if d.isK && readsD then 1 else 0 }
/-- The same with the carry in a q-register (R146). -/
def needsCarry (d a b : Field) : Needs := { needs3 d a b false with ports := (needs3 d a b false).ports + if d.isK then 1 else 0 }
/-- One source. -/
def needs1 (d a : Field) : Needs := { uniform := d.isK, ports := aPort a }
/-- A compare: the path bit says which. -/
def needsCmp (path : BitVec 1) (a b : Field) : Needs := { uniform := path == 1, ports := aPort a + bPort (path == 1) b }
/-- A division: the SFU on the vector path, a divider of its own on the uniform path (Table 11.1). -/
def needsDiv (d a b : Field) : Needs := { needs3 d a b false with unit := if d.isK then none else some .sfu }
/-- A special function. -/
def needsSfu (d a : Field) : Needs := { needs1 d a with unit := some .sfu }
/-- A crew operation: its sources, and MK (Table 13.1). -/
def needsCrew (ports : Nat) (m : CrewMod) : Needs := { ports := ports + if m.some = 1 then 1 else 0 }
/-- A memory instruction: its address field, the policy register, and `more` groups. -/
def needsMem (uniform : Bool) (a : Field) (more : Nat) : Needs := { uniform := uniform, ports := aPort a + 1 + more, unit := some .port }
/-- An instruction of the uniform path that reads n registers or groups. -/
def needsK (n : Nat) : Needs := { uniform := true, ports := n }
/-- An MMA: the valid row count (Table 17.5). -/
def needsMma (m : MmaMod) : Needs := { ports := if m.vce = 1 then 1 else 0 }

/-- The needs of an instruction (R310, R311). Which operands count, and that P2V's k form takes one port though it reads q0 to q3, is the model's choice
(log 46). -/
def needsOf : Instr → Needs
  | .imad d a b _ | .imad64 d a b _ | .lea d a b _ | .lea64 d a b _ | .fshl d a b _ | .fshr d a b _ | .bfi d a b _ | .bytep d a b _ |
    .ffma d a b _ | .hfma2 d a b _ | .bfma2 d a b _ | .dfma d a b _ => needs3 d a b true
  | .iadd d a b _ | .isub d a b _ | .imul d a b _ | .imulhs d a b _ | .imulhu d a b _ | .imin d a b _ | .imax d a b _ | .iminu d a b _ |
    .imaxu d a b _ | .iadd64 d a b _ | .isub64 d a b _ | .imul64 d a b _ | .and d a b _ | .or d a b _ | .xor d a b _ | .andn d a b _ |
    .orn d a b _ | .shl d a b _ | .shr d a b _ | .sar d a b _ | .rotl d a b _ | .bfe d a b _ | .fadd d a b _ | .fsub d a b _ |
    .fmul d a b _ | .fmin d a b _ | .fmax d a b _ | .fscl d a b _ | .hadd2 d a b _ | .hmul2 d a b _ | .hmin2 d a b _ | .hmax2 d a b _ |
    .badd2 d a b _ | .bmul2 d a b _ | .bmin2 d a b _ | .bmax2 d a b _ | .dadd d a b _ | .dmul d a b _ => needs3 d a b false
  | .iaddc d a b _ | .isubb d a b _ | .sel d a b _ => needsCarry d a b
  | .idiv d a b _ | .idivu d a b _ | .irem d a b _ | .iremu d a b _ => needsDiv d a b
  | .iabs d a _ | .popc d a _ | .clz d a _ | .clz64 d a _ | .brev d a _ | .fclass d a _ | .mov d a _ | .frnd d a _ _ | .pack2 d a _ _ |
    .cvtf d a _ _ _ _ | .cvti d a _ _ _ _ => needs1 d a
  | .icmp p _ _ a b _ | .icmpu p _ _ a b _ | .fcmp p _ _ a b _ | .hcmp2 p _ _ a b _ | .bcmp2 p _ _ a b _ | .dcmp p _ _ a b _ => needsCmp p a b
  | .rcp d a _ | .rsq d a _ | .sqrt d a _ | .exp2 d a _ | .log2 d a _ | .sinp d a _ | .cosp d a _ | .tanh d a _ => needsSfu d a
  | .movi d _ _ | .movl d _ _ | .rdsr d _ _ => { uniform := d.isK }
  | .p2v d _ => { uniform := d.isK, ports := if d.isK then 1 else 0 }
  | .brau _ _ _ _ => needsK 1
  | .jmpi a _ | .calli a _ => { ports := aPort a }
  | .shfl _ a _ _ m | .cred _ a _ m | .cscan _ a _ m | .matchEq _ a _ m => needsCrew (aPort a) m
  | .vote _ _ m | .csync _ m => needsCrew 0 m
  | .plop p _ pb pa _ _ => if p = 1 then needsK (if pa = pb then 1 else 2) else {}
  | .v2p p a b _ => { uniform := p == 1, ports := aPort a + bPort (p == 1) b + if p = 1 then 1 else 0 }
  | .wrsr _ _ _ | .winbReg _ _ | .cancelId _ _ _ | .wqpush _ _ _ | .tdfree _ => needsK 1
  | .winbImm _ _ | .cpart _ _ | .cancelSelf _ _ | .wqpop _ _ _ | .qstat _ _ | .qstatFeed _ _ _ => needsK 0
  | .waitcmp _ _ a _ _ _ => { ports := aPort a + 1 }
  | .ld _ a _ _ _ | .st _ a _ _ | .lds _ a _ _ _ | .sts _ a _ _ | .stsm _ a _ _ _ | .ldp _ a _ _ _ | .stp _ a _ _ _ | .ldx _ a _ _ _ |
    .stm _ a _ _ _ | .atom _ a _ _ _ | .red _ a _ _ _ | .cas _ a _ _ _ | .pref a _ _ _ => needsMem false a 0
  | .ldk _ a _ _ _ => needsMem true a 0
  | .stk _ a _ _ | .atomk _ a _ _ _ => needsMem true a 1
  | .recld _ b _ _ => if b.getLsbD 0 then { needsK 2 with unit := some .port } else needsK 1
  | .invl1Line _ _ => { ports := 1 }
  | .pin _ _ _ _ | .unpin _ _ _ _ | .cctr _ _ _ _ | .stpart _ _ _ _ | .kvapp _ _ _ | .kvfork _ _ _ _ | .kvfree _ _ _ | .kvhm _ _ _ _ |
    .assay _ _ _ _ | .gread _ _ _ _ | .gcinch _ _ _ _ | .gdismt _ _ _ _ => needsK 1
  | .gupd _ _ _ _ _ | .gclose _ _ _ _ | .gmount _ _ _ _ _ | .tdmk _ _ _ => needsK 2
  | .mmab _ _ _ m | .mmah _ _ _ m | .mmai8 _ _ _ m | .mmai84 _ _ _ m | .mmai4 _ _ _ m => needsMma m
  | .aload _ a _ => { ports := aPort a }
  | .astore _ a _ m => { ports := aPort a + (if m.dst = 1 then 1 else 0) + if m.fmt = 3 then 1 else 0 }
  | .aexpb _ _ _ _ => { unit := some .sfu }
  | .cpy _ _ | .cpym _ _ | .cpyq _ _ | .smelt _ _ | .cpys _ _ | .txpose _ _ => needsK 1
  | .cpyix _ m => needsK (if m.ixv = 1 then 1 else 2)
  | _ => {}

/-- Is an instruction crew-bound (R22): of the uniform path, V2K among them, or one that awaits lanes of its crew? -/
def crewBound (i : Instr) : Bool := (needsOf i).uniform || awaitsOf i != .none

end Sys2Proof.Machine
end

