-- ==== Sys2Proof/Machine/Issue.lean ====
section
/-!
DEFINITION. The issue stage, barriers' resumption, waits and cancellation as events (spec/01 R17 to R20, R26, R30; spec/13 R178, R187,
R190, R192, R204, R206; spec/23 R317; spec/27 R355).
-/
namespace Sys2Proof.Machine

/-! ## The clock and the watchdog's count (R317) -/

/-- An event of a named cycle comes no earlier than that cycle. -/
def State.reach (s : State) (c : Nat) : State := { s with clk := { s.clk with gcyc := BitVec.ofNat 64 (max s.now c) } }

/-- Does a bundle wait at LBAR or WAITCMP? -/
def Wait.atLaunch : Wait → Bool
  | .lbar _ | .monitor _ => true
  | _ => false

/-- Are the watchdogs of a block stopped: it is placed, saved or restored, away for another reason than a wait at LBAR or WAITCMP, back from a
quota pre-emption and not yet issuing, or one of its crews is HALTED (R317, R361)? -/
def State.watchStops (s : State) (b : Nat) : Bool :=
  let x := s.block b
  (match x.st with
    | .running | .stopping => x.why == 3
    | .placed | .saving | .restoring | .complete => true
    | .draining | .swapped => x.why != 1) ||
  s.sch.faults.any fun f => f.blk == b && f.inspect

/-- Follow the stops of a block's watchdogs: what was not counted is added to the cycle of the last issue. -/
def State.watchSync (s : State) (b : Nat) : State :=
  let x := s.block b
  match x.exclAt with
  | none => if s.watchStops b then s.setBlock { x with exclAt := some s.now } else s
  | some t =>
    if s.watchStops b then s
    else
      let keys := (feedCrew :: s.crewList b).map (crewKey b)
      let h := keys.foldl (fun m k => mput 0 m k (mget 0 m k + (s.now - t))) s.sch.lastIssue
      { s with sch := { s.sch with lastIssue := h } }.setBlock { x with exclAt := none }

/-! ## Yoke gating (R352, R355) -/

/-- YOKESTAT after reset (Table 27.1). -/
def Yoke.init : Yoke := { pref := 0, glev := 0, blev := 0, iu := 0, il := 0, win := 0, past := [] }
/-- The yoke of a pair. -/
def State.yoke (s : State) (pair : Nat) : Yoke := mget .init s.pow.yoke pair
/-- Stacked pair of a cluster: die × 6 + j. -/
def pairOfCluster (cl : Nat) : Nat := cl / 2
/-- Gating level of a cluster under levels: 0 where PREF names it. -/
def gateLevel (cl pref glev : Nat) : Nat := if cl % 2 = pref then 0 else glev
/-- Is the issue of a core's quarters gated in this cycle: it stands in the heavier layer, and GCYC mod 8 is below GLEV? -/
def State.gated (s : State) (core : Nat) : Bool :=
  let y := s.yoke (pairOfCluster (coreCluster core))
  decide (s.now % 8 < gateLevel (coreCluster core) y.pref y.glev)
/-- May the bundle at issue not issue in this cycle (R355)? The AAE is not gated. -/
def State.curGated (s : State) : Bool := !s.sch.cur.feed && s.gated s.curCore

/-- Gated cycles before a cycle at level g. -/
def gatedBefore (g x : Nat) : Nat := g * (x / 8) + min (x % 8) g
/-- Gated cycles from cycle a until cycle b at level g. -/
def gatedSpan (g a b : Nat) : Nat := if a < b then gatedBefore g b - gatedBefore g a else 0
/-- Gated cycles of a cluster in the windows that ended before cycle b, from cycle a on. -/
def gatedPast (cl a : Nat) : List (Nat × Nat × Nat) → Nat
  | [] => 0
  | (b, pref, glev) :: t => gatedSpan (gateLevel cl pref glev) (max a ((t.head?.map fun x => x.1).getD 0)) b + gatedPast cl a t
/-- Gated cycles of a core from a cycle on until now. -/
def State.gatedSince (s : State) (core a : Nat) : Nat :=
  let cl := coreCluster core
  let y := s.yoke (pairOfCluster cl)
  gatedSpan (gateLevel cl y.pref y.glev) (max a ((y.past.head?.map fun x => x.1).getD 0)) s.now + gatedPast cl a y.past
/-- Waiting time from a cycle on: gated cycles do not count (R18, R355). -/
def State.waited (s : State) (core a : Nat) : Nat := s.now - a - s.gatedSince core a
/-- The cycle in which the waiting time from a cycle on reaches n. -/
def State.waitsUntil (s : State) (core a n : Nat) : Nat :=
  let y := s.yoke (pairOfCluster (coreCluster core))
  let g := gateLevel (coreCluster core) y.pref y.glev
  let rest := n - s.waited core a
  s.now + ((List.range (2 * rest + 9)).find? fun k => decide (rest + gatedSpan g s.now (s.now + k) ≤ k)).getD 0

/-! ## Candidates (R18, R19, R26) -/

/-- Are threads of a guarded block held back: the block waits at a comparison point, or its pair rolls back or takes a checkpoint (R343,
R345)? A bundle of a code that a match has let go on acts meanwhile. -/
def State.frozen (s : State) (b : Nat) (code : Option Nat) : Bool := match s.pairOf b with
  | none => false
  | some p => (s.block b).st != .stopping &&
    (p.restoring || (p.bad && !p.checking) || (p.arrived.any fun e => e.1 == b) || (p.checking && !(code.any fun c => p.go.contains (b, c))))

/-- Is a crew WAITING as a whole: for its WQ, TDMK, KVAPP or RECLD (R205, R224, R229, R265), on the scoreboard (R110), for what an instruction of it tests at
issue (R87, R211, R217, R218, R244), or at a full girth stop (R285)? -/
def State.crewBusy (s : State) (b c : Nat) : Bool :=
  (s.everyBundle.any fun u => u.blk == b && u.crews.contains c && match u.wait with
    | .pend id => s.pipe.pends.any fun p => p.id == id && (p.mirror.isSome || match p.plan with
        | .recld _ | .tdmk _ | .kvtest | .wq => true
        | _ => false)
    | .score | .girthFull | .crew => true
    | _ => false) || (!s.halted b c false && s.gi.ops.any fun o => o.blk == b && o.crew == c && o.stop == noStop)

/-- May a crew of a block issue? -/
def State.crewIssues (s : State) (b c : Nat) : Bool :=
  let st := (s.block b).st
  (st == .running || st == .stopping) && !s.crewBusy b c &&
    (!s.halted b c (c == feedCrew) || s.stepping b c)

/-- May a bundle issue? -/
def State.bundleIssues (s : State) (u : Bundle) : Bool := u.crews.all (s.crewIssues u.blk) && !s.frozen u.blk (some u.code)

/-- BAGE of a block's launch. -/
def State.bage (s : State) (b : Nat) : Nat := (s.launchOf b).bage

/-- Cycle of a bin's oldest entry. -/
def Bin.oldest (n : Bin) : Nat := n.entries.foldl (fun m e => min m e.filed) ((n.entries.head?.map fun e => e.filed).getD 0)
/-- Is every lane of a bin taken (R18)? -/
def Bin.full (n : Bin) : Bool := (List.range 32).all fun l => n.entries.any fun e => e.lane == l
/-- Does a thread of a bin stand arrived at a crew-bound instruction whose other lanes are awaited (R23)? One that a branch has filed there may be drawn: it
reads its mask at its own issue (R181) and may complete the set. -/
def State.awaitsLanes (s : State) (n : Bin) (e : BinEntry) : Bool :=
  e.held && s.sch.arrs.any fun r => r.blk == n.blk && r.pc == n.pc && r.crew == e.slot * 4 + n.qtr
/-- A bin without the threads that wait for other lanes. -/
def State.openBin (s : State) (n : Bin) : Bin := { n with entries := n.entries.filter fun e => !s.awaitsLanes n e }
/-- The threads that a draw takes: in each lane the lowest slot that may issue (R17). -/
def State.drawOf (s : State) (n : Bin) : List BinEntry :=
  (List.range 32).filterMap fun l =>
    (sortBy (fun e => e.slot) ((s.openBin n).entries.filter fun e => e.lane == l && s.crewIssues n.blk (e.slot * 4 + n.qtr) && !s.frozen n.blk none)).head?

/-- A candidate for issue. -/
inductive Cand where
  | bin (n : Bin)
  | bundle (u : Bundle)
deriving DecidableEq, Repr

/-- Rank of a bin (Table 1.1), none while it is neither full nor aged. -/
def State.binRank (s : State) (n : Bin) : Option Nat :=
  let t := s.waited n.core n.oldest
  if 4 * s.bage n.blk ≤ t then some 1 else if n.full then some 2 else if s.bage n.blk ≤ t then some 3 else none

/-- Rank of a bundle: 0 where it issues ahead of what Table 1.1 ranks. -/
def State.bundleRank (s : State) (core : Nat) (u : Bundle) : Nat :=
  if u.ahead ≠ 0 then 0 else if 4 * s.bage u.blk ≤ s.waited core u.since then 1 else 4

/-- Order of a candidate: rank, then waiting time, then block index, then PC. -/
def State.candKey (s : State) (rank from' b : Nat) (pc : Word) : List Nat := [rank, from', (s.block b).lin, pc.toNat]

/-- Is the bundle a candidate of a quarter (or, for the feed contexts, of the AAE): RUNNING, and its crews may issue (R26)? -/
def State.bundleReady (s : State) (core qtr : Nat) (u : Bundle) : Bool :=
  (s.block u.blk).core == core && u.wait == .ready && (if u.feed then qtr == 4 else crewQtr u.crew == qtr && qtr < 4) &&
    s.bundleIssues u

/-- Lexicographic order. -/
def lexLt : List Nat → List Nat → Bool
  | [], _ => false
  | _ :: _, [] => false
  | a :: s, b :: t => a < b || (a == b && lexLt s t)

/-- Insertion of a candidate behind those that do not follow it. -/
def insertCand (c : List Nat × Cand) : List (List Nat × Cand) → List (List Nat × Cand)
  | [] => [c]
  | d :: t => if lexLt c.1 d.1 then c :: d :: t else d :: insertCand c t

/-- Candidates of a quarter in their order (Table 1.1). R19 orders no two of one rank, waiting time, block index and PC: bins then come before bundles, and
each as they stand in their list, by the model's choice (log 46). -/
def State.candidates (s : State) (core qtr : Nat) : List Cand :=
  let bins := (s.sch.bins.filter fun n => n.core == core && n.qtr == qtr && !(s.drawOf n).isEmpty).filterMap fun n =>
    (s.binRank (s.openBin n)).map fun r => (s.candKey r (s.openBin n).oldest n.blk n.pc, Cand.bin n)
  let bundles := (s.sch.bundles.filter (s.bundleReady core qtr)).map fun u =>
    (s.candKey (s.bundleRank core u) (if u.ahead ≠ 0 then u.ahead else u.since) u.blk u.pc, Cand.bundle u)
  ((bins ++ bundles).foldl (fun l c => insertCand c l) []).map fun c => c.2

/-- The needs of a candidate's next instruction; what does not fetch or decode needs nothing. -/
def State.candNeeds (s : State) : Cand → Needs
  | .bin n => ((s.peekInstr n.blk false n.pc (((s.drawOf n).head?).bind fun e => e.clause)).map needsOf).getD {}
  | .bundle u => ((s.peekInstr u.blk u.feed u.pc u.clause).map needsOf).getD {}

/-- A bundle of entries of a bin. -/
def Bin.bundle (n : Bin) (now : Nat) (cl : Option Clause) (es : List BinEntry) : Bundle :=
  { blk := n.blk, feed := false, pc := n.pc, clause := cl, members := es.map fun e => ⟨e.lane, e.slot * 4 + n.qtr⟩,
    wait := .ready, since := now, pass := true, adv := 0 }

/-- The bundle that a bin's draw forms (R17). Threads that must meet a header there and threads inside a clause do not issue one instruction: those that are
not of the first one's kind form a bundle of their own, which runs unfiled as well (R111; log 12). -/
def State.binDraw (s : State) (n : Bin) : Bundle × List Bundle :=
  let ds := s.drawOf n
  let of := fun (cl : Option Clause) => n.bundle s.now cl (ds.filter fun e => e.clause == cl)
  match dedup (ds.map fun e => e.clause) with
  | [] => (n.bundle s.now none [], [])
  | cl :: rest => (of cl, rest.map of)

/-- Take a candidate away: a bin is drawn (R17). -/
def State.takeCand (s : State) : Cand → Bundle × State
  | .bundle u => (u, { s with sch := { s.sch with bundles := s.sch.bundles.erase u } })
  | .bin n =>
    let rest := n.entries.filter fun e => !((s.drawOf n).contains e)
    let put := fun (x : Bin) => if x == n then { n with entries := rest } else x
    let d := s.binDraw n
    (d.1, State.addBundles { s with sch := { s.sch with bins := if rest.isEmpty then s.sch.bins.erase n else s.sch.bins.map put } } d.2)

/-- A bundle becomes the issuing one. -/
def State.select (s : State) (u : Bundle) : State := { s with sch := { s.sch with cur := u, curOn := true } }

/-! ## The two paths of a quarter (R19, R28, R310, R311) -/

/-- A quarter's candidates of a cycle: of the vector path and of the uniform path, each with its needs. -/
structure Picks where
  vec : Option (Cand × Needs)
  uni : Option (Cand × Needs)
deriving DecidableEq, Repr

/-- The first candidate of each path. -/
def State.picks (s : State) (core qtr : Nat) : Picks :=
  (s.candidates core qtr).foldl (fun (p : Picks) c =>
    if p.vec.isSome && p.uni.isSome then p
    else
      let n := s.candNeeds c
      if n.uniform then (if p.uni.isNone then { p with uni := some (c, n) } else p)
      else if p.vec.isNone then { p with vec := some (c, n) } else p) { vec := none, uni := none }

/-- Does a quarter ask for a unit in this cycle? -/
def Picks.wants (p : Picks) (x : CoreUnit) : Bool := (p.vec.any fun e => e.2.unit == some x) || p.uni.any fun e => e.2.unit == some x

/-- The quarter that a unit of a core grants: the first that asks for it at or after the pointer (R311). -/
def State.grantee (s : State) (core : Nat) (x : CoreUnit) : Option Nat :=
  let p := mget 0 s.sch.grant (2 * core + x.num)
  ((List.range 4).map fun i => (p + i) % 4).find? fun q => (s.picks core q).wants x

/-- The candidate is refused the unit it asks for and stays its quarter's candidate (R311). -/
def State.keepCand (s : State) (c : Cand) : State :=
  let t := s.takeCand c
  t.2.addBundles [{ t.1 with ahead := 2 }]

/-- Is the candidate refused its unit in this cycle? `taken` is the unit that the quarter's vector path takes. -/
def State.refused (s : State) (core qtr : Nat) (taken : Option CoreUnit) (e : Cand × Needs) : Bool :=
  match e.2.unit with
  | none => false
  | some x => taken == some x || s.grantee core x != some qtr

/-- The pointer of a granted unit moves to the quarter behind (R311). -/
def State.grantTo (s : State) (core qtr : Nat) (e : Cand × Needs) : State :=
  match e.2.unit with
  | none => s
  | some x => { s with sch := { s.sch with grant := mput 0 s.sch.grant (2 * core + x.num) ((qtr + 1) % 4) } }

/-- Has port conflict deferred this candidate already (R310)? -/
def Cand.deferred : Cand → Bool
  | .bundle u => u.ahead == 1
  | .bin _ => false

/-- What a quarter issues in a cycle: refused candidates are kept, the vector-path one goes first, and where both need more than three ports the
uniform-path one is deferred to the next cycle; one that has been deferred goes, and the vector-path one waits (R310, R311; log 46). -/
def State.issuePicks (s : State) (core qtr : Nat) (p : Picks) : State :=
  let v := p.vec.filter fun e => !s.refused core qtr none e
  let taken := v.bind fun e => e.2.unit
  let u := p.uni.filter fun e => !s.refused core qtr taken e
  let t := if v.isNone then (match p.vec with | some e => s.keepCand e.1 | none => s) else s
  let t := if u.isNone then (match p.uni with | some e => t.keepCand e.1 | none => t) else t
  match v, u with
  | none, none => t
  | some x, none => let r := (t.grantTo core qtr x).takeCand x.1; r.2.select r.1
  | none, some y => let r := (t.grantTo core qtr y).takeCand y.1; r.2.select r.1
  | some x, some y =>
    if x.2.ports + y.2.ports ≤ 3 then
      let r := ((t.grantTo core qtr x).grantTo core qtr y).takeCand x.1
      let q := r.2.takeCand y.1
      { q.2.select r.1 with sch := { (q.2.select r.1).sch with second := some q.1 } }
    else if y.1.deferred then let r := (t.grantTo core qtr y).takeCand y.1; r.2.select r.1
    else
      let r := (t.grantTo core qtr x).takeCand x.1
      let q := r.2.takeCand y.1
      (q.2.addBundles [{ q.1 with ahead := 1 }]).select r.1

/-- The feed context that the AAE serves next: rotating by block number from the one served last (R30). -/
def State.aaeNext (s : State) (core : Nat) : Option Bundle :=
  let ready := sortBy (fun (u : Bundle) => u.blk) (s.sch.bundles.filter fun u => u.feed && s.bundleReady core 4 u)
  (ready.find? fun u => mget 0 s.sch.aae core < u.blk).orElse fun _ => ready.head?

/-- ISSUE_SELECT (R16 to R19, R30, R310, R311, R355): a quarter of a core picks a candidate for each path; as quarter 4 the AAE of the core picks
the next feed context. -/
def execIssueSelect (core qtr : Nat) (s : State) : Host.Outcome State Fault Refusal :=
  if s.sch.curOn then .next s
  else if 4 ≤ qtr then
    match s.aaeNext core with
    | some u => .next (State.select { s with sch := { s.sch with aae := mput 0 s.sch.aae core u.blk, bundles := s.sch.bundles.erase u } } u)
    | none => .next s
  else
    let t := s.refileHeld core qtr
    .next (if t.gated core then t else t.issuePicks core qtr (t.picks core qtr))

/-- BIN_AGED (R18): the cycle in which a bin's oldest entry has waited BAGE cycles, from which R19 ranks it. -/
def execBinAged (n : Nat) (s : State) : Host.Outcome State Fault Refusal :=
  match s.sch.bins[n]? with
  | some x => .next (s.reach (s.waitsUntil x.core x.oldest (s.bage x.blk)))
  | none => .next s

/-- BIN_OVERDUE (R18): the cycle in which a bin's oldest entry has waited 4 × BAGE cycles. -/
def execBinOverdue (n : Nat) (s : State) : Host.Outcome State Fault Refusal :=
  match s.sch.bins[n]? with
  | some x => .next (s.reach (s.waitsUntil x.core x.oldest (4 * s.bage x.blk)))
  | none => .next s

/-! ## Barriers resume (R187, R190), YIELD ends (R178) -/

/-- Cycle in which the threads of a completed barrier resume. -/
def Wait.barGo (w : Wait) (id : Nat) (cl : Bool) : Option Nat := match w with
  | .bar i c (some t) => if i == id && c == cl then some t else none
  | _ => none

/-- BAR_RESUME (R187): the threads of a block at a completed barrier resume. -/
def execBarResume (blk id : Nat) (cluster : Bool) (s : State) : Host.Outcome State Fault Refusal :=
  let here := fun (u : Bundle) => u.blk == blk && !u.feed && (u.wait.barGo id cluster).isSome
  match s.sch.bundles.find? here with
  | none => .next s
  | some u =>
    let t := s.reach ((u.wait.barGo id cluster).getD 0)
    .next (t.mapBundles fun u => if here u then u.resume else u)

/-- Resume the blocks of clusters from a completed LBAR, each with the acquire of device scope (R189); within a cluster in the order in
which their arrivals completed (R190). -/
def State.lbarFree (s : State) (l : Nat) (cs : List Nat) : State :=
  let mine := fun (u : Bundle) (b : Nat) => u.blk == b && !u.feed && u.wait == .lbar true
  cs.foldl (fun s cl =>
    let bs := (s.launch l).lbarCame.filter fun b => (s.block b).st.resident && coreCluster (s.block b).core == cl
    bs.foldl (fun t b =>
      let back := (t.sch.bundles.filter fun u => mine u b).map Bundle.resume
      let t := t.acquire b 4
      { t with sch := { t.sch with bundles := t.sch.bundles.filter (fun u => !mine u b) ++ back } }) s) s

/-- Blocks of a launch that are swapped out at a released LBAR become placeable (R190). -/
def State.lbarPlaceable (s : State) (l : Nat) : State :=
  let out := (s.liveBlocks l).filter fun b => !(s.block b).st.resident && s.sch.bundles.any fun u => u.blk == b && u.wait == .lbar true
  out.foldl (fun t b => t.setBlock { t.block b with placeable := true }) s

/-- LBAR_RELEASE_WINDOW (R189, R190): an LBAR of the launch completes, or the next six clusters of its release resume; after the last
window the swapped-out blocks become placeable. -/
def execLbarReleaseWindow (l : Nat) (s : State) : Host.Outcome State Fault Refusal :=
  let x := s.launch l
  if x.lbarOrder.isEmpty then .next (s.lbarCheck l)
  else
    let rest := x.lbarOrder.drop 6
    let t := (s.lbarFree l (x.lbarOrder.take 6)).setLaunch { x with lbarOrder := rest }
    .next (if rest.isEmpty then (t.lbarFree l (List.range 48)).lbarPlaceable l else t)

/-- YIELD_EXPIRE (R178): a yielded bundle becomes ready and its waiting time restarts. -/
def execYieldExpire (n : Nat) (s : State) : Host.Outcome State Fault Refusal :=
  match s.sch.bundles[n]? with
  | some u => match u.wait with
    | .yielded c => let t := s.reach c; .next { t with sch := { t.sch with bundles := t.sch.bundles.set n (u.step u.adv t.now) } }
    | _ => .next s
  | none => .next s

/-! ## Traps of waiting bundles -/

/-- A trap taken by a bundle that waits for a pending operation, at its instruction, which is crew-bound. -/
def State.trapBundle (s : State) (i : Nat) (info : TrapInfo) : State :=
  match s.sch.bundles[i]? with
  | none => s
  | some u =>
    let t := State.takeTrap { s with sch := { s.sch with bundles := s.sch.bundles.eraseIdx i, cur := u, curOn := true } }
      { info with lane := lowLane u.members, bound := true }
    { t with sch := { t.sch with cur := s.sch.cur, curOn := s.sch.curOn } }

/-- The trap of a pending operation and of its mirrors in a twin: the bundles that wait for them take it, and the operations are gone. -/
def State.trapPend (s : State) (id : Nat) (info : TrapInfo) : State :=
  let ids := id :: (s.pipe.pends.filter fun p => p.mirror == some id).map fun p => p.id
  let s := s.noteEnd { id := id, ws := [], poisoned := false, trap := some (info.cls, info.code, info.va, info.words) }
  ids.foldl (fun t i => match t.sch.bundles.findIdx? fun u => u.wait == .pend i with
    | some j => (t.trapBundle j info).dropPend i
    | none => t.dropPend i) s

/-! ## The work queue (R206) -/

/-- Address of the word of the work queue at a count. -/
def Launch.wqWord (l : Launch) (n : Nat) : Nat := l.wqbase + 4 * (n % 2 ^ l.wql)

/-- The outcome of a work-queue operation: its register writes. -/
def State.wqLand (s : State) (q : WqOp) (ws : List RegWr) (took poisoned : Bool) : State :=
  s.mapPend q.pend fun p => { p with outs := ws, parts := 0, poisoned := poisoned, acq := if took then 4 else 0 }

/-- The work-queue unit, on die 0, reaches a word of a queue at its home slice; as a dispatcher's access it fills nothing (R65; log 39). -/
def State.wqTouch (s : State) (q : WqOp) (ctx va : Nat) (x : Xlate) : Option State :=
  s.touchVia { ctlVia 0 4 with at' := q.at' } x va (s.tenant ctx) 1 0 (if q.push then .part else .read)

/-- The operation waits at the head of the unit's queue. -/
def State.wqWait (s : State) (q : WqOp) : State := { s with disp := { s.disp with wq := q :: s.disp.wq } }

/-- One WQPOP or WQPUSH at the work-queue unit; it waits while its walk or its line has to. A poisoned word is not popped: no lane acts (R336). -/
def State.wqRun (s : State) (q : WqOp) : State :=
  let l := s.launchOf q.blk
  if !q.push && l.wqTail ≤ l.wqHead then s.wqLand q [.k q.crew q.kd 0, .q q.crew q.qd false] false false
  else if q.push && 2 ^ l.wql ≤ l.wqTail - l.wqHead then s.wqLand q [.q q.crew q.qd false] false false
  else
    let va := l.wqWord (if q.push then l.wqTail else l.wqHead)
    match State.unitWalker wqWalker l.ctx s va with
    | (.miss, t) => t.wqWait q
    | (.fault, t) => t.unitDone wqWalker |>.trapPend q.pend { cls := .xlate, va := va }
    | (.ok x, t) =>
      let pa := x.phys va
      if t.apertureHole pa then t.unitDone wqWalker |>.trapPend q.pend { cls := .xlate, va := va }
      else if !(if q.push then x.w else x.r) then t.unitDone wqWalker |>.trapPend q.pend { cls := .prot, va := va }
      else match t.wqTouch q l.ctx va x with
        | none => t.wqWait q
        | some t =>
          let t := t.unitDone wqWalker
          if q.push then
            ((t.homeWrite (x.home va) pa (atOffsets (natToBytes 4 q.value.toNat))).setLaunch { l with wqTail := l.wqTail + 1 }).wqLand q
              [.q q.crew q.qd true] false false
          else if t.homeBad (x.home va) pa 4 then t.wqLand q [] false true
          else
            (t.setLaunch { l with wqHead := l.wqHead + 1 }).wqLand q
              [.k q.crew q.kd (BitVec.ofNat 32 (bytesToNat (t.homeBytes (x.home va) pa 4))), .q q.crew q.qd true] true false

/-- WQ_EXECUTE (R206): the work-queue unit performs its oldest operation. -/
def execWqExecute (s : State) : Host.Outcome State Fault Refusal :=
  match s.disp.wq with
  | [] => .next s
  | q :: rest => .next (State.wqRun { s with disp := { s.disp with wq := rest } } q)

/-! ## Cancellation (R204) -/

/-- Is a launch inside a level of a context? -/
def Launch.inLevel (l : Launch) (ctx kind id : Nat) : Bool := l.ctx == ctx && l.levelId kind == id && l.st != .ended

/-- A cancel takes effect on a level: its launches stop, and the levels inside it are stopped. -/
def State.cancelNow (s : State) (ctx kind id : Nat) : State :=
  let ls := s.disp.launches.filter fun l => l.inLevel ctx kind id
  let t := ls.foldl (fun t l => t.stopLaunch l.uid 1) s
  let mine := fun (v : Level) => v.ctx == ctx && !v.ended && ((v.kind == kind && v.id == id) ||
    (v.kind < kind && ls.any fun l => l.levelId v.kind == v.id))
  { t with disp := { t.disp with levels := t.disp.levels.map fun v => if mine v then { v with stopped := true, anyCancelled := true } else v } }

/-- CANCEL_ARRIVE (R204): the oldest cancel reaches the dispatcher. -/
def execCancelArrive (s : State) : Host.Outcome State Fault Refusal :=
  match s.disp.cancels with
  | [] => .next s
  | c :: rest => .next (State.cancelNow { s with disp := { s.disp with cancels := rest } } c.ctx c.kind c.id)

/-- Does a bundle of a stopped block stop now: it waits, or it is at a header? -/
def Bundle.stopsNow (u : Bundle) : Bool := u.clause.isNone || u.wait != .ready

/-- Nothing of a stopped block runs any more: its results and holds are discarded, and it counts as complete once its engines are (R204
step 3). -/
def State.stopDone (s : State) (b : Nat) : State :=
  let t := s.setRegs ((s.crewList b).foldl (fun r c => r.setCrew b c { r.crewSt b c with live := 0 }) s.regs)
  let t := { t with
    sch := { t.sch with faults := t.sch.faults.filter fun f => f.blk != b, fencers := t.sch.fencers.filter fun f => f.blk != b }
    pipe := { t.pipe with pends := t.pipe.pends.filter fun p => !(p.blk == b && p.seta), mons := t.pipe.mons.filter fun m => m.blk != b }
    gi := { t.gi with ops := t.gi.ops.filter fun o => o.blk != b }
    grd := { t.grd with hold := t.grd.hold.filter fun h => h.blk != b } }
  (((t.lapseHolds b).setBlock { t.block b with feedDone := true }).discardPanels b).noteOver b

/-- CANCEL_STOP (R204): a block of a stopped launch stops: what waits, and every thread of a crew that is HALTED or WAITING as a whole, at once; what runs at
its next header. -/
def execCancelStop (blk : Nat) (s : State) : Host.Outcome State Fault Refusal :=
  let x := s.block blk
  if !(s.launch x.launch).stopped || x.st == .complete then .next s
  else
    let runs := x.st == .running || x.st == .draining || x.st == .stopping
    let t := s.setBlock { x with st := .stopping }
    let keep := fun (u : Bundle) => u.blk != blk || (runs && !u.stopsNow)
    let on := fun (c : Nat) => !(s.halted blk c (c == feedCrew)) && !s.crewBusy blk c
    let cut := fun (u : Bundle) => if u.blk != blk then u else if u.feed then { u with feed := on feedCrew } else { u with members := u.members.filter fun m => on m.crew }
    let t := { t with sch := { t.sch with
      bins := t.sch.bins.filter fun n => n.blk != blk
      arrs := t.sch.arrs.filter fun r => r.blk != blk
      bundles := ((t.sch.bundles.filter keep).map cut).filter fun u => u.feed || !u.members.isEmpty } }
    .next (if t.everyBundle.any fun u => u.blk == blk then t else t.stopDone blk)

end Sys2Proof.Machine
end

