-- ==== Sys2Proof/Machine/Cycle.lean ====
section
/-!
DEFINITION. The cycle of an issue (spec/01_execution_rules.md R19, R28; spec/23_scheduling_rules.md R316): the clock, what follows an instruction
of a bundle, and the other path's candidate.
-/
namespace Sys2Proof.Machine

/-- One cycle later. -/
def State.ticked (s : State) : State := { s with clk := { s.clk with gcyc := s.clk.gcyc + 1 } }

/-- The clock after an event: one cycle later, but in the cycle of an issue, in which the selection, the clause header and the instructions
of both paths come about together (R19, R109; log 1). Heats are halved behind a cycle that R295 names. -/
def tick (o : Host.Outcome State Fault Refusal) : Host.Outcome State Fault Refusal :=
  match o with
  | .next s => .next (if s.sch.curOn then s else s.ticked).settleHeat
  | .fault r => .fault r
  | .refused r => .refused r

/-- Instructions whose effect may leave no bundle at issue: those that file or end threads, and TRAP. -/
def disperses : Instr → Bool
  | .bra _ _ _ | .jmp _ _ | .jmpi _ _ | .call _ _ | .calli _ _ | .ret _ | .reform | .exit _ | .fend | .trap _ _ => true
  | _ => false

/-- Has the bundle issued the instruction, where this is the state after it? It has not where it waits to issue it again, where it was
stopped on the way (split, filed or held before its members have arrived, or faulted), and at a header. -/
def State.issuedBy (s : State) (i : Instr) : Bool :=
  if s.sch.curOn then !i.isHeader && (s.sch.cur.wait == .ready || !s.sch.cur.wait.unissued) else disperses i

/-- The crews of a bundle have issued: their watchdogs restart (R317), and what a quota pre-emption excluded of the block's ends (R361). -/
def State.noteIssue (s : State) (u : Bundle) : State :=
  let x := s.block u.blk
  let s := if x.why == 3 then (s.setBlock { x with why := 0 }).watchSync u.blk else s
  { s with sch := { s.sch with lastIssue := u.crews.foldl (fun m c => mput 0 m (crewKey u.blk c) s.now) s.sch.lastIssue } }

/-- A crew halts behind its step, with class 16 and code 127 (R374): in the fault record it has, or in one of its own, which is entered as its launch's
TRAPMODE enters a fault (R313). A crew whose threads have all exited does not halt. -/
def State.stepHalt (s : State) (u : Bundle) (c : Nat) : State :=
  let lane := lowLane (u.members.filter fun m => m.crew == c)
  if !u.feed && s.liveMask u.blk c == 0 then s
  else if !(s.faultsOf u.blk c).isEmpty then
    { s with sch := { s.sch with faults := s.sch.faults.map fun (f : FaultRec) =>
        if f.blk == u.blk && f.crewNo == c && f.moved then { f with cls := .trap, code := 127, va := 0, lane := lane, nextWord := false } else f } }
  else
    let at' := if s.sch.curOn then s.sch.cur else u
    let f : FaultRec := { s.mkFault { cls := .trap, code := 127, lane := lane } { u with pc := at'.pc, clause := at'.clause } [] with
                          crew := if u.feed then 0 else c, moved := true, nextWord := false }
    let t := { s with sch := { s.sch with faults := s.sch.faults ++ [f], nextFault := s.sch.nextFault + 1 } }
    (if f.inspect then t else t.stopBlock u.blk 2).due [.faultEntryWrite f.id]

/-- Crews that the control core steps have used their step (R374). -/
def State.stepUsed (s : State) (u : Bundle) : State :=
  (u.crews.filter (s.stepping u.blk)).foldl (fun t c => (t.stepOver u.blk c).stepHalt u c) s

/-- What follows an instruction of a bundle: its watchdogs and a step of it. -/
def State.afterInstr (s : State) (u : Bundle) (i : Instr) : State :=
  let t := if s.issuedBy i then s.noteIssue u else s
  if s.issuedBy i || !s.sch.curOn then t.stepUsed u else t

/-- The second path of the quarter's cycle (R19, R28): the uniform-path candidate issues now. Where the vector-path instruction has faulted,
which `faulted` says, or its crew may no longer issue, it has not issued and goes back among the bundles (R316). -/
def State.secondPath (s : State) (faulted : Bool) : State :=
  match s.sch.second with
  | none => s
  | some u =>
    let t := { s with sch := { s.sch with second := none } }
    if faulted || s.sch.curOn || !(t.bundleIssues u) then t.addBundles [u] else { t with sch := { t.sch with cur := u, curOn := true } }

/-- Has a step from s to t raised a fault, or stopped the block of its bundle (R312, R313)? -/
def State.faultedSince (s t : State) : Bool := s.sch.nextFault != t.sch.nextFault || (s.block s.sch.cur.blk).st != (t.block s.sch.cur.blk).st

/-- A fault that a bundle `u` has taken at a crew-bound instruction since the record of number `n` was the next applies to every thread of the crew that
is arrived at its PC (R314): those filed or held there join the record. -/
def State.joinFault (t : State) (u : Bundle) (n : Nat) : State :=
  let ms := t.arrivedElsewhere u.blk u.crew u.pc
  if u.feed || ms.isEmpty || t.sch.nextFault = n then t
  else
    let put := fun (f : FaultRec) => if f.id == n then { f with threads := laneSort (f.threads ++ ms) } else f
    { t with sch := { t.sch.withdraw u.blk u.crew u.pc with faults := t.sch.faults.map put } }

/-- After an instruction of the bundle that issues in state `a`, the bundle goes back among the bundles, and the other path's candidate
follows; a header that has passed keeps it for the clause's first instruction (R109). -/
def release (a : State) (i : Instr) (o : Host.Outcome State Fault Refusal) : Host.Outcome State Fault Refusal :=
  match o with
  | .next s => .next (if i.isHeader && s.sch.curOn && s.sch.cur.wait == .ready then s
      else (((if crewBound i then s.joinFault a.sch.cur a.sch.nextFault else s).afterInstr a.sch.cur i).putBack).secondPath (a.faultedSince s))
  | .fault r => .fault r
  | .refused r => .refused r

/-- After a fetch that gave no instruction: a step of the crew is used where it faulted, and the other path's candidate follows. -/
def State.afterFetch (s t : State) : State :=
  (if s.sch.nextFault = t.sch.nextFault then t else t.stepUsed s.sch.cur).secondPath (s.faultedSince t)

end Sys2Proof.Machine
end

