-- ==== Sys2Proof/Machine/Compute.lean ====
section
/-!
DEFINITION. The compute group, opcodes 0x00 to 0x53 (spec/11_isa_compute.md R137 to R167): integers, compares, logic, FP32, packed
formats, FP64, conversions, special functions, moves.
-/
namespace Sys2Proof.Machine

/-! ## Integer arithmetic (R145 to R148) -/

/-- IADD (R145): d ← (a + b) mod 2^32. -/
def execIadd (d a b : Field) (g : Guard) (s : State) : Host.Outcome State Fault Refusal :=
  compute (.iadd d a b g) {} (fn2 fun a b => a + b) d a b g true s

/-- Adding and subtracting with the carry predicate (R146): p7 of each lane, or q3 on the uniform path. -/
def carryWr (fn : Word → Word → Bool → Word × Bool) (d a b : Field) (g : Guard) (s : State) : List RegWr :=
  let u := s.sch.cur
  let r := s.regs
  if d.isK then
    if s.uniformOn g then
      let x := fn (r.kreg u.blk u.crew a.num) (lo (r.ubval u.blk u.crew .int b false)) (r.qreg u.blk u.crew 3)
      [.k u.crew d.num x.1, .q u.crew 3 x.2]
    else []
  else
    (s.lanesOn g).flatMap fun m =>
      let x := fn (lo (r.aval u.blk m a false)) (lo (r.bval u.blk m .int b false)) (r.preg u.blk m.crew m.lane 7)
      r.vwr u.blk m d false (x.1.zeroExtend 64) ++ [.p m.crew m.lane 7 x.2]

/-- Issue of a carry instruction: the carry predicate is read and written. -/
def carryIssue (d a b : Field) (g : Guard) (s : State) : Issue :=
  let q := computeIssue {} d a b g 1 true s
  { q with keys := q.keys ++ s.predKeys d.isK (if d.isK then 3 else 7) }

/-- IADDC (R146): s ← a + b + cy; d ← s[31:0]; cy ← s[32]. -/
def execIaddc (d a b : Field) (g : Guard) (s : State) : Host.Outcome State Fault Refusal :=
  issue (.iaddc d a b g) (carryIssue d a b g s) s fun t => (t.wrote (carryWr addCarry d a b g t)).advance 1

/-- ISUB (R145): d ← (a − b) mod 2^32. -/
def execIsub (d a b : Field) (g : Guard) (s : State) : Host.Outcome State Fault Refusal :=
  compute (.isub d a b g) {} (fn2 fun a b => a - b) d a b g true s

/-- ISUBB (R146): s ← a − b − cy; d ← s mod 2^32; cy ← s < 0. -/
def execIsubb (d a b : Field) (g : Guard) (s : State) : Host.Outcome State Fault Refusal :=
  issue (.isubb d a b g) (carryIssue d a b g s) s fun t => (t.wrote (carryWr subBorrow d a b g t)).advance 1

/-- IMUL (R145): the low 32 bits of the product. -/
def execImul (d a b : Field) (g : Guard) (s : State) : Host.Outcome State Fault Refusal :=
  compute (.imul d a b g) {} (fn2 fun a b => a * b) d a b g true s

/-- IMULHS (R145): bits 63 to 32 of the signed product. -/
def execImulhs (d a b : Field) (g : Guard) (s : State) : Host.Outcome State Fault Refusal :=
  compute (.imulhs d a b g) {} (fn2 fun a b => (BitVec.ofInt 64 (a.toInt * b.toInt)).extractLsb' 32 32) d a b g true s

/-- IMULHU (R145): bits 63 to 32 of the unsigned product. -/
def execImulhu (d a b : Field) (g : Guard) (s : State) : Host.Outcome State Fault Refusal :=
  compute (.imulhu d a b g) {} (fn2 fun a b => BitVec.ofNat 32 (a.toNat * b.toNat / 2 ^ 32)) d a b g true s

/-- IMAD (R145): d ← (a × b + d) mod 2^32. -/
def execImad (d a b : Field) (g : Guard) (s : State) : Host.Outcome State Fault Refusal :=
  compute (.imad d a b g) {} (fn3 fun a b d => a * b + d) d a b g true s

/-- IMAD64 (R145): D ← (ZX(a) × ZX(b) + D) mod 2^64. -/
def execImad64 (d a b : Field) (g : Guard) (s : State) : Host.Outcome State Fault Refusal :=
  compute (.imad64 d a b g) { wd := true } (pure3 fun a b d => (lo a).zeroExtend 64 * (lo b).zeroExtend 64 + d) d a b g true s

/-- IDIV (R147). -/
def divS (a b : Word) : Word :=
  if b = 0 then 0xFFFFFFFF else if a = 0x80000000 ∧ b = 0xFFFFFFFF then 0x80000000 else wordOfInt (a.toInt.tdiv b.toInt)
/-- IDIVU. -/
def divU (a b : Word) : Word := if b = 0 then 0xFFFFFFFF else BitVec.ofNat 32 (a.toNat / b.toNat)
/-- IREM. -/
def remS (a b : Word) : Word :=
  if b = 0 then a else if a = 0x80000000 ∧ b = 0xFFFFFFFF then 0 else wordOfInt (a.toInt - b.toInt * a.toInt.tdiv b.toInt)
/-- IREMU. -/
def remU (a b : Word) : Word := if b = 0 then a else BitVec.ofNat 32 (a.toNat - b.toNat * (a.toNat / b.toNat))

/-- IDIV (R147): signed division toward zero; SETA kind. -/
def execIdiv (d a b : Field) (g : Guard) (s : State) : Host.Outcome State Fault Refusal :=
  computeLong (.idiv d a b g) {} (fn2 divS) d a b g true s

/-- IDIVU (R147): unsigned division; SETA kind. -/
def execIdivu (d a b : Field) (g : Guard) (s : State) : Host.Outcome State Fault Refusal :=
  computeLong (.idivu d a b g) {} (fn2 divU) d a b g true s

/-- IREM (R147): signed remainder; SETA kind. -/
def execIrem (d a b : Field) (g : Guard) (s : State) : Host.Outcome State Fault Refusal :=
  computeLong (.irem d a b g) {} (fn2 remS) d a b g true s

/-- IREMU (R147): unsigned remainder; SETA kind. -/
def execIremu (d a b : Field) (g : Guard) (s : State) : Host.Outcome State Fault Refusal :=
  computeLong (.iremu d a b g) {} (fn2 remU) d a b g true s

/-- IMIN (R145): signed minimum. -/
def execImin (d a b : Field) (g : Guard) (s : State) : Host.Outcome State Fault Refusal :=
  compute (.imin d a b g) {} (fn2 fun a b => if a.toInt < b.toInt then a else b) d a b g true s

/-- IMAX (R145): signed maximum. -/
def execImax (d a b : Field) (g : Guard) (s : State) : Host.Outcome State Fault Refusal :=
  compute (.imax d a b g) {} (fn2 fun a b => if b.toInt < a.toInt then a else b) d a b g true s

/-- IMINU (R145): unsigned minimum. -/
def execIminu (d a b : Field) (g : Guard) (s : State) : Host.Outcome State Fault Refusal :=
  compute (.iminu d a b g) {} (fn2 fun a b => if a.toNat < b.toNat then a else b) d a b g true s

/-- IMAXU (R145): unsigned maximum. -/
def execImaxu (d a b : Field) (g : Guard) (s : State) : Host.Outcome State Fault Refusal :=
  compute (.imaxu d a b g) {} (fn2 fun a b => if b.toNat < a.toNat then a else b) d a b g true s

/-- IABS (R145): |SX(a)| mod 2^32. -/
def execIabs (d a : Field) (g : Guard) (s : State) : Host.Outcome State Fault Refusal :=
  compute (.iabs d a g) {} (fn2 fun a _ => BitVec.ofNat 32 a.toInt.natAbs) d a constZero g true s

/-- ICMP (R149, R150): signed compare into a predicate. -/
def execIcmp (path : BitVec 1) (cond pred : BitVec 3) (a b : Field) (g : Guard) (s : State) : Host.Outcome State Fault Refusal :=
  compare1 (.icmp path cond pred a b g) {} (fun _ a b => (intCond cond.toNat (lo a).toInt (lo b).toInt, 0)) path pred a b g true s

/-- ICMPU (R149, R150): unsigned compare into a predicate. -/
def execIcmpu (path : BitVec 1) (cond pred : BitVec 3) (a b : Field) (g : Guard) (s : State) : Host.Outcome State Fault Refusal :=
  compare1 (.icmpu path cond pred a b g) {} (fun _ a b => (intCond cond.toNat (lo a).toNat (lo b).toNat, 0)) path pred a b g true s

/-- IADD64 (R145): D ← (A + B) mod 2^64. -/
def execIadd64 (d a b : Field) (g : Guard) (s : State) : Host.Outcome State Fault Refusal :=
  compute (.iadd64 d a b g) { wd := true, wa := true, wb := true, cst := .int64 } (pure3 fun a b _ => a + b) d a b g true s

/-- ISUB64 (R145): D ← (A − B) mod 2^64. -/
def execIsub64 (d a b : Field) (g : Guard) (s : State) : Host.Outcome State Fault Refusal :=
  compute (.isub64 d a b g) { wd := true, wa := true, wb := true, cst := .int64 } (pure3 fun a b _ => a - b) d a b g true s

/-- IMUL64 (R145): D ← (A × B) mod 2^64. -/
def execImul64 (d a b : Field) (g : Guard) (s : State) : Host.Outcome State Fault Refusal :=
  compute (.imul64 d a b g) { wd := true, wa := true, wb := true, cst := .int64 } (pure3 fun a b _ => a * b) d a b g true s

/-- LEA (R148): d ← d + (a << b[4:0]). -/
def execLea (d a b : Field) (g : Guard) (s : State) : Host.Outcome State Fault Refusal :=
  compute (.lea d a b g) {} (fn3 fun a b d => d + a <<< (b.toNat % 32)) d a b g true s

/-- LEA64 (R148): D ← D + SX(a) × 2^b[5:0]. -/
def execLea64 (d a b : Field) (g : Guard) (s : State) : Host.Outcome State Fault Refusal :=
  compute (.lea64 d a b g) { wd := true } (pure3 fun a b d => d + (lo a).signExtend 64 <<< ((lo b).toNat % 64)) d a b g true s

/-! ## Logic, shifts and bit fields (R151 to R156) -/

/-- AND (R151). -/
def execAnd (d a b : Field) (g : Guard) (s : State) : Host.Outcome State Fault Refusal :=
  compute (.and d a b g) {} (fn2 fun a b => a &&& b) d a b g true s

/-- OR (R151). -/
def execOr (d a b : Field) (g : Guard) (s : State) : Host.Outcome State Fault Refusal :=
  compute (.or d a b g) {} (fn2 fun a b => a ||| b) d a b g true s

/-- XOR (R151). -/
def execXor (d a b : Field) (g : Guard) (s : State) : Host.Outcome State Fault Refusal :=
  compute (.xor d a b g) {} (fn2 fun a b => a ^^^ b) d a b g true s

/-- ANDN (R151): a AND NOT b. -/
def execAndn (d a b : Field) (g : Guard) (s : State) : Host.Outcome State Fault Refusal :=
  compute (.andn d a b g) {} (fn2 fun a b => a &&& ~~~b) d a b g true s

/-- ORN (R151): a OR NOT b. -/
def execOrn (d a b : Field) (g : Guard) (s : State) : Host.Outcome State Fault Refusal :=
  compute (.orn d a b g) {} (fn2 fun a b => a ||| ~~~b) d a b g true s

/-- SHL (R151): zero for counts of 32 or more. -/
def execShl (d a b : Field) (g : Guard) (s : State) : Host.Outcome State Fault Refusal :=
  compute (.shl d a b g) {} (fn2 fun a b => if 32 ≤ b.toNat then 0 else a <<< b.toNat) d a b g true s

/-- SHR (R151): zero for counts of 32 or more. -/
def execShr (d a b : Field) (g : Guard) (s : State) : Host.Outcome State Fault Refusal :=
  compute (.shr d a b g) {} (fn2 fun a b => if 32 ≤ b.toNat then 0 else a >>> b.toNat) d a b g true s

/-- SAR (R151): arithmetic, by at most 31. -/
def execSar (d a b : Field) (g : Guard) (s : State) : Host.Outcome State Fault Refusal :=
  compute (.sar d a b g) {} (fn2 fun a b => a.sshiftRight (min b.toNat 31)) d a b g true s

/-- ROTL (R151): left rotation by b[4:0]. -/
def execRotl (d a b : Field) (g : Guard) (s : State) : Host.Outcome State Fault Refusal :=
  compute (.rotl d a b g) {} (fn2 fun a b => let n := b.toNat % 32; a <<< n ||| a >>> (32 - n)) d a b g true s

/-- FSHL (R152): ({d, a} << b[5:0])[63:32]. -/
def execFshl (d a b : Field) (g : Guard) (s : State) : Host.Outcome State Fault Refusal :=
  compute (.fshl d a b g) {} (fn3 fun a b d => (pair a d <<< (b.toNat % 64)).extractLsb' 32 32) d a b g true s

/-- FSHR (R152): ({a, d} >> b[5:0])[31:0]. -/
def execFshr (d a b : Field) (g : Guard) (s : State) : Host.Outcome State Fault Refusal :=
  compute (.fshr d a b g) {} (fn3 fun a b d => (pair d a >>> (b.toNat % 64)).setWidth 32) d a b g true s

/-- BFE (R153). -/
def bitExtract (a b : Word) : Word :=
  let pos := bits b.toNat 0 5
  let n := min (bits b.toNat 8 6) (32 - pos)
  let f := bits a.toNat pos n
  if n = 0 then 0 else if b.getLsbD 16 then wordOfInt (sext f n) else BitVec.ofNat 32 f
/-- BFI (R153). -/
def bitInsert (a b d : Word) : Word :=
  let pos := bits b.toNat 0 5
  let n := min (bits b.toNat 8 6) (32 - pos)
  let mask : Word := BitVec.ofNat 32 ((2 ^ n - 1) * 2 ^ pos)
  (d &&& ~~~mask) ||| (a <<< pos &&& mask)
/-- POPC (R154). -/
def popCount (a : Word) : Nat := ((List.range 32).filter a.getLsbD).length
/-- Leading zeros of an n-bit number (R154). -/
def leadingZeros (n x : Nat) : Nat := if x = 0 then n else n - 1 - x.log2
/-- BREV (R154). -/
def bitReverse (a : Word) : Word := (List.range 32).foldl (fun x i => if a.getLsbD (31 - i) then x ||| 1 <<< i else x) 0
/-- BYTEP (R155): byte i of the result under selector nibble i. -/
def bytePick (a b d : Word) (i : Nat) : Nat :=
  let m := bits d.toNat (4 * i) 4
  let x := bits (pair a b).toNat (8 * (m % 8)) 8
  if 8 ≤ m then (if 128 ≤ x then 255 else 0) else x
/-- BYTEP (R155). -/
def bytePermute (a b d : Word) : Word :=
  BitVec.ofNat 32 (bytePick a b d 0 + 2 ^ 8 * bytePick a b d 1 + 2 ^ 16 * bytePick a b d 2 + 2 ^ 24 * bytePick a b d 3)

/-- BFE (R153): extract a field. -/
def execBfe (d a b : Field) (g : Guard) (s : State) : Host.Outcome State Fault Refusal :=
  compute (.bfe d a b g) {} (fn2 bitExtract) d a b g true s

/-- BFI (R153): insert a field. -/
def execBfi (d a b : Field) (g : Guard) (s : State) : Host.Outcome State Fault Refusal :=
  compute (.bfi d a b g) {} (fn3 bitInsert) d a b g true s

/-- POPC (R154). -/
def execPopc (d a : Field) (g : Guard) (s : State) : Host.Outcome State Fault Refusal :=
  compute (.popc d a g) {} (fn2 fun a _ => BitVec.ofNat 32 (popCount a)) d a constZero g true s

/-- CLZ (R154): 32 for 0. -/
def execClz (d a : Field) (g : Guard) (s : State) : Host.Outcome State Fault Refusal :=
  compute (.clz d a g) {} (fn2 fun a _ => BitVec.ofNat 32 (leadingZeros 32 a.toNat)) d a constZero g true s

/-- CLZ64 (R154): 64 for 0; d is a single register. -/
def execClz64 (d a : Field) (g : Guard) (s : State) : Host.Outcome State Fault Refusal :=
  compute (.clz64 d a g) { wa := true } (pure3 fun a _ _ => BitVec.ofNat 64 (leadingZeros 64 a.toNat)) d a constZero g true s

/-- BREV (R154). -/
def execBrev (d a : Field) (g : Guard) (s : State) : Host.Outcome State Fault Refusal :=
  compute (.brev d a g) {} (fn2 fun a _ => bitReverse a) d a constZero g true s

/-- BYTEP (R155): byte permutation under the selector in d. -/
def execBytep (d a b : Field) (g : Guard) (s : State) : Host.Outcome State Fault Refusal :=
  compute (.bytep d a b g) {} (fn3 bytePermute) d a b g true s

/-- SEL (R156): the predicate that the g field names selects; it does not guard. -/
def selWr (d a b : Field) (p : BitVec 3) (s : State) : List RegWr :=
  let u := s.sch.cur
  let r := s.regs
  if d.isK then
    [.k u.crew d.num (if r.qreg u.blk u.crew p.toNat then r.kreg u.blk u.crew a.num else lo (r.ubval u.blk u.crew .int b false))]
  else
    u.members.flatMap fun m =>
      r.vwr u.blk m d false (if r.preg u.blk m.crew m.lane p.toNat then r.aval u.blk m a false else r.bval u.blk m .int b false)

/-- SEL (R156): d ← c ? a : b in every active lane; a feed thread may name q0 to q3. -/
def execSel (d a b : Field) (p : BitVec 3) (s : State) : Host.Outcome State Fault Refusal :=
  let q := computeIssue {} d a b 0 1 true s
  issue (.sel d a b p) { q with keys := q.keys ++ (if p = 0 && !d.isK then [] else s.predKeys d.isK p.toNat) } s fun t =>
    (t.wrote (selWr d a b p t)).advance 1

/-! ## FP32 (R150, R157 to R159) -/

/-- A two-source FP instruction of a format as a lane function. -/
def fpFn2 (f : FEnv → Nat → Nat → Nat × FFlags) : LaneFn := fun env a b _ => let x := f env a.toNat b.toNat; (BitVec.ofNat 64 x.1, x.2)
/-- A fused form, which reads d. -/
def fpFn3 (f : FEnv → Nat → Nat → Nat → Nat × FFlags) : LaneFn := fun env a b d =>
  let x := f env a.toNat b.toNat d.toNat; (BitVec.ofNat 64 x.1, x.2)
/-- One source. -/
def fpFn1 (f : FEnv → Nat → Nat × FFlags) : LaneFn := fun env a _ _ => let x := f env a.toNat; (BitVec.ofNat 64 x.1, x.2)
/-- Constants of the FP32 instructions. -/
def sh32 : Shape := { cst := .fp fp32 }

/-- FADD (R157). -/
def execFadd (d a b : Field) (g : Guard) (s : State) : Host.Outcome State Fault Refusal :=
  compute (.fadd d a b g) sh32 (fpFn2 fp32.add) d a b g false s

/-- FSUB (R157). -/
def execFsub (d a b : Field) (g : Guard) (s : State) : Host.Outcome State Fault Refusal :=
  compute (.fsub d a b g) sh32 (fpFn2 fp32.sub) d a b g false s

/-- FMUL (R157). -/
def execFmul (d a b : Field) (g : Guard) (s : State) : Host.Outcome State Fault Refusal :=
  compute (.fmul d a b g) sh32 (fpFn2 fp32.mul) d a b g false s

/-- FFMA (R157): a × b + d, rounded once. -/
def execFfma (d a b : Field) (g : Guard) (s : State) : Host.Outcome State Fault Refusal :=
  compute (.ffma d a b g) sh32 (fpFn3 fp32.fma) d a b g false s

/-- FMIN (R46, R157). -/
def execFmin (d a b : Field) (g : Guard) (s : State) : Host.Outcome State Fault Refusal :=
  compute (.fmin d a b g) sh32 (fpFn2 fun e => fp32.minmax e false) d a b g false s

/-- FMAX (R46, R157). -/
def execFmax (d a b : Field) (g : Guard) (s : State) : Host.Outcome State Fault Refusal :=
  compute (.fmax d a b g) sh32 (fpFn2 fun e => fp32.minmax e true) d a b g false s

/-- FCMP (R149, R150). -/
def execFcmp (path : BitVec 1) (cond pred : BitVec 3) (a b : Field) (g : Guard) (s : State) : Host.Outcome State Fault Refusal :=
  compare1 (.fcmp path cond pred a b g) sh32 (fun e a b => fp32.cmp e cond.toNat a.toNat b.toNat) path pred a b g false s

/-- FCLASS (R158): no flush, no flag. -/
def execFclass (d a : Field) (g : Guard) (s : State) : Host.Outcome State Fault Refusal :=
  compute (.fclass d a g) {} (pure3 fun a _ _ => BitVec.ofNat 64 (fp32.classOf a.toNat)) d a constZero g false s

/-- Rounding mode of FRND and CVTI: 4 is DYN, RM of CFPM (R159, R163). -/
def modeOf (env : FEnv) (m : BitVec 3) : RMode := if m.toNat = 4 then env.rm else RMode.ofBits (m.setWidth 2)

/-- FRND (R159): a rounded to an integral value. -/
def execFrnd (d a : Field) (m : BitVec 3) (g : Guard) (s : State) : Host.Outcome State Fault Refusal :=
  compute (.frnd d a m g) {} (fpFn1 fun e => fp32.integral e (modeOf e m)) d a constZero g false s

/-- FSCL (R157): a × 2^SX(b); b is an integer. -/
def execFscl (d a b : Field) (g : Guard) (s : State) : Host.Outcome State Fault Refusal :=
  compute (.fscl d a b g) {} (fun e a b _ => let x := fp32.scale e a.toNat (lo b).toInt; (BitVec.ofNat 64 x.1, x.2)) d a b g false s

/-! ## Packed FP16 and BF16 (R36, R160) -/

/-- Element i of a packed operand (R36). -/
def elem (x : DWord) (i : Nat) : Nat := bits x.toNat (16 * i) 16
/-- A packed instruction: each element on its own, flags ORed. -/
def packed (f : FEnv → Nat → Nat → Nat → Nat × FFlags) : LaneFn := fun env a b d =>
  let x := f env (elem a 0) (elem b 0) (elem d 0)
  let y := f env (elem a 1) (elem b 1) (elem d 1)
  (BitVec.ofNat 64 (x.1 + 2 ^ 16 * y.1), x.2 ||| y.2)

/-- HADD2 (R160). -/
def execHadd2 (d a b : Field) (g : Guard) (s : State) : Host.Outcome State Fault Refusal :=
  compute (.hadd2 d a b g) { cst := .packed fp16 } (packed fun e a b _ => fp16.add e a b) d a b g false s

/-- HMUL2 (R160). -/
def execHmul2 (d a b : Field) (g : Guard) (s : State) : Host.Outcome State Fault Refusal :=
  compute (.hmul2 d a b g) { cst := .packed fp16 } (packed fun e a b _ => fp16.mul e a b) d a b g false s

/-- HFMA2 (R160): d read per element. -/
def execHfma2 (d a b : Field) (g : Guard) (s : State) : Host.Outcome State Fault Refusal :=
  compute (.hfma2 d a b g) { cst := .packed fp16 } (packed fp16.fma) d a b g false s

/-- HMIN2 (R160). -/
def execHmin2 (d a b : Field) (g : Guard) (s : State) : Host.Outcome State Fault Refusal :=
  compute (.hmin2 d a b g) { cst := .packed fp16 } (packed fun e a b _ => fp16.minmax e false a b) d a b g false s

/-- HMAX2 (R160). -/
def execHmax2 (d a b : Field) (g : Guard) (s : State) : Host.Outcome State Fault Refusal :=
  compute (.hmax2 d a b g) { cst := .packed fp16 } (packed fun e a b _ => fp16.minmax e true a b) d a b g false s

/-- A packed compare (R149, R160): PRED for element 0 and PRED + 1 for element 1. -/
def packedCmpWr (f : Fmt) (cond pred : BitVec 3) (a b : Field) (g : Guard) (s : State) : List RegWr :=
  let u := s.sch.cur
  let r := s.regs
  (s.lanesOn g).flatMap fun m =>
    let env := r.fenv u.blk m.crew
    let x := r.aval u.blk m a false
    let y := r.bval u.blk m (.packed f) b false
    let c0 := f.cmp env cond.toNat (elem x 0) (elem y 0)
    let c1 := f.cmp env cond.toNat (elem x 1) (elem y 1)
    .p m.crew m.lane pred.toNat c0.1 :: .p m.crew m.lane (pred.toNat + 1) c1.1 :: flagWr m.crew (c0.2 ||| c1.2)

/-- Issue of a packed compare. -/
def packedCmpIssue (pred : BitVec 3) (a b : Field) (g : Guard) (s : State) : Issue :=
  { guard := g, keys := s.predKeys false pred.toNat ++ s.predKeys false (pred.toNat + 1) ++ s.aKeys a 1 ++ s.bKeys false b 1 }

/-- HCMP2 (R149, R160). -/
def execHcmp2 (path : BitVec 1) (cond pred : BitVec 3) (a b : Field) (g : Guard) (s : State) : Host.Outcome State Fault Refusal :=
  issue (.hcmp2 path cond pred a b g) (packedCmpIssue pred a b g s) s fun t =>
    (t.wrote (packedCmpWr fp16 cond pred a b g t)).advance 1

/-- BADD2 (R160). -/
def execBadd2 (d a b : Field) (g : Guard) (s : State) : Host.Outcome State Fault Refusal :=
  compute (.badd2 d a b g) { cst := .packed bf16 } (packed fun e a b _ => bf16.add e a b) d a b g false s

/-- BMUL2 (R160). -/
def execBmul2 (d a b : Field) (g : Guard) (s : State) : Host.Outcome State Fault Refusal :=
  compute (.bmul2 d a b g) { cst := .packed bf16 } (packed fun e a b _ => bf16.mul e a b) d a b g false s

/-- BFMA2 (R160): d read per element. -/
def execBfma2 (d a b : Field) (g : Guard) (s : State) : Host.Outcome State Fault Refusal :=
  compute (.bfma2 d a b g) { cst := .packed bf16 } (packed bf16.fma) d a b g false s

/-- BMIN2 (R160). -/
def execBmin2 (d a b : Field) (g : Guard) (s : State) : Host.Outcome State Fault Refusal :=
  compute (.bmin2 d a b g) { cst := .packed bf16 } (packed fun e a b _ => bf16.minmax e false a b) d a b g false s

/-- BMAX2 (R160). -/
def execBmax2 (d a b : Field) (g : Guard) (s : State) : Host.Outcome State Fault Refusal :=
  compute (.bmax2 d a b g) { cst := .packed bf16 } (packed fun e a b _ => bf16.minmax e true a b) d a b g false s

/-- BCMP2 (R149, R160). -/
def execBcmp2 (path : BitVec 1) (cond pred : BitVec 3) (a b : Field) (g : Guard) (s : State) : Host.Outcome State Fault Refusal :=
  issue (.bcmp2 path cond pred a b g) (packedCmpIssue pred a b g s) s fun t =>
    (t.wrote (packedCmpWr bf16 cond pred a b g t)).advance 1

/-! ## FP64 (R161) -/

/-- FP64 operands are pairs, constants are FP64 (R161). -/
def sh64 : Shape := { wd := true, wa := true, wb := true, cst := .fp fp64 }

/-- DADD (R161). -/
def execDadd (d a b : Field) (g : Guard) (s : State) : Host.Outcome State Fault Refusal :=
  compute (.dadd d a b g) sh64 (fpFn2 fp64.add) d a b g false s

/-- DMUL (R161). -/
def execDmul (d a b : Field) (g : Guard) (s : State) : Host.Outcome State Fault Refusal :=
  compute (.dmul d a b g) sh64 (fpFn2 fp64.mul) d a b g false s

/-- DFMA (R161): one rounding. -/
def execDfma (d a b : Field) (g : Guard) (s : State) : Host.Outcome State Fault Refusal :=
  compute (.dfma d a b g) sh64 (fpFn3 fp64.fma) d a b g false s

/-- DCMP (R161). -/
def execDcmp (path : BitVec 1) (cond pred : BitVec 3) (a b : Field) (g : Guard) (s : State) : Host.Outcome State Fault Refusal :=
  compare1 (.dcmp path cond pred a b g) sh64 (fun e a b => fp64.cmp e cond.toNat a.toNat b.toNat) path pred a b g false s

/-! ## Conversions (R162 to R164) -/

/-- FP format of a CVTF code 0 to 3. -/
def fmtOf (c : Nat) : Fmt := if c = 0 then fp32 else if c = 1 then fp64 else if c = 2 then fp16 else bf16

/-- CVTF (R162): the source value of code `src`, converted; 16-bit results leave d[31:16] zero. -/
def cvtfFn (h : BitVec 1) (src : BitVec 3) (dst : BitVec 2) : LaneFn := fun env a _ _ =>
  let outFmt := fmtOf dst.toNat
  let x := match src.toNat with
    | 0 => fp32.convert outFmt env (lo a).toNat
    | 1 => fp64.convert outFmt env a.toNat
    | 2 => fp16.convert outFmt env (elem a h.toNat)
    | 3 => bf16.convert outFmt env (elem a h.toNat)
    | 4 => outFmt.ofInt env (lo a).toInt
    | 5 => outFmt.ofInt env (lo a).toNat
    | 6 => outFmt.ofInt env a.toInt
    | _ => outFmt.ofInt env a.toNat
  (BitVec.ofNat 64 x.1, x.2)

/-- Operand widths of CVTF. -/
def cvtfShape (src : BitVec 3) (dst : BitVec 2) : Shape := { wd := dst == 1, wa := src == 1 || src == 6 || src == 7 }

/-- CVTF (R162). -/
def execCvtf (d a : Field) (h : BitVec 1) (src : BitVec 3) (dst : BitVec 2) (g : Guard) (s : State) : Host.Outcome State Fault Refusal :=
  compute (.cvtf d a h src dst g) (cvtfShape src dst) (cvtfFn h src dst) d a constZero g false s

/-- CVTI (R163, Table 11.11). -/
def cvtiFn (mode : BitVec 3) (dst src : BitVec 2) : LaneFn := fun env a _ _ =>
  let f := fmtOf src.toNat
  let v := if src = 1 then a.toNat else if src = 0 then (lo a).toNat else elem a 0
  let (l, h) : Int × Int := match dst.toNat with
    | 0 => (-2 ^ 31, 2 ^ 31 - 1)
    | 1 => (0, 2 ^ 32 - 1)
    | 2 => (-2 ^ 63, 2 ^ 63 - 1)
    | _ => (0, 2 ^ 64 - 1)
  let x := f.toInteger env (modeOf env mode) l h v
  (BitVec.ofInt 64 x.1, x.2)

/-- CVTI (R163). -/
def execCvti (d a : Field) (mode : BitVec 3) (dst src : BitVec 2) (g : Guard) (s : State) : Host.Outcome State Fault Refusal :=
  compute (.cvti d a mode dst src g) { wd := 2 ≤ dst.toNat, wa := src == 1 } (cvtiFn mode dst src) d a constZero g false s

/-- One element of PACK2 (R164). -/
def pack1 (m : BitVec 3) (env : FEnv) (x : Word) : Nat × FFlags :=
  match m.toNat with
  | 0 => fp32.convert fp16 env x.toNat
  | 1 => fp32.convert bf16 env x.toNat
  | 2 => (x.toNat % 2 ^ 16, 0)
  | 3 => ((BitVec.ofInt 16 (max (-32768) (min 32767 x.toInt))).toNat, 0)
  | _ => ((max 0 (min 65535 x.toInt)).toNat, 0)
/-- PACK2 (R164). -/
def pack2Fn (m : BitVec 3) : LaneFn := fun env a _ _ =>
  let x := pack1 m env (lo a)
  let y := pack1 m env (hi a)
  (BitVec.ofNat 64 (x.1 + 2 ^ 16 * y.1), x.2 ||| y.2)

/-- PACK2 (R164). -/
def execPack2 (d a : Field) (m : BitVec 3) (g : Guard) (s : State) : Host.Outcome State Fault Refusal :=
  compute (.pack2 d a m g) { wa := true } (pack2Fn m) d a constZero g false s

/-! ## Special functions (R165): SETA kind -/

/-- An SFU function as a lane function. -/
def sfuFn (f : FEnv → Word → Nat × FFlags) : LaneFn := fun env a _ _ => let x := f env (lo a); (BitVec.ofNat 64 x.1, x.2)

/-- RCP (R48, R165). -/
def execRcp (d a : Field) (g : Guard) (s : State) : Host.Outcome State Fault Refusal :=
  computeSfu (.rcp d a g) (sfuFn sfuRcp) d a g s

/-- RSQ (R48, R165). -/
def execRsq (d a : Field) (g : Guard) (s : State) : Host.Outcome State Fault Refusal :=
  computeSfu (.rsq d a g) (sfuFn sfuRsq) d a g s

/-- SQRT (R48, R165). -/
def execSqrt (d a : Field) (g : Guard) (s : State) : Host.Outcome State Fault Refusal :=
  computeSfu (.sqrt d a g) (sfuFn sfuSqrt) d a g s

/-- EXP2 (R48, R165). -/
def execExp2 (d a : Field) (g : Guard) (s : State) : Host.Outcome State Fault Refusal :=
  computeSfu (.exp2 d a g) (sfuFn sfuExp2) d a g s

/-- LOG2 (R48, R165). -/
def execLog2 (d a : Field) (g : Guard) (s : State) : Host.Outcome State Fault Refusal :=
  computeSfu (.log2 d a g) (sfuFn sfuLog2) d a g s

/-- SINP (R48, R165). -/
def execSinp (d a : Field) (g : Guard) (s : State) : Host.Outcome State Fault Refusal :=
  computeSfu (.sinp d a g) (sfuFn sfuSinp) d a g s

/-- COSP (R48, R165). -/
def execCosp (d a : Field) (g : Guard) (s : State) : Host.Outcome State Fault Refusal :=
  computeSfu (.cosp d a g) (sfuFn sfuCosp) d a g s

/-- TANH (R48, R165). -/
def execTanh (d a : Field) (g : Guard) (s : State) : Host.Outcome State Fault Refusal :=
  computeSfu (.tanh d a g) (sfuFn sfuTanh) d a g s

/-! ## Moves (R166, R167) -/

/-- MOV (R166): the four forms of Table 11.12; V2K reads the lowest active lane. -/
def movWr (d a : Field) (g : Guard) (s : State) : List RegWr :=
  let u := s.sch.cur
  let r := s.regs
  if d.isK && !a.isK then
    match u.members.head? with
    | some m => if s.guardOn g m then [.k m.crew d.num (lo (r.vval u.blk m a false))] else []
    | none => []
  else computeWr {} (pure3 fun a _ _ => a) d a constZero g s

/-- MOV (R166). V2K in a feed thread is ILLOP (R140). -/
def execMov (d a : Field) (g : Guard) (s : State) : Host.Outcome State Fault Refusal :=
  issue (.mov d a g) { computeIssue {} d a constZero g 1 true s with feed := d.isK && a.isK } s fun t => (t.wrote (movWr d a g t)).advance 1

/-- MOVI and MOVL read no register (R167). -/
def literalAct (x : DWord) (d : Field) (g : Guard) (words : Nat) (t : State) : State :=
  (t.wrote (computeWr {} (pure3 fun _ _ _ => x) d constZero constZero g t)).advance words

/-- Issue of MOVI and MOVL. -/
def literalIssue (d : Field) (g : Guard) (words : Nat) (s : State) : Issue :=
  { computeIssue {} d constZero constZero g words true s with keys := s.fieldKeys d d.isK 1 }

/-- MOVI (R167): d ← SX(imm14). -/
def execMovi (d : Field) (i : BitVec 14) (g : Guard) (s : State) : Host.Outcome State Fault Refusal :=
  issue (.movi d i g) (literalIssue d g 1 s) s (literalAct (i.signExtend 64) d g 1)

/-- MOVL (R167): d ← the literal word. -/
def execMovl (d : Field) (g : Guard) (lit : Word) (s : State) : Host.Outcome State Fault Refusal :=
  issue (.movl d g lit) (literalIssue d g 2 s) s (literalAct (lit.zeroExtend 64) d g 2)

end Sys2Proof.Machine
end

