-- ==== Sys2Proof/Machine/Crew.lean ====
section
/-!
DEFINITION. Crew operations VOTE, SHFL, CRED, CSCAN, MATCH, CSYNC (spec/13_isa_control.md R180 to R186; spec/03 R55; spec/01 R23 to
R25).
-/
namespace Sys2Proof.Machine

/-- Keys of a predicate result; PD 0 writes none. -/
def State.pdKeys (s : State) (n : Nat) : List RegKey := if n = 0 then [] else [.p s.sch.cur.blk s.sch.cur.crew n]

/-- Issue of a crew operation: groups of `nd` registers at d and `na` at a, predicates read or written. -/
def crewIssue (d a b : Field) (nd na : Nat) (ps : List Nat) (g : Guard) (m : CrewMod) (s : State) : Issue :=
  { words := 2, bound := .members m, guard := g,
    keys := s.fieldKeys d false nd ++ s.aKeys a na ++ s.bKeys false b 1 ++ ps.flatMap s.pdKeys ++ s.maskKeys m }

/-- Tile width of the issuing crew: 2^LOG2W (Table 13.5). -/
def State.tileWidth (s : State) : Nat := 2 ^ (s.regs.crewSt s.sch.cur.blk s.sch.cur.crew).cpart

/-- A crew operation over its arrived threads: `fn` gives the writes of each tile from its first lane and its contributing lanes. -/
def State.perTile (s : State) (g : Guard) (fn : Nat → List Member → List RegWr) : List RegWr :=
  let w := s.tileWidth
  (List.range (32 / w)).flatMap fun t => fn (t * w) ((s.lanesOn g).filter fun m => m.lane / w == t)

/-- Predicate write; PD 0 writes none. -/
def pdWr (m : Member) (pd : Nat) (v : Bool) : List RegWr := if pd = 0 then [] else [.p m.crew m.lane pd v]

/-- Bitmap of lanes. -/
def laneMask (ls : List Nat) : Nat := (dedup ls).foldl (fun n l => n + 2 ^ l) 0

/-- VOTE's writes of a tile (R182). -/
def voteTile (s : State) (d : Field) (m : CrewMod) (contrib : List Member) : List RegWr :=
  let b := s.sch.cur.blk
  let ps := bits m.imm.toNat 0 3
  let pd := bits m.imm.toNat 3 3
  let yes := contrib.filter fun t => s.regs.preg b t.crew t.lane ps != m.imm.getLsbD 6
  let r := match m.opc.toNat with
    | 0 => !yes.isEmpty
    | 1 => yes.length == contrib.length
    | _ => yes.isEmpty || yes.length == contrib.length
  let ballot := BitVec.ofNat 64 (laneMask (yes.map fun t => t.lane))
  contrib.flatMap fun t => s.regs.vwr b t d false ballot ++ pdWr t pd r

/-- VOTE (R182). -/
def execVote (d : Field) (g : Guard) (m : CrewMod) (s : State) : Host.Outcome State Fault Refusal :=
  issue (.vote d g m) (crewIssue d constZero constZero 1 0 [bits m.imm.toNat 0 3, bits m.imm.toNat 3 3] g m s) s fun t =>
    (t.wrote (t.perTile g fun _ c => voteTile t d m c)).advance 2

/-- Source lane of SHFL (R183): position x in a tile of w lanes from `base`, selector j. -/
def shflSource (opc base w x sel : Nat) : Nat :=
  let j := sel % w
  base + match opc with
    | 0 => j
    | 1 => (x + w - j) % w
    | 2 => (x + j) % w
    | _ => Nat.xor x j

/-- SHFL's writes of a tile (R183). -/
def shflTile (s : State) (d a b : Field) (m : CrewMod) (mask : Word) (base : Nat) (contrib : List Member) : List RegWr :=
  let blk := s.sch.cur.blk
  let wide := m.type == 1
  let pd := bits m.imm.toNat 0 3
  contrib.flatMap fun t =>
    let src := shflSource m.opc.toNat base s.tileWidth (t.lane - base) (s.regs.bval blk t .int b false).toNat
    let valid := mask.getLsbD src
    let from' : Member := if valid then ⟨src, t.crew⟩ else t
    s.regs.vwr blk t d wide (s.regs.aval blk from' a wide) ++ pdWr t pd valid

/-- SHFL (R183). -/
def execShfl (d a b : Field) (g : Guard) (m : CrewMod) (s : State) : Host.Outcome State Fault Refusal :=
  issue (.shfl d a b g m) (crewIssue d a b (regsOf (m.type == 1)) (regsOf (m.type == 1)) [bits m.imm.toNat 0 3] g m s) s fun t =>
    (t.wrote (t.perTile g fun base c => shflTile t d a b m (t.memberMask m) base c)).advance 2

/-- Format of a type code of Table 13.2 for FP operations: FP32, FP64, packed FP16, packed BF16. -/
def redFmt (type : Nat) : Fmt := match type with
  | 0 => fp32
  | 1 => fp64
  | 2 => fp16
  | _ => bf16

/-- Both elements of a packed value, or the one value. -/
def perElem (type : Nat) (f : Nat → Nat → Nat × FFlags) (a b : DWord) : DWord × FFlags :=
  if type < 2 then let x := f a.toNat b.toNat; (BitVec.ofNat 64 x.1, x.2)
  else
    let x := f (elem a 0) (elem b 0)
    let y := f (elem a 1) (elem b 1)
    (BitVec.ofNat 64 (x.1 + 2 ^ 16 * y.1), x.2 ||| y.2)

/-- Integer operation of Table 13.2 on n bits. -/
def redInt (opc n : Nat) (a b : Nat) : Nat :=
  match opc with
  | 0 => (a + b) % 2 ^ n
  | 1 => if sext b n < sext a n then b else a
  | 2 => if sext a n < sext b n then b else a
  | 3 => min a b
  | 4 => max a b
  | 5 => Nat.land a b
  | 6 => Nat.lor a b
  | _ => Nat.xor a b

/-- An operator node of R55: the lower lane's value is a. -/
def redOp (opc type : Nat) (env : FEnv) (a b : DWord) : DWord × FFlags :=
  match opc with
  | 8 => perElem type (fun x y => (redFmt type).add env x y) a b
  | 9 => perElem type (fun x y => (redFmt type).minmax env false x y) a b
  | 10 => perElem type (fun x y => (redFmt type).minmax env true x y) a b
  | _ => (BitVec.ofNat 64 (redInt opc (if type = 1 then 64 else 32) a.toNat b.toNat), 0)

/-- Identity of an operation for one element of n bits in format f (Table 3.5). -/
def redIdent1 (opc n : Nat) (f : Fmt) : Nat :=
  match opc with
  | 1 => 2 ^ (n - 1) - 1
  | 2 => 2 ^ (n - 1)
  | 3 => 2 ^ n - 1
  | 5 => 2 ^ n - 1
  | 8 => f.signBit
  | 9 => f.infBits
  | 10 => f.signed true f.infBits
  | _ => 0

/-- Identity of an operation and type. -/
def redIdent (opc type : Nat) : DWord :=
  let x := redIdent1 opc (if type = 1 then 64 else 32) (redFmt type)
  BitVec.ofNat 64 (if type < 2 then x else x + 2 ^ 16 * x)

/-- One node of a scan or reduction, its flags joined. -/
def redNode (opc type : Nat) (env : FEnv) (xs : List DWord) (i j : Nat) : DWord × FFlags :=
  redOp opc type env (xs.getD i 0) (xs.getD j 0)

/-- CRED's tree over a tile (R55). -/
def credTree (opc type : Nat) (env : FEnv) (w : Nat) (xs : List DWord) : DWord × FFlags :=
  let r := (List.range w.log2).foldl (fun (acc : List DWord × FFlags) t =>
    let nodes := (List.range w).map fun i =>
      if i % 2 ^ (t + 1) = 0 then redNode opc type env acc.1 i (i + 2 ^ t) else (acc.1.getD i 0, 0)
    (nodes.map fun n => n.1, nodes.foldl (fun f n => f ||| n.2) acc.2)) (xs, 0)
  (r.1.getD 0 0, r.2)

/-- CSCAN's tree over a tile (R55). A lane that passes no node delivers its source bits as they are, whatever FZ says and also where they are a signalling NaN:
R55 says nothing of it, and this is the model's choice (log 52). -/
def cscanTree (opc type : Nat) (env : FEnv) (w : Nat) (xs : List DWord) : List DWord × FFlags :=
  (List.range w.log2).foldl (fun (acc : List DWord × FFlags) t =>
    let nodes := (List.range w).map fun i =>
      if 2 ^ t ≤ i then redNode opc type env acc.1 (i - 2 ^ t) i else (acc.1.getD i 0, 0)
    (nodes.map fun n => n.1, nodes.foldl (fun f n => f ||| n.2) acc.2)) (xs, 0)

/-- Values of a tile: a contributing lane's source, else the identity (R55). -/
def tileVals (s : State) (a : Field) (m : CrewMod) (base : Nat) (contrib : List Member) : List DWord :=
  (List.range s.tileWidth).map fun i =>
    match contrib.find? fun t => t.lane == base + i with
    | some t => s.regs.aval s.sch.cur.blk t a (m.type == 1)
    | none => redIdent m.opc.toNat m.type.toNat

/-- CRED's writes of a tile. -/
def credTile (s : State) (d a : Field) (m : CrewMod) (base : Nat) (contrib : List Member) : List RegWr :=
  let u := s.sch.cur
  let r := credTree m.opc.toNat m.type.toNat (s.regs.fenv u.blk u.crew) s.tileWidth (tileVals s a m base contrib)
  (contrib.flatMap fun t => s.regs.vwr u.blk t d (m.type == 1) r.1) ++ flagWr u.crew r.2

/-- CRED (R184, R55). -/
def execCred (d a : Field) (g : Guard) (m : CrewMod) (s : State) : Host.Outcome State Fault Refusal :=
  issue (.cred d a g m) (crewIssue d a constZero (regsOf (m.type == 1)) (regsOf (m.type == 1)) [] g m s) s fun t =>
    (t.wrote (t.perTile g fun base c => credTile t d a m base c)).advance 2

/-- CSCAN's writes of a tile: inclusive, or exclusive under IMM[0]. -/
def cscanTile (s : State) (d a : Field) (m : CrewMod) (base : Nat) (contrib : List Member) : List RegWr :=
  let u := s.sch.cur
  let r := cscanTree m.opc.toNat m.type.toNat (s.regs.fenv u.blk u.crew) s.tileWidth (tileVals s a m base contrib)
  let val := fun (x : Nat) => if m.imm.getLsbD 0 then (if x = 0 then redIdent m.opc.toNat m.type.toNat else r.1.getD (x - 1) 0) else r.1.getD x 0
  (contrib.flatMap fun t => s.regs.vwr u.blk t d (m.type == 1) (val (t.lane - base))) ++ flagWr u.crew r.2

/-- CSCAN (R184, R55). -/
def execCscan (d a : Field) (g : Guard) (m : CrewMod) (s : State) : Host.Outcome State Fault Refusal :=
  issue (.cscan d a g m) (crewIssue d a constZero (regsOf (m.type == 1)) (regsOf (m.type == 1)) [] g m s) s fun t =>
    (t.wrote (t.perTile g fun base c => cscanTile t d a m base c)).advance 2

/-- MATCH's writes of a tile (R185). -/
def matchTile (s : State) (d a : Field) (m : CrewMod) (contrib : List Member) : List RegWr :=
  let b := s.sch.cur.blk
  let wide := m.type == 1
  let pd := bits m.imm.toNat 0 3
  contrib.flatMap fun t =>
    let same := contrib.filter fun x => s.regs.aval b x a wide == s.regs.aval b t a wide
    s.regs.vwr b t d false (BitVec.ofNat 64 (laneMask (same.map fun x => x.lane))) ++ pdWr t pd (lowLane (laneSort same) == t.lane)

/-- MATCH (R185). -/
def execMatchEq (d a : Field) (g : Guard) (m : CrewMod) (s : State) : Host.Outcome State Fault Refusal :=
  issue (.matchEq d a g m) (crewIssue d a constZero 1 (regsOf (m.type == 1)) [bits m.imm.toNat 0 3] g m s) s fun t =>
    (t.wrote (t.perTile g fun _ c => matchTile t d a m c)).advance 2

/-- CSYNC (R186): the arrived threads continue as one bundle. -/
def execCsync (g : Guard) (m : CrewMod) (s : State) : Host.Outcome State Fault Refusal :=
  issue (.csync g m) { words := 2, bound := .members m, guard := g, keys := s.maskKeys m } s fun t => t.advance 2

end Sys2Proof.Machine
end

