-- ==== Sys2Proof/Machine/Land.lean ====
section
/-!
DEFINITION. Results that land, stores that leave and are acknowledged, and FENCER's visits, as events (spec/07 R87, R91; spec/09 R109;
spec/15 R210, R213, R219, R220, R224; spec/17 R265; spec/25 R341).
-/
namespace Sys2Proof.Machine

/-- ECCUNC found after issue (R213, R313, R345): the block of an unguarded launch is killed, a guarded pair rolls back. -/
def State.eccunc (s : State) (b : Nat) (own : Bool) : State := if s.guardedBlk b then s.pairBad b own else s.killBlock b

/-- Barriers that may complete once an operation of a block has. -/
def State.recheck (s : State) (b : Nat) : State := (s.checkBars b).lbarCheck (s.block b).launch

/-! ## Results (R109, R210, R219, R220) -/

/-- Register writes of one lane of a pending operation from its bytes. -/
def Plan.laneWrs (p : Plan) (l : LaneLoad) : List RegWr :=
  match p with
  | .vload cell wid sx => cellWrs ⟨l.lane, l.crew⟩ cell (loadWords (2 ^ wid) sx l.bytes)
  | .kload c n wid sx => kWrs c n (loadWords (2 ^ wid) sx l.bytes)
  | .vatom cell wid sp cmp =>
    cellWrs ⟨l.lane, l.crew⟩ cell (loadWords (2 ^ wid) false l.bytes) ++
      (if sp = 0 then [] else [.p l.crew l.lane sp (cmp.any fun e => e.1 == l.lane && e.2 == bytesToNat l.bytes)])
  | .katom c n wid sq cmp =>
    kWrs c n (loadWords (2 ^ wid) false l.bytes) ++ (match sq with
      | some q => [.q c q (cmp == bytesToNat l.bytes)]
      | Option.none => [])
  | .none | .recld _ | .tdmk _ | .kvtest | .wq | .refill => []

/-- Every register write of a pending operation that lands. -/
def Pend.writes (p : Pend) : List RegWr := p.outs ++ p.lanes.flatMap p.plan.laneWrs

/-- Another acquire that the bundle of a landed one still waits for: the same instruction, another of its crews (R89). -/
def State.nextAcquire (s : State) (u : Bundle) (p : Pend) : Option Pend :=
  s.pipe.pends.find? fun q => q.id != p.id && q.acq != 0 && q.blk == u.blk && q.pc == u.pc && u.crews.contains q.crew

/-- The bundle that waits for a landed operation goes on. -/
def State.resumePend (s : State) (p : Pend) : State :=
  s.mapBundles fun u =>
    if u.wait == .pend p.id then
      match s.nextAcquire u p with
      | some q => { u with wait := .pend q.id }
      | none => u.resume
    else u

/-- The twin's operation receives the primary's results (R341). -/
def State.toMirrors (s : State) (p : Pend) (ws : List RegWr) : State :=
  State.noteEnd { s with pipe := { s.pipe with pends := s.pipe.pends.map fun (q : Pend) =>
      if (q.mirror == some p.id) = true then { q with outs := ws, parts := 0, mirror := none, poisoned := p.poisoned } else q } }
    { id := p.id, ws := ws, poisoned := p.poisoned, trap := none }

/-- Is a result for a thread that has not exited? The pending results of an exited lane are discarded (R179). -/
def State.wanted (s : State) (b : Nat) : RegWr → Bool
  | .cell c _ l _ | .p c l _ _ | .part c _ l _ => (s.liveMask b c).getLsbD l
  | .k _ _ _ | .q _ _ _ | .flags _ _ => true

/-- A pending operation lands with its register writes: its flag and its registers are free, an acquire takes effect. -/
def State.landWith (s : State) (p : Pend) (ws : List RegWr) : State :=
  let t := (s.setRegs (s.regs.applyAll p.blk (ws.filter (s.wanted p.blk)))).dropPend p.id
  let t := t.toMirrors p ws
  let t := if p.acq = 0 then t else t.acquire p.blk p.acq
  (t.resumePend p).recheck p.blk

/-- TDMK's image has arrived (R265): while its walks and its reads of the shard table have to wait, nothing lands. -/
def State.landTdmk (s : State) (p : Pend) (kd : Nat) : State :=
  let image := BitVec.ofNat 2048 (bytesToNat (p.lanes.flatMap fun l => l.bytes))
  let w : TdUser := ⟨p.blk, p.crew⟩
  let r := s.tdMake w image
  match (r.1, if r.1 = .wait then r.2 else r.2.dropShards w) with
  | (.wait, t) => t
  | (.bad (.eccunc, _), t) => ((t.dropPend p.id).toMirrors { p with poisoned := true } []).eccunc p.blk true
  | (.bad (c, some va), t) => t.trapPend p.id { cls := c, va := va, words := 2 }
  | (.bad (c, none), t) => if c = .illop then t.trapPend p.id { cls := c, words := 2 }
    else t.drawn.trapPend p.id { cls := c, va := t.freshValue.toNat, words := 2 }
  | (.ok td, t) => match t.freeHandle p.blk with
    | some h => State.landWith { t with sp := { t.sp with tds := t.sp.tds ++ [{ td with handle := h }] } } p [.k p.crew kd (BitVec.ofNat 32 h)]
    | none => t.landWith p [.k p.crew kd 0xFFFFFFFF]

/-- RECLD's record has arrived (R224). -/
def State.landRecld (s : State) (p : Pend) (n : Nat) : State :=
  let r := BitVec.ofNat 256 (bytesToNat (p.lanes.flatMap fun l => l.bytes))
  if recInvalid r then s.trapPend p.id { cls := .illop, words := 2 } else (s.setRecord p.blk n r).landWith p []

/-- RESULT_LAND (R109, R213): an operation that is complete lands; poisoned bytes raise ECCUNC. -/
def execResultLand (n : Nat) (s : State) : Host.Outcome State Fault Refusal :=
  match s.pend n with
  | none => .next s
  | some p =>
    if p.parts ≠ 0 || p.mirror.isSome || p.plan = .kvtest || p.plan = .refill then .next s
    else if p.poisoned then .next (((s.dropPend n).toMirrors p []).eccunc p.blk true)
    else match p.plan with
      | .tdmk kd => .next (s.landTdmk p kd)
      | .recld r => .next (s.landRecld p r)
      | _ => .next (s.landWith p p.writes)

/-! ## Stores (R87, R97) -/

/-- Is an atomic of a core on bytes of a store-buffer entry under way? Such an entry's bytes are stored behind it. -/
def State.atomAhead (s : State) (e : SbEntry) : Bool := s.inFlight.any fun r => r.core == e.core && match r.kind with
  | .atomic _ wid _ _ _ _ _ _ => e.bytes.any fun x => decide (r.pa ≤ e.pa + x.1) && decide (e.pa + x.1 < r.pa + wid)
  | _ => false

/-- May a store-buffer entry leave: no earlier entry of its quarter for its line, and those acknowledged that it comes after? -/
def State.mayLeave (s : State) (e : SbEntry) : Bool :=
  !e.left && !(s.pipe.sbuf.any fun x => x.core == e.core && x.qtr == e.qtr && x.pa == e.pa && !x.left && x.id < e.id) &&
  !(e.after.any fun a => s.pipe.sbuf.any fun x => x.id == a) && !s.atomAhead e

/-- STORE_BUFFER_LEAVE (R87): the L1 port takes an entry, updates the copies of its line and sends the store to its home point. -/
def execStoreBufferLeave (n : Nat) (s : State) : Host.Outcome State Fault Refusal :=
  match s.pipe.sbuf.find? fun e => e.id == n with
  | none => .next s
  | some e =>
    if !s.mayLeave e then .next s
    else
      let t := s.l1Update e.core (lineOf e.pa) e.bytes
      let t := { t with pipe := { t.pipe with sbuf := t.pipe.sbuf.map fun (x : SbEntry) => if x.id == n then { x with left := true } else x } }
      let t := t.addReq { id := 0, slice := e.home, core := e.core, ctx := e.ctx, pa := e.pa, kind := .store n e.bytes, pend := 0
                          tkeep := polKeep e.pol, tnorm := polNorm e.pol, ccls := e.ccls, ilv := e.ilv, charged := false, heldTo := 0 }
      .next (t.recheck e.blk)

/-- STORE_ACK (R87): a store is acknowledged; each operation it is a part of has one part less to wait for. -/
def execStoreAck (n : Nat) (s : State) : Host.Outcome State Fault Refusal :=
  match s.pipe.acks.find? fun a => a.id == n with
  | none => .next s
  | some a =>
    let blks := dedup ((s.pipe.pends.filter fun p => a.pends.contains p.id).map fun p => p.blk)
    let t := a.pends.foldl (fun t p => t.partDone p) s
    let t := { t with pipe := { t.pipe with acks := t.pipe.acks.filter (fun (x : Ack) => x.id != n), sbuf := t.pipe.sbuf.filter fun (e : SbEntry) => e.id != a.entry } }
    .next (blks.foldl (fun t b => t.recheck b) t)

/-! ## WAITCMP's polls (R192, R213) -/

/-- Monitors that have read poison are consumed: their blocks take ECCUNC. -/
def State.badMonitors (s : State) : State :=
  let bs := dedup ((s.pipe.mons.filter fun m => m.bad).map fun m => m.blk)
  bs.foldl (fun t b => t.eccunc b false) { s with pipe := { s.pipe with mons := s.pipe.mons.map fun m => { m with bad := false } } }

/-- A monitor that is not armed sends its read again. -/
def State.pollAgain (s : State) (n : Nat) : State :=
  match s.pipe.mons[n]? with
  | some m => match (if m.armed || m.asked || m.done then none else m.req) with
    | some r => State.addReq { s with pipe := { s.pipe with mons := s.pipe.mons.set n { m with asked := true } } }
        { r with kind := .monitor m.id m.lane m.crew m.wid true }
    | none => s
  | none => s

/-- WAITCMP_POLL (R192): a monitor that is not armed reads its location again; poison that any has read is consumed first (R213). -/
def execWaitcmpPoll (n : Nat) (s : State) : Host.Outcome State Fault Refusal := .next (s.badMonitors.pollAgain n)

/-! ## FENCER (R91) -/

/-- Is something of a core under way that FENCER waits for (R91, R92): stores not acknowledged, and loads and atomics not performed? -/
def State.coreBusy (s : State) (k : Nat) : Bool :=
  (s.pipe.sbuf.any fun e => e.core == k) || s.inFlight.any fun r => r.core == k && match r.kind with
    | .load _ _ _ _ _ | .store _ _ | .atomic _ _ _ _ _ _ _ _ => true
    | .pref _ | .monitor _ _ _ _ _ => false

/-- FENCER_VISIT (R91): after its own release, FENCER drains and invalidates the next core of its scope; when none is left it acquires and
its bundle goes on. -/
def execFencerVisit (n : Nat) (s : State) : Host.Outcome State Fault Refusal :=
  match s.sch.fencers.find? fun f => f.id == n with
  | none => .next s
  | some f =>
    match f.cores with
    | k :: rest =>
      if f.crews.any fun c => s.releaseWaits f.blk c f.scope then .next s
      else if s.coreBusy k then .next s
      else .next { (s.setL1 (s.pipe.l1.filter fun x => x.core != k)) with
        sch := { s.sch with fencers := s.sch.fencers.map fun g => if g.id == n then { g with cores := rest } else g } }
    | [] =>
      let t := s.acquire f.blk f.scope
      let t := { t with sch := { t.sch with fencers := t.sch.fencers.filter fun g => g.id != n } }
      .next (t.mapBundles fun u => if u.wait == .fencer n then u.resume else u)

end Sys2Proof.Machine
end

