-- ==== Sys2Proof/Machine/Slice.lean ====
section
/-!
DEFINITION. The home slices and the network as events: requests served, fills, write-backs, way masks, links, HMAP, page walks
(spec/05 R60 to R67, R72, R77 to R82; spec/07 R87; spec/23 R325; spec/27 R357, R358).
-/
namespace Sys2Proof.Machine

/-! ## Links (R79) -/

/-- LINK_WINDOW_END (R79): a 4,096-cycle window has ended (log 1); a link with fewer than 492 busy cycles starts to narrow. -/
def execLinkWindowEnd (link : Nat) (s : State) : Host.Outcome State Fault Refusal :=
  let l := s.link link
  let goes := l.reneg.isNone && l.width < 2 && l.busy < 492
  .next (s.setLink link { l with busy := 0, reneg := if goes then some (l.width + 1) else l.reneg })

/-- Flits that wait for a link: those in its input queue, and, while it renegotiates, those of the requests that it holds. -/
def State.linkFlits (s : State) (link : Nat) : Nat :=
  let held := fun (r : Req) => ((r.links.filter fun e => e.1 == link).map fun e => e.2).sum
  s.linkQueue link + if (s.link link).reneg.isSome then (s.pipe.reqs.map held).sum else 0
/-- Is a narrowed link to widen: its input queue has reached 4 flits? -/
def State.widens (s : State) (link : Nat) : Bool := (s.link link).peak || decide (4 ≤ s.linkFlits link)

/-- LINK_WIDEN (R79): the input queue of a narrowed link has reached 4 flits. -/
def execLinkWiden (link : Nat) (s : State) : Host.Outcome State Fault Refusal :=
  let l := s.link link
  if l.width ≠ 0 && s.widens link && l.reneg.isNone then .next (s.setLink link { l with reneg := some 0, peak := false }) else .next s

/-- LINK_RENEGOTIATION_END (R79): the link has its new width; a queue that has reached 4 flits meanwhile starts the widening. -/
def execLinkRenegotiationEnd (link : Nat) (s : State) : Host.Outcome State Fault Refusal :=
  let l := s.link link
  match l.reneg with
  | none => .next s
  | some w =>
    .next (s.setLink link { l with width := w, queue := if w = 0 then 0 else s.linkQueue link, since := s.now, peak := false,
                                   reneg := if w ≠ 0 && s.widens link then some 0 else none })

/-! ## Serving requests (R60 to R63, R72, R77) -/

/-- Launch of the block that a request belongs to, 0 for none: LAUNCHID of an array entry. -/
def State.reqLaunch (s : State) (r : Req) : Nat :=
  match r.kind with
  | .store id _ => ((s.pipe.sbuf.find? fun e => e.id == id).map fun e => (s.launchOf e.blk).id).getD (((s.pend r.pend).map fun p => (s.launchOf p.blk).id).getD 0)
  | _ => ((s.pend r.pend).map fun p => (s.launchOf p.blk).id).getD 0

/-- The request does its work at the home slice, on a line that stands in the arrays or behind them. -/
def State.serveHere (s : State) (r : Req) : State :=
  let line := lineOf r.pa
  if r.kind.isWrite then s.perform r else (s.readLine r.slice line (s.reqLaunch r)).perform r

/-- Put a request behind the fill of its line, starting it where none is in flight (R63). -/
def State.joinFill (s : State) (r : Req) : State :=
  let line := lineOf r.pa
  if s.pipe.fills.any fun f => f.slice == r.slice && f.line == line then
    { s with pipe := { s.pipe with fills := s.pipe.fills.map fun (f : Fill) => if f.slice == r.slice && f.line == line then { f with reqs := f.reqs ++ [r] } else f } }
  else
    let f : Fill := { id := s.pipe.nextId, slice := r.slice, line := line, loc := localLine r.ilv line, tenant := s.tenant r.ctx,
                      cls := lineClass line r.tkeep r.tnorm, reqs := [r] }
    { s with pipe := { s.pipe with nextId := s.pipe.nextId + 1, fills := s.pipe.fills ++ [f] } }

/-- Serve a request (R60 to R63, R72), or none while it waits for a pin's transfer or for the write-back buffer. What executes at a CXL port (R364), a store
to a host line, and a request that does not allocate, pass the MSC by; a store of a whole line allocates it without a read. -/
def State.serveReq (s : State) (r : Req) : Option State :=
  let line := lineOf r.pa
  match s.pinView line with
  | .waits => none
  | .served => some (s.serveHere r)
  | .none =>
    if r.atPort then (if s.pipe.fills.any fun f => f.line == line && f.reqs.any fun x => x.core == r.core then none else some (s.perform r))
    else if s.pipe.fills.any fun f => f.slice == r.slice && f.line == line then some (s.joinFill r)
    else if (s.mscFind r.slice line).isSome then some ((s.mscHit r.slice line r.kind.isWrite).serveHere r)
    else if paRegion r.pa == .pin then some (match r.kind with
      | .store id _ => s.perform { r with kind := .store id [] }
      | _ => s.perform r)
    else if !s.allocates r.slice line (s.tenant r.ctx) r.ccls then
      (if s.pathHolds (stackTrip r.slice line (flitsOf r.kind.isWrite 64)) then none else some ((s.crossAll (stackTrip r.slice line (flitsOf r.kind.isWrite 64))).perform r))
    else match r.kind with
      | .store _ bs =>
        if paRegion r.pa == .host then some (s.perform r)
        else if 64 ≤ bs.length then
          (s.fillMsc r.slice line (localLine r.ilv line) (s.tenant r.ctx) (lineClass line r.tkeep r.tnorm) (s.reqLaunch r) .whole).map fun t =>
            t.perform r
        else some (s.joinFill r)
      | _ => some (s.joinFill r)

/-- Serve the first request of a list that may be served: none before it of its cluster to its line is left behind, nor the one for its lane's lower
line (R97). -/
def State.serveFirst (s : State) (before : List Req) : List Req → Option (Req × State)
  | [] => none
  | r :: t =>
    let behind := (before.any fun x => lineOf x.pa == lineOf r.pa && (coreCluster x.core == coreCluster r.core || s.arrived x)) ||
      (r.after != 0 && s.inFlight.any fun x => x.id == r.after)
    match (if behind || !s.arrived r then none else s.serveReq r) with
    | some u => some (r, u)
    | none => s.serveFirst (before ++ [r]) t

/-- Requests of a slice in arrival order; of those of one cycle the ones on slice port 0 come first (R77). -/
def State.queueOf (s : State) (sl : Nat) : List Req := sortBy (fun r => 2 * r.at' + r.slicePort) (s.pipe.reqs.filter fun r => r.slice == sl)

/-- SLICE_SERVE (R77, R60 to R63, R72): a slice serves its first request, in arrival order. -/
def execSliceServe (sl : Nat) (s : State) : Host.Outcome State Fault Refusal :=
  match s.serveFirst [] (s.queueOf sl) with
  | none => .next s
  | some (r, t) =>
    let t := t.crossAll r.links
    .next { t with pipe := { t.pipe with reqs := t.pipe.reqs.filter fun x => x.id != r.id } }

/-- Does a request of its cluster to its line stand before it in the queue: the write-through of an atomic behind the same fill (R94)? -/
def State.throughAhead (s : State) (r : Req) : Bool :=
  s.pipe.reqs.any fun x => coreCluster x.core == coreCluster r.core && lineOf x.pa == lineOf r.pa && decide (x.at' < r.at') && x.kind.isWrite

/-- The requests behind a fill that has landed are served in turn; those still to come stay behind it meanwhile, and go to the slice's queue where one has
to wait for the write-through of an atomic before it. -/
def State.serveBehind (n slice line : Nat) : List Req → State → State
  | [], s => { s with pipe := { s.pipe with fills := s.pipe.fills.filter fun x => x.id != n } }
  | r :: rest, s =>
    if s.throughAhead r then
      { s with pipe := { s.pipe with fills := s.pipe.fills.filter (fun x => x.id != n), reqs := s.pipe.reqs ++ r :: rest } }
    else
    let left := fun (f : Fill) => if f.id == n then { f with reqs := rest } else f
    let t := { s with pipe := { s.pipe with fills := s.pipe.fills.map left } }
    State.serveBehind n slice line rest (if r.kind.isWrite then (t.mscHit slice line true).perform r else t.perform r)

/-- MSC_FILL (R60, R63): a fill lands, and the requests behind it are served in queue order. The way that it takes is chosen now (log 50). -/
def execMscFill (n : Nat) (s : State) : Host.Outcome State Fault Refusal :=
  match s.pipe.fills.find? fun f => f.id == n with
  | none => .next s
  | some f =>
    match s.fillMsc f.slice f.line f.loc f.tenant f.cls ((f.reqs.head?.map s.reqLaunch).getD 0) .read with
    | none => .next s
    | some t => .next (State.serveBehind n f.slice f.line f.reqs t)

/-- WRITEBACK_SEND (R62): the buffer sends its oldest entry that it has not sent. -/
def execWritebackSend (sl : Nat) (s : State) : Host.Outcome State Fault Refusal :=
  match s.sl.wbuf.findIdx? fun e => e.1 == sl && !e.2.2 with
  | none => .next s
  | some i =>
    let trip := stackTrip sl ((s.sl.wbuf[i]?.map fun e => e.2.1).getD 0) (flitsOf true 64)
    if s.pathHolds trip then .next s
    else .next { s.crossAll trip with sl := { (s.crossAll trip).sl with wbuf := s.sl.wbuf.modify i fun e => (e.1, e.2.1, true) } }

/-- WRITEBACK_FREE (R62): the oldest entry sent is freed, 8 cycles after it was sent. -/
def execWritebackFree (sl : Nat) (s : State) : Host.Outcome State Fault Refusal :=
  match s.sl.wbuf.findIdx? fun e => e.1 == sl && e.2.2 with
  | none => .next s
  | some i => .next { s with sl := { s.sl with wbuf := s.sl.wbuf.eraseIdx i } }

/-! ## Way masks (R64) -/

/-- A slice has applied its part of a contract operation. -/
def State.seqApplied (s : State) (id slice : Nat) : State :=
  { s with sl := { s.sl with seq := s.sl.seq.map fun (r : SeqRec) => if r.id == id then { r with slices := r.slices.filter fun x => x != slice } else r } }

/-- MASK_APPLY (R64): a slice applies the oldest mask sent to it. -/
def execMaskApply (sl : Nat) (s : State) : Host.Outcome State Fault Refusal :=
  match s.sl.maskNext.find? fun e => e.1 == sl with
  | none => .next s
  | some e =>
    let t := { s with sl := { s.sl with masks := mput 0xFFFF s.sl.masks (sl * 16 + e.2.1) e.2.2.1, maskNext := s.sl.maskNext.erase e } }
    .next (t.seqApplied e.2.2.2 sl)

/-! ## HMAP (R82) -/

/-- MSC lines are written back, the dirty ones over the bridges to their stacks, and invalidated (R76, R82); none while a bridge renegotiates. -/
def State.flushLines (s : State) (f : MscLine → Bool) : Option State :=
  let dirty := s.sl.lines.filter fun m => f m && m.dirty
  let trips := dirty.flatMap fun m => stackTrip m.slice m.line (flitsOf true 64)
  if s.pathHolds trips then none
  else
    let t := dirty.foldl (fun t m => t.arrayRead m.slice (t.wayLine m.slice m.set m.way) 0) (s.crossAll trips)
    some ((s.sl.lines.filter f).foldl State.backOwn (t.setLines (t.sl.lines.filter fun m => !f m)))

/-- HMAP_WRITE (R82, Table 5.10): ILV 3 leaves the entry unchanged; the reserved bits are not stored. -/
def execHmapWrite (r : Nat) (v : BitVec 16) (s : State) : Host.Outcome State Fault Refusal :=
  if s.host.boot < 5 || 8192 ≤ r || v.extractLsb' 7 2 = 3 then .next s
  else .next { s with sl := { s.sl with hmapNext := (s.sl.hmapNext.filter fun e => e.1 != r) ++ [(r, v &&& 0x1FF)] } }

/-- HMAP_TAKE_EFFECT (R82): every slice has written back and invalidated its lines of the region. -/
def execHmapTakeEffect (r : Nat) (s : State) : Host.Outcome State Fault Refusal :=
  match s.sl.hmapNext.find? fun e => e.1 == r with
  | none => .next s
  | some e =>
    let mine := fun (m : MscLine) => (paRegion (m.line * 64) == .hbm || paRegion (m.line * 64) == .pin) && hmapRegion (m.line * 64) == r
    match s.flushLines mine with
    | none => .next s
    | some t => .next { t with sl := { t.sl with hmap := mput 0 t.sl.hmap r e.2, hmapNext := t.sl.hmapNext.erase e } }

/-! ## Page walks (R325) -/

/-- A walk is over: the units that wait for it take its result. -/
def State.walkOver (s : State) (w : Walk) (tr : Option Xlate) : State :=
  let got := (w.cores.filter fun c => wqWalker ≤ c).map fun c => { unit := c, ctx := w.ctx, page := w.page, tr := tr }
  { s with pipe := { s.pipe with walks := s.pipe.walks.filter (fun x => x.id != w.id), got := s.pipe.got ++ got } }

/-- A walk ends in XLATE: the accesses that wait for it take it when they issue again. -/
def State.walkFault (s : State) (w : Walk) : State :=
  let t := s.walkOver w none
  if w.cores.any fun c => c < wqWalker then
    { t with pipe := { t.pipe with xfaults := (t.pipe.xfaults.erase (w.ctx, w.page)) ++ [(w.ctx, w.page)] } }
  else t

/-- A walk installs its page in the TLBs of the cores that wait and of their clusters. -/
def State.walkInstall (s : State) (w : Walk) (x : Xlate) : State := (s.walkOver w (some x)).tlbInstall (w.cores.filter fun c => c < wqWalker) x

/-- WALK_LEVEL_READ (R322 to R325): a walker reads the entry of its level at the home slice of a physical access (R82), an
MSC-allocating read; the walk goes on, installs or faults. -/
def execWalkLevelRead (n : Nat) (s : State) : Host.Outcome State Fault Refusal :=
  match s.pipe.walks.find? fun w => w.id == n with
  | none => .next s
  | some w =>
    let va := w.page * 2 ^ 15
    if !(s.walking w.die).contains w then .next s
    else if !tableOk w.table then .next (s.walkFault w)
    else match s.touchPhys { ctlVia w.die 8 with at' := w.at' } (walkAddr w.table w.level va) (s.tenant w.ctx) 0 .read with
      | none => .next s
      | some t =>
        match s.walkRead w.ctx w.level w.table va with
        | .table p => .next { t with pipe := { t.pipe with walks := t.pipe.walks.map fun (x : Walk) => if x.id == n then { x with level := w.level + 1, table := p, at' := s.now } else x } }
        | .leaf x => .next (t.walkInstall w x)
        | .fault => .next (t.walkFault w)

end Sys2Proof.Machine
end

