-- ==== Sys2Proof/Machine/Engines.lean ====
section
/-!
DEFINITION. The engines as events: transfers whose writes land, panels that land, completion (spec/07 R99 to R101; spec/15 R232; spec/17 R268 to
R276; spec/21 R295, R297; spec/25 R335).
-/
namespace Sys2Proof.Machine

/-! ## Sources -/

/-- Translation that covers a physical address. -/
def trOf (trs : List Xlate) (pa : Nat) : Option Xlate := trs.find? fun x => decide (x.pa ≤ pa) && decide (pa < x.pa + 2 ^ x.size)

/-- A byte that an engine of a block reads from memory, and whether it is poisoned: 0 outside the tensor and on a line of the pin
aperture that is no longer backed (R268); a guarded block's own held stores lie over it (log 13). -/
def State.engByte (s : State) (b : Nat) (trs : List Xlate) : Option Nat → Byte × Bool
  | none => (0, false)
  | some p =>
    if s.apertureHole p then (0, false)
    else match (s.heldBytes b p 1).getLast? with
      | some e => (e.2, false)
      | none => let h := s.trHome trs p; ((s.homeBytes h p 1).headD 0, s.homeBad h p 1)

/-- A byte that an engine reads from scratchpad. -/
def State.engSpad (s : State) (b x : Nat) : Byte × Bool := (s.sp.byte b x, s.spadBad b x 1)

/-- Physical lines of addresses, each once. -/
def linesOf (pas : List (Option Nat)) : List Nat := dedup (pas.filterMap fun p => p.map lineOf)

/-- Is an address inside a line? -/
def inLine (line : Nat) (p : Option Nat) : Bool := p.any fun x => lineOf x == line

/-- An engine's accesses to lines, and to lines of frames (`kvLine`), reach their home slices (R72, R77, R377): the state, and the lines whose arrays are
still to be read or written, with their slices; none while one has to wait. -/
def State.engAdmit (s : State) (e : Engine) (write : Bool) (pas : List (Option Nat)) : List Nat → Option (State × List (Nat × Nat))
  | [] => some (s, [])
  | line :: t =>
    let pa := line * 64
    let core := (s.block e.blk).core
    if kvLine 0 0 ≤ line then match s.kvFrame line with
      | none => s.engAdmit e write pas t
      | some f => (s.reachSlice f.1 1 { unitVia core 64 with at' := e.at' } write).bind fun r =>
        (r.engAdmit e write pas t).map fun q => (q.1, (f.1, line) :: q.2)
    else if s.apertureHole pa then s.engAdmit e write pas t
    else
      let x := trOf e.trs pa
      let il := (x.map fun y => y.ilv).getD (s.physIlv pa).1
      let home := s.trHome e.trs pa
      let n := (pas.filter (inLine line)).length
      let u : LineUse := if !write then .read else if n < 64 then .part else .whole
      (s.admitLine home line (localLine il line) (s.tenant (s.ctxOf e.blk)) ((x.map fun y => y.ccls).getD 0) (s.launchOf e.blk).id u
          { unitVia core n with at' := e.at' }).bind fun r => (r.1.engAdmit e write pas t).map fun q => (q.1, if r.2 then (home, line) :: q.2 else q.2)

/-- Array line of a line, or of a line of a frame: its slice and line. -/
def State.linePlace (s : State) (slice line : Nat) : Option (Nat × Nat) := if kvLine 0 0 ≤ line then s.kvFrame line else s.arrayPlace slice line

/-- An engine reads lines, both lines of an aligned pair in one transfer (R350), or waits. -/
def State.engRead (s : State) (e : Engine) (pas : List (Option Nat)) (lines : List Nat) : Option State :=
  (s.engAdmit e false pas lines).map fun r =>
    State.arrayReads (s.launchOf e.blk).id (sortBy (fun x => x.1 * arrayLines + x.2) (r.2.filterMap fun x => r.1.linePlace x.1 x.2)) r.1

/-! ## Writes -/

/-- Poison follows the bytes that an engine carries (R335): the words at which poisoned bytes have come to lie. -/
def State.carryPoison (s : State) (pa : Nat) (bs : List (Byte × Bool)) : State :=
  s.poisonWords (dedup (((List.range bs.length).zip bs).filterMap fun e => if e.2.2 then some ((pa + e.1) / 8) else none))
/-- It follows them to a line at its home slice. -/
def State.carryHome (s : State) (slice pa : Nat) (bs : List (Byte × Bool)) : State :=
  s.poisonHome slice (lineOf pa) (((List.range bs.length).zip bs).foldl (fun m e => if e.2.2 then m ||| (1 : BitVec 8) <<< ((pa % 64 + e.1) / 8) else m) 0)

/-- Put bytes of an engine at a physical address of one line. -/
def State.engPut (s : State) (e : Engine) (pa : Nat) (bs : List (Byte × Bool)) : State :=
  if s.apertureHole pa then s else (s.homePut (s.trHome e.trs pa) pa (atOffsets (bs.map fun x => x.1))).carryHome (s.trHome e.trs pa) pa bs

/-- Put bytes of an engine at addresses, line by line. -/
def State.engPuts (s : State) (e : Engine) (dst : List (Option Nat)) (bs : List (Byte × Bool)) : State :=
  let put := (dst.zip bs).filterMap fun x => x.1.map fun p => (p, x.2)
  (linesOf dst).foldl (fun t line =>
    let here := sortBy (fun x => x.1) (put.filter fun x => lineOf x.1 == line)
    match here.head? with
    | none => t
    | some h =>
      if here.length == (here.getLastD h).1 + 1 - h.1 then t.engPut e h.1 (here.map fun x => x.2)
      else here.foldl (fun t x => t.engPut e x.1 [x.2]) t) s

/-- Lines whose bytes have been put are written: in the arrays, pair by pair, where they stand there, and then read by their monitors. -/
def State.linesWritten (s : State) (ls : List (Nat × Nat)) : State :=
  ls.foldl (fun t x => t.monWrite x.1 x.2) (State.arrayWrites (ls.filterMap fun x => s.arrayPlace x.1 x.2) s)

/-- A write of an engine in a line of a block's scratchpad has landed: the line is present when none is left (R101, R269). -/
def State.landLine (s : State) (b off : Nat) : State :=
  let k := spadKey b off / 64
  { s with sp := { s.sp with absent := mput 0 s.sp.absent k (mget 0 s.sp.absent k - 1) } }

/-- Half of a byte replaced by a code. -/
def putCode (old : Byte) (hi : Bool) (code : Nat) : Byte :=
  if hi then BitVec.ofNat 8 (old.toNat % 16 + 16 * code) else BitVec.ofNat 8 (old.toNat / 16 * 16 + code)
/-- The code of a half byte. -/
def getCode (b : Byte) (hi : Bool) : Nat := if hi then b.toNat / 16 else b.toNat % 16

/-- Addresses that a move reads. -/
def Move.sources : Move → List (Option Nat)
  | .spadFromMem _ _ pas => pas
  | .memFromMem src _ => src
  | .codeFromMem src _ => [src.map fun x => x.1]
  | .memFromSpad _ _ _ | .kvWrite _ _ _ _ _ _ => []
/-- Addresses that a move writes. -/
def Move.targets : Move → List (Option Nat)
  | .memFromSpad _ _ pas => pas
  | .memFromMem _ dst => dst
  | .codeFromMem _ dst => [some dst.1]
  | .spadFromMem _ _ _ | .kvWrite _ _ _ _ _ _ => []

/-- Does a move wait for an absent line of the scratchpad that it reads (R269)? -/
def State.moveWaits (s : State) : Move → Bool
  | .memFromSpad b off pas => s.lineAbsent b off pas.length
  | .spadFromMem _ _ _ | .memFromMem _ _ | .codeFromMem _ _ | .kvWrite _ _ _ _ _ _ => false

/-- A move of bytes that have been read writes them (R271: into every block's area). A KV append is performed as KVAPP_PERFORM. -/
def State.actMove (s : State) (e : Engine) : Move → State
  | .spadFromMem bs off pas =>
    let data := pas.map (s.engByte e.blk e.trs)
    bs.foldl (fun t b => if (t.block b).st == .complete then t
      else ((t.spadWrite b off (atOffsets (data.map fun x => x.1))).carryPoison (spadPa b off) data).landLine b off) s
  | .memFromSpad b off pas => s.engPuts e pas ((List.range pas.length).map fun i => s.engSpad b (off + i))
  | .memFromMem src dst => s.engPuts e dst (src.map (s.engByte e.blk e.trs))
  | .codeFromMem src dst =>
    let c := match src with
      | some x => let y := s.engByte e.blk e.trs (some x.1); (getCode y.1 x.2, y.2)
      | none => (0, false)
    let h := s.trHome e.trs dst.1
    s.engPut e dst.1 [(putCode ((s.homeBytes h dst.1 1).headD 0) dst.2 c.1, c.2 || s.homeBad h dst.1 1)]
  | .kvWrite _ _ _ _ _ _ => s

/-- Perform moves of one transfer: their sources are read now. None while a line has to wait; a KV append is performed as KVAPP_PERFORM. -/
def State.performMoves (s : State) (e : Engine) (ms : List Move) : Option State :=
  let dst := ms.flatMap Move.targets
  if (ms.any s.moveWaits) || ms.any fun m => match m with
    | .kvWrite _ _ _ _ _ _ => true
    | _ => false
  then none
  else (s.engRead e (ms.flatMap Move.sources) (linesOf (ms.flatMap Move.sources))).bind fun t => (t.engAdmit e true dst (linesOf dst)).map fun r =>
    (ms.foldl (fun u m => u.actMove e m) r.1).linesWritten ((linesOf dst).map fun line => (r.1.trHome e.trs (line * 64), line))

/-- The aligned pair of array lines that a line stands in, or the line by itself. -/
def State.pairPlace (s : State) (e : Engine) (line : Nat) : Nat × Nat := match s.linePlace (s.trHome e.trs (line * 64)) line with
  | some x => (x.1 + 1, x.2 / 2)
  | none => (0, line)
/-- Does a move read lines of one aligned pair only? -/
def State.readsPair (s : State) (e : Engine) (k : Nat × Nat) (m : Move) : Bool :=
  let ls := linesOf m.sources
  !ls.isEmpty && ls.all fun line => s.pairPlace e line == k
/-- The moves of an engine's next transfer: those that read both lines of one aligned pair go together (R350). -/
def State.nextMoves (s : State) (e : Engine) : List Move := match e.moves with
  | [] => []
  | m :: rest => match linesOf m.sources with
    | [] => [m]
    | line :: _ =>
      let k := s.pairPlace e line
      if s.readsPair e k m then m :: rest.takeWhile (s.readsPair e k) else [m]

/-- Charges of the requests that an engine makes for addresses, one a line (R358). -/
def chargesOf (pas : List (Option Nat)) : List Nat :=
  (linesOf pas).map fun line => 32 * (((pas.filter fun p => p.any fun x => lineOf x == line).length + 31) / 32)

/-- Charges of n bytes of consecutive lines. -/
def lineCharges (n : Nat) : List Nat := (List.range ((n + 63) / 64)).map fun i => 32 * ((min 64 (n - 64 * i) + 31) / 32)

/-- Data bytes that the requests of moves are charged for at the cluster port (R358). -/
def chargesOfMoves (ms : List Move) : List Nat :=
  chargesOf (ms.flatMap Move.sources) ++ chargesOf (ms.flatMap Move.targets) ++ ms.flatMap fun m => match m with
    | .kvWrite _ _ _ _ krow vrow => lineCharges (2 * krow.length) ++ lineCharges (2 * vrow.length)
    | _ => []

/-- Charges of a panel. -/
def Panel.charges (p : Panel) : List Nat := if p.kv.isSome then lineCharges 2048 else chargesOf p.pas

/-- Change an engine. -/
def State.mapEngine (s : State) (id : Nat) (f : Engine → Engine) : State :=
  { s with sp := { s.sp with engines := s.sp.engines.map fun e => if e.id == id then f e else e } }
/-- An engine by number. -/
def State.engine (s : State) (id : Nat) : Option Engine := s.sp.engines.find? fun e => e.id == id

/-- Charge the requests of an engine's next move to its cluster (R358): the charged state, or the state in which they wait at the port. -/
def State.engCharge (s : State) (e : Engine) (cs : List Nat) : Except State State :=
  let cl := coreCluster (s.block e.blk).core
  let t := s.interval cl
  let waits := (t.bud cl).port.any fun w => w.who == .engine && w.id == e.id
  if ((t.engine e.id).map fun x => x.paid).getD e.paid then .ok (t.mapEngine e.id fun x => { x with paid := false })
  else if waits then .error t
  else match payFor (t.bud cl) cs with
    | (b, []) => .ok (t.setBud cl b)
    | (b, rest) => .error ((t.portWait cl b ⟨.engine, e.id, rest, t.now⟩).mapEngine e.id fun x => { x with heldTo := t.nextInterval })

/-! ## ASSAY (R232, R295) -/

/-- Key of a hallmark entry: channel, and 0 for the minimum, 1 for the maximum. -/
def hallKey (ctx p ch mx : Nat) : Nat := pageKey ctx p * 512 + 2 * ch + mx

/-- Is the hallmark of a page empty (R232): the page is free, or no KVAPP has named it as a key page since? -/
def KvPage.bare (p : KvPage) : Bool := p.st == .free || !p.isKey

/-- The negative infinity and infinity of FP32. -/
def fpInf (neg : Bool) : Nat := fp32.signed neg fp32.infBits

/-- B of a page that has a hallmark (R232): products and sums round toward +∞; a NaN anywhere gives +∞. -/
def State.bound (s : State) (ctx p ch : Nat) (q : List (BitVec 16)) : Nat :=
  let env : FEnv := ⟨.rtp, false⟩
  let f := fun (x : BitVec 16) => x.toNat * 2 ^ 16
  let r := (List.range ch).foldl (fun (acc : Option Nat × Bool) c =>
    let lo := (fp32.mul env (f (q.getD c 0)) (f (mget 0 s.kv.hall (hallKey ctx p c 0)))).1
    let hi := (fp32.mul env (f (q.getD c 0)) (f (mget 0 s.kv.hall (hallKey ctx p c 1)))).1
    let t := if below (fp32.value lo) (fp32.value hi) then hi else lo
    let n := match acc.1 with
      | none => t
      | some x => (fp32.add env x t).1
    (some n, acc.2 || isNan32 lo || isNan32 hi || isNan32 n)) (none, false)
  if r.2 then fpInf false else r.1.getD (fpInf true)

/-- B of a list entry. -/
def State.assayBound (s : State) (ctx gen : Nat) (q : List (BitVec 16)) (p : Nat) : Nat :=
  match s.reserveAt ctx gen with
  | none => fpInf true
  | some r => if r.quota ≤ p || (s.page ctx p).bare then fpInf true else s.bound ctx p r.ch q

/-- x ≥ y of two FP32 values; false with a NaN. -/
def fpGe (x y : Nat) : Bool := !isNan32 x && !isNan32 y && !ltVals (fp32.value x) (fp32.value y)

/-- Selected indices, ascending (R232). -/
def assayPick (q : AssaySt) (bs : List Nat) : List Nat :=
  let n := bs.length
  let mid := (List.range n).filter fun x => x != 0 && x + 1 != n
  let more := if q.topn then
      (mid.foldl (fun l x => l.takeWhile (fun y => fpGe (bs.getD y 0) (bs.getD x 0)) ++ x :: l.dropWhile fun y => fpGe (bs.getD y 0) (bs.getD x 0)) ([] : List Nat)).take q.param
    else mid.filter fun x => fpGe (bs.getD x 0) q.param
  (List.range n).filter fun x => x == 0 || x + 1 == n || more.contains x

/-- May the block's engines raise heats and write shared state: the primary of a guarded pair alone does (R341). -/
def State.leads (s : State) (b : Nat) : Bool := ((s.pairOf b).map fun p => p.primary == b).getD true

/-- ASSAY performed: the whole list is read, the gather list written, kd the count of it; none while a line of the list is absent or
poisoned ids are consumed. -/
def State.runAssay (s : State) (e : Engine) (q : AssaySt) : State :=
  if s.lineAbsent e.blk q.list (4 * q.n) then s
  else if s.spadBad e.blk q.list (4 * q.n) then (s.mapEngine e.id fun x => { x with assay := none }).eccunc e.blk false
  else
    let ctx := s.ctxOf e.blk
    let ids := s.pageList e.blk q.list q.n
    let quota : Nat := ((s.reserveAt ctx e.gen).map fun r => r.quota).getD 0
    let pc := ((s.pend e.pend).map fun p => p.pc).getD 0
    let sel := (assayPick q (ids.map (s.assayBound ctx e.gen q.query))).map fun x => ids.getD x 0
    let t := ids.foldl (fun t p => if quota ≤ p then t.logViolation e.blk p pc e.crew 0 3 else t) s
    let t := if s.leads e.blk then sel.foldl (fun t p => if p < quota then t.heatUp ctx p else t) t else t
    let t := t.spadWrite e.blk q.out (atOffsets (sel.flatMap fun p => natToBytes 4 p))
    (t.mapPend e.pend fun p => { p with outs := [.k e.crew q.kd (BitVec.ofNat 32 sel.length)] }).mapEngine e.id fun x => { x with assay := none }

/-- ENGINE_WRITE_LAND (R99, R101): an engine's next write lands at scratchpad or at its home point; ASSAY's gather list is one. -/
def execEngineWriteLand (n : Nat) (s : State) : Host.Outcome State Fault Refusal :=
  match s.engine n with
  | none => .next s
  | some e =>
    match e.moves with
    | [] => match e.assay with
      | some q => .next (s.runAssay e q)
      | none => .next s
    | _ :: _ =>
      let ms := s.nextMoves e
      match s.engCharge e (chargesOfMoves ms) with
      | .error t => .next t
      | .ok t => match t.performMoves e ms with
        | none => .next s
        | some u => .next (u.mapEngine n fun x => { x with moves := x.moves.drop ms.length, at' := s.now })

/-! ## Panels (R242, R272, R276) -/

/-- Element of a page: token slot and channel; absent slots, channels at or above CH and free pages read +0. -/
def State.pageElem (s : State) (ctx : Nat) (r : Reserve) (p slot ch : Nat) : BitVec 16 :=
  let x := s.page ctx p
  if r.ch ≤ ch || !x.present.getLsbD slot then 0
  else if x.st == .evicted then
    let va := r.slotVa p slot + 2 * ch
    match trPa r.trs ctx va with
    | some pa => BitVec.ofNat 16 (bytesToNat (s.homeBytes (s.trHome r.trs pa) pa 2))
    | none => 0
  else mget 0 s.kv.rows (pageKey ctx p * 16384 + slot * 256 + ch)

/-- Is an element of a page poisoned? -/
def State.pageBad (s : State) (ctx : Nat) (r : Reserve) (p slot ch : Nat) : Bool :=
  let x := s.page ctx p
  if r.ch ≤ ch || !x.present.getLsbD slot then false
  else if x.st == .evicted then (trPa r.trs ctx (r.slotVa p slot + 2 * ch)).any fun pa => s.homeBad (s.trHome r.trs pa) pa 2
  else mget false s.mem.poison (8 * kvLine (pageKey ctx p) (8 * slot + ch / 32) + ch % 32 / 4)

/-- Token and channel of element k of column n of a panel (R276). -/
def panelElem (tb cb : Nat) (value : Bool) (n k : Nat) : Nat × Nat :=
  if value then (32 * tb + k, 32 * cb + n) else (32 * tb + n, 32 * cb + k)

/-- What a panel reads: the engine with the translations that it reads by, the addresses, and the lines; of a KV page the rows of its present slots, from its
frame or, where it is evicted, from its backing lines (R276, R377). -/
def State.panelSource (s : State) (e : Engine) (p : Panel) : Engine × List (Option Nat) × List Nat := match p.kv with
  | none => (e, p.pas, linesOf p.pas)
  | some (page, tb, cb, _) =>
    let ctx := s.ctxOf e.blk
    let x := s.page ctx page
    let rows := ((List.range 32).map fun i => 32 * tb + i).filter x.present.getLsbD
    match s.reserveAt ctx e.gen with
    | none => (e, [], [])
    | some r =>
      if x.st == .evicted then
        let pas := rows.flatMap fun t => (List.range 64).map fun i => trPa r.trs ctx (r.slotVa page t + 64 * cb + i)
        ({ e with trs := r.trs }, pas, linesOf pas)
      else (e, [], rows.map fun t => kvLine (pageKey ctx page) (8 * t + cb))

/-- Lines that stand in one aligned pair with lines which a panel reads, and which another panel of the engine is to read: they cross the bus in one
transfer with them (R350). -/
def State.pairMates (s : State) (e : Engine) (p : Panel) (lines : List Nat) : List Nat :=
  let others := e.panels.filter fun x => x.entry != p.entry && x.item == p.item
  lines.filterMap fun l => (s.linePlace (s.trHome e.trs (l * 64)) l).bind fun x => (s.arrayHolds x.1 (if x.2 % 2 = 0 then x.2 + 1 else x.2 - 1)).filter fun m =>
    !lines.contains m && !e.crossed.contains m && others.any fun y => if y.kv.isNone then y.pas.any (inLine m) else (s.panelSource e y).2.2.contains m

/-- An engine reads the lines of a panel, but for those that have crossed the bus with another's; none while one has to wait. -/
def State.readPanel (s : State) (e : Engine) (p : Panel) : Option State :=
  let src := s.panelSource e p
  let fresh := src.2.2.filter fun l => !e.crossed.contains l
  let mates := s.pairMates src.1 p fresh
  let pas := src.2.1 ++ if p.kv.isNone then (e.panels.flatMap fun x => if x.entry == p.entry then [] else x.pas) else
    mates.flatMap fun l => (List.range 64).map fun i => some (64 * l + i)
  (s.engRead src.1 pas (fresh ++ mates)).map fun t =>
    t.mapEngine e.id fun x => { x with crossed := (x.crossed ++ mates).filter fun l => !src.2.2.contains l, at' := s.now }

/-- A panel's bytes, and whether a poisoned word is among them. -/
def State.kvPanel (s : State) (ctx : Nat) (r : Reserve) (p tb cb : Nat) (value : Bool) : List Byte × Bool :=
  let es := (List.range 32).flatMap fun n => (List.range 32).map fun k => panelElem tb cb value n k
  (es.flatMap fun e => natToBytes 2 (s.pageElem ctx r p e.1 e.2).toNat, es.any fun e => s.pageBad ctx r p e.1 e.2)

/-- An entry of a window takes its data. -/
def State.landEntry (s : State) (b : Nat) (p : Panel) (id : Nat) (data : List Byte) (bad : Bool) : State :=
  let w := s.win b p.qtr p.q
  s.setWin { w with entries := w.entries.map fun (x : QEntry) => if x.id == id then { x with landed := true, data := data, bad := bad } else x }

/-- Entries of panels leave their windows. -/
def State.dropEntries (s : State) (b : Nat) (ps : List Panel) : State :=
  ps.foldl (fun t p => let w := t.win b p.qtr p.q; t.setWin { w with entries := w.entries.filter fun x => p.entry != some x.id }) s

/-- A page of a SMELT's list whose contract has ended (R292): it counts as at or above the quota, so its panels that have not landed go, with one
log entry. -/
def State.dropItem (s : State) (e : Engine) (p : Panel) (page : Nat) : State :=
  let t := (s.dropEntries e.blk (e.panels.filter fun x => x.item == p.item)).mapEngine e.id fun x => { x with panels := x.panels.filter fun y => y.item != p.item }
  (t.logViolation e.blk page (((s.pend e.pend).map fun x => x.pc).getD 0) 0 0 3).reservePanels

/-- What a reserved panel does when it lands: none while its page is in transfer (R294) or a line has to wait. -/
def State.landPanel (s : State) (e : Engine) (p : Panel) (id : Nat) : Option State :=
  match p.kv with
  | none =>
    (s.readPanel e p).map fun t =>
      let bs := p.pas.map (t.engByte e.blk e.trs)
      t.landEntry e.blk p id (bs.map fun x => x.1) (bs.any fun x => x.2)
  | some (page, tb, cb, value) =>
    let ctx := s.ctxOf e.blk
    match s.reserveAt ctx e.gen with
    | none => some (s.dropItem e p page)
    | some r =>
      if (s.page ctx page).st == .evicting || (s.page ctx page).st == .installing then none
      else (s.readPanel e p).map fun t =>
        let d := t.kvPanel ctx r page tb cb value
        t.landEntry e.blk p id d.1 d.2

/-- PANEL_LAND (R242, R272, R276): the first reserved panel of an engine lands in its entry. -/
def execPanelLand (n : Nat) (s : State) : Host.Outcome State Fault Refusal :=
  match s.engine n with
  | none => .next s
  | some e =>
    match e.panels.find? fun p => p.entry.isSome with
    | none => .next s
    | some p =>
      match s.engCharge e p.charges with
      | .error t => .next t
      | .ok t => match t.landPanel e p (p.entry.getD 0) with
        | none => .next s
        | some u => .next (u.mapEngine n fun x => { x with panels := x.panels.filter fun y => y.entry != p.entry })

/-! ## Completion (R10, R99, R100) -/

/-- Flags that an engine's completion signals (R100): its own, and that of the twin's operation that takes its result. -/
def State.joinsOf (s : State) (e : Engine) : List (Nat × Nat × Nat) :=
  (s.pipe.pends.filter fun p => (p.id == e.pend || p.mirror == some e.pend) && p.flag != 0).map fun p => (p.blk, p.crew, p.flag)

/-- ENGINE_COMPLETE (R99): an engine with nothing left to do has completed; its flag's operation has one part less to wait for. -/
def execEngineComplete (n : Nat) (s : State) : Host.Outcome State Fault Refusal :=
  match s.engine n with
  | none => .next s
  | some e =>
    if !e.moves.isEmpty || !e.panels.isEmpty || e.assay.isSome then .next s
    else
      let t := { s with sp := { s.sp with engines := s.sp.engines.filter fun x => x.id != n } }
      let t := if e.toMem then { t with sch := { t.sch with joins := dedup (t.sch.joins ++ s.joinsOf e) } } else t
      .next (((t.partDone e.pend).recheck e.blk).noteOver e.blk)

end Sys2Proof.Machine
end

