-- ==== Sys2Proof/Machine/KvEvents.lean ====
section
/-!
DEFINITION. KV pages as events: count tests, appends, forks, frees, hallmark reads, evictions and installations, heat decay
(spec/15 R229 to R231; spec/21 R292 to R297).
-/
namespace Sys2Proof.Machine

/-! ## Pages and frames -/

/-- Write a page. -/
def State.setPage (s : State) (ctx p : Nat) (x : KvPage) : State := { s with kv := { s.kv with pages := mput .init s.kv.pages (pageKey ctx p) x } }

/-- Is a page in transfer (R294)? -/
def KvPage.moving (p : KvPage) : Bool := p.st == .evicting || p.st == .installing

/-- Rows of a page go. -/
def State.dropRows (s : State) (ctx p : Nat) : State :=
  let k := pageKey ctx p
  let lines := fun (e : Nat × Bool) => e.1 / 8 < kvLine k 0 || kvLine (k + 1) 0 ≤ e.1 / 8
  { s with kv := { s.kv with rows := s.kv.rows.filter fun e => e.1 / 16384 != k }, mem := { s.mem with poison := s.mem.poison.filter lines } }
/-- The hallmark of a page becomes empty. -/
def State.dropHall (s : State) (ctx p : Nat) : State := { s with kv := { s.kv with hall := s.kv.hall.filter fun e => e.1 / 512 != pageKey ctx p } }
/-- A page is freed (R230): every slot absent, the hallmark empty, the frame released, the backing copy dropped. -/
def State.freePage (s : State) (ctx p : Nat) : State := ((s.dropRows ctx p).dropHall ctx p).setPage ctx p .init

/-- Frames of a slice that hold a page or are taken for one. -/
def State.framesUsed (s : State) (slice : Nat) : List Nat := s.kv.pages.filterMap fun e => match e.2.frame with
  | some f => if f.1 = slice then some f.2 else none
  | none => none
/-- The lowest free frame of a slice (R75, R296). -/
def State.freeFrame (s : State) (slice : Nat) : Option Nat :=
  let used := s.framesUsed slice
  (List.range ((s.kindGranules slice 2).length / 2)).find? fun f => !(used.contains f)

/-- The victim of a context at a slice (R296): RESIDENT, count 1, not K or U; the lowest heat, then the lower id. -/
def State.victimPage (s : State) (ctx slice k u : Nat) : Option (Nat × KvPage) :=
  let own := s.kv.pages.filterMap fun e =>
    let p := e.1 % 2 ^ 32
    if e.1 / 2 ^ 32 = ctx && p != k && p != u && e.2.st == .resident && e.2.count == 1 && (e.2.frame.map fun f => f.1) == some slice then some (p, e.2) else none
  (sortBy (fun e => e.2.heat) own).head?

/-! ## Backing pages (R293, R294) -/

/-- Physical address of slot t of a backing page. -/
def Reserve.slotPa (r : Reserve) (ctx p t : Nat) : Option Nat := trPa r.trs ctx (r.slotVa p t)

/-- Lines of a backing page, by address, are reached at their home slices from a page's slice (R377): the state, and those whose arrays are still to be
read or written, with their slices; none while one has to wait. -/
def State.backAdmit (s : State) (ctx : Nat) (r : Reserve) (write : Bool) (v : Via) : List Nat → Option (State × List (Nat × Nat))
  | [] => some (s, [])
  | pa :: rest =>
    let line := lineOf pa
    let x := trOf r.trs pa
    let home := s.trHome r.trs (line * 64)
    (s.admitLine home line (localLine ((x.map fun y => y.ilv).getD 0) line) (s.tenant ctx) ((x.map fun y => y.ccls).getD 0) 0
        (if write then .whole else .read) v).bind fun t =>
      (t.1.backAdmit ctx r write v rest).map fun q => (q.1, if t.2 then (home, line) :: q.2 else q.2)

/-- Read lines of a backing page, pair by pair. -/
def State.backRead (s : State) (ctx : Nat) (r : Reserve) (v : Via) (pas : List Nat) : Option State :=
  (s.backAdmit ctx r false v pas).map fun q => State.arrayReads 0 (q.2.filterMap fun x => q.1.arrayPlace x.1 x.2) q.1

/-- Write lines of a backing page, by address with their bytes and poison. -/
def State.backWrite (s : State) (ctx : Nat) (r : Reserve) (v : Via) (ls : List (Nat × List (Byte × Bool))) : Option State :=
  (s.backAdmit ctx r true v (ls.map fun l => l.1)).map fun q =>
    let put := fun (u : State) (l : Nat × List (Byte × Bool)) =>
      (u.homePut (u.trHome r.trs l.1) l.1 (atOffsets (l.2.map fun x => x.1))).carryHome (u.trHome r.trs l.1) l.1 l.2
    (ls.foldl put q.1).linesWritten (ls.map fun l => (s.trHome r.trs l.1, lineOf l.1))

/-- Bytes of line k of a resident page, 32 elements, with their poison. -/
def State.frameBytes (s : State) (ctx p k : Nat) : List (Byte × Bool) :=
  (List.range 32).flatMap fun c =>
    let bad := mget false s.mem.poison (8 * kvLine (pageKey ctx p) k + c / 4)
    (natToBytes 2 (mget 0 s.kv.rows (pageKey ctx p * 16384 + 32 * k + c)).toNat).map fun b => (b, bad)
/-- Write elements of a resident page from line k on: their words lose their poison. -/
def State.setElems (s : State) (ctx p k : Nat) (row : List (BitVec 16)) : State :=
  let base := pageKey ctx p * 16384 + 32 * k
  { s with
    kv := { s.kv with rows := mputs 0 s.kv.rows (((List.range row.length).zip row).map fun e => (base + e.1, e.2)) }
    mem := { s.mem with poison := (List.range (row.length / 4)).foldl (fun m i => mput false m (8 * kvLine (pageKey ctx p) k + i) false) s.mem.poison } }

/-- Present slots of a page. -/
def KvPage.slots (p : KvPage) : List Nat := (List.range 64).filter p.present.getLsbD

/-- The contract under which a page's transfer goes on: one that has ended among them (R292). -/
def State.backing (s : State) (ctx : Nat) : Option Reserve := mget none s.kv.res ctx

/-- Is a page of a context in transfer? -/
def State.transfers (s : State) (ctx : Nat) : Bool := s.kv.pages.any fun e => e.1 / 2 ^ 32 == ctx && e.2.moving

/-- A page's transfer has ended. One of a contract that has ended is freed then, and with the last of them its backing area returns (R292). -/
def State.moved (s : State) (ctx p : Nat) : State :=
  if !(s.backing ctx).any fun r => r.ended then s
  else
    let t := s.freePage ctx p
    if t.transfers ctx then t else { t with kv := { t.kv with res := mput none t.kv.res ctx none } }

/-- Pairs of lines of a page's present slots. Lines of a page come two by two, those of pair q from 2q on. -/
def KvPage.pairs (p : KvPage) : List Nat := p.slots.flatMap fun t => (List.range 4).map fun j => 4 * t + j
/-- The next pair that a page's transfer has still to copy; absent slots have no contents to copy (log 30). -/
def KvPage.nextPair (p : KvPage) : Option Nat := p.pairs.find? fun q => p.pos ≤ q

/-- A page's transfer begins. -/
def State.beginMove (s : State) (ctx p : Nat) (x : KvPage) : State := s.setPage ctx p { x with pos := 0, at' := s.now }

/-- Port of a slice's transfers to backing lines. -/
def KvPage.via (p : KvPage) (slice : Nat) : Via := { ctlVia (sliceDie slice) 64 with at' := p.at' }
/-- Addresses of the lines of pair q of a backing page. -/
def Reserve.pairPas (r : Reserve) (ctx p q : Nat) : List Nat := match r.slotPa ctx p (q / 4) with
  | some pa => [pa + 128 * (q % 4), pa + 128 * (q % 4) + 64]
  | none => []
/-- Array lines of pair q of a page's frame. -/
def State.framePair (s : State) (x : KvPage) (q : Nat) : List (Nat × Nat) := match x.frame with
  | some f => [(f.1, s.frameLine f.1 f.2 (2 * q)), (f.1, s.frameLine f.1 f.2 (2 * q + 1))]
  | none => []

/-- A pair of a frame is read and copied to backing, its poison with it (R335); none while a line has to wait. -/
def State.evictPair (s : State) (ctx page : Nat) (x : KvPage) (r : Reserve) (q : Nat) : Option State :=
  let t := State.arrayReads 0 (s.framePair x q) s
  t.backWrite ctx r (x.via (r.home page)) ((r.pairPas ctx page q).zip [t.frameBytes ctx page (2 * q), t.frameBytes ctx page (2 * q + 1)])

/-- A pair of backing lines is read and copied into the frame, its poison with it; none while a line has to wait. -/
def State.installPair (s : State) (ctx page : Nat) (x : KvPage) (r : Reserve) (q : Nat) : Option State :=
  let pas := r.pairPas ctx page q
  (s.backRead ctx r (x.via (r.home page)) pas).map fun t =>
    let bs := pas.flatMap fun pa => t.homeBytes (t.trHome r.trs pa) pa 64
    let bad := (List.range 16).filter fun w => let pa := (pas.getD (w / 8) 0) + w % 8 * 8; t.homeBad (t.trHome r.trs pa) pa 1
    let u := t.setElems ctx page (2 * q) ((List.range (bs.length / 2)).map fun c => BitVec.ofNat 16 (bytesToNat ((bs.drop (2 * c)).take 2)))
    State.arrayWrites (t.framePair x q) (u.poisonWords (bad.map fun w => 8 * kvLine (pageKey ctx page) (2 * q) + w))

/-- The transfer of a page copies its next pair, or ends where none is left. -/
def State.movePage (s : State) (ctx page : Nat) (copy : Reserve → Nat → Option State) (finish : State → State) : State :=
  match (s.backing ctx).bind fun r => (s.page ctx page).nextPair.map fun q => (r, q) with
  | none => finish s
  | some (r, q) => match copy r q with
    | none => s
    | some t =>
      let y := { t.page ctx page with pos := q + 1, at' := s.now }
      let u := t.setPage ctx page y
      if y.nextPair.isNone then finish u else u

/-- PAGE_EVICT_DONE (R294): a dirty page's copy to backing goes on, pair by pair; once it is complete the frame is released. The backing bytes of absent slots
stay as they are, by the model's choice (log 30). -/
def execPageEvictDone (ctx page : Nat) (s : State) : Host.Outcome State Fault Refusal :=
  let x := s.page ctx page
  let finish := fun (t : State) =>
    ((t.dropRows ctx page).setPage ctx page { t.page ctx page with st := .evicted, dirty := false, frame := none, pos := 0 }).moved ctx page
  if x.st != .evicting then .next s
  else .next (if x.dirty then s.movePage ctx page (s.evictPair ctx page x) finish else finish s)

/-- PAGE_INSTALL_DONE (R294): the copy into the frame goes on, pair by pair, until it is complete. -/
def execPageInstallDone (ctx page : Nat) (s : State) : Host.Outcome State Fault Refusal :=
  let x := s.page ctx page
  let finish := fun (t : State) => (t.setPage ctx page { t.page ctx page with st := .resident, dirty := false, pos := 0 }).moved ctx page
  if x.st != .installing then .next s else .next (s.movePage ctx page (s.installPair ctx page x) finish)

/-! ## KVAPP (R229, R296, R297) -/

/-- Bring a page of a KVAPP to where its row can be written: the new state, and whether it is there. -/
def State.readyPage (s : State) (ctx p k u : Nat) (r : Reserve) : State × Bool :=
  let x := s.page ctx p
  let slice := r.home p
  let fresh := fun (y : KvPage) => if x.count = 0 then { y with count := 1, present := 0, isKey := false } else y
  match x.st with
  | .resident => (s, true)
  | .evicting | .installing => (s, false)
  | .free | .evicted =>
    match x.frame with
    | some f =>
      if s.kv.pages.any fun e => e.1 != pageKey ctx p && e.2.frame == some f then (s, false)
      else if x.st == .free then (s.setPage ctx p (fresh { x with st := .resident, heat := 1 }), true)
      else (s.beginMove ctx p { x with st := .installing }, false)
    | none =>
      match s.freeFrame slice with
      | some f =>
        if x.st == .free then (s.setPage ctx p (fresh { x with st := .resident, heat := 1, frame := some (slice, f) }), true)
        else (s.beginMove ctx p { x with st := .installing, frame := some (slice, f) }, false)
      | none =>
        match s.victimPage ctx slice k u with
        | some v => ((s.beginMove ctx v.1 { v.2 with st := .evicting }).setPage ctx p { x with frame := v.2.frame }, false)
        | none => (s.setPage ctx p (fresh { x with st := .evicted }), true)

/-- Write a row of a page that is ready: into its frame, or straight into its backing page. It comes from an engine's unit, line by line. None while it has
to wait. -/
def State.appendRow (s : State) (v : Via) (ctx p t : Nat) (r : Reserve) (row : List (BitVec 16)) : Option State :=
  let x := s.page ctx p
  let y := { x with present := x.present ||| 1 <<< t, dirty := x.dirty || x.st == .resident }
  (s.reachSlice (r.home p) 8 v true).bind fun s =>
    if x.st == .evicted then
      let bs := (row.flatMap fun x => natToBytes 2 x.toNat).map fun b => (b, false)
      let pas := (r.slotPa ctx p t).toList.flatMap fun pa => (List.range 8).map fun i => pa + 64 * i
      (s.backWrite ctx r { ctlVia (sliceDie (r.home p)) 64 with at' := v.at' } (((List.range pas.length).zip pas).map fun e => (e.2, (bs.drop (64 * e.1)).take 64))).map
        fun u => u.setPage ctx p y
    else some ((State.arrayWrites ((List.range 4).flatMap fun j => s.framePair x (4 * t + j)) (s.setElems ctx p (8 * t) row)).setPage ctx p y)

/-- A NaN of BF16. -/
def isNan16 (x : BitVec 16) : Bool := (bf16.value x.toNat).isNan
/-- The NaN of a hallmark entry (R297). -/
def hallNan : BitVec 16 := 0x7FC0

/-- Minimum and maximum of a channel widened by a key element, in the order of R46. -/
def hallWiden (lo hi x : BitVec 16) : BitVec 16 × BitVec 16 :=
  if isNan16 x || isNan16 lo then (hallNan, hallNan)
  else (if below (bf16.value x.toNat) (bf16.value lo.toNat) then x else lo, if below (bf16.value hi.toNat) (bf16.value x.toNat) then x else hi)

/-- Widen the hallmark of a key page by a key row (R297). -/
def State.widenHall (s : State) (ctx p ch : Nat) (row : List (BitVec 16)) : State :=
  let x := s.page ctx p
  let new := (List.range ch).flatMap fun c =>
    let old := if x.isKey then (mget 0 s.kv.hall (hallKey ctx p c 0), mget 0 s.kv.hall (hallKey ctx p c 1)) else (0x7F80#16, 0xFF80#16)
    let w := hallWiden old.1 old.2 (row.getD c 0)
    [(hallKey ctx p c 0, w.1), (hallKey ctx p c 1, w.2)]
  { s with kv := { s.kv with hall := mputs 0 s.kv.hall new } }.setPage ctx p { x with isKey := true }

/-- KVAPP_PERFORM (R229, R296): an append brings its pages to where they can be written, K first; then both rows and the hallmark are
written together. -/
def execKvappPerform (n : Nat) (s : State) : Host.Outcome State Fault Refusal :=
  match s.engine n with
  | none => .next s
  | some e =>
    match e.moves with
    | .kvWrite ctx k u slot krow vrow :: rest =>
      let gone := fun (t : State) => t.mapEngine n fun x => { x with moves := rest }
      match s.reserveAt ctx e.gen with
      | none => .next (gone s)
      | some r =>
        let a := s.readyPage ctx k k u r
        if !a.2 then .next a.1
        else
          let b := a.1.readyPage ctx u k u r
          if !b.2 then .next b.1
          else match b.1.engCharge e (chargesOfMoves [.kvWrite ctx k u slot krow vrow]) with
            | .error t => .next t
            | .ok t =>
              let v := { unitVia (t.block e.blk).core 64 with at' := e.at' }
              match (t.appendRow v ctx k slot r krow).bind fun t => t.appendRow v ctx u slot r vrow with
              | none => .next s
              | some t => .next (gone (t.widenHall ctx k r.ch krow))
    | _ => .next s

/-! ## Operations at the home slice (R229 to R231) -/

/-- Pages that an operation acts on. -/
def KvOp.pages : KvOp → List Nat
  | .fork p _ _ => [p]
  | .free p => [p]
  | .hallmark p _ _ => [p]
  | .test k u _ _ _ _ _ => [k, u]

/-- Is an operation the first of its context on a page? -/
def State.firstOn (s : State) (o : KvRec) (p : Nat) : Bool :=
  !(s.kv.ops.any fun x => x.ctx == o.ctx && x.id < o.id && x.op.pages.contains p)

/-- Does a move append to a page of a context? -/
def Move.appendsTo (ctx p : Nat) : Move → Bool
  | .kvWrite c k u _ _ _ => c == ctx && (k == p || u == p)
  | .spadFromMem _ _ _ | .memFromSpad _ _ _ | .memFromMem _ _ | .codeFromMem _ _ => false
/-- Is a KVAPP whose count test has passed still to write a page? A KVFORK or KVFREE that comes after the test acts after it (R229). -/
def State.appending (s : State) (ctx p : Nat) : Bool := s.sp.engines.any fun e => e.moves.any (Move.appendsTo ctx p)

/-- Replace an operation's record. -/
def State.setKvOp (s : State) (id : Nat) (op : KvOp) : State :=
  { s with kv := { s.kv with ops := s.kv.ops.map fun (x : KvRec) => if x.id == id then { x with op := op } else x } }
/-- An operation is over. -/
def State.dropKvOp (s : State) (id : Nat) : State := { s with kv := { s.kv with ops := s.kv.ops.filter fun x => x.id != id } }

/-- The verdict of a KVAPP whose two tests are made: PROT, or the engine (R229). -/
def State.kvVerdict (s : State) (o : KvRec) (k u slot : Nat) (krow vrow : List (BitVec 16)) (ok : Bool) : State :=
  let t := s.dropKvOp o.id
  if !ok then t.trapPend o.pend { cls := .prot, words := 2, bound := true }
  else match t.pend o.pend with
    | none => t
    | some p =>
      let t := t.mapPend o.pend fun q => { q with plan := .none }
      let e := { Engine.blank with blk := o.blk, crew := o.crew, pend := o.pend, gen := o.gen, moves := [.kvWrite o.ctx k u slot krow vrow] }
      (t.fork e).resumePend p

/-- The request of an operation comes to the home slice of a page (R77), where it reads or writes n bytes; none while it has to wait. After the contract's end
it reaches none. -/
def State.kvReach (s : State) (o : KvRec) (p n : Nat) (write : Bool) : Option State := match s.reserveAt o.ctx o.gen with
  | none => some s
  | some r => s.reachSlice (r.home p) 1 { coreVia (s.block o.blk).core n with at' := o.at' } write

/-- KV_COUNT_TEST (R229): one of a KVAPP's two reference counts is tested at its page's home slice, in arrival order with the forks and
frees of the page. -/
def execKvCountTest (n : Nat) (s : State) : Host.Outcome State Fault Refusal :=
  match s.kv.ops.find? fun o => o.id == n with
  | none => .next s
  | some o =>
    match o.op with
    | .test k u kOk uOk slot krow vrow =>
      let ok := fun (t : State) (p : Nat) => (t.reserveAt o.ctx o.gen).isNone || (t.page o.ctx p).count ≤ 1
      let test := fun (t : State) (p : Nat) (r : Option Bool) => if r.isNone && t.firstOn o p then
        (match t.kvReach o p 0 true with
          | some u => (u, some (ok u p))
          | none => (t, none)) else (t, r)
      let a := test s k kOk
      let b := if kOk == a.2 then test a.1 u uOk else (a.1, uOk)
      match a.2, b.2 with
      | some x, some y => .next (b.1.kvVerdict o k u slot krow vrow (x && y))
      | some false, none => .next (b.1.kvVerdict o k u slot krow vrow false)
      | none, some false => .next (b.1.kvVerdict o k u slot krow vrow false)
      | _, _ => .next (b.1.setKvOp n (.test k u a.2 b.2 slot krow vrow))
    | _ => .next s

/-- The outcome of an operation: its register writes. -/
def State.kvLand (s : State) (o : KvRec) (ws : List RegWr) : State := (s.dropKvOp o.id).mapPend o.pend fun p => { p with outs := ws, parts := 0 }

/-- Words of a hallmark row for lane i: `mx` 0 the minima, 1 the maxima (R228, R231). -/
def State.hallWord (s : State) (ctx p ch i j mx : Nat) (empty : Bool) : Word :=
  let x := fun (c : Nat) => if ch ≤ c then 0 else if empty then (if mx = 0 then 0x7F80 else 0xFF80) else (mget 0 s.kv.hall (hallKey ctx p c mx)).toNat
  BitVec.ofNat 32 (x (8 * i + 2 * j) + 2 ^ 16 * x (8 * i + 2 * j + 1))

/-- KVHM's register writes. -/
def State.hallWrs (s : State) (o : KvRec) (p kd cell ch : Nat) : List RegWr :=
  let x := s.page o.ctx p
  let gone := (s.reserveAt o.ctx o.gen).isNone
  let empty := gone || x.bare
  .k o.crew kd (BitVec.ofNat 32 (if gone then 0 else x.slots.length)) ::
    (List.range 32).flatMap fun i => (List.range 8).map fun j => .cell o.crew (cell + j) i (s.hallWord o.ctx p ch i (j % 4) (j / 4) empty)

/-- A fork or free of a page at its home slice (R230); after the contract's end it acts on nothing (R292). -/
def State.forkPage (s : State) (o : KvRec) (p kd qd : Nat) : State :=
  let x := s.page o.ctx p
  let live := (s.reserveAt o.ctx o.gen).isSome
  if !live || x.count = 0 || x.count = 1023 then
    s.kvLand o [.k o.crew kd (BitVec.ofNat 32 (if live then x.count else 0)), .q o.crew qd true]
  else (s.setPage o.ctx p { x with count := x.count + 1 }).kvLand o [.k o.crew kd (BitVec.ofNat 32 (x.count + 1)), .q o.crew qd false]
/-- A page loses a reference. -/
def State.unrefPage (s : State) (o : KvRec) (p : Nat) : State :=
  let x := s.page o.ctx p
  if (s.reserveAt o.ctx o.gen).isNone || x.count = 0 then s.kvLand o []
  else if x.count = 1 then (s.freePage o.ctx p).kvLand o []
  else (s.setPage o.ctx p { x with count := x.count - 1 }).kvLand o []

/-- KV_PAGE_OP (R230, R231): a fork, a free or a hallmark read is performed, in arrival order; it waits while its page is in transfer, a
fork or free also for an append whose count test came before it. -/
def execKvPageOp (n : Nat) (s : State) : Host.Outcome State Fault Refusal :=
  match s.kv.ops.find? fun o => o.id == n with
  | none => .next s
  | some o =>
    let waits := fun (p : Nat) => !s.firstOn o p || ((s.reserveAt o.ctx o.gen).isSome && (s.page o.ctx p).moving)
    match o.op with
    | .fork p kd qd => .next (if waits p || s.appending o.ctx p then s else ((s.kvReach o p 0 true).map fun t => t.forkPage o p kd qd).getD s)
    | .free p => .next (if waits p || s.appending o.ctx p then s else ((s.kvReach o p 0 true).map fun t => t.unrefPage o p).getD s)
    | .hallmark p kd cell =>
      let land := fun (t : State) => t.kvLand o (t.hallWrs o p kd cell (((t.reserveAt o.ctx o.gen).map fun r => r.ch).getD 256))
      .next (if waits p then s else ((s.kvReach o p 1024 false).map land).getD s)
    | .test _ _ _ _ _ _ _ => .next s

/-- HEAT_DECAY (R295): in the next cycle that is a multiple of 2^20 heats are halved, behind the raises of that cycle. -/
def execHeatDecay (s : State) : Host.Outcome State Fault Refusal :=
  .next (s.reach ((s.kv.decays + 1) * 2 ^ 20 + 1)).halveHeats

end Sys2Proof.Machine
end

