-- ==== Sys2Proof/Machine/Pins.lean ====
section
/-!
DEFINITION. The contract sequencer and the life of pins, as events (spec/05 R64, R68 to R76; spec/15 R225, R226; spec/21 R291 to R293;
spec/26 R349).
-/
namespace Sys2Proof.Machine

/-! ## PIN (R68, R69, R349) -/

/-- The contract sequencer's translations of a range (R70): a walker of die 0 walks. -/
def State.seqTrs (s : State) (ctx va n : Nat) : Tried Nat (List Xlate) × State :=
  rangeTrs (State.unitWalker seqWalker ctx) (n / 2 ^ 15 + 2) va (va + n - 1) s

/-- The lines of a range with their home slices, in address order; none where its translations are not all of the region. -/
def rangeLines (trs : List Xlate) (ctx va n : Nat) (region : PaRegion) : Option (List (Nat × Nat)) :=
  if trs.any fun x => paRegion x.pa != region then none
  else some ((List.range (n / 64)).filterMap fun i =>
    (trs.find? fun x => x.hits ctx (va + 64 * i)).map fun x => (lineOf (x.phys (va + 64 * i)), x.home (va + 64 * i)))

/-- PIN granules of a slice that no pin and no pair's area holds, ascending. -/
def State.freePins (s : State) (slice : Nat) : List Nat :=
  let used := (s.sl.pins.filter fun p => p.state != 3).flatMap fun p => p.granulesAt slice
  let area := s.grd.pairs.flatMap fun p => (p.area.filter fun e => e.1 == slice).map fun e => e.2
  (sortBy id (s.kindGranules slice 1)).filter fun g => !(used.contains g) && !(area.contains g)

/-- Granules of 16 KiB for n lines. -/
def granulesFor (n : Nat) : Nat := (n + 255) / 256

/-- The kind and id of the level that a lifetime means for a launch (R68): the level of the kind named, else the innermost enclosing one
below it, else the launch, which the model's own number names. -/
def Launch.lifeLevel (l : Launch) (life : Nat) : Nat × Nat :=
  if life = 4 then (4, 0)
  else if 1 ≤ life && l.levelId life != 0 then (life, l.levelId life)
  else if 2 ≤ life && l.levelId 1 != 0 then (1, l.levelId 1)
  else (0, l.uid)

/-- Undefined bytes in lines of a new SCRATCH pin (R68): free values (log 3). -/
def State.freeLines (s : State) (lines : List Nat) : State :=
  let bytes := fun (i : Nat) => (List.range 8).flatMap fun j => natToBytes 8 (Config.freeValue (s.clk.free + 8 * i + j)).toNat
  let m := ((List.range lines.length).zip lines).foldl (fun m e => m.putBytes (64 * e.2) (bytes e.1)) s.mem
  { s with mem := m, clk := { s.clk with free := s.clk.free + 8 * lines.length } }

/-- Breaks a range the limits of R68? -/
def pinBad (va n : Nat) : Bool := va % 16384 != 0 || n % 16384 != 0 || n < 16384 || 2 ^ 36 < n || 2 ^ 56 < va + n

/-- Outcome of a decision: the status, none while the sequencer's walks have to wait, and the state in which it is applied. -/
abbrev Decision := Option Nat × State

/-- PIN (R69, Table 5.4): BADARG, REFUSED, OVERLAP, QUOTA, or the grant; the pin's number is the record's. -/
def State.decidePin (s : State) (r : SeqRec) (va n : Nat) (resident : Bool) (life : Nat) : Decision :=
  if pinBad va n then (some 4, s)
  else match s.seqTrs r.ctx va n with
  | (.wait, t) => (none, t)
  | (.bad _, t) => (some 4, t)
  | (.ok trs, s) => match rangeLines trs r.ctx va n (if resident then .hbm else .pin) with
    | none => (some 4, s)
    | some lines =>
      let slices := dedup (lines.map fun e => e.2)
      let need := fun (x : Nat) => granulesFor (lines.filter fun e => e.2 == x).length
      let take := slices.flatMap fun x => ((s.freePins x).take (need x)).map fun g => (x, g)
      let live := s.sl.pins.filter fun p => p.state != 3
      let pg := s.ctx r.ctx
      if slices.any fun x => (s.freePins x).length < need x then (some 1, s)
      else if live.any fun p => (p.ctx == r.ctx && va < p.va + p.len && p.va < va + n) || p.lines.any fun l => lines.any fun e => e.1 == l.1 then (some 2, s)
      else if pg.pinq < take.length then (some 3, s)
      else
        let lv := (s.launch r.launch).lifeLevel life
        let p : Pin := { id := r.id, ctx := r.ctx, va := va, len := n, resident := resident, life := lv.1, level := lv.2,
                         state := if resident then 0 else 1, granules := take.length, lines := lines.map fun e => (e.1, e.2, false), sending := [],
                         started := [], took := take, ending := false }
        let t := s.setCtx r.ctx { pg with pinq := pg.pinq - take.length }
        let t := { t with sl := { t.sl with pins := t.sl.pins ++ [p] } }
        (some 0, if resident then t else t.freeLines (lines.map fun e => e.1))

/-- Change a pin. -/
def State.mapPin (s : State) (id : Nat) (f : Pin → Pin) : State := { s with sl := { s.sl with pins := s.sl.pins.map fun p => if p.id == id then f p else p } }
/-- The ends of lifetimes: pins that are not ENDED are to be drained (R71, R73). -/
def State.endPins (s : State) (f : Pin → Bool) : State :=
  { s with sl := { s.sl with pins := s.sl.pins.map fun (p : Pin) => if p.state != 3 && f p then { p with ending := true } else p } }

/-- UNPIN (Table 5.4): BADARG where no live EXPLICIT pin of the context has the base. -/
def State.decideUnpin (s : State) (r : SeqRec) (va : Nat) : Decision × Nat :=
  match s.sl.pins.find? fun p => p.ctx == r.ctx && p.va == va && p.life == 4 && p.state < 2 && !p.ending with
  | none => ((some 4, s), 0)
  | some p => ((some 0, s.endPins fun q => q.id == p.id), p.id)

/-! ## STPART (R75, R76) -/

/-- The granule kinds of a slice after an STPART. -/
def State.newKinds (s : State) (slice first count kind : Nat) : SMap Nat :=
  (List.range count).foldl (fun m i => mput 0 m (slice * 8192 + first + i) kind) s.sl.kinds

/-- Status of an STPART (Table 5.6). -/
def State.stpartStatus (s : State) (slice first count kind : Nat) : Nat :=
  if 128 ≤ slice || count = 0 || 7936 < first + count || kind = 3 then 4
  else
    let changed := fun (g : Nat) => decide (first ≤ g) && decide (g < first + count) && s.granule slice g != kind
    let free := s.freePins slice
    let t := { s with sl := { s.sl with kinds := s.newKinds slice first count kind } }
    let frames := s.framesUsed slice
    let moved := frames.any fun f =>
      let g := s.frameGranules slice f
      changed g.1 || changed g.2 || t.frameGranules slice f != g || (t.kindGranules slice 2).length < 2 * f + 2
    if ((s.kindGranules slice 1).any fun g => changed g && !(free.contains g)) || moved || (t.kindGranules slice 2).length / 2 < frames.length then 1 else 0

/-- STPART_APPLY (R76): the slice writes back and invalidates its whole MSC, rewrites its map and resumes. -/
def execStpartApply (n : Nat) (s : State) : Host.Outcome State Fault Refusal :=
  match s.sl.seq.find? fun r => r.id == n with
  | none => .next s
  | some r =>
    match r.op, r.slices with
    | .stpart slice first count kind, x :: _ =>
      .next (match s.flushLines (fun m => m.slice == slice) with
        | none => s
        | some t => State.seqApplied { t with sl := { t.sl with kinds := t.newKinds slice first count kind } } n x)
    | _, _ => .next s

/-! ## Reserve contracts (R75, R291 to R293) -/

/-- Field of a reserve-contract record (Table 21.1). -/
def resFld (x : BitVec 4352) (low w : Nat) : Nat := (x.extractLsb' low w).toNat

/-- The contract of a record, the backing area's translations beside it. -/
def reserveOf (x : BitVec 4352) (trs : List Xlate) (gen : Nat) : Reserve :=
 
  { quota := resFld x 64 32, ch := 8 * resFld x 96 8, rope := resFld x 104 1 == 1, omega := (List.range 128).map fun i => x.extractLsb' (256 + 32 * i) 32,
    backbase := resFld x 0 64, slices := (List.range 128).filter fun i => x.getLsbD (128 + i), trs := trs, gen := gen }

/-- Hallmark places that a contract takes at a slice (R293). -/
def Reserve.places (r : Reserve) (slice : Nat) : Nat := if r.slices.contains slice then (r.quota + r.slices.length - 1) / r.slices.length else 0
/-- Hallmark places taken at a slice by the contexts other than one: those of the context's own earlier contract, which the new one replaces, count as free by
the model's choice (log 30). -/
def State.placesUsed (s : State) (ctx slice : Nat) : Nat :=
  ((s.kv.res.filter fun e => e.1 != ctx).map fun e => (e.2.map fun r => r.places slice).getD 0).sum

/-- Has the context a page with a count above 0? -/
def State.pagesHeld (s : State) (ctx : Nat) : Bool := s.kv.pages.any fun e => e.1 / 2 ^ 32 == ctx && 0 < e.2.count

/-- A reserve contract ends (R292): its pages are freed, its frames and hallmark places returned; a page in transfer finishes it first, and until then
the contract stands as one that is over. -/
def State.endReserve (s : State) (ctx : Nat) : State :=
  let t := (s.kv.pages.filter fun e => e.1 / 2 ^ 32 == ctx && !e.2.moving).foldl (fun t e => t.freePage ctx (e.1 % 2 ^ 32)) s
  let rest := if t.transfers ctx then (t.backing ctx).map fun r => { r with ended := true } else none
  { t with kv := { t.kv with res := mput none t.kv.res ctx rest } }

/-- The record of a RESCTR, read once through CXL.cache (R292): what has been read, or the read, none while it has to wait. -/
def State.resRecord (s : State) (r : SeqRec) (pa : Nat) : Option (State × BitVec 4352) := match r.rec' with
  | some x => some (s, x)
  | none => (s.hostReach pa 544 0 false).map fun t =>
    let x := BitVec.ofNat 4352 (t.hostRead pa 544)
    ({ t with sl := { t.sl with seq := t.sl.seq.map fun (y : SeqRec) => if y.id == r.id then { y with rec' := some x } else y } }, x)

/-- RESCTR (R291): BADARG, REFUSED, or the contract of a record. -/
def State.decideResctr (s : State) (ctx gen : Nat) (x : BitVec 4352) : Decision :=
  let q := resFld x 64 32
  let back := resFld x 0 64
  let bad := resFld x 105 23 != 0 || resFld x 96 8 == 0 || 32 < resFld x 96 8 || q == 0 || 2 ^ 20 < q || back % 2 ^ 15 != 0 || resFld x 128 128 == 0
  if bad then (some 4, s)
  else match s.seqTrs ctx back (32768 * q) with
    | (.wait, t) => (none, t)
    | (.bad _, t) => (some 4, t)
    | (.ok trs, s) =>
      let r := reserveOf x trs gen
      if trs.any fun y => paRegion y.pa != .hbm || !y.w then (some 4, s)
      else if s.pagesHeld ctx then (some 1, s)
      else if r.slices.any fun n => 3840 < s.placesUsed ctx n + r.places n then (some 1, s)
      else
        let t := s.endReserve ctx
        (some 0, { t with kv := { t.kv with res := mput none t.kv.res ctx (some r) } })

/-- RESEND (R292, Table 29.6). -/
def State.decideResend (s : State) (ctx : Nat) : Decision :=
  if (s.reserve ctx).isNone then (some 4, s) else if s.pagesHeld ctx then (some 1, s) else (some 0, s.endReserve ctx)

/-! ## The sequencer (R70) -/

/-- Record a decision: the status, and the slices or the pin that the completion waits for. -/
def State.decided (s : State) (r : SeqRec) (status : Nat) (slices : List Nat) (pin : Nat) : State :=
  State.unitDone { s with sl := { s.sl with seq := s.sl.seq.map fun (x : SeqRec) =>
      if x.id == r.id then { x with decided := true, status := status, slices := slices, pinId := pin } else x } } seqWalker

/-- An operation is decided, or waits. -/
def Decision.apply (d : Decision) (r : SeqRec) (pin : Nat) : State := match d.1 with
  | some st => d.2.decided r st [] (if st = 0 then pin else 0)
  | none => d.2

/-- Decide and apply an operation. -/
def State.decideOp (s : State) (r : SeqRec) : State :=
  match r.op with
  | .pin va n resident life => (s.decidePin r va n resident life).apply r r.id
  | .unpin va => let d := s.decideUnpin r va; d.1.apply r d.2
  | .cctr slices tenant mask rsv =>
    if slices.isEmpty || rsv then s.decided r 4 [] 0
    else
      let t := s.decided r 0 slices 0
      { t with sl := { t.sl with maskNext := t.sl.maskNext ++ slices.map fun x => (x, tenant, mask, r.id) } }
  | .stpart slice first count kind =>
    let st := s.stpartStatus slice first count kind
    s.decided r st (if st = 0 then [slice] else []) 0
  | .resctr pa => match s.resRecord r pa with
    | none => s
    | some (t, x) => (t.decideResctr r.ctx r.id x).apply r 0
  | .resend => (s.decideResend r.ctx).apply r 0

/-- CONTRACT_DECIDE (R70): the sequencer decides and applies its oldest operation, once the one before it is applied. -/
def execContractDecide (s : State) : Host.Outcome State Fault Refusal :=
  match s.sl.seq.find? fun r => !r.decided with
  | none => .next s
  | some r => if s.sl.seq.any fun x => x.decided && !x.slices.isEmpty then .next s else .next (s.decideOp r)

/-- State of a pin; one that is gone is ENDED. -/
def State.pinState (s : State) (id : Nat) : Nat := ((s.sl.pins.find? fun p => p.id == id).map fun p => p.state).getD 3

/-- Has a decided operation completed (R226)? -/
def State.seqOver (s : State) (r : SeqRec) : Bool :=
  r.decided && r.slices.isEmpty && match r.op with
    | .pin _ _ _ _ => r.pinId == 0 || s.pinState r.pinId != 0
    | .unpin _ => r.pinId == 0 || s.pinState r.pinId == 3
    | _ => true

/-- CONTRACT_COMPLETE (R226): the status lands in kd, or in the command window (R373). -/
def execContractComplete (n : Nat) (s : State) : Host.Outcome State Fault Refusal :=
  match s.sl.seq.find? fun r => r.id == n with
  | none => .next s
  | some r =>
    if !s.seqOver r then .next s
    else
      let t := { s with sl := { s.sl with seq := s.sl.seq.filter fun x => x.id != n } }
      if r.pend = 0 then .next (if s.host.cmdRun == .seq n then { t with host := { t.host with cmdRun := .closed r.status } } else t)
      else .next (t.mapPend r.pend fun p => { p with outs := [.k r.crew r.kd (BitVec.ofNat 32 r.status)], parts := 0 })

/-! ## The transfers of a pin (R71, R72) -/

/-- First line of a pin at a slice that a transfer has not done. -/
def Pin.nextLine (p : Pin) (slice : Nat) : Option Nat := (p.lines.find? fun l => l.2.1 == slice && !l.2.2 && !(p.sending.contains l.1)).map fun l => l.1
/-- The transfer has done a line. -/
def Pin.doLine (p : Pin) (line : Nat) : Pin :=
  { p with lines := p.lines.map fun l => if l.1 == line then (l.1, l.2.1, true) else l, sending := p.sending.filter fun x => x != line }
/-- Has the transfer done every line? -/
def Pin.allDone (p : Pin) : Bool := p.lines.all fun l => l.2.2

/-- PIN_LINE_COPY (R71): the next line of a FILLING pin at a slice is copied from HBM, over the bridges to its stack and the bus to its array line; after
the last the pin is LIVE. -/
def execPinLineCopy (p sl : Nat) (s : State) : Host.Outcome State Fault Refusal :=
  match s.sl.pins.find? fun x => x.id == p with
  | none => .next s
  | some x =>
    match (if x.state = 0 then x.nextLine sl else none) with
    | none => .next s
    | some line =>
      let y := x.doLine line
      let trip := stackTrip sl line (flitsOf false 64)
      let t := (s.mapPin p fun _ => if y.allDone then { y with state := 1 } else y).crossAll trip
      .next (if s.pathHolds trip then s else match x.arrayLine line with
        | some a => State.arrayWrites [a] (t.hbmFill a.1 a.2 line 0)
        | none => t)

/-- Erase lines of the pin aperture. -/
def Mem.erase (m : Mem) (lines : List Nat) : Mem :=
  { m with
    cells := lines.foldl (fun c line => (List.range 64).foldl (fun c i => mput memDefault c (64 * line + i) memDefault) c) m.cells
    poison := lines.foldl (fun q line => (List.range 8).foldl (fun q i => mput false q (8 * line + i) false) q) m.poison }

/-- A pin whose lines are all done is ENDED: its granules are free and return to the quota (R69, R71). -/
def State.pinEnded (s : State) (p : Nat) : State :=
  match s.sl.pins.find? fun x => x.id == p with
  | none => s
  | some x =>
    if x.state != 2 || !x.allDone || !x.sending.isEmpty then s
    else
      let pg := s.ctx x.ctx
      (s.mapPin p fun y => { y with state := 3, lines := [], took := [] }).setCtx x.ctx { pg with pinq := pg.pinq + x.granules }

/-- Is an access to a line of a slice under way that its checks have let pass? -/
def State.lineBusy (s : State) (line : Nat) : Bool :=
  (s.inFlight.any fun r => lineOf r.pa == line) || (s.pipe.sbuf.any fun e => lineOf e.pa == line) || s.grd.hold.any fun h => lineOf h.pa == line

/-- PIN_DRAIN_START (R71): the end of its lifetime, or an UNPIN, reaches a slice; a LIVE pin is then DRAINING. SCRATCH lines are discarded
at once, behind the accesses to them that are under way, so that what comes after takes XLATE at its instruction (R72, R312; log 29). -/
def execPinDrainStart (p sl : Nat) (s : State) : Host.Outcome State Fault Refusal :=
  match s.sl.pins.find? fun x => x.id == p with
  | none => .next s
  | some x =>
    if !x.ending || x.state = 0 || x.state = 3 || x.started.contains sl then .next s
    else
      let lines := if x.state = 1 then x.lines.map fun l => (l.1, l.2.1, false) else x.lines
      let y := { x with state := 2, started := x.started ++ [sl], lines := lines }
      if x.resident then .next ((s.mapPin p fun _ => y).pinEnded p)
      else
        let mine := (lines.filter fun l => l.2.1 == sl).map fun l => l.1
        if mine.any s.lineBusy then .next s else
        let t := s.mapPin p fun _ => { y with lines := lines.map fun l => if l.2.1 == sl then (l.1, l.2.1, true) else l }
        .next ({ t with mem := t.mem.erase mine }.pinEnded p)

/-- PIN_LINE_WRITEBACK (R71): the next line of a DRAINING pin at a slice begins its write-back. -/
def execPinLineWriteback (p sl : Nat) (s : State) : Host.Outcome State Fault Refusal :=
  match s.sl.pins.find? fun x => x.id == p with
  | none => .next s
  | some x =>
    match (if x.state = 2 && x.started.contains sl then x.nextLine sl else none) with
    | none => .next s
    | some line =>
      let trip := stackTrip sl line (flitsOf true 64)
      let t := (s.mapPin p fun y => { y with sending := y.sending ++ [line] }).crossAll trip
      .next (if s.pathHolds trip then s else match x.arrayLine line with
        | some a => t.arrayRead a.1 a.2 0
        | none => t)

/-- PIN_LINE_WRITTEN (R71): the oldest write-back of a pin at a slice reaches the HBM controller. -/
def execPinLineWritten (p sl : Nat) (s : State) : Host.Outcome State Fault Refusal :=
  match s.sl.pins.find? fun x => x.id == p with
  | none => .next s
  | some x =>
    match x.sending.find? fun n => x.lines.any fun l => l.1 == n && l.2.1 == sl with
    | none => .next s
    | some line => .next ((s.mapPin p fun y => y.doLine line).pinEnded p)

end Sys2Proof.Machine
end

