-- ==== Sys2Proof/Machine/Place.lean ====
section
/-!
DEFINITION. Placement: the tables of a block, where a block fits, and the search for a place (spec/23 R308, R309; spec/24 R331;
spec/01 R7, R8, R11, R30, R34; spec/25 R341; spec/27 R356).
-/
namespace Sys2Proof.Machine

/-! ## What belongs to a block -/

/-- Entries of a table that belong to a block, where `unit` keys belong to each block. -/
def tabOf {α : Type} (unit b : Nat) (m : SMap α) : SMap α := m.filter fun e => e.1 / unit == b
/-- The entries of the other blocks. -/
def tabOff {α : Type} (unit b : Nat) (m : SMap α) : SMap α := m.filter fun e => e.1 / unit != b

/-- The register files of one block. -/
def Regs.ofBlock (r : Regs) (b : Nat) : Regs :=
  { cells := tabOf (2 ^ 20) b r.cells, parts := tabOf (2 ^ 20) b r.parts, k := tabOf (33 * 64) b r.k, q := tabOf (33 * 4) b r.q,
    p := tabOf (33 * 32) b r.p, crew := tabOf 33 b r.crew, call := tabOf (33 * 32) b r.call }
/-- The register files without one block's. -/
def Regs.offBlock (r : Regs) (b : Nat) : Regs :=
  { cells := tabOff (2 ^ 20) b r.cells, parts := tabOff (2 ^ 20) b r.parts, k := tabOff (33 * 64) b r.k, q := tabOff (33 * 4) b r.q,
    p := tabOff (33 * 32) b r.p, crew := tabOff 33 b r.crew, call := tabOff (33 * 32) b r.call }
/-- The register files with those of one block put back. -/
def Regs.backBlock (r : Regs) (b : Nat) (x : Regs) : Regs :=
  let o := r.offBlock b
  { cells := mputs 0 o.cells x.cells, parts := mputs .reset o.parts x.parts, k := mputs 0 o.k x.k, q := mputs false o.q x.q,
    p := mputs 0 o.p x.p, crew := mputs .init o.crew x.crew, call := mputs .init o.call x.call }

/-- Poison of every word but those of a block's scratchpad. -/
def poisonOff (b : Nat) (p : SMap Bool) : SMap Bool := p.filter fun e => !(decide (spadPa b 0 / 8 ≤ e.1) && decide (e.1 < spadPa (b + 1) 0 / 8))

/-- A complete block's registers, bins, scratchpad, queue windows and feed context are released (R10). -/
def State.releaseBlock (s : State) (b : Nat) : State :=
  { s with
    regs := s.regs.offBlock b
    sch := { s.sch with
      bundles := s.sch.bundles.filter fun u => u.blk != b
      bins := s.sch.bins.filter fun n => n.blk != b
      arrs := s.sch.arrs.filter fun r => r.blk != b
      joins := s.sch.joins.filter fun j => j.1 != b
      fencers := s.sch.fencers.filter fun f => f.blk != b
      fences := s.sch.fences.filter fun f => f.blk != b
      faults := s.sch.faults.filter fun f => f.blk != b
      epochs := tabOff 33 b s.sch.epochs
      lastIssue := tabOff 33 b s.sch.lastIssue }
    pipe := { s.pipe with pends := s.pipe.pends.filter (fun (p : Pend) => !(p.blk == b && p.seta)), mons := s.pipe.mons.filter (fun m => m.blk != b),
                                 shards := s.pipe.shards.filter fun r => r.blk != b }
    mem := { s.mem with poison := poisonOff b s.mem.poison }
    sp := { s.sp with
      bytes := tabOff (2 ^ 20) b s.sp.bytes
      absent := tabOff (2 ^ 14) b s.sp.absent
      wins := s.sp.wins.filter fun w => w.blk != b
      recs := tabOff 64 b s.sp.recs
      tds := s.sp.tds.filter fun d => d.blk != b }
    gi := { s.gi with ops := s.gi.ops.filter fun o => o.blk != b }
    grd := { s.grd with sigs := tabOff 33 b s.grd.sigs, hold := s.grd.hold.filter fun h => h.blk != b } }

/-- Does an engine act on its own block's scratchpad and windows only: what a rollback can take back (R343)? -/
def Engine.ownOnly (e : Engine) : Bool := !e.toMem && e.moves.all fun m => match m with
  | .spadFromMem xs _ _ => xs.all fun x => x == e.blk
  | _ => false

/-- Poisoned words of a block's scratchpad. -/
def poisonOf (b : Nat) (p : SMap Bool) : SMap Bool := p.filter fun e => decide (spadPa b 0 / 8 ≤ e.1) && decide (e.1 < spadPa (b + 1) 0 / 8)

/-- What a checkpoint keeps of a block (R343). -/
def State.snapOf (s : State) (b : Nat) : Snapshot :=
  { blk := b, regs := s.regs.ofBlock b, bundles := s.everyBundle.filter (fun u => u.blk == b), bins := s.sch.bins.filter fun n => n.blk == b,
    bytes := tabOf (2 ^ 20) b s.sp.bytes, absent := tabOf (2 ^ 14) b s.sp.absent, wins := s.sp.wins.filter (fun w => w.blk == b),
    recs := tabOf 64 b s.sp.recs, tds := s.sp.tds.filter fun d => d.blk == b
    arrs := s.sch.arrs.filter fun r => r.blk == b
    engines := s.sp.engines.filter fun e => e.blk == b && e.ownOnly
    pends := s.pipe.pends.filter fun p => p.blk == b && s.sp.engines.any fun e => e.pend == p.id && e.ownOnly
    poison := poisonOf b s.mem.poison }

/-- Bytes of a block's swap state: S (R320). -/
def Launch.swapSize (l : Launch) : Nat := l.crews * (128 * l.regs + 8192 * l.acc + 1344) + l.scratch + 4 * l.queues + 12800

/-! ## Fitting a core (R309) -/

/-- Does a block hold its core's resources (R313, R321)? -/
def Block.onCore (x : Block) : Bool := x.st != .complete && (x.st != .swapped || x.inPlace)

/-- Blocks that hold resources of a core. -/
def State.onCore (s : State) (core : Nat) : List Block := s.disp.blocks.filter fun x => x.core == core && x.onCore

/-- The lowest start, a multiple of `step`, of a free run of n below `cap`; `used` lists starts and lengths. -/
def firstFit (cap step n : Nat) (used : List (Nat × Nat)) : Option Nat :=
  (sortBy id (0 :: used.map fun u => (u.1 + u.2 + step - 1) / step * step)).find? fun a =>
    decide (a + n ≤ cap) && used.all fun u => decide (a + n ≤ u.1) || decide (u.1 + u.2 ≤ a)

/-- Runs of register cells that blocks hold in a quarter of a core. -/
def State.cellRuns (s : State) (core qtr : Nat) : List (Nat × Nat) :=
  (s.onCore core).flatMap fun x =>
    let l := s.launch x.launch
    ((List.range l.crews).filter fun c => crewQtr c == qtr).map fun c => (x.cellBase.getD c 0, l.regs)

/-- The runs of a block's crews at a core, crew by crew, or none. -/
def State.findRuns (s : State) (core : Nat) (l : Launch) : Option (List Nat) :=
  (List.range l.crews).foldl (fun (acc : Option (List Nat)) c => acc.bind fun got =>
    let mine := (((List.range got.length).zip got).filter fun e => crewQtr e.1 == crewQtr c).map fun e => (e.2, l.regs)
    (firstFit 1024 1 l.regs (s.cellRuns core (crewQtr c) ++ mine)).map fun a => got ++ [a]) (some [])

/-- Bytes of scratchpad that a block takes. -/
def Launch.spadBytes (l : Launch) : Nat := l.scratch + 4 * l.queues

/-- A place for a block: core, scratchpad base, first cells. -/
structure Site where
  core : Nat
  spad : Nat
  cells : List Nat
deriving DecidableEq, Repr

/-- Is a core in service for placement (R309, R346)? -/
def State.inService (s : State) (core : Nat) : Bool :=
  !(s.disp.retired.contains core) && !(s.disp.drained.contains (coreCluster core)) && s.host.cmdRun != .core core

/-- Other members of a block's cluster group that hold a core. -/
def State.groupOnCore (s : State) (b : Nat) : List Block :=
  if (s.launchOf b).group = 1 then [] else ((s.groupOf b).filter fun y => y != b).filterMap fun y => let x := s.block y; if x.onCore then some x else none

/-- The cluster of a swapped-out member's group: where the rest of it is, or, with none of it on a core, where the member was (R331). -/
def State.groupCluster (s : State) (x : Block) : Nat := coreCluster (((s.groupOnCore x.id).headD x).core)

/-- Swapped-out members of cluster groups that await their resumption on a cluster (R309, R34). -/
def State.awaiting (s : State) (cl : Nat) : List Block :=
  s.disp.blocks.filter fun x => x.st == .swapped && (s.launch x.launch).group != 1 && s.groupCluster x == cl

/-- Does a swapped-out block of a cluster group await its resumption on a cluster (R309, R34)? -/
def State.groupAwaits (s : State) (cl : Nat) : Bool := !(s.awaiting cl).isEmpty

/-- Does a waiting member x of another group go back to its cluster ahead of a swapped-out block b (R34, R309)? It does where b is of no group, or of one
of another cluster. Among groups of one cluster, one that is in part on its cores goes first, and then the one that is older (log 32). -/
def State.goesBefore (s : State) (b : Nat) (x : Block) : Bool :=
  if (s.launchOf b).group = 1 then true
  else if (s.groupOf b).contains x.id then false
  else if s.groupCluster (s.block b) != s.groupCluster x then true
  else
    let here := (s.groupOnCore b).isEmpty
    let there := (s.groupOnCore x.id).isEmpty
    if here = there then decide (x.id < b) else here

/-- The place that a block of a launch finds at a core (R309). -/
def State.siteAt (s : State) (l : Launch) (core : Nat) : Option Site :=
  if !s.inService core || 16 ≤ (s.onCore core).length then none
  else match s.findRuns core l, firstFit 524288 1024 l.spadBytes ((s.onCore core).map fun x => (x.spadBase, (s.launch x.launch).spadBytes)) with
    | some cs, some b => some { core := core, spad := b, cells := cs }
    | _, _ => none

/-- Clusters in the order of the search (R356). -/
def State.clusterOrder (s : State) : List Nat :=
  let named := fun (cl : Nat) => (s.yoke (pairOfCluster cl)).pref == cl % 2
  (List.range 48).filter named ++ (List.range 48).filter fun cl => !named cl
/-- Cores of a cluster, ascending. -/
def coresOf (cl : Nat) : List Nat := (List.range 8).map fun i => 8 * cl + i

/-- Places for a launch's next cluster group (of one block, where it asks for none) in one cluster. -/
def State.clusterSites (s : State) (l : Launch) (cl : Nat) : Option (List Site) :=
  if s.groupAwaits cl then none
  else
    let xs := ((coresOf cl).filterMap (s.siteAt l)).take l.group
    if xs.length = l.group then some xs else none

/-! ## Guarded pairs (R341) -/

/-- Free PIN granules of a die. -/
def State.dieGranules (s : State) (die : Nat) : List (Nat × Nat) :=
  (List.range 32).flatMap fun i => (s.freePins (32 * die + i)).map fun g => (32 * die + i, g)
/-- Granules of a pair's area: twice the swap state. -/
def Launch.areaGranules (l : Launch) : Nat := (2 * l.swapSize + 16383) / 16384

/-- Where the next blocks of a launch go: primaries, twins, and the granules of their areas. -/
structure Sites where
  prim : List Site
  twin : List Site
  area : List (Nat × Nat)
deriving DecidableEq, Repr

/-- The first places in the order of the search. -/
def State.findSites (s : State) (l : Launch) : Option Sites :=
  s.clusterOrder.findSome? fun cl =>
    (s.clusterSites l cl).bind fun xs =>
      if !l.guarded then some { prim := xs, twin := [], area := [] }
      else
        let g := s.dieGranules (cl / 12)
        if g.length < l.group * l.areaGranules then none
        else (s.clusterOrder.findSome? fun c2 => if c2 = cl then none else s.clusterSites l c2).map fun ys =>
          { prim := xs, twin := ys, area := g.take (l.group * l.areaGranules) }

/-! ## Placing new blocks (R308, R11) -/

/-- A pair that has just been placed. -/
def Pair.fresh (p t : Nat) (area : List (Nat × Nat)) : Pair :=
  { primary := p, twin := t, arrived := [], go := [], acts := [], ended := [], acts0 := [], ended0 := [], holdPts := [], rollbacks := 0, bad := false, checking := false,
    restoring := false, area := area }

/-- Bundles of a placed block: a feed thread, and each crew at the kernel entry (R11). -/
def freshBundles (l : Launch) (b now : Nat) : List Bundle :=
  let u : Bundle := { blk := b, feed := true, pc := BitVec.ofNat 32 l.fentry, clause := none, members := [], wait := .ready, since := now,
                      pass := false, adv := 0 }
  u :: (List.range l.crews).map fun c =>
    { u with feed := false, pc := BitVec.ofNat 32 l.kentry, members := (List.range 32).map fun i => ⟨i, c⟩ }

/-- Place one block (R11): its crews and its feed context in their first state; they issue 128 cycles later. -/
def State.placeOne (s : State) (l : Launch) (lin : Nat) (x : Site) (primary : Bool) (twin : Option Nat) : State :=
  let id := s.disp.nextBlk
  let b : Block := { Block.none with id := id, launch := l.uid, lin := lin, core := x.core, st := .placed, feedDone := false, spadBase := x.spad,
                                     cellBase := x.cells, primary := primary, twin := twin, placedAt := s.now, exclAt := some s.now }
  let regs := (List.range l.crews).foldl (fun r c => r.setCrew id c { CrewSt.init with abnd := l.regs - 32 * l.acc }) s.regs
  let t := { s with regs := regs, disp := { s.disp with blocks := s.disp.blocks ++ [b], nextBlk := id + 1 } }
  let t := { t with sch := { t.sch with lastIssue := (feedCrew :: List.range l.crews).foldl (fun m c => mput 0 m (crewKey id c) s.now) t.sch.lastIssue } }
  (t.addBundles (freshBundles l id s.now)).due [.crewStart id]

/-- Place a primary and its twin, with the checkpoint of their first state (R341, R343). -/
def State.placePair (s : State) (l : Launch) (lin : Nat) (x y : Site) (area : List (Nat × Nat)) : State :=
  let p := s.disp.nextBlk
  let t := (s.placeOne l lin x true (some (p + 1))).placeOne l lin y false (some p)
  { t with grd := { t.grd with pairs := t.grd.pairs ++ [Pair.fresh p (p + 1) area], snaps := t.grd.snaps ++ [t.snapOf p, t.snapOf (p + 1)] } }

/-- Place the next blocks of a launch. -/
def State.placeAt (s : State) (l : Launch) (x : Sites) : State :=
  let n := l.areaGranules
  let t := ((List.range x.prim.length).zip x.prim).foldl (fun t e =>
    match x.twin[e.1]? with
    | some y => t.placePair l (l.nextBlk + e.1) e.2 y ((x.area.drop (n * e.1)).take n)
    | none => t.placeOne l (l.nextBlk + e.1) e.2 true none) s
  t.setLaunch { t.launch l.uid with nextBlk := l.nextBlk + x.prim.length, waitFrom := s.now, blocking := false }

/-! ## Resuming swapped-out blocks (R314, R319, R331) -/

/-- A context whose energy quota is spent: nothing of it is placed (R361). -/
def State.quotaSpent (s : State) (ctx : Nat) : Bool :=
  let p := s.ctx ctx
  p.eqcfg.extractLsb' 0 32 != 0#32 && p.eqrem.extractLsb' 0 32 == 0#32

/-- May a swapped-out block be resumed: its entries are served, its quota is refilled, and it does not wait at a barrier or a monitor
for which it was swapped out (R190, R192, R315, R361)? -/
def State.mayResume (s : State) (b : Nat) : Bool :=
  let x := s.block b
  x.st == .swapped && !x.quotaWait && !(s.sch.faults.any fun f => f.blk == b && !f.inspect) &&
    (x.placeable || !(s.sch.bundles.any fun u => u.blk == b && !u.feed && u.wait.atLaunch && !(u.wait == .lbar true && (s.launch x.launch).lbarOrder.isEmpty))) &&
    !(s.launch x.launch).stopped

/-- Places for a swapped-out block, in the order of the search. A member of a cluster group goes to the cluster that holds the rest of
it, on a core without another member (R331); the first of a group that has left its cores goes where all of it that is not complete fits. -/
def State.resumeSites (s : State) (b : Nat) : List Site :=
  let l := s.launchOf b
  let rest := s.groupOnCore b
  let size := if l.group = 1 then 1 else ((s.groupOf b).filter fun y => (s.block y).st != .complete).length
  let cls := match rest with
    | x :: _ => [coreCluster x.core]
    | [] => s.clusterOrder
  (cls.filter fun cl => !((s.awaiting cl).any fun x => x.id != b && s.goesBefore b x)).flatMap fun cl =>
    let sites := ((coresOf cl).filter fun c => !(rest.any fun x => x.core == c)).filterMap (s.siteAt l)
    if rest.isEmpty && sites.length < size then [] else sites

/-- The block and, for a guarded pair, its other half, with their places (R341). -/
def State.resumePlan (s : State) (b core : Nat) : Option (List (Nat × Site)) :=
  match (s.resumeSites b).find? fun x => x.core == core with
  | none => none
  | some x =>
    match s.pairOf b with
    | none => some [(b, x)]
    | some p =>
      let o := if p.primary == b then p.twin else p.primary
      if !s.mayResume o then none
      else ((s.resumeSites o).find? fun y => coreCluster y.core != coreCluster core).map fun y => [(b, x), (o, y)]

/-- The first core at which a swapped-out block can be resumed. -/
def State.resumeCore (s : State) (b : Nat) : Option Nat :=
  ((s.resumeSites b).find? fun x => (s.resumePlan b x.core).isSome).map fun x => x.core

/-! ## The dispatcher's choice (R308) -/

/-- What the dispatcher does next. -/
inductive Placement where
  | fresh (u : Nat) (x : Sites)
  | resume (b core : Nat)
deriving DecidableEq, Repr

/-- Swapped-out blocks of a launch that may be resumed elsewhere, in block-index order; the primary stands for a pair. -/
def State.returning (s : State) (u : Nat) : List Nat :=
  (sortBy (fun (x : Block) => x.lin) (s.disp.blocks.filter fun x => x.launch == u && x.primary && !x.inPlace && s.mayResume x.id)).map fun x => x.id

/-- The place in which the next block of a launch fits: a block that returns goes ahead of every unplaced one (R314, R361). -/
def State.fitOf (s : State) (l : Launch) : Option Placement :=
  if l.stopped then none
  else
    match s.returning l.uid with
    | b :: t => (b :: t).findSome? fun b => (s.resumeCore b).map fun c => Placement.resume b c
    | [] => if l.st == .cleared && l.nextBlk < l.total then (s.findSites l).map fun x => Placement.fresh l.uid x else none

/-- The next placement of a launch: none while its context's quota is spent (R361). -/
def State.placementOf (s : State) (l : Launch) : Option Placement := if s.quotaSpent l.ctx then none else s.fitOf l

/-- Launches in rank order: PRIO, then the release cycle. -/
def State.ranked (s : State) : List Launch :=
  sortBy (fun (l : Launch) => (7 - l.prio) * 2 ^ 64 + l.releasedAt) (s.disp.launches.filter fun l => l.st == .cleared && !l.stopped)

/-- The first placement in rank order; a blocking launch lets no lower one pass. -/
def State.firstPlacement (s : State) : List Launch → Option Placement
  | [] => none
  | l :: t =>
    match s.placementOf l with
    | some p => some p
    | none => if l.blocking then none else s.firstPlacement t

/-- PLACE_BLOCK (R308, R309, R341, R356): the dispatcher makes one placement. -/
def execPlaceBlock (s : State) : Host.Outcome State Fault Refusal :=
  match s.firstPlacement s.ranked with
  | none => .next s
  | some (.fresh u x) => .next (s.placeAt (s.launch u) x)
  | some (.resume b core) => .next (s.due [.swapRestore b core])

/-- Has the launch a block to place? -/
def State.hasUnplaced (s : State) (l : Launch) : Bool := l.st == .cleared && !l.stopped && (l.nextBlk < l.total || !(s.returning l.uid).isEmpty)

/-- The block of a launch that is to be placed next: the first that returns, or the next of those still to be placed. -/
def State.nextUp (s : State) (l : Launch) : Nat := match s.returning l.uid with
  | b :: _ => 2 * b + 2
  | [] => 2 * l.nextBlk + 1

/-- The wait of a launch's next block without a place starts again where the block fits, or is another (R308). -/
def State.fitSync (s : State) (l : Launch) : State :=
  let k := s.nextUp l
  if k != l.waitFor || (s.fitOf l).isSome then s.setLaunch { l with waitFrom := s.now, waitFor := k } else s

/-- LAUNCH_BLOCKING (R308): the next block of a launch has waited 65,536 cycles without fitting. -/
def execLaunchBlocking (l : Nat) (s : State) : Host.Outcome State Fault Refusal :=
  let x := s.launch l
  if s.hasUnplaced x && (s.fitOf x).isNone then .next ((s.reach (x.waitFrom + 65536)).setLaunch { x with blocking := true }) else .next s

/-- CREW_START (R308): the crews of a placed block issue, 128 cycles after the placement. -/
def execCrewStart (blk : Nat) (s : State) : Host.Outcome State Fault Refusal :=
  let x := s.block blk
  if x.st != .placed then .next s
  else
    let t := s.reach (x.placedAt + 128)
    let t := t.setBlock { x with st := .running }
    .next ((t.mapBundles fun u => if u.blk == blk then { u with since := t.now } else u).watchSync blk)

end Sys2Proof.Machine
end

