-- ==== Sys2Proof/Machine/Launch.lean ====
section
/-!
DEFINITION. Launch queues, records, release and completion (spec/23 R302 to R308; spec/19 R284; spec/29 R366 to R368; spec/30 R376;
spec/01 R9, R10; spec/05 R73).
-/
namespace Sys2Proof.Machine

/-! ## Launch queues and completion entries -/

/-- A launch queue before the driver writes it (Table 29.1; log 4). -/
def LQueue.init : LQueue :=
  { qbase := 0, qlog := 4, ctx := 0, cbase := 0, tailpa := 0, headpa := 0, head := 0, tail := 0, shared := false, overrun := false, stopped := false,
    lastId := 0, cread := 0, cwritten := 0 }
/-- A launch queue. -/
def State.queue (s : State) (q : Nat) : LQueue := mget .init s.disp.queues q
/-- Write a launch queue. -/
def State.setQueue (s : State) (q : Nat) (x : LQueue) : State := { s with disp := { s.disp with queues := mput .init s.disp.queues q x } }

/-- Bytes of host memory are written, at a host physical address. -/
def State.hostPut (s : State) (x : Nat) (bs : List Byte) : State := s.homeWrite (homeSlice 0 0 (lineOf (hostPa x))) (hostPa x) (atOffsets bs)
/-- The package writes bytes of host memory, behind what has still to leave for the host (R364). -/
def State.hostWrite (s : State) (x : Nat) (bs : List Byte) : State :=
  match (if s.host.out.isEmpty then s.hostReach x bs.length s.now true else none) with
  | some t => t.hostPut x bs
  | none => s.hostWaits (.write x bs s.now)
/-- What waits for the host leaves, in order, as far as it may; at most n of it. -/
def State.hostSend (s : State) : Nat → State
  | 0 => s
  | n + 1 => match s.host.out with
    | [] => s
    | o :: rest =>
      let t := { s with host := { s.host with out := rest } }
      match o with
      | .msi v => if (s.port 0).retraining then s else State.hostSend { t with host := { t.host with msix := v :: t.host.msix } } n
      | .write x bs at' => match t.hostReach x bs.length at' true with
        | some u => (u.hostPut x bs).hostSend n
        | none => s

/-- Completion entry (Table 29.2). -/
def completionEntry (tend trel hostmax id kind status seq : Nat) : Nat :=
  tend % 2 ^ 64 * 2 ^ 192 + trel % 2 ^ 64 * 2 ^ 128 + hostmax % 2 ^ 32 * 2 ^ 96 + id % 2 ^ 32 * 2 ^ 64 + kind % 16 * 2 ^ 36 + status % 16 * 2 ^ 32 +
    seq % 2 ^ 32

/-- Write the next completion entry of a queue, then send its MSI-X message (R366, R367, R376). -/
def State.writeEntry (s : State) (q kind status id trel hostmax : Nat) : State :=
  let x := s.queue q
  let e := completionEntry s.now trel hostmax id kind status (x.cwritten + 1)
  let t := s.hostWrite (x.cbase + 32 * (x.cwritten % 2 ^ x.qlog)) (natToBytes 32 e)
  (t.setQueue q { x with cwritten := x.cwritten + 1 }).msi q

/-- Entries of a completion ring that the driver has not read. -/
def LQueue.unread (x : LQueue) : Nat := (x.cwritten + 2 ^ 32 - x.cread % 2 ^ 32) % 2 ^ 32
/-- Records between HEAD and the TAIL last read. -/
def LQueue.ahead (x : LQueue) : Nat := (x.tail + 2 ^ 32 - x.head % 2 ^ 32) % 2 ^ 32

/-- Invalidate a host line that slices hold in the Shared state (R364). -/
def State.dropHostLine (s : State) (line : Nat) : State := s.setLines (s.sl.lines.filter fun m => m.line != line)

/-- Queues whose tail line is a line of host memory. -/
def State.tailsAt (s : State) (line : Nat) : SMap LQueue := s.disp.queues.filter fun e => lineOf (hostPa e.2.tailpa) == lineOf (hostPa (line * 64))
/-- Does a retraining port hold the snoop of a host line: that of the die at whose slice it may stand, or the dispatcher's (R364)? -/
def State.snoopHeld (s : State) (line : Nat) : Bool :=
  let n := lineOf (hostPa (line * 64))
  s.portHolds (homeSlice 0 0 n) (64 * n) || (!(s.tailsAt line).isEmpty && (s.port 0).retraining)

/-- CXL_SNOOP (R303, R364): a snoop for a host line invalidates the copies that slices and the dispatcher hold; the host's store then
writes its bytes. A retraining port holds it, and drops none. -/
def execCxlSnoop (line : Nat) (s : State) : Host.Outcome State Fault Refusal :=
  if s.snoopHeld line then
    .next (if s.host.stores.any fun e => e.1 == line then s else { s with host := { s.host with stores := s.host.stores ++ [(line, [])] } })
  else
  let t := s.dropHostLine (lineOf (hostPa (line * 64)))
  let t := (t.tailsAt line).foldl (fun t e => t.setQueue e.1 { e.2 with shared := false }) t
  match t.host.stores.find? fun e => e.1 == line with
  | none => .next t
  | some e => .next ({ t with host := { t.host with stores := t.host.stores.eraseP fun e => e.1 == line } }.hostPut (line * 64) (e.2.take 64))

/-- Does the dispatcher watch a queue: its lines have been written (R302), and start-up has come to step 6 (R371)? -/
def State.watches (s : State) (q : Nat) : Bool := 6 ≤ s.host.boot && !(s.port 0).retraining && (s.queue q).tailpa != 0 && !(s.queue q).stopped

/-- TAIL_REREAD (R303): the dispatcher reads a tail line it has lost; a TAIL more than 2^QLOG ahead makes the queue OVERRUN. -/
def execTailReread (q : Nat) (s : State) : Host.Outcome State Fault Refusal :=
  match (if s.watches q then s.hostReach (s.queue q).tailpa 4 0 false else none) with
  | none => .next s
  | some s =>
    let x := { s.queue q with shared := true, tail := s.hostRead (s.queue q).tailpa 4 }
    let ovf := decide (2 ^ x.qlog < x.ahead)
    let t := s.setQueue q { x with overrun := ovf }
    .next (if ovf && !(s.queue q).overrun then t.writeEntry q 4 0 q 0 0 else t)

/-! ## Records (R304, R305) -/

/-- Reserved bits of a record (Table 23.1). -/
def recordReserved (x : BitVec 1024) : Bool :=
  let z := fun (lo w : Nat) => x.extractLsb' lo w != 0
  z 992 32 || ((List.range 12).any fun w => z (800 + 16 * w + 7) 1) || z 357 27 || z 319 1 || z 249 7 || z 217 7 || z 185 7

/-- The level of a kind of a context. -/
def State.level (s : State) (ctx kind id : Nat) : Option Level := s.disp.levels.find? fun v => v.ctx == ctx && v.kind == kind && v.id == id

/-- Has a level that the record names completed (R306)? -/
def State.levelOver (s : State) (l : Launch) : Bool :=
  [1, 2, 3].any fun k => l.levelId k != 0 && ((s.level l.ctx k (l.levelId k)).map fun v => v.ended).getD false

/-- Limits of Table 9.16. -/
def Launch.outOfLimits (l : Launch) : Bool :=
  l.crews < 1 || 32 < l.crews || l.regs < 64 || 1024 < l.regs || 1024 < (l.crews + 3) / 4 * l.regs || 16 < l.acc || l.regs < 32 * l.acc + 64 ||
    l.bage < 8 || 524288 < l.spadBytes

/-- A window outside the limits of R305. -/
def Launch.badWindow (l : Launch) (w : Nat) : Bool :=
  64 < l.depth w || (0 < l.depth w && (l.panel w < 64 || 8192 < l.panel w || (8 ≤ w && l.panel w != 128)))

/-- WQHEAD and WQTAIL of a record. -/
def Launch.wq0 (l : Launch) : Nat × Nat := (l.fld 512 32, l.fld 544 32)

/-- Does R305 refuse the record, taken from queue x? -/
def State.refuses (s : State) (x : LQueue) (l : Launch) : Bool :=
  recordReserved l.record || l.id == 0 || l.id ≤ x.lastId || (s.disp.launches.any fun y => y.ctx == l.ctx && y.id == l.id && y.st != .ended) ||
  ((List.range 4).any fun n => l.pred n != 0 && l.id ≤ l.pred n) ||
  l.nblk 0 == 0 || l.nblk 1 == 0 || l.nblk 2 == 0 || 2 ^ 24 < l.total || l.total % l.group != 0 || l.outOfLimits ||
  ((List.range 12).any l.badWindow) || (0 < l.glen && (1568 < l.gbase + l.glen || l.gseg == 0)) ||
  60 < l.calldepth || 24 < l.wql || l.codebase % 64 != 0 || l.callbase % 4 != 0 || l.wqbase % 4 != 0 ||
  l.wq0.2 < l.wq0.1 || 2 ^ l.wql < l.wq0.2 - l.wq0.1 ||
  (l.guarded && !s.host.featacc.getLsbD 2) || (0 < l.glen && !s.host.featacc.getLsbD 0) ||
  (l.levelId 1 == 0 && (l.levelId 2 != 0 || l.levelId 3 != 0)) || (l.levelId 2 == 0 && l.levelId 3 != 0) ||
  ([1, 2, 3].any fun k => l.last k && l.levelId k == 0) || s.levelOver l

/-- Change the level of a kind and id of a context. -/
def State.mapLevel (s : State) (ctx kind id : Nat) (f : Level → Level) : State :=
  { s with disp := { s.disp with levels := s.disp.levels.map fun v => if v.ctx == ctx && v.kind == kind && v.id == id then f v else v } }

/-- A child of a level of kind k has been accepted (R306): the counter, which a first child creates, rises, and a close bit is noted. A
level that it creates is itself a child of the level around it. -/
def State.joinLevels (s : State) (l : Launch) : List Nat → State
  | [] => s
  | k :: rest =>
    let id := l.levelId k
    if id = 0 then s
    else match s.level l.ctx k id with
      | some _ => s.mapLevel l.ctx k id fun v => { v with counter := v.counter + 1 }
      | none =>
        let v : Level := { kind := k, id := id, ctx := l.ctx, parent := if k = 3 then 0 else l.levelId (k + 1), counter := 1, closed := false,
                           anyKilled := false, anyCancelled := false, ended := false, stopped := false, queue := l.queue }
        State.joinLevels { s with disp := { s.disp with levels := s.disp.levels ++ [v] } } l rest

/-- Close bits of an accepted launch (R306). -/
def State.closeLevels (s : State) (l : Launch) : State :=
  [1, 2, 3].foldl (fun t k => if l.last k then t.mapLevel l.ctx k (l.levelId k) fun v => { v with closed := true } else t) s

/-- Is a launch inside a level that has been cancelled (R204)? -/
def State.insideStopped (s : State) (l : Launch) : Bool :=
  [1, 2, 3].any fun k => l.levelId k != 0 && ((s.level l.ctx k (l.levelId k)).map fun v => v.stopped).getD false

/-- Keep the 4,096 most recent completions of a context (R307). -/
def State.noteDone (s : State) (ctx id status : Nat) : State :=
  let mine := (s.disp.done.filter fun e => e.1 == ctx).take 4095
  { s with disp := { s.disp with done := (ctx, id, status) :: mine ++ s.disp.done.filter fun e => e.1 != ctx } }

/-- Launch of a record that has been read. -/
def Launch.ofRecord (uid q ctx : Nat) (x : BitVec 1024) : Launch :=
  { Launch.none with uid := uid, id := (x.extractLsb' 0 32).toNat, record := x, queue := q, ctx := ctx, st := .waiting }

/-- A record is accepted: its launch waits for its predecessors; one of a cancelled level ends CANCELLED. -/
def State.accept (s : State) (l : Launch) : State :=
  let l := { l with counter := l.total, wqHead := l.wq0.1, wqTail := l.wq0.2 }
  let t := (s.joinLevels l [1, 2, 3]).closeLevels l
  let t := { t with disp := { t.disp with launches := t.disp.launches ++ [l] } }
  if t.insideStopped l then t.stopLaunch l.uid 1 else t

/-- May the dispatcher take a record from a queue (R303, R366, R368)? -/
def State.mayTake (s : State) (q : Nat) : Bool :=
  let x := s.queue q
  s.watches q && s.host.featWritten && !x.overrun && x.ahead != 0 && x.unread < 2 ^ x.qlog - 4

/-- RECORD_TAKE (R302 to R306, R368): the record at HEAD is read and accepted or refused; HEAD is written to the head line, and FEATACC
locks. -/
def execRecordTake (q : Nat) (s : State) : Host.Outcome State Fault Refusal :=
  match (if s.mayTake q then s.hostReach ((s.queue q).qbase + 128 * ((s.queue q).head % 2 ^ (s.queue q).qlog)) 128 0 false else none) with
  | none => .next s
  | some s =>
    let x := s.queue q
    let r := BitVec.ofNat 1024 (s.hostRead (x.qbase + 128 * (x.head % 2 ^ x.qlog)) 128)
    let l := Launch.ofRecord (s.disp.launches.length + 1) q x.ctx r
    let t := s.setQueue q { x with head := (x.head + 1) % 2 ^ 32, lastId := max x.lastId l.id }
    let t := t.hostWrite x.headpa (natToBytes 64 ((x.head + 1) % 2 ^ 32))
    let t := { t with host := { t.host with featLocked := true } }
    .next (if s.refuses x l then (t.noteDone x.ctx l.id 3).writeEntry q 0 3 l.id 0 (s.freshValue.toNat % 2 ^ 32) |>.drawn else t.accept l)

/-! ## Release (R307, R284) -/

/-- Status of a predecessor: none while it is live; a launch that is in no table counts as DONE. -/
def State.predStatus (s : State) (ctx id : Nat) : Option Nat :=
  if s.disp.launches.any fun y => y.ctx == ctx && y.id == id && y.st != .ended then none
  else some (((s.disp.done.find? fun e => e.1 == ctx && e.2.1 == id).map fun e => e.2.2).getD 0)
/-- Statuses of a launch's predecessors. -/
def State.preds (s : State) (l : Launch) : List (Option Nat) :=
  ((List.range 4).filter fun n => l.pred n != 0).map fun n => s.predStatus l.ctx (l.pred n)

/-- Does the segment of a launch overlap one that is live or still being cleared (R284)? -/
def State.segBusy (s : State) (l : Launch) : Bool :=
  l.glen != 0 && s.disp.launches.any fun y => y.uid != l.uid && y.glen != 0 && decide (l.gbase < y.gbase + y.glen) && decide (y.gbase < l.gbase + l.glen) &&
    (match y.st with
      | .waiting => false
      | .released | .cleared | .ending => true
      | .ended => y.segState == 1)

/-- LAUNCH_RELEASE (R307, R204): a launch whose predecessors have all completed DONE is released; one with a predecessor that has completed
otherwise ends CANCELLED. -/
def execLaunchRelease (l : Nat) (s : State) : Host.Outcome State Fault Refusal :=
  let x := s.launch l
  if x.st != .waiting || x.stopped then .next s
  else if (s.preds x).any fun p => p.any fun c => c != 0 then .next (s.stopLaunch l 1)
  else if (s.preds x).any (fun p => p.isNone) || s.segBusy x then .next s
  else .next (s.setLaunch { x with st := if x.glen = 0 then .cleared else .released, releasedAt := s.now, waitFrom := s.now, clearFrom := s.now })

/-- Has a launch nothing left to run: every block complete, or it was stopped before one was placed? -/
def State.launchOver (s : State) (l : Launch) : Bool :=
  l.uid != 0 && l.st != .ended && l.counter == 0 && s.outstanding l.uid == 0 && (l.stopped || (l.st != .waiting && l.nextBlk == l.total))

/-- First cycle of the first revolution that begins at or after a cycle. -/
def revolutionFrom (c : Nat) : Nat := (c + 391) / 392 * 392

/-- Clear a launch's segment to an owner (R284): data 0, TAG 0, HV 0, RV 0. -/
def State.clearSegment (s : State) (l : Launch) (seg : Nat) : State :=
  let inside := fun (n : Nat) => decide (l.gbase ≤ n) && decide (n < l.gbase + l.glen)
  let hdr := s.gi.hdr.filter fun e => !inside e.1
  let fresh := (List.range l.glen).map fun i => (l.gbase + i, { SlotHdr.init with seg := seg })
  { s with gi := { s.gi with data := s.gi.data.filter (fun e => !inside (e.1 / 16)), hdr := mputs .init hdr fresh } }

/-- SEGMENT_CLEAR (R284): the girth segment of a released launch, or of one whose last block has completed, is cleared during a
revolution. -/
def execSegmentClear (l : Nat) (s : State) : Host.Outcome State Fault Refusal :=
  let x := s.launch l
  let t := s.reach (revolutionFrom x.clearFrom)
  if x.st == .released then .next ((t.clearSegment x x.gseg).setLaunch { x with st := .cleared, segState := 1, waitFrom := t.now })
  else if (x.st == .ended || s.launchOver x) && x.segState == 1 then .next ((t.clearSegment x 0).setLaunch { x with segState := 2 })
  else .next s

/-! ## Completion (R9, R10, R73, R306) -/

/-- BLOCK_COMPLETE (R10, R330): a block completes; its launch's counter falls, its resources are released, and barriers that awaited it
complete. The completion of a guarded block is a comparison point (R343). -/
def execBlockComplete (blk : Nat) (s : State) : Host.Outcome State Fault Refusal :=
  let x := s.block blk
  let l := s.launch x.launch
  if !s.blockOver blk then .next s
  else if l.guarded && !l.stopped && !s.mayGo blk 34 then .next (s.arriveAt blk 34)
  else
    let t := s.setBlock { x with st := .complete, run := none, placeable := false, inPlace := false, leftAt := s.now }
    let n := if x.primary then l.counter - 1 else l.counter
    let t := (t.setLaunch { l with counter := n, clearFrom := if n = 0 then s.now else l.clearFrom }).releaseBlock blk
    let t := { t with grd := { t.grd with
      pairs := t.grd.pairs.filter fun (p : Pair) => !((p.primary == blk || p.twin == blk) && (t.block p.primary).st == BlkState.complete && (t.block p.twin).st == BlkState.complete)
      snaps := t.grd.snaps.filter fun n => n.blk != blk } }
    .next ((t.recheck blk).due (if n = 0 then [.levelComplete 0 l.uid] else []))

/-- Has a level nothing left to wait for (R306)? -/
def Level.isOver (v : Level) : Bool := v.counter == 0 && v.closed && !v.ended

/-- Pins of a level, the launch by its number and the others by kind and id (R73). -/
def Pin.ofLevel (p : Pin) (ctx kind id : Nat) : Bool := p.ctx == ctx && p.life == kind && p.level == id
/-- Pins of a level that are not ENDED. -/
def State.pinsLeft (s : State) (ctx kind id : Nat) : Bool := s.sl.pins.any fun p => p.ofLevel ctx kind id && p.state != 3

/-- A child of a level has completed with a status: the counter falls, and the level completes when nothing is left. -/
def State.childDone (s : State) (ctx kind id status queue : Nat) : State :=
  if id = 0 then s
  else
    let t := s.mapLevel ctx kind id fun v =>
      { v with counter := v.counter - 1, anyKilled := v.anyKilled || status == 2, anyCancelled := v.anyCancelled || status == 1, queue := queue }
    match t.level ctx kind id with
    | some v => if v.isOver then t.due [.levelComplete kind (ctx * 2 ^ 32 + id)] else t
    | none => t

/-- HOSTMAX of an entry, which the package reports and does not promise, is a free value (log 3). -/
def State.finishLaunch (s : State) (l : Launch) : State :=
  let t := s.setLaunch { l with st := .ended, segState := if l.segState = 1 then 1 else 2, clearFrom := if l.nextBlk = 0 then s.now else l.clearFrom }
  let t := (t.drawn.noteDone l.ctx l.id l.status).writeEntry l.queue 0 l.status l.id l.releasedAt (s.freshValue.toNat % 2 ^ 32)
  t.childDone l.ctx 1 (l.levelId 1) l.status l.queue

/-- Status of a level (Table 23.2). -/
def Level.status (v : Level) : Nat := if v.anyKilled then 2 else if v.anyCancelled then 1 else 0

/-- A graph, phase or job completes: TREL of its entry, which no rule gives, and HOSTMAX are free values (log 3). -/
def State.finishLevel (s : State) (v : Level) : State :=
  let t := s.mapLevel v.ctx v.kind v.id fun x => { x with ended := true }
  let trel := Config.freeValue (s.clk.free + 1)
  let t := t.drawn.drawn.writeEntry v.queue v.kind v.status v.id trel.toNat (s.freshValue.toNat % 2 ^ 32)
  if v.kind = 3 then t else t.childDone v.ctx (v.kind + 1) v.parent v.status v.queue

/-- LEVEL_COMPLETE (R9, R73, R306, R366): a launch (kind 0, by its number), or a graph, phase or job (kinds 1 to 3, by context and id),
whose counter is zero drains its pins, and then completes. -/
def execLevelComplete (kind n : Nat) (s : State) : Host.Outcome State Fault Refusal :=
  if kind = 0 then
    let l := s.launch n
    if !s.launchOver l then .next s
    else
      let t := (s.endPins fun p => p.ofLevel l.ctx 0 n).setLaunch { l with st := .ending }
      .next (if t.pinsLeft l.ctx 0 n then t else t.finishLaunch { l with st := .ending })
  else
    match s.level (n / 2 ^ 32) kind (n % 2 ^ 32) with
    | none => .next s
    | some v =>
      if !v.isOver then .next s
      else
        let t := s.endPins fun p => p.ofLevel v.ctx kind v.id
        .next (if t.pinsLeft v.ctx kind v.id then t else t.finishLevel v)

end Sys2Proof.Machine
end

