-- ==== Sys2Proof/Machine/Swap.lean ====
section
/-!
DEFINITION. Pre-emption, swap-out and resumption, fault entries and the watchdog, as events (spec/23 R313 to R321, R328; spec/15 R235;
spec/19 R289; spec/25 R341).
-/
namespace Sys2Proof.Machine

/-! ## Pre-emption (R318) -/

/-- A block and, in a guarded launch, its other half: they are pre-empted, swapped and resumed together (R341). -/
def State.halves (s : State) (b : Nat) : List Nat := match s.pairOf b with
  | some p => [p.primary, p.twin]
  | none => [b]

/-- Stop blocks at an instruction boundary of every crew, to be swapped out. -/
def State.stopHalves (s : State) (b why : Nat) : State := (s.halves b).foldl (fun t x => (t.stopBlock x why).watchSync x) s

/-- PREEMPT (R318): the driver pre-empts a block. -/
def execPreempt (blk : Nat) (s : State) : Host.Outcome State Fault Refusal := .next (s.stopHalves blk 2)

/-- Does a block wait as a whole at LBAR or WAITCMP (R318)? -/
def State.waitsAtLaunch (s : State) (b : Nat) : Bool :=
  decide (0 < s.liveThreads b) && s.waitingThreads b Wait.atLaunch == s.liveThreads b &&
    !(s.sch.bundles.any fun u => u.blk == b && u.wait == .lbar true)

/-- Is it pre-empted so that a block of its launch that waits can be placed (R189, R318)? -/
def State.yields (s : State) (b : Nat) : Bool :=
  (s.block b).st == .running && s.waitsAtLaunch b && s.hasUnplaced (s.launchOf b) && !(s.quotaSpent (s.ctxOf b))

/-! ## Swap-out (R319 to R321) -/

/-- Numbers of operations that a swap-out does not wait for: girth operations, which are abandoned, and contract operations, which run
on (R319). -/
def State.runsOn (s : State) (id : Nat) : Bool := (s.gi.ops.any fun o => o.pend == id) || s.sl.seq.any fun r => r.pend == id

/-- Does a move of an engine write the scratchpad of a block? -/
def Move.writesSpad (m : Move) (b : Nat) : Bool := match m with
  | .spadFromMem xs _ _ => xs.contains b
  | _ => false

/-- Has everything drained that R319 names? -/
def State.drainedOut (s : State) (b : Nat) : Bool :=
  !(s.pipe.pends.any fun p => p.blk == b && p.seta && !(p.plan == .refill && p.parts == 0) && !s.runsOn p.id && !(p.mirror.any s.runsOn)) &&
  !(s.pipe.sbuf.any fun e => e.blk == b && !e.left) &&
  !(s.sp.engines.any fun e => (e.moves.any fun m => m.writesSpad b) || (e.blk == b && (e.assay.isSome || e.panels.any fun p => p.entry.isSome)))

/-- Units of 32 KiB that blocks of a context hold in its swap area. -/
def State.swapRuns (s : State) (ctx : Nat) : List (Nat × Nat) :=
  (s.disp.blocks.filter fun x => (s.launch x.launch).ctx == ctx).filterMap fun x => x.run
/-- The lowest free run for a block (R321). -/
def State.swapRun (s : State) (b : Nat) : Option (Nat × Nat) :=
  let l := s.launchOf b
  let n := (l.swapSize + 32767) / 32768
  (firstFit ((s.ctx l.ctx).swaplen / 32768) 1 n (s.swapRuns l.ctx)).map fun a => (a, n)

/-- A block whose drains have ended begins its save into a run; with no free run it stays in place (R321). -/
def State.saveBlock (s : State) (b : Nat) (run : Option (Nat × Nat)) : State :=
  let x := s.block b
  match run with
  | some r => (s.setBlock { x with st := .saving, run := some r, at' := s.now }).watchSync b
  | none =>
    let die := coreDie x.core
    let t := s.setBlock { x with st := .swapped, inPlace := true, leftAt := s.now }
    State.watchSync { t with host := { t.host with swapFull := mput 0 t.host.swapFull die (mget 0 t.host.swapFull die + 1) } } b

/-- Save blocks; the halves of a pair stay in place together where one of them finds no run. -/
def State.saveAll (s : State) (bs : List Nat) : State :=
  let t := bs.foldl (fun t b => t.saveBlock b (t.swapRun b)) s
  if bs.any fun b => (t.block b).inPlace then bs.foldl (fun t b => t.saveBlock b none) s else t

/-- A bundle of a block that stands between a header and its first instruction goes back among the bundles. -/
def State.parkCur (s : State) (b : Nat) : State := if s.sch.curOn && s.sch.cur.blk == b then s.dropCur.addBundles [s.sch.cur] else s

/-- SWAP_OUT (R318, R319, R321): a stopped block whose drains have ended begins its save; both blocks of a pair together. One that waits
at LBAR or WAITCMP while a block of its launch waits to be placed is stopped first. -/
def execSwapOut (blk : Nat) (s : State) : Host.Outcome State Fault Refusal :=
  let hs := s.halves blk
  if s.yields blk then .next (s.stopHalves blk 1)
  else if !(hs.all fun b => (s.block b).st == .draining || (s.block b).st == .complete) || (s.block blk).st != .draining then
    .next (if (s.block blk).st == .draining then s.stopHalves blk (s.block blk).why else s)
  else
    let t := hs.foldl (fun t b => t.parkCur b) s
    let here := hs.filter fun b => (t.block b).st == .draining
    if !(here.all t.drainedOut) then .next t else .next (t.saveAll here)

/-- Cells of bytes at consecutive addresses. -/
def byteRun : Nat → List Byte → List (Nat × Byte)
  | _, [] => []
  | pa, b :: t => if b = memDefault then byteRun (pa + 1) t else (pa, b) :: byteRun (pa + 1) t

/-- Memory with bytes at consecutive addresses, as one run. -/
def Mem.putRun (m : Mem) (pa : Nat) (bs : List Byte) : Mem :=
  { m with cells := m.cells.filter (fun e => e.1 < pa) ++ byteRun pa bs ++ m.cells.filter fun e => decide (pa + bs.length ≤ e.1) }

/-- Swap traffic reaches the lines of a block's run at the homes that HMAP gives, allocating none (R65, R82); none while one has to wait. -/
def State.touchRun (s : State) (b : Nat) (u : LineUse) : Option State := match (s.block b).run with
  | none => some s
  | some r => (List.range (((s.launchOf b).swapSize + 63) / 64)).foldl (fun t i =>
      t.bind fun t => t.touchPhys { ctlVia (coreDie (s.block b).core) 64 with at' := (s.block b).at' } ((s.ctx (s.ctxOf b)).swapbase + 32768 * r.1 + 64 * i) 0 1 u)
        (some s)

/-- The state of a block lies in its run of the swap area (R320, R321): its layout is not given, so the bytes are free values (log 33). -/
def State.saveBytes (s : State) (b : Nat) : State :=
  match (s.block b).run with
  | none => s
  | some r =>
    let n := (s.launchOf b).swapSize
    let pa := (s.ctx (s.ctxOf b)).swapbase + 32768 * r.1
    let m := s.mem.putRun pa ((List.range n).map fun i => (Config.freeValue (s.clk.free + i)).truncate 8)
    let t := { s with mem := { m with poison := m.poison.filter fun e => !(decide (pa / 8 ≤ e.1) && decide (e.1 < (pa + n) / 8)) } }
    let line := fun (i : Nat) => (s.trHome [] (pa + 64 * i), lineOf (pa + 64 * i))
    let u := State.arrayWrites (((List.range ((n + 63) / 64)).map line).filterMap fun x => t.arrayPlace x.1 x.2) t
    { u with clk := { u.clk with free := u.clk.free + n } }

/-- SWAP_SAVE_DONE (R319, R320): the state has been saved; the block's place on its core is free, and its bins are in the save. -/
def execSwapSaveDone (blk : Nat) (s : State) : Host.Outcome State Fault Refusal :=
  let x := s.block blk
  if x.st != .saving then .next s
  else match s.touchRun blk .whole with
  | none => .next s
  | some s =>
    let t := s.setBlock { x with st := .swapped, leftAt := s.now }
    let t := { t with sch := { t.sch with bins := t.sch.bins.map fun (n : Bin) => if n.blk == blk then { n with core := noStop } else n } }
    .next ((t.saveBytes blk).watchSync blk)

/-! ## Resumption (R319, R320) -/

/-- A block begins to be restored at a place. -/
def State.beginRestore (s : State) (b : Nat) (x : Site) : State :=
  s.setBlock { s.block b with st := .restoring, at' := s.now, core := x.core, spadBase := x.spad, cellBase := x.cells, placeable := false }

/-- A block that comes back behind the last window of its LBAR goes on, with the acquire of device scope (R189, R190). -/
def State.lbarBack (s : State) (b : Nat) : State :=
  if s.sch.bundles.any fun u => u.blk == b && u.wait == .lbar true then
    (s.acquire b 4).mapBundles fun u => if u.blk == b && u.wait == .lbar true then u.resume else u
  else s

/-- A block whose state is in place runs again. -/
def State.runAgain (s : State) (b : Nat) : State :=
  let x := s.block b
  let t := (s.setBlock { x with st := .running, run := none, inPlace := false, placeable := false, why := if x.why == 3 then 3 else 0 }).backGirth x.core |>.watchSync b
  if (t.launchOf b).lbarOrder.isEmpty then t.lbarBack b else t

/-- SWAP_RESTORE (R319, R321, R331): a swapped-out block is placed on a core and its state copied back; one that stayed in place goes on
at once. -/
def execSwapRestore (blk core : Nat) (s : State) : Host.Outcome State Fault Refusal :=
  if !s.mayResume blk || s.quotaSpent (s.ctxOf blk) then .next s
  else if (s.block blk).inPlace then
    if (s.halves blk).all fun b => (s.block b).st == .complete || (s.mayResume b && (s.block b).inPlace) then
      .next (((s.halves blk).filter fun b => (s.block b).st == .swapped).foldl (fun t b => t.runAgain b) s)
    else .next s
  else match s.resumePlan blk core with
    | none => .next s
    | some xs => .next ((xs.foldl (fun t e => t.beginRestore e.1 e.2) s).setLaunch { s.launchOf blk with waitFrom := s.now, blocking := false })

/-- The unfiled partial bundles of a bin that found no place: the j-th takes in each lane the j-th lowest waiting slot (R319). -/
def Bin.spilled (n : Bin) (now : Nat) : List Bundle :=
  let at' := fun (l : Nat) => sortBy (fun e => e.slot) (n.entries.filter fun e => e.lane == l)
  let depth := (List.range 32).foldl (fun m l => max m (at' l).length) 0
  (List.range depth).flatMap fun j =>
    let es := (List.range 32).filterMap fun l => (at' l)[j]?
    (dedup (es.map fun e => e.clause)).map fun cl => { n.bundle now cl (es.filter fun e => e.clause == cl) with pass := false }

/-- Restore a saved bin into a FREE bin of its quarter, or else as bundles (R319). -/
def State.restoreBin (s : State) (core : Nat) (n : Bin) : State :=
  if (s.sch.bins.filter fun m => m.core == core && m.qtr == n.qtr).length < 32 then
    { s with sch := { s.sch with bins := s.sch.bins ++ [{ n with core := core }] } }
  else s.addBundles (n.spilled s.now)

/-- SWAP_RESTORE_DONE (R319, R320): the state has been restored; the saved bins are placed oldest entry first. The block reads on by an
acquire of its new core's copies, so that it sees its own accesses and those that a barrier has ordered before it (R106 axiom 1, R188; log 33). One
whose quota has been spent meanwhile is pre-empted (R361). -/
def execSwapRestoreDone (blk : Nat) (s : State) : Host.Outcome State Fault Refusal :=
  let x := s.block blk
  if x.st != .restoring then .next s
  else match s.touchRun blk .read with
  | none => .next s
  | some s =>
    let mine := sortBy Bin.oldest (s.sch.bins.filter fun n => n.blk == blk)
    let t := { s with sch := { s.sch with bins := s.sch.bins.filter fun n => n.blk != blk } }
    let t := ((mine.foldl (fun t n => t.restoreBin x.core n) t).acquire blk 3).runAgain blk
    .next (if x.quotaWait then t.stopHalves blk 3 else t)

/-! ## Fault entries (R314, R328) -/

/-- Fault entry (Table 23.8). -/
def faultEntry (f : FaultRec) (ctx id lin seq : Nat) : Nat :=
  f.va % 2 ^ 64 * 2 ^ 448 + f.time % 2 ^ 64 * 2 ^ 384 + f.pc.toNat * 2 ^ 352 + id % 2 ^ 32 * 2 ^ 320 + lin % 2 ^ 24 * 2 ^ 296 + f.crew % 32 * 2 ^ 291 +
    f.lane % 32 * 2 ^ 286 + f.feed.toNat * 2 ^ 285 + f.inspect.toNat * 2 ^ 284 + ctx % 128 * 2 ^ 277 + f.code % 256 * 2 ^ 269 + f.cls.num * 2 ^ 264 +
    seq % 2 ^ 32

/-- Entries of a fault queue that the driver has not read. -/
def CtxPage.unread (p : CtxPage) : Nat := (p.fqwritten + 2 ^ 32 - p.fqread % 2 ^ 32) % 2 ^ 32

/-- Is a fault ready for its entry: in inspect mode at once, in swap mode when its block has been swapped out (R313)? -/
def State.faultReady (s : State) (f : FaultRec) : Bool := !f.written && (f.inspect || (s.block f.blk).st == .swapped)

/-- Is the entry held back: by a full queue, or by an earlier fault of the context whose entry waits (R328)? -/
def State.entryWaits (s : State) (f : FaultRec) : Bool :=
  let p := s.ctx (s.ctxOf f.blk)
  2 ^ p.fqlog ≤ p.unread || s.sch.faults.any fun g => g.id < f.id && !g.toCore && s.ctxOf g.blk == s.ctxOf f.blk && s.faultReady g

/-- A fault's entry has been written with a SEQ. -/
def State.faultWritten (s : State) (id seq : Nat) : State :=
  { s with sch := { s.sch with faults := s.sch.faults.map fun (f : FaultRec) => if f.id == id then { f with written := true, seq := seq } else f } }

/-- Write the entry of a fault: to the ring of firmware space, or to the context's queue with MSI-X vector 64. -/
def State.writeFault (s : State) (f : FaultRec) : State :=
  let ctx := s.ctxOf f.blk
  let e := fun (seq : Nat) => faultEntry f ctx (s.launchOf f.blk).id (s.block f.blk).lin seq
  if f.toCore then
    let n := s.host.fwRing.length + 1
    State.faultWritten { s with host := { s.host with fwRing := BitVec.ofNat 512 (e n) :: s.host.fwRing } } f.id (n % 2 ^ 32)
  else
    let p := s.ctx ctx
    let n := p.fqwritten + 1
    let t := s.hostWrite (p.fqbase + 64 * (p.fqwritten % 2 ^ p.fqlog)) (natToBytes 64 (e n))
    ((t.setCtx ctx { p with fqwritten := n }).faultWritten f.id (n % 2 ^ 32)).msi 64

/-- FAULT_ENTRY_WRITE (R313, R314, R328): the entry of a fault is written once its block is out, or its crew halted. -/
def execFaultEntryWrite (n : Nat) (s : State) : Host.Outcome State Fault Refusal :=
  match s.sch.faults.find? fun f => f.id == n with
  | none => .next s
  | some f =>
    let t := s.watchSync f.blk
    if !t.faultReady f || (!f.toCore && t.entryWaits f) then .next t else .next (t.writeFault f)

/-! ## The watchdog (R317) -/

/-- Cycles since a crew or feed context last issued, those that R317 excludes left out. -/
def State.watchCount (s : State) (b c : Nat) : Nat :=
  let upTo := (s.block b).exclAt.getD s.now
  upTo - mget 0 s.sch.lastIssue (crewKey b c)

/-- Cycle in which the count reaches 2^WDL if nothing issues and nothing stops it. -/
def State.watchDue (s : State) (b c : Nat) : Nat := s.now + (2 ^ (s.ctx (s.ctxOf b)).wdl - s.watchCount b c)

/-- What a crew of a bundle waits for is withdrawn: the faulting instruction changes nothing for it (R312); the bundle's other crews wait on. -/
def State.withdrawWait (s : State) (c : Nat) (w : Wait) : State := match w with
  | .pend id =>
    let t := s.dropPend id
    { t with disp := { t.disp with wq := t.disp.wq.filter fun q => q.pend != id }, kv := { t.kv with ops := t.kv.ops.filter fun k => k.pend != id } }
  | .monitor id => { s with pipe := { s.pipe with mons := s.pipe.mons.filter fun m => !(m.id == id && m.crew == c) } }
  | .fencer id =>
    let cut := fun (f : Fencer) => if f.id == id then { f with crews := f.crews.erase c } else f
    { s with sch := { s.sch with fencers := (s.sch.fencers.map cut).filter fun f => !f.crews.isEmpty } }
  | _ => s

/-- Take WATCHDOG at a bundle that waits: the crew's threads of it, the others staying. -/
def State.watchBundle (s : State) (i c : Nat) : State :=
  match s.sch.bundles[i]? with
  | none => s
  | some u =>
    let mine := if u.feed then u.members else u.members.filter fun m => m.crew == c
    let rest := if u.feed then [] else u.members.filter fun m => m.crew != c
    let t := { s with sch := { s.sch with bundles := s.sch.bundles.eraseIdx i ++ (if rest.isEmpty then [] else [{ u with members := rest }])
                                          cur := { u with members := mine }, curOn := true } }
    let t := (t.withdrawWait c u.wait).takeTrap { cls := .watchdog, lane := lowLane mine, bound := (t.peekInstr u.blk u.feed u.pc u.clause).any crewBound }
    { t with sch := { t.sch with cur := s.sch.cur, curOn := s.sch.curOn } }

/-- Take WATCHDOG at the PC at which threads of a crew are filed: those inside a clause, or, where there is none, those that must meet a header. -/
def State.watchBin (s : State) (n : Bin) (c : Nat) : State :=
  let mine := n.entries.filter fun e => e.slot * 4 + n.qtr == c
  let es := if mine.any fun e => e.clause.isSome then mine.filter fun e => e.clause.isSome else mine
  let u := n.bundle s.now (es.head?.bind fun e => e.clause) es
  let put := fun (m : Bin) => if m == n then { n with entries := n.entries.filter fun e => !(es.contains e) } else m
  let h := { s.sch with bins := (s.sch.bins.map put).filter fun m => !m.entries.isEmpty }
  let t := { s with sch := { h with cur := { u with members := laneSort u.members, pass := false }, curOn := true } }
  let t := t.takeTrap { cls := .watchdog, lane := lowLane t.sch.cur.members, bound := (t.peekInstr u.blk false u.pc u.clause).any crewBound }
  { t with sch := { t.sch with cur := s.sch.cur, curOn := s.sch.curOn } }

/-- States of a block in which its crews may count: it runs, or is away (R317). -/
def BlkState.watched : BlkState → Bool
  | .running | .draining | .swapped => true
  | _ => false

/-- WATCHDOG (R317): a crew or feed context has not issued for 2^WDL counted cycles; the exception is taken at the instruction that its
oldest waiting bundle waits on. -/
def execWatchdog (rc : Nat) (s : State) : Host.Outcome State Fault Refusal :=
  let b := rc / 33
  let c := rc % 33
  if (s.block b).id = 0 || s.watchStops b || s.halted b c (c == feedCrew) || !(s.block b).st.watched then .next s
  else
    let s := s.reach (s.watchDue b c)
    let mine := ((List.range s.sch.bundles.length).zip s.sch.bundles).filter fun e => e.2.blk == b && e.2.crews.contains c
    match (sortBy (fun (e : Nat × Bundle) => e.2.since) mine).head? with
    | some e => .next (s.watchBundle e.1 c)
    | none => match (sortBy Bin.oldest (s.sch.bins.filter fun n => n.blk == b && !(n.threadsOf c).isEmpty)).head? with
      | some n => .next (s.watchBin n c)
      | none => .next s

end Sys2Proof.Machine
end

