-- ==== Sys2Proof/Machine/GirthEvents.lean ====
section
/-!
DEFINITION. The girth as events: passages, the ends of holds, reservations (spec/19_girth_rules.md R280 to R290; spec/15 R234, R235).
-/
namespace Sys2Proof.Machine

/-! ## Geometry (R280, R281) -/

/-- First stage of a die (Table 19.1). -/
def dieStage (die : Nat) : Nat := match die with
  | 0 => 0
  | 1 => 98
  | 2 => 294
  | _ => 196
/-- Stage of the stop of a core. -/
def stopStage (core : Nat) : Nat := dieStage (coreDie core) + core % 96
/-- Stage of a slot in a cycle. -/
def slotStage (slot cyc : Nat) : Nat := (slot % 392 + 392 - cyc % 392) % 392
/-- The first passage of a slot at a stop at or after a cycle (R285). -/
def passageFrom (stop slot cyc : Nat) : Nat := cyc + (slotStage slot cyc + 392 - stopStage stop) % 392

/-! ## Slots -/

/-- Word of a slot. -/
def State.slotWord (s : State) (slot i : Nat) : Word := mget 0 s.gi.data (slot * 16 + i)
/-- Write words of a slot from word i on. -/
def State.setWords (s : State) (slot i : Nat) (ws : List Word) : State :=
  { s with gi := { s.gi with data := mputs 0 s.gi.data (((List.range ws.length).zip ws).map fun e => (slot * 16 + i + e.1, e.2)) } }

/-- Does an operation concern a slot: its own, or any slot of the segment (R234)? -/
def GirthOp.wants (o : GirthOp) (slot : Nat) : Bool :=
  let inside := decide (o.base ≤ slot) && decide (slot < o.base + o.len)
  match o.act with
  | .mount _ _ _ => inside
  | .dismount (some _) _ _ => inside
  | _ => o.slot == slot

/-- A GDISMT by tag looks for one revolution from its ready cycle (R234). -/
def GirthOp.byTag (o : GirthOp) : Bool := match o.act with
  | .dismount (some _) _ _ => true
  | _ => false

/-- Is a slot held by the crew of an operation? -/
def SlotHdr.heldMine (h : SlotHdr) (o : GirthOp) : Bool := h.hold.any fun x => x.1 == o.stop && x.2.1 == o.blk && x.2.2.1 == o.crew
/-- Is it held elsewhere (R234)? -/
def SlotHdr.heldElse (h : SlotHdr) (o : GirthOp) : Bool := h.hold.isSome && !h.heldMine o
/-- Is it reserved for another stop? -/
def SlotHdr.rsvElse (h : SlotHdr) (stop : Nat) : Bool := h.rsv.any fun r => r.1 != stop

/-- q_QD, where the instruction writes it. -/
def qWr (o : GirthOp) (q : Option Nat) (v : Bool) : List RegWr := match q with
  | some n => [.q o.crew n v]
  | none => []
/-- d of GREAD: word i mod 16 in each active lane i. -/
def State.slotWrs (s : State) (o : GirthOp) (slot cell : Nat) : List RegWr := o.lanes.map fun m => .cell m.crew cell m.lane (s.slotWord slot (m.lane % 16))

/-- GUPD on a slot: the state and the register writes. -/
def State.girthUpdate (s : State) (o : GirthOp) (slot op word : Nat) (w64 : Bool) (v n kd : Nat) (q : Option Nat) : State × List RegWr :=
  let hi := (s.slotWord slot (word + 1)).toNat
  let old := (s.slotWord slot word).toNat + if w64 then 2 ^ 32 * hi else 0
  let new := atomNew op (if w64 then 64 else 32) old v n
  let ws := if w64 then [BitVec.ofNat 32 new, BitVec.ofNat 32 (new / 2 ^ 32)] else [BitVec.ofNat 32 new]
  let olds := if w64 then [BitVec.ofNat 32 old, BitVec.ofNat 32 (old / 2 ^ 32)] else [BitVec.ofNat 32 old]
  (s.setWords slot word ws, kWrs o.crew kd olds ++ qWr o q (if op = 12 then old == v else new != old))

/-- What an operation does at a passage of a slot: none where it is kept from acting (R234, R286, R287). -/
def State.girthTry (s : State) (o : GirthOp) (slot c : Nat) : Option (State × List RegWr) :=
  let h := s.slotHdr slot
  let mine := fun (h : SlotHdr) => { h with rsv := if h.rsvElse o.stop then h.rsv else none }
  match o.act with
  | .read cell q => some (s, s.slotWrs o slot cell ++ qWr o q h.hold.isSome)
  | .update op word w64 v n kd q => if h.heldElse o then none else some (s.girthUpdate o slot op word w64 v n kd q)
  | .cinch cell =>
    if h.hold.isSome || h.rsvElse o.stop then none
    else some (s.setHdr slot { mine h with hold := some (o.stop, o.blk, o.crew, c + 392) }, s.slotWrs o slot cell)
  | .close _ q => some (s, qWr o q false)
  | .mount tag data kd =>
    if h.tag != 0 || h.hold.isSome || h.rsvElse o.stop then none
    else some ((s.setHdr slot { h with tag := tag, rsv := none }).setWords slot 0 data, [.k o.crew kd (BitVec.ofNat 32 slot)])
  | .dismount byTag cell q =>
    if h.heldElse o || (byTag.any fun t => t != h.tag) then none
    else some (s.setHdr slot { h with tag := 0 }, s.slotWrs o slot cell ++ qWr o q (byTag.isSome || h.tag != 0))

/-- Does an operation that is kept from acting reserve the slot for its stop (R287)? -/
def GirthOp.reserves (o : GirthOp) : Bool := match o.act with
  | .update _ _ _ _ _ _ _ | .cinch _ | .mount _ _ _ | .dismount none _ _ => true
  | _ => false

/-- An operation has acted: its results are on their way, and its place at the stop is free. -/
def State.girthActed (s : State) (o : GirthOp) (ws : List RegWr) : State :=
  let t := { s with gi := { s.gi with ops := s.gi.ops.filter fun x => x.pend != o.pend } }
  ((t.mapPend o.pend fun p => { p with outs := ws, parts := 0 }).backGirth o.stop).recheck o.blk

/-- Has the crew of an operation an earlier one on the slot that has not acted? A crew's operations on one slot act in issue order (R102,
R234); one whose slot is not fixed at issue is on no slot before it acts. -/
def State.girthBehind (s : State) (o : GirthOp) (slot : Nat) : Bool :=
  s.gi.ops.any fun x => x.blk == o.blk && x.crew == o.crew && x.pend < o.pend && x.slot == slot && match x.act with
    | .mount _ _ _ | .dismount (some _) _ _ => false
    | _ => true

/-! ## The ends of holds and reservations -/

/-- A hold ends at its ending passage: the holder's GCLOSE that is ready by then writes the slot; else the hold lapses (R286). -/
def State.endHold (s : State) (slot : Nat) : State :=
  let h := s.slotHdr slot
  match h.hold with
  | none => s
  | some x =>
    let t := s.setHdr slot { h with hold := none }
    match s.gi.ops.find? fun o => o.slot == slot && h.heldMine o && decide (o.ready ≤ x.2.2.2) && (match o.act with
        | .close _ _ => true
        | _ => false) with
    | some o => match o.act with
      | .close data q => (t.setWords slot 0 data).girthActed o (qWr o q true)
      | _ => t
    | none => t

/-- End what has ended before a cycle. -/
def State.settleSlot (s : State) (slot c : Nat) : State :=
  let t := if (s.slotHdr slot).hold.any fun x => x.2.2.2 < c then s.endHold slot else s
  if (t.slotHdr slot).rsv.any fun r => r.2 < c then t.setHdr slot { t.slotHdr slot with rsv := none } else t

/-- Operations of a stop that are ready for a slot in a cycle, in the order of R285. -/
def State.girthReady (s : State) (stop slot c : Nat) : List GirthOp :=
  sortBy (fun (o : GirthOp) => (o.ready * 4 + o.qtr) * 2 ^ 64 + o.pend)
    (s.gi.ops.filter fun o => o.stop == stop && o.wants slot && decide (o.ready ≤ c) && !(o.byTag && decide (o.ready + 392 ≤ c)))

/-- The stop acts on the first operation that may, unless the passage's one action is used up; every operation that is kept from acting by the
slot's header sets its reservation, which uses no action (R285, R287). -/
def State.girthServe (s : State) (stop slot c : Nat) (used : Bool) : List GirthOp → State
  | [] => s
  | o :: rest =>
    if s.girthBehind o slot then s.girthServe stop slot c used rest
    else match s.girthTry o slot c with
      | some r => if used then s.girthServe stop slot c true rest else (r.1.girthActed o r.2).girthServe stop slot c true rest
      | none =>
        let h := s.slotHdr slot
        let t := if o.reserves && h.rsv.isNone then s.setHdr slot { h with rsv := some (stop, c + 392) } else s
        t.girthServe stop slot c used rest

/-- GDISMTs by tag of a stop that have looked for one revolution act without a slot (R234). -/
def State.girthMissed (s : State) (stop c : Nat) : State :=
  (s.gi.ops.filter fun o => o.stop == stop && o.byTag && decide (o.ready + 392 ≤ c)).foldl (fun t o =>
    match o.act with
    | .dismount _ cell q => t.girthActed o (o.lanes.map (fun m => RegWr.cell m.crew cell m.lane 0) ++ qWr o q false)
    | _ => t) s

/-- A passage of a slot at a stop in a cycle (R285 to R287): an ending hold uses it; else one operation acts; a reservation that ends here
lapses. -/
def State.passage (s : State) (stop slot c : Nat) : State :=
  let s := s.settleSlot slot c
  let ends := (s.slotHdr slot).hold.any fun x => x.1 == stop && x.2.2.2 == c
  let s := if ends then s.endHold slot else s
  let t := s.girthServe stop slot c ends (s.girthReady stop slot c)
  let h := t.slotHdr slot
  if h.rsv.any fun r => r.1 == stop && r.2 == c then t.setHdr slot { h with rsv := none } else t

/-- The next passage of a slot for a pending operation (R285). -/
def GirthOp.nextPass (o : GirthOp) (slot : Nat) : Nat := passageFrom o.stop slot (if o.passed.contains slot then o.from' + 1 else o.from')

/-- The passage of a slot at a stop that comes next for its pending operations; with none, the next from now on. -/
def State.nextPass (s : State) (stop slot : Nat) : Nat :=
  let rs := (s.gi.ops.filter fun o => o.stop == stop && o.wants slot).map fun o => o.nextPass slot
  rs.foldl min (rs.headD (passageFrom stop slot s.now))

/-- A slot has passed a stop in a cycle: the operations still pending there look for later passages. -/
def State.notePass (s : State) (stop slot c : Nat) : State :=
  { s with gi := { s.gi with ops := s.gi.ops.map fun (o : GirthOp) =>
      if o.stop == stop && o.wants slot && decide (o.ready ≤ c) then { o with from' := c, passed := if o.from' = c then slot :: o.passed else [slot] } else o } }

/-- Does a stop act on nothing: that of a core that is retired without a spare (R281)? -/
def State.passThrough (s : State) (stop : Nat) : Bool := s.disp.retired.contains stop || decide (384 ≤ stop)

/-- The passages that come: of slots at stops with operations for them, and those that end holds and reservations; stop, slot and cycle. -/
def State.comingPassages (s : State) : List (Nat × Nat × Nat) :=
  let slots := fun (o : GirthOp) => match o.act with
    | .mount _ _ _ => List.range' o.base o.len
    | .dismount (some _) _ _ => List.range' o.base o.len
    | _ => [o.slot]
  ((s.gi.ops.filter fun o => !s.passThrough o.stop).flatMap fun o => (slots o).map fun n => (o.stop, n, o.nextPass n)) ++
  (s.gi.hdr.filterMap fun e => e.2.hold.map fun x => (x.1, e.1, x.2.2.2)) ++ s.gi.hdr.filterMap fun e => e.2.rsv.map fun r => (r.1, e.1, r.2)

/-- Is a passage in order: no earlier one of the slot, or of another slot at the stop, is still to come, and none of an earlier revolution (R282, R285,
R288)? -/
def State.inOrder (s : State) (stop slot c : Nat) : Bool :=
  s.comingPassages.all fun e => ((e.1 != stop && e.2.1 != slot) || decide (c ≤ e.2.2)) && decide (c / 392 ≤ e.2.2 / 392)

/-- The passage of a slot at a stop in a cycle comes about, in its order. -/
def State.passNow (s : State) (stop slot c : Nat) : State :=
  if s.inOrder stop slot c then (((s.girthMissed stop c).reach c).passage stop slot c).notePass stop slot c else s

/-- GIRTH_PASSAGE (R285, R288): a slot passes a stop. -/
def execGirthPassage (stop slot : Nat) (s : State) : Host.Outcome State Fault Refusal :=
  if s.passThrough stop || 1568 ≤ slot then .next s else .next (s.passNow stop slot (s.nextPass stop slot))

/-- HOLD_END (R286): the passage that ends a hold, one revolution after the one it began at. -/
def execHoldEnd (slot : Nat) (s : State) : Host.Outcome State Fault Refusal :=
  match (s.slotHdr slot).hold with
  | none => .next s
  | some x => .next (s.passNow x.1 slot x.2.2.2)

/-- RESERVATION_EXPIRE (R287): a reservation ends at the reserving stop's next passage, which may use it. -/
def execReservationExpire (slot : Nat) (s : State) : Host.Outcome State Fault Refusal :=
  match (s.slotHdr slot).rsv with
  | none => .next s
  | some r => .next (s.passNow r.1 slot r.2)

/-! ## The header (R283) -/

/-- The 64-bit header of a slot (Table 19.2). -/
def SlotHdr.word (h : SlotHdr) : DWord :=
  let seg : BitVec 12 := BitVec.ofNat 12 h.seg
  let hstop : BitVec 9 := BitVec.ofNat 9 ((h.hold.map fun x => x.1).getD 0)
  let rstop : BitVec 9 := BitVec.ofNat 9 ((h.rsv.map fun r => r.1).getD 0)
  seg ++ BitVec.ofBool h.hold.isSome ++ hstop ++ BitVec.ofBool h.rsv.isSome ++ rstop ++ h.tag

end Sys2Proof.Machine
end

