-- ==== Sys2Proof/Machine/Guard.lean ====
section
/-!
DEFINITION. Guarded pairs as events: comparison, checkpoint and rollback (spec/25 R342 to R345; spec/07 R103; spec/19 R290).
-/
namespace Sys2Proof.Machine

/-- A block's signature: the XOR of its crews' (R342). -/
def State.blockSig (s : State) (b : Nat) : DWord := (feedCrew :: s.crewList b).foldl (fun x c => x ^^^ s.signature b c) 0

/-- The crew that has arrived at a comparison point for a block. -/
def Pair.arrivalOf (p : Pair) (b : Nat) : Option Nat := (p.arrived.find? fun e => e.1 == b).map fun e => e.2

/-- Is an operation that of an engine, or of a twin that awaits an engine's end? -/
def State.ofEngine (s : State) (p : Pend) : Bool := s.sp.engines.any fun e => e.pend == p.id || p.mirror == some e.pend

/-- Parts of a pending operation whose stores stand in a hold buffer (R344). -/
def State.heldParts (s : State) (id : Nat) : Nat := ((s.grd.hold.map fun h => (h.pends.filter fun p => p == id).length)).sum

/-- Has every operation of a block ended but those of engines and those whose stores are held? -/
def State.quiet (s : State) (b : Nat) : Bool :=
  !(s.pipe.pends.any fun p => p.blk == b && !s.ofEngine p && !(p.plan == .refill && p.parts == 0) && (p.seta || s.heldParts p.id < p.parts || p.parts == 0))

/-- Change the pair after its blocks' held stores have gone. -/
def State.dropHeld (s : State) (b : Nat) : State := { s with grd := { s.grd with hold := s.grd.hold.filter fun h => h.blk != b } }

/-- A held store of the primary is released: it leaves for its home point behind those that it comes after (R103, R343). All of a match enter the quarter's
store buffer at once, also past its 32 entries, by the model's choice (log 13): R87 and R343 do not say how they pass it. -/
def State.releaseStore (s : State) (h : HoldStore) : State :=
  let core := (s.block h.blk).core
  let e : SbEntry := { id := h.id, core := core, qtr := crewQtr h.crew, blk := h.blk, crew := h.crew, pa := h.pa, bytes := h.bytes, home := h.home,
                       pol := h.pol, epoch := h.epoch, pends := h.pends, ctx := h.ctx, ccls := h.ccls, ilv := h.ilv, after := h.after, left := false }
  { s with pipe := { s.pipe with sbuf := s.pipe.sbuf ++ [e] } }

/-- A held store of the twin is discarded (R343): its operation has nothing more to wait for there, and the twin's own line copies hold the
bytes that the primary's store writes. -/
def State.discardStore (s : State) (h : HoldStore) : State :=
  (h.pends.foldl (fun t p => t.partDone p) s).l1Update (s.block h.blk).core (lineOf h.pa) h.bytes

/-- The signatures match: the primary's held stores are released, the twin's discarded (R343). -/
def State.matched (s : State) (p : Pair) : State :=
  let t := (s.grd.hold.filter fun h => h.blk == p.primary).foldl State.releaseStore s
  let t := (s.grd.hold.filter fun h => h.blk == p.twin).foldl State.discardStore t
  ((t.dropHeld p.primary).dropHeld p.twin).mapPair p.primary fun q => { q with checking := true }

/-- The held stores have been performed: both blocks go on with the commit action of their comparison point; at a store that found its hold
buffer full there is none, and it executes behind the checkpoint (R344). -/
def State.commitPair (s : State) (p : Pair) : State :=
  let t := s.mapPair p.primary fun q =>
    { q with go := q.arrived.filter fun e => e.2 < 4096, arrived := [], holdPts := q.holdPts.filter fun e => !(q.arrived.contains (e.1, 4096 + e.2)) }
  ((t.recheck p.primary).recheck p.twin).noteOver p.primary |>.noteOver p.twin

/-- Do the blocks of a pair stand on their cores, neither being swapped, stopped nor complete? -/
def State.pairRuns (s : State) (p : Pair) : Bool := [p.primary, p.twin].all fun b => (s.block b).st == .running || (s.block b).st == .placed

/-- Engines of the pair still at work, which complete first (R345): moves, an ASSAY, and panels whose window entry is reserved. A panel for which its
window has no entry cannot complete, since the stopped blocks pop nothing (log 16). -/
def State.pairEngines (s : State) (p : Pair) : Bool := s.sp.engines.any fun e =>
  (e.blk == p.primary || e.blk == p.twin) && (!e.moves.isEmpty || e.assay.isSome || e.panels.any fun x => x.entry.isSome)

/-- A mismatch, or an ECCUNC (R345): at the third rollback to one checkpoint the pair is killed; else both blocks stop, the engines
complete, the held stores go, and the restoration begins. -/
def State.rollBack (s : State) (p : Pair) : State :=
  let t := s.mapPair p.primary fun q => { q with bad := true }
  if 2 ≤ p.rollbacks then
    (t.mapPair p.primary fun q => { q with bad := false, arrived := [], go := [], checking := false, restoring := false }).killBlock p.primary
  else if !s.pairRuns p || s.pairEngines p then t
  else
    let t := (((t.parkCur p.primary).parkCur p.twin).dropHeld p.primary).dropHeld p.twin
    t.mapPair p.primary fun q => { q with bad := false, restoring := true }

/-- Slot that the GCLOSE of a bundle would close. -/
def State.closes (s : State) (u : Bundle) : Option Nat := match s.peekInstr u.blk u.feed u.pc u.clause with
  | some (.gclose a _ _ _) => some (s.regs.kreg u.blk u.crew a.num).toNat
  | _ => none

/-- The comparison at a girth instruction fails: the hold that a GCLOSE there would have closed will lapse (R290). -/
def State.lapseClosing (s : State) (p : Pair) : State :=
  (s.everyBundle.filter fun u => u.blk == p.primary && p.arrived.contains (u.blk, u.code)).foldl (fun t u => match s.closes u with
    | some slot => if (t.slotHdr slot).heldOf u.blk u.crew then t.setHdr slot (t.slotHdr slot).lapsing else t
    | none => t) s

/-- COMPARE_SIGNATURES (R343, R345; the model's readings, logs 15 and 16): both blocks of the pair of a primary have arrived at a
comparison point. -/
def execCompareSignatures (n : Nat) (s : State) : Host.Outcome State Fault Refusal :=
  match s.grd.pairs.find? fun p => p.primary == n with
  | none => .next s
  | some p =>
    if p.restoring || (s.launchOf n).stopped then .next s
    else if p.bad && !p.checking then .next (s.rollBack p)
    else match p.arrivalOf p.primary, p.arrivalOf p.twin with
      | some c, some d =>
        if !s.quiet p.primary || !s.quiet p.twin then .next s
        else if p.checking then .next (s.commitPair p)
        else if c = d && s.blockSig p.primary = s.blockSig p.twin then .next (s.matched p)
        else .next ((s.lapseClosing p).rollBack p)
      | _, _ => .next s

/-- Is a scratchpad of the pair still being written by another block's engine, or is a crew of it halted? -/
def State.pairBusy (s : State) (p : Pair) : Bool := [p.primary, p.twin].any fun b =>
  !s.quiet b || (s.sch.faults.any fun f => f.blk == b) || s.sp.engines.any fun e => e.blk != b && e.moves.any fun m => m.writesSpad b

/-- CHECKPOINT_DONE (R342, R343): the commit action is made and its results have landed; both blocks' state is kept, and the signatures
restart. -/
def execCheckpointDone (n : Nat) (s : State) : Host.Outcome State Fault Refusal :=
  match s.grd.pairs.find? fun p => p.primary == n with
  | none => .next s
  | some p =>
    if !p.checking || !p.go.isEmpty || !p.arrived.isEmpty || s.pairBusy p then .next s
    else
      let snaps := (s.grd.snaps.filter fun x => x.blk != p.primary && x.blk != p.twin) ++ [s.snapOf p.primary, s.snapOf p.twin]
      let t := { s with grd := { s.grd with snaps := snaps, sigs := tabOff 33 p.twin (tabOff 33 p.primary s.grd.sigs) } }
      .next (t.mapPair n fun q => { q with checking := false, rollbacks := 0, acts0 := q.acts, ended0 := q.ended })

/-- Does what a restored bundle waited for lie behind it (R345: what was performed at a passed commit point is not undone)? -/
def State.waitGone (s : State) (w : Wait) : Bool := match w with
  | .monitor i => !(s.pipe.mons.any fun m => m.id == i)
  | .fencer i => !(s.sch.fencers.any fun f => f.id == i)
  | .pend i => !(s.pipe.pends.any fun p => p.id == i)
  | .lbar go => go
  | _ => false

/-- Restore a block from its checkpoint. -/
def State.restoreSnap (s : State) (x : Snapshot) : State :=
  let b := x.blk
  let t := { s with
    regs := s.regs.backBlock b x.regs
    sch := { s.sch with
      bundles := s.sch.bundles.filter fun (u : Bundle) => u.blk != b
      bins := s.sch.bins.filter fun (n : Bin) => n.blk != b
      arrs := (s.sch.arrs.filter fun (r : ArriveRec) => r.blk != b) ++ x.arrs
      faults := s.sch.faults.filter fun (f : FaultRec) => f.blk != b
      fencers := s.sch.fencers.filter fun (f : Fencer) => f.blk != b || x.bundles.any fun (u : Bundle) => u.wait == Wait.fencer f.id
      fences := s.sch.fences.filter fun (f : FenceRec) => f.blk != b }
    pipe := { s.pipe with
      pends := (s.pipe.pends.filter fun (p : Pend) => p.blk != b) ++ x.pends
      mons := s.pipe.mons.filter fun (m : Mon) => m.blk != b || x.bundles.any fun (u : Bundle) => u.wait == Wait.monitor m.id }
    mem := { s.mem with poison := mputs false (poisonOff b s.mem.poison) x.poison }
    sp := { s.sp with
      bytes := mputs none (tabOff (2 ^ 20) b s.sp.bytes) x.bytes
      absent := mputs 0 (tabOff (2 ^ 14) b s.sp.absent) x.absent
      wins := (s.sp.wins.filter fun (w : Win) => w.blk != b) ++ x.wins
      recs := mputs 0 (tabOff 64 b s.sp.recs) x.recs
      tds := (s.sp.tds.filter fun (d : TDesc) => d.blk != b) ++ x.tds
      engines := (s.sp.engines.filter fun (e : Engine) => e.blk != b) ++ x.engines }
    disp := { s.disp with wq := s.disp.wq.filter fun (q : WqOp) => q.blk != b }
    gi := { s.gi with ops := s.gi.ops.filter fun (o : GirthOp) => o.blk != b }
    kv := { s.kv with ops := s.kv.ops.filter fun (o : KvRec) => o.blk != b }
    grd := { s.grd with sigs := tabOff 33 b s.grd.sigs } }
  let t := x.bins.foldl (fun t n => t.restoreBin (t.block b).core n) t
  let back := x.bundles.map fun (u : Bundle) => if t.waitGone u.wait then u.step u.adv t.now else { u with since := t.now }
  ((t.addBundles back).setBlock { t.block b with feedDone := !(x.bundles.any fun u => u.feed) }).watchSync b

/-- ROLLBACK_RESTORE_DONE (R345): both blocks are restored from the last checkpoint and run on. -/
def execRollbackRestoreDone (n : Nat) (s : State) : Host.Outcome State Fault Refusal :=
  match s.grd.pairs.find? fun p => p.primary == n with
  | none => .next s
  | some p =>
    if !p.restoring || !s.pairRuns p then .next s
    else
      let t := (s.grd.snaps.filter fun x => x.blk == p.primary || x.blk == p.twin).foldl State.restoreSnap s
      .next (t.mapPair n fun q =>
        { q with restoring := false, checking := false, arrived := [], go := [], acts := q.acts0, ended := q.ended0, holdPts := []
                 rollbacks := q.rollbacks + 1 })

end Sys2Proof.Machine
end

