-- ==== Sys2Proof/Machine/Ras.lean ====
section
/-!
DEFINITION. Error modes, the sweeper, evacuation, row repair and injection registers, as events (spec/25 R332 to R334, R339, R346, R347;
spec/26 R348).
-/
namespace Sys2Proof.Machine

/-- Is the management space open (Table 29.3 step 4)? -/
def State.open' (s : State) : Bool := 5 ≤ s.host.boot

/-- A re-encoding pass starts, or starts again, toward a mode (R333). -/
def SliceEcc.restart (e : SliceEcc) (mode : Nat) : SliceEcc :=
  { e with mode := mode, busy := true, pos := 0, passes := if e.busy then (e.pos, e.mode) :: e.passes else [(arrayLines, e.mode)] }

/-- SLCECC_WRITE (R332, R333): a write of MODE 0 or 1 starts a re-encoding pass; 2 and 3 are ignored. -/
def execSlceccWrite (sl : Nat) (v : Word) (s : State) : Host.Outcome State Fault Refusal :=
  let m := bits v.toNat 0 2
  if !s.open' || 128 ≤ sl || 2 ≤ m then .next s else .next (s.setEcc sl ((s.ecc sl).restart m))

/-- REENCODE_LINE (R333): the pass rewrites its next line; with the last BUSY is 0. -/
def execReencodeLine (sl : Nat) (s : State) : Host.Outcome State Fault Refusal :=
  let e := s.ecc sl
  if !e.busy then .next s
  else
    let t := { s with sl := { s.sl with tags := mput 0 s.sl.tags (sl * arrayLines + e.pos) 0 } }
    .next (t.setEcc sl (if e.pos + 1 < arrayLines then { e with pos := e.pos + 1 } else { e with busy := false, pos := 0, passes := [] }))

/-- Will a read of an array line correct an error on it? -/
def State.corrects (s : State) (slice a : Nat) : Bool :=
  let mode := s.lineMode slice a
  let is := (s.ecc slice).injs.filter fun i => i.arm && !i.bus && i.line == a
  (List.range (if mode = 0 then 8 else 2)).any fun w => let n := (flippedBits is mode w).length; decide (0 < n) && decide (n ≤ mode + 1)

/-- The sweeper reads and decodes its next line, and rewrites one on which it corrects an error (R334). -/
def State.sweep (s : State) (sl : Nat) : State :=
  let a := (s.ecc sl).sweep
  let t := s.decodeLine sl a 0 true
  let t := if s.corrects sl a then t.tagLine sl a else t
  t.setEcc sl { t.ecc sl with sweep := (a + 1) % arrayLines, swept := s.now / 2048 + 1 }

/-- SWEEP_LINE (R334): in an array cycle that no request wants, one line in each window of 2,048 cycles. -/
def execSweepLine (sl : Nat) (s : State) : Host.Outcome State Fault Refusal :=
  if 128 ≤ sl || (s.ecc sl).swept = s.now / 2048 + 1 then .next s else .next (s.sweep sl)

/-- SWEEP_FORCE (R334): at the end of a window without a sweep the sweeper takes one array cycle. -/
def execSweepForce (sl : Nat) (s : State) : Host.Outcome State Fault Refusal :=
  if 128 ≤ sl || (s.ecc sl).swept = s.now / 2048 + 1 then .next s else .next ((s.reach (s.now / 2048 * 2048 + 2047)).sweep sl)

/-- The evacuation of a slice begins, or waits behind that of another slice of its die; with no spare slice left the slice is DEGRADED. -/
def State.evacuate (s : State) (sl : Nat) : State :=
  let die := sliceDie sl
  if s.sl.evacs.any fun v => v.slice == sl then s
  else if s.spareSlice die then
    { s with sl := { s.sl with sparesUsed := mput 0 s.sl.sparesUsed die (mget 0 s.sl.sparesUsed die + 1)
                               evacs := s.sl.evacs ++ [{ slice := sl, pos := 0, total := arrayLines }] } }
  else if (s.ecc sl).degraded then s
  else (s.setEcc sl { s.ecc sl with degraded := true }).msi 65

/-- SLICE_EVACUATE (R339, R347): a spare physical slice of the die is brought up with the slice's map, masks, mode and lane swaps. -/
def execSliceEvacuate (sl : Nat) (s : State) : Host.Outcome State Fault Refusal := if 128 ≤ sl then .next s else .next (s.evacuate sl)

/-- EVAC_LINE_MOVE (R347): the next line is read and moves to the spare slice, with its contract state, tag and poison; after the last the old slice is
retired and the repair has ended. -/
def execEvacLineMove (sl : Nat) (s : State) : Host.Outcome State Fault Refusal :=
  match s.sl.evacs.find? fun v => sliceDie v.slice == sliceDie sl with
  | none => .next s
  | some v =>
    let t := s.arrayRead sl v.pos 0
    if v.slice ≠ sl then .next s
    else if v.pos + 1 < v.total then
      .next { t with sl := { t.sl with evacs := t.sl.evacs.map fun (x : Evac) => if x.slice == sl then { x with pos := x.pos + 1 } else x } }
    else .next (State.msi { t with sl := { t.sl with evacs := t.sl.evacs.filter fun (x : Evac) => x.slice != sl, replaced := t.sl.replaced ++ [sl] } } 65)

/-- HBM_ROW_REPAIR (R346, R367): a row that is due is remapped to a spare row where one is left; where none is, the driver is notified that the row's
page is to be retired. Either way vector 65 tells it. -/
def execHbmRowRepair (row : Nat) (s : State) : Host.Outcome State Fault Refusal :=
  if !s.sl.rowDue.contains row then .next s
  else
    let n := mget 0 s.sl.rows row
    let rows := if Config.rowSpare row n then mput 0 s.sl.rows row (n + 1) else s.sl.rows
    .next (State.msi { s with sl := { s.sl with rows := rows, rowDue := s.sl.rowDue.erase row, rowErrs := s.sl.rowErrs.filter fun e => e.1 != row } } 65)

/-- What an injection register holds after a write (Table 26.1): an ATT of 0 or 5 to 7 leaves the field, reserved bits are not stored. -/
def injWrite (old v : DWord) : DWord :=
  let att := bits v.toNat 59 3
  let keep : DWord := 7#64 <<< 59
  let v := v &&& ~~~0xFFFFF#64
  if att = 0 || 5 ≤ att then (v &&& ~~~keep) ||| (old &&& keep) else v

/-- SLCINJ_WRITE (R348): the driver writes an injection register. -/
def execSlcinjWrite (sl : Nat) (which : Bool) (v : DWord) (s : State) : Host.Outcome State Fault Refusal :=
  let e := s.ecc sl
  if !s.open' || 128 ≤ sl then .next s
  else .next (s.setEcc sl (if which then { e with inj1 := injWrite e.inj1 v } else { e with inj0 := injWrite e.inj0 v }))

end Sys2Proof.Machine
end

