-- ==== Sys2Proof/Machine/Power.lean ====
section
/-!
DEFINITION. Yoke, byte budgets and energy quotas as events (spec/27 R352 to R361).
-/
namespace Sys2Proof.Machine

/-- First cycle from now on that is a multiple of n. -/
def State.nextMultiple (s : State) (n : Nat) : Nat := (s.now + n - 1) / n * n

/-! ## The yoke (R353, R356) -/

/-- Is a cluster drained, or without an enabled core? -/
def State.clusterOut (s : State) (cl : Nat) : Bool := s.disp.drained.contains cl || (coresOf cl).all s.disp.retired.contains

/-- BLEV and GLEV of the next window (Table 27.2). -/
def Yoke.levels (y : Yoke) (iu il : Nat) : Nat × Nat :=
  let d := max iu il - min iu il
  let x := max iu il
  if 25 * d ≤ 2 * x then (y.blev - 1, y.glev - 1)
  else if 25 * d ≤ 4 * x then (min (y.blev + 1) 4, y.glev - 1)
  else (4, min (y.glev + 1) 4)

/-- The yoke of a pair closes its window k with the currents measured in it (R352, R353, R356). A pair with one cluster left names it and is not gated. -/
def State.closeYoke (s : State) (pair k : Nat) (iu il : BitVec 12) : State :=
  let y := s.yoke pair
  let upper := s.clusterOut (2 * pair)
  let lower := s.clusterOut (2 * pair + 1)
  let lev := y.levels iu.toNat il.toNat
  let pref := if upper && !lower then 1 else if lower && !upper then 0 else if il.toNat < iu.toNat then 1 else 0
  let past := ((k * 1024, y.pref, y.glev) :: y.past).take 3
  let z : Yoke := { pref := pref, glev := if upper != lower then 0 else lev.2, blev := lev.1, iu := iu, il := il, win := k, past := past }
  { s with pow := { s.pow with yoke := mput .init s.pow.yoke pair z } }

/-- YOKE_WINDOW_END (R352, R353, R356): the currents of the window (log 7) choose band, PREF, ballast and gating of the next. It closes the oldest of
the last eight ended windows that the pair has not closed, or, where it has closed them all, the next to end. -/
def execYokeWindowEnd (pair : Nat) (iu il : BitVec 12) (s : State) : Host.Outcome State Fault Refusal :=
  if 24 ≤ pair then .next s
  else
    let y := s.yoke pair
    let w := s.now / 1024
    .next ((if y.win < w then s else s.reach ((w + 1) * 1024)).closeYoke pair (max (w - 7) (y.win + 1)) iu il)

/-- The windows of every pair that have ended are closed, the last eight of them, with free currents (log 7). -/
def State.closeYokes (s : State) : State :=
  let w := s.now / 1024
  (List.range 8).foldl (fun t i => (List.range 24).foldl (fun t pair =>
    if decide (i + w < 8 + (t.yoke pair).win) || w = 0 then t
    else let v := t.freshValue; t.drawn.closeYoke pair (i + w - 7) (v.truncate 12) ((v >>> 12).truncate 12)) t) s

/-! ## Byte budgets (R357, R358) -/

/-- Replace a request. -/
def State.putReq (s : State) (r : Req) : State :=
  { s with pipe := { s.pipe with reqs := s.pipe.reqs.map fun x => if x.id == r.id then r else x } }

/-- Charge a request at its cluster port: it passes, or waits for the next interval. -/
def State.chargeReq (s : State) (r : Req) : State :=
  let cl := coreCluster r.core
  let t := s.interval cl
  match payFor (t.bud cl) [r.kind.charge] with
  | (b, []) => (t.setBud cl b).putReq { r with charged := true, heldTo := 0 }
  | (b, cs) => (t.portWait cl b ⟨.req, r.id, cs, t.now⟩).putReq { r with heldTo := t.nextInterval }

/-- BUDGET_INTERVAL_START (R357, R358): the 2,048-cycle interval that has begun starts at the cluster, or, where it has started, the next to begin
does: REM is the budget, and the waiting requests are charged in the order in which they reached the port. -/
def execBudgetIntervalStart (cl : Nat) (s : State) : Host.Outcome State Fault Refusal :=
  if 48 ≤ cl then .next s
  else .next (State.interval (if (s.bud cl).ivl < s.now / 2048 then s else s.reach s.nextInterval) cl)

/-- CLUSTER_PORT_CHARGE (R358): a request reaches its cluster port; an earlier one of its core for the line goes first, and one that waits there
leaves at the interval start. -/
def execClusterPortCharge (n : Nat) (s : State) : Host.Outcome State Fault Refusal :=
  match s.pipe.reqs.find? fun r => r.id == n with
  | none => .next s
  | some r =>
    let earlier := s.pipe.reqs.any fun x => x.core == r.core && lineOf x.pa == lineOf r.pa && decide (x.id < r.id) && !x.charged
    let waits := (s.bud (coreCluster r.core)).port.any fun w => w.who == .req && w.id == n
    if r.charged || earlier then .next s else if waits then .next (s.interval (coreCluster r.core)) else .next (s.chargeReq r)

/-! ## Energy quotas (R359 to R361) -/

/-- QUOTA of a context. -/
def CtxPage.quota (p : CtxPage) : Nat := bits p.eqcfg.toNat 0 32
/-- Cycles of a refill period. -/
def CtxPage.period (p : CtxPage) : Nat := bits p.eqcfg.toNat 54 10 * 1650000
/-- The page with another REM, and n more quota pre-emptions. -/
def CtxPage.withRem (p : CtxPage) (rem n : Nat) : CtxPage := { p with eqrem := BitVec.ofNat 64 ((bits p.eqrem.toNat 32 32 + n) % 2 ^ 32 * 2 ^ 32 + rem % 2 ^ 32) }

/-- Every resident block of a context whose quota is spent is pre-empted, one that is being restored once it is back (R361). -/
def State.spendQuota (s : State) (ctx : Nat) : State :=
  let bs := (s.disp.blocks.filter fun x => (s.launch x.launch).ctx == ctx && !x.quotaWait && (x.st == .running || x.st == .placed || x.st == .restoring)).map fun x => x.id
  let t := bs.foldl (fun t b => (t.setBlock { t.block b with quotaWait := true, why := 3, spentAt := s.now / 1024 }).stopHalves b 3) s
  let p := t.ctx ctx
  t.setCtx ctx (p.withRem 0 bs.length)

/-- Does a block drain, save or stand aside for its energy quota? -/
def Block.leaving (x : Block) : Bool := x.why == 3 && match x.st with
  | .draining | .saving | .swapped => true
  | .placed | .running | .restoring | .stopping | .complete => false

/-- May the energy of a block be charged at the end of window w: it holds a core, or has left it in that window; and what it spends in a drain or a
save for its quota, in the windows after the one that spent it, is charged to no context (R359, R361)? -/
def Block.charges (x : Block) (w : Nat) : Bool :=
  (match x.st with
    | .complete | .swapped => decide ((w - 1) * 1024 ≤ x.leftAt)
    | _ => true) && !(x.leaving && decide (x.spentAt < w))

/-- The energy of a block's windows up to window w is charged to its context and to its meter (R359 to R361). -/
def State.chargeEnergy (s : State) (blk w amount : Nat) : State :=
  let t := s.setBlock { s.block blk with charged := w }
  let l := t.launchOf blk
  let key := 256 * l.ctx + l.ectx
  let t := { t with pow := { t.pow with meters := mput 0 t.pow.meters key (mget 0 t.pow.meters key + amount) } }
  let p := t.ctx l.ctx
  let rem := bits p.eqrem.toNat 0 32 - amount
  if p.quota = 0 then t else if rem = 0 then t.spendQuota l.ctx else t.setCtx l.ctx (p.withRem rem 0)

/-- ENERGY_CHARGE (R359 to R361): at a window's end the energy of a block (log 7) is charged: for the window that has ended last, or, where that one is
charged, for the next to end. -/
def execEnergyCharge (blk amount : Nat) (s : State) : Host.Outcome State Fault Refusal :=
  let x := s.block blk
  let w := if x.charged < s.now / 1024 then s.now / 1024 else s.now / 1024 + 1
  if !x.charges w then .next s
  else .next ((if x.charged < s.now / 1024 then s else s.reach (w * 1024)).chargeEnergy blk w amount)

/-- The energy of every block that a window's end finds uncharged is charged, a free amount (log 7); one charge stands for those of all windows since. -/
def State.chargeBlocks (s : State) : State :=
  let w := s.now / 1024
  (s.disp.blocks.filter fun x => decide (x.charged < w) && x.charges w).foldl (fun t x =>
    let v := t.freshValue
    t.drawn.chargeEnergy x.id w (v.truncate 32).toNat) s

/-- QUOTA_REFILL (R360, R361): at the end of a period REM is QUOTA, and the pre-empted blocks become placeable; those that are still being saved do
so once they are out. A block that has fitted all along has not waited for want of a place (R308). -/
def execQuotaRefill (ctx : Nat) (s : State) : Host.Outcome State Fault Refusal :=
  let p := s.ctx ctx
  if p.eqnext = 0 then .next s
  else
    let t := s.reach p.eqnext
    let t := t.setCtx ctx { p.withRem p.quota 0 with eqnext := p.eqnext + p.period }
    let fits := t.disp.launches.filter fun l => l.ctx == ctx && !l.blocking && (t.fitOf l).isSome
    let t := fits.foldl (fun t l => t.setLaunch { l with waitFrom := t.now }) t
    let mine := (t.disp.blocks.filter fun x => x.quotaWait && (t.launch x.launch).ctx == ctx)
    .next (mine.foldl (fun t x => ((t.setBlock { x with quotaWait := false, placeable := true }).watchSync x.id).due
      (if x.inPlace then [.swapRestore x.id x.core] else [])) t)

/-- EQCFG_WRITE (R360, Table 27.4): REM is QUOTA and the period starts again; a PERIOD of 0 or above 1,000 leaves the register. -/
def execEqcfgWrite (ctx : Nat) (v : DWord) (s : State) : Host.Outcome State Fault Refusal :=
  let per := bits v.toNat 54 10
  if !s.open' || 128 ≤ ctx || per = 0 || 1000 < per then .next s
  else
    let p := { s.ctx ctx with eqcfg := BitVec.ofNat 64 (per * 2 ^ 54 + bits v.toNat 0 32) }
    .next (s.setCtx ctx { p.withRem p.quota 0 with eqnext := s.now + p.period })

end Sys2Proof.Machine
end

