-- ==== Sys2Proof/Machine/Sign.lean ====
section
/-!
DEFINITION. Whether a firmware image verifies (spec/29 R369): SHA-384, and ECDSA over brainpoolP384r1. The manual names the two algorithms and the curve; their
constants and steps are those of the standards it names and of FIPS 180-4, and the layout of key and signature is the model's (log 8).
-/
namespace Sys2Proof.Machine

/-! ## SHA-384 -/

/-- The round constants of SHA-384 (FIPS 180-4). -/
def shaRound : List Nat :=
  [0x428a2f98d728ae22, 0x7137449123ef65cd, 0xb5c0fbcfec4d3b2f, 0xe9b5dba58189dbbc, 0x3956c25bf348b538] ++
  [0x59f111f1b605d019, 0x923f82a4af194f9b, 0xab1c5ed5da6d8118, 0xd807aa98a3030242, 0x12835b0145706fbe] ++
  [0x243185be4ee4b28c, 0x550c7dc3d5ffb4e2, 0x72be5d74f27b896f, 0x80deb1fe3b1696b1, 0x9bdc06a725c71235] ++
  [0xc19bf174cf692694, 0xe49b69c19ef14ad2, 0xefbe4786384f25e3, 0x0fc19dc68b8cd5b5, 0x240ca1cc77ac9c65] ++
  [0x2de92c6f592b0275, 0x4a7484aa6ea6e483, 0x5cb0a9dcbd41fbd4, 0x76f988da831153b5, 0x983e5152ee66dfab] ++
  [0xa831c66d2db43210, 0xb00327c898fb213f, 0xbf597fc7beef0ee4, 0xc6e00bf33da88fc2, 0xd5a79147930aa725] ++
  [0x06ca6351e003826f, 0x142929670a0e6e70, 0x27b70a8546d22ffc, 0x2e1b21385c26c926, 0x4d2c6dfc5ac42aed] ++
  [0x53380d139d95b3df, 0x650a73548baf63de, 0x766a0abb3c77b2a8, 0x81c2c92e47edaee6, 0x92722c851482353b] ++
  [0xa2bfe8a14cf10364, 0xa81a664bbc423001, 0xc24b8b70d0f89791, 0xc76c51a30654be30, 0xd192e819d6ef5218] ++
  [0xd69906245565a910, 0xf40e35855771202a, 0x106aa07032bbd1b8, 0x19a4c116b8d2d0c8, 0x1e376c085141ab53] ++
  [0x2748774cdf8eeb99, 0x34b0bcb5e19b48a8, 0x391c0cb3c5c95a63, 0x4ed8aa4ae3418acb, 0x5b9cca4f7763e373] ++
  [0x682e6ff3d6b2b8a3, 0x748f82ee5defb2fc, 0x78a5636f43172f60, 0x84c87814a1f0ab72, 0x8cc702081a6439ec] ++
  [0x90befffa23631e28, 0xa4506cebde82bde9, 0xbef9a3f7b2c67915, 0xc67178f2e372532b, 0xca273eceea26619c] ++
  [0xd186b8c721c0c207, 0xeada7dd6cde0eb1e, 0xf57d4f7fee6ed178, 0x06f067aa72176fba, 0x0a637dc5a2c898a6] ++
  [0x113f9804bef90dae, 0x1b710b35131c471b, 0x28db77f523047d84, 0x32caab7b40c72493, 0x3c9ebe0a15c9bebc] ++
  [0x431d67c49c100d4c, 0x4cc5d4becb3e42b6, 0x597f299cfc657e2a, 0x5fcb6fab3ad6faec, 0x6c44198c4a475817]

/-- The initial hash value of SHA-384 (FIPS 180-4). -/
def shaInit : List Nat :=
  [0xcbbb9d5dc1059ed8, 0x629a292a367cd507, 0x9159015a3070dd17, 0x152fecd8f70e5939, 0x67332667ffc00b31] ++
  [0x8eb44a8768581511, 0xdb0c2e0d64f98fa7, 0x47b5481dbefa4fa4]

/-- Rotate a 64-bit word right. -/
def rotr64 (x n : Nat) : Nat := (x >>> n) ||| (x <<< (64 - n)) % 2 ^ 64

/-- Bytes of a number, the most significant first. -/
def bigBytes (n v : Nat) : List Byte := (natToBytes n v).reverse
/-- Number of bytes, the most significant first. -/
def bigNat (bs : List Byte) : Nat := bs.foldl (fun v b => v * 256 + b.toNat) 0

/-- A message padded to whole 128-byte pieces. -/
def shaPad (m : List Byte) : List Byte := m ++ [0x80] ++ List.replicate ((239 - m.length % 128) % 128) 0 ++ bigBytes 16 (8 * m.length)

/-- The schedule of a piece grown by one word, the newest first. -/
def shaGrow (w : List Nat) : List Nat :=
  let a := w.getD 14 0
  let b := w.getD 1 0
  ((w.getD 15 0 + w.getD 6 0 + (rotr64 a 1 ^^^ rotr64 a 8 ^^^ (a >>> 7)) + (rotr64 b 19 ^^^ rotr64 b 61 ^^^ (b >>> 6))) % 2 ^ 64) :: w

/-- The 80 words of a piece's schedule. -/
def shaWords (piece : List Byte) : List Nat :=
  let w := (List.range 16).map fun i => bigNat ((piece.drop (8 * i)).take 8)
  ((List.range 64).foldl (fun w _ => shaGrow w) w.reverse).reverse

/-- One round on the eight working words; kw is the round's constant and schedule word. -/
def shaStep (h : List Nat) (kw : Nat × Nat) : List Nat :=
  let at' := fun (i : Nat) => h.getD i 0
  let e := at' 4
  let a := at' 0
  let t := at' 7 + (rotr64 e 14 ^^^ rotr64 e 18 ^^^ rotr64 e 41) + ((e &&& at' 5) ^^^ ((2 ^ 64 - 1 - e) &&& at' 6)) + kw.1 + kw.2
  let u := (rotr64 a 28 ^^^ rotr64 a 34 ^^^ rotr64 a 39) + ((a &&& at' 1) ^^^ (a &&& at' 2) ^^^ (at' 1 &&& at' 2))
  [(t + u) % 2 ^ 64, a, at' 1, at' 2, (at' 3 + t) % 2 ^ 64, e, at' 5, at' 6]

/-- The hash value after one piece more. -/
def shaPiece (h : List Nat) (piece : List Byte) : List Nat :=
  (h.zip ((shaRound.zip (shaWords piece)).foldl shaStep h)).map fun e => (e.1 + e.2) % 2 ^ 64

/-- SHA-384 of a message, as a number. -/
def sha384 (m : List Byte) : Nat :=
  let p := shaPad m
  let h := (List.range (p.length / 128)).foldl (fun h i => shaPiece h ((p.drop (128 * i)).take 128)) shaInit
  (h.take 6).foldl (fun v x => v * 2 ^ 64 + x) 0

/-! ## ECDSA over brainpoolP384r1 (RFC 5639) -/

/-- The prime of the field. -/
def curveP : Nat := 0x8CB91E82A3386D280F5D6F7E50E641DF152F7109ED5456B412B1DA197FB71123ACD3A729901D1A71874700133107EC53
/-- Coefficient A. -/
def curveA : Nat := 0x7BC382C63D8C150C3C72080ACE05AFA0C2BEA28E4FB22787139165EFBA91F90F8AA5814A503AD4EB04A8C7DD22CE2826
/-- Coefficient B. -/
def curveB : Nat := 0x04A8C7DD22CE28268B39B55416F0447C2FB77DE107DCD2A62E880EA53EEB62D57CB4390295DBC9943AB78696FA504C11
/-- The base point. -/
def curveG : Nat × Nat :=
  (0x1D1C64F068CF45FFA2A63A81B7C13F6B8847A3E77EF14FE3DB7FCAFE0CBD10E8E826E03436D646AAEF87B2E247D4AF1E,
   0x8ABE1D7520F9C2A45CB1EB8E95CFD55262B70B29FEEC5864E19C054FF99129280E4646217791811142820341263C5315)
/-- The order of the base point. -/
def curveQ : Nat := 0x8CB91E82A3386D280F5D6F7E50E641DF152F7109ED5456B31F166E6CAC0425A7CF3AB6AF6B7FC3103B883202E9046565

/-- b to the power of the low `bits` bits of e, modulo p. -/
def powMod (p : Nat) : Nat → Nat → Nat → Nat
  | 0, _, _ => 1 % p
  | n + 1, b, e => (if e % 2 = 1 then b else 1) * powMod p n (b * b % p) (e / 2) % p
/-- Inverse modulo a prime of at most 384 bits. -/
def invMod (p a : Nat) : Nat := powMod p 384 (a % p) (p - 2)

/-- A point of the curve; none is the point at infinity. -/
abbrev Point := Option (Nat × Nat)

/-- Does a pair of numbers name a point of the curve? -/
def onCurve (x : Nat × Nat) : Bool :=
  x.1 < curveP && x.2 < curveP && x.2 * x.2 % curveP == (x.1 * x.1 * x.1 + curveA * x.1 + curveB) % curveP

/-- Sum of two points. -/
def curveAdd : Point → Point → Point
  | none, y => y
  | x, none => x
  | some x, some y =>
    if x.1 = y.1 && (x.2 + y.2) % curveP = 0 then none
    else
      let l := (if x.1 = y.1 then (3 * x.1 * x.1 + curveA) * invMod curveP (2 * x.2) else (y.2 + curveP - x.2) * invMod curveP (y.1 + curveP - x.1)) % curveP
      let z := (l * l + 2 * curveP - x.1 - y.1) % curveP
      some (z, (l * (x.1 + curveP - z) + curveP - x.2) % curveP)

/-- k times a point, for k below 2^bits. -/
def curveMul : Nat → Nat → Point → Point
  | 0, _, _ => none
  | n + 1, k, x => let y := curveMul n (k / 2) (curveAdd x x); if k % 2 = 1 then curveAdd x y else y

/-- Does a signature (r, s) of a hash verify under a public key? -/
def ecdsaOk (hash : Nat) (sig key : Nat × Nat) : Bool :=
  if sig.1 = 0 || curveQ ≤ sig.1 || sig.2 = 0 || curveQ ≤ sig.2 || !onCurve key then false
  else
    let w := invMod curveQ sig.2
    match curveAdd (curveMul 384 (hash * w % curveQ) (some curveG)) (curveMul 384 (sig.1 * w % curveQ) (some key)) with
    | none => false
    | some x => x.1 % curveQ == sig.1

/-! ## Images (R369) -/

/-- Does the signature of an image with a security version number verify: the key that comes with it has the hash fused into the package, and its signature is
one of the SHA-384 hash of header and image? -/
def signatureOk (svn image : Nat) : Bool :=
  let key := Config.imageKey svn image
  sha384 (bigBytes 48 key.1 ++ bigBytes 48 key.2) == Config.fusedKeyHash &&
    ecdsaOk (sha384 (Config.imageHeader svn image ++ Config.imageBytes image)) (Config.imageSignature svn image) key

/-- Does the boot ROM take an image with a security version number: its signature verifies, and the number is not below the fused minimum? -/
def fwVerifies (svn image : Nat) : Bool := signatureOk svn image && decide (Config.minimumSvn ≤ svn)

end Sys2Proof.Machine
end

