-- ==== Sys2Proof/Machine/System.lean ====
section
/-!
DEFINITION. Predicate logic, special registers, traps, cancellation and the work queue, opcodes 0x6B to 0x74
(spec/13_isa_control.md R195 to R206; spec/09 R116 to R119, R129).
-/
namespace Sys2Proof.Machine

/-! ## Predicates (R195, R196) -/

/-- LUT[2 × B + A] (R195). -/
def lutBit (lut : BitVec 4) (a b : Bool) : Bool := lut.getLsbD (2 * b.toNat + a.toNat)

/-- PLOP's writes. -/
def plopWr (path : BitVec 1) (r pb pa : BitVec 3) (lut : BitVec 4) (g : Guard) (s : State) : List RegWr :=
  let u := s.sch.cur
  if path = 1 then
    if s.uniformOn g then [.q u.crew r.toNat (lutBit lut (s.regs.qreg u.blk u.crew pa.toNat) (s.regs.qreg u.blk u.crew pb.toNat))] else []
  else (s.lanesOn g).map fun m =>
    .p m.crew m.lane r.toNat (lutBit lut (s.regs.preg u.blk m.crew m.lane pa.toNat) (s.regs.preg u.blk m.crew m.lane pb.toNat))

/-- PLOP (R195). -/
def execPlop (path : BitVec 1) (r pb pa : BitVec 3) (lut : BitVec 4) (g : Guard) (s : State) : Host.Outcome State Fault Refusal :=
  issue (.plop path r pb pa lut g)
    { bound := if path = 1 then .crew else .none, guard := g,
      keys := [r, pa, pb].flatMap fun n => s.predKeys (path == 1) n.toNat } s fun t =>
    (t.wrote (plopWr path r pb pa lut g t)).advance 1

/-- P2V's value of a thread: p7…p1 in [7:1] and 1 in [0]. -/
def Regs.predByte (r : Regs) (b : Nat) (m : Member) : Nat := ((List.range 8).map fun i => if r.preg b m.crew m.lane i then 2 ^ i else 0).sum
/-- q3…q0 in [3:0]. -/
def Regs.qNibble (r : Regs) (b c : Nat) : Nat := ((List.range 4).map fun i => if r.qreg b c i then 2 ^ i else 0).sum

/-- P2V's writes (R196). -/
def p2vWr (d : Field) (g : Guard) (s : State) : List RegWr :=
  let u := s.sch.cur
  if d.isK then (if s.uniformOn g then kwr u.crew d false (BitVec.ofNat 64 (s.regs.qNibble u.blk u.crew)) else [])
  else (s.lanesOn g).flatMap fun m => s.regs.vwr u.blk m d false (BitVec.ofNat 64 (s.regs.predByte u.blk m))

/-- P2V (R196). -/
def execP2v (d : Field) (g : Guard) (s : State) : Host.Outcome State Fault Refusal :=
  issue (.p2v d g)
    { bound := if d.isK then .crew else .none, guard := g,
      keys := s.fieldKeys d d.isK 1 ++ (List.range 8).flatMap fun n => if d.isK && 4 ≤ n then [] else s.predKeys d.isK n } s fun t =>
    (t.wrote (p2vWr d g t)).advance 1

/-- V2P's writes (R196). -/
def v2pWr (path : BitVec 1) (a b : Field) (g : Guard) (s : State) : List RegWr :=
  let u := s.sch.cur
  if path = 1 then
    if s.uniformOn g then
      let x := s.regs.kreg u.blk u.crew a.num
      let y := lo (s.regs.ubval u.blk u.crew .int b false)
      ((List.range 4).filter y.getLsbD).map fun i => .q u.crew i (x.getLsbD i)
    else []
  else (s.lanesOn g).flatMap fun m =>
    let x := s.regs.aval u.blk m a false
    let y := s.regs.bval u.blk m .int b false
    ((List.range 8).filter fun i => i != 0 && y.getLsbD i).map fun i => .p m.crew m.lane i (x.getLsbD i)

/-- V2P (R196). -/
def execV2p (path : BitVec 1) (a b : Field) (g : Guard) (s : State) : Host.Outcome State Fault Refusal :=
  issue (.v2p path a b g)
    { bound := if path = 1 then .crew else .none, guard := g,
      keys := s.aKeys a 1 ++ s.bKeys (path == 1) b 1 ++ (List.range 8).flatMap fun n => if path == 1 && 4 ≤ n then [] else s.predKeys (path == 1) n } s
    fun t => (t.wrote (v2pWr path a b g t)).advance 1

/-! ## Special registers (R197 to R201) -/

/-- COREID (Table 13.4): the logical core, and its physical position. -/
def State.coreId (s : State) (core : Nat) : Nat :=
  let p := mget 0 s.disp.phys core
  core + 2 ^ 9 * (if p = 0 then core % 8 else p)

/-- Package features: FEAT0 (Table 13.7). -/
def feat0Value : Nat := 0xF

/-- Value of a special register for a thread (Tables 9.13, 13.3 to 13.10). In a feed thread the registers of threads and crews read 0
(R197). -/
def State.special (s : State) (b : Nat) (feed : Bool) (m : Member) (i : Nat) : DWord :=
  let x := s.block b
  let l := s.launchOf b
  let c := s.regs.crewSt b m.crew
  let own := fun (v : Nat) => if feed then 0 else v
  let v : Nat := match i with
    | 0x00 => own m.lane
    | 0x01 => own m.crew
    | 0x02 => blockIdx l x.lin 0
    | 0x03 => blockIdx l x.lin 1
    | 0x04 => blockIdx l x.lin 2
    | 0x05 => l.nblk 0
    | 0x06 => l.nblk 1
    | 0x07 => l.nblk 2
    | 0x08 => s.coreId x.core
    | 0x09 => coreCluster x.core
    | 0x0A => coreDie x.core
    | 0x0B => s.now
    | 0x0C => own c.wb
    | 0x0D => own c.abnd
    | 0x0E => own c.cpart
    | 0x0F => own c.cfpm.toNat
    | 0x10 => own c.cfps.toNat
    | 0x11 => own c.live.toNat
    | 0x12 => l.id
    | 0x13 => (s.ctx l.ctx).pinq % 2 ^ 21
    | 0x14 => feat0Value
    | 0x18 => s.host.featacc.toNat
    | 0x19 => 6 * 2 ^ 24 + 6 * 2 ^ 16 + 5 * 2 ^ 8 + 3
    | 0x1A => l.regs / 8 * 2 ^ 24 + l.scratch / 1024 * 2 ^ 14 + l.queues / 64
    | 0x1B => l.glen * 2 ^ 16 + l.gbase
    | _ => 0
  BitVec.ofNat 64 v

/-- RDSR's writes (R197). -/
def rdsrWr (d : Field) (i : BitVec 7) (g : Guard) (s : State) : List RegWr :=
  let u := s.sch.cur
  let wide := i == 0x0B
  if d.isK then
    if s.uniformOn g then kwr u.crew d wide (s.special u.blk u.feed ((u.members.head?).getD ⟨0, feedCrew⟩) i.toNat) else []
  else (s.lanesOn g).flatMap fun m => s.regs.vwr u.blk m d wide (s.special u.blk false m i.toNat)

/-- Does a pending operation of a crew still owe FP flags (R42)? -/
def State.flagsPending (s : State) (b c : Nat) : Bool :=
  s.pipe.pends.any fun p => p.blk == b && p.crew == c && p.outs.any fun w => match w with
    | .flags _ _ => true
    | _ => false

/-- RDSR (R197): one of CFPS waits until the flags of every earlier FP instruction have landed (R42). -/
def execRdsr (d : Field) (i : BitVec 7) (g : Guard) (s : State) : Host.Outcome State Fault Refusal :=
  issue (.rdsr d i g)
    { bound := if d.isK then .crew else .none, guard := g, feed := d.isK, keys := s.fieldKeys d d.isK (regsOf (i == 0x0B)) } s fun t =>
    if i == 0x10 && t.sch.cur.crews.any fun c => t.flagsPending t.sch.cur.blk c then t.park .again 0
    else (t.wrote (rdsrWr d i g t)).advance 1

/-- A value that WRSR refuses (R119, R41). -/
def State.wrsrBad (s : State) (i : BitVec 7) (v : Word) : Bool :=
  let u := s.sch.cur
  let c := s.regs.crewSt u.blk u.crew
  if i = 0x0D then v.toNat % 8 != 0 || decide (v.toNat < c.wb + 64) || decide ((s.launchOf u.blk).regs < v.toNat)
  else if i = 0x0F then v &&& ~~~7 != 0
  else v &&& ~~~31 != 0

/-- Matrix operations of a crew that have not completed (R119). -/
def State.matrixPending (s : State) (b c : Nat) : Bool := s.pipe.pends.any fun p => p.blk == b && p.crew == c && p.matrix

/-- WRSR's effect on the crew (R198, R119): a write of ABND first promotes every tile. -/
def State.wrsr (s : State) (i : BitVec 7) (v : Word) : State :=
  let u := s.sch.cur
  if i = 0x0D then
    let t := s.promoteAll u.blk u.crew
    t.setRegs (t.regs.setCrew u.blk u.crew { t.regs.crewSt u.blk u.crew with abnd := v.toNat })
  else
    let c := s.regs.crewSt u.blk u.crew
    s.setRegs (s.regs.setCrew u.blk u.crew (if i = 0x0F then { c with cfpm := v } else { c with cfps := v }))

/-- WRSR (R198). -/
def execWrsr (a : BitVec 6) (i : BitVec 7) (g : Guard) (s : State) : Host.Outcome State Fault Refusal :=
  issue (.wrsr a i g) { bound := .crew, guard := g, keys := [.k s.sch.cur.blk s.sch.cur.crew a.toNat] } s fun t =>
    let u := t.sch.cur
    let v := t.regs.kreg u.blk u.crew a.toNat
    if !t.uniformOn g then t.advance 1
    else if t.wrsrBad i v then t.illop 1 false
    else if (if i = 0x0D then t.matrixPending u.blk u.crew else t.flagsPending u.blk u.crew) then t.park .again 0
    else (t.wrsr i v).advance 1

/-- WINB to a value (R118): a multiple of 8 with the value + 64 at most ABND, else ILLOP. -/
def State.winb (s : State) (v : Nat) : State :=
  let u := s.sch.cur
  let c := s.regs.crewSt u.blk u.crew
  if v % 8 ≠ 0 || c.abnd < v + 64 then s.illop 1 false
  else (s.setRegs (s.regs.setCrew u.blk u.crew { c with wb := v })).advance 1

/-- WINB, immediate form (R200): WB ← 8 × imm7. -/
def execWinbImm (i : BitVec 7) (g : Guard) (s : State) : Host.Outcome State Fault Refusal :=
  issue (.winbImm i g) { bound := .crew, guard := g } s fun t => if t.uniformOn g then t.winb (8 * i.toNat) else t.advance 1

/-- WINB, register form (R200). -/
def execWinbReg (a : BitVec 6) (g : Guard) (s : State) : Host.Outcome State Fault Refusal :=
  issue (.winbReg a g) { bound := .crew, guard := g, keys := [.k s.sch.cur.blk s.sch.cur.crew a.toNat] } s fun t =>
    if t.uniformOn g then t.winb (t.regs.kreg t.sch.cur.blk t.sch.cur.crew a.toNat).toNat else t.advance 1

/-- CPART (R201): later crew operations use tiles of 2^w lanes. -/
def execCpart (w : BitVec 3) (g : Guard) (s : State) : Host.Outcome State Fault Refusal :=
  issue (.cpart w g) { bound := .crew, guard := g } s fun t =>
    let u := t.sch.cur
    if t.uniformOn g then (t.setRegs (t.regs.setCrew u.blk u.crew { t.regs.crewSt u.blk u.crew with cpart := w.toNat })).advance 1
    else t.advance 1

/-! ## TRAP (R202) -/

/-- Does the code trap: software codes always, breakpoints while the context's mask enables them? -/
def State.trapEnabled (s : State) (code : Nat) : Bool := code < 112 || (s.ctx (s.ctxOf s.sch.cur.blk)).bpmask.getLsbD (code - 112)

/-- TRAP (R202): the fault TRAP where a lane's guard is true; else nothing. -/
def execTrap (c : BitVec 7) (g : Guard) (s : State) : Host.Outcome State Fault Refusal :=
  issue (.trap c g) { guard := g } s fun t =>
    let ls := t.lanesOn g
    if !ls.isEmpty && t.trapEnabled c.toNat then t.takeTrap { cls := .trap, code := c.toNat, lane := lowLane ls } else t.advance 1

/-! ## CANCEL (R203) -/

/-- Does a level of a kind and id exist in a context, not completed? -/
def State.levelLive (s : State) (ctx kind id : Nat) : Bool :=
  if kind = 0 then s.disp.launches.any fun l => l.ctx == ctx && l.id == id && l.st != .ended
  else s.disp.levels.any fun v => v.ctx == ctx && v.kind == kind && v.id == id && !v.ended
/-- Does it exist in another context? -/
def State.levelElsewhere (s : State) (ctx kind id : Nat) : Bool :=
  if kind = 0 then s.disp.launches.any fun l => l.ctx != ctx && l.id == id && l.st != .ended
  else s.disp.levels.any fun v => v.ctx != ctx && v.kind == kind && v.id == id && !v.ended

/-- CANCEL of a level (R203): PROT for a level of another context; a level that does not exist or has completed is left as it is; else
the cancel is on its way to the dispatcher. Ids are unique in a context alone (R305): where the own context has no live level of the id and another has
one, the id names that one, by the model's choice (log 34). -/
def State.cancelLevel (s : State) (kind id : Nat) : State :=
  let ctx := s.ctxOf s.sch.cur.blk
  if s.levelLive ctx kind id then
    let r : CancelRec := { ctx := ctx, kind := kind, id := id }
    { s with disp := { s.disp with cancels := s.disp.cancels ++ [r] } }.advance 1
  else if id != 0 && s.levelElsewhere ctx kind id then s.takeTrap { cls := .prot, lane := lowLane s.sch.cur.members }
  else s.advance 1

/-- CANCEL LEVEL, SELF (R203). -/
def execCancelSelf (l : BitVec 2) (g : Guard) (s : State) : Host.Outcome State Fault Refusal :=
  issueShared (.cancelSelf l g) { bound := .crew, guard := g } s fun t =>
    let id := (t.launchOf t.sch.cur.blk).levelId l.toNat
    if t.uniformOn g && id != 0 then t.cancelLevel l.toNat id else t.advance 1

/-- CANCEL LEVEL, ka (R203). -/
def execCancelId (a : BitVec 6) (l : BitVec 2) (g : Guard) (s : State) : Host.Outcome State Fault Refusal :=
  issueShared (.cancelId a l g) { bound := .crew, guard := g, keys := [.k s.sch.cur.blk s.sch.cur.crew a.toNat] } s fun t =>
    if t.uniformOn g then t.cancelLevel l.toNat (t.regs.kreg t.sch.cur.blk t.sch.cur.crew a.toNat).toNat else t.advance 1

/-! ## The work queue (R205, R206) -/

/-- Send a work-queue operation: the crew is WAITING until its result lands. -/
def State.wqSend (s : State) (push : Bool) (v : Word) (kd qd : Nat) : State :=
  let u := s.sch.cur
  let id := s.pipe.nextId
  let keys := (if push then [] else [RegKey.k u.blk u.crew kd]) ++ [.q u.blk u.crew qd]
  let t := s.addPend { Pend.blank with blk := u.blk, crew := u.crew, flag := s.seta, regs := keys, plan := .wq, pc := u.pc, parts := 1 }
  let op : WqOp := { pend := id, blk := u.blk, crew := u.crew, push := push, value := v, kd := kd, qd := qd, at' := s.now }
  { t with disp := { t.disp with wq := t.disp.wq ++ [op] } }.park (.pend id) 1

/-- WQPOP (R205, R206). -/
def execWqpop (d : BitVec 6) (q : BitVec 2) (g : Guard) (s : State) : Host.Outcome State Fault Refusal :=
  let u := s.sch.cur
  issueShared (.wqpop d q g) { bound := .crew, guard := g, keys := [.k u.blk u.crew d.toNat, .q u.blk u.crew q.toNat] } s fun t =>
    if t.uniformOn g then t.wqSend false 0 d.toNat q.toNat else t.advance 1

/-- WQPUSH (R205, R206): a release of device scope first. -/
def execWqpush (a : BitVec 6) (q : BitVec 2) (g : Guard) (s : State) : Host.Outcome State Fault Refusal :=
  let u := s.sch.cur
  issueShared (.wqpush a q g) { bound := .crew, guard := g, keys := [.k u.blk u.crew a.toNat, .q u.blk u.crew q.toNat] } s fun t =>
    if !t.uniformOn g then t.advance 1
    else if t.releaseWaits t.sch.cur.blk t.sch.cur.crew 4 then t.park .again 0
    else (t.nextEpoch t.sch.cur.blk t.sch.cur.crew).wqSend true (t.regs.kreg t.sch.cur.blk t.sch.cur.crew a.toNat) 0 q.toNat

end Sys2Proof.Machine
end

