-- ==== Sys2Proof/Machine/Host.lean ====
section
/-!
DEFINITION. The management space, the command window, repairs, the ports, firmware and package reset, as events (spec/29 R363 to R373;
spec/23 R314, R326 to R328; spec/25 R346; spec/21 R292).
-/
namespace Sys2Proof.Machine

/-! ## Registers with behaviour of their own -/

/-- FEATACC_WRITE (R368): bits that FEAT0 does not have are stored as 0; once a record has been taken, the write is
ignored. The first write ends step 5 of start-up (R371; log 34). -/
def execFeataccWrite (v : Word) (s : State) : Host.Outcome State Fault Refusal :=
  if !s.open' || s.host.featLocked then .next s
  else .next { s with host := { s.host with featacc := v &&& BitVec.ofNat 32 feat0Value, featWritten := true, boot := max s.host.boot 6 } }

/-- CREAD_WRITE (R366): the driver frees completion entries of a queue. -/
def execCreadWrite (q : Nat) (v : Word) (s : State) : Host.Outcome State Fault Refusal :=
  if !s.open' || 64 ≤ q then .next s else .next (s.setQueue q { s.queue q with cread := v.toNat })

/-- FQREAD_WRITE (R328): the driver frees fault-queue entries of a context; entries that waited are written, oldest first. -/
def execFqreadWrite (ctx : Nat) (v : Word) (s : State) : Host.Outcome State Fault Refusal :=
  if !s.open' || 128 ≤ ctx then .next s
  else
    let t := s.setCtx ctx { s.ctx ctx with fqread := v.toNat }
    .next (t.due ((t.sch.faults.filter fun f => !f.toCore && !f.written && t.ctxOf f.blk == ctx).map fun f => Instr.faultEntryWrite f.id))

/-- Key of a die's log. -/
def logKey (die : Nat) (log : LogKind) : Nat := 4 * die + match log with
  | .violation => 0
  | .array => 1
  | .bus => 2

/-- LOG_READ_INDEX_WRITE (R327, R340): the driver frees the entries of a die's log below an index. -/
def execLogReadIndexWrite (die : Nat) (log : LogKind) (v : Nat) (s : State) : Host.Outcome State Fault Refusal :=
  let key := logKey die log
  let r := mget .init s.sl.logs key
  if !s.open' || 4 ≤ die || r.written < v || v < r.read then .next s
  else .next { s with sl := { s.sl with logs := mput .init s.sl.logs key { r with read := v, entries := r.entries.filter fun e => v ≤ e.1 } } }

/-! ## Faults served (R314, Table 23.4) -/

/-- The unserved entry of a context with a SEQ: of its fault queue, or of the ring in firmware space. -/
def State.entryIn (s : State) (toCore : Bool) (ctx seq : Nat) : Option FaultRec :=
  s.sch.faults.find? fun f => f.written && !f.served && f.toCore == toCore && f.seq == seq && s.ctxOf f.blk == ctx
/-- The unserved entry of a context's fault queue with a SEQ. -/
def State.entryOf (s : State) (ctx seq : Nat) : Option FaultRec := s.entryIn false ctx seq
/-- The entry of a fault has been served, while its threads stay. -/
def State.served (s : State) (id : Nat) : State :=
  { s with sch := { s.sch with faults := s.sch.faults.map fun (f : FaultRec) => if f.id == id then { f with served := true } else f } }
/-- The threads of a fault continue (Table 23.4), a step of the crew giving way; a crew of a level that has been cancelled or killed has stopped (R204). -/
def State.continueFault (s : State) (f : FaultRec) (skip : Bool) : State :=
  if (s.launchOf f.blk).stopped then s.served f.id else ((s.leaveTrap f skip).stepOver f.blk f.crewNo).watchSync f.blk
/-- What a fault command does with an entry (Table 23.4): RESUME, SKIP, KILL, or CANCEL of a level; none for an argument that is no such
action or level. -/
def State.serveEntry (s : State) (f : FaultRec) (action level id : Nat) : Option State :=
  match action with
  | 0 => some (s.continueFault f false)
  | 1 => some (s.continueFault f true)
  | 2 => some ((s.served f.id).killBlock f.blk)
  | 3 => if 4 ≤ level then none else some ((s.served f.id).cancelNow (s.ctxOf f.blk) level id)
  | _ => none

/-- The command window's command has completed with a status (R373). -/
def State.cmdEnd (s : State) (status : Nat) : State := { s with host := { s.host with cmdRun := .idle, cmdStatus := status } }
/-- The command runs on until its conditions hold. -/
def State.cmdWait (s : State) (r : CmdRun) : State := { s with host := { s.host with cmdRun := r } }
/-- A command starts: the space is open and no command runs (R373). -/
def State.command (s : State) (run : State → State) : State := if s.open' && s.host.cmdRun == .idle then run s else s

/-- FAULT command (Table 29.6): RESUME, SKIP, KILL, or CANCEL of a level. -/
def State.serveFault (s : State) (ctx seq action level id : Nat) : State :=
  match (s.entryOf ctx seq).bind fun f => s.serveEntry f action level id with
  | none => s.cmdEnd 4
  | some t => t.cmdEnd 0

/-- A fault command: the driver's, through the command window, or, from 2^32 on, one with which firmware serves an entry in its own space (R314;
log 42). -/
def State.faultCommand (s : State) (ctx seq action level id : Nat) : State :=
  if 2 ^ 32 ≤ seq then ((s.entryIn true ctx (seq - 2 ^ 32)).bind fun f => s.serveEntry f action level id).getD s
  else s.command fun t => t.serveFault ctx seq action level id

/-- FAULT_RESUME (R314): the crew continues at the point Table 23.3 gives. -/
def execFaultResume (ctx seq : Nat) (s : State) : Host.Outcome State Fault Refusal := .next (s.faultCommand ctx seq 0 0 0)
/-- FAULT_SKIP (R314): the crew continues at the word after the faulting instruction. -/
def execFaultSkip (ctx seq : Nat) (s : State) : Host.Outcome State Fault Refusal := .next (s.faultCommand ctx seq 1 0 0)
/-- FAULT_KILL (R314): the block is stopped, and its launch ends KILLED. -/
def execFaultKill (ctx seq : Nat) (s : State) : Host.Outcome State Fault Refusal := .next (s.faultCommand ctx seq 2 0 0)
/-- FAULT_CANCEL (R314, R204): a named level of the context is cancelled. -/
def execFaultCancel (ctx seq : Nat) (level : BitVec 2) (id : Word) (s : State) : Host.Outcome State Fault Refusal :=
  .next (s.faultCommand ctx seq 3 level.toNat id.toNat)

/-! ## SHOOTDOWN (R326) -/

/-- Do pages and a range of addresses overlap? -/
def Xlate.inRange (x : Xlate) (ctx base len : Nat) : Bool := x.ctx == ctx && decide (x.va < base + len) && decide (base < x.va + 2 ^ x.size)

/-- Numbers of the accesses of a context that are under way; a held store keeps its number in the store buffer. -/
def State.accessIds (s : State) (ctx base len : Nat) : List Nat :=
  (s.inFlight.filter fun r => r.ctx == ctx).map (fun r => r.id) ++
  (s.pipe.sbuf.filter fun e => e.ctx == ctx).map (fun e => e.id) ++
  (s.sp.engines.filter fun e => e.trs.any fun x => x.inRange ctx base len).map (fun e => e.id) ++
  (s.grd.hold.filter fun h => h.ctx == ctx).map fun h => h.id

/-- Are accesses still under way? -/
def State.accessing (s : State) (ids : List Nat) : Bool :=
  (s.inFlight.any fun r => ids.contains r.id || ids.contains r.parent) || (s.pipe.sbuf.any fun e => ids.contains e.id) ||
  (s.sp.engines.any fun e => ids.contains e.id) || s.grd.hold.any fun h => ids.contains h.id

/-- SHOOTDOWN command: matching TLB entries and walks go; it completes when the accesses under way have been performed. -/
def State.shootDown (s : State) (ctx base len : Nat) : State :=
  if base % 2 ^ 15 ≠ 0 || len % 2 ^ 15 ≠ 0 then s.cmdEnd 4
  else
    let page := fun (n : Nat) => decide (n * 2 ^ 15 < base + len) && decide (base < (n + 1) * 2 ^ 15)
    let t := { s with pipe := { s.pipe with
      tlb := s.pipe.tlb.filter fun e => !(e.tr.inRange ctx base len)
      walks := s.pipe.walks.filter (fun w => !(w.ctx == ctx && page w.page))
      xfaults := s.pipe.xfaults.filter (fun e => !(e.1 == ctx && page e.2))
      got := s.pipe.got.filter fun g => !(g.ctx == ctx && (page g.page || g.tr.any fun (x : Xlate) => x.inRange ctx base len)) } }
    t.cmdWait (.accesses (t.accessIds ctx base len))

/-- SHOOTDOWN (R326). -/
def execShootdown (ctx base len : Nat) (s : State) : Host.Outcome State Fault Refusal := .next (s.command fun t => t.shootDown ctx base len)

/-! ## Repairs (R346, Table 29.6) -/

/-- Stop the blocks that run on cores. -/
def State.stopCores (s : State) (f : Nat → Bool) : State :=
  ((s.disp.blocks.filter fun x => f x.core && x.onCore && (x.st == .running || x.st == .placed)).map fun x => x.id).foldl (fun t b => t.stopHalves b 2) s

/-- REPAIR 0: the core's blocks are swapped out, and the spare of its cluster takes its number; refused where the spare is taken. -/
def State.repairCore (s : State) (core : Nat) : State :=
  if 384 ≤ core then s.cmdEnd 4
  else if (coresOf (coreCluster core)).any fun c => mget 0 s.disp.phys c != 0 then s.cmdEnd 1
  else (s.cmdWait (.core core)).stopCores fun c => c == core

/-- REPAIR 1: a cluster's blocks are swapped out, and it leaves placement. -/
def State.drainCluster (s : State) (cl : Nat) : State :=
  if 48 ≤ cl then s.cmdEnd 4
  else
    let t := { s with disp := { s.disp with drained := dedup (s.disp.drained ++ [cl]) } }
    (t.cmdWait (.drain cl)).stopCores fun c => coreCluster c == cl

/-- REPAIR 2: a drained cluster returns to placement. -/
def State.returnCluster (s : State) (cl : Nat) : State :=
  if 48 ≤ cl then s.cmdEnd 4
  else (State.msi { s with disp := { s.disp with drained := s.disp.drained.filter fun c => c != cl } } 65).cmdEnd 0

/-- REPAIR 3: a slice is evacuated to a spare slice of its die; refused where none is left. -/
def State.repairSlice (s : State) (sl : Nat) : State :=
  if 128 ≤ sl then s.cmdEnd 4
  else if !s.spareSlice (sliceDie sl) && !(s.sl.evacs.any fun v => v.slice == sl) then s.cmdEnd 1
  else (s.cmdWait (.evac sl)).evacuate sl

/-- REPAIR 4: a 32 KiB page of HBM is retired. -/
def State.retirePage (s : State) (pa : Nat) : State :=
  if pa % 2 ^ 15 ≠ 0 || 2 ^ 52 ≤ pa || paRegion pa != .hbm then s.cmdEnd 4
  else (State.msi { s with sl := { s.sl with retired := dedup (s.sl.retired ++ [pa]) } } 65).cmdEnd 0

/-- REPAIR_SPARE_CORE (R346). -/
def execRepairSpareCore (core : Nat) (s : State) : Host.Outcome State Fault Refusal := .next (s.command fun t => t.repairCore core)
/-- REPAIR_CLUSTER_DRAIN (R346). -/
def execRepairClusterDrain (cl : Nat) (s : State) : Host.Outcome State Fault Refusal := .next (s.command fun t => t.drainCluster cl)
/-- REPAIR_CLUSTER_RETURN (R346). -/
def execRepairClusterReturn (cl : Nat) (s : State) : Host.Outcome State Fault Refusal := .next (s.command fun t => t.returnCluster cl)
/-- REPAIR_SPARE_SLICE (R347). -/
def execRepairSpareSlice (sl : Nat) (s : State) : Host.Outcome State Fault Refusal := .next (s.command fun t => t.repairSlice sl)
/-- REPAIR_HBM_PAGE_RETIRE (R346). -/
def execRepairHbmPageRetire (pa : Nat) (s : State) : Host.Outcome State Fault Refusal := .next (s.command fun t => t.retirePage pa)

/-! ## Reserve contracts and contexts (R292, R373) -/

/-- A driver's contract operation goes to the sequencer. -/
def State.driverOp (s : State) (ctx : Nat) (op : SeqOp) : State :=
  let id := s.pipe.nextId
  let r : SeqRec := { id := id, ctx := ctx, launch := 0, pend := 0, blk := 0, crew := 0, kd := 0, op := op, decided := false, status := 0, slices := [], pinId := 0 }
  State.cmdWait { s with pipe := { s.pipe with nextId := id + 1 }, sl := { s.sl with seq := s.sl.seq ++ [r] } } (.seq id)

/-- RESCTR command: an address that is not a multiple of 64 is BADARG, with nothing read. -/
def State.driverResctr (s : State) (ctx pa : Nat) : State := if pa % 64 ≠ 0 then s.cmdEnd 4 else s.driverOp ctx (.resctr pa)

/-- CTXEND command: every level of the context is cancelled, and its queues are no longer read. -/
def State.endCtx (s : State) (ctx : Nat) : State :=
  if 128 ≤ ctx || !(s.ctx ctx).live then s.cmdEnd 4
  else
    let t := (s.disp.launches.filter fun l => l.ctx == ctx && l.st != .ended).foldl (fun t l => t.stopLaunch l.uid 1) s
    let qs := (List.range 64).filter fun q => (t.queue q).ctx == ctx
    let t := qs.foldl (fun t q => t.setQueue q { t.queue q with stopped := true }) t
    let t := { t with disp := { t.disp with levels := t.disp.levels.map fun (v : Level) =>
      if v.ctx == ctx && !v.ended then { v with stopped := true, anyCancelled := true, closed := true } else v } }
    (t.due ((t.disp.levels.filter fun v => v.ctx == ctx && v.isOver).map fun v => Instr.levelComplete v.kind (ctx * 2 ^ 32 + v.id))).cmdWait (.ctxend ctx)

/-- RESCTR (R292). -/
def execResctr (ctx pa : Nat) (s : State) : Host.Outcome State Fault Refusal := .next (s.command fun t => t.driverResctr ctx pa)
/-- RESEND (R292). -/
def execResend (ctx : Nat) (s : State) : Host.Outcome State Fault Refusal := .next (s.command fun t => t.driverOp ctx .resend)
/-- CTXEND (R373). -/
def execCtxend (ctx : Nat) (s : State) : Host.Outcome State Fault Refusal := .next (s.command fun t => t.endCtx ctx)
/-- COMMAND_UNKNOWN (R373): an opcode that Table 29.6 does not name completes at once with BADARG and does nothing. -/
def execCommandUnknown (_op : Nat) (s : State) : Host.Outcome State Fault Refusal := .next (s.command fun t => t.cmdEnd 4)

/-- What is left of a context that ends: its pins drain once its last block has completed; then its contract ends, and its page, fault
queue and swap area return to the driver. -/
def State.endCtxDone (s : State) (ctx : Nat) : State :=
  if s.disp.launches.any fun l => l.ctx == ctx && l.st != .ended && !(s.liveBlocks l.uid).isEmpty then s
  else
    let t := s.endPins fun p => p.ctx == ctx
    let t := if (t.reserve ctx).isSome then t.endReserve ctx else t
    if (t.sl.pins.any fun p => p.ctx == ctx && p.state != 3) || (t.disp.launches.any fun l => l.ctx == ctx && l.st != .ended) || t.transfers ctx then t
    else (t.setCtx ctx .init).cmdEnd 0

/-- COMMAND_COMPLETE (R373): the running command completes once its conditions hold. -/
def execCommandComplete (s : State) : Host.Outcome State Fault Refusal :=
  match s.host.cmdRun with
  | .idle => .next s
  | .accesses ids => .next (if s.accessing ids then s else s.cmdEnd 0)
  | .seq _ => .next s
  | .closed status => .next (s.cmdEnd status)
  | .ctxend ctx => .next (s.endCtxDone ctx)
  | .core n =>
    if (s.onCore n).isEmpty then .next ((State.msi { s with disp := { s.disp with phys := mput 0 s.disp.phys n 8, retired := s.disp.retired.filter fun c => c != n } } 65).cmdEnd 0)
    else .next (s.stopCores fun c => c == n)
  | .drain cl =>
    if (coresOf cl).all fun c => (s.onCore c).isEmpty then .next ((s.msi 65).cmdEnd 0)
    else .next (s.stopCores fun c => coreCluster c == cl)
  | .evac sl => .next (if s.sl.evacs.any fun v => v.slice == sl then s else s.cmdEnd 0)

/-! ## Registers (R365) -/

/-- Word n of the command window. -/
def State.cmdWord (s : State) (n : Nat) : Nat := (mget 0 s.host.cmd n).toNat
/-- Words n and n + 1 as one number, the low word first. -/
def State.cmdPair (s : State) (n : Nat) : Nat := s.cmdWord n + 2 ^ 32 * s.cmdWord (n + 1)

/-- The command in CMD0 to CMD15 runs (Table 29.6). -/
def State.runCommand (s : State) : State :=
  match s.cmdWord 0 with
  | 1 => s.shootDown (s.cmdWord 1) (s.cmdPair 2) (s.cmdPair 4)
  | 2 => s.serveFault (s.cmdWord 1) (s.cmdWord 2) (s.cmdWord 3) (s.cmdWord 4) (s.cmdWord 5)
  | 3 => match s.cmdWord 1 with
    | 0 => s.repairCore (s.cmdWord 2)
    | 1 => s.drainCluster (s.cmdWord 2)
    | 2 => s.returnCluster (s.cmdWord 2)
    | 3 => s.repairSlice (s.cmdWord 2)
    | 4 => s.retirePage (s.cmdPair 2)
    | _ => s.cmdEnd 4
  | 4 => s.driverResctr (s.cmdWord 1) (s.cmdPair 2)
  | 5 => s.driverOp (s.cmdWord 1) .resend
  | 6 => s.endCtx (s.cmdWord 1)
  | _ => s.cmdEnd 4

/-- Granules that the live pins of a context hold (R69). -/
def State.granulesHeld (s : State) (ctx : Nat) : Nat := ((s.sl.pins.filter fun p => p.ctx == ctx && p.state != 3).map fun p => p.granules).sum

/-- A field of a launch queue's registers. -/
def State.putQueue (s : State) (q : Nat) (f : LQueue → LQueue) : State := if q < 64 then s.setQueue q (f (s.queue q)) else s
/-- A field of a context page, which then exists. -/
def State.putCtx (s : State) (c : Nat) (f : CtxPage → CtxPage) : State := if c < 128 then s.setCtx c { f (s.ctx c) with live := true } else s

/-- A write of a management register (Table 29.1). -/
def State.putReg (s : State) (r : MgmtReg) (v : DWord) : State :=
  let x := v.toNat
  match r with
  | .qbase q => s.putQueue q fun y => { y with qbase := x }
  | .qlog q => s.putQueue q fun y => { y with qlog := bits x 0 5 }
  | .qctx q => s.putQueue q fun y => { y with ctx := bits x 0 7, stopped := false }
  | .cbase q => s.putQueue q fun y => { y with cbase := x }
  | .tailpa q => s.putQueue q fun y => { y with tailpa := x, shared := false }
  | .headpa q => s.putQueue q fun y => { y with headpa := x }
  | .topTable c => s.putCtx c fun y => { y with top := x }
  | .privileged c => s.putCtx c fun y => { y with privileged := v.getLsbD 0 }
  | .tenant c => s.putCtx c fun y => { y with tenant := bits x 0 4 }
  | .checkMode c => s.putCtx c fun y => { y with validate := v.getLsbD 0 }
  | .routing c => s.putCtx c fun y => { y with routing := v.setWidth 17 }
  | .wdl c => s.putCtx c fun y => { y with wdl := bits x 0 6 }
  | .pinQuota c => s.putCtx c fun y => { y with pinq := x - s.granulesHeld c }
  | .bpmask c => s.putCtx c fun y => { y with bpmask := v.setWidth 16 }
  | .shtbase c => s.putCtx c fun y => { y with shtbase := x }
  | .shtlen c => s.putCtx c fun y => { y with shtlen := x }
  | .fqbase c => s.putCtx c fun y => { y with fqbase := x, fqset := true }
  | .fqlog c => s.putCtx c fun y => { y with fqlog := bits x 0 4 }
  | .swapbase c => s.putCtx c fun y => { y with swapbase := x }
  | .swaplen c => s.putCtx c fun y => { y with swaplen := x }
  | .cmd n => if n < 16 then { s with host := { s.host with cmd := mput 0 s.host.cmd n (v.setWidth 32) } } else s
  | .cmdgo => if x = 1 then s.command State.runCommand else s
  | .dbgsel n =>
    let w := match n with
      | 1 => 32
      | 2 => 24
      | _ => 6
    if n = 1 || n = 2 || n = 3 then { s with host := { s.host with dbgsel := mput 0 s.host.dbgsel n (BitVec.ofNat 32 (bits x 0 w)) } } else s
  | .clbudget cl => if cl < 48 then (let t := s.interval cl; t.setBud cl { t.bud cl with next := bits x 0 16 }) else s
  | .readOnly _ | .unnamed _ => s

/-- REGISTER_WRITE (R365): firmware writes CLBUDGET in its own space; the host reaches the others once the ports have trained. -/
def execRegisterWrite (r : MgmtReg) (v : DWord) (s : State) : Host.Outcome State Fault Refusal :=
  let own := match r with
    | .clbudget _ => true
    | _ => false
  .next (if own || s.open' then s.putReg r v else s)

/-- What a read of SLCOCC gives (Table 5.3): the tenant, and its resident MSC lines in the slice. -/
def State.slcocc (s : State) (sl ten : Nat) : Word :=
  BitVec.ofNat 32 (ten * 2 ^ 28 + (s.sl.lines.filter fun l => l.slice == sl && l.filler == ten).length)
/-- What a read of CMDSTAT gives (Table 29.5). -/
def State.cmdstat (s : State) : Word := BitVec.ofNat 32 (s.host.cmdStatus * 256 + (if s.host.cmdRun == .idle then 1 else 0))

/-! ## Ports (R363, R364, R371) -/

/-- Write the state of a port. -/
def State.setPort (s : State) (n : Nat) (p : Port) : State := { s with host := { s.host with ports := mput .init s.host.ports n p } }

/-- Serve a host access to lines of HBM at their home slices; none while a line has to wait. -/
def State.hostLines (s : State) (port at' : Nat) (write : Bool) : List (Nat × List (Nat × Byte)) → Option State
  | [] => some s
  | (line, bs) :: t =>
    let il := s.physIlv (line * 64)
    let home := homeSlice il.1 il.2 line
    let u : LineUse := if !write then .read else if bs.length < 64 then .part else .whole
    (s.touchLine home line (localLine il.1 line) 0 0 0 u { cxlVia port bs.length with at' := at' }).bind fun r =>
      (if write then r.homeWrite home (line * 64) bs else r).hostLines port at' write t

/-- The lines of an access, with the bytes of each by offset. -/
def hostParts (pa : Nat) (data : List Byte) : List (Nat × List (Nat × Byte)) :=
  let bs := ((List.range data.length).zip data).map fun e => (pa + e.1, e.2)
  (dedup (bs.map fun e => lineOf e.1)).map fun line => (line, (bs.filter fun e => lineOf e.1 == line).map fun e => (e.1 % 64, e.2))

/-- Perform an access of a port at a byte of its range. -/
def State.hostAccess (s : State) (a : HostAcc) : Option State :=
  if (s.port a.port).retraining then none else s.hostLines a.port a.at' a.write (hostParts (a.port * 2 ^ 37 + a.addr) a.data)

/-- HOST_MEM_ACCESS (R363, R364): a CXL.mem access is served at its home slice, in the order in which its port received it; one that has to
wait is held. The bytes of a read tell only how many it reads. -/
def execHostMemAccess (port addr : Nat) (data : List Byte) (write : Bool) (s : State) : Host.Outcome State Fault Refusal :=
  if 4 ≤ port || !(s.port port).up || 2 ^ 37 < addr + data.length then .next s
  else
    let a : HostAcc := ⟨port, addr, data, write, s.now⟩
    match (if s.host.heldAcc.any fun a => a.port == port then none else s.hostAccess a) with
    | some t => .next t
    | none => .next { s with host := { s.host with heldAcc := s.host.heldAcc ++ [a] } }

/-- The first access that a port holds goes on, if it may. -/
def State.serveHeld (s : State) (port : Nat) : State :=
  match s.host.heldAcc.find? fun a => a.port == port with
  | none => s
  | some a => match s.hostAccess a with
    | none => s
    | some t => { t with host := { t.host with heldAcc := t.host.heldAcc.erase a } }

/-- LINK_RETRAIN (R364): a link error; the port holds requests and drops none. -/
def execLinkRetrain (port : Nat) (s : State) : Host.Outcome State Fault Refusal :=
  if (s.port port).up then .next (s.setPort port { up := true, retraining := true }) else .next s

/-- LINK_UP (R364, R367, R371): a port has trained, which it does in step 4 of start-up or after it. Once all four have, step 4 has ended, and the management
space is open to the driver. What a retraining has held goes on; its end is the end of a repair (Table 25.5). -/
def execLinkUp (port : Nat) (s : State) : Host.Outcome State Fault Refusal :=
  if 4 ≤ port || s.host.boot < 4 then .next s
  else
    let t := s.setPort port { up := true, retraining := false }
    let t := if (List.range 4).all fun n => (t.port n).up then { t with host := { t.host with boot := max t.host.boot 5 } } else t
    let t := t.hostSend t.host.out.length
    .next ((if (s.port port).retraining then t.msi 65 else t).serveHeld port)

/-! ## Firmware, identity, reset (R369 to R371) -/

/-- Steps 1 to 3 of start-up (R371): the boot ROM runs, the firmware verifies and starts, and the recorded repairs stand; the ports may
then train. -/
def State.bootStep (s : State) : State :=
  let go := fun (n : Nat) => { s with host := { s.host with boot := n } }
  match s.host.boot with
  | 1 => go 2
  | 2 => if fwVerifies s.host.fwSvn s.host.fwImage then go 3 else s
  | 3 => go 4
  | _ => s

/-- FIRMWARE_UPDATE (R369, R367; log 8): an image that verifies is installed, and the repair has ended; else the running firmware stays. Both
raise a vector-65 event. -/
def execFirmwareUpdate (svn image : Nat) (s : State) : Host.Outcome State Fault Refusal :=
  let t := if fwVerifies svn image then { s with host := { s.host with fwSvn := svn, fwImage := image } } else s
  .next (if s.open' then t.msi 65 else s)

/-- The repair actions in force (R370, Table 25.5): spare cores, retired cores, drained clusters, spare slices, lane swaps, repaired rows and
retired pages. -/
def State.repairs (s : State) : List (List Nat) :=
  (s.disp.phys.map fun e => [0, e.1, e.2]) ++ (s.disp.retired.map fun c => [1, c]) ++ (s.disp.drained.map fun c => [2, c]) ++
  (s.sl.replaced.map fun x => [3, x]) ++ (s.sl.ecc.flatMap fun e => e.2.swaps.map fun w => [4, e.1, w.1, w.2]) ++
  (s.sl.rows.map fun e => [5, e.1, e.2]) ++ s.sl.retired.map fun p => [6, p]

/-- SPDM_REQUEST (R370; log 8): the mailbox of a port answers an attestation message. -/
def execSpdmRequest (port msg : Nat) (s : State) : Host.Outcome State Fault Refusal :=
  if 4 ≤ port || !(s.port port).up then .next s
  else .next { s with host := { s.host with spdm := (port, Config.spdmAnswer port msg s.host.fwImage s.host.fwSvn s.host.featacc s.repairs) :: s.host.spdm } }

/-- What SYS granules keep of a slice's errors over a reset (R338, R371): its lane swaps. -/
def SliceEcc.kept (e : SliceEcc) : SliceEcc := { SliceEcc.init with swaps := e.swaps, spares := e.spares }

/-- PACKAGE_RESET (R371): everything is as after reset but memory, the firmware, and the repairs recorded in SYS granules. -/
def execPackageReset (s : State) : Host.Outcome State Fault Refusal :=
  let r := State.reset
  .next { r with
    clk := { r.clk with free := s.clk.free }
    mem := s.mem
    sl := { r.sl with ecc := s.sl.ecc.foldl (fun m e => mput .init m e.1 e.2.kept) [], sparesUsed := s.sl.sparesUsed, replaced := s.sl.replaced, rows := s.sl.rows, retired := s.sl.retired,
                      phys := s.sl.phys }
    disp := { r.disp with phys := s.disp.phys, retired := s.disp.retired }
    host := { r.host with fwSvn := s.host.fwSvn, fwImage := s.host.fwImage, stores := s.host.stores } }

end Sys2Proof.Machine
end

