-- ==== Sys2Proof/Machine/Debug.lean ====
section
/-!
DEFINITION. The debug window, as events (spec/29 R374).
-/
namespace Sys2Proof.Machine

/-! ## The selection (Table 29.7) -/

/-- DBGSEL register n. -/
def State.dbgsel (s : State) (n : Nat) : Nat := (mget 0 s.host.dbgsel n).toNat
/-- Is a feed context selected? -/
def State.dbgFeed (s : State) : Bool := bits (s.dbgsel 3) 5 1 == 1
/-- The selected crew, or the feed context's number. -/
def State.dbgCrew (s : State) : Nat := if s.dbgFeed then feedCrew else bits (s.dbgsel 3) 0 5

/-- The selected block. -/
def State.dbgBlock (s : State) : Option Nat :=
  (s.disp.blocks.find? fun x => x.st != .complete && x.lin == s.dbgsel 2 && s.ctxOf x.id == s.dbgsel 0 && (s.launchOf x.id).id == s.dbgsel 1).map fun x => x.id

/-- May the state of the selection be written: the crew is HALTED, or an entry of its block awaits service? A crew under STEP is not HALTED until it has
issued, nor does its entry await service meanwhile (log 38). -/
def State.dbgOpens (s : State) (b c : Nat) : Bool :=
  (((s.faultsOf b c).any fun f => f.inspect) && !s.stepping b c) ||
    s.sch.faults.any fun f => f.blk == b && f.written && !f.served && !s.stepping b f.crewNo

/-- DBGSEL0_WRITE (R374): a context is selected, and DBGSTAT.ERR is cleared. -/
def execDbgsel0Write (v : Word) (s : State) : Host.Outcome State Fault Refusal :=
  if !s.open' then .next s
  else .next { s with host := { s.host with dbgsel := mput 0 s.host.dbgsel 0 (v &&& 0x7F), dbgErr := false } }

/-! ## Commands -/

/-- Act on the selected crew, where there is one that awaits service; one of a stopped level has stopped (R204). -/
def State.dbgDo (s : State) (act : Nat → Nat → State) : State :=
  match s.dbgBlock with
  | some b => if s.open' && s.dbgOpens b s.dbgCrew then act b s.dbgCrew else s
  | none => s

/-- DBG_RESUME (R374): the crew continues from its state as it now stands. -/
def execDbgResume (s : State) : Host.Outcome State Fault Refusal :=
  .next (s.dbgDo fun b c => ((s.faultsOf b c).foldl (fun t f => t.continueFault f false) s).watchSync b)

/-- A crew's fault gives way to a step: a HALTED crew's threads stand among the bundles; the entry of a block in swap mode is served as RESUME serves it. -/
def State.stepOn (s : State) (f : FaultRec) : State :=
  let u : Bundle := { blk := f.blk, feed := f.feed, pc := f.pc, clause := f.clause, members := f.threads, wait := .ready, since := s.now, pass := false, adv := 0 }
  let u := if f.nextWord then u.step f.words s.now else u
  if !f.inspect then s.continueFault f false
  else
    let t := if f.moved then s else s.addBundles [u]
    { t with sch := { t.sch with faults := t.sch.faults.map fun (g : FaultRec) => if g.id == f.id then { g with moved := true, threads := [], nextWord := false } else g } }

/-- DBG_STEP (R374): the selected crew issues one instruction, and then halts (`State.stepUsed`); a block that is off its core first comes back. -/
def execDbgStep (s : State) : Host.Outcome State Fault Refusal :=
  .next (s.dbgDo fun b c =>
    if (s.launchOf b).stopped then s
    else
      let t := (s.faultsOf b c).foldl (fun t f => t.stepOn f) s
      { t with host := { t.host with dbgStep := (b, c) :: t.host.dbgStep.filter fun e => e != (b, c) } })

/-- DBG_KILL (R374, Table 23.4): the block is killed. -/
def execDbgKill (s : State) : Host.Outcome State Fault Refusal := .next (s.dbgDo fun b _ => s.killBlock b)

/-! ## Writes to the state (Table 29.8) -/

/-- The 64-bit view of a partial (R49). -/
def Partial.view (x : Partial) : Nat :=
  (x.p % 2 ^ 36).toNat + ((x.e.getD 0) % 2 ^ 10).toNat * 2 ^ 36 + (if x.e.isNone then 2 ^ 46 else 0) + x.s % 64 * 2 ^ 47 + x.nan.toNat * 2 ^ 53 +
    x.pinf.toNat * 2 ^ 54 + x.ninf.toNat * 2 ^ 55
/-- The partial of a view. -/
def Partial.ofView (v : Nat) : Partial :=
  { p := sext (bits v 0 36) 36, e := if bits v 46 1 = 1 then none else some (sext (bits v 36 10) 10), s := bits v 47 6, nan := bits v 53 1 == 1,
    pinf := bits v 54 1 == 1, ninf := bits v 55 1 == 1 }

/-- The high or low word of a 64-bit value replaced. -/
def putHalf (old : Nat) (hi : Bool) (v : Nat) : Nat := if hi then old % 2 ^ 32 + v * 2 ^ 32 else old / 2 ^ 32 * 2 ^ 32 + v

/-- A thread leaves wherever it stands: its bundle, its bin, its fault record. -/
def State.takeThread (s : State) (b : Nat) (m : Member) : State :=
  { s with sch := { s.sch with
    bundles := (s.sch.bundles.map fun (u : Bundle) => if u.blk == b && !u.feed then { u with members := u.members.filter fun x => x != m } else u)
      |>.filter fun (u : Bundle) => u.feed || !u.members.isEmpty
    bins := (s.sch.bins.map fun (n : Bin) => if n.blk == b && n.qtr == crewQtr m.crew then
        { n with entries := n.entries.filter fun e => !(e.lane == m.lane && e.slot == crewSlot m.crew) } else n)
      |>.filter fun (n : Bin) => !n.entries.isEmpty
    faults := s.sch.faults.map fun (f : FaultRec) => if f.blk == b && !f.feed then { f with threads := f.threads.filter fun x => x != m } else f } }

/-- A thread continues at another PC, which must name a header word. -/
def State.putPc (s : State) (b c l : Nat) (pc : Word) : State :=
  if c = feedCrew then
    if l ≠ 0 then s
    else
      { s with sch := { s.sch with
        bundles := s.sch.bundles.map fun (u : Bundle) => if u.blk == b && u.feed then { u with pc := pc, clause := none, wait := .ready } else u
        faults := s.sch.faults.map fun (f : FaultRec) => if f.blk == b && f.feed then { f with pc := pc, clause := none, nextWord := false } else f } }
  else if !(s.regs.crewSt b c).live.getLsbD l then s
  else
    let u : Bundle := { blk := b, feed := false, pc := pc, clause := none, members := [⟨l, c⟩], wait := .ready, since := s.now, pass := false, adv := 0 }
    (s.takeThread b ⟨l, c⟩).addBundles [u]

/-- LIVEMASK in the debug window's STATE view (Table 29.8): a lane that leaves it has no thread any more; one that enters stands where the crew's first fault
record stands. Table 13.3 calls LIVEMASK RO; that a debugger may write it all the same is the model's choice (log 38). -/
def State.putLive (s : State) (b c : Nat) (v : Word) : State :=
  let old := (s.regs.crewSt b c).live
  let gone := ((List.range 32).filter fun l => old.getLsbD l && !v.getLsbD l).map fun l => (⟨l, c⟩ : Member)
  let fresh := ((List.range 32).filter fun l => !old.getLsbD l && v.getLsbD l).map fun l => (⟨l, c⟩ : Member)
  let t := gone.foldl (fun t m => t.takeThread b m) s
  let t := t.setRegs (t.regs.setCrew b c { t.regs.crewSt b c with live := v })
  let t := match (t.faultsOf b c).head? with
    | some f => { t with sch := { t.sch with faults := t.sch.faults.map fun (g : FaultRec) => if g.id == f.id then { g with threads := laneSort (g.threads ++ fresh) } else g } }
    | none => t
  (t.recheck b).noteOver b

/-- Crew state words at 0x2_0108 (R116, R118, R41, Table 13.5): a value that WINB, WRSR or CPART would refuse leaves the register. -/
def State.putCrewWord (s : State) (b c i : Nat) (v : Word) : State :=
  let x := s.regs.crewSt b c
  let set := fun (y : CrewSt) => s.setRegs (s.regs.setCrew b c y)
  match i with
  | 0 => if v.toNat % 8 ≠ 0 || x.abnd < v.toNat + 64 then s else set { x with wb := v.toNat }
  | 1 => if v.toNat % 8 ≠ 0 || v.toNat < x.wb + 64 || (s.launchOf b).regs < v.toNat then s else set { x with abnd := v.toNat }
  | 2 => if v = 0 || 5 < v.toNat then s else set { x with cpart := v.toNat }
  | 3 => if v &&& ~~~7 != 0 then s else set { x with cfpm := v }
  | 4 => if v &&& ~~~31 != 0 then s else set { x with cfps := v }
  | _ => s.putLive b c v

/-- The call state of a lane: depth and h. Entries that h newly counts are free values (log 3). -/
def State.putCall (s : State) (b c l : Nat) (v : Word) : State :=
  let d := bits v.toNat 0 7
  let h := bits v.toNat 8 3
  let x := s.regs.callSt b c l
  if min d 4 < h || 4 + (s.launchOf b).calldepth < d then s
  else
    let more := (List.range (h - x.hw.length)).map fun i =>
      ((x.rest.find? fun e => e.1 == x.hw.length + i).map fun e => e.2).getD ((Config.freeValue (s.clk.free + i)).setWidth 32)
    let more' := ((List.range x.hw.length).zip x.hw).drop h ++ x.rest.filter fun e => decide (h ≤ e.1)
    let t := s.setRegs (s.regs.setCall b c l { depth := d, hw := x.hw.take h ++ more, rest := more' })
    { t with clk := { t.clk with free := t.clk.free + more.length } }

/-- Return-stack entry j is written, be it counted in h or not. -/
def CallSt.putEntry (x : CallSt) (j : Nat) (v : Word) : CallSt :=
  if j < x.hw.length then { x with hw := x.hw.set j v } else { x with rest := (j, v) :: x.rest.filter fun e => e.1 != j }

/-- A word of the selected crew's state is written, by its offset in Table 29.8. -/
def State.dbgPut (s : State) (b c off : Nat) (v : Word) : State :=
  let l := s.launchOf b
  let feed := c == feedCrew
  let i := off / 4
  let lane := i % 32
  if off % 4 ≠ 0 then s
  else if off < 0x20000 then (if feed || l.regs ≤ i / 32 then s else s.setRegs (s.regs.setCell b c (i / 32) lane v))
  else if off < 0x20100 then s.setRegs (s.regs.setK b c (i % 64) v)
  else if off = 0x20100 then s.setRegs ((List.range 4).foldl (fun r n => r.setQ b c n (v.getLsbD n)) s.regs)
  else if 0x20108 ≤ off && off < 0x20120 then (if feed then s else s.putCrewWord b c ((off - 0x20108) / 4) v)
  else if 0x20200 ≤ off && off < 0x20280 then s.putPc b c lane v
  else if 0x20280 ≤ off && off < 0x20300 then
    (if feed then s else s.setRegs ((List.range 8).foldl (fun r n => r.setP b c lane n (v.getLsbD n)) s.regs))
  else if 0x20300 ≤ off && off < 0x20380 then (if feed && lane != 0 then s else s.putCall b c lane v)
  else if 0x20400 ≤ off && off < 0x20600 then
    let ln := (off - 0x20400) / 16
    let j := i % 4
    let x := s.regs.callSt b c ln
    if feed && ln != 0 then s else s.setRegs (s.regs.setCall b c ln (x.putEntry j v))
  else if 0x40000 ≤ off && off < 0x60000 then
    let n := (off - 0x40000) / 8
    let abnd := (s.regs.crewSt b c).abnd
    let cell := abnd + 32 * (n / 1024) + n % 32
    let row := n / 32 % 32
    if feed || l.regs < abnd + 32 * (n / 1024 + 1) then s
    else s.setRegs (s.regs.setPart b c cell row (Partial.ofView (putHalf (s.regs.part b c cell row).view (i % 2 == 1) v.toNat)))
  else s

/-- DBG_STATE_WRITE (R374): accepted while the crew is HALTED or its block awaits service; any other write is ignored and sets
DBGSTAT.ERR. -/
def execDbgStateWrite (off : Nat) (v : Word) (s : State) : Host.Outcome State Fault Refusal :=
  if !s.open' then .next s
  else match (s.dbgBlock.filter fun b => s.dbgOpens b s.dbgCrew) with
    | some b => .next (s.dbgPut b s.dbgCrew off v)
    | none => .next { s with host := { s.host with dbgErr := true } }

end Sys2Proof.Machine
end

