-- ==== Sys2Proof/Machine/Dispatch.lean ====
section
/-!
DEFINITION. The dispatch: one arm per constructor of Instr.
-/
namespace Sys2Proof.Machine

/-- What an instruction or event does in a state. -/
def exec (i : Instr) (s : State) : Host.Outcome State Fault Refusal :=
  match i with
  | .iadd d a b g => Sys2Proof.Machine.execIadd d a b g s
  | .iaddc d a b g => Sys2Proof.Machine.execIaddc d a b g s
  | .isub d a b g => Sys2Proof.Machine.execIsub d a b g s
  | .isubb d a b g => Sys2Proof.Machine.execIsubb d a b g s
  | .imul d a b g => Sys2Proof.Machine.execImul d a b g s
  | .imulhs d a b g => Sys2Proof.Machine.execImulhs d a b g s
  | .imulhu d a b g => Sys2Proof.Machine.execImulhu d a b g s
  | .imad d a b g => Sys2Proof.Machine.execImad d a b g s
  | .imad64 d a b g => Sys2Proof.Machine.execImad64 d a b g s
  | .idiv d a b g => Sys2Proof.Machine.execIdiv d a b g s
  | .idivu d a b g => Sys2Proof.Machine.execIdivu d a b g s
  | .irem d a b g => Sys2Proof.Machine.execIrem d a b g s
  | .iremu d a b g => Sys2Proof.Machine.execIremu d a b g s
  | .imin d a b g => Sys2Proof.Machine.execImin d a b g s
  | .imax d a b g => Sys2Proof.Machine.execImax d a b g s
  | .iminu d a b g => Sys2Proof.Machine.execIminu d a b g s
  | .imaxu d a b g => Sys2Proof.Machine.execImaxu d a b g s
  | .iabs d a g => Sys2Proof.Machine.execIabs d a g s
  | .icmp path cond pred a b g => Sys2Proof.Machine.execIcmp path cond pred a b g s
  | .icmpu path cond pred a b g => Sys2Proof.Machine.execIcmpu path cond pred a b g s
  | .iadd64 d a b g => Sys2Proof.Machine.execIadd64 d a b g s
  | .isub64 d a b g => Sys2Proof.Machine.execIsub64 d a b g s
  | .imul64 d a b g => Sys2Proof.Machine.execImul64 d a b g s
  | .lea d a b g => Sys2Proof.Machine.execLea d a b g s
  | .lea64 d a b g => Sys2Proof.Machine.execLea64 d a b g s
  | .and d a b g => Sys2Proof.Machine.execAnd d a b g s
  | .or d a b g => Sys2Proof.Machine.execOr d a b g s
  | .xor d a b g => Sys2Proof.Machine.execXor d a b g s
  | .andn d a b g => Sys2Proof.Machine.execAndn d a b g s
  | .orn d a b g => Sys2Proof.Machine.execOrn d a b g s
  | .shl d a b g => Sys2Proof.Machine.execShl d a b g s
  | .shr d a b g => Sys2Proof.Machine.execShr d a b g s
  | .sar d a b g => Sys2Proof.Machine.execSar d a b g s
  | .rotl d a b g => Sys2Proof.Machine.execRotl d a b g s
  | .fshl d a b g => Sys2Proof.Machine.execFshl d a b g s
  | .fshr d a b g => Sys2Proof.Machine.execFshr d a b g s
  | .bfe d a b g => Sys2Proof.Machine.execBfe d a b g s
  | .bfi d a b g => Sys2Proof.Machine.execBfi d a b g s
  | .popc d a g => Sys2Proof.Machine.execPopc d a g s
  | .clz d a g => Sys2Proof.Machine.execClz d a g s
  | .clz64 d a g => Sys2Proof.Machine.execClz64 d a g s
  | .brev d a g => Sys2Proof.Machine.execBrev d a g s
  | .bytep d a b g => Sys2Proof.Machine.execBytep d a b g s
  | .sel d a b p => Sys2Proof.Machine.execSel d a b p s
  | .fadd d a b g => Sys2Proof.Machine.execFadd d a b g s
  | .fsub d a b g => Sys2Proof.Machine.execFsub d a b g s
  | .fmul d a b g => Sys2Proof.Machine.execFmul d a b g s
  | .ffma d a b g => Sys2Proof.Machine.execFfma d a b g s
  | .fmin d a b g => Sys2Proof.Machine.execFmin d a b g s
  | .fmax d a b g => Sys2Proof.Machine.execFmax d a b g s
  | .fcmp path cond pred a b g => Sys2Proof.Machine.execFcmp path cond pred a b g s
  | .fclass d a g => Sys2Proof.Machine.execFclass d a g s
  | .frnd d a m g => Sys2Proof.Machine.execFrnd d a m g s
  | .fscl d a b g => Sys2Proof.Machine.execFscl d a b g s
  | .hadd2 d a b g => Sys2Proof.Machine.execHadd2 d a b g s
  | .hmul2 d a b g => Sys2Proof.Machine.execHmul2 d a b g s
  | .hfma2 d a b g => Sys2Proof.Machine.execHfma2 d a b g s
  | .hmin2 d a b g => Sys2Proof.Machine.execHmin2 d a b g s
  | .hmax2 d a b g => Sys2Proof.Machine.execHmax2 d a b g s
  | .hcmp2 path cond pred a b g => Sys2Proof.Machine.execHcmp2 path cond pred a b g s
  | .badd2 d a b g => Sys2Proof.Machine.execBadd2 d a b g s
  | .bmul2 d a b g => Sys2Proof.Machine.execBmul2 d a b g s
  | .bfma2 d a b g => Sys2Proof.Machine.execBfma2 d a b g s
  | .bmin2 d a b g => Sys2Proof.Machine.execBmin2 d a b g s
  | .bmax2 d a b g => Sys2Proof.Machine.execBmax2 d a b g s
  | .bcmp2 path cond pred a b g => Sys2Proof.Machine.execBcmp2 path cond pred a b g s
  | .dadd d a b g => Sys2Proof.Machine.execDadd d a b g s
  | .dmul d a b g => Sys2Proof.Machine.execDmul d a b g s
  | .dfma d a b g => Sys2Proof.Machine.execDfma d a b g s
  | .dcmp path cond pred a b g => Sys2Proof.Machine.execDcmp path cond pred a b g s
  | .cvtf d a h src dst g => Sys2Proof.Machine.execCvtf d a h src dst g s
  | .cvti d a mode dst src g => Sys2Proof.Machine.execCvti d a mode dst src g s
  | .pack2 d a m g => Sys2Proof.Machine.execPack2 d a m g s
  | .rcp d a g => Sys2Proof.Machine.execRcp d a g s
  | .rsq d a g => Sys2Proof.Machine.execRsq d a g s
  | .sqrt d a g => Sys2Proof.Machine.execSqrt d a g s
  | .exp2 d a g => Sys2Proof.Machine.execExp2 d a g s
  | .log2 d a g => Sys2Proof.Machine.execLog2 d a g s
  | .sinp d a g => Sys2Proof.Machine.execSinp d a g s
  | .cosp d a g => Sys2Proof.Machine.execCosp d a g s
  | .tanh d a g => Sys2Proof.Machine.execTanh d a g s
  | .mov d a g => Sys2Proof.Machine.execMov d a g s
  | .movi d imm g => Sys2Proof.Machine.execMovi d imm g s
  | .movl d g lit => Sys2Proof.Machine.execMovl d g lit s
  | .bra n imm g => Sys2Proof.Machine.execBra n imm g s
  | .brau n q imm g => Sys2Proof.Machine.execBrau n q imm g s
  | .jmp g lit => Sys2Proof.Machine.execJmp g lit s
  | .jmpi a g => Sys2Proof.Machine.execJmpi a g s
  | .call imm g => Sys2Proof.Machine.execCall imm g s
  | .calli a g => Sys2Proof.Machine.execCalli a g s
  | .ret g => Sys2Proof.Machine.execRet g s
  | .reform => Sys2Proof.Machine.execReform s
  | .exit g => Sys2Proof.Machine.execExit g s
  | .nop => Sys2Proof.Machine.execNop s
  | .yieldI => Sys2Proof.Machine.execYieldI s
  | .vote d g m => Sys2Proof.Machine.execVote d g m s
  | .shfl d a b g m => Sys2Proof.Machine.execShfl d a b g m s
  | .cred d a g m => Sys2Proof.Machine.execCred d a g m s
  | .cscan d a g m => Sys2Proof.Machine.execCscan d a g m s
  | .matchEq d a g m => Sys2Proof.Machine.execMatchEq d a g m s
  | .csync g m => Sys2Proof.Machine.execCsync g m s
  | .bar scope id => Sys2Proof.Machine.execBar scope id s
  | .lbar => Sys2Proof.Machine.execLbar s
  | .waitcmp u cond a b g m => Sys2Proof.Machine.execWaitcmp u cond a b g m s
  | .fence ord scope => Sys2Proof.Machine.execFence ord scope s
  | .fenceo => Sys2Proof.Machine.execFenceo s
  | .fencer scope => Sys2Proof.Machine.execFencer scope s
  | .plop path r pb pa lut g => Sys2Proof.Machine.execPlop path r pb pa lut g s
  | .p2v d g => Sys2Proof.Machine.execP2v d g s
  | .v2p path a b g => Sys2Proof.Machine.execV2p path a b g s
  | .rdsr d imm g => Sys2Proof.Machine.execRdsr d imm g s
  | .wrsr a imm g => Sys2Proof.Machine.execWrsr a imm g s
  | .winbImm imm g => Sys2Proof.Machine.execWinbImm imm g s
  | .winbReg a g => Sys2Proof.Machine.execWinbReg a g s
  | .cpart w g => Sys2Proof.Machine.execCpart w g s
  | .trap c g => Sys2Proof.Machine.execTrap c g s
  | .cancelSelf l g => Sys2Proof.Machine.execCancelSelf l g s
  | .cancelId a l g => Sys2Proof.Machine.execCancelId a l g s
  | .wqpop d q g => Sys2Proof.Machine.execWqpop d q g s
  | .wqpush a q g => Sys2Proof.Machine.execWqpush a q g s
  | .ld d a b g m => Sys2Proof.Machine.execLd d a b g m s
  | .st d a g m => Sys2Proof.Machine.execSt d a g m s
  | .ldk d a b g m => Sys2Proof.Machine.execLdk d a b g m s
  | .stk d a g m => Sys2Proof.Machine.execStk d a g m s
  | .lds d a b g m => Sys2Proof.Machine.execLds d a b g m s
  | .sts d a g m => Sys2Proof.Machine.execSts d a g m s
  | .stsm d a b g m => Sys2Proof.Machine.execStsm d a b g m s
  | .ldp d a b g m => Sys2Proof.Machine.execLdp d a b g m s
  | .stp d a b g m => Sys2Proof.Machine.execStp d a b g m s
  | .ldx d a b g m => Sys2Proof.Machine.execLdx d a b g m s
  | .stm d a b g m => Sys2Proof.Machine.execStm d a b g m s
  | .atom d a b g m => Sys2Proof.Machine.execAtom d a b g m s
  | .atomk d a b g m => Sys2Proof.Machine.execAtomk d a b g m s
  | .red d a b g m => Sys2Proof.Machine.execRed d a b g m s
  | .cas d a b g m => Sys2Proof.Machine.execCas d a b g m s
  | .invl1 g => Sys2Proof.Machine.execInvl1 g s
  | .invl1Line a g => Sys2Proof.Machine.execInvl1Line a g s
  | .pref a b g m => Sys2Proof.Machine.execPref a b g m s
  | .recld a b g m => Sys2Proof.Machine.execRecld a b g m s
  | .pin d a g m => Sys2Proof.Machine.execPin d a g m s
  | .unpin d a g m => Sys2Proof.Machine.execUnpin d a g m s
  | .cctr d a g m => Sys2Proof.Machine.execCctr d a g m s
  | .stpart d a g m => Sys2Proof.Machine.execStpart d a g m s
  | .kvapp a g m => Sys2Proof.Machine.execKvapp a g m s
  | .kvfork d a g m => Sys2Proof.Machine.execKvfork d a g m s
  | .kvfree a g m => Sys2Proof.Machine.execKvfree a g m s
  | .kvhm d a g m => Sys2Proof.Machine.execKvhm d a g m s
  | .assay d a g m => Sys2Proof.Machine.execAssay d a g m s
  | .gread d a g m => Sys2Proof.Machine.execGread d a g m s
  | .gupd d a b g m => Sys2Proof.Machine.execGupd d a b g m s
  | .gcinch d a g m => Sys2Proof.Machine.execGcinch d a g m s
  | .gclose a b g m => Sys2Proof.Machine.execGclose a b g m s
  | .gmount d a b g m => Sys2Proof.Machine.execGmount d a b g m s
  | .gdismt d a g m => Sys2Proof.Machine.execGdismt d a g m s
  | .gfence scope => Sys2Proof.Machine.execGfence scope s
  | .mmab d a b m => Sys2Proof.Machine.execMmab d a b m s
  | .mmah d a b m => Sys2Proof.Machine.execMmah d a b m s
  | .mmai8 d a b m => Sys2Proof.Machine.execMmai8 d a b m s
  | .mmai84 d a b m => Sys2Proof.Machine.execMmai84 d a b m s
  | .mmai4 d a b m => Sys2Proof.Machine.execMmai4 d a b m s
  | .aclr d => Sys2Proof.Machine.execAclr d s
  | .aload d a m => Sys2Proof.Machine.execAload d a m s
  | .astore d a b m => Sys2Proof.Machine.execAstore d a b m s
  | .arowmx d a b => Sys2Proof.Machine.execArowmx d a b s
  | .aexpb d a b push => Sys2Proof.Machine.execAexpb d a b push s
  | .ashift d b => Sys2Proof.Machine.execAshift d b s
  | .arowsm d a b => Sys2Proof.Machine.execArowsm d a b s
  | .qpush d a => Sys2Proof.Machine.execQpush d a s
  | .qpop d a b m => Sys2Proof.Machine.execQpop d a b m s
  | .qstat d a => Sys2Proof.Machine.execQstat d a s
  | .qstatFeed d a b => Sys2Proof.Machine.execQstatFeed d a b s
  | .cpy a m => Sys2Proof.Machine.execCpy a m s
  | .cpym a m => Sys2Proof.Machine.execCpym a m s
  | .cpyq a m => Sys2Proof.Machine.execCpyq a m s
  | .cpyix a m => Sys2Proof.Machine.execCpyix a m s
  | .smelt a m => Sys2Proof.Machine.execSmelt a m s
  | .cpys a m => Sys2Proof.Machine.execCpys a m s
  | .txpose a m => Sys2Proof.Machine.execTxpose a m s
  | .tdmk d a m => Sys2Proof.Machine.execTdmk d a m s
  | .tdfree a => Sys2Proof.Machine.execTdfree a s
  | .fend => Sys2Proof.Machine.execFend s
  | .clauseHeader wait seta setb len => Sys2Proof.Machine.execClauseHeader wait seta setb len s
  | .issueSelect core qtr => Sys2Proof.Machine.execIssueSelect core qtr s
  | .binAged n => Sys2Proof.Machine.execBinAged n s
  | .binOverdue n => Sys2Proof.Machine.execBinOverdue n s
  | .barResume blk id cluster => Sys2Proof.Machine.execBarResume blk id cluster s
  | .lbarReleaseWindow l => Sys2Proof.Machine.execLbarReleaseWindow l s
  | .yieldExpire n => Sys2Proof.Machine.execYieldExpire n s
  | .waitcmpPoll n => Sys2Proof.Machine.execWaitcmpPoll n s
  | .wqExecute => Sys2Proof.Machine.execWqExecute s
  | .cancelArrive => Sys2Proof.Machine.execCancelArrive s
  | .cancelStop blk => Sys2Proof.Machine.execCancelStop blk s
  | .resultLand n => Sys2Proof.Machine.execResultLand n s
  | .storeBufferLeave n => Sys2Proof.Machine.execStoreBufferLeave n s
  | .storeAck n => Sys2Proof.Machine.execStoreAck n s
  | .fencerVisit n => Sys2Proof.Machine.execFencerVisit n s
  | .engineWriteLand n => Sys2Proof.Machine.execEngineWriteLand n s
  | .panelLand n => Sys2Proof.Machine.execPanelLand n s
  | .engineComplete n => Sys2Proof.Machine.execEngineComplete n s
  | .placeBlock => Sys2Proof.Machine.execPlaceBlock s
  | .crewStart blk => Sys2Proof.Machine.execCrewStart blk s
  | .blockComplete blk => Sys2Proof.Machine.execBlockComplete blk s
  | .levelComplete kind n => Sys2Proof.Machine.execLevelComplete kind n s
  | .cxlSnoop line => Sys2Proof.Machine.execCxlSnoop line s
  | .tailReread q => Sys2Proof.Machine.execTailReread q s
  | .recordTake q => Sys2Proof.Machine.execRecordTake q s
  | .launchRelease l => Sys2Proof.Machine.execLaunchRelease l s
  | .segmentClear l => Sys2Proof.Machine.execSegmentClear l s
  | .launchBlocking l => Sys2Proof.Machine.execLaunchBlocking l s
  | .preempt blk => Sys2Proof.Machine.execPreempt blk s
  | .swapOut blk => Sys2Proof.Machine.execSwapOut blk s
  | .swapSaveDone blk => Sys2Proof.Machine.execSwapSaveDone blk s
  | .swapRestore blk core => Sys2Proof.Machine.execSwapRestore blk core s
  | .faultEntryWrite n => Sys2Proof.Machine.execFaultEntryWrite n s
  | .watchdog rc => Sys2Proof.Machine.execWatchdog rc s
  | .sliceServe sl => Sys2Proof.Machine.execSliceServe sl s
  | .mscFill n => Sys2Proof.Machine.execMscFill n s
  | .writebackSend sl => Sys2Proof.Machine.execWritebackSend sl s
  | .writebackFree sl => Sys2Proof.Machine.execWritebackFree sl s
  | .maskApply sl => Sys2Proof.Machine.execMaskApply sl s
  | .contractDecide => Sys2Proof.Machine.execContractDecide s
  | .contractComplete n => Sys2Proof.Machine.execContractComplete n s
  | .pinLineCopy p sl => Sys2Proof.Machine.execPinLineCopy p sl s
  | .pinDrainStart p sl => Sys2Proof.Machine.execPinDrainStart p sl s
  | .pinLineWriteback p sl => Sys2Proof.Machine.execPinLineWriteback p sl s
  | .pinLineWritten p sl => Sys2Proof.Machine.execPinLineWritten p sl s
  | .stpartApply n => Sys2Proof.Machine.execStpartApply n s
  | .linkWindowEnd link => Sys2Proof.Machine.execLinkWindowEnd link s
  | .linkWiden link => Sys2Proof.Machine.execLinkWiden link s
  | .linkRenegotiationEnd link => Sys2Proof.Machine.execLinkRenegotiationEnd link s
  | .hmapWrite r v => Sys2Proof.Machine.execHmapWrite r v s
  | .hmapTakeEffect r => Sys2Proof.Machine.execHmapTakeEffect r s
  | .walkLevelRead n => Sys2Proof.Machine.execWalkLevelRead n s
  | .kvCountTest n => Sys2Proof.Machine.execKvCountTest n s
  | .kvappPerform n => Sys2Proof.Machine.execKvappPerform n s
  | .pageEvictDone ctx page => Sys2Proof.Machine.execPageEvictDone ctx page s
  | .pageInstallDone ctx page => Sys2Proof.Machine.execPageInstallDone ctx page s
  | .kvPageOp n => Sys2Proof.Machine.execKvPageOp n s
  | .heatDecay => Sys2Proof.Machine.execHeatDecay s
  | .girthPassage stop slot => Sys2Proof.Machine.execGirthPassage stop slot s
  | .holdEnd slot => Sys2Proof.Machine.execHoldEnd slot s
  | .reservationExpire slot => Sys2Proof.Machine.execReservationExpire slot s
  | .compareSignatures p => Sys2Proof.Machine.execCompareSignatures p s
  | .rollbackRestoreDone p => Sys2Proof.Machine.execRollbackRestoreDone p s
  | .slceccWrite sl v => Sys2Proof.Machine.execSlceccWrite sl v s
  | .reencodeLine sl => Sys2Proof.Machine.execReencodeLine sl s
  | .sweepLine sl => Sys2Proof.Machine.execSweepLine sl s
  | .sweepForce sl => Sys2Proof.Machine.execSweepForce sl s
  | .sliceEvacuate sl => Sys2Proof.Machine.execSliceEvacuate sl s
  | .evacLineMove sl => Sys2Proof.Machine.execEvacLineMove sl s
  | .hbmRowRepair row => Sys2Proof.Machine.execHbmRowRepair row s
  | .slcinjWrite sl which v => Sys2Proof.Machine.execSlcinjWrite sl which v s
  | .yokeWindowEnd pair iu il => Sys2Proof.Machine.execYokeWindowEnd pair iu il s
  | .budgetIntervalStart cl => Sys2Proof.Machine.execBudgetIntervalStart cl s
  | .clusterPortCharge n => Sys2Proof.Machine.execClusterPortCharge n s
  | .energyCharge blk amount => Sys2Proof.Machine.execEnergyCharge blk amount s
  | .quotaRefill ctx => Sys2Proof.Machine.execQuotaRefill ctx s
  | .eqcfgWrite ctx v => Sys2Proof.Machine.execEqcfgWrite ctx v s
  | .feataccWrite v => Sys2Proof.Machine.execFeataccWrite v s
  | .creadWrite q v => Sys2Proof.Machine.execCreadWrite q v s
  | .fqreadWrite ctx v => Sys2Proof.Machine.execFqreadWrite ctx v s
  | .registerWrite r v => Sys2Proof.Machine.execRegisterWrite r v s
  | .shootdown ctx base len => Sys2Proof.Machine.execShootdown ctx base len s
  | .faultResume ctx seq => Sys2Proof.Machine.execFaultResume ctx seq s
  | .faultSkip ctx seq => Sys2Proof.Machine.execFaultSkip ctx seq s
  | .faultKill ctx seq => Sys2Proof.Machine.execFaultKill ctx seq s
  | .faultCancel ctx seq level id => Sys2Proof.Machine.execFaultCancel ctx seq level id s
  | .repairSpareCore core => Sys2Proof.Machine.execRepairSpareCore core s
  | .repairClusterDrain cl => Sys2Proof.Machine.execRepairClusterDrain cl s
  | .repairClusterReturn cl => Sys2Proof.Machine.execRepairClusterReturn cl s
  | .repairSpareSlice sl => Sys2Proof.Machine.execRepairSpareSlice sl s
  | .repairHbmPageRetire pa => Sys2Proof.Machine.execRepairHbmPageRetire pa s
  | .resctr ctx pa => Sys2Proof.Machine.execResctr ctx pa s
  | .resend ctx => Sys2Proof.Machine.execResend ctx s
  | .ctxend ctx => Sys2Proof.Machine.execCtxend ctx s
  | .commandUnknown op => Sys2Proof.Machine.execCommandUnknown op s
  | .commandComplete => Sys2Proof.Machine.execCommandComplete s
  | .dbgResume => Sys2Proof.Machine.execDbgResume s
  | .dbgStep => Sys2Proof.Machine.execDbgStep s
  | .dbgKill => Sys2Proof.Machine.execDbgKill s
  | .dbgsel0Write v => Sys2Proof.Machine.execDbgsel0Write v s
  | .dbgStateWrite off v => Sys2Proof.Machine.execDbgStateWrite off v s
  | .hostMemAccess port addr data write => Sys2Proof.Machine.execHostMemAccess port addr data write s
  | .linkRetrain port => Sys2Proof.Machine.execLinkRetrain port s
  | .firmwareUpdate svn image => Sys2Proof.Machine.execFirmwareUpdate svn image s
  | .spdmRequest port msg => Sys2Proof.Machine.execSpdmRequest port msg s
  | .packageReset => Sys2Proof.Machine.execPackageReset s
  | .swapRestoreDone blk => Sys2Proof.Machine.execSwapRestoreDone blk s
  | .checkpointDone p => Sys2Proof.Machine.execCheckpointDone p s
  | .linkUp port => Sys2Proof.Machine.execLinkUp port s
  | .logReadIndexWrite die log v => Sys2Proof.Machine.execLogReadIndexWrite die log v s

end Sys2Proof.Machine
end

