-- ==== Sys2Proof/Machine/Schedule.lean ====
section
/-!
DEFINITION. The default schedule (log 1): which event moves next when none is due and no bundle issues. The manual orders the units of
the package by time alone; the schedule takes the pending work class by class, in turn.
-/
namespace Sys2Proof.Machine

/-! ## Pending work -/

/-- Quarters (and, as quarter 4, AAEs) of cores where threads may issue. -/
def State.workIssue (s : State) : List Instr :=
  let us := (s.sch.bundles.filter fun u => u.wait.unissued && (s.block u.blk).onCore).map fun u => ((s.block u.blk).core, if u.feed then 4 else crewQtr u.crew)
  let ns := (s.sch.bins.filter fun n => n.core < 384).map fun n => (n.core, n.qtr)
  (dedup (us ++ ns)).map fun e => .issueSelect e.1 e.2

/-- Operations that may land. -/
def State.workLand (s : State) : List Instr :=
  (s.pipe.pends.filter fun p => p.parts == 0 && p.mirror.isNone && p.plan != .kvtest && p.plan != .refill).map fun p => .resultLand p.id

/-- Engines: the next thing that each does. -/
def State.workEngines (s : State) : List Instr :=
  s.sp.engines.flatMap fun e =>
    let m := match e.moves with
      | .kvWrite _ _ _ _ _ _ :: _ => [Instr.kvappPerform e.id]
      | _ :: _ => [.engineWriteLand e.id]
      | [] => if e.assay.isSome then [.engineWriteLand e.id] else []
    let p := if e.panels.any fun p => p.entry.isSome then [Instr.panelLand e.id] else []
    if e.moves.isEmpty && e.assay.isNone && e.panels.isEmpty then [.engineComplete e.id] else m ++ p

/-- Events of the girth with their cycles: passages for pending operations, ends of holds and of reservations. -/
def State.timedGirth (s : State) : List (Nat × Instr) :=
  s.comingPassages.map fun e =>
    let h := s.slotHdr e.2.1
    (e.2.2, if h.hold.any fun x => x.1 == e.1 && x.2.2.2 == e.2.2 then .holdEnd e.2.1
      else if h.rsv.any fun r => r.1 == e.1 && r.2 == e.2.2 then .reservationExpire e.2.1 else .girthPassage e.1 e.2.1)

/-- Waits that end with a cycle. -/
def State.timedWaits (s : State) : List (Nat × Instr) :=
  ((List.range s.sch.bundles.length).zip s.sch.bundles).filterMap fun e => match e.2.wait with
    | .yielded c => some (c, .yieldExpire e.1)
    | .bar id cl (some c) => some (c, .barResume e.2.blk id cl)
    | _ => none

/-- What the dispatcher does at a cycle of its own. -/
def State.timedDispatch (s : State) : List (Nat × Instr) :=
  (s.disp.launches.flatMap fun l =>
    (if l.st == .released || ((l.st == .ended || s.launchOver l) && l.segState == 1) then [(revolutionFrom l.clearFrom, Instr.segmentClear l.uid)] else []) ++
    if s.hasUnplaced l && !l.blocking && (s.fitOf l).isNone then [(l.waitFrom + 65536, .launchBlocking l.uid)] else []) ++
  ((s.disp.blocks.filter fun x => x.st == .placed).map fun x => (x.placedAt + 128, Instr.crewStart x.id)) ++
  (s.host.ctxs.filter fun e => e.2.eqnext != 0).map fun e => (e.2.eqnext, Instr.quotaRefill e.1)

/-- Watchdogs that count: contexts that still have a bundle or a thread on file. -/
def State.timedWatch (s : State) : List (Nat × Instr) :=
  (s.disp.blocks.filter fun x => x.st.watched && !s.watchStops x.id).flatMap fun x =>
    ((feedCrew :: s.crewList x.id).filter fun c => !s.halted x.id c (c == feedCrew) &&
      ((s.sch.bundles.any fun u => u.blk == x.id && u.crews.contains c) || s.sch.bins.any fun n => n.blk == x.id && !(n.threadsOf c).isEmpty)).map fun c =>
        (s.watchDue x.id c, Instr.watchdog (crewKey x.id c))

/-- The events that come at a cycle, earliest first. -/
def State.timed (s : State) : List (Nat × Instr) :=
  sortBy (fun (e : Nat × Instr) => e.1) (s.timedGirth ++ s.timedWaits ++ s.timedDispatch ++ s.timedWatch)

/-- Windows of n cycles that have ended since the schedule last looked. -/
def State.ended (s : State) (n : Nat) : Nat := s.now / n - s.clk.seen / n

/-- The windows of link occupancy that have ended since (R79). -/
def State.windowEnds (s : State) : List Instr := if 0 < s.ended 4096 then s.idleLinks.map Instr.linkWindowEnd else []

/-- What is measured at the ends of 1,024-cycle windows takes effect: energy is charged and the yokes choose their levels (R352, R359). -/
def State.closeWindows (s : State) : State := if s.ended 1024 = 0 then s else s.chargeBlocks.closeYokes

/-- What the dispatcher may do. -/
def State.workDispatch (s : State) : List Instr :=
  (s.disp.queues.flatMap fun e =>
    (if s.watches e.1 && !e.2.shared then [Instr.tailReread e.1] else []) ++ if s.mayTake e.1 then [.recordTake e.1] else []) ++
  (s.disp.launches.flatMap fun l =>
    (if l.st == .waiting && !l.stopped then [Instr.launchRelease l.uid] else []) ++
    (if l.lbarOrder.isEmpty then [] else [.lbarReleaseWindow l.uid]) ++
    if s.launchOver l then [.levelComplete 0 l.uid] else []) ++
  (s.disp.levels.filter fun v => v.isOver).map (fun v => Instr.levelComplete v.kind (v.ctx * 2 ^ 32 + v.id)) ++
  (if s.disp.launches.any s.hasUnplaced then [.placeBlock] else []) ++
  (s.host.stores.map fun e => .cxlSnoop e.1) ++ (if s.disp.wq.isEmpty then [] else [.wqExecute]) ++ if s.disp.cancels.isEmpty then [] else [.cancelArrive]

/-- What stands open for each block. -/
def State.workBlocks (s : State) : List Instr :=
  (s.disp.blocks.filter fun x => x.st != .complete).flatMap fun x =>
    (match x.st with
      | .draining => [Instr.swapOut x.id]
      | .saving => [.swapSaveDone x.id]
      | .restoring => [.swapRestoreDone x.id]
      | .swapped => if x.inPlace && s.mayResume x.id then [.swapRestore x.id x.core] else []
      | _ => []) ++
    (if (s.launch x.launch).stopped then [.cancelStop x.id] else []) ++ (if s.blockOver x.id then [.blockComplete x.id] else []) ++
    if s.yields x.id then [.swapOut x.id] else []

/-- What stands open for each pin. -/
def State.workPins (s : State) : List Instr :=
  (s.sl.pins.filter fun p => p.state != 3).flatMap fun p =>
    (dedup (p.lines.map fun l => l.2.1)).flatMap fun sl =>
      (if p.state = 0 && (p.nextLine sl).isSome then [Instr.pinLineCopy p.id sl] else []) ++
      (if p.ending && p.state != 0 && !p.started.contains sl then [.pinDrainStart p.id sl] else []) ++
      (if p.state = 2 && p.started.contains sl && (p.nextLine sl).isSome then [.pinLineWriteback p.id sl] else []) ++
      if p.sending.any fun n => p.lines.any fun l => l.1 == n && l.2.1 == sl then [.pinLineWritten p.id sl] else []

/-- What stands open at the contract sequencer and the slices. -/
def State.workSlices (s : State) : List Instr :=
  (if s.sl.seq.any fun r => !r.decided then [Instr.contractDecide] else []) ++
  (s.sl.seq.flatMap fun r => (if s.seqOver r then [Instr.contractComplete r.id] else []) ++ match r.op with
    | .stpart _ _ _ _ => if r.slices.isEmpty then [] else [.stpartApply r.id]
    | _ => []) ++
  (dedup (s.sl.maskNext.map fun e => e.1)).map Instr.maskApply ++ (s.sl.hmapNext.map fun e => Instr.hmapTakeEffect e.1) ++
  (dedup (s.sl.wbuf.map fun e => e.1)).flatMap (fun sl => [Instr.writebackSend sl, .writebackFree sl]) ++
  (s.sl.evacs.map fun v => Instr.evacLineMove v.slice) ++
  (s.sl.ecc.flatMap fun e => (if e.2.busy then [Instr.reencodeLine e.1] else []) ++
    if e.2.injs.any fun i => i.arm && !i.bus then [.sweepLine e.1] else []) ++
  s.sl.links.flatMap fun e => (if e.2.reneg.isSome then [Instr.linkRenegotiationEnd e.1] else []) ++
    if e.2.width != 0 && 4 ≤ e.2.queue && e.2.reneg.isNone then [.linkWiden e.1] else []

/-- What stands open for guarded pairs. -/
def State.workPairs (s : State) : List Instr :=
  s.grd.pairs.flatMap fun p =>
    (if p.bad || ((p.arrivalOf p.primary).isSome && (p.arrivalOf p.twin).isSome) then [Instr.compareSignatures p.primary] else []) ++
    (if p.checking then [.checkpointDone p.primary] else []) ++ if p.restoring then [.rollbackRestoreDone p.primary] else []

/-- Number of classes of pending work. -/
def workClasses : Nat := 19

/-- The pending work of a class. -/
def State.work (s : State) : Nat → List Instr
  | 0 => s.workIssue
  | 1 => s.workLand
  | 2 => (s.pipe.sbuf.filter fun e => !e.left).map fun e => .storeBufferLeave e.id
  | 3 => s.pipe.acks.map fun a => .storeAck a.id
  | 4 => s.sch.fencers.map fun f => .fencerVisit f.id
  | 5 => (s.pipe.reqs.filter fun r => !r.charged && (s.bud (coreCluster r.core)).budget != 0).map fun r => .clusterPortCharge r.id
  | 6 => (dedup (s.pipe.reqs.map fun r => r.slice)).map .sliceServe
  | 7 => s.pipe.fills.map fun f => .mscFill f.id
  | 8 => ((List.range 4).flatMap s.walking).map fun w => .walkLevelRead w.id
  | 9 => s.workEngines
  | 10 => s.kv.ops.map fun o => match o.op with
    | .test _ _ _ _ _ _ _ => .kvCountTest o.id
    | _ => .kvPageOp o.id
  | 11 => s.kv.pages.filterMap fun e => match e.2.st with
    | .evicting => some (.pageEvictDone (e.1 / 2 ^ 32) (e.1 % 2 ^ 32))
    | .installing => some (.pageInstallDone (e.1 / 2 ^ 32) (e.1 % 2 ^ 32))
    | _ => none
  | 12 => ((List.range s.pipe.mons.length).zip s.pipe.mons).filterMap fun e =>
      if e.2.armed || e.2.asked || e.2.done then none else some (.waitcmpPoll e.1)
  | 13 => s.workDispatch
  | 14 => s.workBlocks
  | 15 => (s.sch.faults.filter fun f => s.faultReady f).map fun f => .faultEntryWrite f.id
  | 16 => s.workPins ++ s.workSlices
  | 17 => s.workPairs
  | _ => if s.host.cmdRun == .idle then [] else [.commandComplete]

/-! ## The choice -/

/-- The first class of pending work from class c on; `n` classes are looked at. -/
def State.pickWork (s : State) (c i : Nat) : Nat → Option Instr
  | 0 => none
  | n + 1 =>
    let w := s.work (c % workClasses)
    match w[i % w.length]? with
    | some e => some e
    | none => s.pickWork (c + 1) i n

/-- The event that moves next: every other turn threads issue, where any may, and every fourth turn one of the events whose cycle has come;
where nothing else may move, the earliest of those that come at a cycle. -/
def State.nextWork (s : State) : Option Instr :=
  let n := s.sch.turn / 2
  let due := match s.sch.turn % 4 with
    | 1 => (s.timed.head?.filter fun (e : Nat × Instr) => e.1 ≤ s.now).map fun (e : Nat × Instr) => e.2
    | 3 => none
    | _ => s.workIssue[n % s.workIssue.length]?
  match due with
  | some e => some e
  | none => match s.pickWork (n % workClasses) (n / workClasses) workClasses with
    | some e => some e
    | none => s.timed.head?.map fun (e : Nat × Instr) => e.2

/-! ## Conditions that clear (R26) -/

/-- Would the bundle wait again for what it waits for, if it issued its instruction now? It would not where the try takes an exception, starts a
walk or an operation, fills a line, arrives at a comparison point, or waits for something else. -/
def State.stillWaits (s : State) (u : Bundle) : Bool :=
  let a := s.select u
  match fetchCur a with
  | .wait t => t.sch.nextFault == a.sch.nextFault && t.sch.agenda.length == a.sch.agenda.length && t.pipe.walks.length == a.pipe.walks.length
  | .instr i t => match exec i t with
    | .next r => r.sch.curOn && r.sch.cur.wait == u.wait && r.sch.cur.wait.unissued && r.grd == a.grd && r.pipe.walks.length == a.pipe.walks.length &&
        r.pipe.pends.length == a.pipe.pends.length && r.pipe.reqs.length == a.pipe.reqs.length &&
        r.sch.agenda.length == a.sch.agenda.length && r.pipe.shards == a.pipe.shards && r.sl.lines.length == a.sl.lines.length && r.sl.wbuf.length == a.sl.wbuf.length
    | _ => false

/-- Does a WAITING bundle of a quarter, or of the AAE, look at its condition? -/
def State.looks (s : State) (core qtr : Nat) (u : Bundle) : Bool :=
  u.wait != .ready && u.wait != .held && u.wait.unissued && (s.block u.blk).core == core && (if u.feed then 4 else crewQtr u.crew) == qtr

/-- WAITING bundles of a quarter, or of the AAE, whose condition has cleared are RUNNING again (Table 1.3). -/
def State.wake (s : State) (core qtr : Nat) : State :=
  let up := fun (u : Bundle) => if s.looks core qtr u && !s.stillWaits u then { u with wait := .ready } else u
  { s with sch := { s.sch with bundles := s.sch.bundles.map up } }

/-- An event comes about; before the issue stage picks, bundles whose condition has cleared are RUNNING again. -/
def State.execWoken (s : State) : Instr → Host.Outcome State Fault Refusal
  | .issueSelect core qtr => exec (.issueSelect core qtr) (s.wake core qtr)
  | e => exec e s

/-- What happens in a cycle in which no event is due and no bundle stands at its instruction; budget intervals start, host accesses that a port
holds go on, and windows end, beside it, and start-up goes on (R371). -/
def autoStep (s : State) : Host.Outcome State Fault Refusal :=
  let t := s.closeWindows
  let t := State.bootStep { t with sch := { t.sch with turn := t.sch.turn + 1 }, clk := { t.clk with seen := s.now } }
  let t := (s.pow.bud.map fun e => e.1).foldl State.interval t
  let t := (t.disp.launches.filter fun l => t.hasUnplaced l && !l.blocking).foldl State.fitSync t
  let t := (dedup (t.host.heldAcc.map fun a => a.port)).foldl State.serveHeld (t.due s.windowEnds)
  let t := t.hostSend t.host.out.length
  match s.nextWork with
  | some e => t.execWoken e
  | none => .next t

end Sys2Proof.Machine
end

