-- ==== Sys2Proof/Machine/Step.lean ====
section
/-!
DEFINITION. One step: a due event, or the instruction at the issuing bundle's PC, or the event that the default schedule gives
(log 1); and the placing of one instruction for the host.
-/
namespace Sys2Proof.Machine

/-- One indivisible step of the package (spec/95_what_each_step_holds.md). -/
def step (s : State) : Host.Outcome State Fault Refusal :=
  match s.sch.agenda with
  | e :: rest => tick (exec e { s with sch := { s.sch with agenda := rest } })
  | [] =>
    if s.sch.curOn then
      if s.curGated then .next s.ticked.settleHeat
      else match fetchCur s with
        | .wait t => tick (.next (s.afterFetch t))
        | .instr i t => tick (release s i (exec i t))
    else tick (autoStep s)

/-- The state whose next step fetches and runs the instruction of the words (log 9): bit 0 of `w` is bit 0 of the first word. -/
def State.withFetchWord (s : State) (nbits w : Nat) : State :=
  s.withWords (BitVec.ofNat 32 (w % 2 ^ nbits)) (BitVec.ofNat 32 (w % 2 ^ nbits / 2 ^ 32))

end Sys2Proof.Machine
end

