-- ==== Sys2Proof/Laws/Decode.lean ====
section
/-!
SUPPORT. The fields of an encoded word are what the encoder put there, and the decoder's row of each opcode.
-/
namespace Sys2Proof

/-! ## Fields of a word -/

theorem extract_high {n m : Nat} (x : BitVec n) (y : BitVec m) (i k : Nat) : (x ++ y).extractLsb' (m + i) k = x.extractLsb' i k := by
  apply BitVec.eq_of_getLsbD_eq
  intro j hj
  simp only [BitVec.getLsbD_extractLsb', BitVec.getLsbD_append]
  have : ¬ m + i + j < m := by omega
  simp [this, show m + i + j - m = i + j by omega]

theorem extract_low {n m : Nat} (x : BitVec n) (y : BitVec m) (i k : Nat) (h : i + k ≤ m) :
    (x ++ y).extractLsb' i k = y.extractLsb' i k := by
  apply BitVec.eq_of_getLsbD_eq
  intro j hj
  simp only [BitVec.getLsbD_extractLsb', BitVec.getLsbD_append]
  have : i + j < m := by omega
  simp [this]

theorem extract_all {n : Nat} (x : BitVec n) : x.extractLsb' 0 n = x := by
  apply BitVec.eq_of_getLsbD_eq
  intro j hj
  simp [hj]

theorem fop_word (op : BitVec 8) (d : BitVec 7) (a : BitVec 7) (b : BitVec 7) (g : BitVec 3) : BitVec.extractLsb' 24 8 (op ++ d ++ a ++ b ++ g) = op :=
  (extract_high _ g 21 8).trans ((extract_high _ b 14 8).trans ((extract_high _ a 7 8).trans ((extract_high _ d 0 8).trans ((extract_all op)))))
theorem fop_fR (op : BitVec 8) (d a b : Field) (g : Guard) : fop (fR op d a b g) = op := fop_word op d a b g

theorem fd_word (op : BitVec 8) (d : BitVec 7) (a : BitVec 7) (b : BitVec 7) (g : BitVec 3) : BitVec.extractLsb' 17 7 (op ++ d ++ a ++ b ++ g) = d :=
  (extract_high _ g 14 7).trans ((extract_high _ b 7 7).trans ((extract_high _ a 0 7).trans ((extract_low _ d 0 7 (by decide)).trans ((extract_all d)))))
theorem fd_fR (op : BitVec 8) (d a b : Field) (g : Guard) : fd (fR op d a b g) = d := fd_word op d a b g

theorem fa_word (op : BitVec 8) (d : BitVec 7) (a : BitVec 7) (b : BitVec 7) (g : BitVec 3) : BitVec.extractLsb' 10 7 (op ++ d ++ a ++ b ++ g) = a :=
  (extract_high _ g 7 7).trans ((extract_high _ b 0 7).trans ((extract_low _ a 0 7 (by decide)).trans ((extract_all a))))
theorem fa_fR (op : BitVec 8) (d a b : Field) (g : Guard) : fa (fR op d a b g) = a := fa_word op d a b g

theorem fb_word (op : BitVec 8) (d : BitVec 7) (a : BitVec 7) (b : BitVec 7) (g : BitVec 3) : BitVec.extractLsb' 3 7 (op ++ d ++ a ++ b ++ g) = b :=
  (extract_high _ g 0 7).trans ((extract_low _ b 0 7 (by decide)).trans ((extract_all b)))
theorem fb_fR (op : BitVec 8) (d a b : Field) (g : Guard) : fb (fR op d a b g) = b := fb_word op d a b g

theorem fg_word (op : BitVec 8) (d : BitVec 7) (a : BitVec 7) (b : BitVec 7) (g : BitVec 3) : BitVec.extractLsb' 0 3 (op ++ d ++ a ++ b ++ g) = g :=
  (extract_low _ g 0 3 (by decide)).trans ((extract_all g))
theorem fg_fR (op : BitVec 8) (d a b : Field) (g : Guard) : fg (fR op d a b g) = g := fg_word op d a b g

theorem fop_wordW (op : BitVec 8) (d : BitVec 7) (i : BitVec 14) (g : BitVec 3) : BitVec.extractLsb' 24 8 (op ++ d ++ i ++ g) = op :=
  (extract_high _ g 21 8).trans ((extract_high _ i 7 8).trans ((extract_high _ d 0 8).trans ((extract_all op))))
theorem fop_fW (op : BitVec 8) (d : Field) (i : BitVec 14) (g : Guard) : fop (fW op d i g) = op := fop_wordW op d i g

theorem fd_wordW (op : BitVec 8) (d : BitVec 7) (i : BitVec 14) (g : BitVec 3) : BitVec.extractLsb' 17 7 (op ++ d ++ i ++ g) = d :=
  (extract_high _ g 14 7).trans ((extract_high _ i 0 7).trans ((extract_low _ d 0 7 (by decide)).trans ((extract_all d))))
theorem fd_fW (op : BitVec 8) (d : Field) (i : BitVec 14) (g : Guard) : fd (fW op d i g) = d := fd_wordW op d i g

theorem fi_wordW (op : BitVec 8) (d : BitVec 7) (i : BitVec 14) (g : BitVec 3) : BitVec.extractLsb' 3 14 (op ++ d ++ i ++ g) = i :=
  (extract_high _ g 0 14).trans ((extract_low _ i 0 14 (by decide)).trans ((extract_all i)))
theorem fi_fW (op : BitVec 8) (d : Field) (i : BitVec 14) (g : Guard) : fi (fW op d i g) = i := fi_wordW op d i g

theorem fg_wordW (op : BitVec 8) (d : BitVec 7) (i : BitVec 14) (g : BitVec 3) : BitVec.extractLsb' 0 3 (op ++ d ++ i ++ g) = g :=
  (extract_low _ g 0 3 (by decide)).trans ((extract_all g))
theorem fg_fW (op : BitVec 8) (d : Field) (i : BitVec 14) (g : Guard) : fg (fW op d i g) = g := fg_wordW op d i g

theorem header_op (op : BitVec 8) (wait : BitVec 12) (seta : BitVec 4) (setb : BitVec 4) (len : BitVec 4) : BitVec.extractLsb' 24 8 (op ++ wait ++ seta ++ setb ++ len) = op :=
  (extract_high _ len 20 8).trans ((extract_high _ setb 16 8).trans ((extract_high _ seta 12 8).trans ((extract_high _ wait 0 8).trans ((extract_all op)))))
theorem header_wait (op : BitVec 8) (wait : BitVec 12) (seta : BitVec 4) (setb : BitVec 4) (len : BitVec 4) : BitVec.extractLsb' 12 12 (op ++ wait ++ seta ++ setb ++ len) = wait :=
  (extract_high _ len 8 12).trans ((extract_high _ setb 4 12).trans ((extract_high _ seta 0 12).trans ((extract_low _ wait 0 12 (by decide)).trans ((extract_all wait)))))
theorem header_seta (op : BitVec 8) (wait : BitVec 12) (seta : BitVec 4) (setb : BitVec 4) (len : BitVec 4) : BitVec.extractLsb' 8 4 (op ++ wait ++ seta ++ setb ++ len) = seta :=
  (extract_high _ len 4 4).trans ((extract_high _ setb 0 4).trans ((extract_low _ seta 0 4 (by decide)).trans ((extract_all seta))))
theorem header_setb (op : BitVec 8) (wait : BitVec 12) (seta : BitVec 4) (setb : BitVec 4) (len : BitVec 4) : BitVec.extractLsb' 4 4 (op ++ wait ++ seta ++ setb ++ len) = setb :=
  (extract_high _ len 0 4).trans ((extract_low _ setb 0 4 (by decide)).trans ((extract_all setb)))
theorem header_len (op : BitVec 8) (wait : BitVec 12) (seta : BitVec 4) (setb : BitVec 4) (len : BitVec 4) : BitVec.extractLsb' 0 4 (op ++ wait ++ seta ++ setb ++ len) = len :=
  (extract_low _ len 0 4 (by decide)).trans ((extract_all len))

/-! ## Modifier words -/

theorem mem_recNo (recNo : BitVec 6) (pol : BitVec 6) (wid : BitVec 4) (off : BitVec 16) : BitVec.extractLsb' 26 6 (recNo ++ pol ++ wid ++ off) = recNo :=
  (extract_high _ off 10 6).trans ((extract_high _ wid 6 6).trans ((extract_high _ pol 0 6).trans ((extract_all recNo))))
theorem mem_pol (recNo : BitVec 6) (pol : BitVec 6) (wid : BitVec 4) (off : BitVec 16) : BitVec.extractLsb' 20 6 (recNo ++ pol ++ wid ++ off) = pol :=
  (extract_high _ off 4 6).trans ((extract_high _ wid 0 6).trans ((extract_low _ pol 0 6 (by decide)).trans ((extract_all pol))))
theorem mem_wid (recNo : BitVec 6) (pol : BitVec 6) (wid : BitVec 4) (off : BitVec 16) : BitVec.extractLsb' 16 4 (recNo ++ pol ++ wid ++ off) = wid :=
  (extract_high _ off 0 4).trans ((extract_low _ wid 0 4 (by decide)).trans ((extract_all wid)))
theorem mem_off (recNo : BitVec 6) (pol : BitVec 6) (wid : BitVec 4) (off : BitVec 16) : BitVec.extractLsb' 0 16 (recNo ++ pol ++ wid ++ off) = off :=
  (extract_low _ off 0 16 (by decide)).trans ((extract_all off))
theorem decMem_encMem (m : MemMod) : decMem (encMem m) = m := by
  cases m
  simp only [decMem, encMem, mem_recNo, mem_pol, mem_wid, mem_off]

theorem crew_opc (opc : BitVec 5) (some : BitVec 1) (mkReg : BitVec 6) (type : BitVec 4) (z0 : BitVec 9) (imm : BitVec 7) : BitVec.extractLsb' 27 5 (opc ++ some ++ mkReg ++ type ++ z0 ++ imm) = opc :=
  (extract_high _ imm 20 5).trans ((extract_high _ z0 11 5).trans ((extract_high _ type 7 5).trans ((extract_high _ mkReg 1 5).trans ((extract_high _ some 0 5).trans ((extract_all opc))))))
theorem crew_some (opc : BitVec 5) (some : BitVec 1) (mkReg : BitVec 6) (type : BitVec 4) (z0 : BitVec 9) (imm : BitVec 7) : BitVec.extractLsb' 26 1 (opc ++ some ++ mkReg ++ type ++ z0 ++ imm) = some :=
  (extract_high _ imm 19 1).trans ((extract_high _ z0 10 1).trans ((extract_high _ type 6 1).trans ((extract_high _ mkReg 0 1).trans ((extract_low _ some 0 1 (by decide)).trans ((extract_all some))))))
theorem crew_mkReg (opc : BitVec 5) (some : BitVec 1) (mkReg : BitVec 6) (type : BitVec 4) (z0 : BitVec 9) (imm : BitVec 7) : BitVec.extractLsb' 20 6 (opc ++ some ++ mkReg ++ type ++ z0 ++ imm) = mkReg :=
  (extract_high _ imm 13 6).trans ((extract_high _ z0 4 6).trans ((extract_high _ type 0 6).trans ((extract_low _ mkReg 0 6 (by decide)).trans ((extract_all mkReg)))))
theorem crew_type (opc : BitVec 5) (some : BitVec 1) (mkReg : BitVec 6) (type : BitVec 4) (z0 : BitVec 9) (imm : BitVec 7) : BitVec.extractLsb' 16 4 (opc ++ some ++ mkReg ++ type ++ z0 ++ imm) = type :=
  (extract_high _ imm 9 4).trans ((extract_high _ z0 0 4).trans ((extract_low _ type 0 4 (by decide)).trans ((extract_all type))))
theorem crew_z0 (opc : BitVec 5) (some : BitVec 1) (mkReg : BitVec 6) (type : BitVec 4) (z0 : BitVec 9) (imm : BitVec 7) : BitVec.extractLsb' 7 9 (opc ++ some ++ mkReg ++ type ++ z0 ++ imm) = z0 :=
  (extract_high _ imm 0 9).trans ((extract_low _ z0 0 9 (by decide)).trans ((extract_all z0)))
theorem crew_imm (opc : BitVec 5) (some : BitVec 1) (mkReg : BitVec 6) (type : BitVec 4) (z0 : BitVec 9) (imm : BitVec 7) : BitVec.extractLsb' 0 7 (opc ++ some ++ mkReg ++ type ++ z0 ++ imm) = imm :=
  (extract_low _ imm 0 7 (by decide)).trans ((extract_all imm))
theorem decCrew_encCrew (m : CrewMod) : decCrew (encCrew m) = m := by
  cases m
  simp only [decCrew, encCrew, crew_opc, crew_some, crew_mkReg, crew_type, crew_imm]

theorem crewRsv_encCrew (m : CrewMod) : crewRsv (encCrew m) = 0 := by
  simp only [crewRsv, encCrew, crew_z0]

theorem contract_z0 (z0 : BitVec 28) (kind : BitVec 1) (life : BitVec 3) : BitVec.extractLsb' 4 28 (z0 ++ kind ++ life) = z0 :=
  (extract_high _ life 1 28).trans ((extract_high _ kind 0 28).trans ((extract_all z0)))
theorem contract_kind (z0 : BitVec 28) (kind : BitVec 1) (life : BitVec 3) : BitVec.extractLsb' 3 1 (z0 ++ kind ++ life) = kind :=
  (extract_high _ life 0 1).trans ((extract_low _ kind 0 1 (by decide)).trans ((extract_all kind)))
theorem contract_life (z0 : BitVec 28) (kind : BitVec 1) (life : BitVec 3) : BitVec.extractLsb' 0 3 (z0 ++ kind ++ life) = life :=
  (extract_low _ life 0 3 (by decide)).trans ((extract_all life))
theorem decContract_encContract (m : ContractMod) : decContract (encContract m) = m := by
  cases m
  simp only [decContract, encContract, contract_kind, contract_life]

theorem contractRsv_encContract (m : ContractMod) : contractRsv (encContract m) = 0 := by
  simp only [contractRsv, encContract, contract_z0]

theorem kv_vr (vr : BitVec 6) (mode : BitVec 1) (z0 : BitVec 23) (qd : BitVec 2) : BitVec.extractLsb' 26 6 (vr ++ mode ++ z0 ++ qd) = vr :=
  (extract_high _ qd 24 6).trans ((extract_high _ z0 1 6).trans ((extract_high _ mode 0 6).trans ((extract_all vr))))
theorem kv_mode (vr : BitVec 6) (mode : BitVec 1) (z0 : BitVec 23) (qd : BitVec 2) : BitVec.extractLsb' 25 1 (vr ++ mode ++ z0 ++ qd) = mode :=
  (extract_high _ qd 23 1).trans ((extract_high _ z0 0 1).trans ((extract_low _ mode 0 1 (by decide)).trans ((extract_all mode))))
theorem kv_z0 (vr : BitVec 6) (mode : BitVec 1) (z0 : BitVec 23) (qd : BitVec 2) : BitVec.extractLsb' 2 23 (vr ++ mode ++ z0 ++ qd) = z0 :=
  (extract_high _ qd 0 23).trans ((extract_low _ z0 0 23 (by decide)).trans ((extract_all z0)))
theorem kv_qd (vr : BitVec 6) (mode : BitVec 1) (z0 : BitVec 23) (qd : BitVec 2) : BitVec.extractLsb' 0 2 (vr ++ mode ++ z0 ++ qd) = qd :=
  (extract_low _ qd 0 2 (by decide)).trans ((extract_all qd))
theorem decKv_encKv (m : KvMod) : decKv (encKv m) = m := by
  cases m
  simp only [decKv, encKv, kv_vr, kv_mode, kv_qd]

theorem kvRsv_encKv (m : KvMod) : kvRsv (encKv m) = 0 := by
  simp only [kvRsv, encKv, kv_z0]

theorem girth_op (op : BitVec 4) (w64 : BitVec 1) (word : BitVec 4) (pen : BitVec 1) (qd : BitVec 2) (z0 : BitVec 20) : BitVec.extractLsb' 28 4 (op ++ w64 ++ word ++ pen ++ qd ++ z0) = op :=
  (extract_high _ z0 8 4).trans ((extract_high _ qd 6 4).trans ((extract_high _ pen 5 4).trans ((extract_high _ word 1 4).trans ((extract_high _ w64 0 4).trans ((extract_all op))))))
theorem girth_w64 (op : BitVec 4) (w64 : BitVec 1) (word : BitVec 4) (pen : BitVec 1) (qd : BitVec 2) (z0 : BitVec 20) : BitVec.extractLsb' 27 1 (op ++ w64 ++ word ++ pen ++ qd ++ z0) = w64 :=
  (extract_high _ z0 7 1).trans ((extract_high _ qd 5 1).trans ((extract_high _ pen 4 1).trans ((extract_high _ word 0 1).trans ((extract_low _ w64 0 1 (by decide)).trans ((extract_all w64))))))
theorem girth_word (op : BitVec 4) (w64 : BitVec 1) (word : BitVec 4) (pen : BitVec 1) (qd : BitVec 2) (z0 : BitVec 20) : BitVec.extractLsb' 23 4 (op ++ w64 ++ word ++ pen ++ qd ++ z0) = word :=
  (extract_high _ z0 3 4).trans ((extract_high _ qd 1 4).trans ((extract_high _ pen 0 4).trans ((extract_low _ word 0 4 (by decide)).trans ((extract_all word)))))
theorem girth_pen (op : BitVec 4) (w64 : BitVec 1) (word : BitVec 4) (pen : BitVec 1) (qd : BitVec 2) (z0 : BitVec 20) : BitVec.extractLsb' 22 1 (op ++ w64 ++ word ++ pen ++ qd ++ z0) = pen :=
  (extract_high _ z0 2 1).trans ((extract_high _ qd 0 1).trans ((extract_low _ pen 0 1 (by decide)).trans ((extract_all pen))))
theorem girth_qd (op : BitVec 4) (w64 : BitVec 1) (word : BitVec 4) (pen : BitVec 1) (qd : BitVec 2) (z0 : BitVec 20) : BitVec.extractLsb' 20 2 (op ++ w64 ++ word ++ pen ++ qd ++ z0) = qd :=
  (extract_high _ z0 0 2).trans ((extract_low _ qd 0 2 (by decide)).trans ((extract_all qd)))
theorem girth_z0 (op : BitVec 4) (w64 : BitVec 1) (word : BitVec 4) (pen : BitVec 1) (qd : BitVec 2) (z0 : BitVec 20) : BitVec.extractLsb' 0 20 (op ++ w64 ++ word ++ pen ++ qd ++ z0) = z0 :=
  (extract_low _ z0 0 20 (by decide)).trans ((extract_all z0))
theorem decGirth_encGirth (m : GirthMod) : decGirth (encGirth m) = m := by
  cases m
  simp only [decGirth, encGirth, girth_op, girth_w64, girth_word, girth_pen, girth_qd]

theorem girthRsv_encGirth (m : GirthMod) : girthRsv (encGirth m) = 0 := by
  simp only [girthRsv, encGirth, girth_z0]

theorem mma_pm1 (pm1 : BitVec 6) (vc : BitVec 6) (vce : BitVec 1) (ka : BitVec 1) (kb : BitVec 1) (gs : BitVec 2) (sel : BitVec 2) (sr : BitVec 6) (z0 : BitVec 7) : BitVec.extractLsb' 26 6 (pm1 ++ vc ++ vce ++ ka ++ kb ++ gs ++ sel ++ sr ++ z0) = pm1 :=
  (extract_high _ z0 19 6).trans ((extract_high _ sr 13 6).trans ((extract_high _ sel 11 6).trans ((extract_high _ gs 9 6).trans ((extract_high _ kb 8 6).trans ((extract_high _ ka 7 6).trans ((extract_high _ vce 6 6).trans ((extract_high _ vc 0 6).trans ((extract_all pm1)))))))))
theorem mma_vc (pm1 : BitVec 6) (vc : BitVec 6) (vce : BitVec 1) (ka : BitVec 1) (kb : BitVec 1) (gs : BitVec 2) (sel : BitVec 2) (sr : BitVec 6) (z0 : BitVec 7) : BitVec.extractLsb' 20 6 (pm1 ++ vc ++ vce ++ ka ++ kb ++ gs ++ sel ++ sr ++ z0) = vc :=
  (extract_high _ z0 13 6).trans ((extract_high _ sr 7 6).trans ((extract_high _ sel 5 6).trans ((extract_high _ gs 3 6).trans ((extract_high _ kb 2 6).trans ((extract_high _ ka 1 6).trans ((extract_high _ vce 0 6).trans ((extract_low _ vc 0 6 (by decide)).trans ((extract_all vc)))))))))
theorem mma_vce (pm1 : BitVec 6) (vc : BitVec 6) (vce : BitVec 1) (ka : BitVec 1) (kb : BitVec 1) (gs : BitVec 2) (sel : BitVec 2) (sr : BitVec 6) (z0 : BitVec 7) : BitVec.extractLsb' 19 1 (pm1 ++ vc ++ vce ++ ka ++ kb ++ gs ++ sel ++ sr ++ z0) = vce :=
  (extract_high _ z0 12 1).trans ((extract_high _ sr 6 1).trans ((extract_high _ sel 4 1).trans ((extract_high _ gs 2 1).trans ((extract_high _ kb 1 1).trans ((extract_high _ ka 0 1).trans ((extract_low _ vce 0 1 (by decide)).trans ((extract_all vce))))))))
theorem mma_ka (pm1 : BitVec 6) (vc : BitVec 6) (vce : BitVec 1) (ka : BitVec 1) (kb : BitVec 1) (gs : BitVec 2) (sel : BitVec 2) (sr : BitVec 6) (z0 : BitVec 7) : BitVec.extractLsb' 18 1 (pm1 ++ vc ++ vce ++ ka ++ kb ++ gs ++ sel ++ sr ++ z0) = ka :=
  (extract_high _ z0 11 1).trans ((extract_high _ sr 5 1).trans ((extract_high _ sel 3 1).trans ((extract_high _ gs 1 1).trans ((extract_high _ kb 0 1).trans ((extract_low _ ka 0 1 (by decide)).trans ((extract_all ka)))))))
theorem mma_kb (pm1 : BitVec 6) (vc : BitVec 6) (vce : BitVec 1) (ka : BitVec 1) (kb : BitVec 1) (gs : BitVec 2) (sel : BitVec 2) (sr : BitVec 6) (z0 : BitVec 7) : BitVec.extractLsb' 17 1 (pm1 ++ vc ++ vce ++ ka ++ kb ++ gs ++ sel ++ sr ++ z0) = kb :=
  (extract_high _ z0 10 1).trans ((extract_high _ sr 4 1).trans ((extract_high _ sel 2 1).trans ((extract_high _ gs 0 1).trans ((extract_low _ kb 0 1 (by decide)).trans ((extract_all kb))))))
theorem mma_gs (pm1 : BitVec 6) (vc : BitVec 6) (vce : BitVec 1) (ka : BitVec 1) (kb : BitVec 1) (gs : BitVec 2) (sel : BitVec 2) (sr : BitVec 6) (z0 : BitVec 7) : BitVec.extractLsb' 15 2 (pm1 ++ vc ++ vce ++ ka ++ kb ++ gs ++ sel ++ sr ++ z0) = gs :=
  (extract_high _ z0 8 2).trans ((extract_high _ sr 2 2).trans ((extract_high _ sel 0 2).trans ((extract_low _ gs 0 2 (by decide)).trans ((extract_all gs)))))
theorem mma_sel (pm1 : BitVec 6) (vc : BitVec 6) (vce : BitVec 1) (ka : BitVec 1) (kb : BitVec 1) (gs : BitVec 2) (sel : BitVec 2) (sr : BitVec 6) (z0 : BitVec 7) : BitVec.extractLsb' 13 2 (pm1 ++ vc ++ vce ++ ka ++ kb ++ gs ++ sel ++ sr ++ z0) = sel :=
  (extract_high _ z0 6 2).trans ((extract_high _ sr 0 2).trans ((extract_low _ sel 0 2 (by decide)).trans ((extract_all sel))))
theorem mma_sr (pm1 : BitVec 6) (vc : BitVec 6) (vce : BitVec 1) (ka : BitVec 1) (kb : BitVec 1) (gs : BitVec 2) (sel : BitVec 2) (sr : BitVec 6) (z0 : BitVec 7) : BitVec.extractLsb' 7 6 (pm1 ++ vc ++ vce ++ ka ++ kb ++ gs ++ sel ++ sr ++ z0) = sr :=
  (extract_high _ z0 0 6).trans ((extract_low _ sr 0 6 (by decide)).trans ((extract_all sr)))
theorem mma_z0 (pm1 : BitVec 6) (vc : BitVec 6) (vce : BitVec 1) (ka : BitVec 1) (kb : BitVec 1) (gs : BitVec 2) (sel : BitVec 2) (sr : BitVec 6) (z0 : BitVec 7) : BitVec.extractLsb' 0 7 (pm1 ++ vc ++ vce ++ ka ++ kb ++ gs ++ sel ++ sr ++ z0) = z0 :=
  (extract_low _ z0 0 7 (by decide)).trans ((extract_all z0))
theorem decMma_encMma (m : MmaMod) : decMma (encMma m) = m := by
  cases m
  simp only [decMma, encMma, mma_pm1, mma_vc, mma_vce, mma_ka, mma_kb, mma_gs, mma_sel, mma_sr]

theorem mmaRsv_encMma (m : MmaMod) : mmaRsv (encMma m) = 0 := by
  simp only [mmaRsv, encMma, mma_z0]

theorem aload_z0 (z0 : BitVec 14) (lay : BitVec 2) (fmt : BitVec 2) (z1 : BitVec 14) : BitVec.extractLsb' 18 14 (z0 ++ lay ++ fmt ++ z1) = z0 :=
  (extract_high _ z1 4 14).trans ((extract_high _ fmt 2 14).trans ((extract_high _ lay 0 14).trans ((extract_all z0))))
theorem aload_lay (z0 : BitVec 14) (lay : BitVec 2) (fmt : BitVec 2) (z1 : BitVec 14) : BitVec.extractLsb' 16 2 (z0 ++ lay ++ fmt ++ z1) = lay :=
  (extract_high _ z1 2 2).trans ((extract_high _ fmt 0 2).trans ((extract_low _ lay 0 2 (by decide)).trans ((extract_all lay))))
theorem aload_fmt (z0 : BitVec 14) (lay : BitVec 2) (fmt : BitVec 2) (z1 : BitVec 14) : BitVec.extractLsb' 14 2 (z0 ++ lay ++ fmt ++ z1) = fmt :=
  (extract_high _ z1 0 2).trans ((extract_low _ fmt 0 2 (by decide)).trans ((extract_all fmt)))
theorem aload_z1 (z0 : BitVec 14) (lay : BitVec 2) (fmt : BitVec 2) (z1 : BitVec 14) : BitVec.extractLsb' 0 14 (z0 ++ lay ++ fmt ++ z1) = z1 :=
  (extract_low _ z1 0 14 (by decide)).trans ((extract_all z1))
theorem decAload_encAload (m : AloadMod) : decAload (encAload m) = m := by
  cases m
  simp only [decAload, encAload, aload_lay, aload_fmt]

theorem aloadRsv_encAload (m : AloadMod) : aloadRsv (encAload m) = 0 := by
  simp only [aloadRsv, encAload, aload_z0, aload_z1]
  rfl

theorem astore_recNo (recNo : BitVec 6) (pol : BitVec 6) (dst : BitVec 2) (lay : BitVec 2) (fmt : BitVec 2) (rf : BitVec 1) (sc : BitVec 6) (z0 : BitVec 7) : BitVec.extractLsb' 26 6 (recNo ++ pol ++ dst ++ lay ++ fmt ++ rf ++ sc ++ z0) = recNo :=
  (extract_high _ z0 19 6).trans ((extract_high _ sc 13 6).trans ((extract_high _ rf 12 6).trans ((extract_high _ fmt 10 6).trans ((extract_high _ lay 8 6).trans ((extract_high _ dst 6 6).trans ((extract_high _ pol 0 6).trans ((extract_all recNo))))))))
theorem astore_pol (recNo : BitVec 6) (pol : BitVec 6) (dst : BitVec 2) (lay : BitVec 2) (fmt : BitVec 2) (rf : BitVec 1) (sc : BitVec 6) (z0 : BitVec 7) : BitVec.extractLsb' 20 6 (recNo ++ pol ++ dst ++ lay ++ fmt ++ rf ++ sc ++ z0) = pol :=
  (extract_high _ z0 13 6).trans ((extract_high _ sc 7 6).trans ((extract_high _ rf 6 6).trans ((extract_high _ fmt 4 6).trans ((extract_high _ lay 2 6).trans ((extract_high _ dst 0 6).trans ((extract_low _ pol 0 6 (by decide)).trans ((extract_all pol))))))))
theorem astore_dst (recNo : BitVec 6) (pol : BitVec 6) (dst : BitVec 2) (lay : BitVec 2) (fmt : BitVec 2) (rf : BitVec 1) (sc : BitVec 6) (z0 : BitVec 7) : BitVec.extractLsb' 18 2 (recNo ++ pol ++ dst ++ lay ++ fmt ++ rf ++ sc ++ z0) = dst :=
  (extract_high _ z0 11 2).trans ((extract_high _ sc 5 2).trans ((extract_high _ rf 4 2).trans ((extract_high _ fmt 2 2).trans ((extract_high _ lay 0 2).trans ((extract_low _ dst 0 2 (by decide)).trans ((extract_all dst)))))))
theorem astore_lay (recNo : BitVec 6) (pol : BitVec 6) (dst : BitVec 2) (lay : BitVec 2) (fmt : BitVec 2) (rf : BitVec 1) (sc : BitVec 6) (z0 : BitVec 7) : BitVec.extractLsb' 16 2 (recNo ++ pol ++ dst ++ lay ++ fmt ++ rf ++ sc ++ z0) = lay :=
  (extract_high _ z0 9 2).trans ((extract_high _ sc 3 2).trans ((extract_high _ rf 2 2).trans ((extract_high _ fmt 0 2).trans ((extract_low _ lay 0 2 (by decide)).trans ((extract_all lay))))))
theorem astore_fmt (recNo : BitVec 6) (pol : BitVec 6) (dst : BitVec 2) (lay : BitVec 2) (fmt : BitVec 2) (rf : BitVec 1) (sc : BitVec 6) (z0 : BitVec 7) : BitVec.extractLsb' 14 2 (recNo ++ pol ++ dst ++ lay ++ fmt ++ rf ++ sc ++ z0) = fmt :=
  (extract_high _ z0 7 2).trans ((extract_high _ sc 1 2).trans ((extract_high _ rf 0 2).trans ((extract_low _ fmt 0 2 (by decide)).trans ((extract_all fmt)))))
theorem astore_rf (recNo : BitVec 6) (pol : BitVec 6) (dst : BitVec 2) (lay : BitVec 2) (fmt : BitVec 2) (rf : BitVec 1) (sc : BitVec 6) (z0 : BitVec 7) : BitVec.extractLsb' 13 1 (recNo ++ pol ++ dst ++ lay ++ fmt ++ rf ++ sc ++ z0) = rf :=
  (extract_high _ z0 6 1).trans ((extract_high _ sc 0 1).trans ((extract_low _ rf 0 1 (by decide)).trans ((extract_all rf))))
theorem astore_sc (recNo : BitVec 6) (pol : BitVec 6) (dst : BitVec 2) (lay : BitVec 2) (fmt : BitVec 2) (rf : BitVec 1) (sc : BitVec 6) (z0 : BitVec 7) : BitVec.extractLsb' 7 6 (recNo ++ pol ++ dst ++ lay ++ fmt ++ rf ++ sc ++ z0) = sc :=
  (extract_high _ z0 0 6).trans ((extract_low _ sc 0 6 (by decide)).trans ((extract_all sc)))
theorem astore_z0 (recNo : BitVec 6) (pol : BitVec 6) (dst : BitVec 2) (lay : BitVec 2) (fmt : BitVec 2) (rf : BitVec 1) (sc : BitVec 6) (z0 : BitVec 7) : BitVec.extractLsb' 0 7 (recNo ++ pol ++ dst ++ lay ++ fmt ++ rf ++ sc ++ z0) = z0 :=
  (extract_low _ z0 0 7 (by decide)).trans ((extract_all z0))
theorem decAstore_encAstore (m : AstoreMod) : decAstore (encAstore m) = m := by
  cases m
  simp only [decAstore, encAstore, astore_recNo, astore_pol, astore_dst, astore_lay, astore_fmt, astore_rf, astore_sc]

theorem astoreRsv_encAstore (m : AstoreMod) : astoreRsv (encAstore m) = 0 := by
  simp only [astoreRsv, encAstore, astore_z0]

theorem qpop_z0 (z0 : BitVec 26) (peek : BitVec 1) (cnt : BitVec 5) : BitVec.extractLsb' 6 26 (z0 ++ peek ++ cnt) = z0 :=
  (extract_high _ cnt 1 26).trans ((extract_high _ peek 0 26).trans ((extract_all z0)))
theorem qpop_peek (z0 : BitVec 26) (peek : BitVec 1) (cnt : BitVec 5) : BitVec.extractLsb' 5 1 (z0 ++ peek ++ cnt) = peek :=
  (extract_high _ cnt 0 1).trans ((extract_low _ peek 0 1 (by decide)).trans ((extract_all peek)))
theorem qpop_cnt (z0 : BitVec 26) (peek : BitVec 1) (cnt : BitVec 5) : BitVec.extractLsb' 0 5 (z0 ++ peek ++ cnt) = cnt :=
  (extract_low _ cnt 0 5 (by decide)).trans ((extract_all cnt))
theorem decQpop_encQpop (m : QpopMod) : decQpop (encQpop m) = m := by
  cases m
  simp only [decQpop, encQpop, qpop_peek, qpop_cnt]

theorem qpopRsv_encQpop (m : QpopMod) : qpopRsv (encQpop m) = 0 := by
  simp only [qpopRsv, encQpop, qpop_z0]

theorem copy_qtr (qtr : BitVec 2) (qn : BitVec 4) (val : BitVec 1) (mask : BitVec 8) (ixv : BitVec 1) (ixc : BitVec 5) (ix : BitVec 6) (z0 : BitVec 5) : BitVec.extractLsb' 30 2 (qtr ++ qn ++ val ++ mask ++ ixv ++ ixc ++ ix ++ z0) = qtr :=
  (extract_high _ z0 25 2).trans ((extract_high _ ix 19 2).trans ((extract_high _ ixc 14 2).trans ((extract_high _ ixv 13 2).trans ((extract_high _ mask 5 2).trans ((extract_high _ val 4 2).trans ((extract_high _ qn 0 2).trans ((extract_all qtr))))))))
theorem copy_qn (qtr : BitVec 2) (qn : BitVec 4) (val : BitVec 1) (mask : BitVec 8) (ixv : BitVec 1) (ixc : BitVec 5) (ix : BitVec 6) (z0 : BitVec 5) : BitVec.extractLsb' 26 4 (qtr ++ qn ++ val ++ mask ++ ixv ++ ixc ++ ix ++ z0) = qn :=
  (extract_high _ z0 21 4).trans ((extract_high _ ix 15 4).trans ((extract_high _ ixc 10 4).trans ((extract_high _ ixv 9 4).trans ((extract_high _ mask 1 4).trans ((extract_high _ val 0 4).trans ((extract_low _ qn 0 4 (by decide)).trans ((extract_all qn))))))))
theorem copy_val (qtr : BitVec 2) (qn : BitVec 4) (val : BitVec 1) (mask : BitVec 8) (ixv : BitVec 1) (ixc : BitVec 5) (ix : BitVec 6) (z0 : BitVec 5) : BitVec.extractLsb' 25 1 (qtr ++ qn ++ val ++ mask ++ ixv ++ ixc ++ ix ++ z0) = val :=
  (extract_high _ z0 20 1).trans ((extract_high _ ix 14 1).trans ((extract_high _ ixc 9 1).trans ((extract_high _ ixv 8 1).trans ((extract_high _ mask 0 1).trans ((extract_low _ val 0 1 (by decide)).trans ((extract_all val)))))))
theorem copy_mask (qtr : BitVec 2) (qn : BitVec 4) (val : BitVec 1) (mask : BitVec 8) (ixv : BitVec 1) (ixc : BitVec 5) (ix : BitVec 6) (z0 : BitVec 5) : BitVec.extractLsb' 17 8 (qtr ++ qn ++ val ++ mask ++ ixv ++ ixc ++ ix ++ z0) = mask :=
  (extract_high _ z0 12 8).trans ((extract_high _ ix 6 8).trans ((extract_high _ ixc 1 8).trans ((extract_high _ ixv 0 8).trans ((extract_low _ mask 0 8 (by decide)).trans ((extract_all mask))))))
theorem copy_ixv (qtr : BitVec 2) (qn : BitVec 4) (val : BitVec 1) (mask : BitVec 8) (ixv : BitVec 1) (ixc : BitVec 5) (ix : BitVec 6) (z0 : BitVec 5) : BitVec.extractLsb' 16 1 (qtr ++ qn ++ val ++ mask ++ ixv ++ ixc ++ ix ++ z0) = ixv :=
  (extract_high _ z0 11 1).trans ((extract_high _ ix 5 1).trans ((extract_high _ ixc 0 1).trans ((extract_low _ ixv 0 1 (by decide)).trans ((extract_all ixv)))))
theorem copy_ixc (qtr : BitVec 2) (qn : BitVec 4) (val : BitVec 1) (mask : BitVec 8) (ixv : BitVec 1) (ixc : BitVec 5) (ix : BitVec 6) (z0 : BitVec 5) : BitVec.extractLsb' 11 5 (qtr ++ qn ++ val ++ mask ++ ixv ++ ixc ++ ix ++ z0) = ixc :=
  (extract_high _ z0 6 5).trans ((extract_high _ ix 0 5).trans ((extract_low _ ixc 0 5 (by decide)).trans ((extract_all ixc))))
theorem copy_ix (qtr : BitVec 2) (qn : BitVec 4) (val : BitVec 1) (mask : BitVec 8) (ixv : BitVec 1) (ixc : BitVec 5) (ix : BitVec 6) (z0 : BitVec 5) : BitVec.extractLsb' 5 6 (qtr ++ qn ++ val ++ mask ++ ixv ++ ixc ++ ix ++ z0) = ix :=
  (extract_high _ z0 0 6).trans ((extract_low _ ix 0 6 (by decide)).trans ((extract_all ix)))
theorem copy_z0 (qtr : BitVec 2) (qn : BitVec 4) (val : BitVec 1) (mask : BitVec 8) (ixv : BitVec 1) (ixc : BitVec 5) (ix : BitVec 6) (z0 : BitVec 5) : BitVec.extractLsb' 0 5 (qtr ++ qn ++ val ++ mask ++ ixv ++ ixc ++ ix ++ z0) = z0 :=
  (extract_low _ z0 0 5 (by decide)).trans ((extract_all z0))
theorem decCopy_encCopy (m : CopyMod) : decCopy (encCopy m) = m := by
  cases m
  simp only [decCopy, encCopy, copy_qtr, copy_qn, copy_val, copy_mask, copy_ixv, copy_ixc, copy_ix]

theorem copyRsv_encCopy (m : CopyMod) : copyRsv (encCopy m) = 0 := by
  simp only [copyRsv, encCopy, copy_z0]

theorem push_low (push : BitVec 1) : BitVec.extractLsb' 0 1 ((0 : BitVec 31) ++ push : Word) = push :=
  (extract_low (0 : BitVec 31) push 0 1 (by decide)).trans (extract_all push)
theorem push_high (push : BitVec 1) : BitVec.extractLsb' 1 31 ((0 : BitVec 31) ++ push : Word) = 0 :=
  (extract_high (0 : BitVec 31) push 0 31).trans (extract_all 0)

/-! ## Bytes of a word -/

theorem word_of_bytes (w : Word) : wordOfBytes (w.extractLsb' 0 8) (w.extractLsb' 8 8) (w.extractLsb' 16 8) (w.extractLsb' 24 8) = w := by
  apply BitVec.eq_of_getLsbD_eq
  intro i hi
  have e : wordOfBytes (w.extractLsb' 0 8) (w.extractLsb' 8 8) (w.extractLsb' 16 8) (w.extractLsb' 24 8) =
      (w.extractLsb' 24 8 ++ w.extractLsb' 16 8 ++ w.extractLsb' 8 8 ++ w.extractLsb' 0 8 : BitVec (8 + 8 + 8 + 8)) := rfl
  rw [e]
  simp only [BitVec.getLsbD_append, BitVec.getLsbD_extractLsb']
  by_cases h1 : i < 8
  · simp [h1]
  · by_cases h2 : i - 8 < 8
    · simp [h1, h2, show 8 + (i - 8) = i by omega]
    · by_cases h3 : i - 8 - 8 < 8
      · simp [h1, h2, h3, show 16 + (i - 8 - 8) = i by omega]
      · have h4 : i - 8 - 8 - 8 < 8 := by omega
        simp [h1, h2, h3, h4, show 24 + (i - 8 - 8 - 8) = i by omega]

/-- One word, then another: the decoder reads them. -/
theorem decode_two (feed : Bool) (w x : Word) : decode feed false (bytesOfWord w ++ bytesOfWord x) = decodeBody feed w (some x) := by
  simp only [bytesOfWord, List.cons_append, List.nil_append, decode, word_of_bytes, Bool.false_eq_true, if_false]

theorem decode_header (feed : Bool) (w x : Word) : decode feed true (bytesOfWord w ++ bytesOfWord x) = decodeHeader w := by
  simp only [bytesOfWord, List.cons_append, List.nil_append, decode, word_of_bytes, if_true]

end Sys2Proof
end

