-- ==== Sys2Proof/Laws/PerInstr.lean ====
section
/-!
SUPPORT. The family RoundTrip: the decoder reads an instruction's words back, one lemma for each constructor of Instr.
-/
namespace Sys2Proof.Laws.RoundTrip

/-- Does a feed thread's decoder read the row? Only the second form of QSTAT is told apart by its issuer (R247). -/
def feedRow : Instr → Bool
  | .qstatFeed _ _ _ => true
  | _ => false

/-- Whatever word follows, the decoder reads the words of the instruction back, with every field of it; a row of the table without an
encoding has no words. -/
def Statement (i : Instr) : Prop :=
  match encode i with
  | [] => True
  | w :: ws => ∀ next : Word, decode (feedRow i) i.isHeader (bytesOfWord w ++ bytesOfWord (ws.headD next)) = .ok i

theorem row_fR {feed : Bool} {op : BitVec 8} {d a b : Field} {g : Guard} {e : Option Word} {i : Instr}
    (h : decodeOp feed op.toNat (fR op d a b g) e = .ok i) : decodeBody feed (fR op d a b g) e = .ok i := by
  rw [decodeBody, fop_fR, h]

theorem row_fW {feed : Bool} {op : BitVec 8} {d : Field} {i14 : BitVec 14} {g : Guard} {e : Option Word} {i : Instr}
    (h : decodeOp feed op.toNat (fW op d i14 g) e = .ok i) : decodeBody feed (fW op d i14 g) e = .ok i := by
  rw [decodeBody, fop_fW, h]

theorem flo_kf : ∀ n : BitVec 6, flo (kf n) = n := by decide
theorem isK_kf : ∀ n : BitVec 6, (kf n).isK = true := by decide
theorem kf_ne : ∀ n : BitVec 6, ¬ kf n = 0#7 := by decide
theorem two_bits : ∀ q : BitVec 2, q = 0 ∨ q = 1 ∨ q = 2 ∨ q = 3 := by decide

theorem field_1_3_3_0 (x : BitVec 1) (y : BitVec 3) (z : BitVec 3) : BitVec.extractLsb' 6 1 (x ++ y ++ z) = x :=
  (extract_high _ z 3 1).trans ((extract_high _ y 0 1).trans ((extract_all x)))
theorem field_1_3_3_1 (x : BitVec 1) (y : BitVec 3) (z : BitVec 3) : BitVec.extractLsb' 3 3 (x ++ y ++ z) = y :=
  (extract_high _ z 0 3).trans ((extract_low _ y 0 3 (by decide)).trans ((extract_all y)))
theorem field_1_3_3_2 (x : BitVec 1) (y : BitVec 3) (z : BitVec 3) : BitVec.extractLsb' 0 3 (x ++ y ++ z) = z :=
  (extract_low _ z 0 3 (by decide)).trans ((extract_all z))
theorem field_4_3_0 (x : BitVec 4) (y : BitVec 3) : BitVec.extractLsb' 3 4 (x ++ y) = x :=
  (extract_high _ y 0 4).trans ((extract_all x))
theorem field_4_3_1 (x : BitVec 4) (y : BitVec 3) : BitVec.extractLsb' 0 3 (x ++ y) = y :=
  (extract_low _ y 0 3 (by decide)).trans ((extract_all y))
theorem field_1_3_1_2_0 (x : BitVec 1) (y : BitVec 3) (z : BitVec 1) (u : BitVec 2) : BitVec.extractLsb' 6 1 (x ++ y ++ z ++ u) = x :=
  (extract_high _ u 4 1).trans ((extract_high _ z 3 1).trans ((extract_high _ y 0 1).trans ((extract_all x))))
theorem field_1_3_1_2_1 (x : BitVec 1) (y : BitVec 3) (z : BitVec 1) (u : BitVec 2) : BitVec.extractLsb' 3 3 (x ++ y ++ z ++ u) = y :=
  (extract_high _ u 1 3).trans ((extract_high _ z 0 3).trans ((extract_low _ y 0 3 (by decide)).trans ((extract_all y))))
theorem field_1_3_1_2_2 (x : BitVec 1) (y : BitVec 3) (z : BitVec 1) (u : BitVec 2) : BitVec.extractLsb' 2 1 (x ++ y ++ z ++ u) = z :=
  (extract_high _ u 0 1).trans ((extract_low _ z 0 1 (by decide)).trans ((extract_all z)))
theorem field_1_3_1_2_3 (x : BitVec 1) (y : BitVec 3) (z : BitVec 1) (u : BitVec 2) : BitVec.extractLsb' 0 2 (x ++ y ++ z ++ u) = u :=
  (extract_low _ u 0 2 (by decide)).trans ((extract_all u))
theorem field_3_2_2_0 (x : BitVec 3) (y : BitVec 2) (z : BitVec 2) : BitVec.extractLsb' 4 3 (x ++ y ++ z) = x :=
  (extract_high _ z 2 3).trans ((extract_high _ y 0 3).trans ((extract_all x)))
theorem field_3_2_2_1 (x : BitVec 3) (y : BitVec 2) (z : BitVec 2) : BitVec.extractLsb' 2 2 (x ++ y ++ z) = y :=
  (extract_high _ z 0 2).trans ((extract_low _ y 0 2 (by decide)).trans ((extract_all y)))
theorem field_3_2_2_2 (x : BitVec 3) (y : BitVec 2) (z : BitVec 2) : BitVec.extractLsb' 0 2 (x ++ y ++ z) = z :=
  (extract_low _ z 0 2 (by decide)).trans ((extract_all z))
theorem field_6_1_0 (x : BitVec 6) (y : BitVec 1) : BitVec.extractLsb' 1 6 (x ++ y) = x :=
  (extract_high _ y 0 6).trans ((extract_all x))
theorem field_6_1_1 (x : BitVec 6) (y : BitVec 1) : BitVec.extractLsb' 0 1 (x ++ y) = y :=
  (extract_low _ y 0 1 (by decide)).trans ((extract_all y))
theorem field_4_1_2_0 (x : BitVec 4) (y : BitVec 1) (z : BitVec 2) : BitVec.extractLsb' 3 4 (x ++ y ++ z) = x :=
  (extract_high _ z 1 4).trans ((extract_high _ y 0 4).trans ((extract_all x)))
theorem field_4_1_2_1 (x : BitVec 4) (y : BitVec 1) (z : BitVec 2) : BitVec.extractLsb' 2 1 (x ++ y ++ z) = y :=
  (extract_high _ z 0 1).trans ((extract_low _ y 0 1 (by decide)).trans ((extract_all y)))
theorem field_4_1_2_2 (x : BitVec 4) (y : BitVec 1) (z : BitVec 2) : BitVec.extractLsb' 0 2 (x ++ y ++ z) = z :=
  (extract_low _ z 0 2 (by decide)).trans ((extract_all z))
theorem field_2_1_4_0 (x : BitVec 2) (y : BitVec 1) (z : BitVec 4) : BitVec.extractLsb' 5 2 (x ++ y ++ z) = x :=
  (extract_high _ z 1 2).trans ((extract_high _ y 0 2).trans ((extract_all x)))
theorem field_2_1_4_1 (x : BitVec 2) (y : BitVec 1) (z : BitVec 4) : BitVec.extractLsb' 4 1 (x ++ y ++ z) = y :=
  (extract_high _ z 0 1).trans ((extract_low _ y 0 1 (by decide)).trans ((extract_all y)))
theorem field_2_1_4_2 (x : BitVec 2) (y : BitVec 1) (z : BitVec 4) : BitVec.extractLsb' 0 4 (x ++ y ++ z) = z :=
  (extract_low _ z 0 4 (by decide)).trans ((extract_all z))
theorem field_2_2_3_0 (x : BitVec 2) (y : BitVec 2) (z : BitVec 3) : BitVec.extractLsb' 5 2 (x ++ y ++ z) = x :=
  (extract_high _ z 2 2).trans ((extract_high _ y 0 2).trans ((extract_all x)))
theorem field_2_2_3_1 (x : BitVec 2) (y : BitVec 2) (z : BitVec 3) : BitVec.extractLsb' 3 2 (x ++ y ++ z) = y :=
  (extract_high _ z 0 2).trans ((extract_low _ y 0 2 (by decide)).trans ((extract_all y)))
theorem field_2_2_3_2 (x : BitVec 2) (y : BitVec 2) (z : BitVec 3) : BitVec.extractLsb' 0 3 (x ++ y ++ z) = z :=
  (extract_low _ z 0 3 (by decide)).trans ((extract_all z))
theorem field_3_4_0 (x : BitVec 3) (y : BitVec 4) : BitVec.extractLsb' 4 3 (x ++ y) = x :=
  (extract_high _ y 0 3).trans ((extract_all x))
theorem field_3_4_1 (x : BitVec 3) (y : BitVec 4) : BitVec.extractLsb' 0 4 (x ++ y) = y :=
  (extract_low _ y 0 4 (by decide)).trans ((extract_all y))
theorem field_1_6_0 (x : BitVec 1) (y : BitVec 6) : BitVec.extractLsb' 6 1 (x ++ y) = x :=
  (extract_high _ y 0 1).trans ((extract_all x))
theorem field_1_6_1 (x : BitVec 1) (y : BitVec 6) : BitVec.extractLsb' 0 6 (x ++ y) = y :=
  (extract_low _ y 0 6 (by decide)).trans ((extract_all y))
theorem field_4_2_1_0 (x : BitVec 4) (y : BitVec 2) (z : BitVec 1) : BitVec.extractLsb' 3 4 (x ++ y ++ z) = x :=
  (extract_high _ z 2 4).trans ((extract_high _ y 0 4).trans ((extract_all x)))
theorem field_4_2_1_1 (x : BitVec 4) (y : BitVec 2) (z : BitVec 1) : BitVec.extractLsb' 1 2 (x ++ y ++ z) = y :=
  (extract_high _ z 0 2).trans ((extract_low _ y 0 2 (by decide)).trans ((extract_all y)))
theorem field_4_2_1_2 (x : BitVec 4) (y : BitVec 2) (z : BitVec 1) : BitVec.extractLsb' 0 1 (x ++ y ++ z) = z :=
  (extract_low _ z 0 1 (by decide)).trans ((extract_all z))

theorem iadd (d : Field) (a : Field) (b : Field) (g : Guard) : Statement (.iadd d a b g) := by
  intro nx
  refine (decode_two _ _ _).trans (row_fR ?_)
  change (fun (feed : Bool) (w : Word) (e : Option Word) => (.ok (.iadd (fd w) (fa w) (fb w) (fg w)) : Except DecodeError Instr)) false (fR 0x00 d a b g) (some nx) = _
  simp [fd_fR, fa_fR, fb_fR, fg_fR]

theorem iaddc (d : Field) (a : Field) (b : Field) (g : Guard) : Statement (.iaddc d a b g) := by
  intro nx
  refine (decode_two _ _ _).trans (row_fR ?_)
  change (fun (feed : Bool) (w : Word) (e : Option Word) => (.ok (.iaddc (fd w) (fa w) (fb w) (fg w)) : Except DecodeError Instr)) false (fR 0x01 d a b g) (some nx) = _
  simp [fd_fR, fa_fR, fb_fR, fg_fR]

theorem isub (d : Field) (a : Field) (b : Field) (g : Guard) : Statement (.isub d a b g) := by
  intro nx
  refine (decode_two _ _ _).trans (row_fR ?_)
  change (fun (feed : Bool) (w : Word) (e : Option Word) => (.ok (.isub (fd w) (fa w) (fb w) (fg w)) : Except DecodeError Instr)) false (fR 0x02 d a b g) (some nx) = _
  simp [fd_fR, fa_fR, fb_fR, fg_fR]

theorem isubb (d : Field) (a : Field) (b : Field) (g : Guard) : Statement (.isubb d a b g) := by
  intro nx
  refine (decode_two _ _ _).trans (row_fR ?_)
  change (fun (feed : Bool) (w : Word) (e : Option Word) => (.ok (.isubb (fd w) (fa w) (fb w) (fg w)) : Except DecodeError Instr)) false (fR 0x03 d a b g) (some nx) = _
  simp [fd_fR, fa_fR, fb_fR, fg_fR]

theorem imul (d : Field) (a : Field) (b : Field) (g : Guard) : Statement (.imul d a b g) := by
  intro nx
  refine (decode_two _ _ _).trans (row_fR ?_)
  change (fun (feed : Bool) (w : Word) (e : Option Word) => (.ok (.imul (fd w) (fa w) (fb w) (fg w)) : Except DecodeError Instr)) false (fR 0x04 d a b g) (some nx) = _
  simp [fd_fR, fa_fR, fb_fR, fg_fR]

theorem imulhs (d : Field) (a : Field) (b : Field) (g : Guard) : Statement (.imulhs d a b g) := by
  intro nx
  refine (decode_two _ _ _).trans (row_fR ?_)
  change (fun (feed : Bool) (w : Word) (e : Option Word) => (.ok (.imulhs (fd w) (fa w) (fb w) (fg w)) : Except DecodeError Instr)) false (fR 0x05 d a b g) (some nx) = _
  simp [fd_fR, fa_fR, fb_fR, fg_fR]

theorem imulhu (d : Field) (a : Field) (b : Field) (g : Guard) : Statement (.imulhu d a b g) := by
  intro nx
  refine (decode_two _ _ _).trans (row_fR ?_)
  change (fun (feed : Bool) (w : Word) (e : Option Word) => (.ok (.imulhu (fd w) (fa w) (fb w) (fg w)) : Except DecodeError Instr)) false (fR 0x06 d a b g) (some nx) = _
  simp [fd_fR, fa_fR, fb_fR, fg_fR]

theorem imad (d : Field) (a : Field) (b : Field) (g : Guard) : Statement (.imad d a b g) := by
  intro nx
  refine (decode_two _ _ _).trans (row_fR ?_)
  change (fun (feed : Bool) (w : Word) (e : Option Word) => (.ok (.imad (fd w) (fa w) (fb w) (fg w)) : Except DecodeError Instr)) false (fR 0x07 d a b g) (some nx) = _
  simp [fd_fR, fa_fR, fb_fR, fg_fR]

theorem imad64 (d : Field) (a : Field) (b : Field) (g : Guard) : Statement (.imad64 d a b g) := by
  intro nx
  refine (decode_two _ _ _).trans (row_fR ?_)
  change (fun (feed : Bool) (w : Word) (e : Option Word) => (.ok (.imad64 (fd w) (fa w) (fb w) (fg w)) : Except DecodeError Instr)) false (fR 0x08 d a b g) (some nx) = _
  simp [fd_fR, fa_fR, fb_fR, fg_fR]

theorem idiv (d : Field) (a : Field) (b : Field) (g : Guard) : Statement (.idiv d a b g) := by
  intro nx
  refine (decode_two _ _ _).trans (row_fR ?_)
  change (fun (feed : Bool) (w : Word) (e : Option Word) => (.ok (.idiv (fd w) (fa w) (fb w) (fg w)) : Except DecodeError Instr)) false (fR 0x09 d a b g) (some nx) = _
  simp [fd_fR, fa_fR, fb_fR, fg_fR]

theorem idivu (d : Field) (a : Field) (b : Field) (g : Guard) : Statement (.idivu d a b g) := by
  intro nx
  refine (decode_two _ _ _).trans (row_fR ?_)
  change (fun (feed : Bool) (w : Word) (e : Option Word) => (.ok (.idivu (fd w) (fa w) (fb w) (fg w)) : Except DecodeError Instr)) false (fR 0x0A d a b g) (some nx) = _
  simp [fd_fR, fa_fR, fb_fR, fg_fR]

theorem irem (d : Field) (a : Field) (b : Field) (g : Guard) : Statement (.irem d a b g) := by
  intro nx
  refine (decode_two _ _ _).trans (row_fR ?_)
  change (fun (feed : Bool) (w : Word) (e : Option Word) => (.ok (.irem (fd w) (fa w) (fb w) (fg w)) : Except DecodeError Instr)) false (fR 0x0B d a b g) (some nx) = _
  simp [fd_fR, fa_fR, fb_fR, fg_fR]

theorem iremu (d : Field) (a : Field) (b : Field) (g : Guard) : Statement (.iremu d a b g) := by
  intro nx
  refine (decode_two _ _ _).trans (row_fR ?_)
  change (fun (feed : Bool) (w : Word) (e : Option Word) => (.ok (.iremu (fd w) (fa w) (fb w) (fg w)) : Except DecodeError Instr)) false (fR 0x0C d a b g) (some nx) = _
  simp [fd_fR, fa_fR, fb_fR, fg_fR]

theorem imin (d : Field) (a : Field) (b : Field) (g : Guard) : Statement (.imin d a b g) := by
  intro nx
  refine (decode_two _ _ _).trans (row_fR ?_)
  change (fun (feed : Bool) (w : Word) (e : Option Word) => (.ok (.imin (fd w) (fa w) (fb w) (fg w)) : Except DecodeError Instr)) false (fR 0x0D d a b g) (some nx) = _
  simp [fd_fR, fa_fR, fb_fR, fg_fR]

theorem imax (d : Field) (a : Field) (b : Field) (g : Guard) : Statement (.imax d a b g) := by
  intro nx
  refine (decode_two _ _ _).trans (row_fR ?_)
  change (fun (feed : Bool) (w : Word) (e : Option Word) => (.ok (.imax (fd w) (fa w) (fb w) (fg w)) : Except DecodeError Instr)) false (fR 0x0E d a b g) (some nx) = _
  simp [fd_fR, fa_fR, fb_fR, fg_fR]

theorem iminu (d : Field) (a : Field) (b : Field) (g : Guard) : Statement (.iminu d a b g) := by
  intro nx
  refine (decode_two _ _ _).trans (row_fR ?_)
  change (fun (feed : Bool) (w : Word) (e : Option Word) => (.ok (.iminu (fd w) (fa w) (fb w) (fg w)) : Except DecodeError Instr)) false (fR 0x0F d a b g) (some nx) = _
  simp [fd_fR, fa_fR, fb_fR, fg_fR]

theorem imaxu (d : Field) (a : Field) (b : Field) (g : Guard) : Statement (.imaxu d a b g) := by
  intro nx
  refine (decode_two _ _ _).trans (row_fR ?_)
  change (fun (feed : Bool) (w : Word) (e : Option Word) => (.ok (.imaxu (fd w) (fa w) (fb w) (fg w)) : Except DecodeError Instr)) false (fR 0x10 d a b g) (some nx) = _
  simp [fd_fR, fa_fR, fb_fR, fg_fR]

theorem iabs (d : Field) (a : Field) (g : Guard) : Statement (.iabs d a g) := by
  intro nx
  refine (decode_two _ _ _).trans (row_fR ?_)
  change (fun (feed : Bool) (w : Word) (e : Option Word) => (body (fb w = 0) (.iabs (fd w) (fa w) (fg w)) : Except DecodeError Instr)) false (fR 0x11 d a 0 g) (some nx) = _
  simp [body, fd_fR, fa_fR, fb_fR, fg_fR]

theorem icmp (path : BitVec 1) (cond : BitVec 3) (pred : BitVec 3) (a : Field) (b : Field) (g : Guard) : Statement (.icmp path cond pred a b g) := by
  intro nx
  refine (decode_two _ _ _).trans (row_fR ?_)
  change (fun (feed : Bool) (w : Word) (e : Option Word) => (.ok (.icmp ((fd w).extractLsb' 6 1) ((fd w).extractLsb' 3 3) ((fd w).extractLsb' 0 3) (fa w) (fb w) (fg w)) : Except DecodeError Instr)) false (fR 0x12 (path ++ cond ++ pred) a b g) (some nx) = _
  simp [fd_fR, fa_fR, fb_fR, fg_fR, field_1_3_3_0, field_1_3_3_1, field_1_3_3_2]

theorem icmpu (path : BitVec 1) (cond : BitVec 3) (pred : BitVec 3) (a : Field) (b : Field) (g : Guard) : Statement (.icmpu path cond pred a b g) := by
  intro nx
  refine (decode_two _ _ _).trans (row_fR ?_)
  change (fun (feed : Bool) (w : Word) (e : Option Word) => (.ok (.icmpu ((fd w).extractLsb' 6 1) ((fd w).extractLsb' 3 3) ((fd w).extractLsb' 0 3) (fa w) (fb w) (fg w)) : Except DecodeError Instr)) false (fR 0x13 (path ++ cond ++ pred) a b g) (some nx) = _
  simp [fd_fR, fa_fR, fb_fR, fg_fR, field_1_3_3_0, field_1_3_3_1, field_1_3_3_2]

theorem iadd64 (d : Field) (a : Field) (b : Field) (g : Guard) : Statement (.iadd64 d a b g) := by
  intro nx
  refine (decode_two _ _ _).trans (row_fR ?_)
  change (fun (feed : Bool) (w : Word) (e : Option Word) => (.ok (.iadd64 (fd w) (fa w) (fb w) (fg w)) : Except DecodeError Instr)) false (fR 0x14 d a b g) (some nx) = _
  simp [fd_fR, fa_fR, fb_fR, fg_fR]

theorem isub64 (d : Field) (a : Field) (b : Field) (g : Guard) : Statement (.isub64 d a b g) := by
  intro nx
  refine (decode_two _ _ _).trans (row_fR ?_)
  change (fun (feed : Bool) (w : Word) (e : Option Word) => (.ok (.isub64 (fd w) (fa w) (fb w) (fg w)) : Except DecodeError Instr)) false (fR 0x15 d a b g) (some nx) = _
  simp [fd_fR, fa_fR, fb_fR, fg_fR]

theorem imul64 (d : Field) (a : Field) (b : Field) (g : Guard) : Statement (.imul64 d a b g) := by
  intro nx
  refine (decode_two _ _ _).trans (row_fR ?_)
  change (fun (feed : Bool) (w : Word) (e : Option Word) => (.ok (.imul64 (fd w) (fa w) (fb w) (fg w)) : Except DecodeError Instr)) false (fR 0x16 d a b g) (some nx) = _
  simp [fd_fR, fa_fR, fb_fR, fg_fR]

theorem lea (d : Field) (a : Field) (b : Field) (g : Guard) : Statement (.lea d a b g) := by
  intro nx
  refine (decode_two _ _ _).trans (row_fR ?_)
  change (fun (feed : Bool) (w : Word) (e : Option Word) => (.ok (.lea (fd w) (fa w) (fb w) (fg w)) : Except DecodeError Instr)) false (fR 0x17 d a b g) (some nx) = _
  simp [fd_fR, fa_fR, fb_fR, fg_fR]

theorem lea64 (d : Field) (a : Field) (b : Field) (g : Guard) : Statement (.lea64 d a b g) := by
  intro nx
  refine (decode_two _ _ _).trans (row_fR ?_)
  change (fun (feed : Bool) (w : Word) (e : Option Word) => (.ok (.lea64 (fd w) (fa w) (fb w) (fg w)) : Except DecodeError Instr)) false (fR 0x18 d a b g) (some nx) = _
  simp [fd_fR, fa_fR, fb_fR, fg_fR]

theorem and (d : Field) (a : Field) (b : Field) (g : Guard) : Statement (.and d a b g) := by
  intro nx
  refine (decode_two _ _ _).trans (row_fR ?_)
  change (fun (feed : Bool) (w : Word) (e : Option Word) => (.ok (.and (fd w) (fa w) (fb w) (fg w)) : Except DecodeError Instr)) false (fR 0x19 d a b g) (some nx) = _
  simp [fd_fR, fa_fR, fb_fR, fg_fR]

theorem or (d : Field) (a : Field) (b : Field) (g : Guard) : Statement (.or d a b g) := by
  intro nx
  refine (decode_two _ _ _).trans (row_fR ?_)
  change (fun (feed : Bool) (w : Word) (e : Option Word) => (.ok (.or (fd w) (fa w) (fb w) (fg w)) : Except DecodeError Instr)) false (fR 0x1A d a b g) (some nx) = _
  simp [fd_fR, fa_fR, fb_fR, fg_fR]

theorem xor (d : Field) (a : Field) (b : Field) (g : Guard) : Statement (.xor d a b g) := by
  intro nx
  refine (decode_two _ _ _).trans (row_fR ?_)
  change (fun (feed : Bool) (w : Word) (e : Option Word) => (.ok (.xor (fd w) (fa w) (fb w) (fg w)) : Except DecodeError Instr)) false (fR 0x1B d a b g) (some nx) = _
  simp [fd_fR, fa_fR, fb_fR, fg_fR]

theorem andn (d : Field) (a : Field) (b : Field) (g : Guard) : Statement (.andn d a b g) := by
  intro nx
  refine (decode_two _ _ _).trans (row_fR ?_)
  change (fun (feed : Bool) (w : Word) (e : Option Word) => (.ok (.andn (fd w) (fa w) (fb w) (fg w)) : Except DecodeError Instr)) false (fR 0x1C d a b g) (some nx) = _
  simp [fd_fR, fa_fR, fb_fR, fg_fR]

theorem orn (d : Field) (a : Field) (b : Field) (g : Guard) : Statement (.orn d a b g) := by
  intro nx
  refine (decode_two _ _ _).trans (row_fR ?_)
  change (fun (feed : Bool) (w : Word) (e : Option Word) => (.ok (.orn (fd w) (fa w) (fb w) (fg w)) : Except DecodeError Instr)) false (fR 0x1D d a b g) (some nx) = _
  simp [fd_fR, fa_fR, fb_fR, fg_fR]

theorem shl (d : Field) (a : Field) (b : Field) (g : Guard) : Statement (.shl d a b g) := by
  intro nx
  refine (decode_two _ _ _).trans (row_fR ?_)
  change (fun (feed : Bool) (w : Word) (e : Option Word) => (.ok (.shl (fd w) (fa w) (fb w) (fg w)) : Except DecodeError Instr)) false (fR 0x1E d a b g) (some nx) = _
  simp [fd_fR, fa_fR, fb_fR, fg_fR]

theorem shr (d : Field) (a : Field) (b : Field) (g : Guard) : Statement (.shr d a b g) := by
  intro nx
  refine (decode_two _ _ _).trans (row_fR ?_)
  change (fun (feed : Bool) (w : Word) (e : Option Word) => (.ok (.shr (fd w) (fa w) (fb w) (fg w)) : Except DecodeError Instr)) false (fR 0x1F d a b g) (some nx) = _
  simp [fd_fR, fa_fR, fb_fR, fg_fR]

theorem sar (d : Field) (a : Field) (b : Field) (g : Guard) : Statement (.sar d a b g) := by
  intro nx
  refine (decode_two _ _ _).trans (row_fR ?_)
  change (fun (feed : Bool) (w : Word) (e : Option Word) => (.ok (.sar (fd w) (fa w) (fb w) (fg w)) : Except DecodeError Instr)) false (fR 0x20 d a b g) (some nx) = _
  simp [fd_fR, fa_fR, fb_fR, fg_fR]

theorem rotl (d : Field) (a : Field) (b : Field) (g : Guard) : Statement (.rotl d a b g) := by
  intro nx
  refine (decode_two _ _ _).trans (row_fR ?_)
  change (fun (feed : Bool) (w : Word) (e : Option Word) => (.ok (.rotl (fd w) (fa w) (fb w) (fg w)) : Except DecodeError Instr)) false (fR 0x21 d a b g) (some nx) = _
  simp [fd_fR, fa_fR, fb_fR, fg_fR]

theorem fshl (d : Field) (a : Field) (b : Field) (g : Guard) : Statement (.fshl d a b g) := by
  intro nx
  refine (decode_two _ _ _).trans (row_fR ?_)
  change (fun (feed : Bool) (w : Word) (e : Option Word) => (.ok (.fshl (fd w) (fa w) (fb w) (fg w)) : Except DecodeError Instr)) false (fR 0x22 d a b g) (some nx) = _
  simp [fd_fR, fa_fR, fb_fR, fg_fR]

theorem fshr (d : Field) (a : Field) (b : Field) (g : Guard) : Statement (.fshr d a b g) := by
  intro nx
  refine (decode_two _ _ _).trans (row_fR ?_)
  change (fun (feed : Bool) (w : Word) (e : Option Word) => (.ok (.fshr (fd w) (fa w) (fb w) (fg w)) : Except DecodeError Instr)) false (fR 0x23 d a b g) (some nx) = _
  simp [fd_fR, fa_fR, fb_fR, fg_fR]

theorem bfe (d : Field) (a : Field) (b : Field) (g : Guard) : Statement (.bfe d a b g) := by
  intro nx
  refine (decode_two _ _ _).trans (row_fR ?_)
  change (fun (feed : Bool) (w : Word) (e : Option Word) => (.ok (.bfe (fd w) (fa w) (fb w) (fg w)) : Except DecodeError Instr)) false (fR 0x24 d a b g) (some nx) = _
  simp [fd_fR, fa_fR, fb_fR, fg_fR]

theorem bfi (d : Field) (a : Field) (b : Field) (g : Guard) : Statement (.bfi d a b g) := by
  intro nx
  refine (decode_two _ _ _).trans (row_fR ?_)
  change (fun (feed : Bool) (w : Word) (e : Option Word) => (.ok (.bfi (fd w) (fa w) (fb w) (fg w)) : Except DecodeError Instr)) false (fR 0x25 d a b g) (some nx) = _
  simp [fd_fR, fa_fR, fb_fR, fg_fR]

theorem popc (d : Field) (a : Field) (g : Guard) : Statement (.popc d a g) := by
  intro nx
  refine (decode_two _ _ _).trans (row_fR ?_)
  change (fun (feed : Bool) (w : Word) (e : Option Word) => (body (fb w = 0) (.popc (fd w) (fa w) (fg w)) : Except DecodeError Instr)) false (fR 0x26 d a 0 g) (some nx) = _
  simp [body, fd_fR, fa_fR, fb_fR, fg_fR]

theorem clz (d : Field) (a : Field) (g : Guard) : Statement (.clz d a g) := by
  intro nx
  refine (decode_two _ _ _).trans (row_fR ?_)
  change (fun (feed : Bool) (w : Word) (e : Option Word) => (body (fb w = 0) (.clz (fd w) (fa w) (fg w)) : Except DecodeError Instr)) false (fR 0x27 d a 0 g) (some nx) = _
  simp [body, fd_fR, fa_fR, fb_fR, fg_fR]

theorem clz64 (d : Field) (a : Field) (g : Guard) : Statement (.clz64 d a g) := by
  intro nx
  refine (decode_two _ _ _).trans (row_fR ?_)
  change (fun (feed : Bool) (w : Word) (e : Option Word) => (body (fb w = 0) (.clz64 (fd w) (fa w) (fg w)) : Except DecodeError Instr)) false (fR 0x28 d a 0 g) (some nx) = _
  simp [body, fd_fR, fa_fR, fb_fR, fg_fR]

theorem brev (d : Field) (a : Field) (g : Guard) : Statement (.brev d a g) := by
  intro nx
  refine (decode_two _ _ _).trans (row_fR ?_)
  change (fun (feed : Bool) (w : Word) (e : Option Word) => (body (fb w = 0) (.brev (fd w) (fa w) (fg w)) : Except DecodeError Instr)) false (fR 0x29 d a 0 g) (some nx) = _
  simp [body, fd_fR, fa_fR, fb_fR, fg_fR]

theorem bytep (d : Field) (a : Field) (b : Field) (g : Guard) : Statement (.bytep d a b g) := by
  intro nx
  refine (decode_two _ _ _).trans (row_fR ?_)
  change (fun (feed : Bool) (w : Word) (e : Option Word) => (.ok (.bytep (fd w) (fa w) (fb w) (fg w)) : Except DecodeError Instr)) false (fR 0x2A d a b g) (some nx) = _
  simp [fd_fR, fa_fR, fb_fR, fg_fR]

theorem sel (d : Field) (a : Field) (b : Field) (s : BitVec 3) : Statement (.sel d a b s) := by
  intro nx
  refine (decode_two _ _ _).trans (row_fR ?_)
  change (fun (feed : Bool) (w : Word) (e : Option Word) => (.ok (.sel (fd w) (fa w) (fb w) (fg w)) : Except DecodeError Instr)) false (fR 0x2B d a b s) (some nx) = _
  simp [fd_fR, fa_fR, fb_fR, fg_fR]

theorem fadd (d : Field) (a : Field) (b : Field) (g : Guard) : Statement (.fadd d a b g) := by
  intro nx
  refine (decode_two _ _ _).trans (row_fR ?_)
  change (fun (feed : Bool) (w : Word) (e : Option Word) => (.ok (.fadd (fd w) (fa w) (fb w) (fg w)) : Except DecodeError Instr)) false (fR 0x2C d a b g) (some nx) = _
  simp [fd_fR, fa_fR, fb_fR, fg_fR]

theorem fsub (d : Field) (a : Field) (b : Field) (g : Guard) : Statement (.fsub d a b g) := by
  intro nx
  refine (decode_two _ _ _).trans (row_fR ?_)
  change (fun (feed : Bool) (w : Word) (e : Option Word) => (.ok (.fsub (fd w) (fa w) (fb w) (fg w)) : Except DecodeError Instr)) false (fR 0x2D d a b g) (some nx) = _
  simp [fd_fR, fa_fR, fb_fR, fg_fR]

theorem fmul (d : Field) (a : Field) (b : Field) (g : Guard) : Statement (.fmul d a b g) := by
  intro nx
  refine (decode_two _ _ _).trans (row_fR ?_)
  change (fun (feed : Bool) (w : Word) (e : Option Word) => (.ok (.fmul (fd w) (fa w) (fb w) (fg w)) : Except DecodeError Instr)) false (fR 0x2E d a b g) (some nx) = _
  simp [fd_fR, fa_fR, fb_fR, fg_fR]

theorem ffma (d : Field) (a : Field) (b : Field) (g : Guard) : Statement (.ffma d a b g) := by
  intro nx
  refine (decode_two _ _ _).trans (row_fR ?_)
  change (fun (feed : Bool) (w : Word) (e : Option Word) => (.ok (.ffma (fd w) (fa w) (fb w) (fg w)) : Except DecodeError Instr)) false (fR 0x2F d a b g) (some nx) = _
  simp [fd_fR, fa_fR, fb_fR, fg_fR]

theorem fmin (d : Field) (a : Field) (b : Field) (g : Guard) : Statement (.fmin d a b g) := by
  intro nx
  refine (decode_two _ _ _).trans (row_fR ?_)
  change (fun (feed : Bool) (w : Word) (e : Option Word) => (.ok (.fmin (fd w) (fa w) (fb w) (fg w)) : Except DecodeError Instr)) false (fR 0x30 d a b g) (some nx) = _
  simp [fd_fR, fa_fR, fb_fR, fg_fR]

theorem fmax (d : Field) (a : Field) (b : Field) (g : Guard) : Statement (.fmax d a b g) := by
  intro nx
  refine (decode_two _ _ _).trans (row_fR ?_)
  change (fun (feed : Bool) (w : Word) (e : Option Word) => (.ok (.fmax (fd w) (fa w) (fb w) (fg w)) : Except DecodeError Instr)) false (fR 0x31 d a b g) (some nx) = _
  simp [fd_fR, fa_fR, fb_fR, fg_fR]

theorem fcmp (path : BitVec 1) (cond : BitVec 3) (pred : BitVec 3) (a : Field) (b : Field) (g : Guard) : Statement (.fcmp path cond pred a b g) := by
  intro nx
  refine (decode_two _ _ _).trans (row_fR ?_)
  change (fun (feed : Bool) (w : Word) (e : Option Word) => (.ok (.fcmp ((fd w).extractLsb' 6 1) ((fd w).extractLsb' 3 3) ((fd w).extractLsb' 0 3) (fa w) (fb w) (fg w)) : Except DecodeError Instr)) false (fR 0x32 (path ++ cond ++ pred) a b g) (some nx) = _
  simp [fd_fR, fa_fR, fb_fR, fg_fR, field_1_3_3_0, field_1_3_3_1, field_1_3_3_2]

theorem fclass (d : Field) (a : Field) (g : Guard) : Statement (.fclass d a g) := by
  intro nx
  refine (decode_two _ _ _).trans (row_fR ?_)
  change (fun (feed : Bool) (w : Word) (e : Option Word) => (body (fb w = 0) (.fclass (fd w) (fa w) (fg w)) : Except DecodeError Instr)) false (fR 0x33 d a 0 g) (some nx) = _
  simp [body, fd_fR, fa_fR, fb_fR, fg_fR]

theorem frnd (d : Field) (a : Field) (m : BitVec 3) (g : Guard) : Statement (.frnd d a m g) := by
  intro nx
  refine (decode_two _ _ _).trans (row_fR ?_)
  change (fun (feed : Bool) (w : Word) (e : Option Word) => (body ((fb w).extractLsb' 3 4 = 0) (.frnd (fd w) (fa w) ((fb w).extractLsb' 0 3) (fg w)) : Except DecodeError Instr)) false (fR 0x34 d a ((0 : BitVec 4) ++ m) g) (some nx) = _
  simp [body, fd_fR, fa_fR, fb_fR, fg_fR, field_4_3_0, field_4_3_1]

theorem fscl (d : Field) (a : Field) (b : Field) (g : Guard) : Statement (.fscl d a b g) := by
  intro nx
  refine (decode_two _ _ _).trans (row_fR ?_)
  change (fun (feed : Bool) (w : Word) (e : Option Word) => (.ok (.fscl (fd w) (fa w) (fb w) (fg w)) : Except DecodeError Instr)) false (fR 0x35 d a b g) (some nx) = _
  simp [fd_fR, fa_fR, fb_fR, fg_fR]

theorem hadd2 (d : Field) (a : Field) (b : Field) (g : Guard) : Statement (.hadd2 d a b g) := by
  intro nx
  refine (decode_two _ _ _).trans (row_fR ?_)
  change (fun (feed : Bool) (w : Word) (e : Option Word) => (.ok (.hadd2 (fd w) (fa w) (fb w) (fg w)) : Except DecodeError Instr)) false (fR 0x36 d a b g) (some nx) = _
  simp [fd_fR, fa_fR, fb_fR, fg_fR]

theorem hmul2 (d : Field) (a : Field) (b : Field) (g : Guard) : Statement (.hmul2 d a b g) := by
  intro nx
  refine (decode_two _ _ _).trans (row_fR ?_)
  change (fun (feed : Bool) (w : Word) (e : Option Word) => (.ok (.hmul2 (fd w) (fa w) (fb w) (fg w)) : Except DecodeError Instr)) false (fR 0x37 d a b g) (some nx) = _
  simp [fd_fR, fa_fR, fb_fR, fg_fR]

theorem hfma2 (d : Field) (a : Field) (b : Field) (g : Guard) : Statement (.hfma2 d a b g) := by
  intro nx
  refine (decode_two _ _ _).trans (row_fR ?_)
  change (fun (feed : Bool) (w : Word) (e : Option Word) => (.ok (.hfma2 (fd w) (fa w) (fb w) (fg w)) : Except DecodeError Instr)) false (fR 0x38 d a b g) (some nx) = _
  simp [fd_fR, fa_fR, fb_fR, fg_fR]

theorem hmin2 (d : Field) (a : Field) (b : Field) (g : Guard) : Statement (.hmin2 d a b g) := by
  intro nx
  refine (decode_two _ _ _).trans (row_fR ?_)
  change (fun (feed : Bool) (w : Word) (e : Option Word) => (.ok (.hmin2 (fd w) (fa w) (fb w) (fg w)) : Except DecodeError Instr)) false (fR 0x39 d a b g) (some nx) = _
  simp [fd_fR, fa_fR, fb_fR, fg_fR]

theorem hmax2 (d : Field) (a : Field) (b : Field) (g : Guard) : Statement (.hmax2 d a b g) := by
  intro nx
  refine (decode_two _ _ _).trans (row_fR ?_)
  change (fun (feed : Bool) (w : Word) (e : Option Word) => (.ok (.hmax2 (fd w) (fa w) (fb w) (fg w)) : Except DecodeError Instr)) false (fR 0x3A d a b g) (some nx) = _
  simp [fd_fR, fa_fR, fb_fR, fg_fR]

theorem hcmp2 (path : BitVec 1) (cond : BitVec 3) (pred : BitVec 3) (a : Field) (b : Field) (g : Guard) : Statement (.hcmp2 path cond pred a b g) := by
  intro nx
  refine (decode_two _ _ _).trans (row_fR ?_)
  change (fun (feed : Bool) (w : Word) (e : Option Word) => (.ok (.hcmp2 ((fd w).extractLsb' 6 1) ((fd w).extractLsb' 3 3) ((fd w).extractLsb' 0 3) (fa w) (fb w) (fg w)) : Except DecodeError Instr)) false (fR 0x3B (path ++ cond ++ pred) a b g) (some nx) = _
  simp [fd_fR, fa_fR, fb_fR, fg_fR, field_1_3_3_0, field_1_3_3_1, field_1_3_3_2]

theorem badd2 (d : Field) (a : Field) (b : Field) (g : Guard) : Statement (.badd2 d a b g) := by
  intro nx
  refine (decode_two _ _ _).trans (row_fR ?_)
  change (fun (feed : Bool) (w : Word) (e : Option Word) => (.ok (.badd2 (fd w) (fa w) (fb w) (fg w)) : Except DecodeError Instr)) false (fR 0x3C d a b g) (some nx) = _
  simp [fd_fR, fa_fR, fb_fR, fg_fR]

theorem bmul2 (d : Field) (a : Field) (b : Field) (g : Guard) : Statement (.bmul2 d a b g) := by
  intro nx
  refine (decode_two _ _ _).trans (row_fR ?_)
  change (fun (feed : Bool) (w : Word) (e : Option Word) => (.ok (.bmul2 (fd w) (fa w) (fb w) (fg w)) : Except DecodeError Instr)) false (fR 0x3D d a b g) (some nx) = _
  simp [fd_fR, fa_fR, fb_fR, fg_fR]

theorem bfma2 (d : Field) (a : Field) (b : Field) (g : Guard) : Statement (.bfma2 d a b g) := by
  intro nx
  refine (decode_two _ _ _).trans (row_fR ?_)
  change (fun (feed : Bool) (w : Word) (e : Option Word) => (.ok (.bfma2 (fd w) (fa w) (fb w) (fg w)) : Except DecodeError Instr)) false (fR 0x3E d a b g) (some nx) = _
  simp [fd_fR, fa_fR, fb_fR, fg_fR]

theorem bmin2 (d : Field) (a : Field) (b : Field) (g : Guard) : Statement (.bmin2 d a b g) := by
  intro nx
  refine (decode_two _ _ _).trans (row_fR ?_)
  change (fun (feed : Bool) (w : Word) (e : Option Word) => (.ok (.bmin2 (fd w) (fa w) (fb w) (fg w)) : Except DecodeError Instr)) false (fR 0x3F d a b g) (some nx) = _
  simp [fd_fR, fa_fR, fb_fR, fg_fR]

theorem bmax2 (d : Field) (a : Field) (b : Field) (g : Guard) : Statement (.bmax2 d a b g) := by
  intro nx
  refine (decode_two _ _ _).trans (row_fR ?_)
  change (fun (feed : Bool) (w : Word) (e : Option Word) => (.ok (.bmax2 (fd w) (fa w) (fb w) (fg w)) : Except DecodeError Instr)) false (fR 0x40 d a b g) (some nx) = _
  simp [fd_fR, fa_fR, fb_fR, fg_fR]

theorem bcmp2 (path : BitVec 1) (cond : BitVec 3) (pred : BitVec 3) (a : Field) (b : Field) (g : Guard) : Statement (.bcmp2 path cond pred a b g) := by
  intro nx
  refine (decode_two _ _ _).trans (row_fR ?_)
  change (fun (feed : Bool) (w : Word) (e : Option Word) => (.ok (.bcmp2 ((fd w).extractLsb' 6 1) ((fd w).extractLsb' 3 3) ((fd w).extractLsb' 0 3) (fa w) (fb w) (fg w)) : Except DecodeError Instr)) false (fR 0x41 (path ++ cond ++ pred) a b g) (some nx) = _
  simp [fd_fR, fa_fR, fb_fR, fg_fR, field_1_3_3_0, field_1_3_3_1, field_1_3_3_2]

theorem dadd (d : Field) (a : Field) (b : Field) (g : Guard) : Statement (.dadd d a b g) := by
  intro nx
  refine (decode_two _ _ _).trans (row_fR ?_)
  change (fun (feed : Bool) (w : Word) (e : Option Word) => (.ok (.dadd (fd w) (fa w) (fb w) (fg w)) : Except DecodeError Instr)) false (fR 0x42 d a b g) (some nx) = _
  simp [fd_fR, fa_fR, fb_fR, fg_fR]

theorem dmul (d : Field) (a : Field) (b : Field) (g : Guard) : Statement (.dmul d a b g) := by
  intro nx
  refine (decode_two _ _ _).trans (row_fR ?_)
  change (fun (feed : Bool) (w : Word) (e : Option Word) => (.ok (.dmul (fd w) (fa w) (fb w) (fg w)) : Except DecodeError Instr)) false (fR 0x43 d a b g) (some nx) = _
  simp [fd_fR, fa_fR, fb_fR, fg_fR]

theorem dfma (d : Field) (a : Field) (b : Field) (g : Guard) : Statement (.dfma d a b g) := by
  intro nx
  refine (decode_two _ _ _).trans (row_fR ?_)
  change (fun (feed : Bool) (w : Word) (e : Option Word) => (.ok (.dfma (fd w) (fa w) (fb w) (fg w)) : Except DecodeError Instr)) false (fR 0x44 d a b g) (some nx) = _
  simp [fd_fR, fa_fR, fb_fR, fg_fR]

theorem dcmp (path : BitVec 1) (cond : BitVec 3) (pred : BitVec 3) (a : Field) (b : Field) (g : Guard) : Statement (.dcmp path cond pred a b g) := by
  intro nx
  refine (decode_two _ _ _).trans (row_fR ?_)
  change (fun (feed : Bool) (w : Word) (e : Option Word) => (.ok (.dcmp ((fd w).extractLsb' 6 1) ((fd w).extractLsb' 3 3) ((fd w).extractLsb' 0 3) (fa w) (fb w) (fg w)) : Except DecodeError Instr)) false (fR 0x45 (path ++ cond ++ pred) a b g) (some nx) = _
  simp [fd_fR, fa_fR, fb_fR, fg_fR, field_1_3_3_0, field_1_3_3_1, field_1_3_3_2]

theorem cvtf (d : Field) (a : Field) (h : BitVec 1) (src : BitVec 3) (dst : BitVec 2) (g : Guard) : Statement (.cvtf d a h src dst g) := by
  intro nx
  refine (decode_two _ _ _).trans (row_fR ?_)
  change (fun (feed : Bool) (w : Word) (e : Option Word) => (body ((fb w).extractLsb' 2 1 = 0) (.cvtf (fd w) (fa w) ((fb w).extractLsb' 6 1) ((fb w).extractLsb' 3 3) ((fb w).extractLsb' 0 2) (fg w)) : Except DecodeError Instr)) false (fR 0x46 d a (h ++ src ++ (0 : BitVec 1) ++ dst) g) (some nx) = _
  simp [body, fd_fR, fa_fR, fb_fR, fg_fR, field_1_3_1_2_0, field_1_3_1_2_1, field_1_3_1_2_2, field_1_3_1_2_3]

theorem cvti (d : Field) (a : Field) (mode : BitVec 3) (dst : BitVec 2) (src : BitVec 2) (g : Guard) : Statement (.cvti d a mode dst src g) := by
  intro nx
  refine (decode_two _ _ _).trans (row_fR ?_)
  change (fun (feed : Bool) (w : Word) (e : Option Word) => (.ok (.cvti (fd w) (fa w) ((fb w).extractLsb' 4 3) ((fb w).extractLsb' 2 2) ((fb w).extractLsb' 0 2) (fg w)) : Except DecodeError Instr)) false (fR 0x47 d a (mode ++ dst ++ src) g) (some nx) = _
  simp [fd_fR, fa_fR, fb_fR, fg_fR, field_3_2_2_0, field_3_2_2_1, field_3_2_2_2]

theorem pack2 (d : Field) (a : Field) (m : BitVec 3) (g : Guard) : Statement (.pack2 d a m g) := by
  intro nx
  refine (decode_two _ _ _).trans (row_fR ?_)
  change (fun (feed : Bool) (w : Word) (e : Option Word) => (body ((fb w).extractLsb' 3 4 = 0) (.pack2 (fd w) (fa w) ((fb w).extractLsb' 0 3) (fg w)) : Except DecodeError Instr)) false (fR 0x48 d a ((0 : BitVec 4) ++ m) g) (some nx) = _
  simp [body, fd_fR, fa_fR, fb_fR, fg_fR, field_4_3_0, field_4_3_1]

theorem rcp (d : Field) (a : Field) (g : Guard) : Statement (.rcp d a g) := by
  intro nx
  refine (decode_two _ _ _).trans (row_fR ?_)
  change (fun (feed : Bool) (w : Word) (e : Option Word) => (body (fb w = 0) (.rcp (fd w) (fa w) (fg w)) : Except DecodeError Instr)) false (fR 0x49 d a 0 g) (some nx) = _
  simp [body, fd_fR, fa_fR, fb_fR, fg_fR]

theorem rsq (d : Field) (a : Field) (g : Guard) : Statement (.rsq d a g) := by
  intro nx
  refine (decode_two _ _ _).trans (row_fR ?_)
  change (fun (feed : Bool) (w : Word) (e : Option Word) => (body (fb w = 0) (.rsq (fd w) (fa w) (fg w)) : Except DecodeError Instr)) false (fR 0x4A d a 0 g) (some nx) = _
  simp [body, fd_fR, fa_fR, fb_fR, fg_fR]

theorem sqrt (d : Field) (a : Field) (g : Guard) : Statement (.sqrt d a g) := by
  intro nx
  refine (decode_two _ _ _).trans (row_fR ?_)
  change (fun (feed : Bool) (w : Word) (e : Option Word) => (body (fb w = 0) (.sqrt (fd w) (fa w) (fg w)) : Except DecodeError Instr)) false (fR 0x4B d a 0 g) (some nx) = _
  simp [body, fd_fR, fa_fR, fb_fR, fg_fR]

theorem exp2 (d : Field) (a : Field) (g : Guard) : Statement (.exp2 d a g) := by
  intro nx
  refine (decode_two _ _ _).trans (row_fR ?_)
  change (fun (feed : Bool) (w : Word) (e : Option Word) => (body (fb w = 0) (.exp2 (fd w) (fa w) (fg w)) : Except DecodeError Instr)) false (fR 0x4C d a 0 g) (some nx) = _
  simp [body, fd_fR, fa_fR, fb_fR, fg_fR]

theorem log2 (d : Field) (a : Field) (g : Guard) : Statement (.log2 d a g) := by
  intro nx
  refine (decode_two _ _ _).trans (row_fR ?_)
  change (fun (feed : Bool) (w : Word) (e : Option Word) => (body (fb w = 0) (.log2 (fd w) (fa w) (fg w)) : Except DecodeError Instr)) false (fR 0x4D d a 0 g) (some nx) = _
  simp [body, fd_fR, fa_fR, fb_fR, fg_fR]

theorem sinp (d : Field) (a : Field) (g : Guard) : Statement (.sinp d a g) := by
  intro nx
  refine (decode_two _ _ _).trans (row_fR ?_)
  change (fun (feed : Bool) (w : Word) (e : Option Word) => (body (fb w = 0) (.sinp (fd w) (fa w) (fg w)) : Except DecodeError Instr)) false (fR 0x4E d a 0 g) (some nx) = _
  simp [body, fd_fR, fa_fR, fb_fR, fg_fR]

theorem cosp (d : Field) (a : Field) (g : Guard) : Statement (.cosp d a g) := by
  intro nx
  refine (decode_two _ _ _).trans (row_fR ?_)
  change (fun (feed : Bool) (w : Word) (e : Option Word) => (body (fb w = 0) (.cosp (fd w) (fa w) (fg w)) : Except DecodeError Instr)) false (fR 0x4F d a 0 g) (some nx) = _
  simp [body, fd_fR, fa_fR, fb_fR, fg_fR]

theorem tanh (d : Field) (a : Field) (g : Guard) : Statement (.tanh d a g) := by
  intro nx
  refine (decode_two _ _ _).trans (row_fR ?_)
  change (fun (feed : Bool) (w : Word) (e : Option Word) => (body (fb w = 0) (.tanh (fd w) (fa w) (fg w)) : Except DecodeError Instr)) false (fR 0x50 d a 0 g) (some nx) = _
  simp [body, fd_fR, fa_fR, fb_fR, fg_fR]

theorem mov (d : Field) (a : Field) (g : Guard) : Statement (.mov d a g) := by
  intro nx
  refine (decode_two _ _ _).trans (row_fR ?_)
  change (fun (feed : Bool) (w : Word) (e : Option Word) => (body (fb w = 0) (.mov (fd w) (fa w) (fg w)) : Except DecodeError Instr)) false (fR 0x51 d a 0 g) (some nx) = _
  simp [body, fd_fR, fa_fR, fb_fR, fg_fR]

theorem movi (d : Field) (i : BitVec 14) (g : Guard) : Statement (.movi d i g) := by
  intro nx
  refine (decode_two _ _ _).trans (row_fW ?_)
  change (fun (feed : Bool) (w : Word) (e : Option Word) => (.ok (.movi (fd w) (fi w) (fg w)) : Except DecodeError Instr)) false (fW 0x52 d i g) (some nx) = _
  simp [fd_fW, fi_fW, fg_fW]

theorem movl (d : Field) (g : Guard) (lit : Word) : Statement (.movl d g lit) := by
  intro nx
  refine (decode_two _ _ _).trans (row_fW ?_)
  change (fun (feed : Bool) (w : Word) (e : Option Word) => (ext e fun x => body (fi w = 0) (.movl (fd w) (fg w) (x)) : Except DecodeError Instr)) false (fW 0x53 d 0 g) (some lit) = _
  simp [ext, body, fd_fW, fi_fW, fg_fW]

theorem bra (n : BitVec 1) (i : BitVec 14) (g : Guard) : Statement (.bra n i g) := by
  intro nx
  refine (decode_two _ _ _).trans (row_fW ?_)
  change (fun (feed : Bool) (w : Word) (e : Option Word) => (body ((fd w).extractLsb' 1 6 = 0) (.bra ((fd w).extractLsb' 0 1) (fi w) (fg w)) : Except DecodeError Instr)) false (fW 0x54 ((0 : BitVec 6) ++ n) i g) (some nx) = _
  simp [body, fd_fW, fi_fW, fg_fW, field_6_1_0, field_6_1_1]

theorem brau (n : BitVec 1) (q : BitVec 2) (i : BitVec 14) (g : Guard) : Statement (.brau n q i g) := by
  intro nx
  refine (decode_two _ _ _).trans (row_fW ?_)
  change (fun (feed : Bool) (w : Word) (e : Option Word) => (body ((fd w).extractLsb' 3 4 = 0) (.brau ((fd w).extractLsb' 2 1) ((fd w).extractLsb' 0 2) (fi w) (fg w)) : Except DecodeError Instr)) false (fW 0x55 ((0 : BitVec 4) ++ n ++ q) i g) (some nx) = _
  simp [body, fd_fW, fi_fW, fg_fW, field_4_1_2_0, field_4_1_2_1, field_4_1_2_2]

theorem jmp (g : Guard) (lit : Word) : Statement (.jmp g lit) := by
  intro nx
  refine (decode_two _ _ _).trans (row_fW ?_)
  change (fun (feed : Bool) (w : Word) (e : Option Word) => (ext e fun x => body (fd w = 0 ∧ fi w = 0) (.jmp (fg w) (x)) : Except DecodeError Instr)) false (fW 0x56 0 0 g) (some lit) = _
  simp [ext, body, fd_fW, fi_fW, fg_fW]

theorem jmpi (a : Field) (g : Guard) : Statement (.jmpi a g) := by
  intro nx
  refine (decode_two _ _ _).trans (row_fR ?_)
  change (fun (feed : Bool) (w : Word) (e : Option Word) => (body (fd w = 0 ∧ fb w = 0) (.jmpi (fa w) (fg w)) : Except DecodeError Instr)) false (fR 0x57 0 a 0 g) (some nx) = _
  simp [body, fd_fR, fa_fR, fb_fR, fg_fR]

theorem call (i : BitVec 14) (g : Guard) : Statement (.call i g) := by
  intro nx
  refine (decode_two _ _ _).trans (row_fW ?_)
  change (fun (feed : Bool) (w : Word) (e : Option Word) => (body (fd w = 0) (.call (fi w) (fg w)) : Except DecodeError Instr)) false (fW 0x58 0 i g) (some nx) = _
  simp [body, fd_fW, fi_fW, fg_fW]

theorem calli (a : Field) (g : Guard) : Statement (.calli a g) := by
  intro nx
  refine (decode_two _ _ _).trans (row_fR ?_)
  change (fun (feed : Bool) (w : Word) (e : Option Word) => (body (fd w = 0 ∧ fb w = 0) (.calli (fa w) (fg w)) : Except DecodeError Instr)) false (fR 0x59 0 a 0 g) (some nx) = _
  simp [body, fd_fR, fa_fR, fb_fR, fg_fR]

theorem ret (g : Guard) : Statement (.ret g) := by
  intro nx
  refine (decode_two _ _ _).trans (row_fR ?_)
  change (fun (feed : Bool) (w : Word) (e : Option Word) => (body (fd w = 0 ∧ fa w = 0 ∧ fb w = 0) (.ret (fg w)) : Except DecodeError Instr)) false (fR 0x5A 0 0 0 g) (some nx) = _
  simp [body, fd_fR, fa_fR, fb_fR, fg_fR]

theorem reform  : Statement (.reform) := by
  intro nx
  refine (decode_two _ _ _).trans (row_fR ?_)
  change (fun (feed : Bool) (w : Word) (e : Option Word) => (body (fd w = 0 ∧ fa w = 0 ∧ fb w = 0 ∧ fg w = 0) .reform : Except DecodeError Instr)) false (fR 0x5B 0 0 0 0) (some nx) = _
  simp [body, fd_fR, fa_fR, fb_fR, fg_fR]

theorem exit (g : Guard) : Statement (.exit g) := by
  intro nx
  refine (decode_two _ _ _).trans (row_fR ?_)
  change (fun (feed : Bool) (w : Word) (e : Option Word) => (body (fd w = 0 ∧ fa w = 0 ∧ fb w = 0) (.exit (fg w)) : Except DecodeError Instr)) false (fR 0x5C 0 0 0 g) (some nx) = _
  simp [body, fd_fR, fa_fR, fb_fR, fg_fR]

theorem nop  : Statement (.nop) := by
  intro nx
  refine (decode_two _ _ _).trans (row_fR ?_)
  change (fun (feed : Bool) (w : Word) (e : Option Word) => (body (fd w = 0 ∧ fa w = 0 ∧ fb w = 0 ∧ fg w = 0) .nop : Except DecodeError Instr)) false (fR 0x5D 0 0 0 0) (some nx) = _
  simp [body, fd_fR, fa_fR, fb_fR, fg_fR]

theorem yieldI  : Statement (.yieldI) := by
  intro nx
  refine (decode_two _ _ _).trans (row_fR ?_)
  change (fun (feed : Bool) (w : Word) (e : Option Word) => (body (fd w = 0 ∧ fa w = 0 ∧ fb w = 0 ∧ fg w = 0) .yieldI : Except DecodeError Instr)) false (fR 0x5E 0 0 0 0) (some nx) = _
  simp [body, fd_fR, fa_fR, fb_fR, fg_fR]

theorem vote (d : Field) (g : Guard) (m : CrewMod) : Statement (.vote d g m) := by
  intro nx
  refine (decode_two _ _ _).trans (row_fR ?_)
  change (fun (feed : Bool) (w : Word) (e : Option Word) => (ext e fun x => body (fa w = 0 ∧ fb w = 0 ∧ crewRsv x = 0) (.vote (fd w) (fg w) (decCrew x)) : Except DecodeError Instr)) false (fR 0x5F d 0 0 g) (some (encCrew m)) = _
  simp [ext, body, fd_fR, fa_fR, fb_fR, fg_fR, decCrew_encCrew, crewRsv_encCrew]

theorem shfl (d : Field) (a : Field) (b : Field) (g : Guard) (m : CrewMod) : Statement (.shfl d a b g m) := by
  intro nx
  refine (decode_two _ _ _).trans (row_fR ?_)
  change (fun (feed : Bool) (w : Word) (e : Option Word) => (ext e fun x => body (crewRsv x = 0) (.shfl (fd w) (fa w) (fb w) (fg w) (decCrew x)) : Except DecodeError Instr)) false (fR 0x60 d a b g) (some (encCrew m)) = _
  simp [ext, body, fd_fR, fa_fR, fb_fR, fg_fR, decCrew_encCrew, crewRsv_encCrew]

theorem cred (d : Field) (a : Field) (g : Guard) (m : CrewMod) : Statement (.cred d a g m) := by
  intro nx
  refine (decode_two _ _ _).trans (row_fR ?_)
  change (fun (feed : Bool) (w : Word) (e : Option Word) => (ext e fun x => body (fb w = 0 ∧ crewRsv x = 0) (.cred (fd w) (fa w) (fg w) (decCrew x)) : Except DecodeError Instr)) false (fR 0x61 d a 0 g) (some (encCrew m)) = _
  simp [ext, body, fd_fR, fa_fR, fb_fR, fg_fR, decCrew_encCrew, crewRsv_encCrew]

theorem cscan (d : Field) (a : Field) (g : Guard) (m : CrewMod) : Statement (.cscan d a g m) := by
  intro nx
  refine (decode_two _ _ _).trans (row_fR ?_)
  change (fun (feed : Bool) (w : Word) (e : Option Word) => (ext e fun x => body (fb w = 0 ∧ crewRsv x = 0) (.cscan (fd w) (fa w) (fg w) (decCrew x)) : Except DecodeError Instr)) false (fR 0x62 d a 0 g) (some (encCrew m)) = _
  simp [ext, body, fd_fR, fa_fR, fb_fR, fg_fR, decCrew_encCrew, crewRsv_encCrew]

theorem matchEq (d : Field) (a : Field) (g : Guard) (m : CrewMod) : Statement (.matchEq d a g m) := by
  intro nx
  refine (decode_two _ _ _).trans (row_fR ?_)
  change (fun (feed : Bool) (w : Word) (e : Option Word) => (ext e fun x => body (fb w = 0 ∧ crewRsv x = 0) (.matchEq (fd w) (fa w) (fg w) (decCrew x)) : Except DecodeError Instr)) false (fR 0x63 d a 0 g) (some (encCrew m)) = _
  simp [ext, body, fd_fR, fa_fR, fb_fR, fg_fR, decCrew_encCrew, crewRsv_encCrew]

theorem csync (g : Guard) (m : CrewMod) : Statement (.csync g m) := by
  intro nx
  refine (decode_two _ _ _).trans (row_fR ?_)
  change (fun (feed : Bool) (w : Word) (e : Option Word) => (ext e fun x => body (fd w = 0 ∧ fa w = 0 ∧ fb w = 0 ∧ crewRsv x = 0) (.csync (fg w) (decCrew x)) : Except DecodeError Instr)) false (fR 0x64 0 0 0 g) (some (encCrew m)) = _
  simp [ext, body, fd_fR, fa_fR, fb_fR, fg_fR, decCrew_encCrew, crewRsv_encCrew]

theorem bar (scope : BitVec 1) (id : BitVec 4) : Statement (.bar scope id) := by
  intro nx
  refine (decode_two _ _ _).trans (row_fR ?_)
  change (fun (feed : Bool) (w : Word) (e : Option Word) => (body (fd w = 0 ∧ fa w = 0 ∧ fg w = 0 ∧ (fb w).extractLsb' 5 2 = 0) (.bar ((fb w).extractLsb' 4 1) ((fb w).extractLsb' 0 4)) : Except DecodeError Instr)) false (fR 0x65 0 0 ((0 : BitVec 2) ++ scope ++ id) 0) (some nx) = _
  simp [body, fd_fR, fa_fR, fb_fR, fg_fR, field_2_1_4_0, field_2_1_4_1, field_2_1_4_2]

theorem lbar  : Statement (.lbar) := by
  intro nx
  refine (decode_two _ _ _).trans (row_fR ?_)
  change (fun (feed : Bool) (w : Word) (e : Option Word) => (body (fd w = 0 ∧ fa w = 0 ∧ fb w = 0 ∧ fg w = 0) .lbar : Except DecodeError Instr)) false (fR 0x66 0 0 0 0) (some nx) = _
  simp [body, fd_fR, fa_fR, fb_fR, fg_fR]

theorem waitcmp (u : BitVec 1) (cond : BitVec 3) (a : Field) (b : Field) (g : Guard) (m : MemMod) : Statement (.waitcmp u cond a b g m) := by
  intro nx
  refine (decode_two _ _ _).trans (row_fR ?_)
  change (fun (feed : Bool) (w : Word) (e : Option Word) => (ext e fun x => body ((fd w).extractLsb' 0 3 = 0) (.waitcmp ((fd w).extractLsb' 6 1) ((fd w).extractLsb' 3 3) (fa w) (fb w) (fg w) (decMem x)) : Except DecodeError Instr)) false (fR 0x67 (u ++ cond ++ (0 : BitVec 3)) a b g) (some (encMem m)) = _
  simp [ext, body, fd_fR, fa_fR, fb_fR, fg_fR, decMem_encMem, field_1_3_3_0, field_1_3_3_1, field_1_3_3_2]

theorem fence (ord : BitVec 2) (scope : BitVec 3) : Statement (.fence ord scope) := by
  intro nx
  refine (decode_two _ _ _).trans (row_fR ?_)
  change (fun (feed : Bool) (w : Word) (e : Option Word) => (body (fd w = 0 ∧ fa w = 0 ∧ fg w = 0 ∧ (fb w).extractLsb' 5 2 = 0) (.fence ((fb w).extractLsb' 3 2) ((fb w).extractLsb' 0 3)) : Except DecodeError Instr)) false (fR 0x68 0 0 ((0 : BitVec 2) ++ ord ++ scope) 0) (some nx) = _
  simp [body, fd_fR, fa_fR, fb_fR, fg_fR, field_2_2_3_0, field_2_2_3_1, field_2_2_3_2]

theorem fenceo  : Statement (.fenceo) := by
  intro nx
  refine (decode_two _ _ _).trans (row_fR ?_)
  change (fun (feed : Bool) (w : Word) (e : Option Word) => (body (fd w = 0 ∧ fa w = 0 ∧ fb w = 0 ∧ fg w = 0) .fenceo : Except DecodeError Instr)) false (fR 0x69 0 0 0 0) (some nx) = _
  simp [body, fd_fR, fa_fR, fb_fR, fg_fR]

theorem fencer (scope : BitVec 3) : Statement (.fencer scope) := by
  intro nx
  refine (decode_two _ _ _).trans (row_fR ?_)
  change (fun (feed : Bool) (w : Word) (e : Option Word) => (body (fd w = 0 ∧ fa w = 0 ∧ fg w = 0 ∧ (fb w).extractLsb' 3 4 = 0) (.fencer ((fb w).extractLsb' 0 3)) : Except DecodeError Instr)) false (fR 0x6A 0 0 ((0 : BitVec 4) ++ scope) 0) (some nx) = _
  simp [body, fd_fR, fa_fR, fb_fR, fg_fR, field_4_3_0, field_4_3_1]

theorem plop (path : BitVec 1) (r : BitVec 3) (pb : BitVec 3) (pa : BitVec 3) (lut : BitVec 4) (g : Guard) : Statement (.plop path r pb pa lut g) := by
  intro nx
  refine (decode_two _ _ _).trans (row_fR ?_)
  change (fun (feed : Bool) (w : Word) (e : Option Word) => (body ((fd w).extractLsb' 3 3 = 0 ∧ (fa w).extractLsb' 6 1 = 0 ∧ (fb w).extractLsb' 4 3 = 0) (.plop ((fd w).extractLsb' 6 1) ((fd w).extractLsb' 0 3) ((fa w).extractLsb' 3 3) ((fa w).extractLsb' 0 3) ((fb w).extractLsb' 0 4) (fg w)) : Except DecodeError Instr)) false (fR 0x6B (path ++ (0 : BitVec 3) ++ r) ((0 : BitVec 1) ++ pb ++ pa) ((0 : BitVec 3) ++ lut) g) (some nx) = _
  simp [body, fd_fR, fa_fR, fb_fR, fg_fR, field_1_3_3_0, field_1_3_3_1, field_1_3_3_2, field_3_4_0, field_3_4_1]

theorem p2v (d : Field) (g : Guard) : Statement (.p2v d g) := by
  intro nx
  refine (decode_two _ _ _).trans (row_fR ?_)
  change (fun (feed : Bool) (w : Word) (e : Option Word) => (body (fa w = 0 ∧ fb w = 0) (.p2v (fd w) (fg w)) : Except DecodeError Instr)) false (fR 0x6C d 0 0 g) (some nx) = _
  simp [body, fd_fR, fa_fR, fb_fR, fg_fR]

theorem v2p (path : BitVec 1) (a : Field) (b : Field) (g : Guard) : Statement (.v2p path a b g) := by
  intro nx
  refine (decode_two _ _ _).trans (row_fR ?_)
  change (fun (feed : Bool) (w : Word) (e : Option Word) => (body ((fd w).extractLsb' 0 6 = 0) (.v2p ((fd w).extractLsb' 6 1) (fa w) (fb w) (fg w)) : Except DecodeError Instr)) false (fR 0x6D (path ++ (0 : BitVec 6)) a b g) (some nx) = _
  simp [body, fd_fR, fa_fR, fb_fR, fg_fR, field_1_6_0, field_1_6_1]

theorem rdsr (d : Field) (i : BitVec 7) (g : Guard) : Statement (.rdsr d i g) := by
  intro nx
  refine (decode_two _ _ _).trans (row_fR ?_)
  change (fun (feed : Bool) (w : Word) (e : Option Word) => (body (fa w = 0) (.rdsr (fd w) (fb w) (fg w)) : Except DecodeError Instr)) false (fR 0x6E d 0 i g) (some nx) = _
  simp [body, fd_fR, fa_fR, fb_fR, fg_fR]

theorem wrsr (a : BitVec 6) (i : BitVec 7) (g : Guard) : Statement (.wrsr a i g) := by
  intro nx
  refine (decode_two _ _ _).trans (row_fR ?_)
  change (fun (feed : Bool) (w : Word) (e : Option Word) => (kOnly (fa w) (body (fd w = 0) (.wrsr (flo (fa w)) (fb w) (fg w))) : Except DecodeError Instr)) false (fR 0x6F 0 (kf a) i g) (some nx) = _
  simp [body, kOnly, fd_fR, fa_fR, fb_fR, fg_fR, flo_kf, isK_kf]

theorem winbImm (i : BitVec 7) (g : Guard) : Statement (.winbImm i g) := by
  intro nx
  refine (decode_two _ _ _).trans (row_fR ?_)
  change (fun (feed : Bool) (w : Word) (e : Option Word) => (if fa w = 0 then body (fd w = 0) (.winbImm (fb w) (fg w)) else kOnly (fa w) (body (fd w = 0 ∧ fb w = 0) (.winbReg (flo (fa w)) (fg w))) : Except DecodeError Instr)) false (fR 0x70 0 0 i g) (some nx) = _
  simp [body, fd_fR, fa_fR, fb_fR, fg_fR]

theorem winbReg (a : BitVec 6) (g : Guard) : Statement (.winbReg a g) := by
  intro nx
  refine (decode_two _ _ _).trans (row_fR ?_)
  change (fun (feed : Bool) (w : Word) (e : Option Word) => (if fa w = 0 then body (fd w = 0) (.winbImm (fb w) (fg w)) else kOnly (fa w) (body (fd w = 0 ∧ fb w = 0) (.winbReg (flo (fa w)) (fg w))) : Except DecodeError Instr)) false (fR 0x70 0 (kf a) 0 g) (some nx) = _
  simp [body, kOnly, fd_fR, fa_fR, fb_fR, fg_fR, flo_kf, isK_kf, kf_ne]

theorem cpart (w : BitVec 3) (g : Guard) : Statement (.cpart w g) := by
  intro nx
  refine (decode_two _ _ _).trans (row_fR ?_)
  change (fun (feed : Bool) (w : Word) (e : Option Word) => (body (fd w = 0 ∧ fa w = 0 ∧ (fb w).extractLsb' 3 4 = 0) (.cpart ((fb w).extractLsb' 0 3) (fg w)) : Except DecodeError Instr)) false (fR 0x71 0 0 ((0 : BitVec 4) ++ w) g) (some nx) = _
  simp [body, fd_fR, fa_fR, fb_fR, fg_fR, field_4_3_0, field_4_3_1]

theorem trap (c : BitVec 7) (g : Guard) : Statement (.trap c g) := by
  intro nx
  refine (decode_two _ _ _).trans (row_fR ?_)
  change (fun (feed : Bool) (w : Word) (e : Option Word) => (body (fd w = 0 ∧ fa w = 0) (.trap (fb w) (fg w)) : Except DecodeError Instr)) false (fR 0x72 0 0 c g) (some nx) = _
  simp [body, fd_fR, fa_fR, fb_fR, fg_fR]

theorem cancelSelf (l : BitVec 2) (g : Guard) : Statement (.cancelSelf l g) := by
  intro nx
  refine (decode_two _ _ _).trans (row_fR ?_)
  change (fun (feed : Bool) (w : Word) (e : Option Word) => (if (fb w).getLsbD 2 then body (fd w = 0 ∧ fa w = 0 ∧ (fb w).extractLsb' 3 4 = 0) (.cancelSelf ((fb w).extractLsb' 0 2) (fg w)) else kOnly (fa w) (body (fd w = 0 ∧ (fb w).extractLsb' 3 4 = 0) (.cancelId (flo (fa w)) ((fb w).extractLsb' 0 2) (fg w))) : Except DecodeError Instr)) false (fR 0x73 0 0 ((0 : BitVec 4) ++ (1 : BitVec 1) ++ l) g) (some nx) = _
  obtain rfl | rfl | rfl | rfl := two_bits l <;> simp [body, fd_fR, fa_fR, fb_fR, fg_fR]

theorem cancelId (a : BitVec 6) (l : BitVec 2) (g : Guard) : Statement (.cancelId a l g) := by
  intro nx
  refine (decode_two _ _ _).trans (row_fR ?_)
  change (fun (feed : Bool) (w : Word) (e : Option Word) => (if (fb w).getLsbD 2 then body (fd w = 0 ∧ fa w = 0 ∧ (fb w).extractLsb' 3 4 = 0) (.cancelSelf ((fb w).extractLsb' 0 2) (fg w)) else kOnly (fa w) (body (fd w = 0 ∧ (fb w).extractLsb' 3 4 = 0) (.cancelId (flo (fa w)) ((fb w).extractLsb' 0 2) (fg w))) : Except DecodeError Instr)) false (fR 0x73 0 (kf a) ((0 : BitVec 4) ++ (0 : BitVec 1) ++ l) g) (some nx) = _
  obtain rfl | rfl | rfl | rfl := two_bits l <;> simp [body, kOnly, fd_fR, fa_fR, fb_fR, fg_fR, flo_kf, isK_kf]

theorem wqpop (d : BitVec 6) (q : BitVec 2) (g : Guard) : Statement (.wqpop d q g) := by
  intro nx
  refine (decode_two _ _ _).trans (row_fR ?_)
  change (fun (feed : Bool) (w : Word) (e : Option Word) => (if (fb w).getLsbD 0 then kOnly (fa w) (body (fd w = 0 ∧ (fb w).extractLsb' 3 4 = 0) (.wqpush (flo (fa w)) ((fb w).extractLsb' 1 2) (fg w))) else kOnly (fd w) (body (fa w = 0 ∧ (fb w).extractLsb' 3 4 = 0) (.wqpop (flo (fd w)) ((fb w).extractLsb' 1 2) (fg w))) : Except DecodeError Instr)) false (fR 0x74 (kf d) 0 ((0 : BitVec 4) ++ q ++ (0 : BitVec 1)) g) (some nx) = _
  obtain rfl | rfl | rfl | rfl := two_bits q <;> simp [body, kOnly, fd_fR, fa_fR, fb_fR, fg_fR, flo_kf, isK_kf]

theorem wqpush (a : BitVec 6) (q : BitVec 2) (g : Guard) : Statement (.wqpush a q g) := by
  intro nx
  refine (decode_two _ _ _).trans (row_fR ?_)
  change (fun (feed : Bool) (w : Word) (e : Option Word) => (if (fb w).getLsbD 0 then kOnly (fa w) (body (fd w = 0 ∧ (fb w).extractLsb' 3 4 = 0) (.wqpush (flo (fa w)) ((fb w).extractLsb' 1 2) (fg w))) else kOnly (fd w) (body (fa w = 0 ∧ (fb w).extractLsb' 3 4 = 0) (.wqpop (flo (fd w)) ((fb w).extractLsb' 1 2) (fg w))) : Except DecodeError Instr)) false (fR 0x74 0 (kf a) ((0 : BitVec 4) ++ q ++ (1 : BitVec 1)) g) (some nx) = _
  obtain rfl | rfl | rfl | rfl := two_bits q <;> simp [body, kOnly, fd_fR, fa_fR, fb_fR, fg_fR, flo_kf, isK_kf]

theorem ld (d : Field) (a : Field) (b : Field) (g : Guard) (m : MemMod) : Statement (.ld d a b g m) := by
  intro nx
  refine (decode_two _ _ _).trans (row_fR ?_)
  change (fun (feed : Bool) (w : Word) (e : Option Word) => (ext e fun x => .ok (.ld (fd w) (fa w) (fb w) (fg w) (decMem x)) : Except DecodeError Instr)) false (fR 0x75 d a b g) (some (encMem m)) = _
  simp [ext, fd_fR, fa_fR, fb_fR, fg_fR, decMem_encMem]

theorem st (d : Field) (a : Field) (g : Guard) (m : MemMod) : Statement (.st d a g m) := by
  intro nx
  refine (decode_two _ _ _).trans (row_fR ?_)
  change (fun (feed : Bool) (w : Word) (e : Option Word) => (ext e fun x => body (fb w = 0) (.st (fd w) (fa w) (fg w) (decMem x)) : Except DecodeError Instr)) false (fR 0x76 d a 0 g) (some (encMem m)) = _
  simp [ext, body, fd_fR, fa_fR, fb_fR, fg_fR, decMem_encMem]

theorem ldk (d : Field) (a : Field) (b : Field) (g : Guard) (m : MemMod) : Statement (.ldk d a b g m) := by
  intro nx
  refine (decode_two _ _ _).trans (row_fR ?_)
  change (fun (feed : Bool) (w : Word) (e : Option Word) => (ext e fun x => .ok (.ldk (fd w) (fa w) (fb w) (fg w) (decMem x)) : Except DecodeError Instr)) false (fR 0x77 d a b g) (some (encMem m)) = _
  simp [ext, fd_fR, fa_fR, fb_fR, fg_fR, decMem_encMem]

theorem stk (d : Field) (a : Field) (g : Guard) (m : MemMod) : Statement (.stk d a g m) := by
  intro nx
  refine (decode_two _ _ _).trans (row_fR ?_)
  change (fun (feed : Bool) (w : Word) (e : Option Word) => (ext e fun x => body (fb w = 0) (.stk (fd w) (fa w) (fg w) (decMem x)) : Except DecodeError Instr)) false (fR 0x78 d a 0 g) (some (encMem m)) = _
  simp [ext, body, fd_fR, fa_fR, fb_fR, fg_fR, decMem_encMem]

theorem lds (d : Field) (a : Field) (b : Field) (g : Guard) (m : MemMod) : Statement (.lds d a b g m) := by
  intro nx
  refine (decode_two _ _ _).trans (row_fR ?_)
  change (fun (feed : Bool) (w : Word) (e : Option Word) => (ext e fun x => .ok (.lds (fd w) (fa w) (fb w) (fg w) (decMem x)) : Except DecodeError Instr)) false (fR 0x79 d a b g) (some (encMem m)) = _
  simp [ext, fd_fR, fa_fR, fb_fR, fg_fR, decMem_encMem]

theorem sts (d : Field) (a : Field) (g : Guard) (m : MemMod) : Statement (.sts d a g m) := by
  intro nx
  refine (decode_two _ _ _).trans (row_fR ?_)
  change (fun (feed : Bool) (w : Word) (e : Option Word) => (ext e fun x => body (fb w = 0) (.sts (fd w) (fa w) (fg w) (decMem x)) : Except DecodeError Instr)) false (fR 0x7A d a 0 g) (some (encMem m)) = _
  simp [ext, body, fd_fR, fa_fR, fb_fR, fg_fR, decMem_encMem]

theorem stsm (d : Field) (a : Field) (b : Field) (g : Guard) (m : MemMod) : Statement (.stsm d a b g m) := by
  intro nx
  refine (decode_two _ _ _).trans (row_fR ?_)
  change (fun (feed : Bool) (w : Word) (e : Option Word) => (ext e fun x => .ok (.stsm (fd w) (fa w) (fb w) (fg w) (decMem x)) : Except DecodeError Instr)) false (fR 0x7B d a b g) (some (encMem m)) = _
  simp [ext, fd_fR, fa_fR, fb_fR, fg_fR, decMem_encMem]

theorem ldp (d : Field) (a : Field) (b : Field) (g : Guard) (m : MemMod) : Statement (.ldp d a b g m) := by
  intro nx
  refine (decode_two _ _ _).trans (row_fR ?_)
  change (fun (feed : Bool) (w : Word) (e : Option Word) => (ext e fun x => .ok (.ldp (fd w) (fa w) (fb w) (fg w) (decMem x)) : Except DecodeError Instr)) false (fR 0x7C d a b g) (some (encMem m)) = _
  simp [ext, fd_fR, fa_fR, fb_fR, fg_fR, decMem_encMem]

theorem stp (d : Field) (a : Field) (b : Field) (g : Guard) (m : MemMod) : Statement (.stp d a b g m) := by
  intro nx
  refine (decode_two _ _ _).trans (row_fR ?_)
  change (fun (feed : Bool) (w : Word) (e : Option Word) => (ext e fun x => .ok (.stp (fd w) (fa w) (fb w) (fg w) (decMem x)) : Except DecodeError Instr)) false (fR 0x7D d a b g) (some (encMem m)) = _
  simp [ext, fd_fR, fa_fR, fb_fR, fg_fR, decMem_encMem]

theorem ldx (d : Field) (a : Field) (b : Field) (g : Guard) (m : MemMod) : Statement (.ldx d a b g m) := by
  intro nx
  refine (decode_two _ _ _).trans (row_fR ?_)
  change (fun (feed : Bool) (w : Word) (e : Option Word) => (ext e fun x => .ok (.ldx (fd w) (fa w) (fb w) (fg w) (decMem x)) : Except DecodeError Instr)) false (fR 0x7E d a b g) (some (encMem m)) = _
  simp [ext, fd_fR, fa_fR, fb_fR, fg_fR, decMem_encMem]

theorem stm (d : Field) (a : Field) (b : Field) (g : Guard) (m : MemMod) : Statement (.stm d a b g m) := by
  intro nx
  refine (decode_two _ _ _).trans (row_fR ?_)
  change (fun (feed : Bool) (w : Word) (e : Option Word) => (ext e fun x => .ok (.stm (fd w) (fa w) (fb w) (fg w) (decMem x)) : Except DecodeError Instr)) false (fR 0x7F d a b g) (some (encMem m)) = _
  simp [ext, fd_fR, fa_fR, fb_fR, fg_fR, decMem_encMem]

theorem atom (d : Field) (a : Field) (b : Field) (g : Guard) (m : MemMod) : Statement (.atom d a b g m) := by
  intro nx
  refine (decode_two _ _ _).trans (row_fR ?_)
  change (fun (feed : Bool) (w : Word) (e : Option Word) => (ext e fun x => .ok (.atom (fd w) (fa w) (fb w) (fg w) (decMem x)) : Except DecodeError Instr)) false (fR 0x80 d a b g) (some (encMem m)) = _
  simp [ext, fd_fR, fa_fR, fb_fR, fg_fR, decMem_encMem]

theorem atomk (d : Field) (a : Field) (b : Field) (g : Guard) (m : MemMod) : Statement (.atomk d a b g m) := by
  intro nx
  refine (decode_two _ _ _).trans (row_fR ?_)
  change (fun (feed : Bool) (w : Word) (e : Option Word) => (ext e fun x => .ok (.atomk (fd w) (fa w) (fb w) (fg w) (decMem x)) : Except DecodeError Instr)) false (fR 0x81 d a b g) (some (encMem m)) = _
  simp [ext, fd_fR, fa_fR, fb_fR, fg_fR, decMem_encMem]

theorem red (d : Field) (a : Field) (b : Field) (g : Guard) (m : MemMod) : Statement (.red d a b g m) := by
  intro nx
  refine (decode_two _ _ _).trans (row_fR ?_)
  change (fun (feed : Bool) (w : Word) (e : Option Word) => (ext e fun x => .ok (.red (fd w) (fa w) (fb w) (fg w) (decMem x)) : Except DecodeError Instr)) false (fR 0x82 d a b g) (some (encMem m)) = _
  simp [ext, fd_fR, fa_fR, fb_fR, fg_fR, decMem_encMem]

theorem cas (d : Field) (a : Field) (b : Field) (g : Guard) (m : MemMod) : Statement (.cas d a b g m) := by
  intro nx
  refine (decode_two _ _ _).trans (row_fR ?_)
  change (fun (feed : Bool) (w : Word) (e : Option Word) => (ext e fun x => .ok (.cas (fd w) (fa w) (fb w) (fg w) (decMem x)) : Except DecodeError Instr)) false (fR 0x83 d a b g) (some (encMem m)) = _
  simp [ext, fd_fR, fa_fR, fb_fR, fg_fR, decMem_encMem]

theorem invl1 (g : Guard) : Statement (.invl1 g) := by
  intro nx
  refine (decode_two _ _ _).trans (row_fR ?_)
  change (fun (feed : Bool) (w : Word) (e : Option Word) => (if (fb w).getLsbD 0 then kOnly (fa w) (body (fd w = 0 ∧ (fb w).extractLsb' 1 6 = 0) (.invl1Line (flo (fa w)) (fg w))) else body (fd w = 0 ∧ fa w = 0 ∧ fb w = 0) (.invl1 (fg w)) : Except DecodeError Instr)) false (fR 0x84 0 0 0 g) (some nx) = _
  simp [body, fd_fR, fa_fR, fb_fR, fg_fR]

theorem invl1Line (a : BitVec 6) (g : Guard) : Statement (.invl1Line a g) := by
  intro nx
  refine (decode_two _ _ _).trans (row_fR ?_)
  change (fun (feed : Bool) (w : Word) (e : Option Word) => (if (fb w).getLsbD 0 then kOnly (fa w) (body (fd w = 0 ∧ (fb w).extractLsb' 1 6 = 0) (.invl1Line (flo (fa w)) (fg w))) else body (fd w = 0 ∧ fa w = 0 ∧ fb w = 0) (.invl1 (fg w)) : Except DecodeError Instr)) false (fR 0x84 0 (kf a) 1 g) (some nx) = _
  simp [body, kOnly, fd_fR, fa_fR, fb_fR, fg_fR, flo_kf, isK_kf]

theorem pref (a : Field) (b : Field) (g : Guard) (m : MemMod) : Statement (.pref a b g m) := by
  intro nx
  refine (decode_two _ _ _).trans (row_fR ?_)
  change (fun (feed : Bool) (w : Word) (e : Option Word) => (ext e fun x => body (fd w = 0) (.pref (fa w) (fb w) (fg w) (decMem x)) : Except DecodeError Instr)) false (fR 0x85 0 a b g) (some (encMem m)) = _
  simp [ext, body, fd_fR, fa_fR, fb_fR, fg_fR, decMem_encMem]

theorem recld (a : Field) (b : Field) (g : Guard) (m : MemMod) : Statement (.recld a b g m) := by
  intro nx
  refine (decode_two _ _ _).trans (row_fR ?_)
  change (fun (feed : Bool) (w : Word) (e : Option Word) => (ext e fun x => body (fd w = 0) (.recld (fa w) (fb w) (fg w) (decMem x)) : Except DecodeError Instr)) false (fR 0x86 0 a b g) (some (encMem m)) = _
  simp [ext, body, fd_fR, fa_fR, fb_fR, fg_fR, decMem_encMem]

theorem pin (d : Field) (a : Field) (g : Guard) (m : ContractMod) : Statement (.pin d a g m) := by
  intro nx
  refine (decode_two _ _ _).trans (row_fR ?_)
  change (fun (feed : Bool) (w : Word) (e : Option Word) => (ext e fun x => body (fb w = 0 ∧ contractRsv x = 0) (.pin (fd w) (fa w) (fg w) (decContract x)) : Except DecodeError Instr)) false (fR 0x87 d a 0 g) (some (encContract m)) = _
  simp [ext, body, fd_fR, fa_fR, fb_fR, fg_fR, decContract_encContract, contractRsv_encContract]

theorem unpin (d : Field) (a : Field) (g : Guard) (m : ContractMod) : Statement (.unpin d a g m) := by
  intro nx
  refine (decode_two _ _ _).trans (row_fR ?_)
  change (fun (feed : Bool) (w : Word) (e : Option Word) => (ext e fun x => body (fb w = 0 ∧ contractRsv x = 0) (.unpin (fd w) (fa w) (fg w) (decContract x)) : Except DecodeError Instr)) false (fR 0x88 d a 0 g) (some (encContract m)) = _
  simp [ext, body, fd_fR, fa_fR, fb_fR, fg_fR, decContract_encContract, contractRsv_encContract]

theorem cctr (d : Field) (a : Field) (g : Guard) (m : ContractMod) : Statement (.cctr d a g m) := by
  intro nx
  refine (decode_two _ _ _).trans (row_fR ?_)
  change (fun (feed : Bool) (w : Word) (e : Option Word) => (ext e fun x => body (fb w = 0 ∧ contractRsv x = 0) (.cctr (fd w) (fa w) (fg w) (decContract x)) : Except DecodeError Instr)) false (fR 0x89 d a 0 g) (some (encContract m)) = _
  simp [ext, body, fd_fR, fa_fR, fb_fR, fg_fR, decContract_encContract, contractRsv_encContract]

theorem stpart (d : Field) (a : Field) (g : Guard) (m : ContractMod) : Statement (.stpart d a g m) := by
  intro nx
  refine (decode_two _ _ _).trans (row_fR ?_)
  change (fun (feed : Bool) (w : Word) (e : Option Word) => (ext e fun x => body (fb w = 0 ∧ contractRsv x = 0) (.stpart (fd w) (fa w) (fg w) (decContract x)) : Except DecodeError Instr)) false (fR 0x8A d a 0 g) (some (encContract m)) = _
  simp [ext, body, fd_fR, fa_fR, fb_fR, fg_fR, decContract_encContract, contractRsv_encContract]

theorem kvapp (a : Field) (g : Guard) (m : KvMod) : Statement (.kvapp a g m) := by
  intro nx
  refine (decode_two _ _ _).trans (row_fR ?_)
  change (fun (feed : Bool) (w : Word) (e : Option Word) => (ext e fun x => body (fd w = 0 ∧ fb w = 0 ∧ kvRsv x = 0) (.kvapp (fa w) (fg w) (decKv x)) : Except DecodeError Instr)) false (fR 0x8B 0 a 0 g) (some (encKv m)) = _
  simp [ext, body, fd_fR, fa_fR, fb_fR, fg_fR, decKv_encKv, kvRsv_encKv]

theorem kvfork (d : Field) (a : Field) (g : Guard) (m : KvMod) : Statement (.kvfork d a g m) := by
  intro nx
  refine (decode_two _ _ _).trans (row_fR ?_)
  change (fun (feed : Bool) (w : Word) (e : Option Word) => (ext e fun x => body (fb w = 0 ∧ kvRsv x = 0) (.kvfork (fd w) (fa w) (fg w) (decKv x)) : Except DecodeError Instr)) false (fR 0x8C d a 0 g) (some (encKv m)) = _
  simp [ext, body, fd_fR, fa_fR, fb_fR, fg_fR, decKv_encKv, kvRsv_encKv]

theorem kvfree (a : Field) (g : Guard) (m : KvMod) : Statement (.kvfree a g m) := by
  intro nx
  refine (decode_two _ _ _).trans (row_fR ?_)
  change (fun (feed : Bool) (w : Word) (e : Option Word) => (ext e fun x => body (fd w = 0 ∧ fb w = 0 ∧ kvRsv x = 0) (.kvfree (fa w) (fg w) (decKv x)) : Except DecodeError Instr)) false (fR 0x8D 0 a 0 g) (some (encKv m)) = _
  simp [ext, body, fd_fR, fa_fR, fb_fR, fg_fR, decKv_encKv, kvRsv_encKv]

theorem kvhm (d : Field) (a : Field) (g : Guard) (m : KvMod) : Statement (.kvhm d a g m) := by
  intro nx
  refine (decode_two _ _ _).trans (row_fR ?_)
  change (fun (feed : Bool) (w : Word) (e : Option Word) => (ext e fun x => body (fb w = 0 ∧ kvRsv x = 0) (.kvhm (fd w) (fa w) (fg w) (decKv x)) : Except DecodeError Instr)) false (fR 0x8E d a 0 g) (some (encKv m)) = _
  simp [ext, body, fd_fR, fa_fR, fb_fR, fg_fR, decKv_encKv, kvRsv_encKv]

theorem assay (d : Field) (a : Field) (g : Guard) (m : KvMod) : Statement (.assay d a g m) := by
  intro nx
  refine (decode_two _ _ _).trans (row_fR ?_)
  change (fun (feed : Bool) (w : Word) (e : Option Word) => (ext e fun x => body (fb w = 0 ∧ kvRsv x = 0) (.assay (fd w) (fa w) (fg w) (decKv x)) : Except DecodeError Instr)) false (fR 0x8F d a 0 g) (some (encKv m)) = _
  simp [ext, body, fd_fR, fa_fR, fb_fR, fg_fR, decKv_encKv, kvRsv_encKv]

theorem gread (d : Field) (a : Field) (g : Guard) (m : GirthMod) : Statement (.gread d a g m) := by
  intro nx
  refine (decode_two _ _ _).trans (row_fR ?_)
  change (fun (feed : Bool) (w : Word) (e : Option Word) => (ext e fun x => body (fb w = 0 ∧ girthRsv x = 0) (.gread (fd w) (fa w) (fg w) (decGirth x)) : Except DecodeError Instr)) false (fR 0x90 d a 0 g) (some (encGirth m)) = _
  simp [ext, body, fd_fR, fa_fR, fb_fR, fg_fR, decGirth_encGirth, girthRsv_encGirth]

theorem gupd (d : Field) (a : Field) (b : Field) (g : Guard) (m : GirthMod) : Statement (.gupd d a b g m) := by
  intro nx
  refine (decode_two _ _ _).trans (row_fR ?_)
  change (fun (feed : Bool) (w : Word) (e : Option Word) => (ext e fun x => body (girthRsv x = 0) (.gupd (fd w) (fa w) (fb w) (fg w) (decGirth x)) : Except DecodeError Instr)) false (fR 0x91 d a b g) (some (encGirth m)) = _
  simp [ext, body, fd_fR, fa_fR, fb_fR, fg_fR, decGirth_encGirth, girthRsv_encGirth]

theorem gcinch (d : Field) (a : Field) (g : Guard) (m : GirthMod) : Statement (.gcinch d a g m) := by
  intro nx
  refine (decode_two _ _ _).trans (row_fR ?_)
  change (fun (feed : Bool) (w : Word) (e : Option Word) => (ext e fun x => body (fb w = 0 ∧ girthRsv x = 0) (.gcinch (fd w) (fa w) (fg w) (decGirth x)) : Except DecodeError Instr)) false (fR 0x92 d a 0 g) (some (encGirth m)) = _
  simp [ext, body, fd_fR, fa_fR, fb_fR, fg_fR, decGirth_encGirth, girthRsv_encGirth]

theorem gclose (a : Field) (b : Field) (g : Guard) (m : GirthMod) : Statement (.gclose a b g m) := by
  intro nx
  refine (decode_two _ _ _).trans (row_fR ?_)
  change (fun (feed : Bool) (w : Word) (e : Option Word) => (ext e fun x => body (fd w = 0 ∧ girthRsv x = 0) (.gclose (fa w) (fb w) (fg w) (decGirth x)) : Except DecodeError Instr)) false (fR 0x93 0 a b g) (some (encGirth m)) = _
  simp [ext, body, fd_fR, fa_fR, fb_fR, fg_fR, decGirth_encGirth, girthRsv_encGirth]

theorem gmount (d : Field) (a : Field) (b : Field) (g : Guard) (m : GirthMod) : Statement (.gmount d a b g m) := by
  intro nx
  refine (decode_two _ _ _).trans (row_fR ?_)
  change (fun (feed : Bool) (w : Word) (e : Option Word) => (ext e fun x => body (girthRsv x = 0) (.gmount (fd w) (fa w) (fb w) (fg w) (decGirth x)) : Except DecodeError Instr)) false (fR 0x94 d a b g) (some (encGirth m)) = _
  simp [ext, body, fd_fR, fa_fR, fb_fR, fg_fR, decGirth_encGirth, girthRsv_encGirth]

theorem gdismt (d : Field) (a : Field) (g : Guard) (m : GirthMod) : Statement (.gdismt d a g m) := by
  intro nx
  refine (decode_two _ _ _).trans (row_fR ?_)
  change (fun (feed : Bool) (w : Word) (e : Option Word) => (ext e fun x => body (fb w = 0 ∧ girthRsv x = 0) (.gdismt (fd w) (fa w) (fg w) (decGirth x)) : Except DecodeError Instr)) false (fR 0x95 d a 0 g) (some (encGirth m)) = _
  simp [ext, body, fd_fR, fa_fR, fb_fR, fg_fR, decGirth_encGirth, girthRsv_encGirth]

theorem gfence (scope : BitVec 3) : Statement (.gfence scope) := by
  intro nx
  refine (decode_two _ _ _).trans (row_fR ?_)
  change (fun (feed : Bool) (w : Word) (e : Option Word) => (body (fd w = 0 ∧ fa w = 0 ∧ fg w = 0 ∧ (fb w).extractLsb' 3 4 = 0) (.gfence ((fb w).extractLsb' 0 3)) : Except DecodeError Instr)) false (fR 0x96 0 0 ((0 : BitVec 4) ++ scope) 0) (some nx) = _
  simp [body, fd_fR, fa_fR, fb_fR, fg_fR, field_4_3_0, field_4_3_1]

theorem mmab (d : Field) (a : Field) (b : Field) (m : MmaMod) : Statement (.mmab d a b m) := by
  intro nx
  refine (decode_two _ _ _).trans (row_fR ?_)
  change (fun (feed : Bool) (w : Word) (e : Option Word) => (ext e fun x => body (fg w = 0 ∧ mmaRsv x = 0) (.mmab (fd w) (fa w) (fb w) (decMma x)) : Except DecodeError Instr)) false (fR 0x97 d a b 0) (some (encMma m)) = _
  simp [ext, body, fd_fR, fa_fR, fb_fR, fg_fR, decMma_encMma, mmaRsv_encMma]

theorem mmah (d : Field) (a : Field) (b : Field) (m : MmaMod) : Statement (.mmah d a b m) := by
  intro nx
  refine (decode_two _ _ _).trans (row_fR ?_)
  change (fun (feed : Bool) (w : Word) (e : Option Word) => (ext e fun x => body (fg w = 0 ∧ mmaRsv x = 0) (.mmah (fd w) (fa w) (fb w) (decMma x)) : Except DecodeError Instr)) false (fR 0x98 d a b 0) (some (encMma m)) = _
  simp [ext, body, fd_fR, fa_fR, fb_fR, fg_fR, decMma_encMma, mmaRsv_encMma]

theorem mmai8 (d : Field) (a : Field) (b : Field) (m : MmaMod) : Statement (.mmai8 d a b m) := by
  intro nx
  refine (decode_two _ _ _).trans (row_fR ?_)
  change (fun (feed : Bool) (w : Word) (e : Option Word) => (ext e fun x => body (fg w = 0 ∧ mmaRsv x = 0) (.mmai8 (fd w) (fa w) (fb w) (decMma x)) : Except DecodeError Instr)) false (fR 0x99 d a b 0) (some (encMma m)) = _
  simp [ext, body, fd_fR, fa_fR, fb_fR, fg_fR, decMma_encMma, mmaRsv_encMma]

theorem mmai84 (d : Field) (a : Field) (b : Field) (m : MmaMod) : Statement (.mmai84 d a b m) := by
  intro nx
  refine (decode_two _ _ _).trans (row_fR ?_)
  change (fun (feed : Bool) (w : Word) (e : Option Word) => (ext e fun x => body (fg w = 0 ∧ mmaRsv x = 0) (.mmai84 (fd w) (fa w) (fb w) (decMma x)) : Except DecodeError Instr)) false (fR 0x9A d a b 0) (some (encMma m)) = _
  simp [ext, body, fd_fR, fa_fR, fb_fR, fg_fR, decMma_encMma, mmaRsv_encMma]

theorem mmai4 (d : Field) (a : Field) (b : Field) (m : MmaMod) : Statement (.mmai4 d a b m) := by
  intro nx
  refine (decode_two _ _ _).trans (row_fR ?_)
  change (fun (feed : Bool) (w : Word) (e : Option Word) => (ext e fun x => body (fg w = 0 ∧ mmaRsv x = 0) (.mmai4 (fd w) (fa w) (fb w) (decMma x)) : Except DecodeError Instr)) false (fR 0x9B d a b 0) (some (encMma m)) = _
  simp [ext, body, fd_fR, fa_fR, fb_fR, fg_fR, decMma_encMma, mmaRsv_encMma]

theorem aclr (d : Field) : Statement (.aclr d) := by
  intro nx
  refine (decode_two _ _ _).trans (row_fR ?_)
  change (fun (feed : Bool) (w : Word) (e : Option Word) => (body (fa w = 0 ∧ fb w = 0 ∧ fg w = 0) (.aclr (fd w)) : Except DecodeError Instr)) false (fR 0x9C d 0 0 0) (some nx) = _
  simp [body, fd_fR, fa_fR, fb_fR, fg_fR]

theorem aload (d : Field) (a : Field) (m : AloadMod) : Statement (.aload d a m) := by
  intro nx
  refine (decode_two _ _ _).trans (row_fR ?_)
  change (fun (feed : Bool) (w : Word) (e : Option Word) => (ext e fun x => body (fb w = 0 ∧ fg w = 0 ∧ aloadRsv x = 0) (.aload (fd w) (fa w) (decAload x)) : Except DecodeError Instr)) false (fR 0x9D d a 0 0) (some (encAload m)) = _
  simp [ext, body, fd_fR, fa_fR, fb_fR, fg_fR, decAload_encAload, aloadRsv_encAload]

theorem astore (d : Field) (a : Field) (b : Field) (m : AstoreMod) : Statement (.astore d a b m) := by
  intro nx
  refine (decode_two _ _ _).trans (row_fR ?_)
  change (fun (feed : Bool) (w : Word) (e : Option Word) => (ext e fun x => body (fg w = 0 ∧ astoreRsv x = 0) (.astore (fd w) (fa w) (fb w) (decAstore x)) : Except DecodeError Instr)) false (fR 0x9E d a b 0) (some (encAstore m)) = _
  simp [ext, body, fd_fR, fa_fR, fb_fR, fg_fR, decAstore_encAstore, astoreRsv_encAstore]

theorem arowmx (d : Field) (a : Field) (b : Field) : Statement (.arowmx d a b) := by
  intro nx
  refine (decode_two _ _ _).trans (row_fR ?_)
  change (fun (feed : Bool) (w : Word) (e : Option Word) => (body (fg w = 0) (.arowmx (fd w) (fa w) (fb w)) : Except DecodeError Instr)) false (fR 0x9F d a b 0) (some nx) = _
  simp [body, fd_fR, fa_fR, fb_fR, fg_fR]

theorem aexpb (d : Field) (a : Field) (b : Field) (push : BitVec 1) : Statement (.aexpb d a b push) := by
  intro nx
  refine (decode_two _ _ _).trans (row_fR ?_)
  change (fun (feed : Bool) (w : Word) (e : Option Word) => (ext e fun x => body (fg w = 0 ∧ x.extractLsb' 1 31 = 0) (.aexpb (fd w) (fa w) (fb w) (x.extractLsb' 0 1)) : Except DecodeError Instr)) false (fR 0xA0 d a b 0) (some ((0 : BitVec 31) ++ push)) = _
  simp only [ext, body, fd_fR, fa_fR, fb_fR, fg_fR]
  exact (if_pos ⟨trivial, push_high push⟩).trans (congrArg (fun p => Except.ok (Instr.aexpb d a b p)) (push_low push))

theorem ashift (d : Field) (b : Field) : Statement (.ashift d b) := by
  intro nx
  refine (decode_two _ _ _).trans (row_fR ?_)
  change (fun (feed : Bool) (w : Word) (e : Option Word) => (body (fa w = 0 ∧ fg w = 0) (.ashift (fd w) (fb w)) : Except DecodeError Instr)) false (fR 0xA1 d 0 b 0) (some nx) = _
  simp [body, fd_fR, fa_fR, fb_fR, fg_fR]

theorem arowsm (d : Field) (a : Field) (b : Field) : Statement (.arowsm d a b) := by
  intro nx
  refine (decode_two _ _ _).trans (row_fR ?_)
  change (fun (feed : Bool) (w : Word) (e : Option Word) => (body (fg w = 0) (.arowsm (fd w) (fa w) (fb w)) : Except DecodeError Instr)) false (fR 0xA2 d a b 0) (some nx) = _
  simp [body, fd_fR, fa_fR, fb_fR, fg_fR]

theorem qpush (d : Field) (a : Field) : Statement (.qpush d a) := by
  intro nx
  refine (decode_two _ _ _).trans (row_fR ?_)
  change (fun (feed : Bool) (w : Word) (e : Option Word) => (ext e fun x => body (fb w = 0 ∧ fg w = 0 ∧ x = 0) (.qpush (fd w) (fa w)) : Except DecodeError Instr)) false (fR 0xA3 d a 0 0) (some ((0 : Word))) = _
  simp [ext, body, fd_fR, fa_fR, fb_fR, fg_fR]

theorem qpop (d : Field) (a : Field) (b : Field) (m : QpopMod) : Statement (.qpop d a b m) := by
  intro nx
  refine (decode_two _ _ _).trans (row_fR ?_)
  change (fun (feed : Bool) (w : Word) (e : Option Word) => (ext e fun x => body (fg w = 0 ∧ qpopRsv x = 0) (.qpop (fd w) (fa w) (fb w) (decQpop x)) : Except DecodeError Instr)) false (fR 0xA4 d a b 0) (some (encQpop m)) = _
  simp [ext, body, fd_fR, fa_fR, fb_fR, fg_fR, decQpop_encQpop, qpopRsv_encQpop]

theorem qstat (d : BitVec 6) (a : Field) : Statement (.qstat d a) := by
  intro nx
  refine (decode_two _ _ _).trans (row_fR ?_)
  change (fun (feed : Bool) (w : Word) (e : Option Word) => (kOnly (fd w) (if feed ∨ fb w ≠ 0 then body (fg w = 0) (.qstatFeed (flo (fd w)) (fa w) (fb w)) else body (fg w = 0) (.qstat (flo (fd w)) (fa w))) : Except DecodeError Instr)) false (fR 0xA5 (kf d) a 0 0) (some nx) = _
  simp [body, kOnly, fd_fR, fa_fR, fb_fR, fg_fR, flo_kf, isK_kf]

theorem qstatFeed (d : BitVec 6) (a : Field) (b : Field) : Statement (.qstatFeed d a b) := by
  intro nx
  refine (decode_two _ _ _).trans (row_fR ?_)
  change (fun (feed : Bool) (w : Word) (e : Option Word) => (kOnly (fd w) (if feed ∨ fb w ≠ 0 then body (fg w = 0) (.qstatFeed (flo (fd w)) (fa w) (fb w)) else body (fg w = 0) (.qstat (flo (fd w)) (fa w))) : Except DecodeError Instr)) true (fR 0xA5 (kf d) a b 0) (some nx) = _
  simp [body, kOnly, fd_fR, fa_fR, fb_fR, fg_fR, flo_kf, isK_kf]

theorem cpy (a : Field) (m : CopyMod) : Statement (.cpy a m) := by
  intro nx
  refine (decode_two _ _ _).trans (row_fR ?_)
  change (fun (feed : Bool) (w : Word) (e : Option Word) => (ext e fun x => body (fd w = 0 ∧ fb w = 0 ∧ fg w = 0 ∧ copyRsv x = 0) (.cpy (fa w) (decCopy x)) : Except DecodeError Instr)) false (fR 0xA6 0 a 0 0) (some (encCopy m)) = _
  simp [ext, body, fd_fR, fa_fR, fb_fR, fg_fR, decCopy_encCopy, copyRsv_encCopy]

theorem cpym (a : Field) (m : CopyMod) : Statement (.cpym a m) := by
  intro nx
  refine (decode_two _ _ _).trans (row_fR ?_)
  change (fun (feed : Bool) (w : Word) (e : Option Word) => (ext e fun x => body (fd w = 0 ∧ fb w = 0 ∧ fg w = 0 ∧ copyRsv x = 0) (.cpym (fa w) (decCopy x)) : Except DecodeError Instr)) false (fR 0xA7 0 a 0 0) (some (encCopy m)) = _
  simp [ext, body, fd_fR, fa_fR, fb_fR, fg_fR, decCopy_encCopy, copyRsv_encCopy]

theorem cpyq (a : Field) (m : CopyMod) : Statement (.cpyq a m) := by
  intro nx
  refine (decode_two _ _ _).trans (row_fR ?_)
  change (fun (feed : Bool) (w : Word) (e : Option Word) => (ext e fun x => body (fd w = 0 ∧ fb w = 0 ∧ fg w = 0 ∧ copyRsv x = 0) (.cpyq (fa w) (decCopy x)) : Except DecodeError Instr)) false (fR 0xA8 0 a 0 0) (some (encCopy m)) = _
  simp [ext, body, fd_fR, fa_fR, fb_fR, fg_fR, decCopy_encCopy, copyRsv_encCopy]

theorem cpyix (a : Field) (m : CopyMod) : Statement (.cpyix a m) := by
  intro nx
  refine (decode_two _ _ _).trans (row_fR ?_)
  change (fun (feed : Bool) (w : Word) (e : Option Word) => (ext e fun x => body (fd w = 0 ∧ fb w = 0 ∧ fg w = 0 ∧ copyRsv x = 0) (.cpyix (fa w) (decCopy x)) : Except DecodeError Instr)) false (fR 0xA9 0 a 0 0) (some (encCopy m)) = _
  simp [ext, body, fd_fR, fa_fR, fb_fR, fg_fR, decCopy_encCopy, copyRsv_encCopy]

theorem smelt (a : Field) (m : CopyMod) : Statement (.smelt a m) := by
  intro nx
  refine (decode_two _ _ _).trans (row_fR ?_)
  change (fun (feed : Bool) (w : Word) (e : Option Word) => (ext e fun x => body (fd w = 0 ∧ fb w = 0 ∧ fg w = 0 ∧ copyRsv x = 0) (.smelt (fa w) (decCopy x)) : Except DecodeError Instr)) false (fR 0xAA 0 a 0 0) (some (encCopy m)) = _
  simp [ext, body, fd_fR, fa_fR, fb_fR, fg_fR, decCopy_encCopy, copyRsv_encCopy]

theorem cpys (a : Field) (m : CopyMod) : Statement (.cpys a m) := by
  intro nx
  refine (decode_two _ _ _).trans (row_fR ?_)
  change (fun (feed : Bool) (w : Word) (e : Option Word) => (ext e fun x => body (fd w = 0 ∧ fb w = 0 ∧ fg w = 0 ∧ copyRsv x = 0) (.cpys (fa w) (decCopy x)) : Except DecodeError Instr)) false (fR 0xAB 0 a 0 0) (some (encCopy m)) = _
  simp [ext, body, fd_fR, fa_fR, fb_fR, fg_fR, decCopy_encCopy, copyRsv_encCopy]

theorem txpose (a : Field) (m : CopyMod) : Statement (.txpose a m) := by
  intro nx
  refine (decode_two _ _ _).trans (row_fR ?_)
  change (fun (feed : Bool) (w : Word) (e : Option Word) => (ext e fun x => body (fd w = 0 ∧ fb w = 0 ∧ fg w = 0 ∧ copyRsv x = 0) (.txpose (fa w) (decCopy x)) : Except DecodeError Instr)) false (fR 0xAC 0 a 0 0) (some (encCopy m)) = _
  simp [ext, body, fd_fR, fa_fR, fb_fR, fg_fR, decCopy_encCopy, copyRsv_encCopy]

theorem tdmk (d : Field) (a : Field) (m : MemMod) : Statement (.tdmk d a m) := by
  intro nx
  refine (decode_two _ _ _).trans (row_fR ?_)
  change (fun (feed : Bool) (w : Word) (e : Option Word) => (ext e fun x => body (fb w = 0 ∧ fg w = 0) (.tdmk (fd w) (fa w) (decMem x)) : Except DecodeError Instr)) false (fR 0xAD d a 0 0) (some (encMem m)) = _
  simp [ext, body, fd_fR, fa_fR, fb_fR, fg_fR, decMem_encMem]

theorem tdfree (a : BitVec 6) : Statement (.tdfree a) := by
  intro nx
  refine (decode_two _ _ _).trans (row_fR ?_)
  change (fun (feed : Bool) (w : Word) (e : Option Word) => (kOnly (fa w) (body (fd w = 0 ∧ fb w = 0 ∧ fg w = 0) (.tdfree (flo (fa w)))) : Except DecodeError Instr)) false (fR 0xAE 0 (kf a) 0 0) (some nx) = _
  simp [body, kOnly, fd_fR, fa_fR, fb_fR, fg_fR, flo_kf, isK_kf]

theorem fend  : Statement (.fend) := by
  intro nx
  refine (decode_two _ _ _).trans (row_fR ?_)
  change (fun (feed : Bool) (w : Word) (e : Option Word) => (body (fd w = 0 ∧ fa w = 0 ∧ fb w = 0 ∧ fg w = 0) .fend : Except DecodeError Instr)) false (fR 0xAF 0 0 0 0) (some nx) = _
  simp [body, fd_fR, fa_fR, fb_fR, fg_fR]

theorem clauseHeader (wait : BitVec 12) (seta : BitVec 4) (setb : BitVec 4) (len : BitVec 4) : Statement (.clauseHeader wait seta setb len) := by
  intro nx
  refine (decode_header _ _ _).trans ?_
  unfold decodeHeader
  rw [show fop ((0xFF : BitVec 8) ++ wait ++ seta ++ setb ++ len) = 0xFF from header_op _ _ _ _ _]
  simp only [if_true, header_wait, header_seta, header_setb, header_len]

theorem issueSelect (core : Nat) (qtr : Nat) : Statement (.issueSelect core qtr) := trivial

theorem binAged (n : Nat) : Statement (.binAged n) := trivial

theorem binOverdue (n : Nat) : Statement (.binOverdue n) := trivial

theorem barResume (blk : Nat) (id : Nat) (cluster : Bool) : Statement (.barResume blk id cluster) := trivial

theorem lbarReleaseWindow (l : Nat) : Statement (.lbarReleaseWindow l) := trivial

theorem yieldExpire (n : Nat) : Statement (.yieldExpire n) := trivial

theorem waitcmpPoll (n : Nat) : Statement (.waitcmpPoll n) := trivial

theorem wqExecute  : Statement (.wqExecute) := trivial

theorem cancelArrive  : Statement (.cancelArrive) := trivial

theorem cancelStop (blk : Nat) : Statement (.cancelStop blk) := trivial

theorem resultLand (n : Nat) : Statement (.resultLand n) := trivial

theorem storeBufferLeave (n : Nat) : Statement (.storeBufferLeave n) := trivial

theorem storeAck (n : Nat) : Statement (.storeAck n) := trivial

theorem fencerVisit (n : Nat) : Statement (.fencerVisit n) := trivial

theorem engineWriteLand (n : Nat) : Statement (.engineWriteLand n) := trivial

theorem panelLand (n : Nat) : Statement (.panelLand n) := trivial

theorem engineComplete (n : Nat) : Statement (.engineComplete n) := trivial

theorem placeBlock  : Statement (.placeBlock) := trivial

theorem crewStart (blk : Nat) : Statement (.crewStart blk) := trivial

theorem blockComplete (blk : Nat) : Statement (.blockComplete blk) := trivial

theorem levelComplete (kind : Nat) (n : Nat) : Statement (.levelComplete kind n) := trivial

theorem cxlSnoop (line : Nat) : Statement (.cxlSnoop line) := trivial

theorem tailReread (q : Nat) : Statement (.tailReread q) := trivial

theorem recordTake (q : Nat) : Statement (.recordTake q) := trivial

theorem launchRelease (l : Nat) : Statement (.launchRelease l) := trivial

theorem segmentClear (l : Nat) : Statement (.segmentClear l) := trivial

theorem launchBlocking (l : Nat) : Statement (.launchBlocking l) := trivial

theorem preempt (blk : Nat) : Statement (.preempt blk) := trivial

theorem swapOut (blk : Nat) : Statement (.swapOut blk) := trivial

theorem swapSaveDone (blk : Nat) : Statement (.swapSaveDone blk) := trivial

theorem swapRestore (blk : Nat) (core : Nat) : Statement (.swapRestore blk core) := trivial

theorem faultEntryWrite (n : Nat) : Statement (.faultEntryWrite n) := trivial

theorem watchdog (rc : Nat) : Statement (.watchdog rc) := trivial

theorem sliceServe (sl : Nat) : Statement (.sliceServe sl) := trivial

theorem mscFill (n : Nat) : Statement (.mscFill n) := trivial

theorem writebackSend (sl : Nat) : Statement (.writebackSend sl) := trivial

theorem writebackFree (sl : Nat) : Statement (.writebackFree sl) := trivial

theorem maskApply (sl : Nat) : Statement (.maskApply sl) := trivial

theorem contractDecide  : Statement (.contractDecide) := trivial

theorem contractComplete (n : Nat) : Statement (.contractComplete n) := trivial

theorem pinLineCopy (p : Nat) (sl : Nat) : Statement (.pinLineCopy p sl) := trivial

theorem pinDrainStart (p : Nat) (sl : Nat) : Statement (.pinDrainStart p sl) := trivial

theorem pinLineWriteback (p : Nat) (sl : Nat) : Statement (.pinLineWriteback p sl) := trivial

theorem pinLineWritten (p : Nat) (sl : Nat) : Statement (.pinLineWritten p sl) := trivial

theorem stpartApply (n : Nat) : Statement (.stpartApply n) := trivial

theorem linkWindowEnd (link : Nat) : Statement (.linkWindowEnd link) := trivial

theorem linkWiden (link : Nat) : Statement (.linkWiden link) := trivial

theorem linkRenegotiationEnd (link : Nat) : Statement (.linkRenegotiationEnd link) := trivial

theorem hmapWrite (r : Nat) (v : BitVec 16) : Statement (.hmapWrite r v) := trivial

theorem hmapTakeEffect (r : Nat) : Statement (.hmapTakeEffect r) := trivial

theorem walkLevelRead (n : Nat) : Statement (.walkLevelRead n) := trivial

theorem kvCountTest (n : Nat) : Statement (.kvCountTest n) := trivial

theorem kvappPerform (n : Nat) : Statement (.kvappPerform n) := trivial

theorem pageEvictDone (ctx : Nat) (page : Nat) : Statement (.pageEvictDone ctx page) := trivial

theorem pageInstallDone (ctx : Nat) (page : Nat) : Statement (.pageInstallDone ctx page) := trivial

theorem kvPageOp (n : Nat) : Statement (.kvPageOp n) := trivial

theorem heatDecay  : Statement (.heatDecay) := trivial

theorem girthPassage (stop : Nat) (slot : Nat) : Statement (.girthPassage stop slot) := trivial

theorem holdEnd (slot : Nat) : Statement (.holdEnd slot) := trivial

theorem reservationExpire (slot : Nat) : Statement (.reservationExpire slot) := trivial

theorem compareSignatures (p : Nat) : Statement (.compareSignatures p) := trivial

theorem rollbackRestoreDone (p : Nat) : Statement (.rollbackRestoreDone p) := trivial

theorem slceccWrite (sl : Nat) (v : Word) : Statement (.slceccWrite sl v) := trivial

theorem reencodeLine (sl : Nat) : Statement (.reencodeLine sl) := trivial

theorem sweepLine (sl : Nat) : Statement (.sweepLine sl) := trivial

theorem sweepForce (sl : Nat) : Statement (.sweepForce sl) := trivial

theorem sliceEvacuate (sl : Nat) : Statement (.sliceEvacuate sl) := trivial

theorem evacLineMove (sl : Nat) : Statement (.evacLineMove sl) := trivial

theorem hbmRowRepair (row : Nat) : Statement (.hbmRowRepair row) := trivial

theorem slcinjWrite (sl : Nat) (which : Bool) (v : DWord) : Statement (.slcinjWrite sl which v) := trivial

theorem yokeWindowEnd (pair : Nat) (iu : BitVec 12) (il : BitVec 12) : Statement (.yokeWindowEnd pair iu il) := trivial

theorem budgetIntervalStart (cl : Nat) : Statement (.budgetIntervalStart cl) := trivial

theorem clusterPortCharge (n : Nat) : Statement (.clusterPortCharge n) := trivial

theorem energyCharge (blk : Nat) (amount : Nat) : Statement (.energyCharge blk amount) := trivial

theorem quotaRefill (ctx : Nat) : Statement (.quotaRefill ctx) := trivial

theorem eqcfgWrite (ctx : Nat) (v : DWord) : Statement (.eqcfgWrite ctx v) := trivial

theorem feataccWrite (v : Word) : Statement (.feataccWrite v) := trivial

theorem creadWrite (q : Nat) (v : Word) : Statement (.creadWrite q v) := trivial

theorem fqreadWrite (ctx : Nat) (v : Word) : Statement (.fqreadWrite ctx v) := trivial

theorem registerWrite (r : MgmtReg) (v : DWord) : Statement (.registerWrite r v) := trivial

theorem shootdown (ctx : Nat) (base : Nat) (len : Nat) : Statement (.shootdown ctx base len) := trivial

theorem faultResume (ctx : Nat) (seq : Nat) : Statement (.faultResume ctx seq) := trivial

theorem faultSkip (ctx : Nat) (seq : Nat) : Statement (.faultSkip ctx seq) := trivial

theorem faultKill (ctx : Nat) (seq : Nat) : Statement (.faultKill ctx seq) := trivial

theorem faultCancel (ctx : Nat) (seq : Nat) (level : BitVec 2) (id : Word) : Statement (.faultCancel ctx seq level id) := trivial

theorem repairSpareCore (core : Nat) : Statement (.repairSpareCore core) := trivial

theorem repairClusterDrain (cl : Nat) : Statement (.repairClusterDrain cl) := trivial

theorem repairClusterReturn (cl : Nat) : Statement (.repairClusterReturn cl) := trivial

theorem repairSpareSlice (sl : Nat) : Statement (.repairSpareSlice sl) := trivial

theorem repairHbmPageRetire (pa : Nat) : Statement (.repairHbmPageRetire pa) := trivial

theorem resctr (ctx : Nat) (pa : Nat) : Statement (.resctr ctx pa) := trivial

theorem resend (ctx : Nat) : Statement (.resend ctx) := trivial

theorem ctxend (ctx : Nat) : Statement (.ctxend ctx) := trivial

theorem commandUnknown (op : Nat) : Statement (.commandUnknown op) := trivial

theorem commandComplete  : Statement (.commandComplete) := trivial

theorem dbgResume  : Statement (.dbgResume) := trivial

theorem dbgStep  : Statement (.dbgStep) := trivial

theorem dbgKill  : Statement (.dbgKill) := trivial

theorem dbgsel0Write (v : Word) : Statement (.dbgsel0Write v) := trivial

theorem dbgStateWrite (off : Nat) (v : Word) : Statement (.dbgStateWrite off v) := trivial

theorem hostMemAccess (port : Nat) (addr : Nat) (data : List Byte) (write : Bool) : Statement (.hostMemAccess port addr data write) := trivial

theorem linkRetrain (port : Nat) : Statement (.linkRetrain port) := trivial

theorem firmwareUpdate (svn : Nat) (image : Nat) : Statement (.firmwareUpdate svn image) := trivial

theorem spdmRequest (port : Nat) (msg : Nat) : Statement (.spdmRequest port msg) := trivial

theorem packageReset  : Statement (.packageReset) := trivial

theorem swapRestoreDone (blk : Nat) : Statement (.swapRestoreDone blk) := trivial

theorem checkpointDone (p : Nat) : Statement (.checkpointDone p) := trivial

theorem linkUp (port : Nat) : Statement (.linkUp port) := trivial

theorem logReadIndexWrite (die : Nat) (log : LogKind) (v : Nat) : Statement (.logReadIndexWrite die log v) := trivial

end Sys2Proof.Laws.RoundTrip
end

