-- ==== Sys2Proof/Machine/Ready.lean ====
section
/-!
DEFINITION. When an instruction of the issuing bundle passes the issue stage, said of the state and the instruction alone (spec/01 R22 to
R24; spec/09 R110, R127, R128; spec/13 R180, R181): what statements about an instruction's own effect assume.
-/
namespace Sys2Proof.Machine

/-- The state in which an instruction acts: where it awaits lanes, the threads that wait at it have joined the bundle (R23). -/
def State.joined (s : State) (b : Bound) : State :=
  let u := s.sch.cur
  if u.feed || !b.all then s
  else { s with sch := { s.sch.withdraw u.blk u.crew u.pc with
    cur := { u with members := s.gathered }
    arrs := s.sch.arrs.filter fun r => !(r.blk == u.blk && r.crew == u.crew && r.pc == u.pc) } }

/-- Does the binding of an instruction let the bundle go on: one crew where it is bound to a crew, the awaited lanes there, no member
fault (R22 to R24, R180, R181)? -/
def State.boundOk (s : State) (b : Bound) : Bool :=
  let u := s.sch.cur
  u.feed || (match b with
    | .none => true
    | .crew => decide (u.crews.length ≤ 1)
    | .members m =>
      decide (u.crews.length ≤ 1) && !((s.maskKeys m).any s.keyPending) && (s.gathered.all fun t => (s.memberMask m).getLsbD t.lane) &&
        decide (s.memberMask m &&& ~~~(s.liveMask u.blk u.crew) = 0) && s.hasLanes (s.memberMask m)
    | .whole => decide (u.crews.length ≤ 1) && decide (s.liveMask u.blk u.crew = 0xFFFFFFFF) && s.hasLanes 0xFFFFFFFF)

/-- The instruction passes the issue stage: no ILLOP, its binding satisfied, no pending result for a register it names (R110). -/
def State.passes (s : State) (i : Instr) (q : Issue) : Bool :=
  !illopNow i q s && !q.bad && s.boundOk q.bound &&
    !((q.keys ++ (s.joined q.bound).guardKeys q.guard).any (s.joined q.bound).keyPending)

end Sys2Proof.Machine
end

