-- ==== Sys2Proof/Safety.lean ====
section
/-!
DEFINITION. What counts as a safe run: every table of the state keeps its canonical form, and the accepted features stay
within FEAT0.
-/
namespace Sys2Proof.Machine

/-- FEAT0 (Table 13.7). -/
def feat0 : Word := 0xF

/-- The invariant that every step keeps: memory is in canonical form, and FEATACC accepts only features that FEAT0 names
(R368). -/
def Inv (s : State) : Prop := s.mem.wf = true ∧ s.host.featacc &&& ~~~feat0 = 0

end Sys2Proof.Machine
end

