-- ==== Sys2Proof/Certificates/Slice0/Obligations.lean ====
section
/-!
DEFINITION. The statements for the provers. A statement about an instruction assumes, of the state and the operands alone, that the
instruction passes the issue stage (`State.passes`, Machine/Ready.lean); `State.joined` is the state its threads have gathered in, the
state itself for an instruction that awaits no lanes.
-/
open Sys2Proof Sys2Proof.Machine

namespace Sys2Proof.Machine

/-! ## What the statements share -/

/-- The outcome is the next state `t`. -/
abbrev Next (o : Host.Outcome State Fault Refusal) (t : State) : Prop := o = .next t

/-- A 2-source row: its constructor, the shape of its operands, its function, and whether feed threads may issue it. -/
structure Row where
  instr : Field → Field → Field → Guard → Instr
  sh : Shape
  fn : LaneFn
  feed : Bool

/-- A 1-source row. -/
structure Row1 where
  instr : Field → Field → Guard → Instr
  sh : Shape
  fn : LaneFn
  feed : Bool

/-- The result of a compute instruction of fixed latency (R139): where d is a k-register, once, under the guard of the lowest active lane;
else in every active lane whose guard is true; the bundle goes on at the next word. -/
def State.computed (s : State) (sh : Shape) (fn : LaneFn) (d a b : Field) (g : Guard) : State :=
  (s.wrote (computeWr sh fn d a b g s)).advance 1

/-- The result of a compute instruction of SETA kind: pending operations that hold the same writes (R109). -/
def State.computing (s : State) (sh : Shape) (fn : LaneFn) (d a b : Field) (g : Guard) : State :=
  (s.startSeta (computeWr sh fn d a b g s)).advance 1

/-- Every instruction of a row completes with the row's function. -/
def Row.Completes (r : Row) : Prop :=
  ∀ (d a b : Field) (g : Guard) (s : State), s.passes (r.instr d a b g) (computeIssue r.sh d a b g 1 r.feed s) = true →
    Next (exec (r.instr d a b g) s) (s.computed r.sh r.fn d a b g)
/-- The same for a row of SETA kind. -/
def Row.Starts (r : Row) : Prop :=
  ∀ (d a b : Field) (g : Guard) (s : State), s.passes (r.instr d a b g) (computeIssue r.sh d a b g 1 r.feed s) = true →
    Next (exec (r.instr d a b g) s) (s.computing r.sh r.fn d a b g)
/-- A 1-source row completes. -/
def Row1.Completes (r : Row1) : Prop :=
  ∀ (d a : Field) (g : Guard) (s : State), s.passes (r.instr d a g) (computeIssue r.sh d a constZero g 1 r.feed s) = true →
    Next (exec (r.instr d a g) s) (s.computed r.sh r.fn d a constZero g)
/-- A 1-source row of SETA kind that owes its crews their flags, be they none, until it has completed (R42). -/
def Row1.Starts (r : Row1) : Prop :=
  ∀ (d a : Field) (g : Guard) (s : State), s.passes (r.instr d a g) (computeIssue r.sh d a constZero g 1 r.feed s) = true →
    Next (exec (r.instr d a g) s)
      ((s.startSeta (computeWr r.sh r.fn d a constZero g s ++ s.sch.cur.crews.map fun c => .flags c 0)).advance 1)

/-! ## Integer rows (R145, R148, R151 to R155) -/

/-- A row on 32-bit values of a and b. -/
def int2 (mk : Field → Field → Field → Guard → Instr) (f : Word → Word → Word) : Row := ⟨mk, {}, fn2 f, true⟩
/-- A row that reads d as well. -/
def int3 (mk : Field → Field → Field → Guard → Instr) (f : Word → Word → Word → Word) : Row := ⟨mk, {}, fn3 f, true⟩
/-- A row of one source. -/
def int1 (mk : Field → Field → Guard → Instr) (f : Word → Word) : Row1 := ⟨mk, {}, fn2 fun a _ => f a, true⟩
/-- A row on pairs. -/
def wide2 (mk : Field → Field → Field → Guard → Instr) (f : DWord → DWord → DWord) : Row :=
  ⟨mk, { wd := true, wa := true, wb := true, cst := .int64 }, pure3 fun a b _ => f a b, true⟩

/-- The arithmetic rows of 32 and 64 bits (R145, R148). -/
def arithmeticRows : List Row := [
  int2 .iadd fun a b => a + b, int2 .isub fun a b => a - b, int2 .imul fun a b => a * b,
  int2 .imulhs fun a b => (BitVec.ofInt 64 (a.toInt * b.toInt)).extractLsb' 32 32,
  int2 .imulhu fun a b => BitVec.ofNat 32 (a.toNat * b.toNat / 2 ^ 32),
  int2 .imin fun a b => if a.toInt < b.toInt then a else b, int2 .imax fun a b => if b.toInt < a.toInt then a else b,
  int2 .iminu fun a b => if a.toNat < b.toNat then a else b, int2 .imaxu fun a b => if b.toNat < a.toNat then a else b,
  int3 .imad fun a b d => a * b + d, int3 .lea fun a b d => d + a <<< (b.toNat % 32),
  wide2 .iadd64 fun a b => a + b, wide2 .isub64 fun a b => a - b, wide2 .imul64 fun a b => a * b,
  ⟨.imad64, { wd := true }, pure3 fun a b d => (lo a).zeroExtend 64 * (lo b).zeroExtend 64 + d, true⟩,
  ⟨.lea64, { wd := true }, pure3 fun a b d => d + (lo a).signExtend 64 <<< ((lo b).toNat % 64), true⟩]

/-- The logic, shift and bit-field rows (R151 to R153, R155). -/
def logicRows : List Row := [
  int2 .and fun a b => a &&& b, int2 .or fun a b => a ||| b, int2 .xor fun a b => a ^^^ b,
  int2 .andn fun a b => a &&& ~~~b, int2 .orn fun a b => a ||| ~~~b,
  int2 .shl fun a b => if 32 ≤ b.toNat then 0 else a <<< b.toNat, int2 .shr fun a b => if 32 ≤ b.toNat then 0 else a >>> b.toNat,
  int2 .sar fun a b => a.sshiftRight (min b.toNat 31), int2 .rotl fun a b => a <<< (b.toNat % 32) ||| a >>> (32 - b.toNat % 32),
  int3 .fshl fun a b d => (pair a d <<< (b.toNat % 64)).extractLsb' 32 32,
  int3 .fshr fun a b d => (pair d a >>> (b.toNat % 64)).setWidth 32,
  int2 .bfe bitExtract, int3 .bfi bitInsert, int3 .bytep bytePermute]

/-- The one-source integer rows (R145, R154). -/
def unaryRows : List Row1 := [
  int1 .iabs fun a => BitVec.ofNat 32 a.toInt.natAbs, int1 .popc fun a => BitVec.ofNat 32 (popCount a),
  int1 .clz fun a => BitVec.ofNat 32 (leadingZeros 32 a.toNat), int1 .brev bitReverse,
  ⟨.clz64, { wa := true }, pure3 fun a _ _ => BitVec.ofNat 64 (leadingZeros 64 a.toNat), true⟩]

/-- The division rows (R147): the divisor 0 and the most negative dividend by −1 have the results of Table 11.2. -/
def divisionRows : List Row := [int2 .idiv divS, int2 .idivu divU, int2 .irem remS, int2 .iremu remU]

/-! ## Floating-point rows (R157 to R161) -/

/-- The FP32 rows of two and three sources (R157). -/
def fp32Rows : List Row := [
  ⟨.fadd, sh32, fpFn2 fp32.add, false⟩, ⟨.fsub, sh32, fpFn2 fp32.sub, false⟩, ⟨.fmul, sh32, fpFn2 fp32.mul, false⟩,
  ⟨.ffma, sh32, fpFn3 fp32.fma, false⟩, ⟨.fmin, sh32, fpFn2 fun e => fp32.minmax e false, false⟩,
  ⟨.fmax, sh32, fpFn2 fun e => fp32.minmax e true, false⟩,
  ⟨.fscl, {}, fun e a b _ => ((BitVec.ofNat 64 (fp32.scale e a.toNat (lo b).toInt).1), (fp32.scale e a.toNat (lo b).toInt).2), false⟩]

/-- The packed rows (R160): each element on its own. -/
def packedRows : List Row := [
  ⟨.hadd2, { cst := .packed fp16 }, packed fun e a b _ => fp16.add e a b, false⟩,
  ⟨.hmul2, { cst := .packed fp16 }, packed fun e a b _ => fp16.mul e a b, false⟩,
  ⟨.hfma2, { cst := .packed fp16 }, packed fp16.fma, false⟩,
  ⟨.hmin2, { cst := .packed fp16 }, packed fun e a b _ => fp16.minmax e false a b, false⟩,
  ⟨.hmax2, { cst := .packed fp16 }, packed fun e a b _ => fp16.minmax e true a b, false⟩,
  ⟨.badd2, { cst := .packed bf16 }, packed fun e a b _ => bf16.add e a b, false⟩,
  ⟨.bmul2, { cst := .packed bf16 }, packed fun e a b _ => bf16.mul e a b, false⟩,
  ⟨.bfma2, { cst := .packed bf16 }, packed bf16.fma, false⟩,
  ⟨.bmin2, { cst := .packed bf16 }, packed fun e a b _ => bf16.minmax e false a b, false⟩,
  ⟨.bmax2, { cst := .packed bf16 }, packed fun e a b _ => bf16.minmax e true a b, false⟩]

/-- The FP64 rows (R161). -/
def fp64Rows : List Row := [⟨.dadd, sh64, fpFn2 fp64.add, false⟩, ⟨.dmul, sh64, fpFn2 fp64.mul, false⟩, ⟨.dfma, sh64, fpFn3 fp64.fma, false⟩]

/-- The special functions (R48, R165). -/
def specialRows : List Row1 := [
  ⟨.rcp, {}, sfuFn sfuRcp, false⟩, ⟨.rsq, {}, sfuFn sfuRsq, false⟩, ⟨.sqrt, {}, sfuFn sfuSqrt, false⟩, ⟨.exp2, {}, sfuFn sfuExp2, false⟩,
  ⟨.log2, {}, sfuFn sfuLog2, false⟩, ⟨.sinp, {}, sfuFn sfuSinp, false⟩, ⟨.cosp, {}, sfuFn sfuCosp, false⟩, ⟨.tanh, {}, sfuFn sfuTanh, false⟩]

/-- The classification, rounding, conversion and packing rows (R158, R159, R162 to R164), each for every value of its mode fields. -/
def conversionRows (h : BitVec 1) (src mode : BitVec 3) (dst isrc : BitVec 2) : List Row1 := [
  ⟨.fclass, {}, pure3 fun a _ _ => BitVec.ofNat 64 (fp32.classOf a.toNat), false⟩,
  ⟨fun d a => .frnd d a mode, {}, fpFn1 fun e => fp32.integral e (modeOf e mode), false⟩,
  ⟨fun d a => .cvtf d a h src dst, cvtfShape src dst, cvtfFn h src dst, false⟩,
  ⟨fun d a => .cvti d a mode dst isrc, { wd := 2 ≤ dst.toNat, wa := isrc == 1 }, cvtiFn mode dst isrc, false⟩,
  ⟨fun d a => .pack2 d a mode, { wa := true }, pack2Fn mode, false⟩]

/-! ## Compares -/

/-- Issue of a compare. -/
def compareIssue (sh : Shape) (path : BitVec 1) (pred : BitVec 3) (a b : Field) (g : Guard) (feed : Bool) (s : State) : Issue :=
  { bound := if path = 1 then .crew else .none, guard := g, feed := feed && path == 1,
    keys := s.predKeys (path == 1) pred.toNat ++ s.aKeys a (regsOf sh.wa) ++ s.bKeys (path == 1) b (regsOf sh.wb) }

/-- A compare row. -/
structure CmpRow where
  instr : BitVec 1 → BitVec 3 → BitVec 3 → Field → Field → Guard → Instr
  sh : Shape
  fn : Nat → FEnv → DWord → DWord → Bool × FFlags
  feed : Bool

/-- The compare rows of one predicate (R149, R150, R161). -/
def compareRows : List CmpRow := [
  ⟨.icmp, {}, fun c _ a b => (intCond c (lo a).toInt (lo b).toInt, 0), true⟩,
  ⟨.icmpu, {}, fun c _ a b => (intCond c (lo a).toNat (lo b).toNat, 0), true⟩,
  ⟨.fcmp, sh32, fun c e a b => fp32.cmp e c a.toNat b.toNat, false⟩,
  ⟨.dcmp, sh64, fun c e a b => fp64.cmp e c a.toNat b.toNat, false⟩]

end Sys2Proof.Machine

/-! ## Integers -/

/-- R145, R148: the arithmetic instructions complete with the results of Tables 11.2 and 11.5, on either path, and nothing else changes. -/
def Sys2Proof.Machine.ArithmeticCompletesClaim : Prop := ∀ r ∈ arithmeticRows, r.Completes

/-- R151 to R155: the logic, shift, bit-field and byte-permute instructions, and those of one source, complete with their results. -/
def Sys2Proof.Machine.LogicCompletesClaim : Prop := (∀ r ∈ logicRows, r.Completes) ∧ ∀ r ∈ unaryRows, r.Completes

/-- R138, R145, R148 to R156: the integer and logic rows complete with their functions. -/
def Obligations.IntegerCompletes : Prop := ArithmeticCompletesClaim ∧ LogicCompletesClaim

/-- R147: IDIV, IDIVU, IREM and IREMU have opcodes 0x09 to 0x0C and start an operation of the clause's SETA flag that holds the quotient,
rounded toward zero, or the remainder, which takes the sign of the dividend; the divisor 0 and the most negative dividend by −1 have the
results of the rule, and for b ≠ 0, a is the quotient times b plus the remainder modulo 2^32. -/
def Obligations.DivisionStarts : Prop :=
  (∀ r ∈ divisionRows, r.Starts) ∧
  (∀ (d a b : Field) (g : Guard), encode (.idiv d a b g) = [fR 0x09 d a b g] ∧ encode (.idivu d a b g) = [fR 0x0A d a b g] ∧
    encode (.irem d a b g) = [fR 0x0B d a b g] ∧ encode (.iremu d a b g) = [fR 0x0C d a b g]) ∧
  ∀ a b : Word,
    divU a b = (if b = 0 then 0xFFFFFFFF else a / b) ∧ remU a b = (if b = 0 then a else a - b * (a / b)) ∧
    divS a 0 = 0xFFFFFFFF ∧ remS a 0 = a ∧ divS 0x80000000 0xFFFFFFFF = 0x80000000 ∧ remS 0x80000000 0xFFFFFFFF = 0 ∧
    (b ≠ 0 → (a ≠ 0x80000000 ∨ b ≠ 0xFFFFFFFF) → (divS a b).toInt = a.toInt.tdiv b.toInt ∧ (remS a b).toInt = a.toInt.tmod b.toInt) ∧
    (b ≠ 0 → divS a b * b + remS a b = a) ∧ (remS a b ≠ 0 → ((remS a b).toInt < 0 ↔ a.toInt < 0))

/-- R146: IADDC and ISUBB read the carry predicate, p7 of each lane or q3 on the uniform path, and write bit 32 of the sum, or the
borrow, back to it. -/
def Sys2Proof.Machine.CarryCompletesClaim : Prop :=
  ∀ (d a b : Field) (g : Guard) (s : State),
    (s.passes (.iaddc d a b g) (carryIssue d a b g s) = true →
      Next (exec (.iaddc d a b g) s)
        ((s.wrote (carryWr (fun x y c => (x + y + (if c then 1 else 0), decide (2 ^ 32 ≤ x.toNat + y.toNat + c.toNat))) d a b g s)).advance 1)) ∧
    (s.passes (.isubb d a b g) (carryIssue d a b g s) = true →
      Next (exec (.isubb d a b g) s)
        ((s.wrote (carryWr (fun x y c => (x - y - (if c then 1 else 0), decide (x.toNat < y.toNat + c.toNat))) d a b g s)).advance 1))

/-- R149, R150, R161: a compare writes its condition to PRED of every active lane whose guard is true, or to a q-register. -/
def Sys2Proof.Machine.CompareCompletesClaim : Prop :=
  (∀ r ∈ compareRows, ∀ (path : BitVec 1) (cond pred : BitVec 3) (a b : Field) (g : Guard) (s : State),
    s.passes (r.instr path cond pred a b g) (compareIssue r.sh path pred a b g r.feed s) = true →
      Next (exec (r.instr path cond pred a b g) s) ((s.wrote (compareWr r.sh (r.fn cond.toNat) path pred a b g s)).advance 1)) ∧
  (∀ (path : BitVec 1) (cond pred : BitVec 3) (a b : Field) (g : Guard) (s : State),
    (s.passes (.hcmp2 path cond pred a b g) (packedCmpIssue pred a b g s) = true →
      Next (exec (.hcmp2 path cond pred a b g) s) ((s.wrote (packedCmpWr fp16 cond pred a b g s)).advance 1)) ∧
    (s.passes (.bcmp2 path cond pred a b g) (packedCmpIssue pred a b g s) = true →
      Next (exec (.bcmp2 path cond pred a b g) s) ((s.wrote (packedCmpWr bf16 cond pred a b g s)).advance 1)))

/-- R156: SEL takes a where the predicate in its g field is true and b where it is false, in every active lane: the predicate does not
guard. -/
def Sys2Proof.Machine.SelectCompletesClaim : Prop :=
  ∀ (d a b : Field) (p : BitVec 3) (s : State),
    s.passes (.sel d a b p) { computeIssue {} d a b 0 1 true s with
      keys := (computeIssue {} d a b 0 1 true s).keys ++ (if p = 0 && !d.isK then [] else s.predKeys d.isK p.toNat) } = true →
    Next (exec (.sel d a b p) s) ((s.wrote (
      if d.isK then [.k s.sch.cur.crew d.num (if s.regs.qreg s.sch.cur.blk s.sch.cur.crew p.toNat
        then s.regs.kreg s.sch.cur.blk s.sch.cur.crew a.num else lo (s.regs.ubval s.sch.cur.blk s.sch.cur.crew .int b false))]
      else s.sch.cur.members.flatMap fun m => s.regs.vwr s.sch.cur.blk m d false (if s.regs.preg s.sch.cur.blk m.crew m.lane p.toNat
        then s.regs.aval s.sch.cur.blk m a false else s.regs.bval s.sch.cur.blk m .int b false))).advance 1)

/-- R146, R149, R150: carries, compares and selections complete. -/
def Obligations.CarryCompareSelectComplete : Prop := CarryCompletesClaim ∧ CompareCompletesClaim ∧ SelectCompletesClaim

/-! ## Floating point, conversions, special functions, moves -/

/-- R157 to R161: the FP32, packed FP16 and BF16, and FP64 instructions complete with the correctly rounded results of their formats under
the crew's CFPM, and OR their flags into CFPS. -/
def Sys2Proof.Machine.FloatCompletesClaim : Prop := ∀ r ∈ fp32Rows ++ packedRows ++ fp64Rows, r.Completes

/-- R158, R159, R162 to R164: FCLASS, FRND, CVTF, CVTI and PACK2 complete for every value of their mode fields. -/
def Sys2Proof.Machine.ConversionCompletesClaim : Prop :=
  ∀ (h : BitVec 1) (src mode : BitVec 3) (dst isrc : BitVec 2), ∀ r ∈ conversionRows h src mode dst isrc, r.Completes

/-- R42, R48, R165: the special functions start an operation of the clause's SETA flag that holds a faithfully rounded result, and owe their
crews' flags until it completes. Which of the two
neighbours it is, is free (log 5). -/
def Sys2Proof.Machine.SpecialFunctionStartsClaim : Prop := ∀ r ∈ specialRows, r.Starts

/-- R157 to R166: the floating-point rows and the conversions complete, and the special functions start. -/
def Obligations.FloatCompletes : Prop := FloatCompletesClaim ∧ ConversionCompletesClaim ∧ SpecialFunctionStartsClaim

/-- R166, R167: MOV moves between the two register classes, V2K from the lowest active lane; MOVI gives SX(imm14) and MOVL its literal. -/
def Obligations.MoveCompletes : Prop :=
  ∀ (d a : Field) (i : BitVec 14) (lit : Word) (g : Guard) (s : State),
    (s.passes (.mov d a g) { computeIssue {} d a constZero g 1 true s with feed := d.isK && a.isK } = true →
      Next (exec (.mov d a g) s) ((s.wrote (movWr d a g s)).advance 1)) ∧
    (s.passes (.movi d i g) (literalIssue d g 1 s) = true →
      Next (exec (.movi d i g) s) ((s.wrote (computeWr {} (pure3 fun _ _ _ => i.signExtend 64) d constZero constZero g s)).advance 1)) ∧
    (s.passes (.movl d g lit) (literalIssue d g 2 s) = true →
      Next (exec (.movl d g lit) s) ((s.wrote (computeWr {} (pure3 fun _ _ _ => lit.zeroExtend 64) d constZero constZero g s)).advance 2))

/-! ## Control transfers -/

namespace Sys2Proof.Machine

/-- The state in which every target of a transfer is word-aligned and translates with X, where they all are (R169). -/
def State.reachTargets (s : State) : List (Nat × Word) → Option State
  | [] => some s
  | (_, pc) :: rest => if pc.toNat % 4 ≠ 0 then none else match s.codeCheck pc with
    | .ok t => t.reachTargets rest
    | _ => none

/-- Threads with their targets, as the checks take them. -/
def laneTargets (gos : List (Member × Word)) : List (Nat × Word) := gos.map fun e => (e.1.lane, e.2)

/-- The bundle at a new clause. -/
def State.goTo (s : State) (pc : Word) : State :=
  s.setCur { s.sch.cur with pc := pc, clause := none, wait := .ready, since := s.now, pass := false, adv := 0, ahead := 0 }

end Sys2Proof.Machine

/-- R171 to R173: BRA, JMP and JMPI move the threads that take them, each to its target, and BRAU the whole bundle; a bundle none of whose
threads takes the transfer goes on at the next word. -/
def Sys2Proof.Machine.TransferCompletesClaim : Prop :=
  ∀ (n : BitVec 1) (q : BitVec 2) (i : BitVec 14) (lit : Word) (a : Field) (g : Guard) (s t : State),
    (s.passes (.bra n i g) { guard := g } = true →
      ∀ gos, gos = ((s.sch.cur.members.filter fun m => s.guardOn g m != (n == 1)).map fun m => (m, s.sch.cur.pc + 4 * i.signExtend 32)) →
      s.reachTargets (laneTargets gos) = some t → Next (exec (.bra n i g) s) (t.transfer 1 gos)) ∧
    (s.passes (.jmp g lit) { words := 2, guard := g, feed := true } = true →
      ∀ gos, gos = ((s.voters g).map fun m => (m, s.sch.cur.pc + 4 * lit)) →
      s.reachTargets (laneTargets gos) = some t → Next (exec (.jmp g lit) s) (t.transfer 2 gos)) ∧
    (s.passes (.jmpi a g) { guard := g, keys := s.aKeys a 1 } = true →
      ∀ gos, gos = ((s.lanesOn g).map fun m => (m, lo (s.regs.aval s.sch.cur.blk m a false))) →
      s.reachTargets (laneTargets gos) = some t → Next (exec (.jmpi a g) s) (t.transfer 1 gos)) ∧
    (s.passes (.brau n q i g) { bound := .crew, guard := g, feed := true, keys := [.q s.sch.cur.blk s.sch.cur.crew q.toNat] } = true →
      ∀ pc, pc = (s.sch.cur.pc + 4 * i.signExtend 32) →
      ∀ taken, taken = (s.uniformOn g && (s.regs.qreg s.sch.cur.blk s.sch.cur.crew q.toNat != (n == 1))) →
      (taken = false → Next (exec (.brau n q i g) s) (s.advance 1)) ∧
      (taken = true → s.reachTargets [(lowLane s.sch.cur.members, pc)] = some t → Next (exec (.brau n q i g) s) (t.goTo pc)))

/-- R21, R170: threads that all go to one PC go on as one bundle in a new clause; where none goes, the bundle goes on in its clause; else the bundle
stops issuing, and each distinct target, in the order of its lowest lane, and then the not-taken part, is filed or runs on as a bundle of its own. The
order in which the parts are filed, the targets by their lowest lanes and then the part that goes on, is the model's choice (log 12): R21 and R170
give none. -/
def Sys2Proof.Machine.TransferShapesClaim : Prop :=
  ∀ (s : State) (words : Nat) (gos : List (Member × Word)) (pc : Word),
    s.transfer words [] = s.advance words ∧
    ((∀ e ∈ gos, e.2 = pc) → gos ≠ [] → (s.sch.cur.feed = true ∨ gos.length = s.sch.cur.members.length) → s.transfer words gos = s.goTo pc) ∧
    (s.sch.cur.feed = false → gos ≠ [] → ¬ (∀ e ∈ gos, ∀ f ∈ gos, e.2 = f.2 ∧ gos.length = s.sch.cur.members.length) →
      (s.transfer words gos) =
        (((dedup (gos.map fun e => e.2)).foldl
          (fun t pc => t.filePart s.sch.cur pc none ((gos.filter fun e => e.2 == pc).map fun e => e.1)) s.dropCur).filePart s.sch.cur
            (s.sch.cur.step words s.now).pc (s.sch.cur.step words s.now).clause
            (s.sch.cur.members.filter fun m => !(gos.any fun e => e.1 == m))))

/-- R20, R21, R170 to R173: a transfer of control files or moves the threads whose vote takes it, and leaves the state as the vote says. The order in
which the parts are filed, the targets by their lowest lanes and then the part that goes on, is the model's choice (log 12): R21 and R170 give none.
-/
def Obligations.TransferCompletes : Prop := TransferCompletesClaim ∧ TransferShapesClaim

namespace Sys2Proof.Machine

/-- Call state of a thread of the issuing block. -/
def State.stackOf (s : State) (m : Member) : CallSt := s.regs.callSt s.sch.cur.blk m.crew m.lane

/-- CALL and CALLI of threads with their targets: CALLOVF, else the push of the word after the clause and the transfer; a thread whose four
hardware entries are taken spills its oldest to memory first, or takes the fault of that store. -/
def CallCompletes (i : Instr) (s : State) (gos : List (Member × Word)) : Prop :=
  (∀ e, gos.find? (fun e => (s.stackOf e.1).depth == s.depthLimit) = some e →
    Next (exec i s) (s.takeTrap { cls := .trap, code := 128, lane := e.1.lane })) ∧
  (∀ t, (∀ e ∈ gos, (s.stackOf e.1).depth ≠ s.depthLimit ∧ (s.stackOf e.1).hw.length ≠ 4) → s.reachTargets (laneTargets gos) = some t →
    Next (exec i s) ((t.setRegs (t.regs.pushAll s.sch.cur.blk (gos.map fun e => e.1) t.sch.cur.returnPc)).transfer 1 gos)) ∧
  (∀ t t2 lanes oob, (∀ e ∈ gos, (s.stackOf e.1).depth ≠ s.depthLimit) → s.reachTargets (laneTargets gos) = some t →
    t.checkLanes 4 1 { w := true } (((gos.map fun e => e.1).filter fun m => (s.stackOf m).hw.length == 4).map fun m =>
      (m, t.spillSlot m ((s.stackOf m).depth - 4))) [] = .ok t2 lanes oob → lanes ≠ [] →
    Next (exec i s) (s.storeAll t2 1 0 false (fun _ => spillPolicy)
      (lanes.map fun a => ⟨a, natToBytes 4 ((s.stackOf a.m).hw.getLastD 0).toNat, fullMask⟩)
      fun u => (u.setRegs (u.regs.pushAll s.sch.cur.blk (gos.map fun e => e.1) u.sch.cur.returnPc)).transfer 1 gos)) ∧
  (∀ t x, (∀ e ∈ gos, (s.stackOf e.1).depth ≠ s.depthLimit) → s.reachTargets (laneTargets gos) = some t →
    t.checkLanes 4 1 { w := true } (((gos.map fun e => e.1).filter fun m => (s.stackOf m).hw.length == 4).map fun m =>
      (m, t.spillSlot m ((s.stackOf m).depth - 4))) [] = .trap x →
    Next (exec i s) (t.takeTrap x))

/-- Where a thread returns to: its newest hardware entry, or what the refill loads `ps` have brought. -/
def State.returnPcOf (s : State) (ps : List Pend) (m : Member) : Word := match (s.stackOf m).hw with
  | pc :: _ => pc
  | [] => (refilled ps m).getD 0

/-- Refill loads of the issuing RET bundle. -/
def State.refillsOf (s : State) : List Pend := s.pipe.pends.filter fun p => p.refills s.sch.cur

/-- Threads of a RET whose hardware entries are gone, with their spill slots. -/
def State.refillLanes (s : State) (ms : List Member) : List (Member × Nat) :=
  (ms.filter fun m => (s.stackOf m).hw.isEmpty).map fun m => (m, s.spillSlot m ((s.stackOf m).depth - 1))

end Sys2Proof.Machine

/-- R174, R175, R177: CALL and CALLI push the address of the first word after the calling clause and move to their targets. At a depth of 4 +
CALLDEPTH they take TRAP 128 and push nothing. That CALLOVF of any lane is taken ahead of the faults of the targets is the model's choice (log 12):
the rules order no two faults of different lanes. -/
def Sys2Proof.Machine.CallsCompleteClaim : Prop :=
  ∀ (i : BitVec 14) (a : Field) (g : Guard) (s : State),
    (s.passes (.call i g) { guard := g, feed := true } = true →
      CallCompletes (.call i g) s ((s.voters g).map fun m => (m, s.sch.cur.pc + 4 * i.signExtend 32))) ∧
    (s.passes (.calli a g) { guard := g, keys := s.aKeys a 1 } = true →
      CallCompletes (.calli a g) s ((s.lanesOn g).map fun m => (m, lo (s.regs.aval s.sch.cur.blk m a false))))

/-- R174, R176, R177: RET pops the newest return address of each thread that takes it and moves there; where a thread has none left in hardware it
first loads it from its spill slot, takes the fault of that load, and waits for it; TRAP 129 where a stack is empty. That RETEMPTY of any lane, and
then the faults of refills, are taken ahead of the faults of the targets is the model's choice (log 12). -/
def Sys2Proof.Machine.ReturnCompletesClaim : Prop :=
  ∀ (g : Guard) (s t : State), s.passes (.ret g) { guard := g, feed := true } = true →
    ∀ gos, gos = ((s.voters g).map fun m => (m, s.returnPcOf s.refillsOf m)) →
    (∀ m, (s.voters g).find? (fun m => (s.stackOf m).depth == 0) = some m →
      Next (exec (.ret g) s) (s.takeTrap { cls := .trap, code := 129, lane := m.lane })) ∧
    ((∀ m ∈ s.voters g, (s.stackOf m).depth ≠ 0 ∧ ((s.stackOf m).hw ≠ [] ∨ (refilled s.refillsOf m).isSome = true)) →
      (∀ p ∈ s.refillsOf, p.parts = 0 ∧ p.poisoned = false) → s.reachTargets (laneTargets gos) = some t →
      Next (exec (.ret g) s) (((t.setRegs ((s.voters g).foldl
        (fun r m => r.setCall s.sch.cur.blk m.crew m.lane (r.callSt s.sch.cur.blk m.crew m.lane).pop) t.regs)).transfer 1 gos).dropRefills s.sch.cur)) ∧
    ((∀ m ∈ s.voters g, (s.stackOf m).depth ≠ 0) → (∃ m ∈ s.voters g, (s.stackOf m).hw = [] ∧ refilled s.refillsOf m = none) →
      (∀ x, s.checkLanes 4 1 { r := true, l1 := s.sch.cur.crews } (s.refillLanes (s.voters g)) [] = .trap x →
        Next (exec (.ret g) s) (s.takeTrap x)) ∧
      (∀ lanes oob, s.checkLanes 4 1 { r := true, l1 := s.sch.cur.crews } (s.refillLanes (s.voters g)) [] = .ok t lanes oob →
        t.loadBlocked lanes = false →
        Next (exec (.ret g) s) (((t.dropRefills s.sch.cur).startRefills lanes).park .again 0))) ∧
    ((∀ m ∈ s.voters g, (s.stackOf m).depth ≠ 0 ∧ ((s.stackOf m).hw ≠ [] ∨ (refilled s.refillsOf m).isSome = true)) →
      (∃ p ∈ s.refillsOf, p.parts ≠ 0) → Next (exec (.ret g) s) (s.park .again 0))

/-- R174 to R177: calls push the word after them and go to their target, and a return goes back to what it pops, from hardware or from the spill area;
a spill or refill takes the fault of its access. That CALLOVF and RETEMPTY of any lane, and the faults of refills, are taken ahead of the faults of
the targets is the model's choice (log 12): R174 to R177 order no two faults of different lanes. -/
def Obligations.CallsAndReturnsComplete : Prop := CallsCompleteClaim ∧ ReturnCompletesClaim

/-- R178, R15 to R17: NOP goes on; YIELD waits for 8 cycles; REFORM files its threads under its own PC, and is passed by a bundle drawn
there or where no bin is free once the held bundles have tried to file. -/
def Sys2Proof.Machine.ShapingCompletesClaim : Prop :=
  ∀ s : State,
    (s.passes .nop { feed := true } = true → Next (exec .nop s) (s.advance 1)) ∧
    (s.passes .yieldI { feed := true } = true → Next (exec .yieldI s) (s.park (.yielded (s.now + 8)) 1)) ∧
    (s.passes .reform {} = true →
      ∀ t, t = s.refileHeld s.curCore s.curQtr →
      ∀ filed, filed = (t.sch.file t.curCore t.curQtr s.sch.cur s.sch.cur.pc s.sch.cur.clause s.sch.cur.members t.now) →
      (s.sch.cur.pass = true → Next (exec .reform s) (s.advance 1)) ∧
      (s.sch.cur.pass = false → filed = none → Next (exec .reform s) (t.advance 1)) ∧
      (∀ h, s.sch.cur.pass = false → filed = some h → Next (exec .reform s) { t with sch := { h with curOn := false, cur := Bundle.none } }))

/-- R179: EXIT ends the threads whose guard is true; where there is none the bundle goes on. -/
def Sys2Proof.Machine.ExitCompletesClaim : Prop :=
  ∀ (g : Guard) (s : State), s.passes (.exit g) { guard := g } = true →
    (s.lanesOn g = [] → Next (exec (.exit g) s) (s.advance 1)) ∧
    (s.lanesOn g ≠ [] → Next (exec (.exit g) s) (s.exitThreads (s.lanesOn g)) ∧
      ∀ m ∈ s.lanesOn g, m.crew < 32 → m.lane < 32 →
        ((s.exitThreads (s.lanesOn g)).liveMask s.sch.cur.blk m.crew).getLsbD m.lane = false)

/-- R16, R178 to R180: REFORM files, NOP and YIELD go on, and EXIT ends its threads. -/
def Obligations.ShapingAndExitComplete : Prop := ShapingCompletesClaim ∧ ExitCompletesClaim

/-- R108, R109: a header whose WAIT names a pending flag of a crew of the bundle makes it wait; else the clause of LEN words with its SETA
and SETB starts at the next word. -/
def Obligations.ClauseHeaderCompletes : Prop :=
  ∀ (wait : BitVec 12) (seta setb len : BitVec 4) (s : State),
    formIllop (.clauseHeader wait seta setb len) = false → (s.block s.sch.cur.blk).st ≠ .stopping →
    (s.waitsOn wait = true → Next (exec (.clauseHeader wait seta setb len) s) (s.park (.flags wait) 0)) ∧
    (s.waitsOn wait = false → ∃ t, Next (exec (.clauseHeader wait seta setb len) s) t ∧ t.regs = s.regs ∧ t.mem = s.mem ∧
      t.sch.cur = { s.sch.cur with pc := s.sch.cur.pc + 4, clause := some ⟨seta.toNat, setb.toNat, len.toNat⟩, wait := .ready,
                                   pass := false, adv := 0 })

/-! ## Crew operations -/

/-- R180 to R186, R55: VOTE, SHFL, CRED, CSCAN, MATCH and CSYNC act once every lane of the member mask has arrived, on the gathered bundle
and tile by tile of the crew's partition (CPART), and the bundle goes on behind their two words. -/
def Obligations.CrewOperationsComplete : Prop :=
  ∀ (d a b : Field) (g : Guard) (m : CrewMod) (s j : State), j = s.joined (.members m) →
    (s.passes (.vote d g m) (crewIssue d constZero constZero 1 0 [bits m.imm.toNat 0 3, bits m.imm.toNat 3 3] g m s) = true →
      Next (exec (.vote d g m) s) ((j.wrote (j.perTile g fun _ c => voteTile j d m c)).advance 2)) ∧
    (s.passes (.shfl d a b g m) (crewIssue d a b (regsOf (m.type == 1)) (regsOf (m.type == 1)) [bits m.imm.toNat 0 3] g m s) = true →
      Next (exec (.shfl d a b g m) s) ((j.wrote (j.perTile g fun x c => shflTile j d a b m (j.memberMask m) x c)).advance 2)) ∧
    (s.passes (.cred d a g m) (crewIssue d a constZero (regsOf (m.type == 1)) (regsOf (m.type == 1)) [] g m s) = true →
      Next (exec (.cred d a g m) s) ((j.wrote (j.perTile g fun x c => credTile j d a m x c)).advance 2)) ∧
    (s.passes (.cscan d a g m) (crewIssue d a constZero (regsOf (m.type == 1)) (regsOf (m.type == 1)) [] g m s) = true →
      Next (exec (.cscan d a g m) s) ((j.wrote (j.perTile g fun x c => cscanTile j d a m x c)).advance 2)) ∧
    (s.passes (.matchEq d a g m) (crewIssue d a constZero 1 (regsOf (m.type == 1)) [bits m.imm.toNat 0 3] g m s) = true →
      Next (exec (.matchEq d a g m) s) ((j.wrote (j.perTile g fun _ c => matchTile j d a m c)).advance 2)) ∧
    (s.passes (.csync g m) { words := 2, bound := .members m, guard := g, keys := s.maskKeys m } = true →
      Next (exec (.csync g m) s) (j.advance 2))

/-- R55, R184: CRED's tree of 32-bit integer additions over a tile of 2^k lanes gives the sum of all its values modulo 2^32, and raises no
flag. -/
def Obligations.ReductionIsSum : Prop :=
  ∀ (k : Nat) (env : FEnv) (xs : List DWord), k ≤ 5 → xs.length = 2 ^ k → (∀ x ∈ xs, x.toNat < 2 ^ 32) →
    credTree 0 0 env (2 ^ k) xs = (BitVec.ofNat 64 ((xs.map fun x => x.toNat).sum % 2 ^ 32), 0)

/-! ## Barriers, waits, fences -/

/-- R187 to R189: the threads of a BAR or LBAR are WAITING behind the instruction, and the barrier is tested; it completes with the last
awaited arrival. -/
def Obligations.BarriersArrive : Prop :=
  ∀ (scope : BitVec 1) (id : BitVec 4) (s : State),
    (s.passes (.bar scope id) { bad := scope == 1 && (s.launchOf s.sch.cur.blk).group == 1 } = true →
      Next (exec (.bar scope id) s)
        ((s.cutEpochs.park (.bar id.toNat (scope == 1) none) 1).barCheck s.sch.cur.blk id.toNat (scope == 1))) ∧
    (s.passes .lbar {} = true → Next (exec .lbar s) ((s.cutEpochs.park (.lbar false) 1).lbarCheck (s.block s.sch.cur.blk).launch))

/-- R187, R343: a barrier whose every live thread of its blocks waits at it, with their releases performed and guarded blocks compared, completes: the waiting threads are
given the cycle of their resumption, 6 cycles later in a block and 40 in a cluster group. -/
def Obligations.BarrierCompletes : Prop :=
  ∀ (s : State) (b id : Nat) (cl : Bool) (bs : List Nat), bs = (if cl then s.groupOf b else [b]) →
    s.barReady bs id cl = true →
    (∀ u ∈ (s.barCheck b id cl).sch.bundles, u.blk ∈ bs → u.feed = false → u.wait ≠ .bar id cl none) ∧
    (∀ v ∈ s.sch.bundles, v.blk ∈ bs → v.feed = false → v.wait = .bar id cl none →
      { v with wait := Wait.bar id cl (some (s.now + (if cl then 40 else 6))) } ∈ (s.barCheck b id cl).sch.bundles)

/-- R191, R192: outside a guarded pair WAITCMP sends a read to the home slice for each active lane, which arms its monitor, and its bundle waits
for them; without an active lane it goes on. -/
def Obligations.WaitcmpArms : Prop :=
  ∀ (u : BitVec 1) (cond : BitVec 3) (a b : Field) (g : Guard) (m : MemMod) (s t : State) (lanes : List LaneAcc) (oob : List Member),
    s.passes (.waitcmp u cond a b g m)
      { words := 2, guard := g, keys := s.aKeys a 1 ++ s.bKeys false b (regsOf (m.wid == 3)) ++ s.polKeys m.pol.toNat } = true →
    s.pairOf s.sch.cur.blk = none → s.polIllop m false true = false →
    s.checkRecord (s.record s.sch.cur.blk m.recNo.toNat) (memOff m) (memWidth m) 2 { r := true } (s.elemLanes a g) = .ok t lanes oob →
    (lanes = [] → Next (exec (.waitcmp u cond a b g m) s) (t.advance 2)) ∧
    (lanes ≠ [] → t.loadBlocked lanes = false →
      Next (exec (.waitcmp u cond a b g m) s)
        (({ t with pipe := { t.pipe with nextId := t.pipe.nextId + 1 } }.armMonitors t.pipe.nextId u cond b m lanes).park
          (.monitor t.pipe.nextId) 2))

namespace Sys2Proof.Machine

/-- A fence's effect (R90, R102): its release part for each crew of the bundle, then its acquire part. -/
def State.fenced2 (s : State) (ord scope : Nat) (girth : Bool) : State :=
  let t := if 2 ≤ ord then s.sch.cur.crews.foldl (fun t c => t.releaseFence s.sch.cur.blk c scope girth) s else s
  ((if ord % 2 = 1 then t.acquire s.sch.cur.blk scope else t).cutEpochs).advance 1

/-- Must a fence wait for reads or girth operations of the bundle's threads (R193)? -/
def State.fenceWaits (s : State) (ord : Nat) (girth : Bool) : Bool :=
  (ord % 2 == 1 && s.readsOf s.sch.cur) || (girth && s.girthPending s.sch.cur)

end Sys2Proof.Machine

/-- R90, R91, R102, R193, R194, R236: once the earlier reads of the bundle's threads (and girth operations, where the fence orders them) are over,
FENCE and, outside a guarded pair, GFENCE make their release and acquire parts; FENCEO ends the merging of the crew's stores; FENCER waits for its visits to every core of
its scope. -/
def Obligations.FencesComplete : Prop :=
  ∀ (ord : BitVec 2) (scope : BitVec 3) (s : State),
    (s.passes (.fence ord scope) {} = true → s.fenceWaits ord.toNat (4 ≤ scope.toNat) = false →
      Next (exec (.fence ord scope) s) (s.fenced2 ord.toNat scope.toNat (4 ≤ scope.toNat))) ∧
    (s.passes (.gfence scope) { feat := some 0 } = true → s.pairOf s.sch.cur.blk = none → s.fenceWaits 3 true = false →
      Next (exec (.gfence scope) s) (s.fenced2 3 scope.toNat true)) ∧
    (s.passes .fenceo {} = true → Next (exec .fenceo s) (s.cutEpochs.advance 1)) ∧
    (s.passes (.fencer scope) {} = true → ∃ t, Next (exec (.fencer scope) s) t ∧ t.sch.cur.wait = .fencer s.pipe.nextId ∧ t.sch.cur.adv = 1 ∧
      t.regs = s.regs ∧ t.mem = s.mem ∧
      t.sch.fencers = s.sch.fencers ++ [({ id := s.pipe.nextId, blk := s.sch.cur.blk, crews := s.sch.cur.crews, scope := scope.toNat, cores := s.coresIn s.curCore scope.toNat } : Fencer)])

/-! ## Predicates, special registers, traps -/

/-- R195, R196: PLOP writes LUT[2 × B + A] to its predicate, V2P the selected bits of a register to the predicates. -/
def Obligations.PredicatesComplete : Prop :=
  ∀ (path : BitVec 1) (r pb pa : BitVec 3) (lut : BitVec 4) (a b : Field) (g : Guard) (s : State),
    (s.passes (.plop path r pb pa lut g)
      { bound := if path = 1 then .crew else .none, guard := g,
        keys := [r, pa, pb].flatMap fun n => s.predKeys (path == 1) n.toNat  } = true →
      Next (exec (.plop path r pb pa lut g) s) ((s.wrote (plopWr path r pb pa lut g s)).advance 1)) ∧
    (s.passes (.v2p path a b g)
      { bound := if path = 1 then .crew else .none, guard := g,
        keys := s.aKeys a 1 ++ s.bKeys (path == 1) b 1 ++
          (List.range 8).flatMap fun n => if path == 1 && 4 ≤ n then [] else s.predKeys (path == 1) n } = true →
      Next (exec (.v2p path a b g) s) ((s.wrote (v2pWr path a b g s)).advance 1))

/-- R196: P2V d, opcode 0x6C with a and b zero: with a vector d each active lane receives p7 to p1 in bits 7 to 1, 1 in bit 0 and 0
elsewhere; with a k d it issues on the uniform path and writes q3 to q0 in bits 3 to 0. -/
def Obligations.PredicatesReadRule : Prop :=
  ∀ (d : Field) (g : Guard) (s : State),
    encode (.p2v d g) = [fR 0x6C d 0 0 g] ∧
    ∀ (byte : Member → Word) (nibble : Word), (∀ m n, (byte m).getLsbD n = (decide (n < 8) && s.regs.preg s.sch.cur.blk m.crew m.lane n)) →
      (∀ n, nibble.getLsbD n = (decide (n < 4) && s.regs.qreg s.sch.cur.blk s.sch.cur.crew n)) →
      (d.isK = false → s.passes (.p2v d g) { guard := g, keys := s.fieldKeys d false 1 ++ (List.range 8).flatMap fun n => s.predKeys false n } = true →
        Next (exec (.p2v d g) s) ((s.wrote ((s.lanesOn g).map fun m => .cell m.crew (s.regs.cellOf s.sch.cur.blk m.crew d) m.lane (byte m))).advance 1)) ∧
      (d.isK = true → s.passes (.p2v d g) {
          bound := .crew, guard := g
          keys := s.fieldKeys d true 1 ++ (List.range 8).flatMap fun n => if 4 ≤ n then [] else s.predKeys true n } = true →
        Next (exec (.p2v d g) s) ((s.wrote (if s.uniformOn g = true then [.k s.sch.cur.crew d.num nibble] else [])).advance 1))

/-- R197: RDSR gives the special register, and one of CFPS waits until the crew's flags have landed (R42). -/
def Sys2Proof.Machine.ReadSpecialCompletesClaim : Prop :=
  ∀ (d : Field) (i : BitVec 7) (g : Guard) (s : State),
    s.passes (.rdsr d i g) { bound := if d.isK then .crew else .none, guard := g, feed := d.isK, keys := s.fieldKeys d d.isK (regsOf (i == 0x0B)) } = true →
    (i = 0x10 → ∀ c ∈ s.sch.cur.crews, s.flagsPending s.sch.cur.blk c = false) →
    Next (exec (.rdsr d i g) s) ((s.wrote (rdsrWr d i g s)).advance 1)

/-- R198, R119, R41: WRSR writes ABND, CFPM or CFPS of its crew where its guard is true: a value with reserved bits, or an ABND outside WB +
64 to regs, is ILLOP. A write of ABND first promotes every tile. -/
def Sys2Proof.Machine.WriteSpecialCompletesClaim : Prop :=
  ∀ (a : BitVec 6) (i : BitVec 7) (g : Guard) (s : State) (v : Word), v = s.regs.kreg s.sch.cur.blk s.sch.cur.crew a.toNat →
    s.passes (.wrsr a i g) { bound := .crew, guard := g, keys := [.k s.sch.cur.blk s.sch.cur.crew a.toNat] } = true →
    (s.uniformOn g = false → Next (exec (.wrsr a i g) s) (s.advance 1)) ∧
    (s.uniformOn g = true → s.wrsrBad i v = true → Next (exec (.wrsr a i g) s) (s.illop 1 false)) ∧
    (s.uniformOn g = true → s.wrsrBad i v = false →
      (if i = 0x0D then s.matrixPending s.sch.cur.blk s.sch.cur.crew else s.flagsPending s.sch.cur.blk s.sch.cur.crew) = false →
      Next (exec (.wrsr a i g) s) ((s.wrsr i v).advance 1) ∧
      (i = 0x0D → ((s.wrsr i v).regs.crewSt s.sch.cur.blk s.sch.cur.crew).abnd = v.toNat) ∧
      (i = 0x0F → ((s.wrsr i v).regs.crewSt s.sch.cur.blk s.sch.cur.crew).cfpm = v) ∧
      (i = 0x10 → ((s.wrsr i v).regs.crewSt s.sch.cur.blk s.sch.cur.crew).cfps = v))

/-- R200, R118, R201: WINB sets the crew's window base to 8 × imm7 or to a k-register, a value that is no multiple of 8 or ends above ABND
being ILLOP; CPART sets its partition. -/
def Sys2Proof.Machine.CrewRegistersCompleteClaim : Prop :=
  ∀ (i : BitVec 7) (a : BitVec 6) (w : BitVec 3) (g : Guard) (s : State) (c : CrewSt), c = s.regs.crewSt s.sch.cur.blk s.sch.cur.crew →
    (s.passes (.winbImm i g) { bound := .crew, guard := g } = true →
      (s.uniformOn g = false → Next (exec (.winbImm i g) s) (s.advance 1)) ∧
      (s.uniformOn g = true → 8 * i.toNat + 64 ≤ c.abnd →
        Next (exec (.winbImm i g) s) ((s.setRegs (s.regs.setCrew s.sch.cur.blk s.sch.cur.crew { c with wb := 8 * i.toNat })).advance 1)) ∧
      (s.uniformOn g = true → c.abnd < 8 * i.toNat + 64 → Next (exec (.winbImm i g) s) (s.illop 1 false))) ∧
    (s.passes (.winbReg a g) { bound := .crew, guard := g, keys := [.k s.sch.cur.blk s.sch.cur.crew a.toNat] } = true →
      ∀ v, v = (s.regs.kreg s.sch.cur.blk s.sch.cur.crew a.toNat).toNat →
      (s.uniformOn g = false → Next (exec (.winbReg a g) s) (s.advance 1)) ∧
      (s.uniformOn g = true → v % 8 = 0 → v + 64 ≤ c.abnd →
        Next (exec (.winbReg a g) s) ((s.setRegs (s.regs.setCrew s.sch.cur.blk s.sch.cur.crew { c with wb := v })).advance 1)) ∧
      (s.uniformOn g = true → v % 8 ≠ 0 ∨ c.abnd < v + 64 → Next (exec (.winbReg a g) s) (s.illop 1 false))) ∧
    (s.passes (.cpart w g) { bound := .crew, guard := g } = true →
      (s.uniformOn g = false → Next (exec (.cpart w g) s) (s.advance 1)) ∧
      (s.uniformOn g = true →
        Next (exec (.cpart w g) s) ((s.setRegs (s.regs.setCrew s.sch.cur.blk s.sch.cur.crew { c with cpart := w.toNat })).advance 1)))

/-- R41, R116 to R119, R197 to R201: special registers are read and written, and WINB and CPART set the crew state. -/
def Obligations.SpecialRegistersComplete : Prop := ReadSpecialCompletesClaim ∧ WriteSpecialCompletesClaim ∧ CrewRegistersCompleteClaim

/-- R202: TRAP takes the fault TRAP with its code where the guard of some lane is true and the code is enabled; else it does nothing. -/
def Sys2Proof.Machine.TrapCompletesClaim : Prop :=
  ∀ (c : BitVec 7) (g : Guard) (s : State), s.passes (.trap c g) { guard := g } = true →
    (s.lanesOn g = [] ∨ s.trapEnabled c.toNat = false → Next (exec (.trap c g) s) (s.advance 1)) ∧
    (s.lanesOn g ≠ [] → s.trapEnabled c.toNat = true →
      Next (exec (.trap c g) s) (s.takeTrap { cls := .trap, code := c.toNat, lane := lowLane (s.lanesOn g) }))

/-- R203: outside a guarded pair CANCEL sends the cancellation of a live level of its own context to the dispatcher; a level that does not
exist or has completed is left as it is, and one of another context is PROT. -/
def Sys2Proof.Machine.CancelCompletesClaim : Prop :=
  ∀ (a : BitVec 6) (l : BitVec 2) (g : Guard) (s : State) (ctx id : Nat), ctx = s.ctxOf s.sch.cur.blk → s.pairOf s.sch.cur.blk = none →
    (s.passes (.cancelSelf l g) { bound := .crew, guard := g } = true → id = (s.launchOf s.sch.cur.blk).levelId l.toNat →
      (s.uniformOn g = false ∨ id = 0 ∨ (s.levelLive ctx l.toNat id = false ∧ s.levelElsewhere ctx l.toNat id = false) →
        Next (exec (.cancelSelf l g) s) (s.advance 1)) ∧
      (s.uniformOn g = true → id ≠ 0 → s.levelLive ctx l.toNat id = true →
        Next (exec (.cancelSelf l g) s) ({ s with disp := { s.disp with cancels := s.disp.cancels ++ [({ ctx := ctx, kind := l.toNat, id := id } : CancelRec)] } }.advance 1))) ∧
    (s.passes (.cancelId a l g) { bound := .crew, guard := g, keys := [.k s.sch.cur.blk s.sch.cur.crew a.toNat] } = true →
      id = (s.regs.kreg s.sch.cur.blk s.sch.cur.crew a.toNat).toNat →
      (s.uniformOn g = false → Next (exec (.cancelId a l g) s) (s.advance 1)) ∧
      (s.uniformOn g = true → s.levelLive ctx l.toNat id = true →
        Next (exec (.cancelId a l g) s) ({ s with disp := { s.disp with cancels := s.disp.cancels ++ [({ ctx := ctx, kind := l.toNat, id := id } : CancelRec)] } }.advance 1)) ∧
      (s.uniformOn g = true → s.levelLive ctx l.toNat id = false → id ≠ 0 → s.levelElsewhere ctx l.toNat id = true →
        Next (exec (.cancelId a l g) s) (s.takeTrap { cls := .prot, lane := lowLane s.sch.cur.members })) ∧
      (s.uniformOn g = true → s.levelLive ctx l.toNat id = false → s.levelElsewhere ctx l.toNat id = false →
        Next (exec (.cancelId a l g) s) (s.advance 1)))

/-- R205, R206: outside a guarded pair WQPOP, and WQPUSH once its release of device scope is performed, send an operation to the work-queue
unit, and the crew waits for its result. -/
def Sys2Proof.Machine.WorkQueueSendsClaim : Prop :=
  ∀ (d a : BitVec 6) (q : BitVec 2) (g : Guard) (s : State), s.pairOf s.sch.cur.blk = none →
    (s.passes (.wqpop d q g) { bound := .crew, guard := g, keys := [.k s.sch.cur.blk s.sch.cur.crew d.toNat, .q s.sch.cur.blk s.sch.cur.crew q.toNat] } = true →
      (s.uniformOn g = false → Next (exec (.wqpop d q g) s) (s.advance 1)) ∧
      (s.uniformOn g = true → ∃ t, Next (exec (.wqpop d q g) s) t ∧ t.sch.cur.wait = .pend s.pipe.nextId ∧ t.regs = s.regs ∧ t.mem = s.mem ∧
        t.disp.wq = s.disp.wq ++ [({ pend := s.pipe.nextId, blk := s.sch.cur.blk, crew := s.sch.cur.crew, push := false, value := 0, kd := d.toNat, qd := q.toNat } : WqOp)])) ∧
    (s.passes (.wqpush a q g) { bound := .crew, guard := g, keys := [.k s.sch.cur.blk s.sch.cur.crew a.toNat, .q s.sch.cur.blk s.sch.cur.crew q.toNat] } = true →
      (s.uniformOn g = false → Next (exec (.wqpush a q g) s) (s.advance 1)) ∧
      (s.uniformOn g = true → s.releaseWaits s.sch.cur.blk s.sch.cur.crew 4 = false →
        ∃ t, Next (exec (.wqpush a q g) s) t ∧ t.sch.cur.wait = .pend s.pipe.nextId ∧ t.regs = s.regs ∧ t.mem = s.mem ∧
        t.disp.wq = s.disp.wq ++ [({ pend := s.pipe.nextId, blk := s.sch.cur.blk, crew := s.sch.cur.crew, push := true, value := s.regs.kreg s.sch.cur.blk s.sch.cur.crew a.toNat, kd := 0, qd := q.toNat } : WqOp)]))

/-- R202 to R206: TRAP takes its exception where the launch enables it, CANCEL goes to the dispatcher, WQ to the work-queue unit. -/
def Obligations.SystemComplete : Prop := TrapCompletesClaim ∧ CancelCompletesClaim ∧ WorkQueueSendsClaim

/-! ## Loads, stores, scratchpad, L1, prefetch, records -/

namespace Sys2Proof.Machine

/-- What every access of lanes does before its own effect (R89, R124, R211): a policy word that is invalid or holds an order the
instruction excludes is ILLOP; a check that fails takes its fault; a walk under way makes the crew WAITING; else `go` holds of the lanes
that act and of those dropped out of bounds. -/
def AccessRules (i : Instr) (s : State) (m : MemMod) (noAcq noRel : Bool) (c : Checked) (go : State → List LaneAcc → List Member → Prop) : Prop :=
  (s.polIllop m noAcq noRel = true → Next (exec i s) (s.illop 2 false)) ∧
  (s.polIllop m noAcq noRel = false →
    (∀ x, c = .trap x → Next (exec i s) (s.takeTrap x)) ∧
    (∀ t, c = .miss t → Next (exec i s) (t.park .crew 0)) ∧
    (∀ t lanes oob, c = .ok t lanes oob → go t lanes oob))

/-- The checks of a record-based access of the active lanes, with the element indices in a. -/
def State.laneCheck (s : State) (a : Field) (g : Guard) (m : MemMod) (n : Need) : Checked :=
  s.checkRecord (s.record s.sch.cur.blk m.recNo.toNat) (memOff m) (memWidth m) 2 n (s.elemLanes a g)
/-- The checks of a record-based access of the uniform path, with the element index in k-register a. -/
def State.uniCheck (s : State) (a : Field) (g : Guard) (m : MemMod) (n : Need) : Checked :=
  s.checkRecord (s.record s.sch.cur.blk m.recNo.toNat) (memOff m) (memWidth m) 2 n (s.uniformElem a g)

/-- Stores of checked lanes: with none left the instruction goes on; else, once no release fence holds them, they enter the store
buffer, or the hold buffer of a guarded block, which is all they do to the state of memory; a full hold buffer is HOLDOVF, and after a
RESUME from it the store is a comparison point (R344). -/
def StoresEnter (i : Instr) (s t : State) (pol : Nat → Word) (xs : List StoreAcc) : Prop :=
  (xs = [] → Next (exec i s) ((t.beginStores s.setb false pol []).advance 2)) ∧
  (xs ≠ [] → s.writeWaits pol = true → Next (exec i s) (s.park .again 0)) ∧
  (xs ≠ [] → s.writeWaits pol = false → ∀ e, e = (if s.guardedBlk s.sch.cur.blk then t.cutReleases pol else t) →
    (e.room (lineStores pol xs) = .enter → Next (exec i s) (((e.beginStores s.setb true pol xs).cutReleases pol).advance 2)) ∧
    (e.room (lineStores pol xs) = .wait → Next (exec i s) (s.park .crew 0)) ∧
    (e.room (lineStores pol xs) = .holdovf →
      Next (exec i s) (s.takeTrap { cls := .holdovf, lane := lowLane s.sch.cur.members, words := 2 })) ∧
    (e.room (lineStores pol xs) = .compare →
      Next (exec i s) ((s.arriveAt s.sch.cur.blk (4096 + s.sch.cur.code)).park .again 0)))

/-- Lanes with the data they store. -/
def storeAccs (lanes : List LaneAcc) (data : Member → List Byte × Nat) : List StoreAcc := lanes.map fun x => ⟨x, (data x.m).1, (data x.m).2⟩

end Sys2Proof.Machine

/-- R209 to R214: LD and LDX check their lanes (LD for alignment as well) and start one pending load for each crew of the bundle; a buffered
store of the quarter on its bytes, or the crew's own atomic there, makes it wait. -/
def Sys2Proof.Machine.LoadsCompleteClaim : Prop :=
  ∀ (d a b : Field) (g : Guard) (m : MemMod) (s : State),
    (s.passes (.ld d a b g m) (vecIssue d a (groupLen (memWidth m)) g m (s.epKeys false (fieldEP b).toNat) s) = true →
      AccessRules (.ld d a b g m) s m false true (s.laneCheck a g m { align := true, r := true, l1 := s.hitCrews (s.pol m) }) fun t lanes oob =>
        (t.loadBlocked lanes = true → Next (exec (.ld d a b g m) s) (s.park .again 0)) ∧
        (t.loadBlocked lanes = false →
          Next (exec (.ld d a b g m) s) (t.startLoad d (memWidth m) (fieldEP b).toNat (optSx b) m lanes oob))) ∧
    (s.passes (.ldx d a b g m) (vecIssue d a (groupLen (memWidth m)) g m (s.epKeys false (fieldEP b).toNat) s) = true →
      AccessRules (.ldx d a b g m) s m false true (s.laneCheck a g m { align := false, r := true, l1 := s.hitCrews (s.pol m) }) fun t lanes oob =>
        (t.loadBlocked lanes = true → Next (exec (.ldx d a b g m) s) (s.park .again 0)) ∧
        (t.loadBlocked lanes = false →
          Next (exec (.ldx d a b g m) s) (t.startLoad d (memWidth m) (fieldEP b).toNat (optSx b) m lanes oob)))

/-- R214: LDK loads once for the crew, under the guard of its lowest active lane: its pending operation names the k-registers of d and, where
EP is given, its q-register, and brings the bytes at the element in k-register a. -/
def Sys2Proof.Machine.UniformLoadCompletesClaim : Prop :=
  ∀ (d a b : Field) (g : Guard) (m : MemMod) (s : State),
    s.passes (.ldk d a b g m) (uniIssue d a (groupLen (memWidth m)) g m (s.epKeys true (fieldEP b).toNat) s) = true →
    AccessRules (.ldk d a b g m) s m false true (s.uniCheck a g m { r := true, l1 := s.hitCrews (s.pol m) }) fun t lanes oob =>
      (t.loadBlocked lanes = true → Next (exec (.ldk d a b g m) s) (s.park .again 0)) ∧
      (t.loadBlocked lanes = false → ∃ u, Next (exec (.ldk d a b g m) s) u ∧ u.regs = t.regs ∧ u.mem = t.mem ∧ u.sp = t.sp ∧
        (lanes = [] → u.pipe.pends = t.pipe.pends ++ [{ Pend.blank with
          id := t.pipe.nextId, blk := s.sch.cur.blk, crew := s.sch.cur.crew, flag := s.seta, plan := .kload s.sch.cur.crew d.num m.wid.toNat (optSx b),
          regs := if s.uniformElem a g = [] then [] else t.fieldKeys d true (groupLen (memWidth m)) ++ t.epKeys true (fieldEP b).toNat,
          outs := (if oob = [] then [] else kWrs s.sch.cur.crew d.num (List.replicate (groupLen (memWidth m)) 0)) ++
            (if s.uniformElem a g = [] then [] else epWrK s.sch.cur.crew (fieldEP b).toNat (decide (oob ≠ []))),
          isRead := true, pc := s.sch.cur.pc, ms := s.sch.cur.threads }] ∧ u.sch.cur = t.sch.cur.step 2 t.now))

/-- R207 to R213: loads start on both paths. -/
def Obligations.LoadsComplete : Prop := LoadsCompleteClaim ∧ UniformLoadCompletesClaim

/-- R214, R87, R122, R211: ST, STM and STK check their lanes (ST and STK for alignment as well); those that pass enter the store buffer with the bytes
of their data groups, under the byte mask in b for STM. A store changes no register and no byte of memory when it issues. The model's choices: a store
whose policy word asks for a release waits at issue (log 10), one of more than 32 lines enters an empty buffer at once (log 11), and a store of a
guarded block is held for its comparison (log 13). -/
def Obligations.StoresComplete : Prop :=
  ∀ (d a b : Field) (g : Guard) (m : MemMod) (s : State),
    (s.passes (.st d a g m) (vecIssue d a (groupLen (memWidth m)) g m [] s) = true →
      AccessRules (.st d a g m) s m true false (s.laneCheck a g m { align := true, store := true }) fun t lanes _ =>
        StoresEnter (.st d a g m) s t (s.pol m) (storeAccs lanes fun x => (s.groupData d (memWidth m) x, fullMask))) ∧
    (s.passes (.stm d a b g m) (vecIssue d a (groupLen (memWidth m)) g m (s.bKeys false b 1) s) = true →
      AccessRules (.stm d a b g m) s m true false (s.laneCheck a g m { align := false, store := true }) fun t lanes _ =>
        StoresEnter (.stm d a b g m) s t (s.pol m) (storeAccs lanes fun x =>
          (s.groupData d (memWidth m) x, (lo (s.regs.bval s.sch.cur.blk x .int b false)).toNat))) ∧
    (s.passes (.stk d a g m) (uniIssue d a (groupLen (memWidth m)) g m [] s) = true →
      AccessRules (.stk d a g m) s m true false (s.uniCheck a g m { align := true, store := true }) fun t lanes _ =>
        StoresEnter (.stk d a g m) s t (s.pol m) (storeAccs lanes fun x => (s.regs.kBytes s.sch.cur.blk x.crew d.num (memWidth m), fullMask)))

/-- The frame of the loads, the stores to memory, PREF and the scratchpad loads at their issue, on every path: every register, every byte
of memory and every scratchpad byte reads as before. What a store writes reaches memory at its home point (HomeWriteFrame). -/
def Obligations.AccessFrame : Prop :=
  ∀ (d a b : Field) (g : Guard) (m : MemMod) (s t : State) (i : Instr),
    i ∈ [Instr.ld d a b g m, .ldx d a b g m, .ldk d a b g m, .st d a g m, .stm d a b g m, .stk d a g m, .pref a b g m, .lds d a b g m, .ldp d a b g m] →
    Next (exec i s) t → t.regs = s.regs ∧ t.mem.cells = s.mem.cells ∧ t.sp.bytes = s.sp.bytes ∧ t.sp.recs = s.sp.recs ∧ t.host.featacc = s.host.featacc

namespace Sys2Proof.Machine

/-- What the scratchpad instructions do before their own effect (R215, R218). -/
def SpadRules (i : Instr) (s : State) (m : MemMod) (noAcq noRel : Bool) (r : SpadRes) (go : List SpadAcc → Prop) : Prop :=
  (s.polIllop m noAcq noRel = true → Next (exec i s) (s.illop 2 false)) ∧
  (s.polIllop m noAcq noRel = false →
    (∀ x, r = .trap x → Next (exec i s) (s.takeTrap x)) ∧ (r = .wait → Next (exec i s) (s.park .crew 0)) ∧ (∀ l, r = .ok l → go l))

/-- A scratchpad store made: bytes in the areas, lanes ascending. -/
def State.spadStored (s : State) (l : List SpadAcc) (data : Member → List Byte × Nat) : State :=
  l.foldl (fun t e => t.spadWrite e.blk e.x (maskBytes (data e.m).1 (data e.m).2)) s

/-- A scratchpad store: it waits for a release fence or its policy's release, and else its bytes stand in the areas at once and the bundle goes on; registers, memory
and every scratchpad byte outside the stored bytes are as before. -/
def SpadStores (i : Instr) (s : State) (pol : Nat → Word) (l : List SpadAcc) (data : Member → List Byte × Nat) : Prop :=
  (l ≠ [] → s.orderWaits pol = true → Next (exec i s) (s.park .again 0)) ∧
  (l = [] ∨ s.orderWaits pol = false → ∃ t, Next (exec i s) t ∧ t.sp = (s.spadStored l data).sp ∧ t.regs = s.regs ∧ t.mem.cells = s.mem.cells ∧
    t.sch.cur = s.sch.cur.step 2 s.now ∧
    ∀ blk x, (∀ e ∈ l, ∀ y ∈ maskBytes (data e.m).1 (data e.m).2, spadKey e.blk (e.x + y.1) ≠ spadKey blk x) → t.sp.byte blk x = s.sp.byte blk x)

end Sys2Proof.Machine

/-- R215 to R218: LDS and LDP read the banks when they issue, once the lines are present, into one pending operation for each crew; STS, STSM and STP
write them. The model's choices: banks are read and written when the instruction issues (log 39), and a write whose policy word asks for a release
waits at issue (log 10). -/
def Obligations.ScratchpadCompletes : Prop :=
  ∀ (d a b : Field) (g : Guard) (m : MemMod) (s : State),
    (s.passes (.lds d a b g m) (vecIssue d a (groupLen (memWidth m)) g m [] s) = true →
      SpadRules (.lds d a b g m) s m false true (s.ownSpad a g m) fun l =>
        ((l.any fun e => s.lineAbsent e.blk e.x (memWidth m)) = true → Next (exec (.lds d a b g m) s) (s.park .crew 0)) ∧
        ((l.any fun e => s.lineAbsent e.blk e.x (memWidth m)) = false →
          Next (exec (.lds d a b g m) s) (s.spadLoad d (optSx b) m (.ok l)))) ∧
    (s.passes (.ldp d a b g m) (vecIssue d a (groupLen (memWidth m)) g m (s.bKeys false b 1) s) = true →
      SpadRules (.ldp d a b g m) s m false true (s.peerSpad a b g m) fun l =>
        ((l.any fun e => s.lineAbsent e.blk e.x (memWidth m)) = true → Next (exec (.ldp d a b g m) s) (s.park .crew 0)) ∧
        ((l.any fun e => s.lineAbsent e.blk e.x (memWidth m)) = false →
          Next (exec (.ldp d a b g m) s) (s.spadLoad d false m (.ok l)))) ∧
    (s.passes (.sts d a g m) (vecIssue d a (groupLen (memWidth m)) g m [] s) = true →
      SpadRules (.sts d a g m) s m true false (s.ownSpad a g m) fun l =>
        SpadStores (.sts d a g m) s (s.pol m) l fun x => (s.groupData d (memWidth m) x, fullMask)) ∧
    (s.passes (.stsm d a b g m) (vecIssue d a (groupLen (memWidth m)) g m (s.bKeys false b 1) s) = true →
      SpadRules (.stsm d a b g m) s m true false (s.ownSpad a g m) fun l =>
        SpadStores (.stsm d a b g m) s (s.pol m) l fun x =>
          (s.groupData d (memWidth m) x, (lo (s.regs.bval s.sch.cur.blk x .int b false)).toNat)) ∧
    (s.passes (.stp d a b g m) (vecIssue d a (groupLen (memWidth m)) g m (s.bKeys false b 1) s) = true →
      SpadRules (.stp d a b g m) s m true false (s.peerSpad a b g m) fun l =>
        SpadStores (.stp d a b g m) s (s.pol m) l fun x => (s.groupData d (memWidth m) x, fullMask))

/-- R222 to R224: INVL1 invalidates its context's lines of the core, or the one that k-register a names, none where the address does not translate; PREF sends a request for the line of
each lane that passes; RECLD writes entry REC from eight k-registers, an invalid record being ILLOP, or from memory, a misaligned address
being MISALIGN, for which the crew waits. -/
def Obligations.MaintenanceCompletes : Prop :=
  ∀ (a b : Field) (k : BitVec 6) (g : Guard) (m : MemMod) (s : State),
    (s.passes (.invl1 g) { guard := g } = true →
      (s.lanesOn g = [] → Next (exec (.invl1 g) s) (s.advance 1)) ∧
      (s.lanesOn g ≠ [] → Next (exec (.invl1 g) s) ((s.l1Flash s.curCore (s.ctxOf s.sch.cur.blk)).advance 1))) ∧
    (s.passes (.invl1Line k g)
        { guard := g, keys := s.sch.cur.crews.flatMap fun c => [.k s.sch.cur.blk c k.toNat, .k s.sch.cur.blk c (k.toNat + 1)] } = true →
      (s.lanesOn g = [] → Next (exec (.invl1Line k g) s) (s.advance 1)) ∧
      (∀ c x t va, crewsOf (s.lanesOn g) = [c] → va = (s.regs.kval s.sch.cur.blk c k.toNat true).toNat →
        s.translate s.curCore (s.ctxOf s.sch.cur.blk) va = (.ok x, t) →
        Next (exec (.invl1Line k g) s) ((t.setL1 (t.pipe.l1.filter fun y =>
          !(y.core == s.curCore && y.ctx == s.ctxOf s.sch.cur.blk && y.line == lineOf (x.phys va)))).advance 1)) ∧
      (∀ c t va, crewsOf (s.lanesOn g) = [c] → va = (s.regs.kval s.sch.cur.blk c k.toNat true).toNat →
        (s.translate s.curCore (s.ctxOf s.sch.cur.blk) va = (.fault, t) → Next (exec (.invl1Line k g) s) (t.advance 1)) ∧
        (s.translate s.curCore (s.ctxOf s.sch.cur.blk) va = (.miss, t) → Next (exec (.invl1Line k g) s) (t.park .again 0)))) ∧
    (s.passes (.pref a b g m) { words := 2, guard := g, keys := s.aKeys a 1 ++ s.polKeys m.pol.toNat } = true →
      AccessRules (.pref a b g m) s m false true (s.laneCheck a g m { align := false, r := true, silent := true }) fun t lanes _ =>
        ∃ u, Next (exec (.pref a b g m) s) u ∧ u.regs = t.regs ∧ u.mem = t.mem ∧ u.sch.cur = t.sch.cur.step 2 t.now ∧
          (u.pipe.reqs.length = t.pipe.reqs.length + (lanes.filter fun x => !x.parts.isEmpty).length)) ∧
    (s.passes (.recld a b g m)
        { words := 2, bound := .crew, guard := g, keys := s.fieldKeys a true (if b.getLsbD 0 then 2 else 8) ++ (if b.getLsbD 0 then s.polKeys m.pol.toNat else []) } = true →
      (s.uniformOn g = false → Next (exec (.recld a b g m) s) (s.advance 2)) ∧
      (s.uniformOn g = true → b.getLsbD 0 = false → ∀ r, r = recOfWords ((List.range 8).map fun j => s.regs.kreg s.sch.cur.blk s.sch.cur.crew (a.num + j)) →
        (recInvalid r = true → Next (exec (.recld a b g m) s) (s.illop 2 false)) ∧
        (recInvalid r = false → ∃ t, Next (exec (.recld a b g m) s) t ∧ t.record s.sch.cur.blk m.recNo.toNat = r ∧
          (∀ n, n ≠ m.recNo.toNat → t.record s.sch.cur.blk n = s.record s.sch.cur.blk n) ∧ t.regs = s.regs ∧ t.mem = s.mem)) ∧
      (s.uniformOn g = true → b.getLsbD 0 = true → s.polIllop m false true = false →
        ∀ va, va = (BitVec.ofInt 64 ((s.regs.kval s.sch.cur.blk s.sch.cur.crew a.num true).toNat + memOff m)).toNat →
        (va % 32 ≠ 0 → Next (exec (.recld a b g m) s) (s.takeTrap { cls := .misalign, va := va, lane := lowLane s.sch.cur.members, words := 2 })) ∧
        (∀ x, s.checkLanes 32 2 { r := true } [(⟨lowLane s.sch.cur.members, s.sch.cur.crew⟩, va)] [] = .trap x → Next (exec (.recld a b g m) s) (s.takeTrap x)) ∧
        ∀ t lanes oob, s.checkLanes 32 2 { r := true } [(⟨lowLane s.sch.cur.members, s.sch.cur.crew⟩, va)] [] = .ok t lanes oob →
          t.loadBlocked lanes = false → ∃ u, Next (exec (.recld a b g m) s) u ∧ u.sch.cur.wait = .pend t.pipe.nextId ∧ u.sch.cur.adv = 2 ∧ u.regs = t.regs ∧ u.mem = t.mem ∧ u.sp = t.sp))

/-! ## Atomics -/

namespace Sys2Proof.Machine

/-- Does a request write a byte of memory when it is performed: a store its bytes, an atomic at the home point its own? -/
def Req.writesByte (r : Req) (a : Nat) : Bool := match r.kind with
  | .store _ bs => bs.any fun e => r.pa + e.1 == a
  | .atomic _ wid _ _ _ _ pt _ => pt != 1 && pt != 2 && decide (r.pa ≤ a) && decide (a < r.pa + wid)
  | _ => false

/-- Is a line held by one home at most: no copy of it stands elsewhere, or is of its own (R82)? -/
def State.oneHome (s : State) (slice line : Nat) : Prop := ∀ m ∈ s.sl.lines, m.line = line → m.slice = slice ∧ m.own = none

/-- What an atomic does once its lanes are checked (R93, R219): it waits for its core's own store on its bytes, for its crew's atomic on its
line and for what orders it; else it starts, and the bundle goes on, or under an acquire waits for the result. It changes no register, no
scratchpad and no byte of memory when it issues, but the bytes of atomics that may act at their points already (log 22). -/
def AtomicStarts (i : Instr) (s t : State) (acq : Bool) (pol : Nat → Word) (lanes : List LaneAcc) : Prop :=
  (lanes ≠ [] → (t.atomBlocked lanes || t.orderWaits pol) = true → Next (exec i s) (s.park .again 0)) ∧
  (lanes = [] ∨ (t.atomBlocked lanes || t.orderWaits pol) = false →
    ∃ u, Next (exec i s) u ∧ u.regs = t.regs ∧ u.sp = t.sp ∧ (∀ a, (∀ r ∈ t.pipe.atoms, r.writesByte a = false) → u.memByte a = t.memByte a) ∧
      ((∀ r ∈ t.pipe.atoms, r.fit = false ∧ r.atomOf s.pipe.nextId = false) → u.mem = t.mem ∧ u.sch.cur = (t.afterRead s.pipe.nextId (acq && !lanes.isEmpty) 2).sch.cur))

/-- The checks of an atomic of w bytes. -/
def State.atomCheck (s : State) (m : MemMod) (w : Nat) (dup : Bool) (ls : List (Member × Nat)) : Checked :=
  s.checkRecord (s.record s.sch.cur.blk m.recNo.toNat) (memOff m) w 2 { r := true, w := true, dup := dup } ls

end Sys2Proof.Machine

/-- R219 to R221, R93, R95: outside a guarded pair ATOM, RED, CAS and ATOMK check their lanes for R, W and overlap (ATOMDUP) and start. The model's
choice: an atomic whose policy word asks for a release waits for it at issue (log 10). -/
def Obligations.AtomicsComplete : Prop :=
  ∀ (d a b : Field) (g : Guard) (m : MemMod) (s : State), s.pairOf s.sch.cur.blk = none →
    (s.passes (.atom d a b g m) (atomIssue ⟨(atomOp b).toNat, memWidth m, true⟩ d a (fieldEP b).toNat g m s) = true →
      AccessRules (.atom d a b g m) s m false false (s.atomCheck m (memWidth m) true (s.elemLanes a g)) fun t lanes _ =>
        AtomicStarts (.atom d a b g m) s t (s.sch.cur.crews.any fun c => polAcq (s.pol m c)) (s.pol m) lanes) ∧
    (s.passes (.red d a b g m) (atomIssue ⟨(atomOp b).toNat, memWidth m, false⟩ d a 0 g m s) = true →
      AccessRules (.red d a b g m) s m true false (s.atomCheck m (memWidth m) true (s.elemLanes a g)) fun t lanes _ =>
        AtomicStarts (.red d a b g m) s t false (s.pol m) lanes) ∧
    (s.passes (.cas d a b g m) (atomIssue ⟨12, memWidth m, true⟩ d a (fieldEP b).toNat g m s) = true →
      AccessRules (.cas d a b g m) s m false false (s.atomCheck m (memWidth m) true (s.elemLanes a g)) fun t lanes _ =>
        AtomicStarts (.cas d a b g m) s t (s.sch.cur.crews.any fun c => polAcq (s.pol m c)) (s.pol m) lanes) ∧
    (s.passes (.atomk d a b g m) (uniIssue d a (AtomForm.regs ⟨(atomOp b).toNat, memWidth m, true⟩) g m (s.epKeys true (fieldEP b).toNat) s) = true →
      AccessRules (.atomk d a b g m) s m false false (s.atomCheck m (memWidth m) false (s.uniformElem a g)) fun t lanes _ =>
        AtomicStarts (.atomk d a b g m) s t (polAcq (s.pol m s.sch.cur.crew)) (s.pol m) lanes)

/-- R93, R213, R219, R220, Table 15.5: at the home point an atomic that acts replaces exactly its own bytes, by the value that its operation gives
for the old value and the operands, where its line has one home (R82); every other byte of memory reads as before. Where one lane of the
instruction has read poison, no lane writes. -/
def Obligations.HomeAtomicExact : Prop :=
  (∀ (s t : State) (r : Req) (op wid lane crew v n pt wt : Nat), pt ≠ 1 → pt ≠ 2 → t = s.atomicAt r op wid lane crew v n pt wt →
    (s.oneHome r.slice (lineOf r.pa) → r.pa % 64 + wid ≤ 64 →
      t.memBytes r.pa wid = natToBytes wid (atomNew op (8 * wid) (bytesToNat (s.memBytes r.pa wid)) v n)) ∧
    ∀ a, a < r.pa ∨ r.pa + wid ≤ a → t.memByte a = s.memByte a) ∧
  ∀ (s : State) (i here : Nat), (∃ r ∈ s.pipe.atoms, r.atomOf i = true ∧ s.atomPoison r = true) → (∀ r ∈ s.pipe.atoms, r.fit = false) →
    (s.settleAtoms i here).mem = s.mem

/-- R82, R87, R97: a store performed at its home point writes exactly its bytes: where its line has one home each address it names reads its
byte, a home's own copy of a line with two homes leaves memory as it is, and every other byte of memory reads as before. -/
def Obligations.HomeWriteFrame : Prop :=
  ∀ (s : State) (slice pa : Nat) (bs : List (Nat × Byte)),
    ((bs.map fun e => e.1).Nodup → s.oneHome slice (lineOf pa) → ∀ e ∈ bs, (s.homeWrite slice pa bs).memByte (pa + e.1) = e.2) ∧
    (∀ m d, s.mscFind slice (lineOf pa) = some m → m.own = some d → paRegion pa = .hbm → (s.homeWrite slice pa bs).mem.cells = s.mem.cells) ∧
    ∀ a, (∀ e ∈ bs, pa + e.1 ≠ a) → (s.homeWrite slice pa bs).memByte a = s.memByte a

/-! ## Contracts -/

namespace Sys2Proof.Machine

/-- A contract instruction whose guard is true sends its operation to the sequencer (R70, R225): its status is pending in kd, and registers,
memory and contracts are as before. -/
def ContractSent (i : Instr) (d : Field) (op : SeqOp) (s : State) : Prop :=
  ∃ t, Next (exec i s) t ∧ t.regs = s.regs ∧ t.mem = s.mem ∧ t.sl.pins = s.sl.pins ∧ t.sl.kinds = s.sl.kinds ∧
    t.keyPending (.k s.sch.cur.blk s.sch.cur.crew d.num) = true ∧ t.sch.cur = s.sch.cur.step 2 s.now ∧
    t.sl.seq = s.sl.seq ++ [{ SeqRec.blank with
      id := s.pipe.nextId, ctx := s.ctxOf s.sch.cur.blk, launch := (s.block s.sch.cur.blk).launch,
      pend := s.pipe.nextId, blk := s.sch.cur.blk, crew := s.sch.cur.crew, kd := d.num, op := op }]

end Sys2Proof.Machine

/-- R225 to R227, R68, R71, R64, R76: outside a guarded pair PIN, UNPIN, CCTR and STPART send their operation with the operands of their
k-register groups. CCTR and STPART take PROT in a context that is not privileged; a false guard makes each complete with nothing done. -/
def Obligations.ContractsComplete : Prop :=
  ∀ (d a : Field) (g : Guard) (m : ContractMod) (s : State), s.pairOf s.sch.cur.blk = none →
    (s.passes (.pin d a g m) (groupIssue d a 4 g s) = true →
      (s.uniformOn g = false → Next (exec (.pin d a g m) s) (s.emptyOp s.seta 2 true)) ∧
      (s.uniformOn g = true → ContractSent (.pin d a g m) d (.pin (s.opPair a 0) (s.opPair a 2) (m.kind == 1) m.life.toNat) s)) ∧
    (s.passes (.unpin d a g m) (groupIssue d a 2 g s) = true →
      (s.uniformOn g = false → Next (exec (.unpin d a g m) s) (s.emptyOp s.seta 2 true)) ∧
      (s.uniformOn g = true → ContractSent (.unpin d a g m) d (.unpin (s.opPair a 0)) s)) ∧
    (s.passes (.cctr d a g m) (groupIssue d a 8 g s) = true →
      (s.uniformOn g = false → Next (exec (.cctr d a g m) s) (s.emptyOp s.seta 2 true)) ∧
      (s.uniformOn g = true → (s.ctx (s.ctxOf s.sch.cur.blk)).privileged = false →
        Next (exec (.cctr d a g m) s) (s.takeTrap { cls := .prot, lane := lowLane s.sch.cur.members, words := 2 })) ∧
      (s.uniformOn g = true → (s.ctx (s.ctxOf s.sch.cur.blk)).privileged = true → ∀ x, x = (s.opK a 4).toNat →
        ContractSent (.cctr d a g m) d (.cctr (s.sliceSet a) (bits x 16 4) (BitVec.ofNat 16 x) (bits x 20 12 != 0)) s)) ∧
    (s.passes (.stpart d a g m) (groupIssue d a 4 g s) = true →
      (s.uniformOn g = false → Next (exec (.stpart d a g m) s) (s.emptyOp s.seta 2 true)) ∧
      (s.uniformOn g = true → (s.ctx (s.ctxOf s.sch.cur.blk)).privileged = false →
        Next (exec (.stpart d a g m) s) (s.takeTrap { cls := .prot, lane := lowLane s.sch.cur.members, words := 2 })) ∧
      (s.uniformOn g = true → (s.ctx (s.ctxOf s.sch.cur.blk)).privileged = true →
        ContractSent (.stpart d a g m) d (.stpart (s.opK a 0).toNat (s.opK a 1).toNat (s.opK a 2).toNat (m.life.toNat % 4)) s))

/-! ## KV and ASSAY -/

namespace Sys2Proof.Machine

/-- A KV operation queued at its home slice: registers, memory and pages are as before. -/
def KvSent (i : Instr) (s j : State) (op : KvOp) (w : Wait) : Prop :=
  ∃ t, Next (exec i s) t ∧ t.regs = s.regs ∧ t.mem = s.mem ∧ t.kv.pages = s.kv.pages ∧ t.sch.cur.wait = w ∧
    t.kv.ops = s.kv.ops ++ [{ KvRec.blank with
      id := s.pipe.nextId, ctx := j.ctxOf j.sch.cur.blk, blk := j.sch.cur.blk, crew := j.sch.cur.crew,
      pend := s.pipe.nextId, op := op, gen := j.resGen (j.ctxOf j.sch.cur.blk) }]

end Sys2Proof.Machine

/-- R228 to R231: outside a guarded pair KVAPP, KVFORK, KVFREE and KVHM queue their operation. KVAPP takes PROT where its context has no contract (R292), KVPOS for a
position of 2^24 or more, and then, like the others, PROT for a page at or above the quota (for KVAPP also for one page named twice); it waits for the count
tests. A false guard makes each complete with nothing done. -/
def Sys2Proof.Machine.KvCompletesClaim : Prop :=
  ∀ (d a : Field) (g : Guard) (m : KvMod) (s j : State), j = s.joined .whole → s.pairOf s.sch.cur.blk = none →
    (s.passes (.kvapp a g m) (kvIssue (s.fieldKeys a true 3 ++ s.vrKeys m.vr.toNat 8) g) = true →
      ∀ k v p ctx, k = (j.opK a 0).toNat → v = (j.opK a 1).toNat → p = (j.opK a 2).toNat → ctx = j.ctxOf j.sch.cur.blk →
      (j.uniformOn g = false → Next (exec (.kvapp a g m) s) (j.emptyOp j.setb 2 false)) ∧
      (j.uniformOn g = true → j.reserve ctx = none → Next (exec (.kvapp a g m) s) (j.kvProt true)) ∧
      (j.uniformOn g = true → 2 ^ 24 ≤ p → ∀ va r, j.reserve ctx = some r → va = r.slotVa k (p % 64) →
        Next (exec (.kvapp a g m) s) ((j.logViolation j.sch.cur.blk va j.sch.cur.pc j.sch.cur.crew (lowLane j.sch.cur.members) 2).takeTrap
          { cls := .kvpos, va := va, lane := lowLane j.sch.cur.members, words := 2, bound := true })) ∧
      (j.uniformOn g = true → p < 2 ^ 24 → (∀ r, j.reserve ctx = some r → r.quota ≤ k ∨ r.quota ≤ v ∨ k = v) →
        Next (exec (.kvapp a g m) s) (j.kvProt true)) ∧
      (j.uniformOn g = true → p < 2 ^ 24 → ∀ r, j.reserve ctx = some r → k < r.quota → v < r.quota → k ≠ v → j.forkWaits = false →
        KvSent (.kvapp a g m) s j (.test k v none none (p % 64) (r.keyRow p (j.rowVec m.vr.toNat)) (r.valueRow (j.rowVec (m.vr.toNat + 4))))
          (.pend s.pipe.nextId))) ∧
    (s.passes (.kvfork d a g m)
        { words := 2, bound := .crew, guard := g, feat := some 1, keys := s.fieldKeys d true 1 ++ s.fieldKeys a true 1 ++ s.predKeys true m.qd.toNat } = true →
      ∀ p, p = (s.opK a 0).toNat →
      (s.uniformOn g = false → Next (exec (.kvfork d a g m) s) (s.emptyOp s.seta 2 true)) ∧
      (s.uniformOn g = true → s.quota (s.ctxOf s.sch.cur.blk) ≤ p → Next (exec (.kvfork d a g m) s) (s.kvProt false)) ∧
      (s.uniformOn g = true → p < s.quota (s.ctxOf s.sch.cur.blk) → KvSent (.kvfork d a g m) s s (.fork p d.num m.qd.toNat) .ready)) ∧
    (s.passes (.kvfree a g m) { words := 2, bound := .crew, guard := g, feat := some 1, keys := s.fieldKeys a true 1 } = true →
      ∀ p, p = (s.opK a 0).toNat →
      (s.uniformOn g = false → Next (exec (.kvfree a g m) s) (s.emptyOp s.setb 2 false)) ∧
      (s.uniformOn g = true → s.quota (s.ctxOf s.sch.cur.blk) ≤ p → Next (exec (.kvfree a g m) s) (s.kvProt false)) ∧
      (s.uniformOn g = true → p < s.quota (s.ctxOf s.sch.cur.blk) → KvSent (.kvfree a g m) s s (.free p) .ready)) ∧
    (s.passes (.kvhm d a g m) (kvIssue (s.fieldKeys d true 1 ++ s.fieldKeys a true 1 ++ s.vrKeys m.vr.toNat 8) g) = true →
      ∀ p, p = (j.opK a 0).toNat →
      (j.uniformOn g = false → Next (exec (.kvhm d a g m) s) (j.emptyOp j.seta 2 true)) ∧
      (j.uniformOn g = true → j.quota (j.ctxOf j.sch.cur.blk) ≤ p → Next (exec (.kvhm d a g m) s) (j.kvProt true)) ∧
      (j.uniformOn g = true → p < j.quota (j.ctxOf j.sch.cur.blk) →
        KvSent (.kvhm d a g m) s j (.hallmark p d.num ((j.regs.crewSt j.sch.cur.blk j.sch.cur.crew).wb + m.vr.toNat)) .ready))

/-- R232: ASSAY takes ILLOP for N above 4,096 or a TOPN count above 256, MISALIGN for a list or an output off a multiple of 4, and BOUNDS
for one past the scratchpad; else it forks an engine that scores the list. -/
def Sys2Proof.Machine.AssayCompletesClaim : Prop :=
  ∀ (d a : Field) (g : Guard) (m : KvMod) (s j : State), j = s.joined .whole →
    s.passes (.assay d a g m) (kvIssue (s.fieldKeys d true 1 ++ s.fieldKeys a true 4 ++ s.vrKeys m.vr.toNat 4) g) = true →
    ∀ l n x o sc, l = (j.opK a 0).toNat → n = (j.opK a 1).toNat → x = (j.opK a 2).toNat → o = (j.opK a 3).toNat →
      sc = (j.launchOf j.sch.cur.blk).scratch →
    (j.uniformOn g = false → Next (exec (.assay d a g m) s) (j.emptyOp j.seta 2 true)) ∧
    (j.uniformOn g = true → 4096 < n ∨ (m.mode = 1 ∧ 256 < x) →
      Next (exec (.assay d a g m) s) (j.takeTrap { cls := .illop, lane := lowLane j.sch.cur.members, words := 2, bound := true })) ∧
    (j.uniformOn g = true → n ≤ 4096 → ¬ (m.mode = 1 ∧ 256 < x) → ∀ c va,
      (c, va) = (if l % 4 ≠ 0 then (Trap.misalign, l) else if o % 4 ≠ 0 then (Trap.misalign, o) else if sc < l + 4 * n then (Trap.bounds, l) else (Trap.bounds, o)) →
      l % 4 ≠ 0 ∨ o % 4 ≠ 0 ∨ sc < l + 4 * n ∨ sc < o + 4 * n →
      Next (exec (.assay d a g m) s) (j.takeTrap { cls := c, va := va, lane := lowLane j.sch.cur.members, words := 2, bound := true })) ∧
    (j.uniformOn g = true → n ≤ 4096 → ¬ (m.mode = 1 ∧ 256 < x) → l % 4 = 0 → o % 4 = 0 → l + 4 * n ≤ sc → o + 4 * n ≤ sc →
      j.forkWaits = false →
      ∃ t, Next (exec (.assay d a g m) s) t ∧ t.regs = s.regs ∧ t.mem = s.mem ∧ t.sp.bytes = s.sp.bytes ∧
        t.sp.engines = s.sp.engines ++ [{ Engine.blank with
          id := s.pipe.nextId + 1, blk := j.sch.cur.blk, crew := j.sch.cur.crew, pend := s.pipe.nextId,
          assay := some { list := l, n := n, topn := m.mode == 1, param := x, out := o, query := j.rowVec m.vr.toNat, kd := d.num }, gen := j.resGen (j.ctxOf j.sch.cur.blk) }])

/-- R228 to R232: the KV instructions start. -/
def Obligations.KvComplete : Prop := KvCompletesClaim ∧ AssayCompletesClaim

/-! ## Girth -/

namespace Sys2Proof.Machine

/-- A girth operation stands at the stop of its core, ready after 3 cycles (R234, R285): registers, memory and slots are as before. The crew is
WAITING while 32 stand there. -/
def GirthSent (i : Instr) (s : State) (slot : Nat) (act : GirthAct) : Prop :=
  (s.girthFenced s.sch.cur = false → 32 ≤ (s.gi.ops.filter fun o => o.stop == s.curCore).length → Next (exec i s) (s.park .girthFull 0)) ∧
  (s.girthFenced s.sch.cur = false → (s.gi.ops.filter fun o => o.stop == s.curCore).length < 32 →
  ∃ t, Next (exec i s) t ∧ t.regs = s.regs ∧ t.mem = s.mem ∧ t.gi.hdr = s.gi.hdr ∧ t.sch.cur = s.sch.cur.step 2 s.now ∧
    t.gi.ops = s.gi.ops ++ [({
      pend := s.pipe.nextId, stop := s.curCore, qtr := s.curQtr, ready := s.now + 3, from' := s.now + 3, passed := [],
      blk := s.sch.cur.blk, crew := s.sch.cur.crew, lanes := s.sch.cur.members, base := (s.launchOf s.sch.cur.blk).gbase,
      len := (s.launchOf s.sch.cur.blk).glen, slot := slot, act := act } : GirthOp)])

/-- What an instruction on a slot id does under its guard: nothing where it is false, GIRTHSEG outside the launch's segment. -/
def OnSlot (i : Instr) (s : State) (a : Field) (g : Guard) (act : GirthAct) : Prop :=
  (s.uniformOn g = false → Next (exec i s) (s.emptyOp s.seta 2 true)) ∧
  (s.uniformOn g = true → (s.launchOf s.sch.cur.blk).inSegment (s.opK a 0).toNat = false → Next (exec i s) s.girthSeg) ∧
  (s.uniformOn g = true → (s.launchOf s.sch.cur.blk).inSegment (s.opK a 0).toNat = true → GirthSent i s (s.opK a 0).toNat act)

end Sys2Proof.Machine

/-- R233 to R235, R282, R285: outside a guarded pair the girth instructions send their operation to the girth stop of their core; a slot
outside the launch's segment is GIRTHSEG, a mount of tag 0 ILLOP, a mount or a dismount by tag into an empty segment GIRTHSEG (of a mount that is
both, ILLOP is the model's choice: log 36). -/
def Obligations.GirthCompletes : Prop :=
  ∀ (d a b : Field) (g : Guard) (m : GirthMod) (s : State), s.pairOf s.sch.cur.blk = none →
    (s.passes (.gread d a g m) (girthIssue (s.fieldKeys d false 1 ++ s.fieldKeys a true 1 ++ s.qdKeys m) g) = true →
      OnSlot (.gread d a g m) s a g (.read (s.cellD d) (girthQ m))) ∧
    (s.passes (.gupd d a b g m) (girthIssue (s.fieldKeys d true (m.w64.toNat + 1) ++ s.fieldKeys a true 1 ++ s.fieldKeys b true (gupdRegs m) ++ s.qdKeys m) g) = true →
      ∀ args, args = atomArgs (4 * (m.w64.toNat + 1)) (s.regs.kBytes s.sch.cur.blk s.sch.cur.crew b.num (4 * gupdRegs m)) →
      OnSlot (.gupd d a b g m) s a g (.update m.op.toNat m.word.toNat (m.w64 == 1) args.1 args.2 d.num (girthQ m))) ∧
    (s.passes (.gcinch d a g m) (girthIssue (s.fieldKeys d false 1 ++ s.fieldKeys a true 1) g) = true →
      OnSlot (.gcinch d a g m) s a g (.cinch (s.cellD d))) ∧
    (s.passes (.gclose a b g m) (girthIssue (s.fieldKeys a true 1 ++ s.fieldKeys b true 16 ++ s.qdKeys m) g) = true →
      OnSlot (.gclose a b g m) s a g (.close (s.groupK b 16) (girthQ m))) ∧
    (s.passes (.gmount d a b g m) (girthIssue (s.fieldKeys d true 1 ++ s.fieldKeys a true 1 ++ s.fieldKeys b true 16) g) = true →
      (s.uniformOn g = false → Next (exec (.gmount d a b g m) s) (s.emptyOp s.seta 2 true)) ∧
      (s.uniformOn g = true → s.opK a 0 = 0 → Next (exec (.gmount d a b g m) s) (s.illop 2 false)) ∧
      (s.uniformOn g = true → s.opK a 0 ≠ 0 → (s.launchOf s.sch.cur.blk).glen = 0 → Next (exec (.gmount d a b g m) s) s.girthSeg) ∧
      (s.uniformOn g = true → s.opK a 0 ≠ 0 → (s.launchOf s.sch.cur.blk).glen ≠ 0 →
        GirthSent (.gmount d a b g m) s 0 (.mount (s.opK a 0) (s.groupK b 16) d.num))) ∧
    (s.passes (.gdismt d a g m) (girthIssue (s.fieldKeys d false 1 ++ s.fieldKeys a true 1 ++ s.qdKeys m) g) = true →
      (m.op = 0 → OnSlot (.gdismt d a g m) s a g (.dismount none (s.cellD d) (girthQ m))) ∧
      (m.op ≠ 0 → s.uniformOn g = false → Next (exec (.gdismt d a g m) s) (s.emptyOp s.seta 2 true)) ∧
      (m.op ≠ 0 → s.uniformOn g = true → (s.launchOf s.sch.cur.blk).glen = 0 → Next (exec (.gdismt d a g m) s) s.girthSeg) ∧
      (m.op ≠ 0 → s.uniformOn g = true → (s.launchOf s.sch.cur.blk).glen ≠ 0 →
        GirthSent (.gdismt d a g m) s 0 (.dismount (some (s.opK a 0)) (s.cellD d) (girthQ m))))

/-! ## The matrix group -/

namespace Sys2Proof.Machine

/-- An MMA row: constructor, depth of a grouped form or 0, feature bit, panels of A, what it does to an element. -/
structure MmaRow where
  instr : Field → Field → Field → MmaMod → Instr
  depth : Nat
  feat : Option Nat
  panels : Nat
  elem : State → MmaMod → ElemFn

/-- The MMA rows (R250; R50 for the floating-point forms, R53 and R54 for the grouped ones). -/
def mmaRowsAll : List MmaRow := [
  ⟨.mmab, 0, none, 1, fun _ m => elemFp bf16 m⟩, ⟨.mmah, 0, none, 1, fun _ m => elemFp fp16 m⟩,
  ⟨.mmai8, 64, none, 1, fun s m => s.elemGrp false false m codes8 panelRow⟩,
  ⟨.mmai84, 128, some 3, 2, fun s m => s.elemGrp false true m codes8 fun p j => elems4 (panelRow p j)⟩,
  ⟨.mmai4, 128, some 3, 1, fun s m => s.elemGrp true true m (fun as i => elems4 (panelRow (as.headD []) i)) fun p j => elems4 (panelRow p j)⟩]

/-- The panels that an MMA does not keep leave their queues (Table 17.5, KEEPA and KEEPB). -/
def State.mmaTaken (s : State) (a b : Nat) (m : MmaMod) (n : Nat) : State :=
  let t := if m.ka = 1 then s else s.popTake s.sch.cur.blk s.curQtr a n
  if m.kb = 1 then t else t.popTake s.sch.cur.blk s.curQtr b 1

/-- A pending operation on a tile of the issuing crew, with the tile's writes. -/
def State.tilePend (s : State) (d : Nat) (outs : List RegWr) : Pend :=
  { Pend.blank with
    blk := s.sch.cur.blk, crew := s.sch.cur.crew, flag := s.seta, regs := s.tileKeys d, outs := outs, pc := s.sch.cur.pc, matrix := true }

/-- MISALIGN or BOUNDS of a tile's image of n bytes at x. -/
def ImageFaults (i : Instr) (s j : State) (x n : Nat) : Prop :=
  (x % 64 ≠ 0 → Next (exec i s) (j.takeTrap { cls := .misalign, va := x, lane := lowLane j.sch.cur.members, words := 2, bound := true })) ∧
  (x % 64 = 0 → (j.launchOf j.sch.cur.blk).scratch < x + n →
    Next (exec i s) (j.takeTrap { cls := .bounds, va := x, lane := lowLane j.sch.cur.members, words := 2, bound := true }))

/-- An FP32 pattern, every NaN canonical. -/
def canonNan (x : Nat) : Nat := if isNan32 x then mNan else x

/-- A push that has data to give (R244): it enters where there is room, waits for a bound consumer, and is QUEUE without one. -/
def Pushes (i : Instr) (s j : State) (q : Nat) (go : State) : Prop :=
  ((j.win j.sch.cur.blk j.curQtr q).entries.length < j.winDepth j.sch.cur.blk q → Next (exec i s) go) ∧
  (j.winDepth j.sch.cur.blk q ≤ (j.win j.sch.cur.blk j.curQtr q).entries.length →
    (j.consumerBound j.sch.cur.blk j.curQtr q = true → Next (exec i s) (j.park .again 0)) ∧
    (j.consumerBound j.sch.cur.blk j.curQtr q = false → Next (exec i s) (j.queueTrap 2 true)))

end Sys2Proof.Machine

/-- R249, R250, R244, R119: an MMA with its panels at the heads of its queues pops those it does not keep and starts an operation that writes
the rows of its tile; without them it waits while a producer is bound, and is QUEUE without one, or where a window is no panel queue. -/
def Obligations.MmaCompletes : Prop :=
  ∀ r ∈ mmaRowsAll, ∀ (d a b : Field) (m : MmaMod) (s j : State), j = s.joined .whole →
    s.passes (r.instr d a b m) (mmaIssue d m r.depth r.feat s) = true →
    ((j.panelQueue a.toNat && j.panelQueue b.toNat) = false → Next (exec (r.instr d a b m) s) (j.queueTrap 2 true)) ∧
    ((j.panelQueue a.toNat && j.panelQueue b.toNat) = true → ∀ x y, x = j.popLook j.sch.cur.blk j.curQtr a.toNat r.panels →
      y = j.popLook j.sch.cur.blk j.curQtr b.toNat 1 →
      (x = .stuck ∨ y = .stuck → Next (exec (r.instr d a b m) s) (j.queueTrap 2 true)) ∧
      (x ≠ .stuck → y ≠ .stuck → x = .wait ∨ y = .wait → Next (exec (r.instr d a b m) s) (j.park .crew 0)) ∧
      (∀ es fs, x = .data es → y = .data fs →
        ((es ++ fs).any (fun e => e.bad) = true → Next (exec (r.instr d a b m) s) (j.takeTrap { cls := .eccunc, words := 2 })) ∧
        ((es ++ fs).any (fun e => e.bad) = false →
          Next (exec (r.instr d a b m) s) (((j.mmaTaken a.toNat b.toNat m r.panels).addPend (j.tilePend d.toNat
            (j.mmaWr (j.tileAt d.toNat) (j.mmaRows m)
              (r.elem j m (es.map fun e => e.data) ((fs.head?.map fun e => e.data).getD []))))).advance 2))))

/-- R116, R252, R253: setting a tile to rows of FP32 patterns gives each element its pattern and the reset partial, in that tile alone. -/
def Obligations.TileSetExact : Prop :=
  ∀ (s : State) (i : Nat) (rows : List (List Nat)), s.sch.cur.crew < 32 → s.tileAt i + 32 ≤ 1024 → rows.length = 32 →
    (∀ r ∈ rows, r.length = 32 ∧ ∀ x ∈ r, x < 2 ^ 32) →
    (∀ row col, row < 32 → col < 32 →
      (s.setTile i rows).regs.elemAt s.sch.cur.blk s.sch.cur.crew (s.tileAt i) row col = (rows.getD row []).getD col 0 ∧
      (s.setTile i rows).regs.part s.sch.cur.blk s.sch.cur.crew (s.tileAt i + col) row = .reset) ∧
    (∀ b c n l, c < 32 → n < 1024 → l < 32 → ¬ (b = s.sch.cur.blk ∧ c = s.sch.cur.crew ∧ s.tileAt i ≤ n ∧ n < s.tileAt i + 32) →
      (s.setTile i rows).regs.vcell b c n l = s.regs.vcell b c n l ∧ (s.setTile i rows).regs.part b c n l = s.regs.part b c n l)

/-- R253, R254: ACLR makes every element of its tile zero, its partials reset; ALOAD starts an operation that loads 1,024 elements from scratchpad by
row or by column, widened to FP32. A scratchpad is read at issue by the model's choice (log 39). -/
def Sys2Proof.Machine.TileLoadsCompleteClaim : Prop :=
  ∀ (d a : Field) (m : AloadMod) (s j : State), j = s.joined .whole →
    (s.passes (.aclr d) (tileIssue d.toNat 1 [] s) = true →
      Next (exec (.aclr d) s) ((j.setTile d.toNat (List.replicate 32 (List.replicate 32 0))).advance 1)) ∧
    (s.passes (.aload d a m) (tileIssue d.toNat 2 [.k s.sch.cur.blk s.sch.cur.crew a.num] s) = true →
      ∀ x e, x = (j.regs.kreg j.sch.cur.blk j.sch.cur.crew a.num).toNat → e = (if m.fmt = 0 then 4 else 2) →
      ImageFaults (.aload d a m) s j x (1024 * e) ∧
      (x % 64 = 0 → x + 1024 * e ≤ (j.launchOf j.sch.cur.blk).scratch →
        (j.lineAbsent j.sch.cur.blk x (1024 * e) = true → Next (exec (.aload d a m) s) (j.park .again 0)) ∧
        (j.lineAbsent j.sch.cur.blk x (1024 * e) = false →
          Next (exec (.aload d a m) s) ((j.addPend { j.tilePend d.toNat (tileWr j.sch.cur.crew (j.tileAt d.toNat)
            ((List.range 32).map fun row => (List.range 32).map fun col =>
              widen m.fmt.toNat (bytesToNat (j.sp.read j.sch.cur.blk (x + e * rowCol m.lay.toNat row col) e))))
            with poisoned := j.spadBad j.sch.cur.blk x (1024 * e) }).advance 2))))

/-- R255 to R258: ASTORE promotes its tile and gives its converted elements in the layout of the modifier to scratchpad, to an operand queue, or, in
the layout and format of a two-dimensional record, to memory through the store buffer. The model's choices: an ASTORE to memory whose policy word asks
for a release waits at issue (log 10), its elements outside the record are checked as accesses of their own, each one violation event (log 26), and a
scratchpad is read and written when the instruction issues (log 39). -/
def Sys2Proof.Machine.TileStoresCompleteClaim : Prop :=
  ∀ (d a b : Field) (m : AstoreMod) (s j : State), j = s.joined .whole →
    s.passes (.astore d a b m) (tileIssue d.toNat 2 (astoreKeys a b m s) s) = true →
    (m.dst = 0 → ∀ x n, x = (j.regs.kreg j.sch.cur.blk j.sch.cur.crew a.num).toNat → n = layBytes m.lay.toNat m.fmt.toNat →
      ImageFaults (.astore d a b m) s j x n ∧
      (x % 64 = 0 → x + n ≤ (j.launchOf j.sch.cur.blk).scratch →
        Next (exec (.astore d a b m) s) ((((j.promoteOne d.toNat).spadWrite j.sch.cur.blk x
          (layImage m.lay.toNat m.fmt.toNat (j.astoreRows d b m m.fmt.toNat))).flagSetb).advance 2))) ∧
    (m.dst = 2 →
      (j.panelQueue a.toNat = false → Next (exec (.astore d a b m) s) (j.queueTrap 2 true)) ∧
      (j.panelQueue a.toNat = true → Pushes (.astore d a b m) s j a.toNat
        ((((j.promoteOne d.toNat).pushEntry j.sch.cur.blk j.curQtr a.toNat j.sch.cur.crew
          (imagePanel (layImage 3 m.fmt.toNat (j.astoreRows d b m m.fmt.toNat))) false).flagSetb).advance 2))) ∧
    (m.dst = 1 → ∀ r, r = j.record j.sch.cur.blk m.recNo.toNat →
      (recDims r ≠ 2 ∨ recConv (recFmt r) = none → Next (exec (.astore d a b m) s) (j.illop 2 true)) ∧
      (∀ fmt, recDims r = 2 → recConv (recFmt r) = some fmt → (fmt = 3 ∨ m.sc = 0) → j.polIllop (astoreModMem m) true false = false →
        ∀ es, es = (((List.range 32).zip (j.astoreRows d b m fmt)).flatMap fun x => ((List.range 32).zip x.2).map fun y =>
          ((⟨x.1, j.sch.cur.crew⟩ : Member),
            astoreOffset r m.lay.toNat (j.regs.kreg j.sch.cur.blk j.sch.cur.crew a.num).toNat x.1 y.1, y.2)) →
        ∀ t lanes oob, j.checkOffsets r (fmtBytes fmt) 2 { store := true } (es.map fun e => (e.1, e.2.1)) = .ok t lanes oob →
        ∀ xs pol, xs = astoreAccs (fmtBytes fmt) (es.map fun e => (e.1, ((recBase r : Int) + e.2.1).toNat, e.2.2)) lanes →
        pol = j.pol (astoreModMem m) →
        (xs = [] → Next (exec (.astore d a b m) s) (((t.promoteOne d.toNat).flagSetb).advance 2)) ∧
        (xs ≠ [] → j.writeWaits pol = true → Next (exec (.astore d a b m) s) (j.park .again 0)) ∧
        (xs ≠ [] → j.writeWaits pol = false →
          ∀ e, e = (if j.guardedBlk j.sch.cur.blk then (t.promoteOne d.toNat).cutReleases pol else t.promoteOne d.toNat) →
          e.room (lineStores pol xs) = .enter →
          Next (exec (.astore d a b m) s) ((((e.beginStores j.setb true pol xs).cutReleases pol).asMatrix j.pipe.nextId).advance 2))))

/-- R254 to R258: tiles are loaded and stored. The model's choices: an ASTORE to memory whose policy word asks for a release waits at issue (log 10),
its elements outside the record are checked as accesses of their own, each one violation event (log 26), and a scratchpad is read and written when the
instruction issues (log 39). -/
def Obligations.TileTransfersComplete : Prop := TileLoadsCompleteClaim ∧ TileStoresCompleteClaim

/-- R259 to R262: AROWMX gives each lane the larger of b and the ceiling of its row's maximum; AEXPB turns each element into the weight
2^(x − b), and where PUSH is 1 pushes the panel of weights; ASHIFT scales each row by 2^(−b); AROWSM gives each lane the sum of its row from
b on. Each promotes its tile. -/
def Obligations.RowOperationsComplete : Prop :=
  ∀ (d a b : Field) (p : BitVec 1) (s j : State), j = s.joined .whole → ∀ k c, k = j.sch.cur.blk → c = j.sch.cur.crew →
    (s.passes (.arowmx d a b) (tileIssue a.toNat 1 (s.fieldKeys d false 1 ++ s.bKeys false b 1) s) = true →
      Next (exec (.arowmx d a b) s) (((j.promoteOne a.toNat).wrote ((crewLanes c).flatMap fun l =>
        j.regs.vwr k l d false ((wordOfInt (max (lo (j.regs.bval k l .int b false)).toInt (rowCeil ((j.tileRows a.toNat).getD l.lane [])))).zeroExtend 64))).advance 1)) ∧
    (s.passes (.aexpb d a b p) (tileIssue a.toNat 2 (s.bKeys false b 1) s) = true →
      ∀ ws, ws = (((List.range 32).zip (j.tileRows a.toNat)).map fun e => e.2.map fun x => weight x (lo (j.regs.bval k ⟨e.1, c⟩ .int b false)).toInt) →
      (p = 0 → Next (exec (.aexpb d a b p) s) ((j.setTile a.toNat (ws.map fun r => r.map fun w => w * 2 ^ 16)).advance 2)) ∧
      (p = 1 → j.panelQueue d.toNat = false → Next (exec (.aexpb d a b p) s) (j.queueTrap 2 true)) ∧
      (p = 1 → j.panelQueue d.toNat = true → Pushes (.aexpb d a b p) s j d.toNat
        (((j.setTile a.toNat (ws.map fun r => r.map fun w => w * 2 ^ 16)).pushEntry k j.curQtr d.toNat c (panelOf16 ws) false).advance 2))) ∧
    (s.passes (.ashift d b) (tileIssue d.toNat 1 (s.bKeys false b 1) s) = true →
      Next (exec (.ashift d b) s) ((j.setTile d.toNat (((List.range 32).zip (j.tileRows d.toNat)).map fun e =>
        e.2.map fun x => scaleElem x (-(lo (j.regs.bval k ⟨e.1, c⟩ .int b false)).toInt))).advance 1)) ∧
    (s.passes (.arowsm d a b) (tileIssue a.toNat 1 (s.fieldKeys d false 1 ++ s.bKeys false b 1) s) = true →
      Next (exec (.arowsm d a b) s) (((j.promoteOne a.toNat).wrote ((crewLanes c).flatMap fun l =>
        j.regs.vwr k l d false (BitVec.ofNat 64 (((j.tileRows a.toNat).getD l.lane []).foldl mAdd
          (canonNan (lo (j.regs.bval k l (.fp fp32) b false)).toNat))))).advance 1))

/-! ## Queues -/

/-- R245 to R247, R244: QPUSH appends each lane's registers as one entry, a push to a back queue once its release of device scope is
performed; QPOP takes the head entry to its lanes' registers, or in a feed thread to k-registers with an acquire of device scope; QSTAT
gives the window's state. -/
def Obligations.QueuesComplete : Prop :=
  ∀ (d a b : Field) (k : BitVec 6) (m : QpopMod) (s j : State), j = s.joined .whole → ∀ blk c, blk = j.sch.cur.blk → c = j.sch.cur.crew →
    (s.passes (.qpush d a) { words := 2, bound := .whole } = true →
      ∀ q, q = d.toNat →
      (j.winDepth blk q = 0 ∨ groupOfPanel (j.winPanel blk q) a = none → Next (exec (.qpush d a) s) (j.queueTrap 2 true)) ∧
      (∀ n, j.winDepth blk q ≠ 0 → groupOfPanel (j.winPanel blk q) a = some n → (j.fieldKeys a false n).any j.keyPending = false →
        (8 ≤ q → j.releaseWaits blk c 4 = true → Next (exec (.qpush d a) s) (j.park .again 0)) ∧
        (q < 8 ∨ j.releaseWaits blk c 4 = false → ∀ t, t = (if 8 ≤ q then j.nextEpoch blk c else j) →
          Pushes (.qpush d a) s j q ((t.pushEntry blk j.curQtr q c (j.entryBytes a n) false).advance 2)))) ∧
    (s.sch.cur.feed = false →
      s.passes (.qpop d a b m) { words := 2, bound := .whole, feed := true, bad := qpopBad false d a b m } = true →
      ∀ q, q = a.toNat →
      (j.winDepth blk q = 0 ∨ groupOfPanel (j.winPanel blk q) d = none → Next (exec (.qpop d a b m) s) (j.queueTrap 2 true)) ∧
      (∀ n, j.winDepth blk q ≠ 0 → groupOfPanel (j.winPanel blk q) d = some n → (j.fieldKeys d false n).any j.keyPending = false →
        (j.popLook blk j.curQtr q 1 = .wait → Next (exec (.qpop d a b m) s) (j.park .crew 0)) ∧
        (j.popLook blk j.curQtr q 1 = .stuck → Next (exec (.qpop d a b m) s) (j.queueTrap 2 true)) ∧
        (∀ e, j.popLook blk j.curQtr q 1 = .data [e] → e.bad = false →
          Next (exec (.qpop d a b m) s) (((if m.peek = 1 then j else j.popTake blk j.curQtr q 1).wrote
            (popWr c (j.regs.cellOf blk c d) n e.data)).advance 2)))) ∧
    (s.sch.cur.feed = true →
      s.passes (.qpop d a b m)
        { words := 2, bound := .whole, feed := true, bad := qpopBad true d a b m, keys := s.fieldKeys d true (m.cnt.toNat + 1) } = true →
      ∀ q, q = a.toNat →
      (s.winDepth blk q = 0 → Next (exec (.qpop d a b m) s) (s.queueTrap 2 false)) ∧
      (s.winDepth blk q ≠ 0 →
        (s.popLook blk b.toNat q 1 = .wait → Next (exec (.qpop d a b m) s) (s.park .crew 0)) ∧
        (s.popLook blk b.toNat q 1 = .stuck → Next (exec (.qpop d a b m) s) (s.queueTrap 2 false)) ∧
        (∀ e, s.popLook blk b.toNat q 1 = .data [e] → e.bad = false →
          Next (exec (.qpop d a b m) s) ((((if m.peek = 1 then s else s.popTake blk b.toNat q 1).acquire blk 4).wrote
            (kWrs feedCrew d.num ((loadWords 128 false e.data).take (m.cnt.toNat + 1)))).advance 2)))) ∧
    (s.passes (.qstat k a) { bound := .whole, keys := [.k s.sch.cur.blk s.sch.cur.crew k.toNat] } = true →
      Next (exec (.qstat k a) s) ((j.wrote [.k c k.toNat (j.qstat blk j.curQtr a.toNat)]).advance 1)) ∧
    (s.passes (.qstatFeed k a b) { feed := true, feedOnly := true, keys := [.k s.sch.cur.blk feedCrew k.toNat] } = true →
      Next (exec (.qstatFeed k a b) s) ((s.wrote [.k feedCrew k.toNat (s.qstat s.sch.cur.blk b.toNat a.toNat)]).advance 1))

/-! ## Copies -/

namespace Sys2Proof.Machine

/-- A copy waits for its crew's accesses (R99) and then forks its engine. -/
def CopyStarts (i : Instr) (s t : State) (e : Engine) : Prop :=
  (t.forkWaits = true → Next (exec i s) (t.park .again 0)) ∧ (t.forkWaits = false → Next (exec i s) (t.forkCopy e))

/-- The scratchpad range of a copy: MISALIGN, BOUNDS, or as `go` says (Table 17.12 step 1). -/
def SpadRange (i : Instr) (s t : State) (o n : Nat) (go : Prop) : Prop :=
  (o % 64 ≠ 0 → Next (exec i s) (t.copyTrap .misalign o)) ∧
  (o % 64 = 0 → (t.launchOf t.sch.cur.blk).scratch < o + n → Next (exec i s) (t.copyTrap .bounds o)) ∧
  (o % 64 = 0 → o + n ≤ (t.launchOf t.sch.cur.blk).scratch → go)

/-- What a copy does with what its checks gave: it goes on as `go` says in the state that they left, waits for a walk or a line, or takes the fault. -/
def AfterCells {α : Type} (i : Instr) (s : State) (r : Tried CellTrap α × State) (go : α → State → Prop) : Prop :=
  (∀ x u, r = (.ok x, u) → go x u) ∧ (∀ u, r = (.wait, u) → Next (exec i s) (u.park .crew 0)) ∧
  (∀ va u, r = (.bad (.eccunc, va), u) → Next (exec i s) (u.shardsDone.takeTrap { cls := .eccunc })) ∧
  ∀ c u, c ≠ .eccunc → (∀ va, r = (.bad (c, some va), u) → Next (exec i s) (u.shardsDone.copyTrap c va)) ∧
    (r = (.bad (c, none), u) → Next (exec i s) (u.shardsDone.copyTrapFree c))

/-- The cells of a copy: XLATE or PROT at the address of the first that fails, or as `go` says (Table 17.12 steps 5 and 6). -/
def Cells (i : Instr) (s t : State) (td : TDesc) (write : Bool) (cells : List (List Int)) (go : CellTrs → State → Prop) : Prop :=
  AfterCells i s (t.cellTrs td write cells) go

/-- The descriptor of a box copy: none, or an odd origin of I4 codes, is ILLOP. -/
def BoxRules (i : Instr) (s : State) (a : Field) (go : TDesc → List (List Int) → Prop) : Prop :=
  (s.copyTd a 0 = none → Next (exec i s) (s.illop 2 false)) ∧
  (∀ td, s.copyTd a 0 = some td → ∀ o, o = s.copyOrigin a 2 (tdRank td.image) →
    (originOdd td.image o = true → Next (exec i s) (s.illop 2 false)) ∧ (originOdd td.image o = false → go td (boxCells td.image o)))

/-- Physical addresses of a descriptor's cells. -/
def CellTrs.pasOf (x : CellTrs) (s : State) (td : TDesc) : List (Option Nat) := x.pas (s.ctxOf td.blk) (cellBytes (tdFmt td.image))

end Sys2Proof.Machine

/-- R267 to R271, R34: CPY copies a box into the block's scratchpad, and outside a guarded pair CPYM into those of the members of its cluster group
that MASK names; a member that does not exist is PEERGONE, one that is swapped out makes the issuer wait. ILLOP for an odd origin of I4 codes is the
model's choice (log 23), and so are the free virtual addresses of exceptions to which the rules give none (log 25). -/
def Sys2Proof.Machine.BoxCopiesCompleteClaim : Prop :=
  ∀ (a : Field) (m : CopyMod) (s : State), ∀ o, o = (s.opK a 1).toNat →
    (s.passes (.cpy a m) (copyIssue a (2 + s.copyRank a) s) = true →
      BoxRules (.cpy a m) s a fun td cells => SpadRange (.cpy a m) s s o (tdBytes td.image) (Cells (.cpy a m) s s td false cells fun x u =>
        CopyStarts (.cpy a m) s u { Engine.blank with moves := imageMoves [s.sch.cur.blk] (u.opK a 1).toNat (x.pasOf u td), trs := x.trs })) ∧
    (s.passes (.cpym a m) (copyIssue a (2 + s.copyRank a) s) = true → s.pairOf s.sch.cur.blk = none →
      BoxRules (.cpym a m) s a fun td cells => SpadRange (.cpym a m) s s o (tdBytes td.image)
        (∀ named, named = ((List.range 8).filter m.mask.getLsbD).map (s.memberOf s.sch.cur.blk) →
          ((∃ x ∈ named, x = none) → Next (exec (.cpym a m) s) (s.copyTrap .peergone 0)) ∧
          (∀ blks, named = blks.map some →
            ((∃ b ∈ blks, (s.block b).st.resident = false) → Next (exec (.cpym a m) s) (s.park .crew 0)) ∧
            ((∀ b ∈ blks, (s.block b).st.resident = true) → Cells (.cpym a m) s s td false cells fun x u =>
              CopyStarts (.cpym a m) s u { Engine.blank with moves := imageMoves blks (u.opK a 1).toNat (x.pasOf u td), trs := x.trs }))))

/-- R272, R276: CPYQ lands a box as consecutive panels of an operand queue, and SMELT the panels of the pages of a list, each raised in heat, an id at
or above the quota being logged instead; a window that is undeclared, unsuitable or, for a crew, of another quarter is QUEUE. The model's choices:
ILLOP for an odd origin of I4 codes (log 23), R276's zero panels of an id at or above the quota read as no panel (log 24), and free virtual addresses of exceptions to which the rules give none (log 25). -/
def Sys2Proof.Machine.QueueCopiesCompleteClaim : Prop :=
  ∀ (a : Field) (m : CopyMod) (s : State) (blk q : Nat), blk = s.sch.cur.blk → q = m.qn.toNat →
    (s.passes (.cpyq a m) (copyIssue a (2 + s.copyRank a) s) = true →
      BoxRules (.cpyq a m) s a fun td cells =>
        (s.winDepth blk q = 0 ∨ tdBytes td.image % s.winPanel blk q ≠ 0 ∨ (s.sch.cur.feed = false ∧ m.qtr.toNat ≠ s.curQtr) →
          Next (exec (.cpyq a m) s) (s.copyTrap .queue 0)) ∧
        (s.winDepth blk q ≠ 0 → tdBytes td.image % s.winPanel blk q = 0 → (s.sch.cur.feed = true ∨ m.qtr.toNat = s.curQtr) →
          Cells (.cpyq a m) s s td false cells fun x u => CopyStarts (.cpyq a m) s u { Engine.blank with
            panels := u.panelsFor m ((chunksOf (u.winPanel u.sch.cur.blk q) (x.pasOf u td)).map fun p => ({ qtr := m.qtr.toNat, q := q, entry := none, pas := p, kv := none } : Panel))
            trs := x.trs })) ∧
    (s.passes (.smelt a m) { copyIssue a 2 s with feedOnly := true } = true →
      ∀ o n, o = (s.opK a 0).toNat → n = (s.opK a 1).toNat →
      (4096 < n → Next (exec (.smelt a m) s) (s.illop 2 false)) ∧
      (n ≤ 4096 → o % 4 ≠ 0 → Next (exec (.smelt a m) s) (s.copyTrap .misalign o)) ∧
      (n ≤ 4096 → o % 4 = 0 → (s.launchOf blk).scratch < o + 4 * n → Next (exec (.smelt a m) s) (s.copyTrap .bounds o)) ∧
      (n ≤ 4096 → o % 4 = 0 → o + 4 * n ≤ (s.launchOf blk).scratch → s.sch.cur.feed = true →
        (s.winDepth blk q = 0 ∨ s.winPanel blk q ≠ 2048 → Next (exec (.smelt a m) s) (s.copyTrap .queue 0)) ∧
        (s.winDepth blk q ≠ 0 → s.winPanel blk q = 2048 → Next (exec (.smelt a m) s) (s.smelt m o n)) ∧
        (s.winDepth blk q ≠ 0 → s.winPanel blk q = 2048 → s.forkWaits = false → s.lineAbsent blk o (4 * n) = false →
          ∀ t ok, ok = (fun (p : Nat) => decide (p < s.quota (s.ctxOf blk))) →
          t = (s.pageList blk o n).foldl (fun t p =>
            if ok p then (if s.leads blk then t.heatUp (s.ctxOf blk) p else t) else t.logViolation blk p s.sch.cur.pc 0 0 3) s →
          t.forkWaits = false →
          Next (exec (.smelt a m) s) (t.forkCopy { Engine.blank with
            panels := t.panelsFor m (smeltPanels m (((s.reserve (s.ctxOf blk)).map fun r => r.ch).getD 0) ((s.pageList blk o n).filter ok)) }))))

/-- R273, R274: CPYIX gathers the rows that its indices name, one every pitch, and CPYS, outside a guarded pair, copies the image in scratchpad out to
the tensor, the cells outside it excepted. The range of CPYIX, its count times the pitch with the last row unpadded, is the model's choice (log 52),
and so are the free virtual addresses of its exceptions (log 25). -/
def Sys2Proof.Machine.RowCopiesCompleteClaim : Prop :=
  ∀ (a : Field) (m : CopyMod) (s j : State), j = s.joined (if m.ixv = 1 then .whole else .crew) →
    (s.passes (.cpyix a m)
        { words := 2, bound := if m.ixv = 1 then .whole else .crew, feed := m.ixv == 0, keys := s.fieldKeys a true 3 ++ s.ixKeys m } = true →
      (j.copyTd a 0 = none → Next (exec (.cpyix a m) s) (j.illop 2 false)) ∧
      ∀ td, j.copyTd a 0 = some td → ∀ x rows o n base, x = td.image → rows = j.copyRows m → o = j.copyOrigin a 2 1 →
        n = tdCells x 0 → base = (j.opK a 1).toNat →
        ((tdRank x ≠ 2 ∨ originOdd x o = true) → Next (exec (.cpyix a m) s) (j.illop 2 false)) ∧
        (tdRank x = 2 → originOdd x o = false → ∀ es pitch, es = cellBytes (tdFmt x) → pitch = rowPitch (n * es) →
          SpadRange (.cpyix a m) s j base (m.ixc.toNat * pitch + n * es)
            (((∃ r ∈ rows, tdSize x 1 ≤ r) → Next (exec (.cpyix a m) s) (j.copyTrapFree .bounds)) ∧
             ((∀ r ∈ rows, r < tdSize x 1) → Cells (.cpyix a m) s j td false
               (rows.flatMap fun (r : Nat) => (List.range n).map fun (i : Nat) => [o.headD 0 + ((tdUnit x * i : Nat) : Int), (r : Int)]) fun y u =>
               CopyStarts (.cpyix a m) s u { Engine.blank with
                 moves := (List.range rows.length).flatMap fun t =>
                   imageMoves [u.sch.cur.blk] (base + t * pitch) (((y.pasOf u td).drop (t * n * es)).take (n * es))
                 trs := y.trs }))) ) ∧
    (s.passes (.cpys a m) (copyIssue a (2 + s.copyRank a) s) = true → s.pairOf s.sch.cur.blk = none →
      ∀ o, o = (s.opK a 1).toNat →
      BoxRules (.cpys a m) s a fun td cells => SpadRange (.cpys a m) s s o (tdBytes td.image) (Cells (.cpys a m) s s td true cells fun x u =>
        CopyStarts (.cpys a m) s u { Engine.blank with moves := outMoves u.sch.cur.blk o (x.pasOf u td), trs := x.trs }))

/-- R275: outside a guarded pair TXPOSE of two rank-2 descriptors of one format moves the element at (i, j) of the source box to (j, i) of the
destination's. -/
def Sys2Proof.Machine.TransposeCompletesClaim : Prop :=
  ∀ (a : Field) (m : CopyMod) (s : State), s.passes (.txpose a m) (copyIssue a 6 s) = true → s.pairOf s.sch.cur.blk = none →
    (s.copyTd a 0 = none ∨ s.copyTd a 1 = none → Next (exec (.txpose a m) s) (s.illop 2 false)) ∧
    ∀ h h2, s.copyTd a 0 = some h → s.copyTd a 1 = some h2 → ∀ x y o p, x = h.image → y = h2.image → o = s.copyOrigin a 2 2 → p = s.copyOrigin a 4 2 →
      (tdRank x ≠ 2 ∨ tdRank y ≠ 2 ∨ tdFmt x ≠ tdFmt y ∨ originOdd x o = true ∨ originOdd y p = true →
        Next (exec (.txpose a m) s) (s.illop 2 false)) ∧
      (tdRank x = 2 → tdRank y = 2 → tdFmt x = tdFmt y → originOdd x o = false → originOdd y p = false →
        (65536 < tdBytes x → Next (exec (.txpose a m) s) (s.copyTrapFree .bounds)) ∧
        (tdBytes x ≤ 65536 → ∀ bs, bs = ((List.range (tdBox x 1)).flatMap fun (k : Nat) => (List.range (tdBox x 0)).map fun (i : Nat) => (i, k)) →
          AfterCells (.txpose a m) s
            (s.cellTrs2 h (bs.map fun (b : Nat × Nat) => [o.getD 0 0 + (b.1 : Int), o.getD 1 0 + (b.2 : Int)])
              h2 (bs.map fun (b : Nat × Nat) => [p.getD 0 0 + (b.2 : Int), p.getD 1 0 + (b.1 : Int)])) fun c u =>
          CopyStarts (.txpose a m) s u { Engine.blank with
            moves := (List.range bs.length).flatMap (transMove (u.ctxOf h.blk) (cellBytes (tdFmt x)) (tdI4 x) c.1 c.2)
            trs := c.1.trs ++ c.2.trs }))

/-- R266 to R279: the copy instructions fork their engines. The model's choices among these are logs 23, 24, 25 and 52. -/
def Obligations.CopiesComplete : Prop := BoxCopiesCompleteClaim ∧ QueueCopiesCompleteClaim ∧ RowCopiesCompleteClaim ∧ TransposeCompletesClaim

/-- R265, R266, R277, R32: TDMK loads its image for a handle, for which its crew waits; TDFREE frees a handle, one of 32 or more being ILLOP;
FEND ends the feed thread. -/
def Obligations.DescriptorsComplete : Prop :=
  ∀ (d a : Field) (k : BitVec 6) (m : MemMod) (s : State),
    (s.passes (.tdmk d a m)
        { words := 2, bound := .crew, feed := true, keys := s.fieldKeys d true 1 ++ s.fieldKeys a true 2 ++ s.polKeys m.pol.toNat } = true →
      ∀ va x, va = (BitVec.ofInt 64 ((s.regs.kval s.sch.cur.blk s.sch.cur.crew a.num true).toNat + memOff m)).toNat →
        x = (⟨lowLane s.sch.cur.members, s.sch.cur.crew⟩ : Member) →
      (s.polIllop m false true = true → Next (exec (.tdmk d a m) s) (s.illop 2 false)) ∧
      (s.polIllop m false true = false → va % 256 ≠ 0 → Next (exec (.tdmk d a m) s) (s.copyTrap .misalign va)) ∧
      (s.polIllop m false true = false → va % 256 = 0 → ∀ t lanes oob,
        s.checkLanes 64 2 { r := true } ((List.range 4).map fun i => (x, va + 64 * i)) [] = .ok t lanes oob →
        t.loadBlocked [⟨x, va, ((List.range 4).zip lanes).flatMap fun e => e.2.parts.map fun p => { p with off := p.off + 64 * e.1 }⟩] = false →
        ∃ u, Next (exec (.tdmk d a m) s) u ∧ u.sch.cur.wait = .pend t.pipe.nextId ∧ u.sch.cur.adv = 2 ∧ u.regs = t.regs ∧ u.mem = t.mem ∧ u.sp = t.sp)) ∧
    (s.passes (.tdfree k) { bound := .crew, feed := true, keys := [.k s.sch.cur.blk s.sch.cur.crew k.toNat] } = true →
      ∀ h, h = (s.regs.kreg s.sch.cur.blk s.sch.cur.crew k.toNat).toNat →
      (32 ≤ h → Next (exec (.tdfree k) s) (s.illop 1 false)) ∧
      (h < 32 → ∃ t, Next (exec (.tdfree k) s) t ∧ t.tdesc s.sch.cur.blk h = none ∧ t.regs = s.regs ∧ t.mem = s.mem ∧
        ∀ b n, (b, n) ≠ (s.sch.cur.blk, h) → t.tdesc b n = s.tdesc b n)) ∧
    (s.passes .fend { feed := true, feedOnly := true } = true →
      Next (exec .fend s) ((s.dropCur.stopFeed s.sch.cur.blk).noteOver s.sch.cur.blk) ∧
      ∀ u ∈ ((s.dropCur.stopFeed s.sch.cur.blk).noteOver s.sch.cur.blk).sch.bundles, ¬ (u.blk = s.sch.cur.blk ∧ u.feed = true))

/-! ## Events of the issue stage -/

namespace Sys2Proof.Machine

/-- ISSUE_SELECT in a state s takes a candidate: its bundle is the issuing one, the pointer of the unit that it is granted moves to the quarter behind, and no
register and no memory changes. -/
def TakesCand (core qtr : Nat) (s : State) (e : Cand × Needs) (u : Bundle) (t : State) : Prop :=
  t.sch.cur = u ∧ t.sch.curOn = true ∧ (∀ x, e.2.unit = some x → mget 0 t.sch.grant (2 * core + x.num) = (qtr + 1) % 4) ∧ t.regs = s.regs ∧ t.mem = s.mem

/-- ISSUE_SELECT of a quarter that no yoke gates, `s` being the state in which its held bundles have tried to file: what each path issues (R19), where a shared
unit refuses a candidate (R311), and where the paths need more than three ports of the uniform bank (R310). -/
def PicksIssue (core qtr : Nat) (s : State) (o : Host.Outcome State Fault Refusal) : Prop :=
  let p := s.picks core qtr
  (p.vec = none → p.uni = none → Next o s) ∧
  (∀ x, p.vec = some x → p.uni = none →
    (s.refused core qtr none x = false → ∃ t, Next o t ∧ TakesCand core qtr s x (s.takeCand x.1).1 t) ∧
    (s.refused core qtr none x = true → (s.takeCand x.1).1.members ≠ [] →
      ∃ t, Next o t ∧ t.sch.curOn = s.sch.curOn ∧ { (s.takeCand x.1).1 with ahead := 2 } ∈ t.sch.bundles ∧ t.regs = s.regs ∧ t.mem = s.mem)) ∧
  (∀ y, p.vec = none → p.uni = some y →
    (s.refused core qtr none y = false → ∃ t, Next o t ∧ TakesCand core qtr s y (s.takeCand y.1).1 t) ∧
    (s.refused core qtr none y = true → (s.takeCand y.1).1.members ≠ [] →
      ∃ t, Next o t ∧ t.sch.curOn = s.sch.curOn ∧ { (s.takeCand y.1).1 with ahead := 2 } ∈ t.sch.bundles ∧ t.regs = s.regs ∧ t.mem = s.mem)) ∧
  (∀ x y, p.vec = some x → p.uni = some y → s.refused core qtr none x = false → s.refused core qtr x.2.unit y = false →
    (x.2.ports + y.2.ports ≤ 3 → ∃ t, Next o t ∧ TakesCand core qtr s x (s.takeCand x.1).1 t ∧ t.sch.second = some ((s.takeCand x.1).2.takeCand y.1).1) ∧
    (3 < x.2.ports + y.2.ports → y.1.deferred = true → ∃ t, Next o t ∧ TakesCand core qtr s y (s.takeCand y.1).1 t) ∧
    (3 < x.2.ports + y.2.ports → y.1.deferred = false → ((s.takeCand x.1).2.takeCand y.1).1.members ≠ [] →
      ∃ t, Next o t ∧ TakesCand core qtr s x (s.takeCand x.1).1 t ∧ { ((s.takeCand x.1).2.takeCand y.1).1 with ahead := 1 } ∈ t.sch.bundles)) ∧
  (∀ x y, p.vec = some x → p.uni = some y → s.refused core qtr none x = true → s.refused core qtr none y = false →
    ∃ t, Next o t ∧ TakesCand core qtr s y ((s.keepCand x.1).takeCand y.1).1 t) ∧
  (∀ x y, p.vec = some x → p.uni = some y → s.refused core qtr none x = false → s.refused core qtr x.2.unit y = true →
    ∃ t, Next o t ∧ TakesCand core qtr s x ((s.keepCand y.1).takeCand x.1).1 t)

/-- The order of a candidate (Table 1.1). -/
def State.orderOf (s : State) (core : Nat) : Cand → List Nat
  | .bin n => s.candKey ((s.binRank (s.openBin n)).getD 0) (s.openBin n).oldest n.blk n.pc
  | .bundle u => s.candKey (s.bundleRank core u) (if u.ahead ≠ 0 then u.ahead else u.since) u.blk u.pc

end Sys2Proof.Machine

/-- R17 to R19, R30, R178, R187, R189, R190, R310, R311, R355: a quarter issues the first candidate of each of its paths, unless a yoke gates it, a
shared unit goes to another quarter or the ports of the uniform bank do not suffice; the AAE takes the feed context whose turn it is; a bin comes of
age at BAGE cycles of waiting and is overdue at four times as many; threads at a completed barrier, yielded threads, and the clusters of an LBAR's
window go on. The model's choices: a uniform candidate deferred once goes and the vector one waits, a candidate that is refused a unit stands ahead of
its quarter's others, and which operands count as ports (log 46); ties that R19 leaves (log 46); which event moves next and the moves of the clock
(log 1). -/
def Obligations.SchedulerEventsComplete : Prop :=
  ∀ (core qtr n blk id l : Nat) (cl : Bool) (s : State),
    (s.sch.curOn = false → qtr < 4 → ∀ u, u = s.refileHeld core qtr →
      (u.gated core = true → Next (exec (.issueSelect core qtr) s) u) ∧
      (u.gated core = false → PicksIssue core qtr u (exec (.issueSelect core qtr) s))) ∧
    (s.sch.curOn = false → 4 ≤ qtr → ∀ u, s.aaeNext core = some u →
      ∃ t, Next (exec (.issueSelect core qtr) s) t ∧ t.sch.cur = u ∧ t.sch.curOn = true ∧ mget 0 t.sch.aae core = u.blk ∧
        t.sch.bundles = s.sch.bundles.erase u ∧ t.regs = s.regs ∧ t.mem = s.mem) ∧
    (∀ x, s.sch.bins[n]? = some x →
      Next (exec (.binAged n) s) (s.reach (s.waitsUntil x.core x.oldest (s.bage x.blk))) ∧
      Next (exec (.binOverdue n) s) (s.reach (s.waitsUntil x.core x.oldest (4 * s.bage x.blk)))) ∧
    (∀ here u c, here = (fun (v : Bundle) => v.blk == blk && !v.feed && (v.wait.barGo id cl).isSome) → s.sch.bundles.find? here = some u →
      u.wait.barGo id cl = some c →
      ∃ t, Next (exec (.barResume blk id cl) s) t ∧ t.clk = (s.reach c).clk ∧ t.regs = s.regs ∧ t.mem = s.mem ∧
        t.sch.bundles = s.sch.bundles.map fun v => if here v = true then v.resume else v) ∧
    (∀ u c, s.sch.bundles[n]? = some u → u.wait = .yielded c →
      ∃ t, Next (exec (.yieldExpire n) s) t ∧ t.clk = (s.reach c).clk ∧ t.regs = s.regs ∧ t.sch.bundles = s.sch.bundles.set n (u.step u.adv t.now)) ∧
    (∀ x, x = s.launch l →
      (x.lbarOrder = [] → Next (exec (.lbarReleaseWindow l) s) (s.lbarCheck l)) ∧
      (x.lbarOrder ≠ [] → x.lbarOrder.drop 6 ≠ [] →
        Next (exec (.lbarReleaseWindow l) s) ((s.lbarFree l (x.lbarOrder.take 6)).setLaunch { x with lbarOrder := x.lbarOrder.drop 6 })) ∧
      (x.lbarOrder ≠ [] → x.lbarOrder.drop 6 = [] →
        Next (exec (.lbarReleaseWindow l) s)
          ((((s.lbarFree l (x.lbarOrder.take 6)).setLaunch { x with lbarOrder := [] }).lbarFree l (List.range 48)).lbarPlaceable l)))

/-- R18, R19: the candidate that a path of a quarter chooses stands among the candidates, its next instruction is of that path, and no candidate of
the path has a lower rank, or the same rank and an earlier cycle, lower block index or lower PC, in this order; a path that chooses none has no
candidate. Rank 0, ahead of the ranks of Table 1.1, is that of a bundle that stands ahead: a candidate that was refused a unit or deferred, or that
draws on after a passed header, which is the model's reading of R22, R310 and R311 (logs 18 and 46). -/
def Obligations.IssueSelectsFirst : Prop :=
  ∀ (s : State) (core qtr : Nat) (uni : Bool) (pick : Option (Cand × Needs)),
    pick = (if uni = true then (s.picks core qtr).uni else (s.picks core qtr).vec) →
    (pick = none → ∀ e ∈ s.candidates core qtr, (s.candNeeds e).uniform ≠ uni) ∧
    ∀ c n, pick = some (c, n) → c ∈ s.candidates core qtr ∧ n = s.candNeeds c ∧ n.uniform = uni ∧
      ∀ e ∈ s.candidates core qtr, (s.candNeeds e).uniform = uni → lexLt (s.orderOf core e) (s.orderOf core c) = false

/-! ## Results, stores, waits -/

/-- R87, R91, R109, R192, R206, R213: RESULT_LAND writes an operation's registers and frees its flag, poisoned bytes being ECCUNC; a store
leaves the buffer as a request and is acknowledged; FENCER visits a drained core and then goes on; a monitor reads again, and one that has read poison stops the
launch of its block; the work-queue unit performs its oldest operation, or traps it where the word does not translate or is not permitted, or waits. -/
def Obligations.LandingEventsComplete : Prop :=
  ∀ (n : Nat) (s : State),
    (∀ p, s.pend n = some p → p.parts = 0 → p.mirror = none →
      (p.poisoned = true → p.plan ≠ .kvtest → p.plan ≠ .refill → Next (exec (.resultLand n) s) (((s.dropPend n).toMirrors p []).eccunc p.blk true)) ∧
      (p.poisoned = false → (∀ kd, p.plan ≠ .tdmk kd) → (∀ r, p.plan ≠ .recld r) → p.plan ≠ .kvtest → p.plan ≠ .refill →
        ∃ t, Next (exec (.resultLand n) s) t ∧ t.regs = s.regs.applyAll p.blk (p.writes.filter (s.wanted p.blk)) ∧ t.pend n = none ∧ t.mem = s.mem) ∧
      (p.poisoned = false → ∀ kd, p.plan = .tdmk kd → Next (exec (.resultLand n) s) (s.landTdmk p kd)) ∧
      (p.poisoned = false → ∀ r, p.plan = .recld r → Next (exec (.resultLand n) s) (s.landRecld p r))) ∧
    (∀ e, (s.pipe.sbuf.find? fun e => e.id == n) = some e → s.mayLeave e = true →
      ∃ t, Next (exec (.storeBufferLeave n) s) t ∧ t.regs = s.regs ∧ t.mem = s.mem ∧
        t.pipe.reqs = s.pipe.reqs ++ [{
          id := s.pipe.nextId, slice := e.home, core := e.core, ctx := e.ctx, pa := e.pa, kind := .store n e.bytes, pend := 0,
          tkeep := polKeep e.pol, tnorm := polNorm e.pol, ccls := e.ccls, ilv := e.ilv, charged := false, heldTo := 0, at' := s.now }]) ∧
    (∀ a, (s.pipe.acks.find? fun a => a.id == n) = some a →
      ∃ t, Next (exec (.storeAck n) s) t ∧ t.regs = s.regs ∧ t.mem = s.mem ∧ t.pipe.sbuf = (s.pipe.sbuf.filter fun e => e.id != a.entry) ∧
        t.pipe.acks = s.pipe.acks.filter fun x => x.id != n) ∧
    (∀ f, (s.sch.fencers.find? fun f => f.id == n) = some f →
      (∀ k rest, f.cores = k :: rest → (f.crews.any fun c => s.releaseWaits f.blk c f.scope) = false → s.coreBusy k = false →
        ∃ t, Next (exec (.fencerVisit n) s) t ∧ (∀ x ∈ t.pipe.l1, x.core ≠ k) ∧ t.regs = s.regs ∧ t.mem = s.mem ∧
          t.sch.fencers = s.sch.fencers.map fun g => if (g.id == n) = true then { g with cores := rest } else g) ∧
      (f.cores = [] → ∃ t, Next (exec (.fencerVisit n) s) t ∧ t.regs = s.regs ∧ t.mem = s.mem ∧
        (t.sch.fencers = s.sch.fencers.filter fun g => g.id != n) ∧
        t.sch.bundles = s.sch.bundles.map fun u => if (u.wait == .fencer n) = true then u.resume else u)) ∧
    ((∀ m ∈ s.pipe.mons, m.bad = false) → ∀ m r, s.pipe.mons[n]? = some m → m.armed = false → m.asked = false → m.done = false → m.req = some r →
      Next (exec (.waitcmpPoll n) s) (State.addReq { s with pipe := { s.pipe with mons := s.pipe.mons.set n { m with asked := true } } }
        { r with kind := .monitor m.id m.lane m.crew m.wid true })) ∧
    (∃ t, Next (exec (.waitcmpPoll n) s) t ∧
      ∀ m ∈ s.pipe.mons, m.bad = true → s.guardedBlk m.blk = false → (t.launch (s.block m.blk).launch).stopped = true ∨ s.disp.launches.all (fun l => l.uid != (s.block m.blk).launch) = true) ∧
    (∀ q rest, s.disp.wq = q :: rest → ∀ u l, u = { s with disp := { s.disp with wq := rest } } → l = s.launchOf q.blk →
      (q.push = false → l.wqTail ≤ l.wqHead → Next (exec .wqExecute s) (u.wqLand q [.k q.crew q.kd 0, .q q.crew q.qd false] false false)) ∧
      (q.push = true → 2 ^ l.wql ≤ l.wqTail - l.wqHead → Next (exec .wqExecute s) (u.wqLand q [.q q.crew q.qd false] false false)) ∧
      ((q.push = false ∧ l.wqHead < l.wqTail) ∨ (q.push = true ∧ l.wqTail - l.wqHead < 2 ^ l.wql) →
        ∀ va, va = l.wqWord (if q.push = true then l.wqTail else l.wqHead) →
        (∀ t, State.unitWalker wqWalker l.ctx u va = (.miss, t) → Next (exec .wqExecute s) (t.wqWait q)) ∧
        (∀ t, State.unitWalker wqWalker l.ctx u va = (.fault, t) →
          Next (exec .wqExecute s) ((t.unitDone wqWalker).trapPend q.pend { cls := .xlate, va := va })) ∧
        (∀ x t, State.unitWalker wqWalker l.ctx u va = (.ok x, t) → ∀ h pa, h = x.home va → pa = x.phys va →
          (t.apertureHole pa = true → Next (exec .wqExecute s) ((t.unitDone wqWalker).trapPend q.pend { cls := .xlate, va := va })) ∧
          (t.apertureHole pa = false → (if q.push = true then x.w else x.r) = false →
            Next (exec .wqExecute s) ((t.unitDone wqWalker).trapPend q.pend { cls := .prot, va := va })) ∧
          (t.apertureHole pa = false → (if q.push = true then x.w else x.r) = true →
            (t.wqTouch q l.ctx va x = none → Next (exec .wqExecute s) (t.wqWait q)) ∧
            (∀ w v, t.wqTouch q l.ctx va x = some w → v = w.unitDone wqWalker → q.push = false →
              (v.homeBad h pa 4 = true → Next (exec .wqExecute s) (v.wqLand q [] false true)) ∧
              (v.homeBad h pa 4 = false → Next (exec .wqExecute s) ((v.setLaunch { l with wqHead := l.wqHead + 1 }).wqLand q
                [.k q.crew q.kd (BitVec.ofNat 32 (bytesToNat (v.homeBytes h pa 4))), .q q.crew q.qd true] true false))) ∧
            (∀ v, t.wqTouch q l.ctx va x = some v → q.push = true →
              ∃ w, Next (exec .wqExecute s) w ∧ w.regs = v.regs ∧ (v.oneHome h (lineOf pa) → w.memBytes pa 4 = natToBytes 4 q.value.toNat) ∧
                ∀ a, a < pa ∨ pa + 4 ≤ a → w.memByte a = v.memByte a)))))

/-! ## The store -/

namespace Sys2Proof.Machine

/-- Does a home slice hold a copy of its own of the line of a byte, beside another home's (R82)? Its write-back replaces the line. -/
def State.ownAt (s : State) (a : Nat) : Prop := ∃ m ∈ s.sl.lines, m.line = a / 64 ∧ m.own ≠ none

end Sys2Proof.Machine

/-- R60 to R64, R72, R77, R79, R82, R322 to R325: a slice serves the first request that may go, and no byte of memory changes but that request's, those of
the atomics that stand at their points (of which a request that completes its instruction may let several act, in the order of log 22) and those of
lines of which a home holds a copy of its own (log 21); a fill that finds room serves what waits behind it; the write-back buffer sends and frees its
oldest entries; masks and HMAP entries take effect; links narrow and widen; a walk reads its level. -/
def Obligations.StoreEventsComplete : Prop :=
  ∀ (n : Nat) (v : BitVec 16) (s : State),
    (∀ r u, s.serveFirst [] (s.queueOf n) = some (r, u) →
      ∃ t, Next (exec (.sliceServe n) s) t ∧ t.regs = s.regs ∧ (t.pipe.reqs.all fun x => x.id != r.id) = true ∧
        ∀ a, (∀ x ∈ r :: s.pipe.atoms, x.writesByte a = false) → ¬ s.ownAt a → t.memByte a = s.memByte a) ∧
    (∀ f t, (s.pipe.fills.find? fun f => f.id == n) = some f → s.fillMsc f.slice f.line f.loc f.tenant f.cls ((f.reqs.head?.map s.reqLaunch).getD 0) .read = some t →
      ∃ u, Next (exec (.mscFill n) s) u ∧ u.regs = s.regs ∧ ∀ a, (∀ r ∈ f.reqs ++ s.pipe.atoms, r.writesByte a = false) → ¬ s.ownAt a → u.memByte a = s.memByte a) ∧
    (∀ i e, (s.sl.wbuf.findIdx? fun e => e.1 == n && !e.2.2) = some i → s.sl.wbuf[i]? = some e →
      ∀ p, p = stackTrip n e.2.1 (flitsOf true 64) →
      (s.pathHolds p = true → Next (exec (.writebackSend n) s) s) ∧
      (s.pathHolds p = false → ∀ u, u = s.crossAll p →
        Next (exec (.writebackSend n) s) { u with sl := { u.sl with wbuf := s.sl.wbuf.modify i fun e => (e.1, e.2.1, true) } })) ∧
    (∀ i, (s.sl.wbuf.findIdx? fun e => e.1 == n && e.2.2) = some i →
      Next (exec (.writebackFree n) s) { s with sl := { s.sl with wbuf := s.sl.wbuf.eraseIdx i } }) ∧
    (∀ e, (s.sl.maskNext.find? fun e => e.1 == n) = some e → ∃ t, Next (exec (.maskApply n) s) t ∧ t.wayMask n e.2.1 = e.2.2.1 ∧ t.mem = s.mem ∧
      (∀ x, x < 16 → e.2.1 < 16 → x ≠ e.2.1 → t.wayMask n x = s.wayMask n x) ∧ t.sl.maskNext = s.sl.maskNext.erase e) ∧
    (5 ≤ s.host.boot → n < 8192 → v.extractLsb' 7 2 ≠ 3 → Next (exec (.hmapWrite n v) s)
      { s with sl := { s.sl with hmapNext := (s.sl.hmapNext.filter fun e => e.1 != n) ++ [(n, v &&& 0x1FF)] } }) ∧
    (∀ e f, (s.sl.hmapNext.find? fun e => e.1 == n) = some e →
      f = (fun (m : MscLine) => (paRegion (m.line * 64) == .hbm || paRegion (m.line * 64) == .pin) && hmapRegion (m.line * 64) == n) →
      (s.flushLines f = none → Next (exec (.hmapTakeEffect n) s) s) ∧
      (s.flushLines f ≠ none → ∃ t, Next (exec (.hmapTakeEffect n) s) t ∧ mget 0 t.sl.hmap n = e.2 ∧ (∀ m ∈ t.sl.lines, f m = false) ∧
        ∀ a, ¬ s.ownAt a → t.memByte a = s.memByte a)) ∧
    (∀ w, (s.pipe.walks.find? fun w => w.id == n) = some w → (s.walking w.die).contains w = true →
      (tableOk w.table = false → Next (exec (.walkLevelRead n) s) (s.walkFault w)) ∧
      (∀ va, va = w.page * 2 ^ 15 → tableOk w.table = true →
        ∀ v, v = ({ ctlVia w.die 8 with at' := w.at' } : Via) →
        (s.touchPhys v (walkAddr w.table w.level va) (s.tenant w.ctx) 0 .read = none → Next (exec (.walkLevelRead n) s) s) ∧
        ∀ t, s.touchPhys v (walkAddr w.table w.level va) (s.tenant w.ctx) 0 .read = some t →
          (∀ x, s.walkRead w.ctx w.level w.table va = .leaf x → Next (exec (.walkLevelRead n) s) (t.walkInstall w x)) ∧
          (s.walkRead w.ctx w.level w.table va = .fault → Next (exec (.walkLevelRead n) s) (t.walkFault w)) ∧
          (∀ p, s.walkRead w.ctx w.level w.table va = .table p → Next (exec (.walkLevelRead n) s)
            { t with pipe := { t.pipe with walks := t.pipe.walks.map fun (x : Walk) => if (x.id == n) = true then { x with level := w.level + 1, table := p, at' := s.now } else x } }))) ∧
    (∀ l, l = s.link n →
      Next (exec (.linkWindowEnd n) s) (s.setLink n { l with
        busy := 0, reneg := if (l.reneg.isNone && l.width < 2 && l.busy < 492) = true then some (l.width + 1) else l.reneg }) ∧
      (l.width ≠ 0 → s.widens n = true → l.reneg = none → Next (exec (.linkWiden n) s) (s.setLink n { l with reneg := some 0, peak := false })) ∧
      (∀ w, l.reneg = some w → Next (exec (.linkRenegotiationEnd n) s) (s.setLink n { l with
        width := w, queue := if w = 0 then 0 else s.linkQueue n, since := s.now, peak := false,
        reneg := if (w ≠ 0 && s.widens n) = true then some 0 else none })))

/-! ## Contracts and pins -/

/-- R64, R69 to R73, R76, R226: the sequencer decides its oldest operation; a decided operation that is over gives its status to kd or to the command
window; a FILLING pin copies its next line and is LIVE after the last; a drain starts, sends its lines back and ends; a slice applies an STPART. The
model's choices: a drain of a SCRATCH pin waits while one of its lines is busy, and a pin under UNPIN in FILLING drains after its fill (log 29); the
value that an unwritten byte reads as, which a discarded line goes back to (log 2). -/
def Obligations.PinEventsComplete : Prop :=
  ∀ (n sl : Nat) (s : State),
    (∀ r, (s.sl.seq.find? fun r => !r.decided) = some r → (s.sl.seq.any fun x => x.decided && !x.slices.isEmpty) = false →
      Next (exec .contractDecide s) (s.decideOp r)) ∧
    (∀ r, (s.sl.seq.find? fun r => r.id == n) = some r → s.seqOver r = true → ∃ t, Next (exec (.contractComplete n) s) t ∧
      (t.sl.seq = s.sl.seq.filter fun x => x.id != n) ∧ t.regs = s.regs ∧ t.mem = s.mem ∧
      t.host.cmdStatus = s.host.cmdStatus ∧ (r.pend = 0 → s.host.cmdRun = .seq n → t.host.cmdRun = .closed r.status) ∧
      (r.pend ≠ 0 → t.pipe.pends = s.pipe.pends.map fun p =>
        if (p.id == r.pend) = true then { p with outs := [.k r.crew r.kd (BitVec.ofNat 32 r.status)], parts := 0 } else p)) ∧
    (∀ x, (s.sl.pins.find? fun x => x.id == n) = some x →
      (x.state = 0 → ∀ line p, x.nextLine sl = some line → p = stackTrip sl line (flitsOf false 64) →
        (s.pathHolds p = true → Next (exec (.pinLineCopy n sl) s) s) ∧
        (s.pathHolds p = false → ∃ t, Next (exec (.pinLineCopy n sl) s) t ∧ t.mem.cells = s.mem.cells ∧
          t.sl.pins = s.sl.pins.map fun p => if (p.id == n) = true then
            (if (x.doLine line).allDone = true then { x.doLine line with state := 1 } else x.doLine line) else p)) ∧
      (x.ending = true → x.state ≠ 0 → x.state ≠ 3 → sl ∉ x.started → x.resident = false →
        ((x.lines.any fun l => l.2.1 == sl && s.lineBusy l.1) = true → Next (exec (.pinDrainStart n sl) s) s) ∧
        ((x.lines.any fun l => l.2.1 == sl && s.lineBusy l.1) = false → ∃ t, Next (exec (.pinDrainStart n sl) s) t ∧
          (∀ l ∈ x.lines, l.2.1 = sl → ∀ i, i < 64 → t.memByte (64 * l.1 + i) = memDefault) ∧
          ∀ a, (∀ l ∈ x.lines, l.2.1 = sl → a / 64 ≠ l.1) → t.memByte a = s.memByte a)) ∧
      (x.ending = true → x.state = 1 → sl ∉ x.started → x.resident = true →
        Next (exec (.pinDrainStart n sl) s) ((s.mapPin n fun _ => { x with
          state := 2, started := x.started ++ [sl], lines := x.lines.map fun l => (l.1, l.2.1, false) }).pinEnded n)) ∧
      (x.state = 2 → sl ∈ x.started → ∀ line p, x.nextLine sl = some line → p = stackTrip sl line (flitsOf true 64) →
        (s.pathHolds p = true → Next (exec (.pinLineWriteback n sl) s) s) ∧
        (s.pathHolds p = false → ∃ t, Next (exec (.pinLineWriteback n sl) s) t ∧
          (t.sl.pins = s.sl.pins.map fun p => if (p.id == n) = true then { p with sending := p.sending ++ [line] } else p) ∧ t.mem.cells = s.mem.cells)) ∧
      (∀ line, (x.sending.find? fun k => x.lines.any fun l => l.1 == k && l.2.1 == sl) = some line →
        Next (exec (.pinLineWritten n sl) s) ((s.mapPin n fun y => y.doLine line).pinEnded n))) ∧
    (∀ r slice first count kind x rest, (s.sl.seq.find? fun r => r.id == n) = some r → r.op = .stpart slice first count kind → r.slices = x :: rest →
      (s.flushLines (fun m => m.slice == slice) = none → Next (exec (.stpartApply n) s) s) ∧
      (s.flushLines (fun m => m.slice == slice) ≠ none →
        ∃ t, Next (exec (.stpartApply n) s) t ∧ t.sl.kinds = s.newKinds slice first count kind ∧ (∀ m ∈ t.sl.lines, m.slice ≠ slice) ∧
          ∀ a, ¬ s.ownAt a → t.memByte a = s.memByte a))

/-! ## The dispatcher -/

/-- R9 to R11, R204, R284, R302 to R309, R366, R368: the dispatcher makes the first placement in rank order, its blocks taking the next indices; their
crews issue 128 cycles on; a snoop takes the package's copies of a host line, and the host's store to it lands; the dispatcher takes and accepts or
refuses records, releases launches, clears segments before and after a launch, completes blocks, launches and levels, and stops the blocks of a
cancelled level. The model's choices: a record is OVERRUN where the TAIL that was read last is ahead of it (log 32), the host's store is plain data
that lands at the snoop (log 42), and the clock up to which an event reaches (log 1). -/
def Obligations.DispatcherEventsComplete : Prop :=
  ∀ (n kind : Nat) (s : State),
    (∀ u x, s.firstPlacement s.ranked = some (.fresh u x) → Next (exec .placeBlock s) (s.placeAt (s.launch u) x) ∧
      (x.twin = [] → (s.placeAt (s.launch u) x).disp.blocks = s.disp.blocks ++ ((List.range x.prim.length).zip x.prim).map fun e =>
        { Block.none with
          id := s.disp.nextBlk + e.1, launch := (s.launch u).uid, lin := (s.launch u).nextBlk + e.1, core := e.2.core, st := .placed,
          feedDone := false, spadBase := e.2.spad, cellBase := e.2.cells, placedAt := s.now, exclAt := some s.now })) ∧
    (∀ b core, s.firstPlacement s.ranked = some (.resume b core) → Next (exec .placeBlock s) (s.due [.swapRestore b core])) ∧
    ((s.block n).st = .placed → ∃ t, Next (exec (.crewStart n) s) t ∧ (t.block n).st = .running ∧ t.regs = s.regs ∧ t.mem = s.mem ∧
      t.clk = (s.reach ((s.block n).placedAt + 128)).clk) ∧
    (s.hasUnplaced (s.launch n) = true → s.fitOf (s.launch n) = none →
      Next (exec (.launchBlocking n) s) ((s.reach ((s.launch n).waitFrom + 65536)).setLaunch { s.launch n with blocking := true })) ∧
    (s.snoopHeld n = true → Next (exec (.cxlSnoop n) s)
      (if (s.host.stores.any fun e => e.1 == n) = true then s else { s with host := { s.host with stores := s.host.stores ++ [(n, [])] } })) ∧
    (s.snoopHeld n = false → ∀ pa, pa = hostPa (n * 64) → ∃ t, Next (exec (.cxlSnoop n) s) t ∧
      (∀ q, lineOf (hostPa (s.queue q).tailpa) = lineOf pa → (t.queue q).shared = false) ∧ (∀ m ∈ t.sl.lines, m.line ≠ lineOf pa) ∧ t.regs = s.regs ∧
      (∀ data, (s.host.stores.find? fun e => e.1 == n) = some (n, data) → ∀ i b, i < 64 → data[i]? = some b → t.memByte (pa + i) = b) ∧
      ((∀ e ∈ s.host.stores, e.1 ≠ n) → t.mem = s.mem) ∧
      ∀ a, (a < pa ∨ pa + 64 ≤ a) → t.memByte a = s.memByte a) ∧
    (s.watches n = true → s.hostReach (s.queue n).tailpa 4 0 false = none → Next (exec (.tailReread n) s) s) ∧
    (s.watches n = true → ∀ u v ahead, s.hostReach (s.queue n).tailpa 4 0 false = some u → v = u.hostRead (s.queue n).tailpa 4 →
      ahead = (v + 2 ^ 32 - (s.queue n).head % 2 ^ 32) % 2 ^ 32 →
      ∃ t, Next (exec (.tailReread n) s) t ∧ (t.queue n).tail = v ∧ (t.queue n).shared = true ∧ t.regs = s.regs ∧
        ((t.queue n).overrun = true ↔ 2 ^ (s.queue n).qlog < ahead)) ∧
    (s.mayTake n = true → s.hostReach ((s.queue n).qbase + 128 * ((s.queue n).head % 2 ^ (s.queue n).qlog)) 128 0 false = none →
      Next (exec (.recordTake n) s) s) ∧
    (s.mayTake n = true → ∀ x l u, x = s.queue n → s.hostReach (x.qbase + 128 * (x.head % 2 ^ x.qlog)) 128 0 false = some u →
      l = Launch.ofRecord (s.disp.launches.length + 1) n x.ctx (BitVec.ofNat 1024 (u.hostRead (x.qbase + 128 * (x.head % 2 ^ x.qlog)) 128)) →
      ∃ t, Next (exec (.recordTake n) s) t ∧ (t.queue n).head = (x.head + 1) % 2 ^ 32 ∧ (t.queue n).lastId = max x.lastId l.id ∧
        t.host.featLocked = true ∧ t.regs = s.regs ∧
        t.disp.launches.length = s.disp.launches.length + (if u.refuses x l = true then 0 else 1)) ∧
    ((s.launch n).st = .waiting → (s.launch n).stopped = false →
      ((∃ p ∈ s.preds (s.launch n), ∃ c, p = some c ∧ c ≠ 0) → Next (exec (.launchRelease n) s) (s.stopLaunch n 1)) ∧
      ((∀ p ∈ s.preds (s.launch n), p = some 0) → s.segBusy (s.launch n) = false →
        Next (exec (.launchRelease n) s) (s.setLaunch { s.launch n with
          st := if (s.launch n).glen = 0 then .cleared else .released, releasedAt := s.now, waitFrom := s.now, clearFrom := s.now }))) ∧
    (∀ l, l = s.launch n → l.st = .released → ∃ t, Next (exec (.segmentClear n) s) t ∧ (t.launch n).st = .cleared ∧ t.regs = s.regs ∧ t.mem = s.mem ∧
      t.clk = (s.reach (revolutionFrom l.clearFrom)).clk ∧
      ∀ slot, l.gbase ≤ slot → slot < l.gbase + l.glen → t.slotHdr slot = { SlotHdr.init with seg := l.gseg } ∧ ∀ i, i < 16 → t.slotWord slot i = 0) ∧
    (∀ l, l = s.launch n → l.st ≠ .released → (l.st = .ended ∨ s.launchOver l = true) → l.segState = 1 →
      ∃ t, Next (exec (.segmentClear n) s) t ∧ t.regs = s.regs ∧ t.mem = s.mem ∧ t.clk = (s.reach (revolutionFrom l.clearFrom)).clk ∧
        ∀ slot, l.gbase ≤ slot → slot < l.gbase + l.glen → t.slotHdr slot = SlotHdr.init ∧ ∀ i, i < 16 → t.slotWord slot i = 0) ∧
    (∀ l, l = s.launchOf n → s.blockOver n = true → (l.guarded = false ∨ l.stopped = true ∨ s.mayGo n 34 = true) →
      ∃ t, Next (exec (.blockComplete n) s) t ∧ (t.block n).st = .complete ∧ (∀ u ∈ t.sch.bundles, u.blk ≠ n) ∧ t.regs = s.regs.offBlock n ∧
        t.mem.cells = s.mem.cells ∧ ((s.block n).primary = true → (t.launchOf n).counter = l.counter - 1)) ∧
    (∀ l t, l = { s.launch n with st := .ending } → s.launchOver (s.launch n) = true →
      t = (s.endPins fun p => p.ofLevel l.ctx 0 n).setLaunch l →
      (t.pinsLeft l.ctx 0 n = true → Next (exec (.levelComplete 0 n) s) t) ∧
      (t.pinsLeft l.ctx 0 n = false → ∃ u, Next (exec (.levelComplete 0 n) s) u ∧ (u.launch n).st = .ended ∧
        (u.queue l.queue).cwritten = (s.queue l.queue).cwritten + 1 ∧ u.regs = s.regs)) ∧
    (∀ v t, kind ≠ 0 → s.level (n / 2 ^ 32) kind (n % 2 ^ 32) = some v → v.isOver = true → t = (s.endPins fun p => p.ofLevel v.ctx kind v.id) →
      (t.pinsLeft v.ctx kind v.id = true → Next (exec (.levelComplete kind n) s) t) ∧
      (t.pinsLeft v.ctx kind v.id = false → ∃ u w, Next (exec (.levelComplete kind n) s) u ∧ u.level (n / 2 ^ 32) kind (n % 2 ^ 32) = some w ∧
        w.ended = true ∧ u.regs = s.regs)) ∧
    (∀ c rest, s.disp.cancels = c :: rest → ∃ t, Next (exec .cancelArrive s) t ∧ t.disp.cancels = rest ∧ t.regs = s.regs ∧ t.mem = s.mem ∧
      ∀ l ∈ s.disp.launches, l.inLevel c.ctx c.kind c.id = true → (t.launch l.uid).stopped = true) ∧
    ((s.launchOf n).stopped = true → (s.block n).st ≠ .complete →
      ∃ t, Next (exec (.cancelStop n) s) t ∧ (t.block n).st = .stopping ∧ (∀ m ∈ t.sch.bins, m.blk ≠ n) ∧ t.mem = s.mem ∧
        ∀ u ∈ t.sch.bundles, u.blk = n → u.stopsNow = false)

/-! ## Pre-emption, swaps, fault entries, the watchdog -/

/-- R313, R314, R317 to R321, R328: a pre-empted block stops, is saved into the lowest free run, or stays in place, and comes back to run with its
bins, or to be stopped again where its quota has been spent meanwhile; the entry of a fault is written to the queue of its context with the next SEQ
and vector 64; a context that has not issued for 2^WDL cycles takes WATCHDOG where its oldest bundle waits. The model's choices: a block whose quota
has been spent during its restore is stopped again once it is back (log 33), and WATCHDOG is taken at the bundle that has waited longest (log 28). -/
def Obligations.SwapEventsComplete : Prop :=
  ∀ (n core : Nat) (s : State),
    (s.pairOf n = none →
      ((s.block n).st = .running ∨ (s.block n).st = .placed → ∃ t, Next (exec (.preempt n) s) t ∧ (t.block n).st = .draining ∧
        Instr.swapOut n ∈ t.sch.agenda ∧ (∀ o ∈ t.gi.ops, o.blk = n → o.stop = noStop) ∧ t.regs = s.regs ∧ t.mem = s.mem ∧ t.sch.bundles = s.sch.bundles) ∧
      (s.yields n = true → ∃ t, Next (exec (.swapOut n) s) t ∧ (t.block n).st = .draining ∧ t.regs = s.regs ∧ t.mem = s.mem) ∧
      ((s.block n).st = .draining → s.sch.curOn = false → s.drainedOut n = true →
        (∀ r, s.swapRun n = some r → (s.block n).inPlace = false → ∃ t, Next (exec (.swapOut n) s) t ∧ (t.block n).st = .saving ∧ (t.block n).run = some r ∧
          t.regs = s.regs ∧ t.mem = s.mem) ∧
        (s.swapRun n = none → ∃ t, Next (exec (.swapOut n) s) t ∧ (t.block n).st = .swapped ∧ (t.block n).inPlace = true ∧
          t.regs = s.regs ∧ t.mem = s.mem)) ∧
      (s.mayResume n = true → s.quotaSpent (s.ctxOf n) = false →
        ((s.block n).inPlace = true → ∃ t, Next (exec (.swapRestore n core) s) t ∧ (t.block n).st = .running ∧ (t.block n).inPlace = false ∧
          t.regs = s.regs ∧ t.mem = s.mem) ∧
        ((s.block n).inPlace = false → ∀ xs, s.resumePlan n core = some xs → ∃ t, Next (exec (.swapRestore n core) s) t ∧
          (t.block n).st = .restoring ∧ (t.block n).core = core ∧ t.regs = s.regs ∧ t.mem = s.mem))) ∧
    ((s.block n).st = .saving →
      (s.touchRun n .whole = none → Next (exec (.swapSaveDone n) s) s) ∧
      ((s.touchRun n .whole).isSome = true → ∃ t, Next (exec (.swapSaveDone n) s) t ∧ (t.block n).st = .swapped ∧ t.regs = s.regs ∧
        (∀ m ∈ t.sch.bins, m.blk = n → m.core = noStop) ∧
        ∀ a, (∀ r pa, (s.block n).run = some r → pa = (s.ctx (s.ctxOf n)).swapbase + 32768 * r.1 → a < pa ∨ pa + (s.launchOf n).swapSize ≤ a) →
          t.memByte a = s.memByte a)) ∧
    ((s.block n).st = .restoring →
      (s.touchRun n .read = none → Next (exec (.swapRestoreDone n) s) s) ∧
      ((s.touchRun n .read).isSome = true → ∃ t, Next (exec (.swapRestoreDone n) s) t ∧
        (t.block n).st = (if (s.block n).quotaWait = true then .draining else .running) ∧ (t.block n).run = none ∧
        t.regs = s.regs ∧ t.mem.cells = s.mem.cells ∧ ∀ m ∈ t.sch.bins, m.blk = n → m.core = (s.block n).core)) ∧
    (∀ f t c p e, (s.sch.faults.find? fun f => f.id == n) = some f → t = s.watchSync f.blk →
      t.faultReady f = true → f.toCore = false → t.entryWaits f = false → c = t.ctxOf f.blk → p = t.ctx c →
      e = faultEntry f c (t.launchOf f.blk).id (t.block f.blk).lin (p.fqwritten + 1) →
      ∃ u, Next (exec (.faultEntryWrite n) s) u ∧ u.regs = s.regs ∧ (u.ctx c).fqwritten = p.fqwritten + 1 ∧ (∀ g ∈ u.sch.faults, g.id = n → g.written = true) ∧
        ∀ x, x = p.fqbase + 64 * (p.fqwritten % 2 ^ p.fqlog) →
          (t.host.out ≠ [] ∨ t.hostReach x 64 t.now true = none → u.host.out = t.host.out ++ [.write x (natToBytes 64 e) t.now, .msi 64] ∧ u.mem = t.mem) ∧
          (∀ v w, t.host.out = [] → t.hostReach x 64 t.now true = some v → w = v.hostPut x (natToBytes 64 e) →
            u.mem = w.mem ∧ u.host.msix = (w.msi 64).host.msix ∧ u.host.out = (w.msi 64).host.out ∧
            (v.oneHome (homeSlice 0 0 (lineOf (hostPa x))) (lineOf (hostPa x)) → u.memBytes (hostPa x) 64 = natToBytes 64 e))) ∧
    (∀ f, (s.sch.faults.find? fun f => f.id == n) = some f → f.inspect = true → f.feed = true → f.written = false → f.toCore = true →
      ∃ u, Next (exec (.faultEntryWrite n) s) u ∧ u.regs = s.regs ∧ u.mem = s.mem ∧ u.host.fwRing.length = s.host.fwRing.length + 1) ∧
    (∀ b c e rest, b = n / 33 → c = n % 33 → (s.block b).id ≠ 0 → s.watchStops b = false → s.halted b c (c == feedCrew) = false → (s.block b).st.watched = true →
      sortBy (fun (e : Nat × Bundle) => e.2.since)
        (((List.range s.sch.bundles.length).zip s.sch.bundles).filter fun e => e.2.blk == b && e.2.crews.contains c) = e :: rest →
      Next (exec (.watchdog n) s) ((s.reach (s.watchDue b c)).watchBundle e.1 c))

/-! ## Engines and KV pages -/

namespace Sys2Proof.Machine

/-- The row of a slot of a resident page. -/
def State.rowOf (s : State) (ctx p slot : Nat) : List (BitVec 16) := (List.range 256).map fun c => mget 0 s.kv.rows (pageKey ctx p * 16384 + 256 * slot + c)

end Sys2Proof.Machine

/-- R99, R101, R229 to R232, R242, R294 to R296: an engine's next write lands, its panels land, and with nothing left it has completed; count tests,
forks, frees and hallmark reads are performed; an append writes both rows and the hallmark; pages end their transfers, and go where their contract has
ended; heat halves. The model's choices: a page in transfer at the end of its contract goes to FREE, and the count tests of a contract that has ended
pass (log 30). -/
def Obligations.EngineEventsComplete : Prop :=
  ∀ (n ctx page : Nat) (s : State),
    (∀ e, s.engine n = some e →
      (∀ ms, e.moves ≠ [] → ms = s.nextMoves e →
        (∀ c u, s.engCharge e (chargesOfMoves ms) = .ok c → c.performMoves e ms = some u →
          Next (exec (.engineWriteLand n) s) (u.mapEngine n fun x => { x with moves := x.moves.drop ms.length, at' := s.now })) ∧
        (∀ c, s.engCharge e (chargesOfMoves ms) = .ok c → c.performMoves e ms = none → Next (exec (.engineWriteLand n) s) s) ∧
        (∀ c, s.engCharge e (chargesOfMoves ms) = .error c → Next (exec (.engineWriteLand n) s) c)) ∧
      (∀ q, e.moves = [] → e.assay = some q → Next (exec (.engineWriteLand n) s) (s.runAssay e q)) ∧
      (∀ p, (e.panels.find? fun p => p.entry.isSome) = some p →
        (∀ c u, s.engCharge e p.charges = .ok c → c.landPanel e p (p.entry.getD 0) = some u →
          Next (exec (.panelLand n) s) (u.mapEngine n fun x => { x with panels := x.panels.filter fun y => y.entry != p.entry })) ∧
        (∀ c, s.engCharge e p.charges = .ok c → c.landPanel e p (p.entry.getD 0) = none → Next (exec (.panelLand n) s) s) ∧
        (∀ c, s.engCharge e p.charges = .error c → Next (exec (.panelLand n) s) c)) ∧
      (e.moves = [] → e.panels = [] → e.assay = none → ∃ t, Next (exec (.engineComplete n) s) t ∧ (∀ x ∈ t.sp.engines, x.id ≠ n) ∧
        t.regs = s.regs ∧ t.mem = s.mem ∧ t.pipe.pends = s.pipe.pends.map fun p => if (p.id == e.pend) = true then { p with parts := p.parts - 1 } else p) ∧
      (∀ k u slot krow vrow rest r c, e.moves = .kvWrite ctx k u slot krow vrow :: rest → s.reserveAt ctx e.gen = some r →
        (s.page ctx k).st = .resident → (s.page ctx u).st = .resident → k ≠ u → slot < 64 → krow.length = 256 → vrow.length = 256 → k < 2 ^ 32 → u < 2 ^ 32 →
        s.engCharge e (chargesOfMoves [.kvWrite ctx k u slot krow vrow]) = .ok c → ∀ v, v = ({ unitVia (c.block e.blk).core 64 with at' := e.at' } : Via) →
        (((c.appendRow v ctx k slot r krow).bind fun t => t.appendRow v ctx u slot r vrow) = none → Next (exec (.kvappPerform n) s) s) ∧
        (((c.appendRow v ctx k slot r krow).bind fun t => t.appendRow v ctx u slot r vrow) ≠ none →
        ∃ t, Next (exec (.kvappPerform n) s) t ∧ t.rowOf ctx k slot = krow ∧ t.rowOf ctx u slot = vrow ∧ t.regs = s.regs ∧
          (t.page ctx k).present = (s.page ctx k).present ||| 1 <<< slot ∧ (t.page ctx u).present = (s.page ctx u).present ||| 1 <<< slot ∧
          (t.page ctx k).isKey = true ∧ t.engine n = (c.engine n).map fun x => { x with moves := rest }))) ∧
    (∀ o k u slot krow vrow ok, (s.kv.ops.find? fun o => o.id == n) = some o → ok = (fun (p : Nat) => (s.reserveAt o.ctx o.gen).isNone || (s.page o.ctx p).count ≤ 1) →
      (o.op = .test k u none none slot krow vrow → s.firstOn o k = true → ∀ t, s.kvReach o k 0 true = some t →
        (ok k = false → Next (exec (.kvCountTest n) s) (t.kvVerdict o k u slot krow vrow false)) ∧
        (ok k = true → Next (exec (.kvCountTest n) s) (t.setKvOp n (.test k u (some true) none slot krow vrow)))) ∧
      (o.op = .test k u (some true) none slot krow vrow → s.firstOn o u = true →
        (s.kvReach o u 0 true = none → Next (exec (.kvCountTest n) s) (s.setKvOp n (.test k u (some true) none slot krow vrow))) ∧
        ∀ t, s.kvReach o u 0 true = some t → Next (exec (.kvCountTest n) s) (t.kvVerdict o k u slot krow vrow (ok u)))) ∧
    (∀ o p, (s.kv.ops.find? fun o => o.id == n) = some o → s.firstOn o p = true → (s.reserveAt o.ctx o.gen).isSome = true → (s.page o.ctx p).moving = false → s.appending o.ctx p = false →
      ((o.op = .free p ∨ ∃ kd qd, o.op = .fork p kd qd) → s.kvReach o p 0 true = none → Next (exec (.kvPageOp n) s) s) ∧
      (∀ kd qd, o.op = .fork p kd qd → s.kvReach o p 0 true ≠ none → (s.page o.ctx p).count ≠ 0 → (s.page o.ctx p).count ≠ 1023 →
        ∃ t, Next (exec (.kvPageOp n) s) t ∧ t.page o.ctx p = { s.page o.ctx p with count := (s.page o.ctx p).count + 1 } ∧ t.regs = s.regs ∧ t.mem = s.mem ∧
          t.pipe.pends = s.pipe.pends.map fun x => if (x.id == o.pend) = true then
            { x with outs := [.k o.crew kd (BitVec.ofNat 32 ((s.page o.ctx p).count + 1)), .q o.crew qd false], parts := 0 } else x) ∧
      (∀ kd qd t, o.op = .fork p kd qd → s.kvReach o p 0 true = some t → ((s.page o.ctx p).count = 0 ∨ (s.page o.ctx p).count = 1023) →
        Next (exec (.kvPageOp n) s) (t.kvLand o [.k o.crew kd (BitVec.ofNat 32 (s.page o.ctx p).count), .q o.crew qd true])) ∧
      (o.op = .free p → s.kvReach o p 0 true ≠ none → (s.page o.ctx p).count = 1 →
        ∃ t, Next (exec (.kvPageOp n) s) t ∧ t.page o.ctx p = .init ∧ t.regs = s.regs ∧ t.mem.cells = s.mem.cells) ∧
      (o.op = .free p → s.kvReach o p 0 true ≠ none → 1 < (s.page o.ctx p).count →
        ∃ t, Next (exec (.kvPageOp n) s) t ∧ t.page o.ctx p = { s.page o.ctx p with count := (s.page o.ctx p).count - 1 } ∧ t.regs = s.regs ∧ t.mem = s.mem) ∧
      (∀ kd cell r, o.op = .hallmark p kd cell → s.reserveAt o.ctx o.gen = some r →
        (s.kvReach o p 1024 false = none → Next (exec (.kvPageOp n) s) s) ∧
        ∀ t, s.kvReach o p 1024 false = some t → Next (exec (.kvPageOp n) s) (t.kvLand o (s.hallWrs o p kd cell r.ch)))) ∧
    (∀ x finish, x = s.page ctx page → x.st = .evicting →
      finish = (fun (y : KvPage) (t : State) => Next (exec (.pageEvictDone ctx page) s) t ∧ t.regs = s.regs ∧
        t.page ctx page = if ((s.backing ctx).any fun r => r.ended) = true then .init else { y with st := .evicted, dirty := false, frame := none, pos := 0 }) →
      (x.dirty = false ∨ s.backing ctx = none ∨ x.nextPair = none → ∃ t, finish x t ∧ t.mem.cells = s.mem.cells) ∧
      (∀ r q, x.dirty = true → s.backing ctx = some r → x.nextPair = some q →
        (s.evictPair ctx page x r q = none → Next (exec (.pageEvictDone ctx page) s) s) ∧
        ∀ t y, s.evictPair ctx page x r q = some t → y = { x with pos := q + 1, at' := s.now } →
          (y.nextPair ≠ none → Next (exec (.pageEvictDone ctx page) s) (t.setPage ctx page y)) ∧
          (y.nextPair = none → ∃ u, finish y u ∧ u.mem.cells = t.mem.cells))) ∧
    (∀ x finish, x = s.page ctx page → x.st = .installing →
      finish = (fun (y : KvPage) (t : State) => Next (exec (.pageInstallDone ctx page) s) t ∧ t.regs = s.regs ∧
        t.page ctx page = if ((s.backing ctx).any fun r => r.ended) = true then .init else { y with st := .resident, dirty := false, pos := 0 }) →
      (s.backing ctx = none ∨ x.nextPair = none → ∃ t, finish x t ∧ t.mem.cells = s.mem.cells) ∧
      (∀ r q, s.backing ctx = some r → x.nextPair = some q →
        (s.installPair ctx page x r q = none → Next (exec (.pageInstallDone ctx page) s) s) ∧
        ∀ t y, s.installPair ctx page x r q = some t → y = { x with pos := q + 1, at' := s.now } →
          (y.nextPair ≠ none → Next (exec (.pageInstallDone ctx page) s) (t.setPage ctx page y)) ∧
          (y.nextPair = none → ∃ u, finish y u ∧ u.mem.cells = t.mem.cells))) ∧
    (mwf KvPage.init s.kv.pages = true → ∃ t, Next (exec .heatDecay s) t ∧ t.regs = s.regs ∧ t.mem = s.mem ∧
      ∀ c p, t.page c p = if 0 < (s.page c p).count then { s.page c p with heat := (s.page c p).heat / 2 } else s.page c p)

/-! ## The girth, guarded pairs -/

/-- R234, R285 to R288, R290, R343 to R345: at a passage of a slot that nobody holds or has reserved, in its order, the first of the stop's ready
operations reads, updates, cinches, boards or frees it, and lands, and the others stay, of which one that the slot's new state keeps from acting may
reserve it; a hold ends with its holder's GCLOSE or lapses; a reservation ends; two blocks whose signatures agree go on, others roll back, a hold that
a GCLOSE there would have closed lapsing; a checkpoint keeps both blocks' state, and a rollback restores it. The model's choices: the order of a
stop's passages, which operations stay behind an earlier one, and when a hold ends (log 36); two blocks are compared once both are quiet (log 15);
what a checkpoint keeps, what a rollback restores and which holds lapse (log 16). -/
def Obligations.GirthGuardEventsComplete : Prop :=
  ∀ (stop slot n : Nat) (s : State),
    (∀ o c h rest lands, stop < 384 → slot < 1568 → stop ∉ s.disp.retired → c = s.nextPass stop slot → s.inOrder stop slot c = true →
      (∀ x ∈ s.gi.ops, x.stop = stop → x.byTag = true → c < x.ready + 392) → s.girthReady stop slot c = o :: rest → s.girthBehind o slot = false →
      h = s.slotHdr slot → h.hold = none → h.rsv = none →
      lands = (fun (t : State) (ws : List RegWr) => Next (exec (.girthPassage stop slot) s) t ∧ (∀ x ∈ t.gi.ops, x.pend ≠ o.pend) ∧
        (∀ x ∈ s.gi.ops, x.pend ≠ o.pend → ∃ y ∈ t.gi.ops, y.pend = x.pend ∧ y.act = x.act) ∧ t.regs = s.regs ∧ t.mem = s.mem ∧
        (∀ m, m ≠ slot → t.slotHdr m = s.slotHdr m) ∧ ((t.slotHdr slot).rsv = none ∨ rest ≠ [] ∧ (t.slotHdr slot).rsv = some (stop, c + 392)) ∧
        t.pipe.pends = s.pipe.pends.map fun p => if (p.id == o.pend) = true then { p with outs := ws, parts := 0 } else p) →
      (∀ cell q, o.act = .read cell q → ∃ t, lands t (s.slotWrs o slot cell ++ qWr o q false) ∧ { t.slotHdr slot with rsv := none } = h ∧ t.gi.data = s.gi.data) ∧
      (∀ op word v k kd q new, o.act = .update op word false v k kd q → new = atomNew op 32 (s.slotWord slot word).toNat v k →
        ∃ t, lands t (kWrs o.crew kd [BitVec.ofNat 32 (s.slotWord slot word).toNat] ++
            qWr o q (if op = 12 then (s.slotWord slot word).toNat == v else new != (s.slotWord slot word).toNat)) ∧
          t.slotWord slot word = BitVec.ofNat 32 new ∧ { t.slotHdr slot with rsv := none } = h ∧
          ∀ m i, m * 16 + i ≠ slot * 16 + word → t.slotWord m i = s.slotWord m i) ∧
      (∀ cell, o.act = .cinch cell → ∃ t, lands t (s.slotWrs o slot cell) ∧ t.gi.data = s.gi.data ∧
        { t.slotHdr slot with rsv := none } = { h with hold := some (stop, o.blk, o.crew, c + 392) }) ∧
      (∀ tag data kd, o.act = .mount tag data kd → h.tag = 0 → data.length = 16 → ∃ t, lands t [.k o.crew kd (BitVec.ofNat 32 slot)] ∧
        { t.slotHdr slot with rsv := none } = { h with tag := tag } ∧ ∀ i, i < 16 → t.slotWord slot i = data.getD i 0) ∧
      (∀ byTag cell q, o.act = .dismount byTag cell q → (∀ g, byTag = some g → g = h.tag) →
        ∃ t, lands t (s.slotWrs o slot cell ++ qWr o q (byTag.isSome || h.tag != 0)) ∧ t.gi.data = s.gi.data ∧
          { t.slotHdr slot with rsv := none } = { h with tag := 0 })) ∧
    (∀ x close, (s.slotHdr slot).hold = some x → s.inOrder x.1 slot x.2.2.2 = true →
      (∀ y ∈ s.gi.ops, y.stop = x.1 → y.byTag = true → x.2.2.2 < y.ready + 392) →
      close = (fun (o : GirthOp) => o.slot == slot && (s.slotHdr slot).heldMine o && decide (o.ready ≤ x.2.2.2) && (match o.act with
        | .close _ _ => true
        | _ => false)) →
      (s.gi.ops.find? close = none → ∃ t, Next (exec (.holdEnd slot) s) t ∧ (t.slotHdr slot).hold = none ∧ (t.slotHdr slot).tag = (s.slotHdr slot).tag ∧
        (t.slotHdr slot).seg = (s.slotHdr slot).seg ∧ t.gi.data = s.gi.data ∧ t.clk = (s.reach x.2.2.2).clk ∧ t.regs = s.regs) ∧
      (∀ o data q, s.gi.ops.find? close = some o → o.act = .close data q → data.length = 16 → ∃ t, Next (exec (.holdEnd slot) s) t ∧
        (t.slotHdr slot).hold = none ∧ (∀ i, i < 16 → t.slotWord slot i = data.getD i 0) ∧ t.regs = s.regs ∧
        t.pipe.pends = s.pipe.pends.map fun p => if (p.id == o.pend) = true then { p with outs := qWr o q true, parts := 0 } else p)) ∧
    (∀ r, (s.slotHdr slot).rsv = some r → s.inOrder r.1 slot r.2 = true →
      ∃ t, Next (exec (.reservationExpire slot) s) t ∧ (t.slotHdr slot).rsv ≠ some r ∧ t.regs = s.regs ∧ t.mem = s.mem) ∧
    (∀ p, (s.grd.pairs.find? fun p => p.primary == n) = some p →
      (p.restoring = false → (s.launchOf n).stopped = false → p.bad = true → p.checking = false → Next (exec (.compareSignatures n) s) (s.rollBack p)) ∧
      (p.restoring = false → (s.launchOf n).stopped = false → (p.bad = false ∨ p.checking = true) → ∀ c d, p.arrivalOf p.primary = some c → p.arrivalOf p.twin = some d →
        s.quiet p.primary = true → s.quiet p.twin = true →
        (p.checking = true → Next (exec (.compareSignatures n) s) (s.commitPair p)) ∧
        (p.checking = false → c = d → s.blockSig p.primary = s.blockSig p.twin → ∃ t, Next (exec (.compareSignatures n) s) t ∧
          (∀ h ∈ t.grd.hold, h.blk ≠ p.primary ∧ h.blk ≠ p.twin) ∧ t.regs = s.regs ∧ t.mem = s.mem) ∧
        (p.checking = false → (c ≠ d ∨ s.blockSig p.primary ≠ s.blockSig p.twin) →
          (p.rollbacks < 2 → Next (exec (.compareSignatures n) s) ((s.lapseClosing p).rollBack p)) ∧
          (2 ≤ p.rollbacks → (s.launchOf n).uid ≠ 0 → ∃ t, Next (exec (.compareSignatures n) s) t ∧ (t.launchOf n).stopped = true))) ∧
      (p.checking = true → p.go = [] → p.arrived = [] → s.pairBusy p = false → ∃ t, Next (exec (.checkpointDone n) s) t ∧
        s.snapOf p.primary ∈ t.grd.snaps ∧ s.snapOf p.twin ∈ t.grd.snaps ∧
        (∀ c, c < 33 → t.signature p.primary c = 0 ∧ t.signature p.twin c = 0) ∧ t.regs = s.regs ∧ t.mem = s.mem) ∧
      (p.restoring = true → s.pairRuns p = true → ∀ x y, (s.grd.snaps.filter fun x => x.blk == p.primary || x.blk == p.twin) = [x, y] →
        ∃ t, Next (exec (.rollbackRestoreDone n) s) t ∧ t.regs = (s.regs.backBlock x.blk x.regs).backBlock y.blk y.regs ∧ t.mem.cells = s.mem.cells ∧
          ∃ q ∈ t.grd.pairs, q.primary = n ∧ q.restoring = false ∧ q.arrived = [] ∧ q.go = [] ∧ q.rollbacks = p.rollbacks + 1))

/-! ## Errors and power -/

/-- R332 to R334, R339, R346 to R348, R353, R356 to R358: a write of MODE starts a re-encoding pass, line by line; the sweeper sweeps one line of each
window; an evacuation moves line by line to a spare slice; a row that is due is repaired where a spare is left; injection registers take their writes;
a yoke window chooses levels and PREF; byte budgets are refilled and charged. The model's choices: vector 65 for a row with no spare (log 35), whether
a spare is left, a free value (log 49), the order of the lines that are swept and a pass restarted by a second write of MODE (log 27), and the window
that an event closes (log 1). -/
def Obligations.ErrorPowerEventsComplete : Prop :=
  ∀ (n : Nat) (v : Word) (w : DWord) (iu il : BitVec 12) (s : State),
    (5 ≤ s.host.boot → n < 128 → v.toNat % 4 < 2 → ∃ t, Next (exec (.slceccWrite n v) s) t ∧ (t.ecc n).mode = v.toNat % 4 ∧ (t.ecc n).busy = true ∧
      (t.ecc n).pos = 0 ∧ t.regs = s.regs ∧ t.mem = s.mem) ∧
    ((s.ecc n).busy = true →
      ((s.ecc n).pos + 1 < arrayLines → ∃ t, Next (exec (.reencodeLine n) s) t ∧ t.ecc n = { s.ecc n with pos := (s.ecc n).pos + 1 } ∧ t.mem = s.mem) ∧
      (arrayLines ≤ (s.ecc n).pos + 1 → ∃ t, Next (exec (.reencodeLine n) s) t ∧ (t.ecc n).busy = false ∧ t.mem = s.mem)) ∧
    (n < 128 → (s.ecc n).swept ≠ s.now / 2048 + 1 →
      Next (exec (.sweepForce n) s) ((s.reach (s.now / 2048 * 2048 + 2047)).sweep n) ∧
      ∃ t, Next (exec (.sweepLine n) s) t ∧ (t.ecc n).sweep = ((s.ecc n).sweep + 1) % arrayLines ∧ (t.ecc n).swept = s.now / 2048 + 1 ∧ t.regs = s.regs) ∧
    (n < 128 → (∀ e ∈ s.sl.evacs, e.slice ≠ n) →
      (s.spareSlice (sliceDie n) = true → ∃ t, Next (exec (.sliceEvacuate n) s) t ∧ t.sl.evacs = s.sl.evacs ++ [{ slice := n, pos := 0, total := arrayLines }] ∧
        t.regs = s.regs ∧ t.mem = s.mem) ∧
      (s.spareSlice (sliceDie n) = false → (s.ecc n).degraded = false → ∃ t, Next (exec (.sliceEvacuate n) s) t ∧ (t.ecc n).degraded = true ∧
        t.host = (s.msi 65).host ∧ t.regs = s.regs ∧ t.mem = s.mem)) ∧
    (∀ e r, (s.sl.evacs.find? fun e => sliceDie e.slice == sliceDie n) = some e → e.slice = n → r = s.arrayRead n e.pos 0 →
      ∃ t, Next (exec (.evacLineMove n) s) t ∧ t.regs = s.regs ∧ t.mem = r.mem ∧ t.mem.cells = s.mem.cells ∧
      (e.pos + 1 < e.total → t.sl.evacs = r.sl.evacs.map fun x => if (x.slice == n) = true then { x with pos := x.pos + 1 } else x) ∧
      (e.total ≤ e.pos + 1 → (t.sl.evacs = r.sl.evacs.filter fun x => x.slice != n) ∧ t.sl.replaced = r.sl.replaced ++ [n] ∧ t.host = (r.msi 65).host)) ∧
    (n ∈ s.sl.rowDue → ∃ t, Next (exec (.hbmRowRepair n) s) t ∧
      mget 0 t.sl.rows n = mget 0 s.sl.rows n + (if Config.rowSpare n (mget 0 s.sl.rows n) = true then 1 else 0) ∧
      t.sl.rowDue = s.sl.rowDue.erase n ∧ t.host = (s.msi 65).host ∧ t.regs = s.regs ∧ t.mem = s.mem) ∧
    (n ∉ s.sl.rowDue → Next (exec (.hbmRowRepair n) s) s) ∧
    (5 ≤ s.host.boot → n < 128 → ∀ which, ∃ t, Next (exec (.slcinjWrite n which w) s) t ∧ t.regs = s.regs ∧ t.mem = s.mem ∧
      t.ecc n = if which = true then { s.ecc n with inj1 := injWrite (s.ecc n).inj1 w } else { s.ecc n with inj0 := injWrite (s.ecc n).inj0 w }) ∧
    (∀ d x y k, n < 24 → k = max (s.now / 1024 - 7) ((s.yoke n).win + 1) → d = max iu.toNat il.toNat - min iu.toNat il.toNat → x = max iu.toNat il.toNat → y = s.yoke n →
      (s.clusterOut (2 * n) = false → s.clusterOut (2 * n + 1) = false → ∃ t, Next (exec (.yokeWindowEnd n iu il) s) t ∧ t.regs = s.regs ∧ t.mem = s.mem ∧
        t.yoke n = {
          pref := if il.toNat < iu.toNat then 1 else 0
          glev := if 25 * d ≤ 4 * x then y.glev - 1 else min (y.glev + 1) 4
          blev := if 25 * d ≤ 2 * x then y.blev - 1 else if 25 * d ≤ 4 * x then min (y.blev + 1) 4 else 4
          iu := iu, il := il, win := k, past := ((k * 1024, y.pref, y.glev) :: y.past).take 3 } ∧
        t.clk = (if y.win < s.now / 1024 then s else s.reach ((s.now / 1024 + 1) * 1024)).clk) ∧
      (s.clusterOut (2 * n) = true → s.clusterOut (2 * n + 1) = false → ∃ t, Next (exec (.yokeWindowEnd n iu il) s) t ∧ (t.yoke n).pref = 1 ∧ (t.yoke n).glev = 0) ∧
      (s.clusterOut (2 * n) = false → s.clusterOut (2 * n + 1) = true → ∃ t, Next (exec (.yokeWindowEnd n iu il) s) t ∧ (t.yoke n).pref = 0 ∧ (t.yoke n).glev = 0)) ∧
    (n < 48 → (s.bud n).ivl ≤ s.now / 2048 → s.now + 2048 < 2 ^ 64 → ∃ t, Next (exec (.budgetIntervalStart n) s) t ∧ (t.bud n).budget = (s.bud n).next ∧
      (t.bud n).ivl = max (s.now / 2048) ((s.bud n).ivl + 1) ∧ t.regs = s.regs ∧ t.mem = s.mem ∧ ((s.bud n).port = [] → (t.bud n).rem = 64 * (s.bud n).next)) ∧
    (∀ r, (s.pipe.reqs.find? fun r => r.id == n) = some r → r.charged = false →
      (∀ x ∈ s.pipe.reqs, x.core = r.core → lineOf x.pa = lineOf r.pa → x.id < r.id → x.charged = true) →
      (((s.bud (coreCluster r.core)).port.any fun w => w.who == .req && w.id == n) = false → Next (exec (.clusterPortCharge n) s) (s.chargeReq r)) ∧
      (((s.bud (coreCluster r.core)).port.any fun w => w.who == .req && w.id == n) = true →
        Next (exec (.clusterPortCharge n) s) (s.interval (coreCluster r.core))))

/-- R360: the quota of a context. A write of EQCFG sets REM to QUOTA, a PERIOD of 0 or above 1,000 leaving the register; the first refill comes PERIOD
milliseconds after it and the others every PERIOD; at each REM is QUOTA; each charge takes from REM down to 0, and QUOTA 0 means no limit. After reset
PERIOD is 1,000 and QUOTA 0. A charge that brings REM to 0 stops every running or placed block of the context, its swap-out due and its quota awaited,
and one that is being restored once it is back (R361). The model's choices: a block under restore is stopped once it is back, and what a charge counts
for each block (log 33); a write with a bad PERIOD is ignored whole (log 34). -/
def Obligations.EnergyQuotaRule : Prop :=
  ∀ (n : Nat) (w : DWord) (s : State),
    ((State.reset.ctx n).period = 1000 * 1650000 ∧ (State.reset.ctx n).quota = 0) ∧
    (∀ amount l w, w = (if (s.block n).charged < s.now / 1024 then s.now / 1024 else s.now / 1024 + 1) → (s.block n).charges w = true → l = s.launchOf n →
      (0 < (s.ctx l.ctx).quota → (bits (s.ctx l.ctx).eqrem.toNat 0 32) ≤ amount →
        ∃ t, Next (exec (.energyCharge n amount) s) t ∧ bits (t.ctx l.ctx).eqrem.toNat 0 32 = 0 ∧ t.regs = s.regs ∧ t.mem = s.mem ∧
          bits (t.ctx l.ctx).eqrem.toNat 32 32 = (bits (s.ctx l.ctx).eqrem.toNat 32 32 +
            (s.disp.blocks.filter fun x =>
              (s.launch x.launch).ctx == l.ctx && !x.quotaWait && (x.st == .running || x.st == .placed || x.st == .restoring)).length) % 2 ^ 32 ∧
          mget 0 t.pow.meters (256 * l.ctx + l.ectx) = mget 0 s.pow.meters (256 * l.ctx + l.ectx) + amount ∧
          ∀ x ∈ s.disp.blocks, s.block x.id = x → (s.launch x.launch).ctx = l.ctx → x.quotaWait = false →
            (x.st = .running ∨ x.st = .placed → (t.block x.id).st = .draining ∧ (t.block x.id).quotaWait = true ∧ Instr.swapOut x.id ∈ t.sch.agenda) ∧
            (x.st = .restoring → (t.block x.id).quotaWait = true)) ∧
      ((s.ctx l.ctx).quota = 0 ∨ amount < bits (s.ctx l.ctx).eqrem.toNat 0 32 →
        ∃ t, Next (exec (.energyCharge n amount) s) t ∧ t.regs = s.regs ∧ t.mem = s.mem ∧ t.sch = s.sch ∧
          (∀ b, (t.block b).st = (s.block b).st ∧ (t.block b).quotaWait = (s.block b).quotaWait) ∧
          bits (t.ctx l.ctx).eqrem.toNat 32 32 = bits (s.ctx l.ctx).eqrem.toNat 32 32 ∧
          mget 0 t.pow.meters (256 * l.ctx + l.ectx) = mget 0 s.pow.meters (256 * l.ctx + l.ectx) + amount ∧
          ((s.ctx l.ctx).quota ≠ 0 → bits (t.ctx l.ctx).eqrem.toNat 0 32 = bits (s.ctx l.ctx).eqrem.toNat 0 32 - amount))) ∧
    ((s.ctx n).eqnext ≠ 0 → ∃ t, Next (exec (.quotaRefill n) s) t ∧ bits (t.ctx n).eqrem.toNat 0 32 = (s.ctx n).quota ∧
      (t.ctx n).eqnext = (s.ctx n).eqnext + (s.ctx n).period ∧
      bits (t.ctx n).eqrem.toNat 32 32 = bits (s.ctx n).eqrem.toNat 32 32 ∧ t.regs = s.regs ∧ t.mem = s.mem) ∧
    (∀ per, per = w.toNat / 2 ^ 54 → 5 ≤ s.host.boot → n < 128 →
      (1 ≤ per → per ≤ 1000 → ∃ t, Next (exec (.eqcfgWrite n w) s) t ∧ (t.ctx n).period = per * 1650000 ∧ (t.ctx n).quota = w.toNat % 2 ^ 32 ∧
        (t.ctx n).eqcfg.toNat = per * 2 ^ 54 + w.toNat % 2 ^ 32 ∧ bits (t.ctx n).eqrem.toNat 32 32 = bits (s.ctx n).eqrem.toNat 32 32 ∧
        bits (t.ctx n).eqrem.toNat 0 32 = w.toNat % 2 ^ 32 ∧ (t.ctx n).eqnext = s.now + per * 1650000) ∧
      (per = 0 ∨ 1000 < per → Next (exec (.eqcfgWrite n w) s) s))

/-! ## The host -/

/-- R302, R327, R328, R340, R363 to R371: registers take the driver's writes, FEATACC keeping the bits that FEAT0 has until a record is taken; a
CXL.mem access to a line reads or writes it; a port retrains and comes up again; firmware that verifies is installed, a mailbox answers, and a package
reset keeps memory and the firmware. The model's choices: a package reset keeps memory and firmware, and the order in which the steps of start-up end
(log 34); the answer to SPDM and the parts of the image that a signature is checked on are free values (log 8). -/
def Sys2Proof.Machine.HostRegistersClaim : Prop :=
  ∀ (n : Nat) (v : Word) (w : DWord) (s : State), 5 ≤ s.host.boot →
    (s.host.featLocked = false → Next (exec (.feataccWrite v) s) { s with host := { s.host with featacc := v &&& 0xF, featWritten := true, boot := max s.host.boot 6 } }) ∧
    (s.host.featLocked = true → Next (exec (.feataccWrite v) s) s) ∧
    (n < 64 → Next (exec (.creadWrite n v) s) (s.setQueue n { s.queue n with cread := v.toNat })) ∧
    (n < 128 → ∃ t, Next (exec (.fqreadWrite n v) s) t ∧ (t.ctx n).fqread = v.toNat ∧ t.regs = s.regs ∧ t.mem = s.mem ∧
      ∀ f ∈ s.sch.faults, f.toCore = false → f.written = false → s.ctxOf f.blk = n → Instr.faultEntryWrite f.id ∈ t.sch.agenda) ∧
    (∀ r, ∃ t, Next (exec (.registerWrite r w) s) t ∧ t.mem.cells = s.mem.cells ∧
      (∀ c, r = .topTable c → c < 128 → (t.ctx c).top = w.toNat) ∧ (∀ c, r = .privileged c → c < 128 → (t.ctx c).privileged = w.getLsbD 0) ∧
      (∀ c, r = .tenant c → c < 128 → (t.ctx c).tenant = w.toNat % 16) ∧ (∀ c, r = .wdl c → c < 128 → (t.ctx c).wdl = w.toNat % 64) ∧
      (∀ c, r = .bpmask c → c < 128 → (t.ctx c).bpmask = w.setWidth 16) ∧ (∀ c, r = .fqbase c → c < 128 → (t.ctx c).fqbase = w.toNat) ∧
      (∀ q, r = .qbase q → q < 64 → (t.queue q).qbase = w.toNat) ∧ (∀ q, r = .qlog q → q < 64 → (t.queue q).qlog = w.toNat % 32) ∧
      (∀ q, r = .tailpa q → q < 64 → (t.queue q).tailpa = w.toNat ∧ (t.queue q).shared = false) ∧
      (∀ c, r = .clbudget c → c < 48 → (t.bud c).next = w.toNat % 2 ^ 16) ∧
      (∀ i, r = .cmd i → i < 16 → mget 0 t.host.cmd i = w.setWidth 32) ∧
      (r = .cmdgo → w = 1 → s.host.cmdRun = .idle → t = s.runCommand) ∧ (∀ i, r = .readOnly i ∨ r = .unnamed i → t = s)) ∧
    (∀ log m key r, n < 4 → key = 4 * n + (match log with
        | LogKind.violation => 0
        | .array => 1
        | .bus => 2) → r = mget .init s.sl.logs key → r.read ≤ m → m ≤ r.written →
      ∃ t, Next (exec (.logReadIndexWrite n log m) s) t ∧ mget .init t.sl.logs key = { r with read := m, entries := r.entries.filter fun e => m ≤ e.1 } ∧
        t.regs = s.regs ∧ t.mem = s.mem) ∧
    (∀ addr data write t pa, n < 4 → (s.port n).up = true → addr + data.length ≤ 2 ^ 37 → (∀ a ∈ s.host.heldAcc, a.port ≠ n) →
      pa = n * 2 ^ 37 + addr → data ≠ [] → pa % 64 + data.length ≤ 64 → s.hostAccess ⟨n, addr, data, write, s.now⟩ = some t →
      Next (exec (.hostMemAccess n addr data write) s) t ∧
      (write = true → (∀ il, il = s.physIlv (lineOf pa * 64) → s.oneHome (homeSlice il.1 il.2 (lineOf pa)) (lineOf pa) → t.memBytes pa data.length = data) ∧
        ∀ a, a < pa ∨ pa + data.length ≤ a → ¬ s.ownAt a → t.memByte a = s.memByte a) ∧
      (write = false → ∀ a, ¬ s.ownAt a → t.memByte a = s.memByte a)) ∧
    (∀ addr data write a, n < 4 → (s.port n).up = true → addr + data.length ≤ 2 ^ 37 → a = (⟨n, addr, data, write, s.now⟩ : HostAcc) →
      ((s.host.heldAcc.any fun x => x.port == n) = true ∨ s.hostAccess a = none) →
      Next (exec (.hostMemAccess n addr data write) s) { s with host := { s.host with heldAcc := s.host.heldAcc ++ [a] } }) ∧
    ((s.port n).up = true → Next (exec (.linkRetrain n) s) (s.setPort n { up := true, retraining := true })) ∧
    (n < 4 → ∀ t, t = (s.setPort n { up := true, retraining := false }).hostSend s.host.out.length →
      Next (exec (.linkUp n) s) ((if (s.port n).retraining = true then t.msi 65 else t).serveHeld n)) ∧
    (∀ svn image, (signatureOk svn image = true → Config.minimumSvn ≤ svn →
        Next (exec (.firmwareUpdate svn image) s) (State.msi { s with host := { s.host with fwSvn := svn, fwImage := image } } 65)) ∧
      ((signatureOk svn image = false ∨ svn < Config.minimumSvn) → Next (exec (.firmwareUpdate svn image) s) (s.msi 65))) ∧
    (∀ msg, n < 4 → (s.port n).up = true →
      Next (exec (.spdmRequest n msg) s) { s with host := { s.host with spdm := (n, Config.spdmAnswer n msg s.host.fwImage s.host.fwSvn s.host.featacc s.repairs) :: s.host.spdm } }) ∧
    (∃ t, Next (exec .packageReset s) t ∧ t.mem = s.mem ∧ t.regs = State.reset.regs ∧ t.sch = State.reset.sch ∧ t.pipe = State.reset.pipe ∧
      t.clk.gcyc = 0 ∧ t.host.fwSvn = s.host.fwSvn ∧ t.host.fwImage = s.host.fwImage ∧ t.host.boot = State.reset.host.boot)

/-- R371: a port trains in step 4 of start-up, which ends once all four have. -/
def Sys2Proof.Machine.PortsTrainClaim : Prop :=
  ∀ (n : Nat) (s : State), n < 4 → s.host.boot = 4 →
    ∃ t, Next (exec (.linkUp n) s) t ∧ t.port n = { up := true, retraining := false } ∧ t.regs = s.regs ∧
      ((∀ m, m < 4 → m ≠ n → (s.port m).up = true) → t.host.boot = 5) ∧ ((∃ m, m < 4 ∧ m ≠ n ∧ (s.port m).up = false) → t.host.boot = 4)

/-- R302, R327, R328, R340, R363 to R371: the driver's registers, the host's accesses, the ports, firmware and the package reset. The model's choices:
a package reset keeps memory and firmware, and the order in which the steps of start-up end (log 34); the answer to SPDM and the parts of the image
that a signature is checked on are free values (log 8). -/
def Obligations.HostEventsComplete : Prop := HostRegistersClaim ∧ PortsTrainClaim

/-! ## Commands and debugging -/

/-- R204, R292, R314, R326, R346, R347, R373, R374: a command that starts drops the translations of a shootdown, serves a fault, repairs, or ends a
contract or a context, and firmware serves the faults of its own ring, a crew whose level has been stopped staying stopped; it ends with its status
when its conditions hold; the debug window's commands act on the selected crew, and its writes reach that crew's registers. The model's choices: an
entry of the firmware ring is named 2^32 + SEQ (log 42), CANCEL leaves an entry whose launch is not cancelled (log 34), and when DBG_STEP holds and
ends (log 38). -/
def Obligations.CommandEventsComplete : Prop :=
  ∀ (ctx n : Nat) (level : BitVec 2) (id v : Word) (s : State), 5 ≤ s.host.boot →
    (s.host.cmdRun = .idle →
      (∀ base len, (base % 2 ^ 15 = 0 → len % 2 ^ 15 = 0 → ∃ t, Next (exec (.shootdown ctx base len) s) t ∧
          (∀ e ∈ t.pipe.tlb, e.tr.inRange ctx base len = false) ∧ t.host.cmdRun ≠ .idle ∧ t.regs = s.regs ∧ t.mem = s.mem) ∧
        ((base % 2 ^ 15 ≠ 0 ∨ len % 2 ^ 15 ≠ 0) → Next (exec (.shootdown ctx base len) s) (s.cmdEnd 4))) ∧
      (n < 2 ^ 32 → s.entryOf ctx n = none → Next (exec (.faultResume ctx n) s) (s.cmdEnd 4) ∧ Next (exec (.faultSkip ctx n) s) (s.cmdEnd 4) ∧
        Next (exec (.faultKill ctx n) s) (s.cmdEnd 4) ∧ Next (exec (.faultCancel ctx n level id) s) (s.cmdEnd 4)) ∧
      (∀ f, n < 2 ^ 32 → s.entryOf ctx n = some f →
        Next (exec (.faultResume ctx n) s) ((s.continueFault f false).cmdEnd 0) ∧
        Next (exec (.faultSkip ctx n) s) ((s.continueFault f true).cmdEnd 0) ∧
        Next (exec (.faultKill ctx n) s) (((s.served f.id).stopLaunch (s.block f.blk).launch 2).cmdEnd 0) ∧
        Next (exec (.faultCancel ctx n level id) s) (((s.served f.id).cancelNow ctx level.toNat id.toNat).cmdEnd 0)) ∧
      (n < 384 → ((∀ c ∈ coresOf (coreCluster n), mget 0 s.disp.phys c = 0) → ∃ t, Next (exec (.repairSpareCore n) s) t ∧ t.host.cmdRun = .core n ∧ t.regs = s.regs ∧ t.mem = s.mem) ∧
        ((∃ c ∈ coresOf (coreCluster n), mget 0 s.disp.phys c ≠ 0) → Next (exec (.repairSpareCore n) s) (s.cmdEnd 1))) ∧
      (n < 48 → (∃ t, Next (exec (.repairClusterDrain n) s) t ∧ n ∈ t.disp.drained ∧ t.host.cmdRun = .drain n ∧ t.regs = s.regs ∧ t.mem = s.mem) ∧
        ∃ t, Next (exec (.repairClusterReturn n) s) t ∧ n ∉ t.disp.drained ∧ t.host = ((s.msi 65).cmdEnd 0).host) ∧
      (n < 128 → (s.spareSlice (sliceDie n) = true → Next (exec (.repairSpareSlice n) s) ((s.cmdWait (.evac n)).evacuate n)) ∧
        (s.spareSlice (sliceDie n) = false → (∀ e ∈ s.sl.evacs, e.slice ≠ n) → Next (exec (.repairSpareSlice n) s) (s.cmdEnd 1))) ∧
      (n % 2 ^ 15 = 0 → n < 2 ^ 52 → paRegion n = .hbm → ∃ t, Next (exec (.repairHbmPageRetire n) s) t ∧ n ∈ t.sl.retired ∧ t.host.cmdStatus = 0 ∧
        t.regs = s.regs ∧ t.mem = s.mem) ∧
      (n % 64 = 0 → Next (exec (.resctr ctx n) s) (s.driverOp ctx (.resctr n))) ∧ (n % 64 ≠ 0 → Next (exec (.resctr ctx n) s) (s.cmdEnd 4)) ∧
      Next (exec (.resend ctx) s) (s.driverOp ctx .resend) ∧
      (ctx < 128 → (s.ctx ctx).live = true → ∃ t, Next (exec (.ctxend ctx) s) t ∧ t.host.cmdRun = .ctxend ctx ∧ t.regs = s.regs ∧ t.mem = s.mem ∧
        ∀ l ∈ s.disp.launches, l.ctx = ctx → l.st ≠ .ended → (t.launch l.uid).stopped = true) ∧
      Next (exec (.commandUnknown n) s) (s.cmdEnd 4)) ∧
    (∀ f, s.entryIn true ctx n = some f →
      ((s.launchOf f.blk).stopped = false → Next (exec (.faultResume ctx (2 ^ 32 + n)) s) (((s.leaveTrap f false).stepOver f.blk f.crewNo).watchSync f.blk) ∧
        Next (exec (.faultSkip ctx (2 ^ 32 + n)) s) (((s.leaveTrap f true).stepOver f.blk f.crewNo).watchSync f.blk)) ∧
      ((s.launchOf f.blk).stopped = true → Next (exec (.faultResume ctx (2 ^ 32 + n)) s) (s.served f.id) ∧ Next (exec (.faultSkip ctx (2 ^ 32 + n)) s) (s.served f.id)) ∧
      Next (exec (.faultKill ctx (2 ^ 32 + n)) s) ((s.served f.id).stopLaunch (s.block f.blk).launch 2) ∧
      Next (exec (.faultCancel ctx (2 ^ 32 + n) level id) s) ((s.served f.id).cancelNow ctx level.toNat id.toNat)) ∧
    (s.entryIn true ctx n = none → Next (exec (.faultResume ctx (2 ^ 32 + n)) s) s ∧ Next (exec (.faultSkip ctx (2 ^ 32 + n)) s) s ∧
      Next (exec (.faultKill ctx (2 ^ 32 + n)) s) s ∧ Next (exec (.faultCancel ctx (2 ^ 32 + n) level id) s) s) ∧
    (∀ ids, s.host.cmdRun = .accesses ids → s.accessing ids = false → Next (exec .commandComplete s) (s.cmdEnd 0)) ∧
    (∀ k, s.host.cmdRun = .closed k → Next (exec .commandComplete s) (s.cmdEnd k)) ∧ (∀ k, s.host.cmdRun = .seq k → Next (exec .commandComplete s) s) ∧
    (∀ k, s.host.cmdRun = .core k → s.onCore k = [] → ∃ t, Next (exec .commandComplete s) t ∧ mget 0 t.disp.phys k = 8 ∧ k ∉ t.disp.retired ∧
      t.host = ((s.msi 65).cmdEnd 0).host) ∧
    (∀ k, s.host.cmdRun = .drain k → (∀ c ∈ coresOf k, s.onCore c = []) → Next (exec .commandComplete s) ((s.msi 65).cmdEnd 0)) ∧
    (∀ k, s.host.cmdRun = .evac k → (∀ e ∈ s.sl.evacs, e.slice ≠ k) → Next (exec .commandComplete s) (s.cmdEnd 0)) ∧
    (∀ c, s.host.cmdRun = .ctxend c → Next (exec .commandComplete s) (s.endCtxDone c)) ∧
    (∀ b c, s.dbgBlock = some b → c = s.dbgCrew → s.dbgOpens b c = true →
      Next (exec .dbgResume s) (((s.faultsOf b c).foldl (fun t f => t.continueFault f false) s).watchSync b) ∧
      Next (exec .dbgKill s) (s.stopLaunch (s.block b).launch 2) ∧
      ((s.launchOf b).stopped = false → ∃ t, Next (exec .dbgStep s) t ∧ t.stepping b c = true ∧ t.regs = s.regs ∧ t.mem = s.mem ∧
        ∀ f ∈ s.faultsOf b c, f.inspect = true → f.moved = false → ∃ u ∈ t.sch.bundles, u.blk = b ∧ u.members = f.threads ∧ u.wait = .ready) ∧
      (∀ reg lane, s.dbgFeed = false → reg < (s.launchOf b).regs → reg < 1024 → lane < 32 →
        Next (exec (.dbgStateWrite (128 * reg + 4 * lane) v) s) (s.setRegs (s.regs.setCell b c reg lane v))) ∧
      ∀ reg, reg < 64 → Next (exec (.dbgStateWrite (0x20000 + 4 * reg) v) s) (s.setRegs (s.regs.setK b c reg v))) ∧
    ((∀ b, s.dbgBlock = some b → s.dbgOpens b s.dbgCrew = false) →
      Next (exec (.dbgStateWrite n v) s) { s with host := { s.host with dbgErr := true } }) ∧
    ∃ t, Next (exec (.dbgsel0Write v) s) t ∧ t.dbgsel 0 = v.toNat % 128 ∧ t.host.dbgErr = false ∧ t.regs = s.regs ∧ t.mem = s.mem

/-! ## The machine -/

/-- R108, R111, R112, R121: words written out from the tables decode to the instructions they stand for: IADD on registers and on the
uniform path with a constant and a guard, EXIT, FENCE, P2V, LD with an error predicate and its modifier word, a clause header; a word with a reserved field or an
unassigned opcode does not decode. -/
def Obligations.SampleWordsDecode : Prop :=
  decodeTableWord 32 0x00020818 = some (.iadd 1 2 3 0) ∧ decodeTableWord 32 0x00830A29 = some (.iadd 0x41 0x42 0x45 1) ∧
  decodeTableWord 32 0x5C000000 = some (.exit 0) ∧ decodeTableWord 32 0x680000E0 = some (.fence 3 4) ∧
  decodeTableWord 32 0x6C120000 = some (.p2v 9 0) ∧
  decodeTableWord 64 0x0C42FFFC75100818 = some (.ld 8 2 3 0 { recNo := 3, pol := 4, wid := 2, off := 0xFFFC }) ∧
  decodeTableWord 32 0xFF80134F = some (.clauseHeader 0x801 3 4 15) ∧
  decodeTableWord 32 0x6C120008 = none ∧ decodeTableWord 32 0xF0000000 = none

/-- R107 to R112, R128: for every instruction, the decoder reads its words back with every field, whatever word follows them. -/
def Obligations.DecodeEncode : Prop := ∀ i : Instr, Sys2Proof.Laws.RoundTrip.Statement i

/-- R19, R107 to R111, R169, R316, R317, R355: a step takes the due event first; else, where a bundle stands at its instruction and no yoke gates its
quarter, the instruction whose words stand at its PC acts; where it is a header that has passed, the bundle keeps its place, and else the watchdogs of
a bundle that has issued it restart (R317), a step of the control core is used (R374), the bundle goes back among the bundles, and the other path's
candidate of the cycle follows; the clock advances one cycle once nothing of the cycle is left to issue. A word that does not decode raises ILLOP.
That a due event of the agenda comes first, then the issuing bundle, and that the clock advances by one once nothing of the cycle is left, is the
model's choice (log 1), which no rule of the manual gives. -/
def Obligations.StepRunsDecoded : Prop :=
  ∀ (s : State),
    (∀ i rest t, s.sch.agenda = i :: rest → exec i { s with sch := { s.sch with agenda := rest } } = .next t →
      step s = .next (if t.sch.curOn = true then t else t.ticked).settleHeat) ∧
    (s.sch.agenda = [] → s.sch.curOn = true → s.curGated = true → step s = .next s.ticked.settleHeat) ∧
    (s.sch.agenda = [] → s.sch.curOn = false → ∀ t, autoStep s = .next t → step s = .next (if t.sch.curOn = true then t else t.ticked).settleHeat) ∧
    (∀ i t u v, s.sch.agenda = [] → s.sch.curOn = true → s.curGated = false → fetchCur s = .instr i t → exec i t = .next u →
      v = (if (i.isHeader && u.sch.curOn && u.sch.cur.wait == .ready) = true then u
        else (((if crewBound i = true then u.joinFault s.sch.cur s.sch.nextFault else u).afterInstr s.sch.cur i).putBack).secondPath (s.faultedSince u)) →
      step s = .next (if v.sch.curOn = true then v else v.ticked).settleHeat) ∧
    (∀ va x y t w h pa, va = ((s.launchOf s.sch.cur.blk).codebase + s.sch.cur.pc.toNat) % 2 ^ 64 →
      s.translate s.curCore (s.launchOf s.sch.cur.blk).ctx va = (.ok x, y) → x.x = true → h = x.home va → pa = x.phys va →
      t = y.readLine h (lineOf pa) (s.launchOf s.sch.cur.blk).id → t.homeBad h pa 4 = false → w = BitVec.ofNat 32 (bytesToNat (t.homeBytes h pa 4)) →
      (∀ i, s.sch.cur.clause = none → decodeHeader w = .ok i → fetchCur s = .instr i t) ∧
      (∀ e, s.sch.cur.clause = none → decodeHeader w = .error e → fetchCur s = .wait t.noHeader) ∧
      (∀ c i, s.sch.cur.clause = some c → (hasExt (fop w).toNat && decide (2 ≤ c.left)) = false → decodeBody s.sch.cur.feed w none = .ok i →
        fetchCur s = .instr i t) ∧
      (∀ c i y u, s.sch.cur.clause = some c → (hasExt (fop w).toNat && decide (2 ≤ c.left)) = true → t.fetchWord (s.sch.cur.pc + 4) = .ok y u →
        decodeBody s.sch.cur.feed w (some y) = .ok i → fetchCur s = .instr i u) ∧
      (∀ c e, s.sch.cur.clause = some c → (hasExt (fop w).toNat && decide (2 ≤ c.left)) = false → decodeBody s.sch.cur.feed w none = .error e →
        fetchCur s = .wait (t.illop 1 false)))

/-- R82, R368: from every state in which memory is in its canonical form and FEATACC accepts only what FEAT0 names, a step gives such a
state. -/
def Obligations.StepKeepsInv : Prop := ∀ s t : State, Inv s → step s = .next t → Inv t

/-- The state after reset has the invariant. -/
def Obligations.ResetInv : Prop := Inv State.reset

/-- R67, R82, R333, R360, R371, Tables 5.10, 13.7, 25.1, 26.1, 27.1 to 27.4, 29.5: what the manual says of the state after reset: GCYC, the accepted
features, the masks, HMAP, the error modes, yokes, budgets, quotas and the command window; no launch, no pin, no contract, no repair. CLBSTALL 0 and
an MSC that holds no line are the model's choice (log 4): the manual gives them no reset value. -/
def Obligations.ResetState : Prop :=
  State.reset.clk.gcyc = 0 ∧ State.reset.host.featacc = 0 ∧ State.reset.host.featLocked = false ∧ State.reset.cmdstat = 1 ∧
  State.reset.disp.launches = [] ∧ State.reset.disp.blocks = [] ∧ State.reset.sl.pins = [] ∧ State.reset.sl.evacs = [] ∧ State.reset.sl.lines = [] ∧
  ∀ n m, State.reset.wayMask n m = 0xFFFF ∧ mget 0 State.reset.sl.hmap n = 0 ∧ (State.reset.ecc n).mode = 0 ∧ (State.reset.ecc n).busy = false ∧
    (State.reset.ecc n).inj0 = 0 ∧ (State.reset.ecc n).inj1 = 0 ∧ State.reset.yoke n = { pref := 0, glev := 0, blev := 0, iu := 0, il := 0, win := 0, past := [] } ∧
    (State.reset.bud n).budget = 0 ∧ (State.reset.bud n).stall = 0 ∧ (State.reset.ctx n).wdl = 32 ∧ (State.reset.ctx n).tenant = 0 ∧
    (State.reset.ctx n).quota = 0 ∧ (State.reset.ctx n).period = 1000 * 1650000 ∧ State.reset.reserve n = none ∧ State.reset.slcocc n m = BitVec.ofNat 32 (m * 2 ^ 28)

/-- R113, R116, R137 to R139, R42: a compute instruction with a vector d writes its result in every active lane whose guard is true, both
halves of a pair; every other register cell, every predicate, k-register and call state is as before; a crew with no such lane keeps its
flags, and memory, scratchpad and the host's registers are unchanged. -/
def Obligations.LanesCompute : Prop :=
  ∀ (sh : Shape) (fn : LaneFn) (d a b : Field) (g : Guard) (s t : State) (blk : Nat), t = s.computed sh fn d a b g → blk = s.sch.cur.blk →
    d.isK = false → s.sch.cur.members.Nodup →
    (∀ m ∈ s.sch.cur.members, m.lane < 32 ∧ m.crew < 32 ∧ s.regs.cellOf blk m.crew d + 1 < 1024) →
    (∀ m ∈ s.lanesOn g, ∀ x n, n = s.regs.cellOf blk m.crew d →
      x = (fn (s.regs.fenv blk m.crew) (s.regs.aval blk m a sh.wa) (s.regs.bval blk m sh.cst b sh.wb) (s.regs.vval blk m d sh.wd)).1 →
      t.regs.vcell blk m.crew n m.lane = x.setWidth 32 ∧ (sh.wd = true → t.regs.vcell blk m.crew (n + 1) m.lane = x.extractLsb' 32 32) ∧
      ∀ k, k < 1024 → k ≠ n → (sh.wd = true → k ≠ n + 1) → t.regs.vcell blk m.crew k m.lane = s.regs.vcell blk m.crew k m.lane) ∧
    (∀ b' c n l, c < 32 → n < 1024 → l < 32 → (b' ≠ blk ∨ (⟨l, c⟩ : Member) ∉ s.lanesOn g) → t.regs.vcell b' c n l = s.regs.vcell b' c n l) ∧
    (∀ c, (∀ m ∈ s.lanesOn g, m.crew ≠ c) → c < 33 → t.regs.crewSt blk c = s.regs.crewSt blk c) ∧
    (∀ b' c, t.regs.crewSt b' c = { s.regs.crewSt b' c with cfps := (t.regs.crewSt b' c).cfps }) ∧
    t.regs.k = s.regs.k ∧ t.regs.q = s.regs.q ∧ t.regs.p = s.regs.p ∧ t.regs.call = s.regs.call ∧ t.regs.parts = s.regs.parts ∧
    t.mem = s.mem ∧ t.sp = s.sp ∧ t.host = s.host ∧ t.disp = s.disp ∧ t.sch.cur.pc = s.sch.cur.pc + 4

namespace Sys2Proof.Machine

/-- The bit of FEATACC that an instruction needs (Table 13.7, R127), its words, and whether it is bound to a whole crew. -/
def featureOf : Instr → Option (Nat × Nat × Bool)
  | .gread _ _ _ _ | .gupd _ _ _ _ _ | .gcinch _ _ _ _ | .gclose _ _ _ _ | .gmount _ _ _ _ _ | .gdismt _ _ _ _ => some (0, 2, false)
  | .gfence _ => some (0, 1, false)
  | .kvfork _ _ _ _ | .kvfree _ _ _ => some (1, 2, false)
  | .kvapp _ _ _ | .kvhm _ _ _ _ | .assay _ _ _ _ => some (1, 2, true)
  | .mmai84 _ _ _ _ | .mmai4 _ _ _ _ => some (3, 2, true)
  | _ => none

end Sys2Proof.Machine

/-- R111, R127, R128, R312 to R314: an exception changes no register, flag, memory or scratchpad; the bundle stops at the instruction, and a fault
record holds the class, the code, the PC and the route; in swap mode the block stops to be swapped out, in inspect mode only the crew
does. ECCUNC in a launch that is not guarded ends it KILLED. An opcode that FEATACC does not accept raises ILLOP: the girth instructions and GFENCE (bit 0),
the KV instructions and ASSAY (bit 1), MMAI84 and MMAI4 (bit 3). -/
def Obligations.TrapEntry : Prop :=
  ∀ (i : TrapInfo) (s t : State) (u : Bundle) (l : Launch), t = s.takeTrap i → u = s.sch.cur → l = s.launchOf u.blk →
    (i.cls ≠ .eccunc → t.regs = s.regs ∧ t.mem = s.mem ∧ t.sp = s.sp ∧ t.pipe.pends = s.pipe.pends ∧ t.sch.curOn = false ∧
      (∃ f ∈ t.sch.faults, f.id = s.sch.nextFault ∧ f.blk = u.blk ∧ f.feed = u.feed ∧ f.pc = u.pc ∧ f.cls = i.cls ∧ f.code = i.code ∧
        f.time = s.now ∧ f.inspect = l.inspect ∧ (∀ m ∈ u.members, m ∈ f.threads) ∧
        (f.toCore = true ↔ (s.ctx l.ctx).routing.getLsbD (i.cls.num - 1) = true ∨ (s.ctx l.ctx).fqset = false)) ∧
      (l.inspect = true → t.disp = s.disp) ∧
      (l.inspect = false → (s.block u.blk).st = .running → (t.block u.blk).st = .draining ∧ Instr.swapOut u.blk ∈ t.sch.agenda)) ∧
    (i.cls = .eccunc → l.guarded = false → l.uid ≠ 0 → t.regs = s.regs ∧ t.mem = s.mem ∧ t.pipe.pends = s.pipe.pends ∧ (t.launch l.uid).stopped = true ∧
      2 ≤ (t.launch l.uid).status) ∧
    (∀ j n words whole, featureOf j = some (n, words, whole) → s.host.featacc.getLsbD n = false → Next (exec j s) (s.illop words whole))

/-- R204, R314: RESUME puts the threads of a fault back at the faulting instruction, or behind a TRAP of codes 0 to 127, and SKIP behind it; the
entry is served, and a block swapped out for it may be placed again once no other entry of it awaits service. The threads of a launch that has been stopped stay
where they are. -/
def Obligations.TrapReturn : Prop :=
  ∀ (ctx seq : Nat) (f : FaultRec) (s : State), 5 ≤ s.host.boot → s.host.cmdRun = .idle → seq < 2 ^ 32 → s.entryOf ctx seq = some f → f.moved = false →
    (f.feed = true ∨ f.threads ≠ []) →
    ((s.launchOf f.blk).stopped = false →
      (∃ t, Next (exec (.faultResume ctx seq) s) t ∧ t.regs = s.regs ∧ t.mem = s.mem ∧ (∀ g ∈ t.sch.faults, g.id ≠ f.id) ∧ t.host.cmdStatus = 0 ∧
        (∃ u ∈ t.sch.bundles, u.blk = f.blk ∧ u.feed = f.feed ∧ u.members = f.threads ∧ u.wait = .ready ∧
          u.pc = if f.nextWord = true then f.pc + BitVec.ofNat 32 (4 * f.words) else f.pc) ∧
        (f.inspect = false → f.blk ≠ 0 → (s.block f.blk).id = f.blk → (∀ g ∈ s.sch.faults, g.blk = f.blk → g.inspect = false → g.id = f.id) →
          (t.block f.blk).placeable = true)) ∧
      (∃ t, Next (exec (.faultSkip ctx seq) s) t ∧ t.regs = s.regs ∧ t.mem = s.mem ∧ (∀ g ∈ t.sch.faults, g.id ≠ f.id) ∧
        (∃ u ∈ t.sch.bundles, u.blk = f.blk ∧ u.feed = f.feed ∧ u.members = f.threads ∧ u.wait = .ready ∧
          u.pc = f.pc + BitVec.ofNat 32 (4 * f.words)))) ∧
    ((s.launchOf f.blk).stopped = true → ∀ i, (i = .faultResume ctx seq ∨ i = .faultSkip ctx seq) →
      ∃ t, Next (exec i s) t ∧ t.regs = s.regs ∧ t.mem = s.mem ∧ t.sch.bundles = s.sch.bundles ∧ t.host.cmdStatus = 0 ∧
        ∀ g ∈ t.sch.faults, g.id = f.id → g.served = true)

/-! ## Guarded pairs at an instruction -/

namespace Sys2Proof.Machine

/-- An instruction whose action is on shared state, or in other blocks' scratchpads: what it asks of the issue stage, its records in the signature where it is a commit
point (R342, R343), its action, and whether each block of a guarded pair acts for itself (R341). -/
structure SharedForm where
  q : Issue
  recs : Option (State → List (Nat × List Byte))
  act : State → State
  both : Bool := false

/-- A vector atomic. -/
def atomShared (f : AtomForm) (d a : Field) (pred ep sp : Nat) (g : Guard) (m : MemMod) (s : State) : SharedForm :=
  { q := atomIssue f d a pred g m s, recs := some fun t => t.atomRecord f (t.elemLanes a g) m (t.groupData d f.bytes), act := fun t => t.atomV f d a ep sp g m }
/-- A girth instruction on a slot or a tag, with its operation and operand group in the signature. -/
def girthShared (keys : List RegKey) (a : Field) (g : Guard) (op : Nat) (group : State → List Word) (act : State → State) : SharedForm :=
  { q := girthIssue keys g, recs := some fun t => t.oneRecord (t.girthRecord a op (group t)), act := act }

/-- The form of an instruction in state s, none where its action is its own block's. -/
def sharedOf (s : State) : Instr → Option SharedForm
  | .waitcmp u cond a b g m => some {
      q := { words := 2, guard := g, keys := s.aKeys a 1 ++ s.bKeys false b (regsOf (m.wid == 3)) ++ s.polKeys m.pol.toNat }
      recs := some fun t => t.crewRecords (t.waitRecord cond a b g m)
      act := fun t =>
        if t.polIllop m false true then t.illop 2 false
        else match t.checkRecord (t.record t.sch.cur.blk m.recNo.toNat) (memOff m) (memWidth m) 2 { r := true } (t.elemLanes a g) with
          | .trap i => t.takeTrap i
          | .miss t => t.park .again 0
          | .ok v lanes _ => if v.loadBlocked lanes then t.park .again 0 else v.waitOn u cond b m lanes }
  | .atom d a b g m => some (atomShared ⟨(atomOp b).toNat, memWidth m, true⟩ d a (fieldEP b).toNat (fieldEP b).toNat 0 g m s)
  | .red d a b g m => some (atomShared ⟨(atomOp b).toNat, memWidth m, false⟩ d a 0 0 0 g m s)
  | .cas d a b g m => some (atomShared ⟨12, memWidth m, true⟩ d a (fieldEP b).toNat 0 (fieldEP b).toNat g m s)
  | .atomk d a b g m =>
    let f : AtomForm := ⟨(atomOp b).toNat, memWidth m, true⟩
    some { q := uniIssue d a f.regs g m (s.epKeys true (fieldEP b).toNat) s
           recs := some fun t => t.atomRecord f (t.uniformElem a g) m fun x => t.regs.kBytes t.sch.cur.blk x.crew d.num f.bytes
           act := fun t => t.atomK f d a (fieldEP b).toNat g m }
  | .gread d a g m => some (girthShared (s.fieldKeys d false 1 ++ s.fieldKeys a true 1 ++ s.qdKeys m) a g 0x90 (fun _ => [])
      fun t => t.onSlot a g (t.fieldKeys d false 1 ++ t.qdKeys m) fun t => .read (t.cellD d) (girthQ m))
  | .gupd d a b g m =>
    let n := m.w64.toNat + 1
    some (girthShared (s.fieldKeys d true n ++ s.fieldKeys a true 1 ++ s.fieldKeys b true (gupdRegs m) ++ s.qdKeys m) a g
      (0x100 + 512 * m.op.toNat + 16 * m.w64.toNat + m.word.toNat) (fun t => t.groupK b (gupdRegs m))
      fun t => t.onSlot a g (t.fieldKeys d true n ++ t.qdKeys m) fun t =>
        let args := atomArgs (4 * n) (t.regs.kBytes t.sch.cur.blk t.sch.cur.crew b.num (4 * gupdRegs m))
        .update m.op.toNat m.word.toNat (m.w64 == 1) args.1 args.2 d.num (girthQ m))
  | .gcinch d a g _ => some (girthShared (s.fieldKeys d false 1 ++ s.fieldKeys a true 1) a g 0x92 (fun _ => [])
      fun t => t.onSlot a g (t.fieldKeys d false 1) fun t => .cinch (t.cellD d))
  | .gclose a b g m => some (girthShared (s.fieldKeys a true 1 ++ s.fieldKeys b true 16 ++ s.qdKeys m) a g 0x93 (fun t => t.groupK b 16)
      fun t => t.onSlot a g (t.qdKeys m) fun t => .close (t.groupK b 16) (girthQ m))
  | .gmount d a b g _ => some (girthShared (s.fieldKeys d true 1 ++ s.fieldKeys a true 1 ++ s.fieldKeys b true 16) a g 0x94 (fun t => t.groupK b 16)
      fun t =>
        if !t.uniformOn g then t.emptyOp t.seta 2 true
        else if t.opK a 0 = 0 then t.illop 2 false
        else if (t.launchOf t.sch.cur.blk).glen = 0 then t.girthSeg
        else t.girthSend { Pend.blank with regs := t.fieldKeys d true 1 } 0 (.mount (t.opK a 0) (t.groupK b 16) d.num))
  | .gdismt d a g m => some (girthShared (s.fieldKeys d false 1 ++ s.fieldKeys a true 1 ++ s.qdKeys m) a g (0x95 + 256 * m.op.toNat) (fun _ => [])
      fun t =>
        if m.op = 0 then t.onSlot a g (t.fieldKeys d false 1 ++ t.qdKeys m) fun t => .dismount none (t.cellD d) (girthQ m)
        else if !t.uniformOn g then t.emptyOp t.seta 2 true
        else if (t.launchOf t.sch.cur.blk).glen = 0 then t.girthSeg
        else t.girthSend { Pend.blank with regs := t.fieldKeys d false 1 ++ t.qdKeys m } 0 (.dismount (some (t.opK a 0)) (t.cellD d) (girthQ m)))
  | .gfence scope => some {
      q := { feat := some 0 }, recs := some fun t => t.crewRecords fun _ => natToBytes 1 0x96, act := fun t => t.fence 3 scope.toNat true, both := true }
  | .kvapp a g m => some {
      q := kvIssue (s.fieldKeys a true 3 ++ s.vrKeys m.vr.toNat 8) g, recs := some fun t => t.oneRecord (t.kvappRecord a m)
      act := fun t => if t.uniformOn g then t.kvapp a m else t.emptyOp t.setb 2 false }
  | .cpym a m => some { q := copyIssue a (2 + s.copyRank a) s, recs := some fun _ => [], act := fun t => t.copyMembers a m, both := true }
  | .cpys a _ => some {
      q := copyIssue a (2 + s.copyRank a) s, recs := some fun t => t.oneRecord (t.copyRecord a [0] (2 + t.copyRank a)), act := fun t => t.copyOut a }
  | .txpose a _ => some { q := copyIssue a 6 s, recs := some fun t => t.oneRecord (t.copyRecord a [0, 1] 6), act := fun t => t.transpose a }
  | .kvfree a g _ => some {
      q := { words := 2, bound := .crew, guard := g, feat := some 1, keys := s.fieldKeys a true 1 }, recs := none
      act := fun t =>
        if !t.uniformOn g then t.emptyOp t.setb 2 false
        else if t.quota (t.ctxOf t.sch.cur.blk) ≤ (t.opK a 0).toNat then t.kvProt false
        else (t.kvSend { Pend.blank with flag := t.setb, seta := false } (.free (t.opK a 0).toNat)).advance 2 }
  | .unpin d a g _ => some { q := groupIssue d a 2 g s, recs := none, act := fun t => t.contract d g (.unpin (t.opPair a 0)) }
  | .pin d a g m => some {
      q := groupIssue d a 4 g s, recs := none, act := fun t => t.contract d g (.pin (t.opPair a 0) (t.opPair a 2) (m.kind == 1) m.life.toNat) }
  | .cctr d a g _ => some {
      q := groupIssue d a 8 g s, recs := none
      act := fun t =>
        let x := (t.opK a 4).toNat
        t.contractPriv d g (.cctr (t.sliceSet a) (bits x 16 4) (BitVec.ofNat 16 x) (bits x 20 12 != 0)) }
  | .stpart d a g m => some {
      q := groupIssue d a 4 g s, recs := none
      act := fun t => t.contractPriv d g (.stpart (t.opK a 0).toNat (t.opK a 1).toNat (t.opK a 2).toNat (m.life.toNat % 4)) }
  | .kvfork d a g m => some {
      q := { words := 2, bound := .crew, guard := g, feat := some 1, keys := s.fieldKeys d true 1 ++ s.fieldKeys a true 1 ++ s.predKeys true m.qd.toNat }, recs := none
      act := fun t =>
        let u := t.sch.cur
        let p := (t.opK a 0).toNat
        if !t.uniformOn g then t.emptyOp t.seta 2 true
        else if t.quota (t.ctxOf u.blk) ≤ p then t.kvProt false
        else (t.kvSend { Pend.blank with flag := t.seta, regs := [.k u.blk u.crew d.num, .q u.blk u.crew m.qd.toNat] } (.fork p d.num m.qd.toNat)).advance 2 }
  | .kvhm d a g m => some {
      q := kvIssue (s.fieldKeys d true 1 ++ s.fieldKeys a true 1 ++ s.vrKeys m.vr.toNat 8) g, recs := none
      act := fun t =>
        let u := t.sch.cur
        let p := (t.opK a 0).toNat
        if !t.uniformOn g then t.emptyOp t.seta 2 true
        else if t.quota (t.ctxOf u.blk) ≤ p then t.kvProt true
        else (t.kvSend { Pend.blank with flag := t.seta, regs := .k u.blk u.crew d.num :: t.vrKeys m.vr.toNat 8 }
            (.hallmark p d.num ((t.regs.crewSt u.blk u.crew).wb + m.vr.toNat))).advance 2 }
  | .cancelSelf l g => some {
      q := { bound := .crew, guard := g }, recs := none
      act := fun t =>
        let id := (t.launchOf t.sch.cur.blk).levelId l.toNat
        if t.uniformOn g && id != 0 then t.cancelLevel l.toNat id else t.advance 1 }
  | .cancelId a l g => some {
      q := { bound := .crew, guard := g, keys := [.k s.sch.cur.blk s.sch.cur.crew a.toNat] }, recs := none
      act := fun t => if t.uniformOn g then t.cancelLevel l.toNat (t.regs.kreg t.sch.cur.blk t.sch.cur.crew a.toNat).toNat else t.advance 1 }
  | .wqpop d q g => some {
      q := { bound := .crew, guard := g, keys := [.k s.sch.cur.blk s.sch.cur.crew d.toNat, .q s.sch.cur.blk s.sch.cur.crew q.toNat] }, recs := none
      act := fun t => if t.uniformOn g then t.wqSend false 0 d.toNat q.toNat else t.advance 1 }
  | .wqpush a q g => some {
      q := { bound := .crew, guard := g, keys := [.k s.sch.cur.blk s.sch.cur.crew a.toNat, .q s.sch.cur.blk s.sch.cur.crew q.toNat] }, recs := none
      act := fun t =>
        if !t.uniformOn g then t.advance 1
        else if t.releaseWaits t.sch.cur.blk t.sch.cur.crew 4 then t.park .again 0
        else (t.nextEpoch t.sch.cur.blk t.sch.cur.crew).wqSend true (t.regs.kreg t.sch.cur.blk t.sch.cur.crew a.toNat) 0 q.toNat }
  | _ => none

end Sys2Proof.Machine

/-- R341 to R343: a block of a guarded pair at a commit point enters the instruction's records into its crews' signatures, arrives, and waits to issue
it again; once the comparison has let it go on, the primary acts and what its action has started is kept for the twin, which takes the results, or the
exception they came to, and changes no shared state, and a form in the blocks' own scratchpads acts in both; a form that is no commit point acts, and
is shared, without a comparison. The model's choices: an arrival is named by the code of the bundle that arrives (log 15), and CPYM and GFENCE act in
both blocks, the primary's operations being kept for the twin (log 16). -/
def Obligations.GuardedPairsCompare : Prop :=
  ∀ (i : Instr) (s t : State) (f : SharedForm) (p : Pair) (b c : Nat),
    sharedOf s i = some f → s.sch.curOn = true → s.passes i f.q = true → t = s.joined f.q.bound → b = t.sch.cur.blk → c = t.sch.cur.code → t.pairOf b = some p →
    (∀ r, f.recs = some r → (b, c) ∉ p.go → (b, c) ∉ p.arrived →
      Next (exec i s) ((((r t).foldl (fun v e => v.sign b e.1 e.2) t).arriveAt b c).park .again 0)) ∧
    (f.recs.isSome = true → (b, c) ∉ p.go → (b, c) ∈ p.arrived → Next (exec i s) (t.park .again 0)) ∧
    (f.recs = none ∨ (b, c) ∈ p.go → ∀ v, v = f.act t →
      (v.retries = true → Next (exec i s) v) ∧
      (v.retries = false →
        (∀ w, f.both = true ∨ p.primary = b → w = (if f.both = true then v else v.mapPair p.primary fun x => { x with acts := x.acts ++ [(c, State.started t v)] }) →
          Next (exec i s) (if f.recs.isSome = true then w.usedGo b c else w)) ∧
        (f.both = false → p.primary ≠ b →
          ((∀ e ∈ p.acts, e.1 ≠ c) → Next (exec i s) (t.park .again 0)) ∧
          (∀ e, p.acts.find? (fun a => a.1 == c) = some e →
            (∀ cls code va words w, (p.ended.filter fun g => e.2.contains g.id).findSome? (fun g => g.trap) = some (cls, code, va, words) →
              w = (t.mapPair p.primary fun q => { q with acts := q.acts.erase e, ended := q.ended.filter fun g => !(e.2.contains g.id) }).takeTrap
                { cls := cls, code := code, va := va, words := words, lane := lowLane t.sch.cur.members } →
              Next (exec i s) (if f.recs.isSome = true then w.usedGo b c else w)) ∧
            ((p.ended.filter fun g => e.2.contains g.id).findSome? (fun g => g.trap) = none →
              ∃ u, Next (exec i s) u ∧ u.mem = t.mem ∧ u.sl = t.sl ∧ u.kv = t.kv ∧ u.gi = t.gi ∧ u.disp.wq = t.disp.wq ∧ u.disp.cancels = t.disp.cancels ∧
                u.sp.engines = t.sp.engines)))))
end

