-- ==== Sys2Proof/Laws/Issue.lean ====
section
/-!
SUPPORT. What the issue stage can do: an instruction that passes it acts, in the state its threads have gathered in.
-/
namespace Sys2Proof.Machine

theorem scoreboard_go {s : State} {keys : List RegKey} (h : keys.any s.keyPending = false) : s.scoreboard keys = .go s := by
  simp [State.scoreboard, h]

theorem arrive_go {s : State} {mask : Word} {whole : Bool} {words : Nat} (h : s.hasLanes mask = true) :
    s.arrive mask whole words = .go { s with sch := { s.sch.withdraw s.sch.cur.blk s.sch.cur.crew s.sch.cur.pc with
      cur := { s.sch.cur with members := s.gathered }
      arrs := s.sch.arrs.filter fun r => !(r.blk == s.sch.cur.blk && r.crew == s.sch.cur.crew && r.pc == s.sch.cur.pc) } } := by
  unfold State.arrive
  exact if_pos h

/-- An instruction that passes the issue stage goes on in the gathered state. -/
theorem gate_of_passes {s : State} {i : Instr} {q : Issue} (h : s.passes i q = true) : gate i q s = .go (s.joined q.bound) := by
  unfold State.passes at h
  simp only [Bool.and_eq_true, Bool.not_eq_true'] at h
  obtain ⟨⟨⟨hi, hb⟩, hc⟩, hk⟩ := h
  have hbad : q.bad = false := by simpa using hb
  rcases hf : s.sch.cur.feed with _ | _
  · unfold State.boundOk at hc
    simp only [hf, Bool.false_or] at hc
    rcases hq : q.bound with _ | _ | m | _ <;> simp only [hq, Bool.and_eq_true, decide_eq_true_eq] at hc
    · simp only [hq, State.joined, Bound.all, Bool.not_false, Bool.or_true, if_true] at hk
      simp [gate, hi, hf, hbad, hq, State.joined, Bound.all, scoreboard_go hk]
    · simp only [hq, State.joined, Bound.all, Bool.not_false, Bool.or_true, if_true] at hk
      simp [gate, hi, hf, hbad, hq, State.joined, Bound.all, scoreboard_go hk, Nat.not_lt.mpr hc]
    · obtain ⟨⟨⟨⟨h1, hmk⟩, h2⟩, h3⟩, h4⟩ := hc
      have hsb : s.scoreboard (s.maskKeys m) = .go s := scoreboard_go (by simpa using hmk)
      have hout : (s.gathered.filter fun t => !(s.memberMask m).getLsbD t.lane).isEmpty = true := by
        rw [List.isEmpty_iff, List.filter_eq_nil_iff]
        intro t ht
        simpa using List.all_eq_true.mp h2 t ht
      rw [hq] at hk
      simp only [State.joined, hf, Bound.all, Bool.not_true, Bool.or_false, Bool.false_eq_true, if_false] at hk
      simp only [gate, hi, hf, hbad, hq, Bool.false_eq_true, if_false, Nat.not_lt.mpr h1, decide_false, Bool.and_false, hsb, State.memberGate]
      simp only [hout, Bool.not_true, Bool.and_false, Bool.false_eq_true, if_false, h3, ne_eq, not_true_eq_false, decide_false]
      rw [arrive_go h4]
      simp only [State.joined, hf, Bound.all, Bool.not_true, Bool.or_false, Bool.false_eq_true, if_false]
      exact scoreboard_go hk
    · obtain ⟨⟨h1, h3⟩, h4⟩ := hc
      rw [hq] at hk
      simp only [State.joined, hf, Bound.all, Bool.not_true, Bool.or_false, Bool.false_eq_true, if_false] at hk
      simp only [gate, hi, hf, hbad, hq, Bool.false_eq_true, if_false, Nat.not_lt.mpr h1, decide_false, Bool.and_false, State.wholeGate, h3,
        ne_eq, not_true_eq_false]
      rw [arrive_go h4]
      simp only [State.joined, hf, Bound.all, Bool.not_true, Bool.or_false, Bool.false_eq_true, if_false]
      exact scoreboard_go hk
  · simp only [State.joined, hf, Bool.true_or, if_true] at hk ⊢
    simp [gate, hi, hf, hbad, scoreboard_go hk]

/-- An instruction that passes the issue stage acts. -/
theorem issue_of_passes {s : State} {i : Instr} {q : Issue} {act : State → State} (h : s.passes i q = true) :
    issue i q s act = .next (act (s.joined q.bound)) := by
  simp [issue, gate_of_passes h]

/-- Where no lanes are awaited, nothing joins. -/
theorem joined_none (s : State) : s.joined .none = s := by simp [State.joined, Bound.all]
theorem joined_crew (s : State) : s.joined .crew = s := by simp [State.joined, Bound.all]

/-- ILLOP of the word: the instruction takes the exception and does nothing else (R128). -/
theorem issue_illop {s : State} {i : Instr} {q : Issue} {act : State → State} (h : illopNow i q s = true) :
    issue i q s act = .next (s.illop q.words q.bound.all) := by
  simp [issue, gate, h]

/-- An instruction ends in a next state, whatever it does. -/
theorem issue_next (i : Instr) (q : Issue) (s : State) (act : State → State) : ∃ t, issue i q s act = .next t := by
  unfold issue
  split
  · exact ⟨_, rfl⟩
  · exact ⟨_, rfl⟩

/-- Outside a guarded pair a shared action is the action, and so is a commit point (R341, R343). -/
theorem share_alone {s : State} {act : State → State} (h : s.pairOf s.sch.cur.blk = none) : s.share act = act s := by
  simp [State.share, h]
theorem atPoint_alone {s : State} {rec : State → List (Nat × List Byte)} {act : State → State} (h : s.pairOf s.sch.cur.blk = none) :
    s.atPoint rec act = act s := by
  simp [State.atPoint, h]
theorem atCommit_alone {s : State} {rec : State → List (Nat × List Byte)} {act : State → State} (h : s.pairOf s.sch.cur.blk = none) :
    s.atCommit rec act = act s := by
  rw [State.atCommit, atPoint_alone h, share_alone h]

/-- At a commit point of a guarded block that has not been compared there, the block arrives and the instruction waits; it has done nothing else
(R343). -/
theorem atPoint_arrives {s : State} {rec : State → List (Nat × List Byte)} {act : State → State} {p : Pair}
    (h : s.pairOf s.sch.cur.blk = some p) (hg : (s.sch.cur.blk, s.sch.cur.code) ∉ p.go) (ha : (s.sch.cur.blk, s.sch.cur.code) ∉ p.arrived) :
    s.atPoint rec act = (((rec s).foldl (fun t e => t.sign s.sch.cur.blk e.1 e.2) s).arriveAt s.sch.cur.blk s.sch.cur.code).park .again 0 := by
  simp [State.atPoint, h, hg, ha]

end Sys2Proof.Machine
end

