-- ==== Sys2Proof/Laws/Table.lean ====
section
/-!
SUPPORT. Sparse tables, memory and register files: a read after a write, and the canonical form.
-/
namespace Sys2Proof.Machine

variable {α : Type}

/-! ## Reads -/

theorem mget_mdel_self (d : α) (m : SMap α) (k : Nat) : mget d (mdel m k) k = d := by
  induction m with
  | nil => rfl
  | cons e t ih =>
    obtain ⟨k', v⟩ := e
    by_cases h : k' = k
    · simpa [mdel, h] using ih
    · simpa [mdel, h, mget] using ih

theorem mget_mdel_ne (d : α) (m : SMap α) {k k' : Nat} (h : k' ≠ k) : mget d (mdel m k) k' = mget d m k' := by
  induction m with
  | nil => rfl
  | cons e t ih =>
    obtain ⟨n, v⟩ := e
    by_cases hn : n = k
    · subst hn
      have : ¬ n = k' := fun e => h e.symm
      simpa [mdel, mget, this] using ih
    · by_cases hk : n = k'
      · subst hk
        simp [mdel, hn, mget]
      · simpa [mdel, hn, mget, hk] using ih

theorem mget_mins_self (d : α) (m : SMap α) (k : Nat) (v : α) (h : mget d m k = d) (hk : ∀ e ∈ m, e.1 ≠ k) : mget d (mins m k v) k = v := by
  induction m with
  | nil => simp [mins, mget]
  | cons e t ih =>
    obtain ⟨n, x⟩ := e
    have hn : n ≠ k := hk (n, x) (by simp)
    by_cases hlt : k < n
    · simp [mins, hlt, mget]
    · have ht : mget d t k = d := by simpa [mget, hn] using h
      simpa [mins, hlt, mget, hn] using ih ht fun e he => hk e (by simp [he])

theorem mget_mins_ne (d : α) (m : SMap α) {k k' : Nat} (v : α) (h : k' ≠ k) : mget d (mins m k v) k' = mget d m k' := by
  induction m with
  | nil => simp [mins, mget, Ne.symm h]
  | cons e t ih =>
    obtain ⟨n, x⟩ := e
    by_cases hlt : k < n
    · simp [mins, hlt, mget, Ne.symm h]
    · by_cases hn : n = k'
      · subst hn
        simp [mins, hlt, mget]
      · simpa [mins, hlt, mget, hn] using ih

theorem mem_mdel {m : SMap α} {k : Nat} {e : Nat × α} (h : e ∈ mdel m k) : e ∈ m ∧ e.1 ≠ k := by
  simpa [mdel] using h

/-- A read after a write to the same key. -/
@[simp] theorem mget_mput_self [DecidableEq α] (d : α) (m : SMap α) (k : Nat) (v : α) : mget d (mput d m k v) k = v := by
  unfold mput
  split
  · next h => rw [mget_mdel_self, h]
  · exact mget_mins_self d _ k v (mget_mdel_self d m k) fun e he => (mem_mdel he).2

/-- A write leaves every other key alone. -/
theorem mget_mput_ne [DecidableEq α] (d : α) (m : SMap α) {k k' : Nat} (v : α) (h : k' ≠ k) : mget d (mput d m k v) k' = mget d m k' := by
  unfold mput
  split
  · exact mget_mdel_ne d m h
  · rw [mget_mins_ne d _ v h, mget_mdel_ne d m h]

theorem mget_mput [DecidableEq α] (d : α) (m : SMap α) (k k' : Nat) (v : α) :
    mget d (mput d m k v) k' = if k' = k then v else mget d m k' := by
  split
  · next h => rw [h, mget_mput_self]
  · next h => exact mget_mput_ne d m v h

/-! ## The canonical form -/

theorem mwf_mdel [DecidableEq α] {d : α} {m : SMap α} (k : Nat) (h : mwf d m = true) : mwf d (mdel m k) = true := by
  induction m with
  | nil => rfl
  | cons e t ih =>
    obtain ⟨n, v⟩ := e
    simp only [mwf, Bool.and_eq_true, List.all_eq_true, decide_eq_true_eq] at h
    obtain ⟨⟨hv, ht⟩, hw⟩ := h
    by_cases hn : n = k
    · simpa [mdel, hn] using ih hw
    · have e1 : mdel ((n, v) :: t) k = (n, v) :: mdel t k := by simp [mdel, hn]
      rw [e1]
      simp only [mwf, Bool.and_eq_true, List.all_eq_true, decide_eq_true_eq]
      exact ⟨⟨hv, fun e he => ht e (mem_mdel he).1⟩, ih hw⟩

theorem mem_mins {m : SMap α} {k : Nat} {v : α} {e : Nat × α} (h : e ∈ mins m k v) : e = (k, v) ∨ e ∈ m := by
  induction m with
  | nil => exact .inl (by simpa [mins] using h)
  | cons x t ih =>
    obtain ⟨n, y⟩ := x
    by_cases hlt : k < n
    · simp only [mins, if_pos hlt, List.mem_cons] at h
      rcases h with h | h | h
      · exact .inl h
      · exact .inr (by simp [h])
      · exact .inr (by simp [h])
    · simp only [mins, if_neg hlt, List.mem_cons] at h
      rcases h with h | h
      · exact .inr (by simp [h])
      · rcases ih h with h | h
        · exact .inl h
        · exact .inr (by simp [h])

theorem mwf_mins [DecidableEq α] {d : α} {m : SMap α} {k : Nat} {v : α} (hv : v ≠ d) (hk : ∀ e ∈ m, e.1 ≠ k) (h : mwf d m = true) :
    mwf d (mins m k v) = true := by
  induction m with
  | nil => simp [mins, mwf, hv]
  | cons e t ih =>
    obtain ⟨n, x⟩ := e
    have h' := h
    simp only [mwf, Bool.and_eq_true, List.all_eq_true, decide_eq_true_eq] at h'
    obtain ⟨⟨hx, ht⟩, hw⟩ := h'
    have hn : n ≠ k := hk (n, x) (by simp)
    by_cases hlt : k < n
    · rw [show mins ((n, x) :: t) k v = (k, v) :: (n, x) :: t by simp [mins, hlt]]
      rw [mwf, h, Bool.and_true, Bool.and_eq_true]
      refine ⟨by simpa using hv, ?_⟩
      rw [List.all_eq_true]
      intro e he
      rcases List.mem_cons.mp he with rfl | he
      · simpa using hlt
      · have := ht e he
        simp only [decide_eq_true_eq]
        omega
    · rw [show mins ((n, x) :: t) k v = (n, x) :: mins t k v by simp [mins, hlt]]
      rw [mwf, ih (fun e he => hk e (by simp [he])) hw, Bool.and_true, Bool.and_eq_true]
      refine ⟨hx, ?_⟩
      rw [List.all_eq_true]
      intro e he
      rcases mem_mins he with rfl | he
      · simp only [decide_eq_true_eq]
        omega
      · simpa using ht e he

/-- A write keeps the canonical form. -/
theorem mwf_mput [DecidableEq α] {d : α} {m : SMap α} (k : Nat) (v : α) (h : mwf d m = true) : mwf d (mput d m k v) = true := by
  unfold mput
  split
  · exact mwf_mdel k h
  · next hv => exact mwf_mins hv (fun e he => (mem_mdel he).2) (mwf_mdel k h)

theorem mwf_mputs [DecidableEq α] {d : α} {m : SMap α} (kvs : List (Nat × α)) (h : mwf d m = true) : mwf d (mputs d m kvs) = true := by
  unfold mputs
  induction kvs generalizing m with
  | nil => exact h
  | cons e t ih => exact ih (mwf_mput e.1 e.2 h)

/-! ## Memory -/

/-- Two tables in canonical form, the keys of the first below those of the second, make one. -/
theorem mwf_append [DecidableEq α] {d : α} {a b : SMap α} (ha : mwf d a = true) (hb : mwf d b = true) (h : ∀ x ∈ a, ∀ y ∈ b, x.1 < y.1) :
    mwf d (a ++ b) = true := by
  induction a with
  | nil => exact hb
  | cons x t ih =>
    simp only [mwf, Bool.and_eq_true, List.all_eq_true, decide_eq_true_eq] at ha
    simp only [List.cons_append, mwf, Bool.and_eq_true, List.all_eq_true, decide_eq_true_eq, List.mem_append]
    exact ⟨⟨ha.1.1, fun e he => he.elim (ha.1.2 e) (h x (by simp) e)⟩, ih ha.2 fun y hy => h y (by simp [hy])⟩

/-- A part of a table in canonical form has it. -/
theorem mwf_filter [DecidableEq α] {d : α} {m : SMap α} (f : Nat × α → Bool) (h : mwf d m = true) : mwf d (m.filter f) = true := by
  induction m with
  | nil => rfl
  | cons x t ih =>
    simp only [mwf, Bool.and_eq_true, List.all_eq_true, decide_eq_true_eq] at h
    rw [List.filter_cons]
    split
    · simp only [mwf, Bool.and_eq_true, List.all_eq_true, decide_eq_true_eq]
      exact ⟨⟨h.1.1, fun e he => h.1.2 e ((List.mem_filter.mp he).1)⟩, ih h.2⟩
    · exact ih h.2

theorem Mem.put_wf {m : Mem} (pa : Nat) (b : Byte) (h : m.wf = true) : (m.put pa b).wf = true := mwf_mput pa b h

theorem Mem.putAt_wf {m : Mem} (pa : Nat) (bs : List (Nat × Byte)) (h : m.wf = true) : (m.putAt pa bs).wf = true := by
  unfold Mem.putAt
  induction bs generalizing m with
  | nil => exact h
  | cons e t ih => exact ih (Mem.put_wf _ _ h)

theorem Mem.putBytes_wf {m : Mem} (pa : Nat) (bs : List Byte) (h : m.wf = true) : (m.putBytes pa bs).wf = true := Mem.putAt_wf pa _ h

/-- A byte outside those stored reads as before. -/
theorem Mem.putAt_ne (m : Mem) (pa a : Nat) (bs : List (Nat × Byte)) (h : ∀ e ∈ bs, a ≠ pa + e.1) :
    mget memDefault (m.putAt pa bs).cells a = mget memDefault m.cells a := by
  unfold Mem.putAt
  induction bs generalizing m with
  | nil => rfl
  | cons e t ih =>
    rw [List.foldl_cons, ih _ fun x hx => h x (by simp [hx])]
    exact mget_mput_ne _ _ _ (h e (by simp))

/-! ## Register keys -/

theorem cellKey_inj {b c n l b' c' n' l' : Nat} (hc : c < 32) (hn : n < 1024) (hl : l < 32) (hc' : c' < 32) (hn' : n' < 1024) (hl' : l' < 32)
    (h : cellKey b c n l = cellKey b' c' n' l') : b = b' ∧ c = c' ∧ n = n' ∧ l = l' := by
  unfold cellKey at h
  omega

theorem Regs.vcell_setCell (r : Regs) (b c n l b' c' n' l' : Nat) (w : Word) :
    (r.setCell b c n l w).vcell b' c' n' l' = if cellKey b' c' n' l' = cellKey b c n l then w else r.vcell b' c' n' l' :=
  mget_mput 0 r.cells _ _ w

theorem Regs.kreg_setK (r : Regs) (b c n b' c' n' : Nat) (w : Word) :
    (r.setK b c n w).kreg b' c' n' = if kKey b' c' n' = kKey b c n then w else r.kreg b' c' n' := mget_mput 0 r.k _ _ w

theorem Regs.qreg_setQ (r : Regs) (b c n b' c' n' : Nat) (v : Bool) :
    (r.setQ b c n v).qreg b' c' n' = if qKey b' c' n' = qKey b c n then v else r.qreg b' c' n' := mget_mput false r.q _ _ v

theorem Regs.crewSt_setCrew (r : Regs) (b c b' c' : Nat) (x : CrewSt) :
    (r.setCrew b c x).crewSt b' c' = if crewKey b' c' = crewKey b c then x else r.crewSt b' c' := mget_mput CrewSt.init r.crew _ _ x

theorem Regs.callSt_setCall (r : Regs) (b c l b' c' l' : Nat) (x : CallSt) :
    (r.setCall b c l x).callSt b' c' l' = if thrKey b' c' l' = thrKey b c l then x else r.callSt b' c' l' := mget_mput CallSt.init r.call _ _ x

end Sys2Proof.Machine
end

