-- ==== Sys2Proof/Laws/State.lean ====
section
/-!
SUPPORT. What each named update of the state leaves and sets, one lemma per field, so that no proof unfolds a record update.
-/
namespace Sys2Proof.Machine

@[simp] theorem State.drawn_sch (s : State) : s.drawn.sch = s.sch := rfl
@[simp] theorem State.drawn_regs (s : State) : s.drawn.regs = s.regs := rfl
@[simp] theorem State.drawn_pipe (s : State) : s.drawn.pipe = s.pipe := rfl
@[simp] theorem State.drawn_mem (s : State) : s.drawn.mem = s.mem := rfl
@[simp] theorem State.drawn_sp (s : State) : s.drawn.sp = s.sp := rfl
@[simp] theorem State.drawn_sl (s : State) : s.drawn.sl = s.sl := rfl
@[simp] theorem State.drawn_kv (s : State) : s.drawn.kv = s.kv := rfl
@[simp] theorem State.drawn_gi (s : State) : s.drawn.gi = s.gi := rfl
@[simp] theorem State.drawn_disp (s : State) : s.drawn.disp = s.disp := rfl
@[simp] theorem State.drawn_host (s : State) : s.drawn.host = s.host := rfl
@[simp] theorem State.drawn_pow (s : State) : s.drawn.pow = s.pow := rfl
@[simp] theorem State.drawn_grd (s : State) : s.drawn.grd = s.grd := rfl
@[simp] theorem State.drawn_clk_gcyc (s : State) : s.drawn.clk.gcyc = s.clk.gcyc := rfl
@[simp] theorem State.drawn_clk_free (s : State) : s.drawn.clk.free = s.clk.free + 1 := rfl

@[simp] theorem State.reach_sch (s : State) (c : Nat) : (s.reach c).sch = s.sch := rfl
@[simp] theorem State.reach_regs (s : State) (c : Nat) : (s.reach c).regs = s.regs := rfl
@[simp] theorem State.reach_pipe (s : State) (c : Nat) : (s.reach c).pipe = s.pipe := rfl
@[simp] theorem State.reach_mem (s : State) (c : Nat) : (s.reach c).mem = s.mem := rfl
@[simp] theorem State.reach_sp (s : State) (c : Nat) : (s.reach c).sp = s.sp := rfl
@[simp] theorem State.reach_sl (s : State) (c : Nat) : (s.reach c).sl = s.sl := rfl
@[simp] theorem State.reach_kv (s : State) (c : Nat) : (s.reach c).kv = s.kv := rfl
@[simp] theorem State.reach_gi (s : State) (c : Nat) : (s.reach c).gi = s.gi := rfl
@[simp] theorem State.reach_disp (s : State) (c : Nat) : (s.reach c).disp = s.disp := rfl
@[simp] theorem State.reach_host (s : State) (c : Nat) : (s.reach c).host = s.host := rfl
@[simp] theorem State.reach_pow (s : State) (c : Nat) : (s.reach c).pow = s.pow := rfl
@[simp] theorem State.reach_grd (s : State) (c : Nat) : (s.reach c).grd = s.grd := rfl
@[simp] theorem State.reach_clk_free (s : State) (c : Nat) : (s.reach c).clk.free = s.clk.free := rfl

@[simp] theorem State.setCtx_clk (s : State) (c : Nat) (x : CtxPage) : (s.setCtx c x).clk = s.clk := rfl
@[simp] theorem State.setCtx_sch (s : State) (c : Nat) (x : CtxPage) : (s.setCtx c x).sch = s.sch := rfl
@[simp] theorem State.setCtx_regs (s : State) (c : Nat) (x : CtxPage) : (s.setCtx c x).regs = s.regs := rfl
@[simp] theorem State.setCtx_pipe (s : State) (c : Nat) (x : CtxPage) : (s.setCtx c x).pipe = s.pipe := rfl
@[simp] theorem State.setCtx_mem (s : State) (c : Nat) (x : CtxPage) : (s.setCtx c x).mem = s.mem := rfl
@[simp] theorem State.setCtx_sp (s : State) (c : Nat) (x : CtxPage) : (s.setCtx c x).sp = s.sp := rfl
@[simp] theorem State.setCtx_sl (s : State) (c : Nat) (x : CtxPage) : (s.setCtx c x).sl = s.sl := rfl
@[simp] theorem State.setCtx_kv (s : State) (c : Nat) (x : CtxPage) : (s.setCtx c x).kv = s.kv := rfl
@[simp] theorem State.setCtx_gi (s : State) (c : Nat) (x : CtxPage) : (s.setCtx c x).gi = s.gi := rfl
@[simp] theorem State.setCtx_disp (s : State) (c : Nat) (x : CtxPage) : (s.setCtx c x).disp = s.disp := rfl
@[simp] theorem State.setCtx_pow (s : State) (c : Nat) (x : CtxPage) : (s.setCtx c x).pow = s.pow := rfl
@[simp] theorem State.setCtx_grd (s : State) (c : Nat) (x : CtxPage) : (s.setCtx c x).grd = s.grd := rfl
@[simp] theorem State.setCtx_host_ctxs (s : State) (c : Nat) (x : CtxPage) : (s.setCtx c x).host.ctxs = mput .init s.host.ctxs c x := rfl

@[simp] theorem State.setBlock_clk (s : State) (x : Block) : (s.setBlock x).clk = s.clk := rfl
@[simp] theorem State.setBlock_sch (s : State) (x : Block) : (s.setBlock x).sch = s.sch := rfl
@[simp] theorem State.setBlock_regs (s : State) (x : Block) : (s.setBlock x).regs = s.regs := rfl
@[simp] theorem State.setBlock_pipe (s : State) (x : Block) : (s.setBlock x).pipe = s.pipe := rfl
@[simp] theorem State.setBlock_mem (s : State) (x : Block) : (s.setBlock x).mem = s.mem := rfl
@[simp] theorem State.setBlock_sp (s : State) (x : Block) : (s.setBlock x).sp = s.sp := rfl
@[simp] theorem State.setBlock_sl (s : State) (x : Block) : (s.setBlock x).sl = s.sl := rfl
@[simp] theorem State.setBlock_kv (s : State) (x : Block) : (s.setBlock x).kv = s.kv := rfl
@[simp] theorem State.setBlock_gi (s : State) (x : Block) : (s.setBlock x).gi = s.gi := rfl
@[simp] theorem State.setBlock_host (s : State) (x : Block) : (s.setBlock x).host = s.host := rfl
@[simp] theorem State.setBlock_pow (s : State) (x : Block) : (s.setBlock x).pow = s.pow := rfl
@[simp] theorem State.setBlock_grd (s : State) (x : Block) : (s.setBlock x).grd = s.grd := rfl
@[simp] theorem State.setBlock_disp_launches (s : State) (x : Block) : (s.setBlock x).disp.launches = s.disp.launches := rfl
@[simp] theorem State.setBlock_disp_levels (s : State) (x : Block) : (s.setBlock x).disp.levels = s.disp.levels := rfl

@[simp] theorem State.setLaunch_clk (s : State) (x : Launch) : (s.setLaunch x).clk = s.clk := rfl
@[simp] theorem State.setLaunch_sch (s : State) (x : Launch) : (s.setLaunch x).sch = s.sch := rfl
@[simp] theorem State.setLaunch_regs (s : State) (x : Launch) : (s.setLaunch x).regs = s.regs := rfl
@[simp] theorem State.setLaunch_pipe (s : State) (x : Launch) : (s.setLaunch x).pipe = s.pipe := rfl
@[simp] theorem State.setLaunch_mem (s : State) (x : Launch) : (s.setLaunch x).mem = s.mem := rfl
@[simp] theorem State.setLaunch_sp (s : State) (x : Launch) : (s.setLaunch x).sp = s.sp := rfl
@[simp] theorem State.setLaunch_sl (s : State) (x : Launch) : (s.setLaunch x).sl = s.sl := rfl
@[simp] theorem State.setLaunch_kv (s : State) (x : Launch) : (s.setLaunch x).kv = s.kv := rfl
@[simp] theorem State.setLaunch_gi (s : State) (x : Launch) : (s.setLaunch x).gi = s.gi := rfl
@[simp] theorem State.setLaunch_host (s : State) (x : Launch) : (s.setLaunch x).host = s.host := rfl
@[simp] theorem State.setLaunch_pow (s : State) (x : Launch) : (s.setLaunch x).pow = s.pow := rfl
@[simp] theorem State.setLaunch_grd (s : State) (x : Launch) : (s.setLaunch x).grd = s.grd := rfl
@[simp] theorem State.setLaunch_disp_blocks (s : State) (x : Launch) : (s.setLaunch x).disp.blocks = s.disp.blocks := rfl
@[simp] theorem State.setLaunch_disp_levels (s : State) (x : Launch) : (s.setLaunch x).disp.levels = s.disp.levels := rfl

@[simp] theorem State.setCur_clk (s : State) (u : Bundle) : (s.setCur u).clk = s.clk := rfl
@[simp] theorem State.setCur_regs (s : State) (u : Bundle) : (s.setCur u).regs = s.regs := rfl
@[simp] theorem State.setCur_pipe (s : State) (u : Bundle) : (s.setCur u).pipe = s.pipe := rfl
@[simp] theorem State.setCur_mem (s : State) (u : Bundle) : (s.setCur u).mem = s.mem := rfl
@[simp] theorem State.setCur_sp (s : State) (u : Bundle) : (s.setCur u).sp = s.sp := rfl
@[simp] theorem State.setCur_sl (s : State) (u : Bundle) : (s.setCur u).sl = s.sl := rfl
@[simp] theorem State.setCur_kv (s : State) (u : Bundle) : (s.setCur u).kv = s.kv := rfl
@[simp] theorem State.setCur_gi (s : State) (u : Bundle) : (s.setCur u).gi = s.gi := rfl
@[simp] theorem State.setCur_disp (s : State) (u : Bundle) : (s.setCur u).disp = s.disp := rfl
@[simp] theorem State.setCur_host (s : State) (u : Bundle) : (s.setCur u).host = s.host := rfl
@[simp] theorem State.setCur_pow (s : State) (u : Bundle) : (s.setCur u).pow = s.pow := rfl
@[simp] theorem State.setCur_grd (s : State) (u : Bundle) : (s.setCur u).grd = s.grd := rfl
@[simp] theorem State.setCur_sch_cur (s : State) (u : Bundle) : (s.setCur u).sch.cur = u := rfl
@[simp] theorem State.setCur_sch_curOn (s : State) (u : Bundle) : (s.setCur u).sch.curOn = s.sch.curOn := rfl
@[simp] theorem State.setCur_sch_bundles (s : State) (u : Bundle) : (s.setCur u).sch.bundles = s.sch.bundles := rfl
@[simp] theorem State.setCur_sch_bins (s : State) (u : Bundle) : (s.setCur u).sch.bins = s.sch.bins := rfl
@[simp] theorem State.setCur_sch_faults (s : State) (u : Bundle) : (s.setCur u).sch.faults = s.sch.faults := rfl
@[simp] theorem State.setCur_sch_agenda (s : State) (u : Bundle) : (s.setCur u).sch.agenda = s.sch.agenda := rfl

@[simp] theorem State.setRegs_clk (s : State) (r : Regs) : (s.setRegs r).clk = s.clk := rfl
@[simp] theorem State.setRegs_sch (s : State) (r : Regs) : (s.setRegs r).sch = s.sch := rfl
@[simp] theorem State.setRegs_pipe (s : State) (r : Regs) : (s.setRegs r).pipe = s.pipe := rfl
@[simp] theorem State.setRegs_mem (s : State) (r : Regs) : (s.setRegs r).mem = s.mem := rfl
@[simp] theorem State.setRegs_sp (s : State) (r : Regs) : (s.setRegs r).sp = s.sp := rfl
@[simp] theorem State.setRegs_sl (s : State) (r : Regs) : (s.setRegs r).sl = s.sl := rfl
@[simp] theorem State.setRegs_kv (s : State) (r : Regs) : (s.setRegs r).kv = s.kv := rfl
@[simp] theorem State.setRegs_gi (s : State) (r : Regs) : (s.setRegs r).gi = s.gi := rfl
@[simp] theorem State.setRegs_disp (s : State) (r : Regs) : (s.setRegs r).disp = s.disp := rfl
@[simp] theorem State.setRegs_host (s : State) (r : Regs) : (s.setRegs r).host = s.host := rfl
@[simp] theorem State.setRegs_pow (s : State) (r : Regs) : (s.setRegs r).pow = s.pow := rfl
@[simp] theorem State.setRegs_grd (s : State) (r : Regs) : (s.setRegs r).grd = s.grd := rfl
@[simp] theorem State.setRegs_regs (s : State) (r : Regs) : (s.setRegs r).regs = r := rfl

@[simp] theorem State.setPipe_clk (s : State) (p : Pipe) : (s.setPipe p).clk = s.clk := rfl
@[simp] theorem State.setPipe_sch (s : State) (p : Pipe) : (s.setPipe p).sch = s.sch := rfl
@[simp] theorem State.setPipe_regs (s : State) (p : Pipe) : (s.setPipe p).regs = s.regs := rfl
@[simp] theorem State.setPipe_mem (s : State) (p : Pipe) : (s.setPipe p).mem = s.mem := rfl
@[simp] theorem State.setPipe_sp (s : State) (p : Pipe) : (s.setPipe p).sp = s.sp := rfl
@[simp] theorem State.setPipe_sl (s : State) (p : Pipe) : (s.setPipe p).sl = s.sl := rfl
@[simp] theorem State.setPipe_kv (s : State) (p : Pipe) : (s.setPipe p).kv = s.kv := rfl
@[simp] theorem State.setPipe_gi (s : State) (p : Pipe) : (s.setPipe p).gi = s.gi := rfl
@[simp] theorem State.setPipe_disp (s : State) (p : Pipe) : (s.setPipe p).disp = s.disp := rfl
@[simp] theorem State.setPipe_host (s : State) (p : Pipe) : (s.setPipe p).host = s.host := rfl
@[simp] theorem State.setPipe_pow (s : State) (p : Pipe) : (s.setPipe p).pow = s.pow := rfl
@[simp] theorem State.setPipe_grd (s : State) (p : Pipe) : (s.setPipe p).grd = s.grd := rfl
@[simp] theorem State.setPipe_pipe (s : State) (p : Pipe) : (s.setPipe p).pipe = p := rfl

@[simp] theorem State.advance_clk (s : State) (n : Nat) : (s.advance n).clk = s.clk := rfl
@[simp] theorem State.advance_regs (s : State) (n : Nat) : (s.advance n).regs = s.regs := rfl
@[simp] theorem State.advance_pipe (s : State) (n : Nat) : (s.advance n).pipe = s.pipe := rfl
@[simp] theorem State.advance_mem (s : State) (n : Nat) : (s.advance n).mem = s.mem := rfl
@[simp] theorem State.advance_sp (s : State) (n : Nat) : (s.advance n).sp = s.sp := rfl
@[simp] theorem State.advance_sl (s : State) (n : Nat) : (s.advance n).sl = s.sl := rfl
@[simp] theorem State.advance_kv (s : State) (n : Nat) : (s.advance n).kv = s.kv := rfl
@[simp] theorem State.advance_gi (s : State) (n : Nat) : (s.advance n).gi = s.gi := rfl
@[simp] theorem State.advance_disp (s : State) (n : Nat) : (s.advance n).disp = s.disp := rfl
@[simp] theorem State.advance_host (s : State) (n : Nat) : (s.advance n).host = s.host := rfl
@[simp] theorem State.advance_pow (s : State) (n : Nat) : (s.advance n).pow = s.pow := rfl
@[simp] theorem State.advance_grd (s : State) (n : Nat) : (s.advance n).grd = s.grd := rfl
@[simp] theorem State.advance_sch_cur (s : State) (n : Nat) : (s.advance n).sch.cur = s.sch.cur.step n s.now := rfl
@[simp] theorem State.advance_sch_curOn (s : State) (n : Nat) : (s.advance n).sch.curOn = s.sch.curOn := rfl
@[simp] theorem State.advance_sch_bundles (s : State) (n : Nat) : (s.advance n).sch.bundles = s.sch.bundles := rfl
@[simp] theorem State.advance_sch_bins (s : State) (n : Nat) : (s.advance n).sch.bins = s.sch.bins := rfl
@[simp] theorem State.advance_sch_faults (s : State) (n : Nat) : (s.advance n).sch.faults = s.sch.faults := rfl
@[simp] theorem State.advance_sch_agenda (s : State) (n : Nat) : (s.advance n).sch.agenda = s.sch.agenda := rfl

@[simp] theorem State.park_clk (s : State) (w : Wait) (n : Nat) : (s.park w n).clk = s.clk := rfl
@[simp] theorem State.park_regs (s : State) (w : Wait) (n : Nat) : (s.park w n).regs = s.regs := rfl
@[simp] theorem State.park_pipe (s : State) (w : Wait) (n : Nat) : (s.park w n).pipe = s.pipe := rfl
@[simp] theorem State.park_mem (s : State) (w : Wait) (n : Nat) : (s.park w n).mem = s.mem := rfl
@[simp] theorem State.park_sp (s : State) (w : Wait) (n : Nat) : (s.park w n).sp = s.sp := rfl
@[simp] theorem State.park_sl (s : State) (w : Wait) (n : Nat) : (s.park w n).sl = s.sl := rfl
@[simp] theorem State.park_kv (s : State) (w : Wait) (n : Nat) : (s.park w n).kv = s.kv := rfl
@[simp] theorem State.park_gi (s : State) (w : Wait) (n : Nat) : (s.park w n).gi = s.gi := rfl
@[simp] theorem State.park_disp (s : State) (w : Wait) (n : Nat) : (s.park w n).disp = s.disp := rfl
@[simp] theorem State.park_host (s : State) (w : Wait) (n : Nat) : (s.park w n).host = s.host := rfl
@[simp] theorem State.park_pow (s : State) (w : Wait) (n : Nat) : (s.park w n).pow = s.pow := rfl
@[simp] theorem State.park_grd (s : State) (w : Wait) (n : Nat) : (s.park w n).grd = s.grd := rfl
@[simp] theorem State.park_sch_curOn (s : State) (w : Wait) (n : Nat) : (s.park w n).sch.curOn = s.sch.curOn := rfl
@[simp] theorem State.park_sch_bundles (s : State) (w : Wait) (n : Nat) : (s.park w n).sch.bundles = s.sch.bundles := rfl
@[simp] theorem State.park_sch_bins (s : State) (w : Wait) (n : Nat) : (s.park w n).sch.bins = s.sch.bins := rfl
@[simp] theorem State.park_sch_faults (s : State) (w : Wait) (n : Nat) : (s.park w n).sch.faults = s.sch.faults := rfl
@[simp] theorem State.park_sch_agenda (s : State) (w : Wait) (n : Nat) : (s.park w n).sch.agenda = s.sch.agenda := rfl
@[simp] theorem State.park_sch_cur_wait (s : State) (w : Wait) (n : Nat) : (s.park w n).sch.cur.wait = w := rfl
@[simp] theorem State.park_sch_cur_pc (s : State) (w : Wait) (n : Nat) : (s.park w n).sch.cur.pc = s.sch.cur.pc := rfl
@[simp] theorem State.park_sch_cur_members (s : State) (w : Wait) (n : Nat) : (s.park w n).sch.cur.members = s.sch.cur.members := rfl

@[simp] theorem State.dropCur_clk (s : State) : s.dropCur.clk = s.clk := rfl
@[simp] theorem State.dropCur_regs (s : State) : s.dropCur.regs = s.regs := rfl
@[simp] theorem State.dropCur_pipe (s : State) : s.dropCur.pipe = s.pipe := rfl
@[simp] theorem State.dropCur_mem (s : State) : s.dropCur.mem = s.mem := rfl
@[simp] theorem State.dropCur_sp (s : State) : s.dropCur.sp = s.sp := rfl
@[simp] theorem State.dropCur_sl (s : State) : s.dropCur.sl = s.sl := rfl
@[simp] theorem State.dropCur_kv (s : State) : s.dropCur.kv = s.kv := rfl
@[simp] theorem State.dropCur_gi (s : State) : s.dropCur.gi = s.gi := rfl
@[simp] theorem State.dropCur_disp (s : State) : s.dropCur.disp = s.disp := rfl
@[simp] theorem State.dropCur_host (s : State) : s.dropCur.host = s.host := rfl
@[simp] theorem State.dropCur_pow (s : State) : s.dropCur.pow = s.pow := rfl
@[simp] theorem State.dropCur_grd (s : State) : s.dropCur.grd = s.grd := rfl
@[simp] theorem State.dropCur_sch_curOn (s : State) : s.dropCur.sch.curOn = false := rfl
@[simp] theorem State.dropCur_sch_cur (s : State) : s.dropCur.sch.cur = Bundle.none := rfl
@[simp] theorem State.dropCur_sch_bundles (s : State) : s.dropCur.sch.bundles = s.sch.bundles := rfl
@[simp] theorem State.dropCur_sch_bins (s : State) : s.dropCur.sch.bins = s.sch.bins := rfl
@[simp] theorem State.dropCur_sch_faults (s : State) : s.dropCur.sch.faults = s.sch.faults := rfl

@[simp] theorem State.addBundles_clk (s : State) (us : List Bundle) : (s.addBundles us).clk = s.clk := rfl
@[simp] theorem State.addBundles_regs (s : State) (us : List Bundle) : (s.addBundles us).regs = s.regs := rfl
@[simp] theorem State.addBundles_pipe (s : State) (us : List Bundle) : (s.addBundles us).pipe = s.pipe := rfl
@[simp] theorem State.addBundles_mem (s : State) (us : List Bundle) : (s.addBundles us).mem = s.mem := rfl
@[simp] theorem State.addBundles_sp (s : State) (us : List Bundle) : (s.addBundles us).sp = s.sp := rfl
@[simp] theorem State.addBundles_sl (s : State) (us : List Bundle) : (s.addBundles us).sl = s.sl := rfl
@[simp] theorem State.addBundles_kv (s : State) (us : List Bundle) : (s.addBundles us).kv = s.kv := rfl
@[simp] theorem State.addBundles_gi (s : State) (us : List Bundle) : (s.addBundles us).gi = s.gi := rfl
@[simp] theorem State.addBundles_disp (s : State) (us : List Bundle) : (s.addBundles us).disp = s.disp := rfl
@[simp] theorem State.addBundles_host (s : State) (us : List Bundle) : (s.addBundles us).host = s.host := rfl
@[simp] theorem State.addBundles_pow (s : State) (us : List Bundle) : (s.addBundles us).pow = s.pow := rfl
@[simp] theorem State.addBundles_grd (s : State) (us : List Bundle) : (s.addBundles us).grd = s.grd := rfl
@[simp] theorem State.addBundles_sch_cur (s : State) (us : List Bundle) : (s.addBundles us).sch.cur = s.sch.cur := rfl
@[simp] theorem State.addBundles_sch_curOn (s : State) (us : List Bundle) : (s.addBundles us).sch.curOn = s.sch.curOn := rfl
@[simp] theorem State.addBundles_sch_bins (s : State) (us : List Bundle) : (s.addBundles us).sch.bins = s.sch.bins := rfl
@[simp] theorem State.addBundles_sch_faults (s : State) (us : List Bundle) : (s.addBundles us).sch.faults = s.sch.faults := rfl

@[simp] theorem State.due_clk (s : State) (l : List Instr) : (s.due l).clk = s.clk := rfl
@[simp] theorem State.due_regs (s : State) (l : List Instr) : (s.due l).regs = s.regs := rfl
@[simp] theorem State.due_pipe (s : State) (l : List Instr) : (s.due l).pipe = s.pipe := rfl
@[simp] theorem State.due_mem (s : State) (l : List Instr) : (s.due l).mem = s.mem := rfl
@[simp] theorem State.due_sp (s : State) (l : List Instr) : (s.due l).sp = s.sp := rfl
@[simp] theorem State.due_sl (s : State) (l : List Instr) : (s.due l).sl = s.sl := rfl
@[simp] theorem State.due_kv (s : State) (l : List Instr) : (s.due l).kv = s.kv := rfl
@[simp] theorem State.due_gi (s : State) (l : List Instr) : (s.due l).gi = s.gi := rfl
@[simp] theorem State.due_disp (s : State) (l : List Instr) : (s.due l).disp = s.disp := rfl
@[simp] theorem State.due_host (s : State) (l : List Instr) : (s.due l).host = s.host := rfl
@[simp] theorem State.due_pow (s : State) (l : List Instr) : (s.due l).pow = s.pow := rfl
@[simp] theorem State.due_grd (s : State) (l : List Instr) : (s.due l).grd = s.grd := rfl
@[simp] theorem State.due_sch_agenda (s : State) (l : List Instr) : (s.due l).sch.agenda = s.sch.agenda ++ l := rfl
@[simp] theorem State.due_sch_cur (s : State) (l : List Instr) : (s.due l).sch.cur = s.sch.cur := rfl
@[simp] theorem State.due_sch_curOn (s : State) (l : List Instr) : (s.due l).sch.curOn = s.sch.curOn := rfl
@[simp] theorem State.due_sch_bundles (s : State) (l : List Instr) : (s.due l).sch.bundles = s.sch.bundles := rfl
@[simp] theorem State.due_sch_bins (s : State) (l : List Instr) : (s.due l).sch.bins = s.sch.bins := rfl
@[simp] theorem State.due_sch_faults (s : State) (l : List Instr) : (s.due l).sch.faults = s.sch.faults := rfl

@[simp] theorem State.addPend_clk (s : State) (p : Pend) : (s.addPend p).clk = s.clk := rfl
@[simp] theorem State.addPend_sch (s : State) (p : Pend) : (s.addPend p).sch = s.sch := rfl
@[simp] theorem State.addPend_regs (s : State) (p : Pend) : (s.addPend p).regs = s.regs := rfl
@[simp] theorem State.addPend_mem (s : State) (p : Pend) : (s.addPend p).mem = s.mem := rfl
@[simp] theorem State.addPend_sp (s : State) (p : Pend) : (s.addPend p).sp = s.sp := rfl
@[simp] theorem State.addPend_sl (s : State) (p : Pend) : (s.addPend p).sl = s.sl := rfl
@[simp] theorem State.addPend_kv (s : State) (p : Pend) : (s.addPend p).kv = s.kv := rfl
@[simp] theorem State.addPend_gi (s : State) (p : Pend) : (s.addPend p).gi = s.gi := rfl
@[simp] theorem State.addPend_disp (s : State) (p : Pend) : (s.addPend p).disp = s.disp := rfl
@[simp] theorem State.addPend_host (s : State) (p : Pend) : (s.addPend p).host = s.host := rfl
@[simp] theorem State.addPend_pow (s : State) (p : Pend) : (s.addPend p).pow = s.pow := rfl
@[simp] theorem State.addPend_grd (s : State) (p : Pend) : (s.addPend p).grd = s.grd := rfl
@[simp] theorem State.addPend_pipe_nextId (s : State) (p : Pend) : (s.addPend p).pipe.nextId = s.pipe.nextId + 1 := rfl
@[simp] theorem State.addPend_pipe_sbuf (s : State) (p : Pend) : (s.addPend p).pipe.sbuf = s.pipe.sbuf := rfl
@[simp] theorem State.addPend_pipe_reqs (s : State) (p : Pend) : (s.addPend p).pipe.reqs = s.pipe.reqs := rfl

@[simp] theorem State.mapPend_clk (s : State) (n : Nat) (f : Pend → Pend) : (s.mapPend n f).clk = s.clk := rfl
@[simp] theorem State.mapPend_sch (s : State) (n : Nat) (f : Pend → Pend) : (s.mapPend n f).sch = s.sch := rfl
@[simp] theorem State.mapPend_regs (s : State) (n : Nat) (f : Pend → Pend) : (s.mapPend n f).regs = s.regs := rfl
@[simp] theorem State.mapPend_mem (s : State) (n : Nat) (f : Pend → Pend) : (s.mapPend n f).mem = s.mem := rfl
@[simp] theorem State.mapPend_sp (s : State) (n : Nat) (f : Pend → Pend) : (s.mapPend n f).sp = s.sp := rfl
@[simp] theorem State.mapPend_sl (s : State) (n : Nat) (f : Pend → Pend) : (s.mapPend n f).sl = s.sl := rfl
@[simp] theorem State.mapPend_kv (s : State) (n : Nat) (f : Pend → Pend) : (s.mapPend n f).kv = s.kv := rfl
@[simp] theorem State.mapPend_gi (s : State) (n : Nat) (f : Pend → Pend) : (s.mapPend n f).gi = s.gi := rfl
@[simp] theorem State.mapPend_disp (s : State) (n : Nat) (f : Pend → Pend) : (s.mapPend n f).disp = s.disp := rfl
@[simp] theorem State.mapPend_host (s : State) (n : Nat) (f : Pend → Pend) : (s.mapPend n f).host = s.host := rfl
@[simp] theorem State.mapPend_pow (s : State) (n : Nat) (f : Pend → Pend) : (s.mapPend n f).pow = s.pow := rfl
@[simp] theorem State.mapPend_grd (s : State) (n : Nat) (f : Pend → Pend) : (s.mapPend n f).grd = s.grd := rfl
@[simp] theorem State.mapPend_pipe_nextId (s : State) (n : Nat) (f : Pend → Pend) : (s.mapPend n f).pipe.nextId = s.pipe.nextId := rfl
@[simp] theorem State.mapPend_pipe_sbuf (s : State) (n : Nat) (f : Pend → Pend) : (s.mapPend n f).pipe.sbuf = s.pipe.sbuf := rfl
@[simp] theorem State.mapPend_pipe_reqs (s : State) (n : Nat) (f : Pend → Pend) : (s.mapPend n f).pipe.reqs = s.pipe.reqs := rfl

@[simp] theorem State.dropPend_clk (s : State) (n : Nat) : (s.dropPend n).clk = s.clk := rfl
@[simp] theorem State.dropPend_sch (s : State) (n : Nat) : (s.dropPend n).sch = s.sch := rfl
@[simp] theorem State.dropPend_regs (s : State) (n : Nat) : (s.dropPend n).regs = s.regs := rfl
@[simp] theorem State.dropPend_mem (s : State) (n : Nat) : (s.dropPend n).mem = s.mem := rfl
@[simp] theorem State.dropPend_sp (s : State) (n : Nat) : (s.dropPend n).sp = s.sp := rfl
@[simp] theorem State.dropPend_sl (s : State) (n : Nat) : (s.dropPend n).sl = s.sl := rfl
@[simp] theorem State.dropPend_kv (s : State) (n : Nat) : (s.dropPend n).kv = s.kv := rfl
@[simp] theorem State.dropPend_gi (s : State) (n : Nat) : (s.dropPend n).gi = s.gi := rfl
@[simp] theorem State.dropPend_disp (s : State) (n : Nat) : (s.dropPend n).disp = s.disp := rfl
@[simp] theorem State.dropPend_host (s : State) (n : Nat) : (s.dropPend n).host = s.host := rfl
@[simp] theorem State.dropPend_pow (s : State) (n : Nat) : (s.dropPend n).pow = s.pow := rfl
@[simp] theorem State.dropPend_grd (s : State) (n : Nat) : (s.dropPend n).grd = s.grd := rfl
@[simp] theorem State.dropPend_pipe_nextId (s : State) (n : Nat) : (s.dropPend n).pipe.nextId = s.pipe.nextId := rfl
@[simp] theorem State.dropPend_pipe_sbuf (s : State) (n : Nat) : (s.dropPend n).pipe.sbuf = s.pipe.sbuf := rfl
@[simp] theorem State.dropPend_pipe_reqs (s : State) (n : Nat) : (s.dropPend n).pipe.reqs = s.pipe.reqs := rfl

@[simp] theorem State.mapPair_clk (s : State) (n : Nat) (f : Pair → Pair) : (s.mapPair n f).clk = s.clk := rfl
@[simp] theorem State.mapPair_sch (s : State) (n : Nat) (f : Pair → Pair) : (s.mapPair n f).sch = s.sch := rfl
@[simp] theorem State.mapPair_regs (s : State) (n : Nat) (f : Pair → Pair) : (s.mapPair n f).regs = s.regs := rfl
@[simp] theorem State.mapPair_pipe (s : State) (n : Nat) (f : Pair → Pair) : (s.mapPair n f).pipe = s.pipe := rfl
@[simp] theorem State.mapPair_mem (s : State) (n : Nat) (f : Pair → Pair) : (s.mapPair n f).mem = s.mem := rfl
@[simp] theorem State.mapPair_sp (s : State) (n : Nat) (f : Pair → Pair) : (s.mapPair n f).sp = s.sp := rfl
@[simp] theorem State.mapPair_sl (s : State) (n : Nat) (f : Pair → Pair) : (s.mapPair n f).sl = s.sl := rfl
@[simp] theorem State.mapPair_kv (s : State) (n : Nat) (f : Pair → Pair) : (s.mapPair n f).kv = s.kv := rfl
@[simp] theorem State.mapPair_gi (s : State) (n : Nat) (f : Pair → Pair) : (s.mapPair n f).gi = s.gi := rfl
@[simp] theorem State.mapPair_disp (s : State) (n : Nat) (f : Pair → Pair) : (s.mapPair n f).disp = s.disp := rfl
@[simp] theorem State.mapPair_host (s : State) (n : Nat) (f : Pair → Pair) : (s.mapPair n f).host = s.host := rfl
@[simp] theorem State.mapPair_pow (s : State) (n : Nat) (f : Pair → Pair) : (s.mapPair n f).pow = s.pow := rfl

@[simp] theorem State.wrote_clk (s : State) (ws : List RegWr) : (s.wrote ws).clk = s.clk := rfl
@[simp] theorem State.wrote_sch (s : State) (ws : List RegWr) : (s.wrote ws).sch = s.sch := rfl
@[simp] theorem State.wrote_pipe (s : State) (ws : List RegWr) : (s.wrote ws).pipe = s.pipe := rfl
@[simp] theorem State.wrote_mem (s : State) (ws : List RegWr) : (s.wrote ws).mem = s.mem := rfl
@[simp] theorem State.wrote_sp (s : State) (ws : List RegWr) : (s.wrote ws).sp = s.sp := rfl
@[simp] theorem State.wrote_sl (s : State) (ws : List RegWr) : (s.wrote ws).sl = s.sl := rfl
@[simp] theorem State.wrote_kv (s : State) (ws : List RegWr) : (s.wrote ws).kv = s.kv := rfl
@[simp] theorem State.wrote_gi (s : State) (ws : List RegWr) : (s.wrote ws).gi = s.gi := rfl
@[simp] theorem State.wrote_disp (s : State) (ws : List RegWr) : (s.wrote ws).disp = s.disp := rfl
@[simp] theorem State.wrote_host (s : State) (ws : List RegWr) : (s.wrote ws).host = s.host := rfl
@[simp] theorem State.wrote_pow (s : State) (ws : List RegWr) : (s.wrote ws).pow = s.pow := rfl
@[simp] theorem State.wrote_grd (s : State) (ws : List RegWr) : (s.wrote ws).grd = s.grd := rfl
@[simp] theorem State.wrote_regs (s : State) (ws : List RegWr) : (s.wrote ws).regs = s.regs.applyAll s.sch.cur.blk ws := rfl

@[simp] theorem State.mapBundles_clk (s : State) (f : Bundle → Bundle) : (s.mapBundles f).clk = s.clk := rfl
@[simp] theorem State.mapBundles_regs (s : State) (f : Bundle → Bundle) : (s.mapBundles f).regs = s.regs := rfl
@[simp] theorem State.mapBundles_pipe (s : State) (f : Bundle → Bundle) : (s.mapBundles f).pipe = s.pipe := rfl
@[simp] theorem State.mapBundles_mem (s : State) (f : Bundle → Bundle) : (s.mapBundles f).mem = s.mem := rfl
@[simp] theorem State.mapBundles_sp (s : State) (f : Bundle → Bundle) : (s.mapBundles f).sp = s.sp := rfl
@[simp] theorem State.mapBundles_sl (s : State) (f : Bundle → Bundle) : (s.mapBundles f).sl = s.sl := rfl
@[simp] theorem State.mapBundles_kv (s : State) (f : Bundle → Bundle) : (s.mapBundles f).kv = s.kv := rfl
@[simp] theorem State.mapBundles_gi (s : State) (f : Bundle → Bundle) : (s.mapBundles f).gi = s.gi := rfl
@[simp] theorem State.mapBundles_disp (s : State) (f : Bundle → Bundle) : (s.mapBundles f).disp = s.disp := rfl
@[simp] theorem State.mapBundles_host (s : State) (f : Bundle → Bundle) : (s.mapBundles f).host = s.host := rfl
@[simp] theorem State.mapBundles_pow (s : State) (f : Bundle → Bundle) : (s.mapBundles f).pow = s.pow := rfl
@[simp] theorem State.mapBundles_grd (s : State) (f : Bundle → Bundle) : (s.mapBundles f).grd = s.grd := rfl

@[simp] theorem State.setLines_clk (s : State) (ls : List MscLine) : (s.setLines ls).clk = s.clk := rfl
@[simp] theorem State.setLines_sch (s : State) (ls : List MscLine) : (s.setLines ls).sch = s.sch := rfl
@[simp] theorem State.setLines_regs (s : State) (ls : List MscLine) : (s.setLines ls).regs = s.regs := rfl
@[simp] theorem State.setLines_pipe (s : State) (ls : List MscLine) : (s.setLines ls).pipe = s.pipe := rfl
@[simp] theorem State.setLines_mem (s : State) (ls : List MscLine) : (s.setLines ls).mem = s.mem := rfl
@[simp] theorem State.setLines_sp (s : State) (ls : List MscLine) : (s.setLines ls).sp = s.sp := rfl
@[simp] theorem State.setLines_kv (s : State) (ls : List MscLine) : (s.setLines ls).kv = s.kv := rfl
@[simp] theorem State.setLines_gi (s : State) (ls : List MscLine) : (s.setLines ls).gi = s.gi := rfl
@[simp] theorem State.setLines_disp (s : State) (ls : List MscLine) : (s.setLines ls).disp = s.disp := rfl
@[simp] theorem State.setLines_host (s : State) (ls : List MscLine) : (s.setLines ls).host = s.host := rfl
@[simp] theorem State.setLines_pow (s : State) (ls : List MscLine) : (s.setLines ls).pow = s.pow := rfl
@[simp] theorem State.setLines_grd (s : State) (ls : List MscLine) : (s.setLines ls).grd = s.grd := rfl
@[simp] theorem State.setLines_sl_lines (s : State) (ls : List MscLine) : (s.setLines ls).sl.lines = ls := rfl

@[simp] theorem State.setL1_clk (s : State) (ls : List L1Line) : (s.setL1 ls).clk = s.clk := rfl
@[simp] theorem State.setL1_sch (s : State) (ls : List L1Line) : (s.setL1 ls).sch = s.sch := rfl
@[simp] theorem State.setL1_regs (s : State) (ls : List L1Line) : (s.setL1 ls).regs = s.regs := rfl
@[simp] theorem State.setL1_mem (s : State) (ls : List L1Line) : (s.setL1 ls).mem = s.mem := rfl
@[simp] theorem State.setL1_sp (s : State) (ls : List L1Line) : (s.setL1 ls).sp = s.sp := rfl
@[simp] theorem State.setL1_sl (s : State) (ls : List L1Line) : (s.setL1 ls).sl = s.sl := rfl
@[simp] theorem State.setL1_kv (s : State) (ls : List L1Line) : (s.setL1 ls).kv = s.kv := rfl
@[simp] theorem State.setL1_gi (s : State) (ls : List L1Line) : (s.setL1 ls).gi = s.gi := rfl
@[simp] theorem State.setL1_disp (s : State) (ls : List L1Line) : (s.setL1 ls).disp = s.disp := rfl
@[simp] theorem State.setL1_host (s : State) (ls : List L1Line) : (s.setL1 ls).host = s.host := rfl
@[simp] theorem State.setL1_pow (s : State) (ls : List L1Line) : (s.setL1 ls).pow = s.pow := rfl
@[simp] theorem State.setL1_grd (s : State) (ls : List L1Line) : (s.setL1 ls).grd = s.grd := rfl
@[simp] theorem State.setL1_pipe_l1 (s : State) (ls : List L1Line) : (s.setL1 ls).pipe.l1 = ls := rfl
@[simp] theorem State.setL1_pipe_pends (s : State) (ls : List L1Line) : (s.setL1 ls).pipe.pends = s.pipe.pends := rfl

@[simp] theorem State.addReq_clk (s : State) (r : Req) : (s.addReq r).clk = s.clk := rfl
@[simp] theorem State.addReq_regs (s : State) (r : Req) : (s.addReq r).regs = s.regs := rfl
@[simp] theorem State.addReq_mem (s : State) (r : Req) : (s.addReq r).mem = s.mem := rfl
@[simp] theorem State.addReq_sp (s : State) (r : Req) : (s.addReq r).sp = s.sp := rfl
@[simp] theorem State.addReq_sl (s : State) (r : Req) : (s.addReq r).sl = s.sl := rfl
@[simp] theorem State.addReq_kv (s : State) (r : Req) : (s.addReq r).kv = s.kv := rfl
@[simp] theorem State.addReq_gi (s : State) (r : Req) : (s.addReq r).gi = s.gi := rfl
@[simp] theorem State.addReq_disp (s : State) (r : Req) : (s.addReq r).disp = s.disp := rfl
@[simp] theorem State.addReq_host (s : State) (r : Req) : (s.addReq r).host = s.host := rfl
@[simp] theorem State.addReq_pow (s : State) (r : Req) : (s.addReq r).pow = s.pow := rfl
@[simp] theorem State.addReq_grd (s : State) (r : Req) : (s.addReq r).grd = s.grd := rfl
@[simp] theorem State.addReq_pipe_pends (s : State) (r : Req) : (s.addReq r).pipe.pends = s.pipe.pends := rfl

@[simp] theorem State.setHdr_clk (s : State) (n : Nat) (h : SlotHdr) : (s.setHdr n h).clk = s.clk := rfl
@[simp] theorem State.setHdr_sch (s : State) (n : Nat) (h : SlotHdr) : (s.setHdr n h).sch = s.sch := rfl
@[simp] theorem State.setHdr_regs (s : State) (n : Nat) (h : SlotHdr) : (s.setHdr n h).regs = s.regs := rfl
@[simp] theorem State.setHdr_pipe (s : State) (n : Nat) (h : SlotHdr) : (s.setHdr n h).pipe = s.pipe := rfl
@[simp] theorem State.setHdr_mem (s : State) (n : Nat) (h : SlotHdr) : (s.setHdr n h).mem = s.mem := rfl
@[simp] theorem State.setHdr_sp (s : State) (n : Nat) (h : SlotHdr) : (s.setHdr n h).sp = s.sp := rfl
@[simp] theorem State.setHdr_sl (s : State) (n : Nat) (h : SlotHdr) : (s.setHdr n h).sl = s.sl := rfl
@[simp] theorem State.setHdr_kv (s : State) (n : Nat) (h : SlotHdr) : (s.setHdr n h).kv = s.kv := rfl
@[simp] theorem State.setHdr_disp (s : State) (n : Nat) (h : SlotHdr) : (s.setHdr n h).disp = s.disp := rfl
@[simp] theorem State.setHdr_host (s : State) (n : Nat) (h : SlotHdr) : (s.setHdr n h).host = s.host := rfl
@[simp] theorem State.setHdr_pow (s : State) (n : Nat) (h : SlotHdr) : (s.setHdr n h).pow = s.pow := rfl
@[simp] theorem State.setHdr_grd (s : State) (n : Nat) (h : SlotHdr) : (s.setHdr n h).grd = s.grd := rfl
@[simp] theorem State.setHdr_gi_data (s : State) (n : Nat) (h : SlotHdr) : (s.setHdr n h).gi.data = s.gi.data := rfl

@[simp] theorem State.setEcc_clk (s : State) (n : Nat) (e : SliceEcc) : (s.setEcc n e).clk = s.clk := rfl
@[simp] theorem State.setEcc_sch (s : State) (n : Nat) (e : SliceEcc) : (s.setEcc n e).sch = s.sch := rfl
@[simp] theorem State.setEcc_regs (s : State) (n : Nat) (e : SliceEcc) : (s.setEcc n e).regs = s.regs := rfl
@[simp] theorem State.setEcc_pipe (s : State) (n : Nat) (e : SliceEcc) : (s.setEcc n e).pipe = s.pipe := rfl
@[simp] theorem State.setEcc_mem (s : State) (n : Nat) (e : SliceEcc) : (s.setEcc n e).mem = s.mem := rfl
@[simp] theorem State.setEcc_sp (s : State) (n : Nat) (e : SliceEcc) : (s.setEcc n e).sp = s.sp := rfl
@[simp] theorem State.setEcc_kv (s : State) (n : Nat) (e : SliceEcc) : (s.setEcc n e).kv = s.kv := rfl
@[simp] theorem State.setEcc_gi (s : State) (n : Nat) (e : SliceEcc) : (s.setEcc n e).gi = s.gi := rfl
@[simp] theorem State.setEcc_disp (s : State) (n : Nat) (e : SliceEcc) : (s.setEcc n e).disp = s.disp := rfl
@[simp] theorem State.setEcc_host (s : State) (n : Nat) (e : SliceEcc) : (s.setEcc n e).host = s.host := rfl
@[simp] theorem State.setEcc_pow (s : State) (n : Nat) (e : SliceEcc) : (s.setEcc n e).pow = s.pow := rfl
@[simp] theorem State.setEcc_grd (s : State) (n : Nat) (e : SliceEcc) : (s.setEcc n e).grd = s.grd := rfl
@[simp] theorem State.setEcc_sl_lines (s : State) (n : Nat) (e : SliceEcc) : (s.setEcc n e).sl.lines = s.sl.lines := rfl

@[simp] theorem State.msi_clk (s : State) (v : Nat) : (s.msi v).clk = s.clk := by unfold State.msi State.hostWaits; split <;> rfl
@[simp] theorem State.msi_sch (s : State) (v : Nat) : (s.msi v).sch = s.sch := by unfold State.msi State.hostWaits; split <;> rfl
@[simp] theorem State.msi_regs (s : State) (v : Nat) : (s.msi v).regs = s.regs := by unfold State.msi State.hostWaits; split <;> rfl
@[simp] theorem State.msi_pipe (s : State) (v : Nat) : (s.msi v).pipe = s.pipe := by unfold State.msi State.hostWaits; split <;> rfl
@[simp] theorem State.msi_mem (s : State) (v : Nat) : (s.msi v).mem = s.mem := by unfold State.msi State.hostWaits; split <;> rfl
@[simp] theorem State.msi_sp (s : State) (v : Nat) : (s.msi v).sp = s.sp := by unfold State.msi State.hostWaits; split <;> rfl
@[simp] theorem State.msi_sl (s : State) (v : Nat) : (s.msi v).sl = s.sl := by unfold State.msi State.hostWaits; split <;> rfl
@[simp] theorem State.msi_kv (s : State) (v : Nat) : (s.msi v).kv = s.kv := by unfold State.msi State.hostWaits; split <;> rfl
@[simp] theorem State.msi_gi (s : State) (v : Nat) : (s.msi v).gi = s.gi := by unfold State.msi State.hostWaits; split <;> rfl
@[simp] theorem State.msi_disp (s : State) (v : Nat) : (s.msi v).disp = s.disp := by unfold State.msi State.hostWaits; split <;> rfl
@[simp] theorem State.msi_pow (s : State) (v : Nat) : (s.msi v).pow = s.pow := by unfold State.msi State.hostWaits; split <;> rfl
@[simp] theorem State.msi_grd (s : State) (v : Nat) : (s.msi v).grd = s.grd := by unfold State.msi State.hostWaits; split <;> rfl
@[simp] theorem State.msi_host_ctxs (s : State) (v : Nat) : (s.msi v).host.ctxs = s.host.ctxs := by unfold State.msi State.hostWaits; split <;> rfl

@[simp] theorem State.setAbuf_clk (s : State) (cl line : Nat) (data : List Byte) (bad : BitVec 8) : (s.setAbuf cl line data bad).clk = s.clk := rfl
@[simp] theorem State.setAbuf_sch (s : State) (cl line : Nat) (data : List Byte) (bad : BitVec 8) : (s.setAbuf cl line data bad).sch = s.sch := rfl
@[simp] theorem State.setAbuf_regs (s : State) (cl line : Nat) (data : List Byte) (bad : BitVec 8) : (s.setAbuf cl line data bad).regs = s.regs := rfl
@[simp] theorem State.setAbuf_mem (s : State) (cl line : Nat) (data : List Byte) (bad : BitVec 8) : (s.setAbuf cl line data bad).mem = s.mem := rfl
@[simp] theorem State.setAbuf_sp (s : State) (cl line : Nat) (data : List Byte) (bad : BitVec 8) : (s.setAbuf cl line data bad).sp = s.sp := rfl
@[simp] theorem State.setAbuf_sl (s : State) (cl line : Nat) (data : List Byte) (bad : BitVec 8) : (s.setAbuf cl line data bad).sl = s.sl := rfl
@[simp] theorem State.setAbuf_kv (s : State) (cl line : Nat) (data : List Byte) (bad : BitVec 8) : (s.setAbuf cl line data bad).kv = s.kv := rfl
@[simp] theorem State.setAbuf_gi (s : State) (cl line : Nat) (data : List Byte) (bad : BitVec 8) : (s.setAbuf cl line data bad).gi = s.gi := rfl
@[simp] theorem State.setAbuf_disp (s : State) (cl line : Nat) (data : List Byte) (bad : BitVec 8) : (s.setAbuf cl line data bad).disp = s.disp := rfl
@[simp] theorem State.setAbuf_host (s : State) (cl line : Nat) (data : List Byte) (bad : BitVec 8) : (s.setAbuf cl line data bad).host = s.host := rfl
@[simp] theorem State.setAbuf_pow (s : State) (cl line : Nat) (data : List Byte) (bad : BitVec 8) : (s.setAbuf cl line data bad).pow = s.pow := rfl
@[simp] theorem State.setAbuf_grd (s : State) (cl line : Nat) (data : List Byte) (bad : BitVec 8) : (s.setAbuf cl line data bad).grd = s.grd := rfl

@[simp] theorem State.setTlb_clk (s : State) (t : List TlbEntry) : (s.setTlb t).clk = s.clk := rfl
@[simp] theorem State.setTlb_sch (s : State) (t : List TlbEntry) : (s.setTlb t).sch = s.sch := rfl
@[simp] theorem State.setTlb_regs (s : State) (t : List TlbEntry) : (s.setTlb t).regs = s.regs := rfl
@[simp] theorem State.setTlb_mem (s : State) (t : List TlbEntry) : (s.setTlb t).mem = s.mem := rfl
@[simp] theorem State.setTlb_sp (s : State) (t : List TlbEntry) : (s.setTlb t).sp = s.sp := rfl
@[simp] theorem State.setTlb_sl (s : State) (t : List TlbEntry) : (s.setTlb t).sl = s.sl := rfl
@[simp] theorem State.setTlb_kv (s : State) (t : List TlbEntry) : (s.setTlb t).kv = s.kv := rfl
@[simp] theorem State.setTlb_gi (s : State) (t : List TlbEntry) : (s.setTlb t).gi = s.gi := rfl
@[simp] theorem State.setTlb_disp (s : State) (t : List TlbEntry) : (s.setTlb t).disp = s.disp := rfl
@[simp] theorem State.setTlb_host (s : State) (t : List TlbEntry) : (s.setTlb t).host = s.host := rfl
@[simp] theorem State.setTlb_pow (s : State) (t : List TlbEntry) : (s.setTlb t).pow = s.pow := rfl
@[simp] theorem State.setTlb_grd (s : State) (t : List TlbEntry) : (s.setTlb t).grd = s.grd := rfl
@[simp] theorem State.setTlb_pipe_tlb (s : State) (t : List TlbEntry) : (s.setTlb t).pipe.tlb = t := rfl
@[simp] theorem State.setTlb_pipe_pends (s : State) (t : List TlbEntry) : (s.setTlb t).pipe.pends = s.pipe.pends := rfl
@[simp] theorem State.setTlb_pipe_reqs (s : State) (t : List TlbEntry) : (s.setTlb t).pipe.reqs = s.pipe.reqs := rfl
@[simp] theorem State.setTlb_pipe_walks (s : State) (t : List TlbEntry) : (s.setTlb t).pipe.walks = s.pipe.walks := rfl

@[simp] theorem State.setRecord_clk (s : State) (b n : Nat) (r : BitVec 256) : (s.setRecord b n r).clk = s.clk := rfl
@[simp] theorem State.setRecord_sch (s : State) (b n : Nat) (r : BitVec 256) : (s.setRecord b n r).sch = s.sch := rfl
@[simp] theorem State.setRecord_regs (s : State) (b n : Nat) (r : BitVec 256) : (s.setRecord b n r).regs = s.regs := rfl
@[simp] theorem State.setRecord_pipe (s : State) (b n : Nat) (r : BitVec 256) : (s.setRecord b n r).pipe = s.pipe := rfl
@[simp] theorem State.setRecord_mem (s : State) (b n : Nat) (r : BitVec 256) : (s.setRecord b n r).mem = s.mem := rfl
@[simp] theorem State.setRecord_sl (s : State) (b n : Nat) (r : BitVec 256) : (s.setRecord b n r).sl = s.sl := rfl
@[simp] theorem State.setRecord_kv (s : State) (b n : Nat) (r : BitVec 256) : (s.setRecord b n r).kv = s.kv := rfl
@[simp] theorem State.setRecord_gi (s : State) (b n : Nat) (r : BitVec 256) : (s.setRecord b n r).gi = s.gi := rfl
@[simp] theorem State.setRecord_disp (s : State) (b n : Nat) (r : BitVec 256) : (s.setRecord b n r).disp = s.disp := rfl
@[simp] theorem State.setRecord_host (s : State) (b n : Nat) (r : BitVec 256) : (s.setRecord b n r).host = s.host := rfl
@[simp] theorem State.setRecord_pow (s : State) (b n : Nat) (r : BitVec 256) : (s.setRecord b n r).pow = s.pow := rfl
@[simp] theorem State.setRecord_grd (s : State) (b n : Nat) (r : BitVec 256) : (s.setRecord b n r).grd = s.grd := rfl
@[simp] theorem State.setRecord_sp_recs (s : State) (b n : Nat) (r : BitVec 256) : (s.setRecord b n r).sp.recs = mput 0 s.sp.recs (b * 64 + n) r := rfl
@[simp] theorem State.setRecord_sp_bytes (s : State) (b n : Nat) (r : BitVec 256) : (s.setRecord b n r).sp.bytes = s.sp.bytes := rfl
@[simp] theorem State.setRecord_sp_engines (s : State) (b n : Nat) (r : BitVec 256) : (s.setRecord b n r).sp.engines = s.sp.engines := rfl

@[simp] theorem State.setWin_clk (s : State) (w : Win) : (s.setWin w).clk = s.clk := rfl
@[simp] theorem State.setWin_sch (s : State) (w : Win) : (s.setWin w).sch = s.sch := rfl
@[simp] theorem State.setWin_regs (s : State) (w : Win) : (s.setWin w).regs = s.regs := rfl
@[simp] theorem State.setWin_pipe (s : State) (w : Win) : (s.setWin w).pipe = s.pipe := rfl
@[simp] theorem State.setWin_mem (s : State) (w : Win) : (s.setWin w).mem = s.mem := rfl
@[simp] theorem State.setWin_sl (s : State) (w : Win) : (s.setWin w).sl = s.sl := rfl
@[simp] theorem State.setWin_kv (s : State) (w : Win) : (s.setWin w).kv = s.kv := rfl
@[simp] theorem State.setWin_gi (s : State) (w : Win) : (s.setWin w).gi = s.gi := rfl
@[simp] theorem State.setWin_disp (s : State) (w : Win) : (s.setWin w).disp = s.disp := rfl
@[simp] theorem State.setWin_host (s : State) (w : Win) : (s.setWin w).host = s.host := rfl
@[simp] theorem State.setWin_pow (s : State) (w : Win) : (s.setWin w).pow = s.pow := rfl
@[simp] theorem State.setWin_grd (s : State) (w : Win) : (s.setWin w).grd = s.grd := rfl
@[simp] theorem State.setWin_sp_bytes (s : State) (w : Win) : (s.setWin w).sp.bytes = s.sp.bytes := rfl
@[simp] theorem State.setWin_sp_engines (s : State) (w : Win) : (s.setWin w).sp.engines = s.sp.engines := rfl

@[simp] theorem State.mapEngine_clk (s : State) (id : Nat) (f : Engine → Engine) : (s.mapEngine id f).clk = s.clk := rfl
@[simp] theorem State.mapEngine_sch (s : State) (id : Nat) (f : Engine → Engine) : (s.mapEngine id f).sch = s.sch := rfl
@[simp] theorem State.mapEngine_regs (s : State) (id : Nat) (f : Engine → Engine) : (s.mapEngine id f).regs = s.regs := rfl
@[simp] theorem State.mapEngine_pipe (s : State) (id : Nat) (f : Engine → Engine) : (s.mapEngine id f).pipe = s.pipe := rfl
@[simp] theorem State.mapEngine_mem (s : State) (id : Nat) (f : Engine → Engine) : (s.mapEngine id f).mem = s.mem := rfl
@[simp] theorem State.mapEngine_sl (s : State) (id : Nat) (f : Engine → Engine) : (s.mapEngine id f).sl = s.sl := rfl
@[simp] theorem State.mapEngine_kv (s : State) (id : Nat) (f : Engine → Engine) : (s.mapEngine id f).kv = s.kv := rfl
@[simp] theorem State.mapEngine_gi (s : State) (id : Nat) (f : Engine → Engine) : (s.mapEngine id f).gi = s.gi := rfl
@[simp] theorem State.mapEngine_disp (s : State) (id : Nat) (f : Engine → Engine) : (s.mapEngine id f).disp = s.disp := rfl
@[simp] theorem State.mapEngine_host (s : State) (id : Nat) (f : Engine → Engine) : (s.mapEngine id f).host = s.host := rfl
@[simp] theorem State.mapEngine_pow (s : State) (id : Nat) (f : Engine → Engine) : (s.mapEngine id f).pow = s.pow := rfl
@[simp] theorem State.mapEngine_grd (s : State) (id : Nat) (f : Engine → Engine) : (s.mapEngine id f).grd = s.grd := rfl
@[simp] theorem State.mapEngine_sp_bytes (s : State) (id : Nat) (f : Engine → Engine) : (s.mapEngine id f).sp.bytes = s.sp.bytes := rfl
@[simp] theorem State.mapEngine_sp_wins (s : State) (id : Nat) (f : Engine → Engine) : (s.mapEngine id f).sp.wins = s.sp.wins := rfl

@[simp] theorem State.setPort_clk (s : State) (n : Nat) (p : Port) : (s.setPort n p).clk = s.clk := rfl
@[simp] theorem State.setPort_sch (s : State) (n : Nat) (p : Port) : (s.setPort n p).sch = s.sch := rfl
@[simp] theorem State.setPort_regs (s : State) (n : Nat) (p : Port) : (s.setPort n p).regs = s.regs := rfl
@[simp] theorem State.setPort_pipe (s : State) (n : Nat) (p : Port) : (s.setPort n p).pipe = s.pipe := rfl
@[simp] theorem State.setPort_mem (s : State) (n : Nat) (p : Port) : (s.setPort n p).mem = s.mem := rfl
@[simp] theorem State.setPort_sp (s : State) (n : Nat) (p : Port) : (s.setPort n p).sp = s.sp := rfl
@[simp] theorem State.setPort_sl (s : State) (n : Nat) (p : Port) : (s.setPort n p).sl = s.sl := rfl
@[simp] theorem State.setPort_kv (s : State) (n : Nat) (p : Port) : (s.setPort n p).kv = s.kv := rfl
@[simp] theorem State.setPort_gi (s : State) (n : Nat) (p : Port) : (s.setPort n p).gi = s.gi := rfl
@[simp] theorem State.setPort_disp (s : State) (n : Nat) (p : Port) : (s.setPort n p).disp = s.disp := rfl
@[simp] theorem State.setPort_pow (s : State) (n : Nat) (p : Port) : (s.setPort n p).pow = s.pow := rfl
@[simp] theorem State.setPort_grd (s : State) (n : Nat) (p : Port) : (s.setPort n p).grd = s.grd := rfl
@[simp] theorem State.setPort_host_ctxs (s : State) (n : Nat) (p : Port) : (s.setPort n p).host.ctxs = s.host.ctxs := rfl
@[simp] theorem State.setPort_host_msix (s : State) (n : Nat) (p : Port) : (s.setPort n p).host.msix = s.host.msix := rfl
@[simp] theorem State.setPort_host_ports (s : State) (n : Nat) (p : Port) : (s.setPort n p).host.ports = mput .init s.host.ports n p := rfl

@[simp] theorem State.setQueue_clk (s : State) (q : Nat) (x : LQueue) : (s.setQueue q x).clk = s.clk := rfl
@[simp] theorem State.setQueue_sch (s : State) (q : Nat) (x : LQueue) : (s.setQueue q x).sch = s.sch := rfl
@[simp] theorem State.setQueue_regs (s : State) (q : Nat) (x : LQueue) : (s.setQueue q x).regs = s.regs := rfl
@[simp] theorem State.setQueue_pipe (s : State) (q : Nat) (x : LQueue) : (s.setQueue q x).pipe = s.pipe := rfl
@[simp] theorem State.setQueue_mem (s : State) (q : Nat) (x : LQueue) : (s.setQueue q x).mem = s.mem := rfl
@[simp] theorem State.setQueue_sp (s : State) (q : Nat) (x : LQueue) : (s.setQueue q x).sp = s.sp := rfl
@[simp] theorem State.setQueue_sl (s : State) (q : Nat) (x : LQueue) : (s.setQueue q x).sl = s.sl := rfl
@[simp] theorem State.setQueue_kv (s : State) (q : Nat) (x : LQueue) : (s.setQueue q x).kv = s.kv := rfl
@[simp] theorem State.setQueue_gi (s : State) (q : Nat) (x : LQueue) : (s.setQueue q x).gi = s.gi := rfl
@[simp] theorem State.setQueue_host (s : State) (q : Nat) (x : LQueue) : (s.setQueue q x).host = s.host := rfl
@[simp] theorem State.setQueue_pow (s : State) (q : Nat) (x : LQueue) : (s.setQueue q x).pow = s.pow := rfl
@[simp] theorem State.setQueue_grd (s : State) (q : Nat) (x : LQueue) : (s.setQueue q x).grd = s.grd := rfl
@[simp] theorem State.setQueue_disp_queues (s : State) (q : Nat) (x : LQueue) : (s.setQueue q x).disp.queues = mput .init s.disp.queues q x := rfl
@[simp] theorem State.setQueue_disp_launches (s : State) (q : Nat) (x : LQueue) : (s.setQueue q x).disp.launches = s.disp.launches := rfl
@[simp] theorem State.setQueue_disp_blocks (s : State) (q : Nat) (x : LQueue) : (s.setQueue q x).disp.blocks = s.disp.blocks := rfl

@[simp] theorem State.mapLevel_clk (s : State) (ctx kind id : Nat) (f : Level → Level) : (s.mapLevel ctx kind id f).clk = s.clk := rfl
@[simp] theorem State.mapLevel_sch (s : State) (ctx kind id : Nat) (f : Level → Level) : (s.mapLevel ctx kind id f).sch = s.sch := rfl
@[simp] theorem State.mapLevel_regs (s : State) (ctx kind id : Nat) (f : Level → Level) : (s.mapLevel ctx kind id f).regs = s.regs := rfl
@[simp] theorem State.mapLevel_pipe (s : State) (ctx kind id : Nat) (f : Level → Level) : (s.mapLevel ctx kind id f).pipe = s.pipe := rfl
@[simp] theorem State.mapLevel_mem (s : State) (ctx kind id : Nat) (f : Level → Level) : (s.mapLevel ctx kind id f).mem = s.mem := rfl
@[simp] theorem State.mapLevel_sp (s : State) (ctx kind id : Nat) (f : Level → Level) : (s.mapLevel ctx kind id f).sp = s.sp := rfl
@[simp] theorem State.mapLevel_sl (s : State) (ctx kind id : Nat) (f : Level → Level) : (s.mapLevel ctx kind id f).sl = s.sl := rfl
@[simp] theorem State.mapLevel_kv (s : State) (ctx kind id : Nat) (f : Level → Level) : (s.mapLevel ctx kind id f).kv = s.kv := rfl
@[simp] theorem State.mapLevel_gi (s : State) (ctx kind id : Nat) (f : Level → Level) : (s.mapLevel ctx kind id f).gi = s.gi := rfl
@[simp] theorem State.mapLevel_host (s : State) (ctx kind id : Nat) (f : Level → Level) : (s.mapLevel ctx kind id f).host = s.host := rfl
@[simp] theorem State.mapLevel_pow (s : State) (ctx kind id : Nat) (f : Level → Level) : (s.mapLevel ctx kind id f).pow = s.pow := rfl
@[simp] theorem State.mapLevel_grd (s : State) (ctx kind id : Nat) (f : Level → Level) : (s.mapLevel ctx kind id f).grd = s.grd := rfl
@[simp] theorem State.mapLevel_disp_launches (s : State) (ctx kind id : Nat) (f : Level → Level) : (s.mapLevel ctx kind id f).disp.launches = s.disp.launches := rfl
@[simp] theorem State.mapLevel_disp_blocks (s : State) (ctx kind id : Nat) (f : Level → Level) : (s.mapLevel ctx kind id f).disp.blocks = s.disp.blocks := rfl

@[simp] theorem State.setPage_clk (s : State) (ctx p : Nat) (x : KvPage) : (s.setPage ctx p x).clk = s.clk := rfl
@[simp] theorem State.setPage_sch (s : State) (ctx p : Nat) (x : KvPage) : (s.setPage ctx p x).sch = s.sch := rfl
@[simp] theorem State.setPage_regs (s : State) (ctx p : Nat) (x : KvPage) : (s.setPage ctx p x).regs = s.regs := rfl
@[simp] theorem State.setPage_pipe (s : State) (ctx p : Nat) (x : KvPage) : (s.setPage ctx p x).pipe = s.pipe := rfl
@[simp] theorem State.setPage_mem (s : State) (ctx p : Nat) (x : KvPage) : (s.setPage ctx p x).mem = s.mem := rfl
@[simp] theorem State.setPage_sp (s : State) (ctx p : Nat) (x : KvPage) : (s.setPage ctx p x).sp = s.sp := rfl
@[simp] theorem State.setPage_sl (s : State) (ctx p : Nat) (x : KvPage) : (s.setPage ctx p x).sl = s.sl := rfl
@[simp] theorem State.setPage_gi (s : State) (ctx p : Nat) (x : KvPage) : (s.setPage ctx p x).gi = s.gi := rfl
@[simp] theorem State.setPage_disp (s : State) (ctx p : Nat) (x : KvPage) : (s.setPage ctx p x).disp = s.disp := rfl
@[simp] theorem State.setPage_host (s : State) (ctx p : Nat) (x : KvPage) : (s.setPage ctx p x).host = s.host := rfl
@[simp] theorem State.setPage_pow (s : State) (ctx p : Nat) (x : KvPage) : (s.setPage ctx p x).pow = s.pow := rfl
@[simp] theorem State.setPage_grd (s : State) (ctx p : Nat) (x : KvPage) : (s.setPage ctx p x).grd = s.grd := rfl
@[simp] theorem State.setPage_kv_pages (s : State) (ctx p : Nat) (x : KvPage) : (s.setPage ctx p x).kv.pages = mput .init s.kv.pages (pageKey ctx p) x := rfl
@[simp] theorem State.setPage_kv_ops (s : State) (ctx p : Nat) (x : KvPage) : (s.setPage ctx p x).kv.ops = s.kv.ops := rfl
@[simp] theorem State.setPage_kv_res (s : State) (ctx p : Nat) (x : KvPage) : (s.setPage ctx p x).kv.res = s.kv.res := rfl

@[simp] theorem State.setKvOp_clk (s : State) (id : Nat) (op : KvOp) : (s.setKvOp id op).clk = s.clk := rfl
@[simp] theorem State.setKvOp_sch (s : State) (id : Nat) (op : KvOp) : (s.setKvOp id op).sch = s.sch := rfl
@[simp] theorem State.setKvOp_regs (s : State) (id : Nat) (op : KvOp) : (s.setKvOp id op).regs = s.regs := rfl
@[simp] theorem State.setKvOp_pipe (s : State) (id : Nat) (op : KvOp) : (s.setKvOp id op).pipe = s.pipe := rfl
@[simp] theorem State.setKvOp_mem (s : State) (id : Nat) (op : KvOp) : (s.setKvOp id op).mem = s.mem := rfl
@[simp] theorem State.setKvOp_sp (s : State) (id : Nat) (op : KvOp) : (s.setKvOp id op).sp = s.sp := rfl
@[simp] theorem State.setKvOp_sl (s : State) (id : Nat) (op : KvOp) : (s.setKvOp id op).sl = s.sl := rfl
@[simp] theorem State.setKvOp_gi (s : State) (id : Nat) (op : KvOp) : (s.setKvOp id op).gi = s.gi := rfl
@[simp] theorem State.setKvOp_disp (s : State) (id : Nat) (op : KvOp) : (s.setKvOp id op).disp = s.disp := rfl
@[simp] theorem State.setKvOp_host (s : State) (id : Nat) (op : KvOp) : (s.setKvOp id op).host = s.host := rfl
@[simp] theorem State.setKvOp_pow (s : State) (id : Nat) (op : KvOp) : (s.setKvOp id op).pow = s.pow := rfl
@[simp] theorem State.setKvOp_grd (s : State) (id : Nat) (op : KvOp) : (s.setKvOp id op).grd = s.grd := rfl
@[simp] theorem State.setKvOp_kv_pages (s : State) (id : Nat) (op : KvOp) : (s.setKvOp id op).kv.pages = s.kv.pages := rfl
@[simp] theorem State.setKvOp_kv_res (s : State) (id : Nat) (op : KvOp) : (s.setKvOp id op).kv.res = s.kv.res := rfl

@[simp] theorem State.mapPin_clk (s : State) (id : Nat) (f : Pin → Pin) : (s.mapPin id f).clk = s.clk := rfl
@[simp] theorem State.mapPin_sch (s : State) (id : Nat) (f : Pin → Pin) : (s.mapPin id f).sch = s.sch := rfl
@[simp] theorem State.mapPin_regs (s : State) (id : Nat) (f : Pin → Pin) : (s.mapPin id f).regs = s.regs := rfl
@[simp] theorem State.mapPin_pipe (s : State) (id : Nat) (f : Pin → Pin) : (s.mapPin id f).pipe = s.pipe := rfl
@[simp] theorem State.mapPin_mem (s : State) (id : Nat) (f : Pin → Pin) : (s.mapPin id f).mem = s.mem := rfl
@[simp] theorem State.mapPin_sp (s : State) (id : Nat) (f : Pin → Pin) : (s.mapPin id f).sp = s.sp := rfl
@[simp] theorem State.mapPin_kv (s : State) (id : Nat) (f : Pin → Pin) : (s.mapPin id f).kv = s.kv := rfl
@[simp] theorem State.mapPin_gi (s : State) (id : Nat) (f : Pin → Pin) : (s.mapPin id f).gi = s.gi := rfl
@[simp] theorem State.mapPin_disp (s : State) (id : Nat) (f : Pin → Pin) : (s.mapPin id f).disp = s.disp := rfl
@[simp] theorem State.mapPin_host (s : State) (id : Nat) (f : Pin → Pin) : (s.mapPin id f).host = s.host := rfl
@[simp] theorem State.mapPin_pow (s : State) (id : Nat) (f : Pin → Pin) : (s.mapPin id f).pow = s.pow := rfl
@[simp] theorem State.mapPin_grd (s : State) (id : Nat) (f : Pin → Pin) : (s.mapPin id f).grd = s.grd := rfl
@[simp] theorem State.mapPin_sl_lines (s : State) (id : Nat) (f : Pin → Pin) : (s.mapPin id f).sl.lines = s.sl.lines := rfl
@[simp] theorem State.mapPin_sl_seq (s : State) (id : Nat) (f : Pin → Pin) : (s.mapPin id f).sl.seq = s.sl.seq := rfl

@[simp] theorem State.setLink_clk (s : State) (n : Nat) (l : Link) : (s.setLink n l).clk = s.clk := rfl
@[simp] theorem State.setLink_sch (s : State) (n : Nat) (l : Link) : (s.setLink n l).sch = s.sch := rfl
@[simp] theorem State.setLink_regs (s : State) (n : Nat) (l : Link) : (s.setLink n l).regs = s.regs := rfl
@[simp] theorem State.setLink_pipe (s : State) (n : Nat) (l : Link) : (s.setLink n l).pipe = s.pipe := rfl
@[simp] theorem State.setLink_mem (s : State) (n : Nat) (l : Link) : (s.setLink n l).mem = s.mem := rfl
@[simp] theorem State.setLink_sp (s : State) (n : Nat) (l : Link) : (s.setLink n l).sp = s.sp := rfl
@[simp] theorem State.setLink_kv (s : State) (n : Nat) (l : Link) : (s.setLink n l).kv = s.kv := rfl
@[simp] theorem State.setLink_gi (s : State) (n : Nat) (l : Link) : (s.setLink n l).gi = s.gi := rfl
@[simp] theorem State.setLink_disp (s : State) (n : Nat) (l : Link) : (s.setLink n l).disp = s.disp := rfl
@[simp] theorem State.setLink_host (s : State) (n : Nat) (l : Link) : (s.setLink n l).host = s.host := rfl
@[simp] theorem State.setLink_pow (s : State) (n : Nat) (l : Link) : (s.setLink n l).pow = s.pow := rfl
@[simp] theorem State.setLink_grd (s : State) (n : Nat) (l : Link) : (s.setLink n l).grd = s.grd := rfl
@[simp] theorem State.setLink_sl_lines (s : State) (n : Nat) (l : Link) : (s.setLink n l).sl.lines = s.sl.lines := rfl
@[simp] theorem State.setLink_sl_links (s : State) (n : Nat) (l : Link) : (s.setLink n l).sl.links = mput .init s.sl.links n l := rfl
@[simp] theorem State.setLink_sl_pins (s : State) (n : Nat) (l : Link) : (s.setLink n l).sl.pins = s.sl.pins := rfl

@[simp] theorem State.setBud_clk (s : State) (cl : Nat) (b : Budget) : (s.setBud cl b).clk = s.clk := rfl
@[simp] theorem State.setBud_sch (s : State) (cl : Nat) (b : Budget) : (s.setBud cl b).sch = s.sch := rfl
@[simp] theorem State.setBud_regs (s : State) (cl : Nat) (b : Budget) : (s.setBud cl b).regs = s.regs := rfl
@[simp] theorem State.setBud_pipe (s : State) (cl : Nat) (b : Budget) : (s.setBud cl b).pipe = s.pipe := rfl
@[simp] theorem State.setBud_mem (s : State) (cl : Nat) (b : Budget) : (s.setBud cl b).mem = s.mem := rfl
@[simp] theorem State.setBud_sp (s : State) (cl : Nat) (b : Budget) : (s.setBud cl b).sp = s.sp := rfl
@[simp] theorem State.setBud_sl (s : State) (cl : Nat) (b : Budget) : (s.setBud cl b).sl = s.sl := rfl
@[simp] theorem State.setBud_kv (s : State) (cl : Nat) (b : Budget) : (s.setBud cl b).kv = s.kv := rfl
@[simp] theorem State.setBud_gi (s : State) (cl : Nat) (b : Budget) : (s.setBud cl b).gi = s.gi := rfl
@[simp] theorem State.setBud_disp (s : State) (cl : Nat) (b : Budget) : (s.setBud cl b).disp = s.disp := rfl
@[simp] theorem State.setBud_host (s : State) (cl : Nat) (b : Budget) : (s.setBud cl b).host = s.host := rfl
@[simp] theorem State.setBud_grd (s : State) (cl : Nat) (b : Budget) : (s.setBud cl b).grd = s.grd := rfl
@[simp] theorem State.setBud_pow_bud (s : State) (cl : Nat) (b : Budget) : (s.setBud cl b).pow.bud = mput .init s.pow.bud cl b := rfl
@[simp] theorem State.setBud_pow_yoke (s : State) (cl : Nat) (b : Budget) : (s.setBud cl b).pow.yoke = s.pow.yoke := rfl
@[simp] theorem State.setBud_pow_meters (s : State) (cl : Nat) (b : Budget) : (s.setBud cl b).pow.meters = s.pow.meters := rfl

@[simp] theorem State.mapLines_clk (s : State) (f : MscLine → Bool) (g : MscLine → MscLine) : (s.mapLines f g).clk = s.clk := rfl
@[simp] theorem State.mapLines_sch (s : State) (f : MscLine → Bool) (g : MscLine → MscLine) : (s.mapLines f g).sch = s.sch := rfl
@[simp] theorem State.mapLines_regs (s : State) (f : MscLine → Bool) (g : MscLine → MscLine) : (s.mapLines f g).regs = s.regs := rfl
@[simp] theorem State.mapLines_pipe (s : State) (f : MscLine → Bool) (g : MscLine → MscLine) : (s.mapLines f g).pipe = s.pipe := rfl
@[simp] theorem State.mapLines_mem (s : State) (f : MscLine → Bool) (g : MscLine → MscLine) : (s.mapLines f g).mem = s.mem := rfl
@[simp] theorem State.mapLines_sp (s : State) (f : MscLine → Bool) (g : MscLine → MscLine) : (s.mapLines f g).sp = s.sp := rfl
@[simp] theorem State.mapLines_kv (s : State) (f : MscLine → Bool) (g : MscLine → MscLine) : (s.mapLines f g).kv = s.kv := rfl
@[simp] theorem State.mapLines_gi (s : State) (f : MscLine → Bool) (g : MscLine → MscLine) : (s.mapLines f g).gi = s.gi := rfl
@[simp] theorem State.mapLines_disp (s : State) (f : MscLine → Bool) (g : MscLine → MscLine) : (s.mapLines f g).disp = s.disp := rfl
@[simp] theorem State.mapLines_host (s : State) (f : MscLine → Bool) (g : MscLine → MscLine) : (s.mapLines f g).host = s.host := rfl
@[simp] theorem State.mapLines_pow (s : State) (f : MscLine → Bool) (g : MscLine → MscLine) : (s.mapLines f g).pow = s.pow := rfl
@[simp] theorem State.mapLines_grd (s : State) (f : MscLine → Bool) (g : MscLine → MscLine) : (s.mapLines f g).grd = s.grd := rfl
@[simp] theorem State.mapLines_sl_lines (s : State) (f : MscLine → Bool) (g : MscLine → MscLine) :
    (s.mapLines f g).sl.lines = s.sl.lines.map fun m => if f m then g m else m := rfl

@[simp] theorem State.memPut_clk (s : State) (unit pa : Nat) (bs : List (Nat × Byte)) : (s.memPut unit pa bs).clk = s.clk := rfl
@[simp] theorem State.memPut_sch (s : State) (unit pa : Nat) (bs : List (Nat × Byte)) : (s.memPut unit pa bs).sch = s.sch := rfl
@[simp] theorem State.memPut_regs (s : State) (unit pa : Nat) (bs : List (Nat × Byte)) : (s.memPut unit pa bs).regs = s.regs := rfl
@[simp] theorem State.memPut_pipe (s : State) (unit pa : Nat) (bs : List (Nat × Byte)) : (s.memPut unit pa bs).pipe = s.pipe := rfl
@[simp] theorem State.memPut_sp (s : State) (unit pa : Nat) (bs : List (Nat × Byte)) : (s.memPut unit pa bs).sp = s.sp := rfl
@[simp] theorem State.memPut_sl (s : State) (unit pa : Nat) (bs : List (Nat × Byte)) : (s.memPut unit pa bs).sl = s.sl := rfl
@[simp] theorem State.memPut_kv (s : State) (unit pa : Nat) (bs : List (Nat × Byte)) : (s.memPut unit pa bs).kv = s.kv := rfl
@[simp] theorem State.memPut_gi (s : State) (unit pa : Nat) (bs : List (Nat × Byte)) : (s.memPut unit pa bs).gi = s.gi := rfl
@[simp] theorem State.memPut_disp (s : State) (unit pa : Nat) (bs : List (Nat × Byte)) : (s.memPut unit pa bs).disp = s.disp := rfl
@[simp] theorem State.memPut_host (s : State) (unit pa : Nat) (bs : List (Nat × Byte)) : (s.memPut unit pa bs).host = s.host := rfl
@[simp] theorem State.memPut_pow (s : State) (unit pa : Nat) (bs : List (Nat × Byte)) : (s.memPut unit pa bs).pow = s.pow := rfl
@[simp] theorem State.memPut_grd (s : State) (unit pa : Nat) (bs : List (Nat × Byte)) : (s.memPut unit pa bs).grd = s.grd := rfl
@[simp] theorem State.memPut_cells (s : State) (unit pa : Nat) (bs : List (Nat × Byte)) : (s.memPut unit pa bs).mem.cells = (s.mem.putAt pa bs).cells := rfl

@[simp] theorem State.stepOver_clk (s : State) (b c : Nat) : (s.stepOver b c).clk = s.clk := rfl
@[simp] theorem State.stepOver_sch (s : State) (b c : Nat) : (s.stepOver b c).sch = s.sch := rfl
@[simp] theorem State.stepOver_regs (s : State) (b c : Nat) : (s.stepOver b c).regs = s.regs := rfl
@[simp] theorem State.stepOver_pipe (s : State) (b c : Nat) : (s.stepOver b c).pipe = s.pipe := rfl
@[simp] theorem State.stepOver_mem (s : State) (b c : Nat) : (s.stepOver b c).mem = s.mem := rfl
@[simp] theorem State.stepOver_sp (s : State) (b c : Nat) : (s.stepOver b c).sp = s.sp := rfl
@[simp] theorem State.stepOver_sl (s : State) (b c : Nat) : (s.stepOver b c).sl = s.sl := rfl
@[simp] theorem State.stepOver_kv (s : State) (b c : Nat) : (s.stepOver b c).kv = s.kv := rfl
@[simp] theorem State.stepOver_gi (s : State) (b c : Nat) : (s.stepOver b c).gi = s.gi := rfl
@[simp] theorem State.stepOver_disp (s : State) (b c : Nat) : (s.stepOver b c).disp = s.disp := rfl
@[simp] theorem State.stepOver_pow (s : State) (b c : Nat) : (s.stepOver b c).pow = s.pow := rfl
@[simp] theorem State.stepOver_grd (s : State) (b c : Nat) : (s.stepOver b c).grd = s.grd := rfl
@[simp] theorem State.stepOver_host_dbgStep (s : State) (b c : Nat) : (s.stepOver b c).host.dbgStep = s.host.dbgStep.filter fun e => e != (b, c) := rfl

end Sys2Proof.Machine
end

