-- ==== Sys2Proof/Laws/Memory.lean ====
section
/-!
SUPPORT. The operations that change bytes of memory keep its canonical form, and every other byte; and the reset memory has that form.
-/
namespace Sys2Proof.Machine

/-- The reset memory is in canonical form. -/
theorem reset_mem_wf : State.reset.mem.wf = true := rfl

/-! ## The arrays, logs and poison leave the bytes of memory -/

/-- A fold of steps that each leave the bytes of memory leaves them. -/
theorem foldl_cells {α : Type} (l : List α) (f : State → α → State) (h : ∀ s a, (f s a).mem.cells = s.mem.cells) (s : State) :
    (l.foldl f s).mem.cells = s.mem.cells := by
  induction l generalizing s with
  | nil => rfl
  | cons a t ih => rw [List.foldl_cons, ih, h]

@[simp] theorem State.poisonWords_cells (s : State) (ws : List Nat) : (s.poisonWords ws).mem.cells = s.mem.cells := rfl

@[simp] theorem State.poisonHome_cells (s : State) (slice line : Nat) (bad : BitVec 8) : (s.poisonHome slice line bad).mem.cells = s.mem.cells := by
  unfold State.poisonHome
  split <;> rfl

@[simp] theorem State.poisonLine_cells (s : State) (slice line w n : Nat) : (s.poisonLine slice line w n).mem.cells = s.mem.cells :=
  State.poisonHome_cells _ _ _ _

@[simp] theorem State.logPush_mem (s : State) (key cap : Nat) (e : BitVec 256) : (s.logPush key cap e).mem = s.mem := by
  unfold State.logPush
  dsimp only
  split <;> simp

@[simp] theorem State.logArray_mem (s : State) (slice : Nat) (e : BitVec 256) : (s.logArray slice e).mem = s.mem := by
  unfold State.logArray
  dsimp only
  split <;> simp

@[simp] theorem State.decodeWord_cells (s : State) (slice a mode lid : Nat) (sweep : Bool) (w : Nat) (bs : List Nat) :
    (s.decodeWord slice a mode lid sweep w bs).mem.cells = s.mem.cells := by
  unfold State.decodeWord
  dsimp only
  split
  · rfl
  · split
    · simp
    · split
      · split <;> simp
      · simp

@[simp] theorem State.decodeLine_cells (s : State) (slice a lid : Nat) (sweep : Bool) : (s.decodeLine slice a lid sweep).mem.cells = s.mem.cells := by
  unfold State.decodeLine
  dsimp only
  split
  · rfl
  · exact (foldl_cells _ _ (fun s a => State.decodeWord_cells s _ _ _ _ _ _ _) _).trans (by simp)

@[simp] theorem State.poisonPair_cells (s : State) (slice a : Nat) : (s.poisonPair slice a).mem.cells = s.mem.cells := by
  simp only [State.poisonPair, List.foldl_cons, List.foldl_nil]
  split <;> split <;> simp

@[simp] theorem State.busLimit_cells (s : State) (slice a : Nat) (write : Bool) (hits : List Hit) :
    (s.busLimit slice a write hits).mem.cells = s.mem.cells := by
  unfold State.busLimit State.logBus
  dsimp only
  split
  · simp
  · split
    · simp
    · split
      · simp
      · split <;> simp

@[simp] theorem State.busTransfer_cells (s : State) (slice a : Nat) (write : Bool) : (s.busTransfer slice a write).mem.cells = s.mem.cells := by
  unfold State.busTransfer State.logBus
  dsimp only
  split
  · rfl
  · split
    · simp
    · split <;> simp

@[simp] theorem State.tagLine_mem (s : State) (slice a : Nat) : (s.tagLine slice a).mem = s.mem := by
  unfold State.tagLine
  dsimp only
  split <;> rfl

@[simp] theorem State.writeLine_cells (s : State) (slice line : Nat) : (s.writeLine slice line).mem.cells = s.mem.cells := by
  unfold State.writeLine
  split
  · simp [State.arrayWrites, pairsOf]
  · rfl

@[simp] theorem State.readLine_cells (s : State) (slice line lid : Nat) : (s.readLine slice line lid).mem.cells = s.mem.cells := by
  unfold State.readLine State.arrayRead
  split <;> simp

/-! ## Monitors (R192) write no memory -/

@[simp] theorem State.l1Reply_mem (s : State) (slice core ctx line : Nat) (fill : Bool) : (s.l1Reply slice core ctx line fill).mem = s.mem := by
  unfold State.l1Reply State.setL1
  dsimp only
  split
  · rfl
  · split
    · rfl
    · split
      · split <;> rfl
      · rfl

@[simp] theorem State.acquire_mem (s : State) (b scope : Nat) : (s.acquire b scope).mem = s.mem := by
  unfold State.acquire State.l1Flash
  dsimp only
  split <;> split <;> simp

/-- A fold of steps that each leave memory leaves memory. -/
theorem foldl_mem {α : Type} (l : List α) (f : State → α → State) (h : ∀ s a, (f s a).mem = s.mem) (s : State) :
    (l.foldl f s).mem = s.mem := by
  induction l generalizing s with
  | nil => rfl
  | cons a t ih => rw [List.foldl_cons, ih, h]

@[simp] theorem State.wakeMonitors_mem (s : State) : s.wakeMonitors.mem = s.mem := by
  unfold State.wakeMonitors
  dsimp only
  split
  · rfl
  · simp only [State.mapBundles_mem]
    exact foldl_mem _ _ (fun s a => State.acquire_mem s _ _) s

@[simp] theorem State.readMonitors_mem (s : State) (f : Mon → Bool) (g : Mon → Mon) : (s.readMonitors f g).mem = s.mem := by
  unfold State.readMonitors
  dsimp only
  split
  · split <;> simp only [State.due_mem, State.wakeMonitors_mem] <;> exact foldl_mem _ _ (fun s a => State.l1Reply_mem s _ _ _ _ _) s
  · rfl

/-- Monitors that read after a write change no byte of memory; their read of the arrays may poison words. -/
@[simp] theorem State.monWrite_cells (s : State) (slice line : Nat) : (s.monWrite slice line).mem.cells = s.mem.cells := by
  unfold State.monWrite
  dsimp only
  split
  · rfl
  · simp

/-! ## Runs of bytes -/

/-- Every cell of a run lies inside it. -/
theorem byteRun_inside {pa : Nat} {bs : List Byte} {e : Nat × Byte} (h : e ∈ byteRun pa bs) : pa ≤ e.1 ∧ e.1 < pa + bs.length := by
  induction bs generalizing pa with
  | nil => simp [byteRun] at h
  | cons b t ih =>
    simp only [byteRun] at h
    split at h
    · have := ih h
      simp; omega
    · rcases List.mem_cons.mp h with rfl | h
      · simp
      · have := ih h
        simp; omega

theorem byteRun_wf (pa : Nat) (bs : List Byte) : mwf memDefault (byteRun pa bs) = true := by
  induction bs generalizing pa with
  | nil => rfl
  | cons b t ih =>
    simp only [byteRun]
    split
    · exact ih _
    · rename_i hb
      simp only [mwf, Bool.and_eq_true, bne_iff_ne, ne_eq, List.all_eq_true, decide_eq_true_eq]
      exact ⟨⟨hb, fun e he => by have := byteRun_inside he; omega⟩, ih _⟩

/-- A run of bytes keeps the canonical form. -/
theorem Mem.putRun_wf {m : Mem} (pa : Nat) (bs : List Byte) (h : m.wf = true) : (m.putRun pa bs).wf = true := by
  have hm : mwf memDefault m.cells = true := h
  refine mwf_append (mwf_append (mwf_filter _ hm) (byteRun_wf pa bs) ?_) (mwf_filter _ hm) ?_
  · intro x hx y hy
    have := byteRun_inside hy
    simp only [List.mem_filter, decide_eq_true_eq] at hx
    omega
  · intro x hx y hy
    simp only [List.mem_filter, decide_eq_true_eq] at hy
    rcases List.mem_append.mp hx with hx | hx
    · simp only [List.mem_filter, decide_eq_true_eq] at hx
      omega
    · have := byteRun_inside hx
      omega

/-! ## Writes -/

/-- Bytes written behind the slices of a line go to memory, or stand behind a dirty copy (R82). -/
theorem State.putBehind_cells (s : State) (unit pa : Nat) (bs : List (Nat × Byte)) (bad : BitVec 8) :
    (s.putBehind unit pa bs bad).mem.cells = s.mem.cells ∨ (s.putBehind unit pa bs bad).mem.cells = (s.mem.putAt pa bs).cells := by
  unfold State.putBehind
  dsimp only
  split
  · split
    · exact .inl rfl
    · exact .inr rfl
  · exact .inr rfl

/-- A write at a home slice stores its bytes in memory, or in a copy that memory does not hold (R82). -/
theorem State.homePut_cells (s : State) (slice pa : Nat) (bs : List (Nat × Byte)) :
    (s.homePut slice pa bs).mem.cells = s.mem.cells ∨ (s.homePut slice pa bs).mem.cells = (s.mem.putAt pa bs).cells := by
  unfold State.homePut
  dsimp only
  split
  · exact s.putBehind_cells _ _ _ _
  · split
    · exact .inr rfl
    · split
      · exact .inl rfl
      · exact State.putBehind_cells _ _ _ _ _

/-- A write at its home point keeps the canonical form. -/
theorem State.homeWrite_wf {s : State} (slice pa : Nat) (bs : List (Nat × Byte)) (h : s.mem.wf = true) :
    (s.homeWrite slice pa bs).mem.wf = true := by
  have e : (s.homeWrite slice pa bs).mem.cells = (s.homePut slice pa bs).mem.cells := by simp [State.homeWrite]
  have k := s.homePut_cells slice pa bs
  unfold Mem.wf
  rw [e]
  rcases k with k | k
  · rw [k]; exact h
  · rw [k]; exact Mem.putAt_wf pa bs h

/-- A write at its home point leaves every byte outside those it stores. -/
theorem State.homeWrite_memByte_ne (s : State) (slice pa a : Nat) (bs : List (Nat × Byte)) (h : ∀ e ∈ bs, a ≠ pa + e.1) :
    (s.homeWrite slice pa bs).memByte a = s.memByte a := by
  have e : (s.homeWrite slice pa bs).mem.cells = (s.homePut slice pa bs).mem.cells := by simp [State.homeWrite]
  unfold State.memByte
  rw [e]
  rcases s.homePut_cells slice pa bs with k | k
  · rw [k]
  · rw [k]; exact Mem.putAt_ne s.mem pa a bs h

/-- A scratchpad write leaves the bytes of memory. -/
@[simp] theorem State.spadWrite_memByte (s : State) (b x a : Nat) (bs : List (Nat × Byte)) : (s.spadWrite b x bs).memByte a = s.memByte a := rfl

/-- A scratchpad write keeps the canonical form of memory. -/
@[simp] theorem State.spadWrite_wf (s : State) (b x : Nat) (bs : List (Nat × Byte)) : (s.spadWrite b x bs).mem.wf = s.mem.wf := rfl

/-- A fold of steps that each keep the canonical form of a table keeps it. -/
theorem mwf_foldl {α β : Type} [DecidableEq α] {d : α} (l : List β) (f : SMap α → β → SMap α)
    (hf : ∀ m b, mwf d m = true → mwf d (f m b) = true) {m : SMap α} (h : mwf d m = true) : mwf d (l.foldl f m) = true := by
  induction l generalizing m with
  | nil => exact h
  | cons b t ih => exact ih (hf m b h)

/-- Erasing lines keeps the canonical form. -/
theorem Mem.erase_wf {m : Mem} (lines : List Nat) (h : m.wf = true) : (m.erase lines).wf = true :=
  mwf_foldl lines _ (fun _ line hm => mwf_foldl (List.range 64) _ (fun _ i h => mwf_mput (64 * line + i) memDefault h) hm) h

/-- A fold of memory operations that each keep the canonical form keeps it. -/
theorem Mem.foldl_wf {β : Type} (l : List β) (f : Mem → β → Mem) (hf : ∀ m b, m.wf = true → (f m b).wf = true) {m : Mem}
    (h : m.wf = true) : (l.foldl f m).wf = true := by
  induction l generalizing m with
  | nil => exact h
  | cons b t ih => exact ih (hf m b h)

/-- The free contents of a new SCRATCH pin keep the canonical form. -/
theorem State.freeLines_wf {s : State} (lines : List Nat) (h : s.mem.wf = true) : (s.freeLines lines).mem.wf = true := by
  unfold State.freeLines
  exact Mem.foldl_wf _ _ (fun m e hm => Mem.putBytes_wf _ _ hm) h

end Sys2Proof.Machine
end

