-- ==== Sys2Proof/Machine/View.lean ====
section
/-!
DEFINITION. What reads of the management space, the debug window and the girth headers return (spec/00_scope.md R6; spec/19 R283; spec/27
R353, R357; spec/29 R365, R373, R374). No event of the package reads them: the words are the machine's state as the host and firmware see it.
-/
namespace Sys2Proof.Machine

/-! ## Words -/

/-- YOKESTAT of a pair (Table 27.1). -/
def Yoke.word (y : Yoke) : Word := BitVec.ofNat 1 y.pref ++ BitVec.ofNat 3 y.glev ++ BitVec.ofNat 3 y.blev ++ 0#1 ++ y.iu ++ y.il

/-- SLCECC of a slice (Table 25.1). -/
def SliceEcc.word (e : SliceEcc) : Word := BitVec.ofBool e.busy ++ 0#29 ++ BitVec.ofNat 2 e.mode

/-- DBGSTAT (Table 29.7): the crew's first fault, where it is HALTED or an entry of its block awaits service; a crew under STEP shows none. -/
def State.dbgstat (s : State) : Word :=
  let err := if s.host.dbgErr then 2 else 0
  match (s.dbgBlock.filter fun b => !s.stepping b s.dbgCrew).bind fun b => ((s.faultsOf b s.dbgCrew).head?).map fun f => (b, f) with
  | none => BitVec.ofNat 32 err
  | some x => BitVec.ofNat 32 ((s.halted x.1 x.2.crew s.dbgFeed).toNat + err + x.2.cls.num % 32 * 4 + x.2.lane % 32 * 128)

/-! ## The crew state view (Table 29.8) -/

/-- The code address at which a thread of a block stands: in a bundle, a bin or a fault record; the feed context is lane 0 of its own. -/
def State.threadPc (s : State) (b c l : Nat) : Word :=
  let feed := c == feedCrew
  let mine := fun (ms : List Member) => ms.contains ⟨l, c⟩
  let bundle := (s.everyBundle.find? fun u => u.blk == b && (if feed then u.feed && l == 0 else !u.feed && mine u.members)).map fun u => u.pc
  let bin := (s.sch.bins.find? fun n => n.blk == b && !feed && mine (n.threadsOf c)).map fun n => n.pc
  let fault := (s.sch.faults.find? fun f => f.blk == b && (if feed then f.feed && l == 0 else !f.feed && mine f.threads)).map fun f => f.pc
  (fault.orElse fun _ => bundle.orElse fun _ => bin).getD 0

/-- Entry j of a return stack, where the hardware holds one. -/
def CallSt.entry (x : CallSt) (j : Nat) : Word := (x.hw[j]?.orElse fun _ => (x.rest.find? fun e => e.1 == j).map fun e => e.2).getD 0

/-- A word of the crew state view, by its offset; what Table 29.8 does not name reads 0. -/
def State.dbgGet (s : State) (b c off : Nat) : Word :=
  let l := s.launchOf b
  let feed := c == feedCrew
  let i := off / 4
  let lane := i % 32
  let own := fun (v : Word) => if feed && lane != 0 then 0 else v
  let crew := fun (v : Word) => if feed then 0 else v
  let x := s.regs.crewSt b c
  let bitsOf := fun (n : Nat) (p : Nat → Bool) => BitVec.ofNat 32 (((List.range n).map fun j => (p j).toNat * 2 ^ j).sum)
  if off % 4 ≠ 0 then 0
  else if off < 0x20000 then crew (if l.regs ≤ i / 32 then 0 else s.regs.vcell b c (i / 32) lane)
  else if off < 0x20100 then s.regs.kreg b c (i % 64)
  else if off = 0x20100 then bitsOf 4 (s.regs.qreg b c)
  else if off = 0x20104 then bitsOf 12 fun n => s.flagPending b c (n + 1)
  else if off < 0x20120 then crew (match (off - 0x20108) / 4 with
    | 0 => BitVec.ofNat 32 x.wb
    | 1 => BitVec.ofNat 32 x.abnd
    | 2 => BitVec.ofNat 32 x.cpart
    | 3 => x.cfpm
    | 4 => x.cfps
    | _ => x.live)
  else if 0x20200 ≤ off && off < 0x20280 then own (s.threadPc b c lane)
  else if 0x20280 ≤ off && off < 0x20300 then crew (bitsOf 8 fun n => n != 0 && s.regs.preg b c lane n)
  else if 0x20300 ≤ off && off < 0x20380 then
    own (let y := s.regs.callSt b c lane; BitVec.ofNat 32 (y.depth % 128 + y.hw.length % 8 * 256))
  else if 0x20400 ≤ off && off < 0x20600 then
    let ln := (off - 0x20400) / 16
    if feed && ln != 0 then 0 else (s.regs.callSt b c ln).entry (i % 4)
  else if 0x40000 ≤ off && off < 0x60000 then
    let n := (off - 0x40000) / 8
    if feed || l.regs < x.abnd + 32 * (n / 1024 + 1) then 0
    else BitVec.ofNat 32 ((s.regs.part b c (x.abnd + 32 * (n / 1024) + n % 32) (n / 32 % 32)).view / (if i % 2 = 1 then 2 ^ 32 else 1))
  else 0

/-! ## Registers of the management space -/

/-- What the management space shows (Table 29.1). -/
inductive MgmtView where
  /-- A register of a write of its own; CMDGO is write-only. -/
  | reg (r : MgmtReg)
  | feat (n : Nat) | featacc | gcyc | logOverflow (die : Nat) (log : LogKind) | swapFull (die : Nat)
  | cread (q : Nat) | overrun (q : Nat) | eqcfg (ctx : Nat) | eqrem (ctx : Nat) | fqread (ctx : Nat)
  | slcecc (sl : Nat) | slcinj (sl : Nat) (which : Bool) | slcocc (sl ten : Nat) | degraded (sl : Nat)
  | clbstall (cl : Nat) | yokestat (pair : Nat) | hmap (r : Nat)
  | logEntry (die : Nat) (log : LogKind) (i : Nat) | logRead (die : Nat) (log : LogKind)
  | cmdstat | dbgstat | dbgcmd | gslot (s : Nat) | dbgState (off : Nat)
  /-- An offset that the tables do not name. -/
  | unnamed
deriving DecidableEq, Repr

/-- What a register that the driver writes reads as; a write-only one and an unnamed offset read 0 (R6, R365). -/
def State.mgmtGet (s : State) : MgmtReg → Nat
  | .qbase q => (s.queue q).qbase
  | .qlog q => (s.queue q).qlog
  | .qctx q => (s.queue q).ctx
  | .cbase q => (s.queue q).cbase
  | .tailpa q => (s.queue q).tailpa
  | .headpa q => (s.queue q).headpa
  | .topTable c => (s.ctx c).top
  | .privileged c => (s.ctx c).privileged.toNat
  | .tenant c => (s.ctx c).tenant
  | .checkMode c => (s.ctx c).validate.toNat
  | .routing c => (s.ctx c).routing.toNat
  | .wdl c => (s.ctx c).wdl
  | .pinQuota c => (s.ctx c).pinq + s.granulesHeld c
  | .bpmask c => (s.ctx c).bpmask.toNat
  | .shtbase c => (s.ctx c).shtbase
  | .shtlen c => (s.ctx c).shtlen
  | .fqbase c => (s.ctx c).fqbase
  | .fqlog c => (s.ctx c).fqlog
  | .swapbase c => (s.ctx c).swapbase
  | .swaplen c => (s.ctx c).swaplen
  | .cmd n => s.cmdWord n
  | .dbgsel n => s.dbgsel n
  | .clbudget cl => (s.bud cl).next
  | .cmdgo | .readOnly _ | .unnamed _ => 0

/-- Ring of a die's log. -/
def State.logRing (s : State) (die : Nat) (log : LogKind) : Ring := mget .init s.sl.logs (logKey die log)

/-- What a read shows. -/
def State.mgmtRead (s : State) : MgmtView → Nat
  | .reg r => s.mgmtGet r
  | .feat n => if n = 0 then feat0Value else 0
  | .featacc => s.host.featacc.toNat
  | .gcyc => s.now
  | .logOverflow die log => (s.logRing die log).overflow
  | .swapFull die => mget 0 s.host.swapFull die
  | .cread q => (s.queue q).cread
  | .overrun q => (s.queue q).overrun.toNat
  | .eqcfg c => (s.ctx c).eqcfg.toNat
  | .eqrem c => (s.ctx c).eqrem.toNat
  | .fqread c => (s.ctx c).fqread
  | .slcecc sl => (s.ecc sl).word.toNat
  | .slcinj sl which => (if which then (s.ecc sl).inj1 else (s.ecc sl).inj0).toNat
  | .slcocc sl ten => (s.slcocc sl ten).toNat
  | .degraded sl => (s.ecc sl).degraded.toNat
  | .clbstall cl => (s.clbstall cl).toNat
  | .yokestat pair => (s.yoke pair).word.toNat
  | .hmap r => (mget 0 s.sl.hmap r).toNat
  | .logEntry die log i => (((s.logRing die log).entries.find? fun e => e.1 == i).map fun e => e.2.toNat).getD 0
  | .logRead die log => (s.logRing die log).read
  | .cmdstat => s.cmdstat.toNat
  | .dbgstat => s.dbgstat.toNat
  | .dbgcmd | .unnamed => 0
  | .gslot n => (s.slotHdr n).word.toNat
  | .dbgState off => match s.dbgBlock.filter fun b => s.dbgOpens b s.dbgCrew with
    | some b => (s.dbgGet b s.dbgCrew off).toNat
    | none => 0

/-- What stands at an offset of the management space, where the manual gives the place: HMAP, the command window (Table 29.4), the debug
window (Table 29.7), and the offsets that no table names. None inside the groups of Table 29.1 whose layout the manual leaves open (log 53). -/
def mgmtAt (off : Nat) : Option MgmtView :=
  let dbg := off - 0x2800000
  if 0x1C00000 ≤ off && off < 0x1C04000 then some (.hmap ((off - 0x1C00000) / 2))
  else if 0x3000000 ≤ off && off < 0x3000040 then some (.reg (.cmd ((off - 0x3000000) / 4)))
  else if off = 0x3000040 then some (.reg .cmdgo)
  else if off = 0x3000044 then some .cmdstat
  else if 0x2800000 ≤ off && off < 0x2800010 then some (.reg (.dbgsel (dbg / 4)))
  else if off = 0x2800010 then some .dbgstat
  else if off = 0x2800014 then some .dbgcmd
  else if 0x2810000 ≤ off && off < 0x2813100 then some (.gslot ((dbg - 0x10000) / 8))
  else if 0x2880000 ≤ off && off < 0x2900000 then some (.dbgState (dbg - 0x80000))
  else if off < 0x100000 || (0x100000 ≤ off && off < 0x101000) || (0x200000 ≤ off && off < 0x280000) || (0x1000000 ≤ off && off < 0x1080000) ||
    (0x1800000 ≤ off && off < 0x1C00000) || (0x2000000 ≤ off && off < 0x2800000) then none
  else some .unnamed

end Sys2Proof.Machine
end

