-- ==== Sys2Proof/Tests/Slice0.lean ====
section
/-!
SUPPORT. Tests. The words are the worked encodings of spec/09, 11, 13, 15 and 17, and the operand values those of the same entries;
the results of single steps are the manual's worked examples.
-/
namespace Sys2Proof.Tests
open Sys2Proof Sys2Proof.Machine

-- One theorem after the other: in parallel they ask for more threads than the host allows.
set_option Elab.async false

/-! ## Words written out in the manual -/

/-- spec/09, the worked header: WAIT 0, SETA 1, SETB 0, LEN 2. -/
theorem test_word_header : decodeTableWord 32 0xFF000102 = some (.clauseHeader 0 1 0 2) := by decide

/-- spec/09, the worked load: REC 3, POL 7, WID 2, OFF 0xFFF0. -/
theorem test_word_ld : decodeTableWord 64 0x0C72FFF0750A0402 = some (.ld 5 1 0 2 ⟨3, 7, 2, 0xFFF0⟩) := by decide

/-- spec/11: a compare, a fused multiply, a selection, an immediate and a conversion. -/
theorem test_word_compute :
    decodeTableWord 32 0x12240703 = some (.icmp 0 2 2 1 0x60 3) ∧ decodeTableWord 32 0x2F080B80 = some (.ffma 4 2 0x70 0) ∧
    decodeTableWord 32 0x2B830819 = some (.sel 0x41 0x42 3 1) ∧ decodeTableWord 32 0x528BFFE8 = some (.movi 0x45 0x3FFD 0) ∧
    decodeTableWord 32 0x46040EC0 = some (.cvtf 2 3 1 3 0 0) := by decide

/-- spec/13: control flow, barriers, predicates and special registers. -/
theorem test_word_control :
    decodeTableWord 32 0x5403FFD3 = some (.bra 1 0x3FFA 3) ∧ decodeTableWord 32 0x680000E0 = some (.fence 3 4) ∧
    decodeTableWord 32 0x6B026840 = some (.plop 0 1 3 2 8 0) ∧ decodeTableWord 32 0x6F012478 = some (.wrsr 9 0x0F 0) ∧
    decodeTableWord 32 0x70000040 = some (.winbImm 8 0) ∧ decodeTableWord 32 0x71000018 = some (.cpart 3 0) := by decide

/-- spec/13: the crew modifier. -/
theorem test_word_crew :
    decodeTableWord 64 0x0000002B5F080000 = some (.vote 4 0 ⟨0, 0, 0, 0, 0x2B⟩) ∧
    decodeTableWord 64 0x44500000610C0800 = some (.cred 6 2 0 ⟨8, 1, 5, 0, 0⟩) := by decide

/-- spec/15: memory, pin and girth modifiers. -/
theorem test_word_memory :
    decodeTableWord 64 0x1062000080120413 = some (.atom 9 1 2 3 ⟨4, 6, 2, 0⟩) ∧
    decodeTableWord 64 0x0C730000760C0400 = some (.st 6 1 0 ⟨3, 7, 3, 0⟩) ∧
    decodeTableWord 64 0x0003004079080800 = some (.lds 4 2 0 0 ⟨0, 0, 3, 0x40⟩) ∧
    decodeTableWord 64 0x91D0000091890830 = some (.gupd 0x44 0x42 6 0 ⟨9, 0, 3, 1, 1⟩) ∧
    decodeTableWord 64 0x0040000090110800 = some (.gread 8 0x42 0 ⟨0, 0, 0, 1, 0⟩) ∧
    decodeTableWord 64 0x0000000987831000 = some (.pin 0x41 0x44 0 ⟨1, 1⟩) := by decide

/-- spec/17: matrix, queue and copy modifiers. -/
theorem test_word_matrix :
    decodeTableWord 64 0x0C9A000097060008 = some (.mmab 3 0 1 ⟨3, 9, 1, 0, 1, 0, 0, 0⟩) ∧
    decodeTableWord 64 0x000034009B040818 = some (.mmai4 2 2 3 ⟨0, 0, 0, 0, 0, 0, 1, 40⟩) ∧
    decodeTableWord 64 0x000040009E032800 = some (.astore 1 0x4A 0 ⟨0, 0, 0, 0, 1, 0, 0⟩) ∧
    decodeTableWord 64 0x00000003A4C02410 = some (.qpop 0x60 9 2 ⟨0, 3⟩) ∧
    decodeTableWord 64 0x40000000A8014000 = some (.cpyq 0x50 ⟨1, 0, 0, 0, 0, 0, 0⟩) ∧
    decodeTableWord 64 0x06000000AA018000 = some (.smelt 0x60 ⟨0, 1, 1, 0, 0, 0, 0⟩) := by decide

/-! ## Ill-formed words, one for each check -/

/-- LD with b[6:4] not zero (Table 15.2). -/
theorem test_bad_reserved : (Instr.ld 0 0 0x10 0 ⟨0, 0, 2, 0⟩).formError = some .reservedField := by decide
/-- A uniform IADD whose a is a vector register (Table 9.4). -/
theorem test_bad_class : (Instr.iadd 0x40 0 0 0).formError = some .registerClass := by decide
/-- A 64-bit sum into v1 (R145). -/
theorem test_bad_pair : (Instr.iadd64 1 2 4 0).formError = some .oddPair := by decide
/-- A 16-byte load into v2 (R210). -/
theorem test_bad_group : (Instr.ld 2 0 0 0 ⟨0, 0, 4, 0⟩).formError = some .group := by decide
/-- A vector compare into p0 (R149). -/
theorem test_bad_predicate : (Instr.icmp 0 0 0 1 2 0).formError = some .predicate := by decide
/-- Condition 6 of ICMP (R150). -/
theorem test_bad_condition : (Instr.icmp 0 6 1 1 2 0).formError = some .condition := by decide
/-- Rounding mode 5 of FRND. -/
theorem test_bad_code : (Instr.frnd 1 2 5 0).formError = some .code := by decide
/-- An atomic operation on 2 bytes (Table 15.3). -/
theorem test_bad_width : (Instr.atom 1 2 0 0 ⟨0, 0, 1, 0⟩).formError = some .width := by decide
/-- A write of special register 0 (R198). -/
theorem test_bad_special : (Instr.wrsr 0 0 0).formError = some .specialRegister := by decide
/-- Tile 16 (R240). -/
theorem test_bad_tile : (Instr.aclr 16).formError = some .tile := by decide
/-- Operand queue 8 (R240). -/
theorem test_bad_queue : (Instr.mmab 0 8 1 ⟨0, 0, 0, 0, 0, 0, 0, 0⟩).formError = some .queue := by decide
/-- A header with LEN 0 (R108). -/
theorem test_bad_header : (Instr.clauseHeader 0 0 0 0).formError = some .header := by decide

/-! ## Results worked in the manual -/

/-- spec/12, "Division without faults": quotients and remainders, with the corner rows. -/
theorem test_division :
    divU 7 0 = 0xFFFFFFFF ∧ remU 7 0 = 7 ∧ divS (-7) 0 = 0xFFFFFFFF ∧ remS (-7) 0 = 0xFFFFFFF9 ∧
    divS 0x80000000 (-1) = 0x80000000 ∧ remS 0x80000000 (-1) = 0 ∧ divS (-7) 2 = -3 ∧ remS (-7) 2 = -1 ∧
    divS 7 (-2) = -3 ∧ remS 7 (-2) = 1 := by decide

/-- The machine about to run a word, with registers of lane 0. -/
def about (nbits w : Nat) (cells : List (Nat × Nat)) : State :=
  cells.foldl (fun s c => s.setRegs (s.regs.setCell 1 0 c.1 0 (BitVec.ofNat 32 c.2))) (State.reset.withFetchWord nbits w)
/-- A register of lane 0 after one step. -/
def lane0After (s : State) (n : Nat) : Option Nat := match step s with
  | .next t => some (t.regs.vcell 1 0 n 0).toNat
  | .fault _ => none
  | .refused _ => none
/-- CFPS of the crew after one step. -/
def cfpsAfter (s : State) : Option Nat := match step s with
  | .next t => some (t.regs.crewSt 1 0).cfps.toNat
  | .fault _ => none
  | .refused _ => none

/-- spec/12, "FSHR across a word boundary": the rows 12, 32 and 64. (Its row 44 differs from R152, log 17.) -/
theorem test_fshr : ([12, 32, 64].map fun n => lane0After (about 32 0x23100C30 [(8, 0x89ABCDEF), (3, 0x01234567), (6, n)]) 8)
    = [some 0x56789ABC, some 0x01234567, some 0x89ABCDEF] := by decide +kernel

/-- spec/12, "Packing a NaN to BF16": the packed word. -/
theorem test_pack2 : lane0After (about 32 0x48140808 [(2, 0x7FC12345), (3, 0xFFA00000)]) 10 = some 0xFFE07FC1 := by decide +kernel

/-- spec/12, "Packing a NaN to BF16": NV is set, CFPS bit 0. -/
theorem test_pack2_nv : (cfpsAfter (about 32 0x48140808 [(2, 0x7FC12345), (3, 0xFFA00000)])).map (· % 2) = some 1 := by decide +kernel

/-- spec/10, the clause assembled by hand: IADD v1, v0, 16 wraps modulo 2^32 (R145). -/
theorem test_iadd_wraps : lane0After (about 32 0x00020280 [(0, 0xFFFFFFF8)]) 1 = some 8 := by decide +kernel

/-- spec/10, the same clause: FMUL v6, v5, 0.5 of 3.0 is 1.5. -/
theorem test_fmul : lane0After (about 32 0x2E0C1780 [(5, 0x40400000)]) 6 = some 0x3FC00000 := by decide +kernel

/-! ## Signatures (R4, R369) -/

/-- FIPS 180-4, the SHA-384 of "abc". -/
theorem test_sha384 : sha384 [0x61, 0x62, 0x63] =
    0xcb00753f45a35e8bb5a03d699ac65007272c32ab0eded1631a8b605a43ff5bed8086072ba1e7cc2358baeca134c825a7 := by decide +kernel

/-- RFC 5639: the base point of brainpoolP384r1 lies on the curve. -/
theorem test_curve_base : onCurve curveG = true := by decide +kernel

/-- The curve's group law: twice and three times the base point lie on the curve, and four times it less one is three times it. -/
theorem test_curve_add : ((curveMul 2 2 (some curveG)).any onCurve && (curveMul 2 3 (some curveG)).any onCurve &&
    curveAdd (curveMul 3 4 (some curveG)) (some (curveG.1, curveP - curveG.2)) == curveMul 2 3 (some curveG)) = true := by decide +kernel

end Sys2Proof.Tests
end

