-- ==== Sys2Proof/Tests/Witness.lean ====
section
/-!
SUPPORT. For the statements that have hypotheses: states and operands that meet them, clause by clause. A list holds one line for each
clause; a hypothesis `x = .ok …` is met where the function gives that outcome at all, so only its kind is tested.
-/
namespace Sys2Proof.Tests
open Sys2Proof Sys2Proof.Machine

-- One theorem after the other: in parallel they ask for more threads than the host allows.
set_option Elab.async false

/-- A crew of 32 lanes of block 1 on core 0, at an instruction of a clause. -/
def crew : State := State.reset.withFetchWord 32 0
/-- The block's feed thread, at an instruction of a clause. -/
def feed : State := State.reset.withFetchWord 32 0xAA000000
/-- With a k-register of the issuer. -/
def withK (s : State) (n v : Nat) : State := s.setRegs (s.regs.setK s.sch.cur.blk s.sch.cur.crew n (BitVec.ofNat 32 v))
/-- With p1 of lane 0. -/
def withP1 (s : State) : State := s.setRegs (s.regs.setP 1 0 0 1 true)
/-- With a cell of lane 0. -/
def withV (s : State) (n v : Nat) : State := s.setRegs (s.regs.setCell 1 0 n 0 (BitVec.ofNat 32 v))
/-- With a field of the launch record added. -/
def withField (s : State) (low v : Nat) : State :=
  s.setLaunch { s.launch 1 with record := (s.launch 1).record + BitVec.ofNat 1024 (v * 2 ^ low) }
/-- With record 0: 4 KiB from VA 0x100400 on, a stride of 4 bytes, and the other fields given. -/
def withRec (s : State) (base extra : Nat) : State :=
  { s with sp := { s.sp with recs := mput 0 s.sp.recs 64 (BitVec.ofNat 256 (base + 0x1000 * 2 ^ 64 + 4 * 2 ^ 112 + 2 ^ 188 + extra)) } }
/-- The record memory witnesses use. -/
def recs (s : State) : State := withRec s 0x100400 0
/-- With a pending operation of the crew. -/
def withPend (s : State) (p : Pend) : State := s.addPend { p with blk := 1 }
/-- A modifier of record 0 and policy k0, for 2^wid bytes. -/
def mod (wid : BitVec 4) : MemMod := { recNo := 0, pol := 0, wid := wid, off := 0 }
/-- Every check of a list holds. -/
def met (l : List Bool) : Bool := l.all id
/-- The checks pass, with or without lanes. -/
def okWith (c : Checked) (p : State → List LaneAcc → List Member → Bool) : Bool := match c with
  | .ok t ls oob => p t ls oob
  | _ => false
/-- The checks find an exception. -/
def trapped (c : Checked) : Bool := match c with
  | .trap _ => true
  | _ => false
/-- The checks find a walk under way. -/
def missed (c : Checked) : Bool := match c with
  | .miss _ => true
  | _ => false
/-- Without translations. -/
def noTlb (s : State) : State := s.setTlb []
/-- With these rights on its pages. -/
def withRights (r w : Bool) (s : State) : State := s.setTlb (s.pipe.tlb.map fun e => { e with tr := { e.tr with r := r, w := w } })

theorem witness_integer : met [
    (arithmeticRows ++ logicRows ++ divisionRows).all fun r =>
      crew.passes (r.instr 2 4 6 0) (computeIssue r.sh 2 4 6 0 1 r.feed crew) &&
      crew.passes (r.instr 0x42 0x44 0x40 0) (computeIssue r.sh 0x42 0x44 0x40 0 1 r.feed crew),
    unaryRows.all fun r => crew.passes (r.instr 2 4 0) (computeIssue r.sh 2 4 constZero 0 1 r.feed crew)] = true := by
  decide +kernel

theorem witness_division : (8 : Word) ≠ 0 ∧ remS 0xFFFFFFF8 3 ≠ 0 := by decide +kernel

theorem witness_carry_compare_select : met [
    crew.passes (.iaddc 2 4 6 0) (carryIssue 2 4 6 0 crew), crew.passes (.isubb 2 4 6 0) (carryIssue 2 4 6 0 crew),
    compareRows.all fun r => crew.passes (r.instr 0 0 1 2 4 0) (compareIssue r.sh 0 1 2 4 0 r.feed crew),
    (compareRows.take 3).all fun r => crew.passes (r.instr 1 0 1 0x42 0x44 0) (compareIssue r.sh 1 1 0x42 0x44 0 r.feed crew),
    crew.passes (.hcmp2 0 0 1 2 3 0) (packedCmpIssue 1 2 3 0 crew), crew.passes (.bcmp2 0 0 6 2 3 0) (packedCmpIssue 6 2 3 0 crew),
    crew.passes (.sel 1 2 3 5) { computeIssue {} 1 2 3 0 1 true crew with
      keys := (computeIssue {} 1 2 3 0 1 true crew).keys ++ crew.predKeys false 5 }] = true := by decide +kernel

theorem witness_float : met [
    (fp32Rows ++ packedRows ++ fp64Rows).all fun r => crew.passes (r.instr 2 4 6 0) (computeIssue r.sh 2 4 6 0 1 r.feed crew),
    (conversionRows 0 0 0 0 0).all fun r => crew.passes (r.instr 2 4 0) (computeIssue r.sh 2 4 constZero 0 1 r.feed crew),
    specialRows.all fun r => crew.passes (r.instr 2 4 0) (computeIssue r.sh 2 4 constZero 0 1 r.feed crew)] = true := by decide +kernel

theorem witness_move : met [
    crew.passes (.mov 1 2 0) { computeIssue {} 1 2 constZero 0 1 true crew with feed := false },
    crew.passes (.movi 1 5 0) (literalIssue 1 0 1 crew), crew.passes (.movl 1 0 5) (literalIssue 1 0 2 crew)] = true := by decide +kernel

/-- Every thread of the crew to one address. -/
def allTo (pc : Word) : List (Member × Word) := crew.sch.cur.members.map fun m => (m, pc)

theorem witness_transfer : met [
    crew.passes (.bra 0 1 0) { guard := 0 } && (crew.reachTargets (laneTargets (allTo 4))).isSome,
    crew.passes (.jmp 0 1) { words := 2, guard := 0, feed := true } && (crew.reachTargets (laneTargets (allTo 4))).isSome,
    (withV crew 2 4).passes (.jmpi 2 0) { guard := 0, keys := crew.aKeys 2 1 },
    crew.passes (.brau 0 1 1 0) { bound := .crew, guard := 0, feed := true, keys := [.q 1 0 1] },
    !(crew.uniformOn 0 && (crew.regs.qreg 1 0 1 != ((0 : BitVec 1) == 1))),
    crew.uniformOn 0 && (crew.regs.qreg 1 0 1 != ((1 : BitVec 1) == 1)), (crew.reachTargets [(0, 4)]).isSome,
    decide ((allTo 4).length = crew.sch.cur.members.length), decide (allTo 4 ≠ []), !crew.sch.cur.feed,
    decide ((allTo 4).take 5 ≠ []) && decide (((allTo 4).take 5).length ≠ crew.sch.cur.members.length)] = true := by decide +kernel

/-- A lane's access passes, or takes a fault, under a check. -/
def spillCheck (s : State) (n : Need) (a : Nat) : Checked := s.checkLanes 4 1 n [(⟨0, 0⟩, a)] []
/-- A refill load of lane 0 for the crew's RET, still to come or with its bytes. -/
def refill (parts : Nat) : Pend :=
  { Pend.blank with plan := .refill, pc := crew.sch.cur.pc, lanes := [{ lane := 0, crew := 0, got := [(0, [8, 0, 0, 0])], held := [] }], parts := parts }
/-- Lane 0 of the crew with a return stack, spilling to 0x101000; 12 is its depth's limit (4 + CALLDEPTH). -/
def stacked (depth : Nat) (hw : List Word) : State :=
  let s := withField crew 384 0x101000
  s.setRegs (s.regs.setCall 1 0 0 { depth := depth, hw := hw })

theorem witness_calls : met [
    crew.passes (.call 1 0) { guard := 0, feed := true }, crew.passes (.calli 2 0) { guard := 0, keys := crew.aKeys 2 1 },
    (allTo 4).any fun e => (((stacked 12 [1, 2, 3, 4]).stackOf e.1).depth == (stacked 12 [1, 2, 3, 4]).depthLimit),
    (allTo 4).all fun e => (((stacked 3 [1, 2, 3]).stackOf e.1).depth != (stacked 3 [1, 2, 3]).depthLimit) && (((stacked 3 [1, 2, 3]).stackOf e.1).hw.length != 4),
    okWith (spillCheck (stacked 11 [1, 2, 3, 4]) { w := true } ((stacked 11 [1, 2, 3, 4]).spillSlot ⟨0, 0⟩ 7)) fun _ ls _ => !ls.isEmpty,
    trapped (spillCheck (withRights true false (stacked 11 [1, 2, 3, 4])) { w := true } ((stacked 11 [1, 2, 3, 4]).spillSlot ⟨0, 0⟩ 7)),
    (withP1 (stacked 1 [])).passes (.ret 1) { guard := 1, feed := true }, ((withP1 (stacked 1 [])).voters 1).all fun m => ((stacked 1 []).stackOf m).depth == 1,
    ((withP1 (stacked 1 [])).voters 1).any fun m => refilled (withP1 (stacked 1 [])).refillsOf m == none && ((stacked 1 []).stackOf m).hw == [],
    trapped (spillCheck (withRights false false (stacked 1 [])) { r := true, l1 := [0] } 0x101000),
    okWith (spillCheck (stacked 1 []) { r := true, l1 := [0] } 0x101000) fun t ls _ => !t.loadBlocked ls,
    ((withP1 (stacked 1 [])).voters 1).all fun m => refilled (withPend (withP1 (stacked 1 [])) (refill 0)).refillsOf m == some 8,
    (withPend (withP1 (stacked 1 [])) (refill 0)).refillsOf.all fun p => p.parts == 0 && !p.poisoned, (withPend (withP1 (stacked 1 [])) (refill 1)).refillsOf.any fun p => p.parts != 0,
    crew.passes (.ret 0) { guard := 0, feed := true }, (crew.voters 0).any fun m => (crew.stackOf m).depth == 0,
    (stacked 1 [8]).passes (.ret 1) { guard := 1, feed := true },
    ((withP1 (stacked 1 [8])).voters 1).all fun m => ((stacked 1 [8]).stackOf m).depth != 0 && ((stacked 1 [8]).stackOf m).hw != [],
    (crew.reachTargets [(0, 8)]).isSome] = true := by decide +kernel

theorem witness_shaping : met [
    crew.passes .nop { feed := true }, crew.passes .yieldI { feed := true }, crew.passes .reform {}, !crew.sch.cur.pass,
    (crew.sch.file crew.curCore crew.curQtr crew.sch.cur 0 crew.sch.cur.clause crew.sch.cur.members crew.now).isSome,
    crew.passes (.exit 1) { guard := 1 }, decide (crew.lanesOn 1 = []), decide (crew.lanesOn 0 ≠ []) && crew.passes (.exit 0) { guard := 0 }] = true := by
  decide +kernel

theorem witness_header : met [
    (Instr.clauseHeader 1 12 12 15).formError.isNone, !formIllop (.clauseHeader 1 12 12 1), decide ((crew.block 1).st ≠ .stopping),
    (withPend crew { Pend.blank with flag := 1 }).waitsOn 1, !crew.waitsOn 1] = true := by decide +kernel

/-- A crew modifier of the crew's own live lanes. -/
def cmod (opc : BitVec 5) (type : BitVec 4) : CrewMod := { opc := opc, some := 0, mkReg := 0, type := type, imm := 0 }

theorem witness_crew_operations : met [
    crew.passes (.vote 2 0 (cmod 0 0)) (crewIssue 2 constZero constZero 1 0 [0, 0] 0 (cmod 0 0) crew),
    crew.passes (.shfl 2 4 6 0 (cmod 3 1)) (crewIssue 2 4 6 2 2 [0] 0 (cmod 3 1) crew),
    crew.passes (.cred 2 4 0 (cmod 0 0)) (crewIssue 2 4 constZero 1 1 [] 0 (cmod 0 0) crew),
    crew.passes (.cscan 2 4 0 (cmod 0 0)) (crewIssue 2 4 constZero 1 1 [] 0 (cmod 0 0) crew),
    crew.passes (.matchEq 2 4 0 (cmod 0 0)) (crewIssue 2 4 constZero 1 1 [0] 0 (cmod 0 0) crew),
    crew.passes (.csync 0 (cmod 0 0)) { words := 2, bound := .members (cmod 0 0), guard := 0, keys := crew.maskKeys (cmod 0 0) }] = true := by
  decide +kernel

theorem witness_reduction : met [(List.replicate 32 (0xFFFFFFFF : DWord)).length == 2 ^ 5, (List.replicate 32 (0xFFFFFFFF : DWord)).all fun x => x.toNat < 2 ^ 32] = true := by
  decide +kernel

/-- The crew waits at barrier 3 of its block. -/
def atBar : State := { (crew.park (.bar 3 false none) 1).dropCur with sch := { (crew.park (.bar 3 false none) 1).dropCur.sch with
  bundles := [(crew.park (.bar 3 false none) 1).sch.cur] } }

theorem witness_barriers : met [
    crew.passes (.bar 0 15) { bad := (0 : BitVec 1) == 1 && (crew.launchOf 1).group == 1 }, crew.passes .lbar {},
    atBar.barReady [1] 3 false, !atBar.guardedBlk 1, atBar.sch.bundles.any fun v => v.blk == 1 && v.wait == .bar 3 false none] = true := by decide +kernel

theorem witness_waitcmp : met [
    (recs crew).passes (.waitcmp 0 5 2 4 0 (mod 2))
      { words := 2, guard := 0, keys := crew.aKeys 2 1 ++ crew.bKeys false 4 1 ++ crew.polKeys 0 },
    decide (crew.pairOf 1 = none), !crew.polIllop (mod 2) false true,
    okWith ((recs crew).laneCheck 2 1 (mod 2) { r := true }) fun _ ls _ => ls.isEmpty,
    okWith ((recs crew).laneCheck 2 0 (mod 2) { r := true }) fun t ls _ => !ls.isEmpty && !t.loadBlocked ls] = true := by
  decide +kernel

theorem witness_fences : met [
    crew.passes (.fence 3 5) {} && !crew.fenceWaits 3 true, crew.passes (.fence 1 0) {} && !crew.fenceWaits 1 false,
    crew.passes (.gfence 5) { feat := some 0 }, crew.passes .fenceo {}, crew.passes (.fencer 4) {}] = true := by decide +kernel

theorem witness_predicates : met [
    crew.passes (.plop 0 7 0 1 9 0) { keys := [(7 : BitVec 3), 1, 0].flatMap fun n => crew.predKeys false n.toNat },
    crew.passes (.plop 1 3 0 1 9 0) { bound := .crew, keys := [(3 : BitVec 3), 1, 0].flatMap fun n => crew.predKeys true n.toNat },
    crew.passes (.v2p 0 2 4 0) { keys := crew.aKeys 2 1 ++ crew.bKeys false 4 1 ++ (List.range 8).flatMap fun n => crew.predKeys false n },
    crew.passes (.p2v 9 0) { keys := crew.fieldKeys 9 false 1 ++ (List.range 8).flatMap fun n => crew.predKeys false n },
    crew.passes (.p2v 0x49 0) { bound := .crew, keys := crew.fieldKeys 0x49 true 1 ++ (List.range 8).flatMap fun n => if 4 ≤ n then [] else crew.predKeys true n }] = true := by
  decide +kernel

theorem witness_special_registers : met [
    crew.passes (.rdsr 3 0 0) { bound := .none, feed := false, keys := crew.fieldKeys 3 false 1 },
    crew.passes (.rdsr 0x43 0x10 0) { bound := .crew, feed := true, keys := crew.fieldKeys 0x43 true 1 } && !crew.flagsPending 1 0,
    crew.passes (.wrsr 5 0x0D 0) { bound := .crew, keys := [.k 1 0 5] }, crew.uniformOn 0, !crew.uniformOn 1,
    crew.passes (.wrsr 5 0x0F 1) { bound := .crew, guard := 1, keys := [.k 1 0 5] },
    crew.wrsrBad 0x0D 0, !crew.wrsrBad 0x0D 128, !crew.wrsrBad 0x0F 0, !crew.wrsrBad 0x10 31, !crew.matrixPending 1 0,
    crew.passes (.winbImm 8 0) { bound := .crew }, decide (8 * 8 + 64 ≤ (crew.regs.crewSt 1 0).abnd), decide ((crew.regs.crewSt 1 0).abnd < 8 * 9 + 64),
    crew.passes (.winbReg 5 0) { bound := .crew, keys := [.k 1 0 5] }, crew.passes (.cpart 1 0) { bound := .crew }] = true := by decide +kernel

/-- A phase with id 7 in a context. -/
def withPhase (ctx : Nat) : State := withK { crew with disp := { crew.disp with levels :=
  [{ kind := 2, id := 7, ctx := ctx, parent := 0, counter := 1, closed := false, anyKilled := false, anyCancelled := false, ended := false, stopped := false, queue := 0 }] } } 5 7

theorem witness_system : met [
    crew.passes (.trap 127 0) { guard := 0 } && !crew.trapEnabled 127, crew.passes (.trap 111 0) { guard := 0 } && crew.trapEnabled 111,
    decide (crew.pairOf 1 = none), crew.passes (.cancelSelf 0 0) { bound := .crew }, decide ((crew.launchOf 1).levelId 0 ≠ 0), crew.levelLive 0 0 ((crew.launchOf 1).levelId 0),
    decide ((crew.launchOf 1).levelId 2 = 0), crew.passes (.cancelId 5 2 0) { bound := .crew, keys := [.k 1 0 5] },
    (withPhase 0).levelLive 0 2 7, !(withPhase 3).levelLive 0 2 7 && (withPhase 3).levelElsewhere 0 2 7, !(withPhase 3).levelElsewhere 0 2 8,
    crew.passes (.wqpop 5 3 0) { bound := .crew, keys := [.k 1 0 5, .q 1 0 3] }, crew.passes (.wqpush 5 0 0) { bound := .crew, keys := [.k 1 0 5, .q 1 0 0] },
    !crew.releaseWaits 1 0 4] = true := by decide +kernel

/-- A buffered store of 4 bytes at PA 0x100400. -/
def sbe (id : Nat) (left : Bool) : SbEntry :=
  { id := id, core := 0, qtr := 0, blk := 1, crew := 0, pa := 0x100400, bytes := [(0, 1), (1, 2), (2, 3), (3, 4)], home := 0, pol := 0, epoch := 0,
    pends := [], ctx := 0, ccls := 0, ilv := 0, after := [], left := left }
/-- The 32 entries of a full store buffer. -/
def fullBuffer : List SbEntry := (List.range 32).map fun i => { sbe (7 + i) false with pa := 0x200000 + 64 * i }
/-- With buffered stores. -/
def withSbuf (s : State) (es : List SbEntry) : State := { s with pipe := { s.pipe with sbuf := es } }
/-- With a release fence that waits for a pending operation 9. -/
def fencedBy9 (s : State) : State := { s with
  sch := { s.sch with fences := [{ blk := 1, crew := 0, scope := 4, waits := [9], leave := [], girth := true, ms := s.sch.cur.members }] }
  pipe := { s.pipe with pends := [{ Pend.blank with id := 9 }] } }
/-- With its block in a guarded pair, and a buffer line held for each number below n. -/
def guardedBy (s : State) (n : Nat) : State := { s with grd := { s.grd with
  pairs := [{ primary := 1, twin := 2, arrived := [], go := [], acts := [], ended := [], acts0 := [], ended0 := [], holdPts := [], rollbacks := 0,
              bad := false, checking := false, restoring := false, area := [] }]
  hold := (List.range n).map fun i => { blk := 1, crew := 0, pa := 0x200000 + 64 * i, bytes := [], home := 0, pol := 0, ctx := 0, ccls := 0, ilv := 0, pends := [] } } }
/-- The clauses that AccessRules has before an access's own effect: a bad policy word; an exception; a walk; the lanes. -/
def accessRules (s : State) (noAcq noRel : Bool) (m : MemMod) (c : State → Checked) : Bool :=
  (withK s 0 0x80000000).polIllop m noAcq noRel && !s.polIllop m noAcq noRel && trapped (c (withRec s 0x100402 0)) && missed (c (noTlb s)) && okWith (c s) fun _ ls _ => !ls.isEmpty

theorem witness_loads : met [
    (recs crew).passes (.ld 2 4 0 0 (mod 2)) (vecIssue 2 4 1 0 (mod 2) [] (recs crew)), (recs crew).passes (.ldx 2 4 0 0 (mod 5)) (vecIssue 2 4 8 0 (mod 5) [] (recs crew)) == false,
    (recs crew).passes (.ldx 8 4 0 0 (mod 5)) (vecIssue 8 4 8 0 (mod 5) [] (recs crew)), (recs crew).passes (.ldk 0x42 0x44 0 0 (mod 2)) (uniIssue 0x42 0x44 1 0 (mod 2) [] (recs crew)),
    accessRules (recs crew) false true (mod 2) fun s => s.laneCheck 4 0 (mod 2) { r := true },
    okWith ((recs crew).uniCheck 0x44 0 (mod 2) { r := true }) fun t ls _ => !ls.isEmpty && !t.loadBlocked ls,
    okWith ((recs crew).uniCheck 0x44 1 (mod 2) { r := true }) fun _ ls _ => ls.isEmpty,
    okWith ((withSbuf (recs crew) [sbe 7 false]).laneCheck 4 0 (mod 2) { r := true }) fun t ls _ => t.loadBlocked ls] = true := by decide +kernel

theorem witness_stores : met [
    (recs crew).passes (.st 2 4 0 (mod 6)) (vecIssue 2 4 16 0 (mod 6) [] (recs crew)) == false, (recs crew).passes (.st 16 4 0 (mod 6)) (vecIssue 16 4 16 0 (mod 6) [] (recs crew)),
    (recs crew).passes (.stm 2 4 6 0 (mod 2)) (vecIssue 2 4 1 0 (mod 2) ((recs crew).bKeys false 6 1) (recs crew)),
    (recs crew).passes (.stk 0x42 0x44 0 (mod 2)) (uniIssue 0x42 0x44 1 0 (mod 2) [] (recs crew)),
    accessRules (recs crew) true false (mod 2) fun s => s.laneCheck 4 0 (mod 2) { align := true, store := true },
    okWith ((recs crew).laneCheck 4 1 (mod 2) { align := true, store := true }) fun _ ls _ => ls.isEmpty,
    (fencedBy9 crew).writeWaits fun _ => 0, !crew.writeWaits fun _ => 0,
    okWith ((recs crew).laneCheck 4 0 (mod 2) { store := true }) fun t ls _ => t.room (lineStores (fun _ => 0) (storeAccs ls fun _ => ([1, 2, 3, 4], fullMask))) == .enter,
    okWith ((withSbuf (recs crew) fullBuffer).laneCheck 4 0 (mod 2) { store := true }) fun t ls _ => t.room (lineStores (fun _ => 0) (storeAccs ls fun _ => ([1, 2, 3, 4], fullMask))) == .wait,
    okWith ((guardedBy (recs crew) 512).laneCheck 4 0 (mod 2) { store := true }) fun t ls _ => t.room (lineStores (fun _ => 0) (storeAccs ls fun _ => ([1, 2, 3, 4], fullMask))) == .holdovf] = true := by
  decide +kernel

/-- The outcome of an instruction is a next state. -/
def goes (i : Instr) (s : State) : Bool := match exec i s with
  | .next _ => true
  | _ => false

theorem witness_access_frame : met [goes (.ld 2 4 0 0 (mod 2)) (recs crew), goes (.ldx 2 4 0 0 (mod 2)) (recs crew), goes (.st 2 4 0 (mod 2)) (recs crew),
    goes (.stm 2 4 6 0 (mod 2)) (recs crew), goes (.stk 0x42 0x44 0 (mod 2)) (recs crew), goes (.pref 4 0 0 (mod 2)) (recs crew),
    goes (.lds 2 4 0 0 (mod 2)) crew, goes (.ldp 2 4 6 0 (mod 2)) crew] = true := by decide +kernel

/-- The scratchpad checks answer lanes, or the wait, or an exception. -/
def spadOk (r : SpadRes) : Bool := match r with
  | .ok l => !l.isEmpty
  | _ => false
/-- An exception of the scratchpad checks. -/
def spadTrap (r : SpadRes) : Bool := match r with
  | .trap _ => true
  | _ => false
/-- Block 1 of a group of 2, whose member 1 is block 2, swapped out. -/
def pairUp : State := withField { crew with disp := { crew.disp with blocks := crew.disp.blocks ++ [{ Block.none with id := 2, launch := 1, lin := 1, st := .swapped }] } } 296 1

theorem witness_scratchpad : met [
    crew.passes (.lds 2 4 0 0 (mod 2)) (vecIssue 2 4 1 0 (mod 2) [] crew), crew.passes (.ldp 2 4 6 0 (mod 2)) (vecIssue 2 4 1 0 (mod 2) (crew.bKeys false 6 1) crew),
    crew.passes (.sts 2 4 0 (mod 2)) (vecIssue 2 4 1 0 (mod 2) [] crew), crew.passes (.stsm 2 4 6 0 (mod 2)) (vecIssue 2 4 1 0 (mod 2) (crew.bKeys false 6 1) crew),
    crew.passes (.stp 2 4 6 0 (mod 2)) (vecIssue 2 4 1 0 (mod 2) (crew.bKeys false 6 1) crew),
    (withK crew 0 0x80000000).polIllop (mod 2) false true, (withK crew 0 0x80000000).polIllop (mod 2) true false, !crew.polIllop (mod 2) false true, !crew.polIllop (mod 2) true false,
    spadOk (crew.ownSpad 4 0 (mod 2)), spadTrap ((withV crew 4 2).ownSpad 4 0 (mod 2)), spadOk (crew.peerSpad 4 6 0 (mod 2)), spadTrap ((withV crew 6 1).peerSpad 4 6 0 (mod 2)),
    (withV pairUp 6 1).peerSpad 4 6 0 (mod 2) == .wait, { crew with sp := { crew.sp with absent := [(spadKey 1 0 / 64, 1)] } }.lineAbsent 1 0 4, !crew.lineAbsent 1 0 4,
    (fencedBy9 crew).writeWaits fun _ => 0, !crew.writeWaits fun _ => 0] = true := by decide +kernel

/-- A valid record in k8 to k15: BASE 0, EXTENT 0, DIMS 1; and in k16, k17 an address of the page. -/
def kRec : State := withK (withK crew 13 0x10000000) 16 0x100400

theorem witness_maintenance : met [
    crew.passes (.invl1 0) {}, crew.passes (.invl1 1) { guard := 1 }, decide (crew.lanesOn 1 = []), decide (crew.lanesOn 0 ≠ []),
    kRec.passes (.invl1Line 16 0) { keys := kRec.sch.cur.crews.flatMap fun c => [.k 1 c 16, .k 1 c 17] },
    decide (crewsOf (kRec.lanesOn 0) = [0]), (match (kRec.translate 0 0 (kRec.regs.kval 1 0 16 true).toNat).1 with
      | .ok _ => true
      | _ => false),
    (recs crew).passes (.pref 4 0 0 (mod 2)) { words := 2, keys := crew.aKeys 4 1 ++ crew.polKeys 0 }, (withK crew 0 0x80000000).polIllop (mod 2) false true,
    !crew.polIllop (mod 2) false true, okWith ((recs crew).laneCheck 4 0 (mod 2) { align := false, r := true, silent := true }) fun _ ls _ => !ls.isEmpty,
    missed ((noTlb (recs crew)).laneCheck 4 0 (mod 2) { align := false, r := true, silent := true }),
    kRec.passes (.recld 0x48 0 0 (mod 0)) { words := 2, bound := .crew, keys := kRec.fieldKeys 0x48 true 8 }, kRec.uniformOn 0, !kRec.uniformOn 1,
    recInvalid (recOfWords ((List.range 8).map fun j => crew.regs.kreg 1 0 (8 + j))), !recInvalid (recOfWords ((List.range 8).map fun j => kRec.regs.kreg 1 0 (8 + j))),
    kRec.passes (.recld 0x50 1 0 (mod 0)) { words := 2, bound := .crew, keys := kRec.fieldKeys 0x50 true 2 ++ kRec.polKeys 0 },
    okWith (kRec.checkLanes 32 2 { r := true } [(⟨0, 0⟩, 0x100400)] []) fun t ls _ => !t.loadBlocked ls] = true := by decide +kernel

theorem witness_atomics : met [
    decide (crew.pairOf 1 = none), (recs crew).passes (.atom 2 4 0 1 (mod 2)) (atomIssue ⟨0, 4, true⟩ 2 4 0 1 (mod 2) (recs crew)),
    (recs crew).passes (.red 2 4 0 1 (mod 2)) (atomIssue ⟨0, 4, false⟩ 2 4 0 1 (mod 2) (recs crew)),
    (recs crew).passes (.cas 2 4 0 1 (mod 2)) (atomIssue ⟨12, 4, true⟩ 2 4 0 1 (mod 2) (recs crew)),
    (recs crew).passes (.atomk 0x42 0x44 0 0 (mod 2)) (uniIssue 0x42 0x44 1 0 (mod 2) [] (recs crew)),
    accessRules (withP1 (recs crew)) false false (mod 2) fun s => s.atomCheck (mod 2) 4 true (s.elemLanes 4 1),
    trapped ((recs crew).atomCheck (mod 2) 4 true (crew.elemLanes 4 0)), okWith ((recs crew).atomCheck (mod 2) 4 false (crew.uniformElem 0x44 0)) fun _ ls _ => !ls.isEmpty,
    okWith ((withSbuf (withP1 (recs crew)) [sbe 7 false]).atomCheck (mod 2) 4 true ((withP1 crew).elemLanes 4 1)) fun t ls _ => !ls.isEmpty && t.atomBlocked ls,
    okWith ((withP1 (recs crew)).atomCheck (mod 2) 4 true ((withP1 crew).elemLanes 4 1)) fun t ls _ => !(t.atomBlocked ls || t.orderWaits fun _ => 0)] = true := by decide +kernel

/-- A copy of a line of its own at slice 3, beside another home's. -/
def ownCopy : State := { crew with sl := { crew.sl with lines := [{ slice := 3, line := 0x4010, set := 0, way := 0, cls := 1, filler := 0, dirty := true, used := 0, own := some (List.replicate 64 7, 0) }] } }

theorem witness_home : met [(ownCopy.mscFind 3 0x4010).any fun m => m.own.isSome, paRegion 0x100400 == .hbm, crew.sl.lines.isEmpty && crew.pipe.atoms.isEmpty, decide (0x100400 % 64 + 8 ≤ 64),
    !crew.poisonedAt 0x100400 8, { crew with mem := { crew.mem with poison := [(0x20080, true)] } }.poisonedAt 0x100400 8,
    decide (([(0, 1), (63, 2)] : List (Nat × Byte)).map fun e => e.1).Nodup] = true := by decide +kernel

/-- A user context. -/
def user : State := crew.setCtx 0 { crew.ctx 0 with privileged := false }
/-- A contract modifier. -/
def kmod : ContractMod := { kind := 0, life := 0 }

theorem witness_contracts : met [
    crew.passes (.pin 0x42 0x44 0 kmod) (groupIssue 0x42 0x44 4 0 crew), crew.passes (.unpin 0x42 0x44 0 kmod) (groupIssue 0x42 0x44 2 0 crew),
    crew.passes (.cctr 0x42 0x48 0 kmod) (groupIssue 0x42 0x48 8 0 crew), crew.passes (.stpart 0x42 0x44 0 kmod) (groupIssue 0x42 0x44 4 0 crew),
    crew.passes (.pin 0x42 0x44 1 kmod) (groupIssue 0x42 0x44 4 1 crew), crew.passes (.unpin 0x42 0x44 1 kmod) (groupIssue 0x42 0x44 2 1 crew),
    crew.passes (.cctr 0x42 0x48 1 kmod) (groupIssue 0x42 0x48 8 1 crew), crew.passes (.stpart 0x42 0x44 1 kmod) (groupIssue 0x42 0x44 4 1 crew),
    user.passes (.cctr 0x42 0x48 0 kmod) (groupIssue 0x42 0x48 8 0 user), user.passes (.stpart 0x42 0x44 0 kmod) (groupIssue 0x42 0x44 4 0 user),
    decide (crew.pairOf 1 = none), crew.uniformOn 0, !crew.uniformOn 1, (crew.ctx 0).privileged, !(user.ctx 0).privileged] = true := by decide +kernel

/-- A reserve contract of 3 pages in context 0. -/
def withRes (s : State) : State := { s with kv := { s.kv with res := mput none s.kv.res 0 (some
  { quota := 3, ch := 256, rope := false, omega := [], backbase := 0, slices := [0], trs := [] }) } }
/-- A KV modifier. -/
def vmod : KvMod := { vr := 0, mode := 0, qd := 0 }

theorem witness_kv : met [
    decide ((crew.joined .whole).pairOf 1 = none), crew.passes (.kvapp 0x44 0 vmod) (kvIssue (crew.fieldKeys 0x44 true 3 ++ crew.vrKeys 0 8) 0), !(crew.joined .whole).uniformOn 1, (crew.joined .whole).uniformOn 0,
    decide (2 ^ 24 ≤ ((withK (withRes crew) 6 0x1000000).opK 0x44 2).toNat), decide (((withK crew 6 0xFFFFFF).opK 0x44 2).toNat < 2 ^ 24),
    decide ((crew.joined .whole).reserve 0 = none), ((withRes crew).reserve 0).isSome && ((withK (withRes crew) 5 2).opK 0x44 1).toNat == 2 && (crew.opK 0x44 0).toNat == 0,
    !(crew.joined .whole).forkWaits,
    crew.passes (.kvfork 0x42 0x44 0 vmod) { words := 2, bound := .crew, feat := some 1, keys := crew.fieldKeys 0x42 true 1 ++ crew.fieldKeys 0x44 true 1 ++ crew.predKeys true 0 },
    crew.passes (.kvfree 0x44 0 vmod) { words := 2, bound := .crew, feat := some 1, keys := crew.fieldKeys 0x44 true 1 },
    crew.passes (.kvhm 0x42 0x44 0 vmod) (kvIssue (crew.fieldKeys 0x42 true 1 ++ crew.fieldKeys 0x44 true 1 ++ crew.vrKeys 0 8) 0),
    decide ((withRes crew).quota 0 ≤ ((withK crew 4 3).opK 0x44 0).toNat), decide ((crew.opK 0x44 0).toNat < (withRes crew).quota 0),
    crew.passes (.assay 0x42 0x44 0 vmod) (kvIssue (crew.fieldKeys 0x42 true 1 ++ crew.fieldKeys 0x44 true 4 ++ crew.vrKeys 0 4) 0),
    decide (4096 < ((withK crew 5 4097).opK 0x44 1).toNat), decide (((withK crew 5 4096).opK 0x44 1).toNat ≤ 4096), decide (((withK crew 4 2).opK 0x44 0).toNat % 4 ≠ 0),
    decide ((crew.launchOf 1).scratch < ((withK crew 4 65536).opK 0x44 0).toNat + 4), decide (0 + 4 * 4096 ≤ (crew.launchOf 1).scratch)] = true := by decide +kernel

/-- A girth modifier. -/
def gmod (op : BitVec 4) : GirthMod := { op := op, w64 := 0, word := 0, pen := 0, qd := 0 }
/-- A launch with no segment. -/
def noSeg : State := crew.setLaunch { crew.launch 1 with record := 0 }

theorem witness_girth : met [
    crew.passes (.gread 2 0x44 0 (gmod 0)) (girthIssue (crew.fieldKeys 2 false 1 ++ crew.fieldKeys 0x44 true 1 ++ crew.qdKeys (gmod 0)) 0),
    crew.passes (.gupd 0x42 0x44 6 0 (gmod 0)) (girthIssue (crew.fieldKeys 0x42 true 1 ++ crew.fieldKeys 0x44 true 1 ++ crew.fieldKeys 6 true 1 ++ crew.qdKeys (gmod 0)) 0),
    crew.passes (.gcinch 2 0x44 0 (gmod 0)) (girthIssue (crew.fieldKeys 2 false 1 ++ crew.fieldKeys 0x44 true 1) 0),
    crew.passes (.gclose 0x44 16 0 (gmod 0)) (girthIssue (crew.fieldKeys 0x44 true 1 ++ crew.fieldKeys 16 true 16 ++ crew.qdKeys (gmod 0)) 0),
    crew.passes (.gmount 0x42 0x44 16 0 (gmod 0)) (girthIssue (crew.fieldKeys 0x42 true 1 ++ crew.fieldKeys 0x44 true 1 ++ crew.fieldKeys 16 true 16) 0),
    crew.passes (.gdismt 2 0x44 0 (gmod 1)) (girthIssue (crew.fieldKeys 2 false 1 ++ crew.fieldKeys 0x44 true 1 ++ crew.qdKeys (gmod 1)) 0),
    crew.passes (.gread 2 0x44 1 (gmod 0)) (girthIssue (crew.fieldKeys 2 false 1 ++ crew.fieldKeys 0x44 true 1 ++ crew.qdKeys (gmod 0)) 1),
    decide (crew.pairOf 1 = none), !crew.uniformOn 1, crew.uniformOn 0, (crew.launchOf 1).inSegment 0 && (crew.launchOf 1).inSegment 15, !(crew.launchOf 1).inSegment 16,
    !crew.girthFenced crew.sch.cur, decide ((crew.gi.ops.filter fun o => o.stop == crew.curCore).length < 32), decide (crew.opK 0x44 0 = 0), decide ((withK crew 4 1).opK 0x44 0 ≠ 0),
    decide ((crew.launchOf 1).glen ≠ 0), decide ((noSeg.launchOf 1).glen = 0),
    noSeg.passes (.gmount 0x42 0x44 16 0 (gmod 0)) (girthIssue (crew.fieldKeys 0x42 true 1 ++ crew.fieldKeys 0x44 true 1 ++ crew.fieldKeys 16 true 16) 0)] = true := by
  decide +kernel

/-- With an entry in a window of quarter 0. -/
def withEntry (s : State) (q : Nat) (bad : Bool) : State := { s with sp := { s.sp with wins := s.sp.wins ++
  [{ blk := 1, qtr := 0, q := q, entries := [{ id := 90 + q, landed := true, data := [], bad := bad }], pushers := [] }] } }
/-- With no feed thread left. -/
def noFeed (s : State) : State := s.setBlock { s.block 1 with feedDone := true }
/-- With the window's DEPTH taken away. -/
def noWin (s : State) : State := s.setLaunch { s.launch 1 with record := 0 }
/-- An MMA modifier. -/
def amod : MmaMod := { pm1 := 0, vc := 0, vce := 0, ka := 0, kb := 0, gs := 0, sel := 0, sr := 0 }
/-- A pop finds data. -/
def found (p : Popped) : Bool := match p with
  | .data _ => true
  | _ => false

theorem witness_mma : met [
    mmaRowsAll.all fun r => crew.passes (r.instr 3 0 1 amod) (mmaIssue 3 amod r.depth r.feat crew), !((noWin crew).panelQueue 0 && (noWin crew).panelQueue 1),
    crew.panelQueue 0 && crew.panelQueue 7, (noFeed crew).popLook 1 0 0 1 == .stuck, crew.popLook 1 0 0 1 == .wait,
    found ((withEntry crew 0 true).popLook 1 0 0 1), found ((withEntry (withEntry crew 0 false) 1 false).popLook 1 0 1 1)] = true := by decide +kernel

theorem witness_tile_set : met [decide (crew.sch.cur.crew < 32), decide (crew.tileAt 3 + 32 ≤ 1024), (List.replicate 32 (List.replicate 32 0x7F800000)).length == 32,
    (List.replicate 32 (List.replicate 32 0x7F800000)).all fun r => r.length == 32 && r.all fun x => decide (x < 2 ^ 32)] = true := by decide +kernel

/-- ASTORE to scratchpad, to queue 0, to memory, as I8. -/
def smod (dst lay fmt : BitVec 2) : AstoreMod := { recNo := 0, pol := 0, dst := dst, lay := lay, fmt := fmt, rf := 0, sc := 0 }
/-- The record of an ASTORE to memory: two dimensions, 32 elements of I8 by 32 bytes. -/
def rec2 (s : State) : State := { s with sp := { s.sp with recs := mput 0 s.sp.recs 64 (BitVec.ofNat 256
  (0x100400 + 0x1000 * 2 ^ 64 + 1 * 2 ^ 112 + 32 * 2 ^ 144 + 0x0C * 2 ^ 176 + 2 * 2 ^ 188 + 32 * 2 ^ 192)) } }

theorem witness_tiles : met [
    crew.passes (.aclr 3) (tileIssue 3 1 [] crew), crew.passes (.aload 0 0x44 { lay := 1, fmt := 2 }) (tileIssue 0 2 [.k 1 0 4] crew),
    decide (((withK crew 4 32).regs.kreg 1 0 4).toNat % 64 ≠ 0), decide ((crew.launchOf 1).scratch < ((withK crew 4 65536).regs.kreg 1 0 4).toNat + 2048),
    decide (61440 + 1024 * 4 ≤ (crew.launchOf 1).scratch), { crew with sp := { crew.sp with absent := [(spadKey 1 0 / 64, 1)] } }.lineAbsent 1 0 4096, !crew.lineAbsent 1 0 4096,
    crew.passes (.astore 0 0x44 0 (smod 0 0 0)) (tileIssue 0 2 (astoreKeys 0x44 0 (smod 0 0 0) crew) crew), decide (61440 + layBytes 0 0 ≤ (crew.launchOf 1).scratch),
    crew.passes (.astore 0 0 0 (smod 2 3 1)) (tileIssue 0 2 (astoreKeys 0 0 (smod 2 3 1) crew) crew), crew.panelQueue 0, !(noWin crew).panelQueue 0,
    decide ((crew.win 1 0 0).entries.length < crew.winDepth 1 0), (noWin crew).winDepth 1 0 == 0, crew.consumerBound 1 0 0,
    crew.passes (.astore 0 0x44 0 (smod 1 0 0)) (tileIssue 0 2 (astoreKeys 0x44 0 (smod 1 0 0) crew) crew), decide (recDims (crew.record 1 0) ≠ 2),
    recDims ((rec2 crew).record 1 0) == 2, (recConv (recFmt ((rec2 crew).record 1 0))).isSome, !crew.polIllop (astoreModMem (smod 1 0 0)) true false,
    okWith ((rec2 crew).checkOffsets ((rec2 crew).record 1 0) 1 2 { store := true } [(⟨0, 0⟩, astoreOffset ((rec2 crew).record 1 0) 0 0 31 31)]) fun t ls _ =>
      !ls.isEmpty && t.room (lineStores (fun _ => 0) (storeAccs ls fun _ => ([1], fullMask))) == .enter] = true := by decide +kernel

theorem witness_rows : met [
    crew.passes (.arowmx 2 3 4) (tileIssue 3 1 (crew.fieldKeys 2 false 1 ++ crew.bKeys false 4 1) crew), crew.passes (.aexpb 0 3 4 1) (tileIssue 3 2 (crew.bKeys false 4 1) crew),
    crew.passes (.aexpb 0 3 4 0) (tileIssue 3 2 (crew.bKeys false 4 1) crew), crew.panelQueue 0, !(noWin crew).panelQueue 0,
    crew.passes (.ashift 3 4) (tileIssue 3 1 (crew.bKeys false 4 1) crew), crew.passes (.arowsm 2 3 4) (tileIssue 3 1 (crew.fieldKeys 2 false 1 ++ crew.bKeys false 4 1) crew)] = true := by
  decide +kernel

/-- A pop modifier. -/
def pmod : QpopMod := { peek := 0, cnt := 0 }

theorem witness_queues : met [
    crew.passes (.qpush 11 0) { words := 2, bound := .whole }, decide ((noWin crew).winDepth 1 0 = 0), decide (groupOfPanel (crew.winPanel 1 0) 2 = none),
    decide (crew.winDepth 1 0 ≠ 0), (groupOfPanel (crew.winPanel 1 0) 16).isSome, (groupOfPanel (crew.winPanel 1 11) 63).isSome, !((crew.fieldKeys 16 false 16).any crew.keyPending),
    (withSbuf crew [sbe 7 false]).releaseWaits 1 0 4, !crew.releaseWaits 1 0 4,
    crew.passes (.qpop 16 0 0 pmod) { words := 2, bound := .whole, feed := true, bad := qpopBad false 16 0 0 pmod }, !crew.sch.cur.feed,
    crew.popLook 1 0 0 1 == .wait, (noFeed crew).popLook 1 0 0 1 == .stuck, found ((withEntry crew 0 false).popLook 1 0 0 1),
    feed.sch.cur.feed, feed.passes (.qpop 0x50 8 0 pmod) { words := 2, bound := .whole, feed := true, bad := qpopBad true 0x50 8 0 pmod, keys := feed.fieldKeys 0x50 true 1 },
    decide ((noWin feed).winDepth 1 8 = 0), decide (feed.winDepth 1 8 ≠ 0), feed.popLook 1 0 8 1 == .wait, found ((withEntry feed 8 false).popLook 1 0 8 1),
    ({ feed with regs := feed.regs.setCrew 1 0 { CrewSt.init with live := 0 } }).popLook 1 0 8 1 == .stuck,
    crew.passes (.qstat 5 0) { bound := .whole, keys := [.k 1 0 5] }, feed.passes (.qstatFeed 5 11 3) { feed := true, feedOnly := true, keys := [.k 1 feedCrew 5] }] = true := by
  decide +kernel

/-- The image of a tensor of a rank at VA 0x100400: 64 bytes by 4, its box 64 bytes by 2. -/
def image (rank : Nat) : BitVec 2048 :=
  BitVec.ofNat 2048 (0x100400 + 256 * 2 ^ 64 + rank * 2 ^ 120 + 64 * 2 ^ 256 + 64 * 2 ^ 288 + 2 ^ 320 + 2 ^ 368 + 4 * 2 ^ 384 + 2 * 2 ^ 416 + 64 * 2 ^ 448 + 2 ^ 496)
/-- With it as descriptor 0, checked (VALIDATE) or not, with or without W. -/
def withTd (s : State) (rank : Nat) (valid w : Bool) : State := { s with sp := { s.sp with tds :=
  [{ blk := 1, handle := 0, image := image rank, valid := valid, wOk := w, trs := s.pipe.tlb.map fun e => e.tr, shoffs := [] }] } }
/-- The same tensor, its first dimension in two shards, with a shard table at 0x101000 that is poisoned. -/
def sharded (s : State) : State :=
  let t := s.setCtx 0 { s.ctx 0 with shtbase := 0x101000, shtlen := 1 }
  { t with
    mem := { t.mem with poison := [(0x20200, true)] }
    sp := { t.sp with tds := t.sp.tds.map fun t => { t with image := t.image + BitVec.ofNat 2048 (2 ^ 368) } } }
/-- The copy's cells have an outcome. -/
def cellsOk {α : Type} (r : Tried CellTrap α × State) : Bool := match r.1 with
  | .ok _ => true
  | _ => false
/-- They wait. -/
def cellsWait {α : Type} (r : Tried CellTrap α × State) : Bool := match r.1 with
  | .wait => true
  | _ => false
/-- Without translations, every walker of the die at work. -/
def busyWalks (s : State) : State :=
  let t := noTlb s
  { t with pipe := { t.pipe with walks := (List.range 64).map fun i => { id := i, die := 0, ctx := 0, page := i + 0x1000, level := 0, table := 0, cores := [0] } } }
/-- They take a fault of a class, with an address or without. -/
def cellsTrap {α : Type} (c : Trap) (addr : Bool) (r : Tried CellTrap α × State) : Bool := match r.1 with
  | .bad e => e.1 == c && e.2.isSome == addr
  | _ => false
/-- The cells of the box of descriptor 0 that k16 names. -/
def cellsOf (s : State) (write : Bool) : Tried CellTrap CellTrs × State :=
  match s.copyTd 0x50 0 with
  | some td => s.cellTrs td write (boxCells td.image [0, 0])
  | none => (.wait, s)
/-- A copy modifier. -/
def ymod : CopyMod := { qtr := 0, qn := 0, val := 0, mask := 0, ixv := 0, ixc := 0, ix := 0 }
/-- The descriptor of a state, if any. -/
def imageOf (s : State) : BitVec 2048 := ((s.copyTd 0x50 0).map fun t => t.image).getD 0
/-- The same tensor of I4 codes. -/
def asI4 (s : State) : State := { s with sp := { s.sp with tds := s.sp.tds.map fun t => { t with image := t.image + BitVec.ofNat 2048 (0x0D * 2 ^ 112) } } }

theorem witness_copies : met [
    decide (crew.pairOf 1 = none), crew.passes (.cpy 0x50 ymod) (copyIssue 0x50 2 crew), crew.copyTd 0x50 0 == none,
    (withTd crew 2 true true).passes (.cpy 0x50 ymod) (copyIssue 0x50 4 (withTd crew 2 true true)), ((withTd crew 2 true true).copyTd 0x50 0).isSome,
    originOdd (imageOf (asI4 (withTd crew 2 true true))) [1], !originOdd (imageOf (withTd crew 2 true true)) [1],
    decide ((crew.launchOf 1).scratch < 65472 + tdBytes (imageOf (withTd crew 2 true true))), decide (65408 + tdBytes (imageOf (withTd crew 2 true true)) ≤ (crew.launchOf 1).scratch),
    cellsOk (cellsOf (withTd crew 2 true true) false), cellsOk (cellsOf (withTd crew 2 true true) true), cellsTrap .prot false (cellsOf (withTd crew 2 true false) true),
    cellsOk (cellsOf (withTd crew 2 false true) false), cellsWait (cellsOf (busyWalks (withTd crew 2 false true)) false), cellsTrap .xlate true (cellsOf (noTlb (withTd crew 2 false true)) false),
    cellsTrap .prot true (cellsOf (withRights false false (withTd crew 2 false true)) false), cellsTrap .eccunc false (cellsOf (sharded (withTd crew 2 false true)) false),
    (withSbuf crew [sbe 7 false]).forkWaits, !crew.forkWaits,
    crew.passes (.cpym 0x50 { ymod with mask := 1 }) (copyIssue 0x50 2 crew), crew.memberOf 1 0 == some 1, crew.memberOf 1 1 == none, pairUp.memberOf 1 1 == some 2,
    !(pairUp.block 2).st.resident, (crew.block 1).st.resident] = true := by decide +kernel

theorem witness_queue_copies : met [
    crew.passes (.cpyq 0x50 ymod) (copyIssue 0x50 2 crew), (withTd crew 2 true true).passes (.cpyq 0x50 ymod) (copyIssue 0x50 4 (withTd crew 2 true true)),
    decide ((noWin crew).winDepth 1 0 = 0), decide (tdBytes (imageOf (withTd crew 2 true true)) % crew.winPanel 1 0 ≠ 0),
    decide (tdBytes (imageOf (withTd crew 2 true true)) % crew.winPanel 1 8 = 0), decide (crew.winDepth 1 8 ≠ 0), feed.sch.cur.feed, decide (crew.curQtr = 0),
    feed.passes (.smelt 0x50 ymod) { copyIssue 0x50 2 feed with feedOnly := true }, decide (4096 < ((withK feed 17 4097).opK 0x50 1).toNat),
    decide ((feed.opK 0x50 1).toNat ≤ 4096), decide (((withK feed 16 2).opK 0x50 0).toNat % 4 ≠ 0), decide ((feed.launchOf 1).scratch < ((withK feed 16 65536).opK 0x50 0).toNat + 4),
    decide (feed.winDepth 1 0 ≠ 0), feed.winPanel 1 0 == 2048, !feed.forkWaits, !feed.lineAbsent 1 0 0, decide (feed.pairOf 1 = none), (feed.pageList 1 0 0).isEmpty,
    ({ feed with sp := feed.sp.write 1 0 [(0, 2), (1, 0), (2, 0), (3, 0)] }.pageList 1 0 1).all fun p => decide (p < (withRes feed).quota 0)] = true := by decide +kernel

theorem witness_row_copies : met [
    crew.passes (.cpyix 0x50 ymod) { words := 2, bound := .crew, feed := true, keys := crew.fieldKeys 0x50 true 3 ++ crew.ixKeys ymod },
    crew.passes (.cpyix 0x50 { ymod with ixv := 1, ixc := 31 }) { words := 2, bound := .whole, keys := crew.fieldKeys 0x50 true 3 ++ crew.ixKeys { ymod with ixv := 1, ixc := 31 } },
    crew.copyTd 0x50 0 == none, ((withTd crew 2 true true).copyTd 0x50 0).isSome, tdRank (imageOf (withTd crew 1 true true)) == 1, tdRank (imageOf (withTd crew 2 true true)) == 2,
    decide (((withK crew 17 32).opK 0x50 1).toNat % 64 ≠ 0), decide ((crew.launchOf 1).scratch < ((withK crew 17 65536).opK 0x50 1).toNat + 64), decide (65472 + 64 ≤ (crew.launchOf 1).scratch),
    ((withK crew 0 4).copyRows ymod).any fun r => decide (tdSize (imageOf (withTd crew 2 true true)) 1 ≤ r),
    ((withK crew 0 3).copyRows ymod).all fun r => decide (r < tdSize (imageOf (withTd crew 2 true true)) 1),
    ((withTd crew 2 true true).copyTd 0x50 0).any fun td => cellsOk ((withTd crew 2 true true).cellTrs td false [[0, 3]]),
    (withTd crew 2 true true).passes (.cpys 0x50 ymod) (copyIssue 0x50 4 (withTd crew 2 true true)),
    { crew with sp := { crew.sp with absent := [(spadKey 1 0 / 64, 1)] } }.lineAbsent 1 0 128, !crew.lineAbsent 1 0 128] = true := by decide +kernel

theorem witness_transpose : met [
    crew.passes (.txpose 0x50 ymod) (copyIssue 0x50 6 crew), decide (crew.copyTd 0x50 1 = none),
    ((withTd crew 2 true true).copyTd 0x50 0).isSome && ((withTd crew 2 true true).copyTd 0x50 1).isSome, decide (tdRank (imageOf (withTd crew 1 true true)) ≠ 2),
    decide (tdBytes (imageOf (withTd crew 2 true true)) ≤ 65536), decide (65536 < tdBytes (imageOf (withTd crew 2 true true) + BitVec.ofNat 2048 (65536 * 2 ^ 416)))] = true := by
  decide +kernel

theorem witness_descriptors : met [
    crew.passes (.tdmk 0x42 0x44 (mod 0)) { words := 2, bound := .crew, feed := true, keys := crew.fieldKeys 0x42 true 1 ++ crew.fieldKeys 0x44 true 2 ++ crew.polKeys 0 },
    (withK crew 0 0x80000000).polIllop (mod 0) false true, !crew.polIllop (mod 0) false true, decide (((withK crew 4 0x100480).regs.kval 1 0 4 true).toNat % 256 ≠ 0),
    okWith (crew.checkLanes 64 2 { r := true } ((List.range 4).map fun i => (⟨0, 0⟩, 0x100400 + 64 * i)) []) fun t ls _ => !t.loadBlocked ls,
    crew.passes (.tdfree 5) { bound := .crew, feed := true, keys := [.k 1 0 5] }, decide (32 ≤ ((withK crew 5 32).regs.kreg 1 0 5).toNat),
    decide (((withK crew 5 31).regs.kreg 1 0 5).toNat < 32), feed.passes .fend { feed := true, feedOnly := true }] = true := by decide +kernel

/-- The crew's bundle and the feed thread wait to be selected. -/
def idle : State := { crew.dropCur with sch := { crew.dropCur.sch with bundles := [crew.sch.cur, feed.sch.cur] } }
/-- The crew is filed, lane by lane in slot 0. -/
def filed : State := { crew.dropCur with sch := { crew.dropCur.sch with
  bins := [{ core := 0, qtr := 0, blk := 1, pc := 8, entries := (List.range 32).map fun l => ⟨l, 0, 0, none, false⟩ }] } }
/-- With its first bundle waiting. -/
def waiting (w : Wait) : State := { idle with sch := { idle.sch with bundles := [{ crew.sch.cur with wait := w }] } }
/-- An LBAR release with clusters to go. -/
def lbarWith (n : Nat) : State := idle.setLaunch { idle.launch 1 with lbarOrder := List.range n }

/-- Bundles of crew 0, 1 and 4 at 0, 0 and 16, with these instructions there; 1 is in another quarter, 4 has been passed over so. -/
def issuing (i j : Instr) (crews : List Nat) (ahead : Nat) (grant : List (Nat × Nat)) : State :=
  let put := fun (m : Mem) (a : Nat) (i : Instr) => m.putBytes a ((encode i).flatMap bytesOfWord)
  { idle with
    mem := put (put idle.mem 0x100000 i) 0x100010 j
    sch := { idle.sch with
      grant := grant
      bundles := crews.map fun c => { crew.sch.cur with pc := if c = 4 then 16 else 0, members := [⟨0, c⟩], ahead := if c = 4 then ahead else 0 } } }
/-- What quarter 0 of core 0 picks: is there a vector-path and a uniform-path candidate, each refused its unit or not? -/
def picked (s : State) (vec uni : Option Bool) : Bool :=
  let p := s.picks 0 0
  let taken := if vec == some false then p.vec.bind fun e => e.2.unit else none
  p.vec.map (s.refused 0 0 none) == vec && p.uni.map (s.refused 0 0 taken) == uni
/-- Do the two need more than three ports, the uniform-path one deferred or not? -/
def conflicts (s : State) (deferred : Bool) : Bool := match s.picks 0 0 with
  | ⟨some x, some y⟩ => decide (3 < x.2.ports + y.2.ports) && y.1.deferred == deferred
  | _ => false

theorem witness_scheduler : met [
    !idle.sch.curOn && !idle.gated 0, ({ idle with pow := { idle.pow with yoke := [(0, { idle.yoke 0 with glev := 4, pref := 1 })] } }).gated 0, picked (issuing (.iadd 2 4 6 0) .nop [] 0 []) none none,
    picked (issuing (.iadd 2 4 6 0) .nop [0] 0 []) (some false) none, picked (issuing (.rcp 2 4 0) .nop [0, 1] 0 [(0, 1)]) (some true) none,
    picked (issuing (.iadd 0x42 0x44 6 0) .nop [0] 0 []) none (some false), picked (issuing (.ldk 0x42 0x44 0 0 (mod 2)) .nop [0, 1] 0 [(1, 1)]) none (some true),
    picked (issuing (.iadd 2 0x44 6 0) (.iadd 0x42 0x44 constZero 0) [0, 4] 0 []) (some false) (some false),
    !conflicts (issuing (.iadd 2 0x44 6 0) (.iadd 0x42 0x44 constZero 0) [0, 4] 0 []) false, conflicts (issuing (.iadd 2 0x44 6 0) (.imad 0x42 0x44 6 0) [0, 4] 0 []) false,
    conflicts (issuing (.iadd 2 0x44 6 0) (.imad 0x42 0x44 6 0) [0, 4] 1 []) true,
    picked (issuing (.rcp 2 4 0) (.iadd 0x42 0x44 6 0) [0, 1, 4] 0 [(0, 1)]) (some true) (some false), picked (issuing (.ld 2 4 0 0 (mod 2)) (.ldk 0x42 0x44 0 0 (mod 2)) [0, 4] 0 []) (some false) (some true),
    (filed.candidates 0 0).any fun c => (filed.takeCand c).1.members.length == 32, (idle.aaeNext 0).any fun u => u.feed,
    filed.sch.bins[0]?.isSome, (Wait.bar 3 true (some 40)).barGo 3 true == some 40, (waiting (.bar 3 true (some 40))).sch.bundles.any fun v => (v.wait.barGo 3 true).isSome,
    (waiting (.yielded 8)).sch.bundles[0]?.any fun u => u.wait == .yielded 8, (lbarWith 0).launch 1 |>.lbarOrder.isEmpty,
    decide (((lbarWith 7).launch 1).lbarOrder.drop 6 ≠ []), decide (((lbarWith 6).launch 1).lbarOrder.drop 6 = []) && decide (((lbarWith 6).launch 1).lbarOrder ≠ [])] = true := by
  decide +kernel

/-- A load of a lane, with its bytes. -/
def landed (plan : Plan) (poisoned : Bool) : Pend := { Pend.blank with plan := plan, poisoned := poisoned }
/-- With a store acknowledged. -/
def acked : State := { idle with pipe := { idle.pipe with acks := [{ id := 8, entry := 7, pends := [] }] } }
/-- A FENCER with cores to visit. -/
def fencing (cores : List Nat) : State := { idle with sch := { idle.sch with fencers := [{ id := 4, blk := 1, crews := [0], scope := 4, cores := cores }] } }
/-- With page tables at 0x200000 that map VA 0x100000 on, in 2^27 bytes with R, W and X; and the crew's work queue there. -/
def mapped (s : State) : State :=
  let page := fun (m : Mem) (a v : Nat) => m.putBytes a (natToBytes 8 v)
  let s := { s with mem := page (page (page s.mem 0x200000 (1 + 0x208000 / 2 ^ 15 * 2 ^ 20)) 0x208000 (1 + 0x210000 / 2 ^ 15 * 2 ^ 20)) 0x210000 0x1F }
  withField (withField (s.setCtx 0 { s.ctx 0 with top := 0x200000 }) 314 2) 448 0x100800
/-- With an operation at the work-queue unit, and a queue of n words. -/
def wqWith (push : Bool) (head tail : Nat) : State :=
  let s := mapped idle
  { s.setLaunch { s.launch 1 with wqHead := head, wqTail := tail } with
    disp := { (s.setLaunch { s.launch 1 with wqHead := head, wqTail := tail }).disp with wq := [{ pend := 3, blk := 1, crew := 0, push := push, value := 5, kd := 2, qd := 1 }] } }
/-- What the unit's walk for the word at the head or the tail answers: a translation, a walk or a fault. -/
def wqWalk (s : State) (word : Nat) : Nat := match State.unitWalker wqWalker 0 { s with disp := { s.disp with wq := [] } } ((s.launchOf 1).wqWord word) with
  | (.ok _, _) => 0
  | (.miss, _) => 1
  | (.fault, _) => 2
/-- A walk has answered the unit for the page. -/
def walked (tr : Option Xlate) (s : State) : State := { s with pipe := { s.pipe with got := [⟨wqWalker, 0, 0x20, tr⟩] } }
/-- A translation with rights. -/
def rights (x : Option Xlate) (w : Bool) : Bool := x.any fun t => if w then t.w else t.r

/-- With every link at its renegotiation. -/
def stalled (s : State) : State := { s with sl := { s.sl with links := allLinks.map fun n => (n, { width := 1, busy := 0, queue := 4, reneg := some 0 }) } }
theorem witness_landing : met [
    (withPend idle (landed .none true)).pend 1 |>.any fun p => p.parts == 0 && p.mirror == none && p.poisoned,
    (withPend idle (landed (.vload 2 2 false) false)).pend 1 |>.any fun p => !p.poisoned, (withPend idle (landed (.tdmk 2) false)).pend 1 |>.any fun p => p.plan == .tdmk 2,
    (withPend idle (landed (.recld 2) false)).pend 1 |>.any fun p => p.plan == .recld 2, (withSbuf idle [sbe 7 false]).mayLeave (sbe 7 false),
    (acked.pipe.acks.find? fun a => a.id == 8).isSome,
    (fencing [0, 1]).sch.fencers.any fun f => f.cores == [0, 1] && !((f.crews.any fun c => (fencing [0, 1]).releaseWaits f.blk c f.scope)), !((fencing [0, 1]).pipe.sbuf.any fun e => e.core == 0),
    (fencing []).sch.fencers.any fun f => f.cores.isEmpty,
    (wqWith false 3 3).disp.wq.any fun q => !q.push && decide (((wqWith false 3 3).launchOf q.blk).wqTail ≤ ((wqWith false 3 3).launchOf q.blk).wqHead),
    (wqWith true 3 7).disp.wq.any fun q => q.push && decide (2 ^ ((wqWith true 3 7).launchOf q.blk).wql ≤ 4),
    rights ((wqWith false 3 4).walkNow 0 (((wqWith false 3 4).launchOf 1).wqWord 3)) false, rights ((wqWith true 3 6).walkNow 0 (((wqWith true 3 6).launchOf 1).wqWord 6)) true,
    [wqWith false 3 4, wqWith true 3 6].all fun s => wqWalk (walked (s.walkNow 0 0x100800) s) (if s.disp.wq.any (fun q => q.push) then 6 else 3) == 0 && wqWalk s 3 == 1 && wqWalk (walked none s) 3 == 2,
    !idle.homeBad 0 0x100800 4, ({ idle with mem := { idle.mem with poison := [(0x100800 / 8, true)] } }).homeBad 0 0x100800 4, idle.sl.lines.isEmpty,
    !idle.apertureHole 0x100800] = true := by decide +kernel

/-- Write-backs of a slice, one sent. -/
def writing : State := { idle with sl := { idle.sl with wbuf := [(2, 9, false), (2, 8, true)] } }
/-- A dirty line of a stack of another die. -/
def farDirty : State := { idle with sl := { idle.sl with lines := [{ slice := 2, line := 2 ^ 31, set := 0, way := 0, cls := 1, filler := 0, dirty := true, used := 0 }] } }
/-- A request at the home slice of a line. -/
def reqAt (kind : ReqKind) : Req :=
  { id := 6, slice := 0, core := 0, ctx := 0, pa := 0x100400, kind := kind, pend := 0, tkeep := 0, tnorm := 0, ccls := 0, ilv := 0, charged := true, heldTo := 0 }
/-- A monitor that is not armed. -/
def polled : State := { idle with pipe := { idle.pipe with mons := [{ id := 3, blk := 1, crew := 0, lane := 0, slice := 0, pa := 0x100400, wid := 4, cond := 0, unsigned := false,
                                                                      value := 1, armed := false, done := false, acq := 0, req := some (reqAt (.load 4 0 0 0 true)) }] } }
/-- With a request. -/
def withReq (kind : ReqKind) : State := { idle with pipe := { idle.pipe with reqs := [reqAt kind] } }
/-- A fill under way, with a request behind it. -/
def filling : State := { idle with pipe := { idle.pipe with fills := [{ id := 5, slice := 0, line := 0x4010, loc := 0x80, tenant := 0, cls := 1, reqs := [reqAt (.load 4 0 0 0 true)] }] } }
/-- A walk of VA 0x100000 at its first level. -/
def walking (top : Nat) : State := { mapped idle with pipe := { (mapped idle).pipe with walks := [{ id := 5, die := 0, ctx := 0, page := 0x20, level := if top = 0x210000 then 2 else 0, table := top, cores := [0] }] } }
/-- The walk's entry is served. -/
def served (s : State) (pa : Nat) : Bool := (s.touchPhys (ctlVia 0 8) pa 0 0 .read).isSome

theorem witness_store : met [
    polled.pipe.mons[0]?.any fun m => !m.armed && !m.asked && !m.done && !m.bad && m.req.isSome,
    ((withReq (.load 4 0 0 0 true)).serveFirst [] ((withReq (.load 4 0 0 0 true)).queueOf 0)).isSome ||
      ((withReq (.store 3 [(0, 1)])).serveFirst [] ((withReq (.store 3 [(0, 1)])).queueOf 0)).isSome,
    (filling.fillMsc 0 0x4010 0x80 0 1 0 .read).isSome, !writing.pathHolds (stackTrip 2 9 (flitsOf true 64)), (stalled writing).pathHolds (stackTrip 2 (2 ^ 31) (flitsOf true 64)),
    (farDirty.flushLines fun m => m.slice == 2).isSome, ((stalled farDirty).flushLines fun m => m.slice == 2).isNone, idle.sl.lines.isEmpty,
    ({ idle with sl := { idle.sl with maskNext := [(2, 1, 0xF, 0)] } }).sl.maskNext.any fun e => e.1 == 2, ({ idle with sl := { idle.sl with hmapNext := [(2, 5)] } }).sl.hmapNext.any fun e => e.1 == 2,
    decide (5 ≤ { idle.host with boot := 5 }.boot), ((0 : BitVec 16).extractLsb' 7 2 != 3), !served (stalled (walking (2 ^ 37))) (2 ^ 37),
    (walking 0x200000).pipe.walks.any fun w => ((walking 0x200000).walking w.die).contains w, !tableOk 0x8000000000, tableOk 0x200000, (writing.sl.wbuf.findIdx? fun e => e.1 == 2 && !e.2.2).isSome,
    (writing.sl.wbuf.findIdx? fun e => e.1 == 2 && e.2.2).isSome, decide ((15 : Nat) < 16),
    (walking 0x200000).pipe.walks.any fun w => tableOk w.table && (match (walking 0x200000).walkRead 0 w.level w.table (w.page * 2 ^ 15) with
      | .table _ => true
      | _ => false),
    (walking 0x210000).pipe.walks.any fun w => (match (walking 0x210000).walkRead 0 w.level w.table (w.page * 2 ^ 15) with
      | .leaf _ => true
      | _ => false),
    (walking 0x300000).walkRead 0 0 0x300000 (0x20 * 2 ^ 15) == .fault, served (walking 0x200000) 0x200000, served (walking 0x210000) 0x210000,
    decide (({ width := 1, busy := 0, queue := 4, reneg := none } : Link).width ≠ 0)] = true := by decide +kernel

/-- A pin of lines 0x4010 (slice 3) and 0x4011 (slice 4). -/
def pinOf (state : Nat) (resident ending : Bool) (started sending : List Nat) : Pin :=
  { id := 5, ctx := 0, va := 0x100400, len := 128, resident := resident, life := 4, level := 0, state := state, granules := 1, lines := [(0x4010, 3, false), (0x4011, 4, false)],
    sending := sending, started := started, took := [], ending := ending }
/-- A pin of a line in the stack of another die. -/
def farPin (state : Nat) : Pin := { pinOf state true (state == 2) (if state == 2 then [3] else []) [] with lines := [(2 ^ 31, 3, false)] }
/-- A contract operation. -/
def seqOf (op : SeqOp) (decided : Bool) (slices : List Nat) : SeqRec := { SeqRec.blank with id := 6, op := op, decided := decided, slices := slices }

theorem witness_pins : met [
    ([seqOf .resend false []].find? fun r => !r.decided).isSome && !([seqOf .resend false []].any fun x => x.decided && !x.slices.isEmpty),
    idle.seqOver (seqOf .resend true []), (pinOf 0 true false [] []).nextLine 3 == some 0x4010, (pinOf 1 false true [] []).ending && !(pinOf 1 false true [] []).resident,
    (pinOf 1 true true [] []).ending && (pinOf 1 true true [] []).resident, (pinOf 2 true true [3] []).nextLine 3 == some 0x4010,
    [0, 2].all fun st => (farPin st).nextLine 3 == some (2 ^ 31), !idle.pathHolds (stackTrip 3 0x4010 (flitsOf false 64)), !idle.pathHolds (stackTrip 3 0x4010 (flitsOf true 64)),
    (stalled idle).pathHolds (stackTrip 3 (2 ^ 31) (flitsOf false 64)) && (stalled idle).pathHolds (stackTrip 3 (2 ^ 31) (flitsOf true 64)),
    (idle.flushLines fun m => m.slice == 3).isSome, { idle.host with cmdRun := .seq 6 }.cmdRun == .seq 6,
    ((pinOf 2 true true [3] [0x4010]).sending.find? fun k => (pinOf 2 true true [3] [0x4010]).lines.any fun l => l.1 == k && l.2.1 == 3) == some 0x4010,
    (seqOf (.stpart 3 0 1 1) true [3]).slices == [3]] = true := by decide +kernel

/-- With its launch changed. -/
def lch (f : Launch → Launch) : State := idle.setLaunch (f (idle.launch 1))
/-- With its block changed, and no thread of it anywhere. -/
def blkAs (st : BlkState) (f : Block → Block) : State := (({ idle with sch := { idle.sch with bundles := [] } }).setBlock (f { idle.block 1 with st := st }))
/-- Its launch not yet placed. -/
def unplaced : State := { (lch fun l => { l with nextBlk := 0 }) with disp := { (lch fun l => { l with nextBlk := 0 }).disp with blocks := [] } }
/-- The same with every core retired. -/
def noCores : State := { unplaced with disp := { unplaced.disp with retired := List.range 384 } }
/-- The dispatcher would make a placement of new blocks. -/
def isFresh (p : Option Placement) : Bool := match p with
  | some (.fresh _ x) => x.twin.isEmpty
  | _ => false
/-- The dispatcher would place a swapped-out block again. -/
def isResume (p : Option Placement) : Bool := match p with
  | some (.resume _ _) => true
  | _ => false
/-- A queue of 16 records at 0x300000 whose TAIL is host memory, with one record to take. -/
def queued : State :=
  let x : LQueue := { qbase := 0x300000, qlog := 4, ctx := 0, cbase := 0x310000, tailpa := 0x320000, headpa := 0, head := 0, tail := 1, shared := true, overrun := false, stopped := false,
                      lastId := 0, cread := 0, cwritten := 0 }
  let s := { idle with host := { idle.host with boot := 6, featWritten := true } }
  s.setQueue 3 x
/-- The status of a predecessor of the launch. -/
def withPred (status : Option Nat) : State :=
  let s := withField (lch fun l => { l with st := .waiting }) 576 9
  { s with disp := { s.disp with done := match status with
      | some c => [(0, 9, c)]
      | none => [] } }
/-- A graph that is over. -/
def overLevel : Level := { kind := 1, id := 7, ctx := 0, parent := 0, counter := 0, closed := true, anyKilled := false, anyCancelled := false, ended := false, stopped := false, queue := 0 }
/-- Its block with no live thread. -/
def ended : State := (blkAs .running fun b => { b with feedDone := true }).setRegs (idle.regs.setCrew 1 0 { CrewSt.init with live := 0 })
/-- With a pin of the launch that is not ENDED. -/
def withPin (s : State) : State := { s with sl := { s.sl with pins := [{ pinOf 1 true false [] [] with life := 0, level := 1 }] } }
/-- The launch's last block is complete. -/
def lastBlock : State := (blkAs .complete id).setLaunch { idle.launch 1 with counter := 0 }

/-- CXL port 0 retrains. -/
def trains (s : State) : State := s.setPort 0 { up := true, retraining := true }

theorem witness_dispatcher : met [
    isFresh (unplaced.firstPlacement unplaced.ranked), isResume ((blkAs .swapped fun b => { b with placeable := true }).firstPlacement (blkAs .swapped fun b => { b with placeable := true }).ranked),
    (({ idle.host with stores := [(5, [1, 2])] }.stores.find? fun e => e.1 == 5) == some (5, [1, 2])), decide (∀ e ∈ idle.host.stores, e.1 ≠ 5), (trains idle).snoopHeld 5, !idle.snoopHeld 5,
    (queued.hostReach 0x320000 4 0 false).isSome, ((trains queued).hostReach 0x320000 4 0 false).isNone, (queued.hostReach 0x300000 128 0 false).isSome, ((trains queued).hostReach 0x300000 128 0 false).isNone,
    ((blkAs .placed id).block 1).st == .placed, noCores.hasUnplaced (noCores.launch 1) && decide (noCores.fitOf (noCores.launch 1) = none), queued.watches 3, queued.mayTake 3,
    ((withPred (some 1)).launch 1).st == .waiting && !((withPred (some 1)).launch 1).stopped && (withPred (some 1)).preds ((withPred (some 1)).launch 1) == [some 1],
    (withPred (some 0)).preds ((withPred (some 0)).launch 1) == [some 0] && !(withPred (some 0)).segBusy ((withPred (some 0)).launch 1), ((lch fun l => { l with st := .released }).launch 1).st == .released,
    ended.blockOver 1 && !(ended.launchOf 1).guarded, lastBlock.launchOver (lastBlock.launch 1) && (lastBlock.launch 1).st != .released && (lastBlock.launch 1).segState == 1,
    !(lastBlock.endPins fun p => p.ofLevel 0 0 1).pinsLeft 0 0 1, ((withPin lastBlock).endPins fun p => p.ofLevel 0 0 1).pinsLeft 0 0 1,
    { idle with disp := { idle.disp with levels := [overLevel] } }.level (7 / 2 ^ 32) 1 (7 % 2 ^ 32) == some overLevel && overLevel.isOver,
    ((lch fun l => { l with stopped := true }).launchOf 1).stopped, decide ((idle.block 1).st ≠ .complete)] = true := by decide +kernel

/-- A fault of the crew. -/
def faultOf (inspect feed toCore : Bool) : FaultRec :=
  { id := 5, seq := 0, blk := 1, feed := feed, crew := 0, lane := 0, pc := 8, clause := none, after := none, cls := .prot, code := 0, va := 0, time := 0, threads := crew.sch.cur.members, words := 1,
    nextWord := false, toCore := toCore, inspect := inspect, written := false, moved := false }
/-- With a fault of the crew, its block swapped out. -/
def faulted (inspect feed toCore : Bool) : State :=
  let s := (blkAs .swapped id).setCtx 0 { idle.ctx 0 with fqbase := 0x330000, fqlog := 4, fqset := true }
  { s with sch := { s.sch with faults := [faultOf inspect feed toCore] } }
/-- A block that waits at its launch's barrier, the launch having blocks to place. -/
def yielding : State :=
  let s := withField (lch fun l => { l with nextBlk := 0 }) 160 1
  { s with sch := { s.sch with bundles := [{ crew.sch.cur with wait := .lbar false }] } }
/-- With a swap area. -/
def swapArea (s : State) : State := s.setCtx 0 { s.ctx 0 with swapbase := 0x400000, swaplen := 2 ^ 30 }

/-- With a run in the stack of another die, for a launch that has next to nothing to save. -/
def farRun (st : BlkState) : State :=
  let s := (blkAs st fun b => { b with run := some (0, 1) }).setCtx 0 { idle.ctx 0 with swapbase := 2 ^ 37 }
  s.setLaunch { s.launch 1 with record := 0 }

theorem witness_swaps : met [
    decide (idle.pairOf 1 = none), (idle.block 1).st == .running, yielding.yields 1, ((blkAs .draining id).block 1).st == .draining && !(blkAs .draining id).sch.curOn && (blkAs .draining id).drainedOut 1,
    ((swapArea (blkAs .draining id)).swapRun 1).isSome, ((blkAs .draining id).swapRun 1).isNone, (blkAs .swapped fun b => { b with placeable := true }).mayResume 1, !idle.quotaSpent 0,
    (blkAs .swapped fun b => { b with placeable := true, inPlace := true }).mayResume 1, ((blkAs .swapped fun b => { b with placeable := true }).resumePlan 1 0).isSome,
    ((blkAs .saving id).block 1).st == .saving, ((blkAs .saving id).touchRun 1 .whole).isSome, ((stalled (farRun .saving)).touchRun 1 .whole).isNone,
    ((blkAs .restoring id).block 1).st == .restoring, ((blkAs .restoring id).touchRun 1 .read).isSome, ((stalled (farRun .restoring)).touchRun 1 .read).isNone, ((faulted false false false).watchSync 1).faultReady (faultOf false false false),
    !((faulted false false false).watchSync 1).entryWaits (faultOf false false false),
    ((faulted false false false).hostReach 0x330000 64 0 true).isSome && (faulted false false false).host.out.isEmpty, ((trains (faulted false false false)).hostReach 0x330000 64 0 true).isNone, idle.sl.lines.isEmpty, (faulted true true true).sch.faults.any fun f => f.inspect && f.feed && !f.written && f.toCore,
    decide ((idle.block 1).id ≠ 0) && !idle.watchStops 1 && !idle.halted 1 0 false && (idle.block 1).st.watched,
    !(sortBy (fun (e : Nat × Bundle) => e.2.since) (((List.range idle.sch.bundles.length).zip idle.sch.bundles).filter fun e => e.2.blk == 1 && e.2.crews.contains 0)).isEmpty] = true := by decide +kernel

/-- An engine of the block. -/
def engineOf (moves : List Move) (panels : List Panel) (assay : Option AssaySt) : Engine := { Engine.blank with id := 5, blk := 1, crew := 0, moves := moves, panels := panels, assay := assay }
/-- With an engine. -/
def withEngine (s : State) (e : Engine) : State := { s with sp := { s.sp with engines := [e] } }
/-- A charge lets the engine act. -/
def charged (r : Except State State) : Bool := match r with
  | .ok _ => true
  | _ => false
/-- With the bytes of its cluster spent. -/
def spent (s : State) : State := s.setBud 0 { s.bud 0 with budget := 1, rem := 0 }
/-- A page in a state of context 0. -/
def withPage (s : State) (p : Nat) (x : KvPage) : State := s.setPage 0 p x
/-- A resident page. -/
def resident (count : Nat) : KvPage := { KvPage.init with count := count, st := .resident, frame := some (0, 0) }
/-- A KV operation queued. -/
def withOp (s : State) (op : KvOp) : State := { s with kv := { s.kv with ops := [{ KvRec.blank with id := 5, op := op }] } }
/-- A panel with its entry reserved. -/
def panelOf : Panel := { qtr := 0, q := 0, entry := some 90, pas := [none], kv := none }
/-- One whose bytes stand in the stack of another die. -/
def farPanel : Panel := { panelOf with pas := [some (2 ^ 37)] }
/-- A move of zeros, and one of a line. -/
def zeros : Move := .spadFromMem [1] 0 [none]
/-- A move of 64 bytes. -/
def lineMove : Move := .spadFromMem [1] 0 ((List.range 64).map fun i => some (0x100400 + i))
/-- An append's rows. -/
def append : Move := .kvWrite 0 0 1 3 (List.replicate 256 1) (List.replicate 256 2)
/-- Pages 0 and 1 resident under a contract. -/
def twoPages : State := withPage (withPage (withRes idle) 0 (resident 1)) 1 (resident 1)

/-- Its owner's home slice stands on another die. -/
def farOwner (s : State) : State := { s with disp := { s.disp with blocks := s.disp.blocks.map fun b => { b with core := 380 } } }
/-- The operation on a page reaches its home slice. -/
def kvGoes (s : State) : Bool :=
  (s.kvReach { KvRec.blank with id := 5, blk := 1, op := .free 0 } 0 0 true).isSome && (s.kvReach { KvRec.blank with id := 5, blk := 1, op := .hallmark 0 2 64 } 0 1024 false).isSome
/-- Both rows of an append are written. -/
def appends (s : State) : Option Bool := (s.reserveAt 0 0).map fun r =>
  let v := unitVia (s.block 1).core 64
  ((s.appendRow v 0 0 3 r (List.replicate 256 1)).bind fun t => t.appendRow v 0 1 3 r (List.replicate 256 2)).isSome
/-- A page with slot 5 present, in transfer. -/
def moving (st : PageState) : KvPage := { resident 1 with st := st, dirty := true, present := 1 <<< 5 }
/-- The pages' backing area, from a physical address on, with a die for its homes. -/
def backed (die pa : Nat) (s : State) : State := { s with kv := { s.kv with res := s.kv.res.map fun e => (e.1, e.2.map fun r =>
  { r with trs := [{ ctx := 0, va := 0, size := 39, pa := pa, mtype := 0, ccls := 0, ilv := 1, sel := die, r := true, w := true, x := false }] }) } }
/-- The next pair of a page leaves for its backing lines, or comes. -/
def pairMoves (s : State) : Option (Bool × Bool) := (s.backing 0).map fun r =>
  (((withPage s 0 (moving .evicting)).evictPair 0 0 (moving .evicting) r 20).isSome, ((withPage s 0 (moving .installing)).installPair 0 0 (moving .installing) r 20).isSome)

theorem witness_engines : met [
    idle.nextMoves (engineOf [zeros] [] none) == [zeros], charged (idle.engCharge (engineOf [zeros] [] none) (chargesOfMoves [zeros])), (idle.performMoves (engineOf [] [] none) [zeros]).isSome,
    (idle.performMoves (engineOf [] [] none) [append]).isNone, !charged ((spent idle).engCharge (engineOf [] [] none) (chargesOfMoves [lineMove])), (engineOf [] [] none).moves.isEmpty,
    ((withEntry idle 0 false).landPanel (engineOf [] [panelOf] none) panelOf 90).isSome, charged (idle.engCharge (engineOf [] [panelOf] none) panelOf.charges),
    ((stalled (withEntry idle 0 false)).landPanel (engineOf [] [farPanel] none) farPanel 90).isNone, !charged ((spent idle).engCharge (engineOf [] [] none) { panelOf with kv := some (0, 0, 0, false) }.charges),
    (twoPages.reserveAt 0 0).isSome && (twoPages.page 0 0).st == .resident && (twoPages.page 0 1).st == .resident, charged (twoPages.engCharge (engineOf [append] [] none) (chargesOfMoves [append])),
    (withOp (withRes idle) (.test 0 1 none none 5 [] [])).firstOn { KvRec.blank with id := 5, op := .test 0 1 none none 5 [] [] } 0,
    (withOp (withRes idle) (.test 0 1 (some true) none 5 [] [])).firstOn { KvRec.blank with id := 5, op := .test 0 1 (some true) none 5 [] [] } 1,
    ((withPage (withRes idle) 0 (resident 2)).page 0 0).count == 2, !((withPage idle 0 (resident 1)).page 0 0).moving, !((withOp (withRes idle) (.free 0)).appending 0 0), ((withPage idle 0 (resident 1022)).page 0 0).count == 1022, ((withPage idle 0 (resident 1023)).page 0 0).count == 1023,
    (withOp (withRes idle) (.fork 0 2 1)).firstOn { KvRec.blank with id := 5, op := .fork 0 2 1 } 0, (withOp (withRes idle) (.free 0)).firstOn { KvRec.blank with id := 5, op := .free 0 } 0,
    (withOp (withRes idle) (.hallmark 0 2 64)).firstOn { KvRec.blank with id := 5, op := .hallmark 0 2 64 } 0, ((withPage idle 0 { resident 1 with st := .evicting }).page 0 0).st == .evicting,
    ((withPage idle 0 { resident 1 with st := .installing }).page 0 0).st == .installing,
    kvGoes twoPages && !kvGoes (stalled (farOwner twoPages)), ((fun (c : State) => appends c == some true) twoPages) && appends (stalled (farOwner twoPages)) == some false,
    (moving .evicting).nextPair == some 20 && (twoPages.backing 0).isSome, pairMoves (backed 0 0 twoPages) == some (true, true), pairMoves (stalled (backed 3 (2 ^ 39) twoPages)) == some (false, false),
    { moving .evicting with pos := 21 }.nextPair == some 21 && { moving .evicting with pos := 24 }.nextPair == none, mwf KvPage.init (withPage idle 0 (resident 1)).kv.pages] = true := by decide +kernel

/-- A girth operation of the crew at the stop of core 0. -/
def opOf (act : GirthAct) : GirthOp :=
  { pend := 5, stop := 0, qtr := 0, ready := 3, from' := 3, passed := [], blk := 1, crew := 0, lanes := crew.sch.cur.members, base := 0, len := 16, slot := 4, act := act }
/-- With operations at the girth. -/
def withOps (s : State) (l : List GirthOp) : State := { s with gi := { s.gi with ops := l } }
/-- Slot 4 with a header. -/
def withHdr (s : State) (h : SlotHdr) : State := { s with gi := { s.gi with hdr := mput .init s.gi.hdr 4 h } }
/-- Both blocks of a pair have arrived at a comparison point of a crew. -/
def arrived (checking restoring : Bool) (rollbacks cb : Nat) : State :=
  let s := guardedBy idle 0
  { s with grd := { s.grd with pairs := s.grd.pairs.map fun p => { p with arrived := [(1, 0), (2, cb)], checking := checking, restoring := restoring, rollbacks := rollbacks } } }
/-- One of them has taken ECCUNC. -/
def badPair : State :=
  let s := arrived false false 0 0
  { s with grd := { s.grd with pairs := s.grd.pairs.map fun p => { p with bad := true } } }
/-- A checkpoint whose commit actions are over, and a rollback under way. -/
def checked (restoring : Bool) : State :=
  let s := guardedBy idle 0
  { s with
    grd := { s.grd with pairs := s.grd.pairs.map fun p => { p with checking := !restoring, restoring := restoring }, snaps := [s.snapOf 1, s.snapOf 2] } }
/-- With the second block of the pair. -/
def withTwin (s : State) : State := { s with disp := { s.disp with blocks := s.disp.blocks ++ [{ Block.none with id := 2, launch := 1, lin := 0, core := 8, st := .running, primary := false }] } }

/-- The passage of a slot at stop 0 comes about in its order, the slot neither held nor reserved, with these operations ready. -/
def passes1 (slot : Nat) (s : State) (l : List GirthOp) : Bool :=
  let c := s.nextPass 0 slot
  s.inOrder 0 slot c && s.girthReady 0 slot c == l && l.all (fun o => !(s.girthBehind o slot) && decide (c < o.ready + 392)) && (s.slotHdr slot).hold == none && (s.slotHdr slot).rsv == none

theorem witness_girth_events : met [
    [GirthAct.read 8 none, .update 12 15 false 1 2 5 (some 3), .cinch 8, .dismount none 8 none].all fun a => passes1 4 (withOps idle [opOf a]) [opOf a],
    [GirthAct.mount 7 (List.replicate 16 1) 5, .dismount (some 0) 8 none].all fun a => passes1 3 (withOps idle [opOf a]) [opOf a],
    passes1 4 (withOps idle [opOf (.read 8 none), { opOf (.cinch 8) with pend := 6, crew := 4 }]) [opOf (.read 8 none), { opOf (.cinch 8) with pend := 6, crew := 4 }],
    ((withHdr idle { SlotHdr.init with hold := some (0, 1, 0, 400) }).slotHdr 4).hold == some (0, 1, 0, 400), (withHdr idle { SlotHdr.init with hold := some (0, 1, 0, 400) }).inOrder 0 4 400,
    !(idle.girthBehind (opOf (.close (List.replicate 16 1) none)) 4), idle.gi.ops.isEmpty, decide ((0 : Nat) ∉ idle.disp.retired),
    ((withHdr idle { SlotHdr.init with hold := some (0, 1, 0, 400) }).slotHdr 4).heldMine (opOf (.close (List.replicate 16 1) none)) && decide ((opOf (.close (List.replicate 16 1) none)).ready ≤ 400),
    ((withHdr idle { SlotHdr.init with rsv := some (0, 400) }).slotHdr 4).rsv == some (0, 400), (withHdr idle { SlotHdr.init with rsv := some (0, 400) }).inOrder 0 4 400] = true := by decide +kernel

theorem witness_guarded : met [
    (arrived false false 0 0).grd.pairs.any fun p => p.primary == 1 && !p.restoring && !p.bad && p.arrivalOf 1 == some 0 && p.arrivalOf 2 == some 0, !((arrived false false 0 0).launchOf 1).stopped,
    (withTwin (arrived false false 0 0)).quiet 1 && (withTwin (arrived false false 0 0)).quiet 2, (withTwin (arrived false false 0 0)).blockSig 1 == (withTwin (arrived false false 0 0)).blockSig 2,
    (arrived true false 0 0).grd.pairs.any fun p => p.checking, badPair.grd.pairs.any fun p => p.bad && !p.restoring && !p.checking, (arrived false false 1 3).grd.pairs.any fun p => p.arrivalOf 1 != p.arrivalOf 2 && decide (p.rollbacks < 2),
    (arrived false false 2 3).grd.pairs.any fun p => p.arrivalOf 1 != p.arrivalOf 2 && decide (2 ≤ p.rollbacks), decide ((idle.launchOf 1).uid ≠ 0),
    (checked false).grd.pairs.any fun p => p.checking && !p.bad && p.go.isEmpty && p.arrived.isEmpty && !((withTwin (checked false)).pairBusy p),
    (checked true).grd.pairs.any fun p => p.restoring && (withTwin (checked true)).pairRuns p, ((checked true).grd.snaps.filter fun x => x.blk == 1 || x.blk == 2).length == 2] = true := by decide +kernel

/-- A request that its cluster has not charged. -/
def uncharged : State := { idle with pipe := { idle.pipe with reqs := [{ reqAt (.load 4 0 0 0 true) with charged := false }] } }
/-- Spares of die 0 used up. -/
def noSpares : State := { idle with sl := { idle.sl with sparesUsed := [(0, 2)] } }
/-- Booted. -/
def booted : State := { idle with host := { idle.host with boot := 5 } }
/-- With a cluster's cores retired. -/
def without (cl : Nat) : State := { idle with disp := { idle.disp with drained := [cl] } }

theorem witness_errors : met [
    decide (5 ≤ booted.host.boot), decide (((5 : Word)).toNat % 4 < 2), ((idle.setEcc 3 { idle.ecc 3 with busy := true }).ecc 3).busy, decide (arrayLines ≤ arrayLines - 1 + 1), decide ((idle.ecc 127).swept ≠ idle.now / 2048 + 1),
    decide (∀ e ∈ idle.sl.evacs, e.slice ≠ 3), idle.spareSlice 0, !noSpares.spareSlice 0, !(idle.ecc 3).degraded,
    ([({ slice := 3, pos := 0, total := arrayLines } : Evac)].find? fun e => sliceDie e.slice == sliceDie 3).isSome, !idle.clusterOut 46 && !idle.clusterOut 47,
    (without 46).clusterOut 46 && !(without 46).clusterOut 47, (without 47).clusterOut 47 && !(without 47).clusterOut 46, ({ idle with sl := { idle.sl with rowDue := [3] } }).sl.rowDue.contains 3, !(idle.sl.rowDue.contains 3),
    decide ((idle.bud 0).ivl ≤ idle.now / 2048) && (idle.bud 0).port.isEmpty && decide (idle.now + 2048 < 2 ^ 64), decide ((idle.bud 0).port = []), ((uncharged.setBud 0 { uncharged.bud 0 with port := [⟨.req, 6, [32], 0⟩] }).bud 0).port.any fun w => w.who == .req && w.id == 6,
    (uncharged.pipe.reqs.find? fun r => r.id == 6).any fun r => !r.charged && decide (∀ x ∈ uncharged.pipe.reqs, x.core = r.core → lineOf x.pa = lineOf r.pa → x.id < r.id → x.charged = true)] = true := by
  decide +kernel

/-- With a quota of 10 and 4 of it left. -/
def withQuota : State := booted.setCtx 0 { booted.ctx 0 with eqcfg := 0xFA0000000000000A, eqrem := 4, eqnext := 100 }

theorem witness_quota : met [
    (withQuota.block 1).charges (if (withQuota.block 1).charged < withQuota.now / 1024 then withQuota.now / 1024 else withQuota.now / 1024 + 1), decide (0 < (withQuota.ctx 0).quota),
    withQuota.disp.blocks.any fun x => withQuota.block x.id == x && (withQuota.launch x.launch).ctx == 0 && !x.quotaWait && x.st == .running, (blkAs .restoring id).disp.blocks.any fun x => !x.quotaWait && x.st == .restoring, decide (bits (withQuota.ctx 0).eqrem.toNat 0 32 ≤ 4), decide (3 < bits (withQuota.ctx 0).eqrem.toNat 0 32),
    (idle.ctx 0).quota == 0, decide ((withQuota.ctx 0).eqnext ≠ 0), (0xFA0000000000000A : DWord).toNat / 2 ^ 54 == 1000, (0xFA4000000000000A : DWord).toNat / 2 ^ 54 == 1001,
    (10 : DWord).toNat / 2 ^ 54 == 0] = true := by decide +kernel

/-- With port n up. -/
def portUp (n : Nat) : State := booted.setPort n { up := true, retraining := false }

/-- In step 4 of start-up, ports 0 to 2 having trained. -/
def training : State := [0, 1, 2].foldl (fun s m => s.setPort m { up := true, retraining := false }) { idle with host := { idle.host with boot := 4 } }

theorem witness_host : met [
    decide (5 ≤ booted.host.boot) && !booted.host.featLocked, { booted.host with featLocked := true }.featLocked, decide ((127 : Nat) < 128), booted.host.cmdRun == .idle,
    decide ((mget .init booted.sl.logs 12).read ≤ 0) && decide (0 ≤ (mget .init booted.sl.logs 12).written), ((portUp 3).port 3).up, decide (∀ a ∈ (portUp 3).host.heldAcc, a.port ≠ 3),
    [true, false].all fun w => ((portUp 0).hostAccess ⟨0, 64, [1], w, 0⟩).isSome && ((trains booted).hostAccess ⟨0, 64, [1], w, 0⟩).isNone,
    { booted.host with heldAcc := [⟨0, 64, [1], true, 0⟩] }.heldAcc.any fun a => a.port == 0, training.host.boot == 4 && [0, 1, 2].all fun m => (training.port m).up, !(training.port 3).up] = true := by
  decide +kernel

/-- A command runs. -/
def running (c : CmdRun) : State := { booted with host := { booted.host with cmdRun := c } }
/-- The debug window selects crew 0 of block 0 of launch 1, which is HALTED. -/
def debugging : State := { (faulted true false false) with host := { (faulted true false false).host with boot := 5, dbgsel := [(1, 1)] } }

/-- A fault that has gone to the control core. -/
def coreFault : State := { (faulted false false true) with sch := { (faulted false false true).sch with faults := [{ faultOf false false true with seq := 7, written := true }] } }

theorem witness_commands : met [
    booted.host.cmdRun == .idle, booted.entryOf 0 7 == none, { (faulted false false false) with sch := { (faulted false false false).sch with faults := [{ faultOf false false false with seq := 7, written := true }] } }.entryOf 0 7 |>.isSome,
    (coresOf (coreCluster 383)).all fun c => mget 0 booted.disp.phys c == 0, { booted.disp with phys := [(376, 8)] }.phys.any fun e => (coresOf (coreCluster 383)).contains e.1,
    booted.spareSlice 3, !noSpares.spareSlice 0, paRegion 0x8000 == .hbm, (booted.ctx 0).live, !(running (.accesses [4])).accessing [4],
    (running (.closed 3)).host.cmdRun == .closed 3 && (running (.seq 3)).host.cmdRun == .seq 3, decide ((running (.core 3)).onCore 3 = []), (coresOf 47).all fun c => decide ((running (.drain 47)).onCore c = []), decide (∀ e ∈ (running (.evac 3)).sl.evacs, e.slice ≠ 3),
    (running (.ctxend 3)).host.cmdRun == .ctxend 3, debugging.dbgBlock == some 1,
    debugging.dbgOpens 1 debugging.dbgCrew, (debugging.faultsOf 1 0).any fun f => f.inspect && !f.moved, !debugging.dbgFeed, !(debugging.launchOf 1).stopped, (coreFault.entryIn true 0 7).isSome && !(coreFault.launchOf 1).stopped, ((coreFault.setLaunch { coreFault.launch 1 with stopped := true }).entryIn true 0 7).isSome, (idle.entryIn true 0 7).isNone, decide ((1023 : Nat) < (debugging.launchOf 1).regs) || decide ((255 : Nat) < (debugging.launchOf 1).regs),
    decide (booted.dbgBlock = none ∨ booted.dbgOpens 1 0 = false)] = true := by decide +kernel

theorem witness_step : met [
    { idle with sch := { idle.sch with agenda := [.heatDecay] } }.sch.agenda.length == 1 && goes .heatDecay idle, crew.sch.agenda.isEmpty && crew.sch.curOn,
    idle.sch.agenda.isEmpty && !idle.sch.curOn && (match autoStep idle with
      | .next _ => true
      | _ => false),
    (match fetchCur crew with
      | .instr i t => goes i t
      | _ => false), (match (crew.translate 0 0 0x100000).1 with
      | .ok x => x.x && !(crew.readLine (x.home 0x100000) (lineOf (x.phys 0x100000)) 1).homeBad (x.home 0x100000) (x.phys 0x100000) 4
      | _ => false),
    (State.reset.withFetchWord 32 0xFF80134F).sch.cur.clause.isNone && (match decodeHeader 0xFF80134F with
      | .ok _ => true
      | _ => false), ({ crew with sch := { crew.sch with cur := { crew.sch.cur with clause := none } } }).sch.cur.clause.isNone && (match decodeHeader 0 with
      | .ok _ => false
      | _ => true),
    !crew.curGated, ({ crew with pow := { crew.pow with yoke := [(0, { crew.yoke 0 with glev := 4, pref := 1 })] } }).curGated,
    hasExt 0x75 && (match decodeBody false 0x75100818 (some 0x0C42FFFC) with
      | .ok _ => true
      | _ => false), !(hasExt 0x6C) && (match decodeBody false 0x6C120008 none with
      | .ok _ => false
      | _ => true), decide (crew.sch.cur.clause.map (fun c => c.left) = some 15)] = true := by decide +kernel

theorem witness_invariant : Inv crew ∧ Inv State.reset := by
  constructor <;> constructor <;> decide +kernel

theorem witness_lanes : met [!(2 : Field).isK, decide crew.sch.cur.members.Nodup, crew.sch.cur.members.all fun m => decide (m.lane < 32) && decide (m.crew < 32) && decide (crew.regs.cellOf 1 m.crew 63 + 1 < 1024),
    decide (crew.lanesOn 0 ≠ []), decide ((⟨0, 0⟩ : Member) ∉ crew.lanesOn 1)] = true := by decide +kernel

/-- The trap entry's launch in inspect mode. -/
def inspected : State := withField crew 299 1

theorem witness_trap : met [
    [Instr.gread 0 0 0 (gmod 0), .gfence 4, .kvfree 0 0 vmod, .assay 0 0 0 vmod, .mmai4 0 0 0 amod].all fun i => (featureOf i).isSome, (coreFault.launchOf 1).stopped == false && (coreFault.block 1).id == 1,
    (inspected.launchOf 1).inspect, !(crew.launchOf 1).inspect, (crew.block 1).st == .running, !(crew.launchOf 1).guarded && decide ((crew.launchOf 1).uid ≠ 0), !{ crew.host with featacc := 0xE }.featacc.getLsbD 0,
    !(faultOf false false false).moved && decide ((faultOf false false false).threads ≠ []) && !(faultOf false false false).inspect && decide ((faultOf false false false).blk ≠ 0)] = true := by decide +kernel

/-- The crew's block in a guarded pair with another, as its primary or its twin. -/
def paired (s : State) (primary : Bool) (f : Pair → Pair) : State := { guardedBy s 0 with grd := { (guardedBy s 0).grd with
  pairs := (guardedBy s 0).grd.pairs.map fun p => f { p with primary := if primary then 1 else 2, twin := if primary then 2 else 1 } } }
/-- Code of the crew's bundle at GREAD. -/
def code : Nat := (crew.joined .none).sch.cur.code
/-- The guarded form of an instruction passes the issue stage; its action waits to be repeated, or is made. -/
def guardedForm (i : Instr) (s : State) (rec retries : Bool) : Bool :=
  (sharedOf s i).any fun f => s.sch.curOn && s.passes i f.q && (s.pairOf 1).isSome && f.recs.isSome == rec && (f.act (s.joined f.q.bound)).retries == retries
/-- With the girth stop of its core full. -/
def fullStop (s : State) : State := withOps s ((List.range 32).map fun i => { opOf (.cinch 8) with pend := 5 + i })

theorem witness_pairs : met [
    guardedForm (.gread 2 0x44 0 (gmod 0)) (paired crew true id) true false, guardedForm (.gread 2 0x44 0 (gmod 0)) (paired crew true fun p => { p with arrived := [(1, code)] }) true false,
    guardedForm (.gread 2 0x44 0 (gmod 0)) (paired crew true fun p => { p with go := [(1, code)] }) true false,
    guardedForm (.gread 2 0x44 0 (gmod 0)) (fullStop (paired crew true fun p => { p with go := [(1, code)] })) true true,
    guardedForm (.gread 2 0x44 0 (gmod 0)) (paired crew false fun p => { p with go := [(1, code)] }) true false, guardedForm (.gfence 4) (paired crew false fun p => { p with go := [(1, code)] }) true false,
    guardedForm (.pin 0x42 0x44 0 kmod) (paired crew true id) false false, guardedForm (.pin 0x42 0x44 0 kmod) (paired crew false fun p => { p with acts := [(code, [5])] }) false false,
    ((paired crew false fun p => { p with acts := [(code, [5])], ended := [⟨5, [], false, some (.prot, 0, 0, 2)⟩] }).pairOf 1).any fun p =>
      (p.acts.find? fun e => e.1 == code).isSome && ((p.ended.filter fun g => [5].contains g.id).findSome? fun g => g.trap).isSome,
    decide ((crew.joined .crew).sch.cur.code = code) && decide ((crew.joined .none).sch.cur.code = code)] = true := by decide +kernel

end Sys2Proof.Tests
end

/-!
PROOF (R147): what an instruction of SETA kind starts, and division and remainder of words as the library's operations on bit vectors.
-/
namespace Sys2Proof.Machine

/-! ## Starting an operation of SETA kind -/

/-- The issue of a compute instruction awaits no lanes: it is bound to its crew on the uniform path and to nothing on the vector path. -/
theorem joined_computeIssue (sh : Shape) (d a b : Field) (g : Guard) (words : Nat) (feed : Bool) (s : State) :
    s.joined (computeIssue sh d a b g words feed s).bound = s := by
  cases hd : d.isK with
  | true => simp [computeIssue, hd, joined_crew]
  | false => simp [computeIssue, hd, joined_none]

/-- A compute instruction of SETA kind that passes the issue stage starts its pending operations. -/
theorem computeLong_of_passes {i : Instr} {sh : Shape} {fn : LaneFn} {d a b : Field} {g : Guard} {feed : Bool} {s : State}
    (h : s.passes i (computeIssue sh d a b g 1 feed s) = true) :
    computeLong i sh fn d a b g feed s = .next (s.computing sh fn d a b g) := by
  unfold computeLong
  rw [issue_of_passes h, joined_computeIssue]
  rfl

theorem divisionRows_start : ∀ r ∈ divisionRows, r.Starts := by
  simp only [divisionRows, List.forall_mem_cons]
  refine ⟨?_, ?_, ?_, ?_, List.forall_mem_nil _⟩ <;> exact fun _ _ _ _ _ h => computeLong_of_passes h

/-! ## Unsigned division -/

theorem divU_eq_udiv (a b : Word) : divU a b = if b = 0 then 0xFFFFFFFF else a / b := by
  rw [divU, BitVec.udiv_def]

/-- The product of the divisor and the quotient does not exceed the dividend, so it does not wrap. -/
theorem remU_eq_sub (a b : Word) : remU a b = if b = 0 then a else a - b * (a / b) := by
  have hle : b.toNat * (a.toNat / b.toNat) ≤ a.toNat := Nat.mul_div_le _ _
  have hprod : b * (a / b) = BitVec.ofNat 32 (b.toNat * (a.toNat / b.toNat)) := by
    rw [BitVec.ofNat_mul, BitVec.udiv_def, BitVec.ofNat_toNat, BitVec.setWidth_eq]
  rw [remU, hprod, ← BitVec.ofNat_sub_ofNat_of_le _ _ (Nat.lt_of_le_of_lt hle a.isLt) hle, BitVec.ofNat_toNat, BitVec.setWidth_eq]

/-! ## Signed division -/

/-- The library's quotient is the truncated one, wrapped to the width. -/
theorem sdiv_eq_ofInt_tdiv {w : Nat} (a b : BitVec w) : a.sdiv b = BitVec.ofInt w (a.toInt.tdiv b.toInt) :=
  BitVec.eq_of_toInt_eq (by rw [BitVec.toInt_sdiv, BitVec.toInt_ofInt])

theorem srem_eq_ofInt_tmod {w : Nat} (a b : BitVec w) : a.srem b = BitVec.ofInt w (a.toInt.tmod b.toInt) := by
  rw [← BitVec.toInt_srem, BitVec.ofInt_toInt]

/-- In the overflow corner the rule's quotient is the wrapped one. -/
theorem divS_eq_sdiv (a : Word) {b : Word} (hb : b ≠ 0) : divS a b = a.sdiv b := by
  rw [divS, if_neg hb]
  split
  next hcorner =>
    obtain ⟨rfl, rfl⟩ := hcorner
    decide
  next => exact (sdiv_eq_ofInt_tdiv a b).symm

/-- The rule's remainder is the library's for every divisor, 0 and the overflow corner included. -/
theorem remS_eq_srem (a b : Word) : remS a b = a.srem b := by
  unfold remS
  split
  next hzero =>
    subst hzero
    exact BitVec.srem_zero.symm
  next =>
    split
    next hcorner =>
      obtain ⟨rfl, rfl⟩ := hcorner
      decide
    next => rw [← Int.tmod_def, wordOfInt, srem_eq_ofInt_tmod]

theorem toInt_divS {a b : Word} (hb : b ≠ 0) (hover : a ≠ 0x80000000 ∨ b ≠ 0xFFFFFFFF) :
    (divS a b).toInt = a.toInt.tdiv b.toInt := by
  rw [divS_eq_sdiv a hb]
  exact BitVec.toInt_sdiv_of_ne_or_ne a b hover

theorem toInt_remS (a b : Word) : (remS a b).toInt = a.toInt.tmod b.toInt := by
  rw [remS_eq_srem, BitVec.toInt_srem]

theorem divS_mul_add_remS (a : Word) {b : Word} (hb : b ≠ 0) : divS a b * b + remS a b = a :=
  calc divS a b * b + remS a b
    _ = BitVec.ofInt 32 (a.toInt.tdiv b.toInt) * BitVec.ofInt 32 b.toInt + BitVec.ofInt 32 (a.toInt.tmod b.toInt) := by
      rw [divS_eq_sdiv a hb, remS_eq_srem, sdiv_eq_ofInt_tdiv, srem_eq_ofInt_tmod, BitVec.ofInt_toInt]
    _ = BitVec.ofInt 32 a.toInt := by rw [← BitVec.ofInt_mul, ← BitVec.ofInt_add, Int.tdiv_mul_add_tmod]
    _ = a := BitVec.ofInt_toInt

/-- A nonzero truncated remainder has the sign of the dividend. -/
theorem remS_neg_iff {a b : Word} (hrem : remS a b ≠ 0) : (remS a b).toInt < 0 ↔ a.toInt < 0 := by
  have hmod : a.toInt.tmod b.toInt ≠ 0 := by
    rw [← toInt_remS]
    exact fun h => hrem (BitVec.eq_of_toInt_eq h)
  have hsign : (a.toInt.tmod b.toInt).sign = a.toInt.sign := by
    rw [Int.sign_tmod, if_neg (mt Int.tmod_eq_zero_of_dvd hmod)]
  rw [toInt_remS, ← Int.sign_eq_neg_one_iff_neg, hsign, Int.sign_eq_neg_one_iff_neg]

/-- Settles O2: the rows start their operations, the encodings are the opcodes', and the results are those of truncated division. -/
theorem divisionStarts : Obligations.DivisionStarts := by
  unfold Obligations.DivisionStarts
  refine ⟨divisionRows_start, fun _ _ _ _ => ⟨rfl, rfl, rfl, rfl⟩, fun a b => ?_⟩
  have hzero : divS a 0 = 0xFFFFFFFF ∧ remS a 0 = a := ⟨if_pos rfl, if_pos rfl⟩
  have hcorner : divS 0x80000000 0xFFFFFFFF = 0x80000000 ∧ remS 0x80000000 0xFFFFFFFF = 0 := by decide
  exact ⟨divU_eq_udiv a b, remU_eq_sub a b, hzero.1, hzero.2, hcorner.1, hcorner.2,
    fun hb hover => ⟨toInt_divS hb hover, toInt_remS a b⟩, divS_mul_add_remS a, remS_neg_iff⟩

end Sys2Proof.Machine

/-!
PROOF (R196): the words that P2V reads from the predicates of a thread and of a crew, bit by bit, and its issue.
-/
namespace Sys2Proof.Machine

/-! ## The predicates as a word -/

/-- One more power of two on top of the sum of those that a test picks below it. -/
theorem sum_twoPow_succ (f : Nat → Bool) (k : Nat) :
    ((List.range (k + 1)).map fun i => if f i then 2 ^ i else 0).sum =
      ((List.range k).map fun i => if f i then 2 ^ i else 0).sum + (if f k then 2 ^ k else 0) := by
  rw [List.range_succ, List.map_append, List.sum_append_nat, List.map_singleton, List.sum_singleton]

theorem sum_twoPow_lt (f : Nat → Bool) (k : Nat) : ((List.range k).map fun i => if f i then 2 ^ i else 0).sum < 2 ^ k := by
  induction k with
  | zero => exact Nat.zero_lt_one
  | succ k ih =>
    have hpow : 2 ^ (k + 1) = 2 ^ k + 2 ^ k := by rw [Nat.pow_succ, Nat.mul_two]
    rw [sum_twoPow_succ]
    split <;> omega

/-- The sum of the powers of two that a test picks has the test's answers as its bits: each power stands above the sum before it. -/
theorem testBit_sum_twoPow (f : Nat → Bool) (k n : Nat) :
    ((List.range k).map fun i => if f i then 2 ^ i else 0).sum.testBit n = (decide (n < k) && f n) := by
  induction k with
  | zero => exact Nat.zero_testBit n
  | succ k ih =>
    have hlt := sum_twoPow_lt f k
    rw [sum_twoPow_succ]
    generalize ((List.range k).map fun i => if f i then 2 ^ i else 0).sum = x at ih hlt ⊢
    have hor : (x + if f k then 2 ^ k else 0).testBit n = (x.testBit n || (decide (k = n) && f k)) := by
      cases f k with
      | true =>
        have hsum : x + 2 ^ k = 2 ^ k ||| x := by
          have h := Nat.two_pow_add_eq_or_of_lt hlt 1
          rwa [Nat.mul_one, Nat.add_comm] at h
        rw [if_pos rfl, hsum, Nat.testBit_or, Nat.testBit_two_pow, Bool.and_true, Bool.or_comm]
      | false => rw [if_neg Bool.false_ne_true, Nat.add_zero, Bool.and_false, Bool.or_false]
    rw [hor, ih]
    by_cases hn : k = n
    · subst hn
      rw [decide_eq_false (Nat.lt_irrefl k), decide_eq_true rfl, decide_eq_true (Nat.lt_succ_self k), Bool.false_and, Bool.false_or]
    · have hiff : n < k ↔ n < k + 1 := by omega
      rw [decide_eq_false hn, Bool.false_and, Bool.or_false, decide_eq_decide.mpr hiff]

theorem getLsbD_lo_ofNat (x n : Nat) : (lo (BitVec.ofNat 64 x)).getLsbD n = (decide (n < 32) && x.testBit n) := by
  rw [lo, BitVec.getLsbD_setWidth, BitVec.getLsbD_ofNat]
  by_cases h : n < 32
  · rw [decide_eq_true h, decide_eq_true (Nat.lt_trans h (by decide : 32 < 64)), Bool.true_and]
  · rw [decide_eq_false h, Bool.false_and, Bool.false_and]

theorem eq_lo_of_testBit {w : Word} {x : Nat} (h : ∀ n, w.getLsbD n = x.testBit n) : w = lo (BitVec.ofNat 64 x) :=
  BitVec.eq_of_getLsbD_eq fun n hn => by rw [h, getLsbD_lo_ofNat, decide_eq_true hn, Bool.true_and]

theorem Regs.predByte_testBit (r : Regs) (b : Nat) (m : Member) (n : Nat) :
    (r.predByte b m).testBit n = (decide (n < 8) && r.preg b m.crew m.lane n) := testBit_sum_twoPow _ 8 n

theorem Regs.qNibble_testBit (r : Regs) (b c n : Nat) : (r.qNibble b c).testBit n = (decide (n < 4) && r.qreg b c n) :=
  testBit_sum_twoPow _ 4 n

/-! ## The issue of P2V -/

/-- P2V awaits no lanes: it is bound to its crew on the uniform path and to nothing on the vector path. -/
theorem joined_p2vBound (d : Field) (s : State) : s.joined (if d.isK then .crew else .none) = s := by
  cases d.isK with
  | true => exact joined_crew s
  | false => exact joined_none s

/-- P2V that passes the issue stage writes its register. -/
theorem execP2v_of_passes {d : Field} {g : Guard} {s : State}
    (h : s.passes (.p2v d g) {
      bound := if d.isK then .crew else .none, guard := g
      keys := s.fieldKeys d d.isK 1 ++ (List.range 8).flatMap fun n => if d.isK && 4 ≤ n then [] else s.predKeys d.isK n } = true) :
    execP2v d g s = .next ((s.wrote (p2vWr d g s)).advance 1) := by
  rw [execP2v, issue_of_passes h, joined_p2vBound]

theorem p2vWr_vector {d : Field} (hd : d.isK = false) (g : Guard) (s : State) :
    p2vWr d g s = (s.lanesOn g).map fun m => .cell m.crew (s.regs.cellOf s.sch.cur.blk m.crew d) m.lane
      (lo (BitVec.ofNat 64 (s.regs.predByte s.sch.cur.blk m))) := by
  simp only [p2vWr, hd, Regs.vwr, List.map_eq_flatMap, Bool.false_eq_true, if_false]

theorem p2vWr_uniform {d : Field} (hd : d.isK = true) (g : Guard) (s : State) :
    p2vWr d g s = if s.uniformOn g = true then
      [.k s.sch.cur.crew d.num (lo (BitVec.ofNat 64 (s.regs.qNibble s.sch.cur.blk s.sch.cur.crew)))] else [] := by
  simp only [p2vWr, hd, kwr, Bool.false_eq_true, if_true, if_false]

/-- Settles O17: the word is the opcode's, P2V that passes issue writes, and the words written have the predicates as their bits. -/
theorem predicatesReadRule : Obligations.PredicatesReadRule := by
  unfold Obligations.PredicatesReadRule
  refine fun d g s => ⟨rfl, fun byte nibble hbyte hnibble => ⟨fun hd hpass => ?_, fun hd hpass => ?_⟩⟩
  · have hword : ∀ m, byte m = lo (BitVec.ofNat 64 (s.regs.predByte s.sch.cur.blk m)) := fun m =>
      eq_lo_of_testBit fun n => by rw [hbyte, Regs.predByte_testBit]
    simp only [hword, ← p2vWr_vector hd]
    exact execP2v_of_passes (by simpa only [hd, Bool.false_eq_true, if_false, Bool.false_and] using hpass)
  · have hword : nibble = lo (BitVec.ofNat 64 (s.regs.qNibble s.sch.cur.blk s.sch.cur.crew)) :=
      eq_lo_of_testBit fun n => by rw [hnibble, Regs.qNibble_testBit]
    rw [hword, ← p2vWr_uniform hd]
    exact execP2v_of_passes (by simpa only [hd, if_true, Bool.true_and, decide_eq_true_eq] using hpass)

end Sys2Proof.Machine

/-!
PROOF (R359, R360): whose record a charge of energy writes. Refutes the rule of the energy quota as stated: a charge for a number that no block has is
written to a block that has the number of `Block.none`, 0.
-/
namespace Sys2Proof.Machine

/-! ## The blocks after one is replaced -/

/-- A replacement keeps the numbers of the blocks, so the block of a number is found where it was. -/
theorem State.find?_setBlock (s : State) (x : Block) (n : Nat) :
    (s.setBlock x).disp.blocks.find? (·.id == n) = (s.disp.blocks.find? (·.id == n)).map fun y => if y.id == x.id then x else y := by
  have hnum : ((·.id == n) ∘ fun y : Block => if y.id == x.id then x else y) = (·.id == n) := by
    funext y
    by_cases hy : y.id = x.id <;> simp [hy]
  rw [State.setBlock, List.find?_map, hnum]

theorem State.block_setBlock_self {s : State} {x : Block} (h : ∃ y ∈ s.disp.blocks, y.id = x.id) : (s.setBlock x).block x.id = x := by
  have hsome : (s.disp.blocks.find? (·.id == x.id)).isSome := by simpa [List.find?_isSome] using h
  obtain ⟨y, hy⟩ := Option.isSome_iff_exists.mp hsome
  rw [State.block, State.find?_setBlock, hy]
  exact if_pos (List.find?_some hy)

theorem State.block_setBlock_ne (s : State) {x : Block} {n : Nat} (h : x.id ≠ n) : (s.setBlock x).block n = s.block n := by
  rw [State.block, State.find?_setBlock, State.block]
  cases hy : s.disp.blocks.find? (·.id == n) with
  | none => rfl
  | some y =>
    have hid : y.id = n := by simpa using List.find?_some hy
    exact if_neg (by simpa [hid] using h.symm)

/-! ## A charge for a number that no block has -/

/-- Where no limit stands, a charge writes the charged window of its block and nothing else of any block. -/
theorem State.chargeEnergy_block_of_noLimit {s : State} {n w amount : Nat}
    (hquota : (s.ctx ((s.setBlock { s.block n with charged := w }).launchOf n).ctx).quota = 0) (b : Nat) :
    (s.chargeEnergy n w amount).block b = (s.setBlock { s.block n with charged := w }).block b := by
  unfold State.chargeEnergy
  extract_lets x t l key power metered page rem
  have hpage : page.quota = 0 := hquota
  rw [if_pos hpage]
  rfl

/-- A charge for a number that no block has overwrites block 0 with `Block.none`, which is complete. -/
theorem State.chargeEnergy_absent {s : State} {n w amount : Nat} (hn : n ≠ 0) (habsent : s.block n = .none)
    (hzero : ∃ y ∈ s.disp.blocks, y.id = 0) (hquota : (s.ctx (s.launchOf n).ctx).quota = 0) :
    (s.chargeEnergy n w amount).block 0 = { Block.none with charged := w } := by
  have hlaunch : (s.setBlock { s.block n with charged := w }).launchOf n = s.launchOf n := by
    rw [State.launchOf, State.block_setBlock_ne s (by rw [habsent]; exact hn.symm)]
    rfl
  rw [State.chargeEnergy_block_of_noLimit (by rw [hlaunch]; exact hquota), habsent]
  exact State.block_setBlock_self (x := { Block.none with charged := w }) hzero

/-- After reset, with one running block, which has the number 0. The machine numbers its blocks from 1 on (log 4); the
statement speaks of every state. -/
def blockZeroRuns : State :=
  { State.reset with disp := { State.reset.disp with blocks := [{ Block.none with st := .running }] } }

/-- Refutes O48: in `blockZeroRuns` a charge of block 1, which is absent and whose context has no limit, makes block 0, which runs, complete. -/
theorem not_energyQuotaRule : ¬ Obligations.EnergyQuotaRule := by
  unfold Obligations.EnergyQuotaRule
  intro h
  obtain ⟨-, hcharge, -⟩ := h 1 0 blockZeroRuns
  obtain ⟨-, hunspent⟩ := hcharge 0 _ _ rfl (by decide) rfl
  obtain ⟨t, hnext, -, -, -, hblocks, -⟩ := hunspent (.inl (by decide))
  have ht : t = (blockZeroRuns.reach 1024).chargeEnergy 1 1 0 := (Host.Outcome.next.inj hnext).symm
  have hzero : (t.block 0).st = .complete := by
    rw [ht, State.chargeEnergy_absent (by decide) rfl ⟨_, List.mem_singleton_self _, rfl⟩ (by decide)]
    rfl
  exact absurd (hzero.symm.trans (hblocks 0).1) (by decide)

end Sys2Proof.Machine

/-!
PROOF (R107 to R112, R128): the decoder reads every instruction's words back, one family of lemmas for each constructor.
-/
namespace Sys2Proof.Machine

-- One theorem after the other: in parallel they ask for more threads than the host allows.
set_option Elab.async false

/-- Settles O52: each row of the table by its own round trip; an event row has no words. -/
theorem decodeEncode : Obligations.DecodeEncode := by
  unfold Obligations.DecodeEncode
  intro i
  cases i with
  | iadd => exact Laws.RoundTrip.iadd _ _ _ _
  | iaddc => exact Laws.RoundTrip.iaddc _ _ _ _
  | isub => exact Laws.RoundTrip.isub _ _ _ _
  | isubb => exact Laws.RoundTrip.isubb _ _ _ _
  | imul => exact Laws.RoundTrip.imul _ _ _ _
  | imulhs => exact Laws.RoundTrip.imulhs _ _ _ _
  | imulhu => exact Laws.RoundTrip.imulhu _ _ _ _
  | imad => exact Laws.RoundTrip.imad _ _ _ _
  | imad64 => exact Laws.RoundTrip.imad64 _ _ _ _
  | idiv => exact Laws.RoundTrip.idiv _ _ _ _
  | idivu => exact Laws.RoundTrip.idivu _ _ _ _
  | irem => exact Laws.RoundTrip.irem _ _ _ _
  | iremu => exact Laws.RoundTrip.iremu _ _ _ _
  | imin => exact Laws.RoundTrip.imin _ _ _ _
  | imax => exact Laws.RoundTrip.imax _ _ _ _
  | iminu => exact Laws.RoundTrip.iminu _ _ _ _
  | imaxu => exact Laws.RoundTrip.imaxu _ _ _ _
  | iabs => exact Laws.RoundTrip.iabs _ _ _
  | icmp => exact Laws.RoundTrip.icmp _ _ _ _ _ _
  | icmpu => exact Laws.RoundTrip.icmpu _ _ _ _ _ _
  | iadd64 => exact Laws.RoundTrip.iadd64 _ _ _ _
  | isub64 => exact Laws.RoundTrip.isub64 _ _ _ _
  | imul64 => exact Laws.RoundTrip.imul64 _ _ _ _
  | lea => exact Laws.RoundTrip.lea _ _ _ _
  | lea64 => exact Laws.RoundTrip.lea64 _ _ _ _
  | and => exact Laws.RoundTrip.and _ _ _ _
  | or => exact Laws.RoundTrip.or _ _ _ _
  | xor => exact Laws.RoundTrip.xor _ _ _ _
  | andn => exact Laws.RoundTrip.andn _ _ _ _
  | orn => exact Laws.RoundTrip.orn _ _ _ _
  | shl => exact Laws.RoundTrip.shl _ _ _ _
  | shr => exact Laws.RoundTrip.shr _ _ _ _
  | sar => exact Laws.RoundTrip.sar _ _ _ _
  | rotl => exact Laws.RoundTrip.rotl _ _ _ _
  | fshl => exact Laws.RoundTrip.fshl _ _ _ _
  | fshr => exact Laws.RoundTrip.fshr _ _ _ _
  | bfe => exact Laws.RoundTrip.bfe _ _ _ _
  | bfi => exact Laws.RoundTrip.bfi _ _ _ _
  | popc => exact Laws.RoundTrip.popc _ _ _
  | clz => exact Laws.RoundTrip.clz _ _ _
  | clz64 => exact Laws.RoundTrip.clz64 _ _ _
  | brev => exact Laws.RoundTrip.brev _ _ _
  | bytep => exact Laws.RoundTrip.bytep _ _ _ _
  | sel => exact Laws.RoundTrip.sel _ _ _ _
  | fadd => exact Laws.RoundTrip.fadd _ _ _ _
  | fsub => exact Laws.RoundTrip.fsub _ _ _ _
  | fmul => exact Laws.RoundTrip.fmul _ _ _ _
  | ffma => exact Laws.RoundTrip.ffma _ _ _ _
  | fmin => exact Laws.RoundTrip.fmin _ _ _ _
  | fmax => exact Laws.RoundTrip.fmax _ _ _ _
  | fcmp => exact Laws.RoundTrip.fcmp _ _ _ _ _ _
  | fclass => exact Laws.RoundTrip.fclass _ _ _
  | frnd => exact Laws.RoundTrip.frnd _ _ _ _
  | fscl => exact Laws.RoundTrip.fscl _ _ _ _
  | hadd2 => exact Laws.RoundTrip.hadd2 _ _ _ _
  | hmul2 => exact Laws.RoundTrip.hmul2 _ _ _ _
  | hfma2 => exact Laws.RoundTrip.hfma2 _ _ _ _
  | hmin2 => exact Laws.RoundTrip.hmin2 _ _ _ _
  | hmax2 => exact Laws.RoundTrip.hmax2 _ _ _ _
  | hcmp2 => exact Laws.RoundTrip.hcmp2 _ _ _ _ _ _
  | badd2 => exact Laws.RoundTrip.badd2 _ _ _ _
  | bmul2 => exact Laws.RoundTrip.bmul2 _ _ _ _
  | bfma2 => exact Laws.RoundTrip.bfma2 _ _ _ _
  | bmin2 => exact Laws.RoundTrip.bmin2 _ _ _ _
  | bmax2 => exact Laws.RoundTrip.bmax2 _ _ _ _
  | bcmp2 => exact Laws.RoundTrip.bcmp2 _ _ _ _ _ _
  | dadd => exact Laws.RoundTrip.dadd _ _ _ _
  | dmul => exact Laws.RoundTrip.dmul _ _ _ _
  | dfma => exact Laws.RoundTrip.dfma _ _ _ _
  | dcmp => exact Laws.RoundTrip.dcmp _ _ _ _ _ _
  | cvtf => exact Laws.RoundTrip.cvtf _ _ _ _ _ _
  | cvti => exact Laws.RoundTrip.cvti _ _ _ _ _ _
  | pack2 => exact Laws.RoundTrip.pack2 _ _ _ _
  | rcp => exact Laws.RoundTrip.rcp _ _ _
  | rsq => exact Laws.RoundTrip.rsq _ _ _
  | sqrt => exact Laws.RoundTrip.sqrt _ _ _
  | exp2 => exact Laws.RoundTrip.exp2 _ _ _
  | log2 => exact Laws.RoundTrip.log2 _ _ _
  | sinp => exact Laws.RoundTrip.sinp _ _ _
  | cosp => exact Laws.RoundTrip.cosp _ _ _
  | tanh => exact Laws.RoundTrip.tanh _ _ _
  | mov => exact Laws.RoundTrip.mov _ _ _
  | movi => exact Laws.RoundTrip.movi _ _ _
  | movl => exact Laws.RoundTrip.movl _ _ _
  | bra => exact Laws.RoundTrip.bra _ _ _
  | brau => exact Laws.RoundTrip.brau _ _ _ _
  | jmp => exact Laws.RoundTrip.jmp _ _
  | jmpi => exact Laws.RoundTrip.jmpi _ _
  | call => exact Laws.RoundTrip.call _ _
  | calli => exact Laws.RoundTrip.calli _ _
  | ret => exact Laws.RoundTrip.ret _
  | reform => exact Laws.RoundTrip.reform
  | exit => exact Laws.RoundTrip.exit _
  | nop => exact Laws.RoundTrip.nop
  | yieldI => exact Laws.RoundTrip.yieldI
  | vote => exact Laws.RoundTrip.vote _ _ _
  | shfl => exact Laws.RoundTrip.shfl _ _ _ _ _
  | cred => exact Laws.RoundTrip.cred _ _ _ _
  | cscan => exact Laws.RoundTrip.cscan _ _ _ _
  | matchEq => exact Laws.RoundTrip.matchEq _ _ _ _
  | csync => exact Laws.RoundTrip.csync _ _
  | bar => exact Laws.RoundTrip.bar _ _
  | lbar => exact Laws.RoundTrip.lbar
  | waitcmp => exact Laws.RoundTrip.waitcmp _ _ _ _ _ _
  | fence => exact Laws.RoundTrip.fence _ _
  | fenceo => exact Laws.RoundTrip.fenceo
  | fencer => exact Laws.RoundTrip.fencer _
  | plop => exact Laws.RoundTrip.plop _ _ _ _ _ _
  | p2v => exact Laws.RoundTrip.p2v _ _
  | v2p => exact Laws.RoundTrip.v2p _ _ _ _
  | rdsr => exact Laws.RoundTrip.rdsr _ _ _
  | wrsr => exact Laws.RoundTrip.wrsr _ _ _
  | winbImm => exact Laws.RoundTrip.winbImm _ _
  | winbReg => exact Laws.RoundTrip.winbReg _ _
  | cpart => exact Laws.RoundTrip.cpart _ _
  | trap => exact Laws.RoundTrip.trap _ _
  | cancelSelf => exact Laws.RoundTrip.cancelSelf _ _
  | cancelId => exact Laws.RoundTrip.cancelId _ _ _
  | wqpop => exact Laws.RoundTrip.wqpop _ _ _
  | wqpush => exact Laws.RoundTrip.wqpush _ _ _
  | ld => exact Laws.RoundTrip.ld _ _ _ _ _
  | st => exact Laws.RoundTrip.st _ _ _ _
  | ldk => exact Laws.RoundTrip.ldk _ _ _ _ _
  | stk => exact Laws.RoundTrip.stk _ _ _ _
  | lds => exact Laws.RoundTrip.lds _ _ _ _ _
  | sts => exact Laws.RoundTrip.sts _ _ _ _
  | stsm => exact Laws.RoundTrip.stsm _ _ _ _ _
  | ldp => exact Laws.RoundTrip.ldp _ _ _ _ _
  | stp => exact Laws.RoundTrip.stp _ _ _ _ _
  | ldx => exact Laws.RoundTrip.ldx _ _ _ _ _
  | stm => exact Laws.RoundTrip.stm _ _ _ _ _
  | atom => exact Laws.RoundTrip.atom _ _ _ _ _
  | atomk => exact Laws.RoundTrip.atomk _ _ _ _ _
  | red => exact Laws.RoundTrip.red _ _ _ _ _
  | cas => exact Laws.RoundTrip.cas _ _ _ _ _
  | invl1 => exact Laws.RoundTrip.invl1 _
  | invl1Line => exact Laws.RoundTrip.invl1Line _ _
  | pref => exact Laws.RoundTrip.pref _ _ _ _
  | recld => exact Laws.RoundTrip.recld _ _ _ _
  | pin => exact Laws.RoundTrip.pin _ _ _ _
  | unpin => exact Laws.RoundTrip.unpin _ _ _ _
  | cctr => exact Laws.RoundTrip.cctr _ _ _ _
  | stpart => exact Laws.RoundTrip.stpart _ _ _ _
  | kvapp => exact Laws.RoundTrip.kvapp _ _ _
  | kvfork => exact Laws.RoundTrip.kvfork _ _ _ _
  | kvfree => exact Laws.RoundTrip.kvfree _ _ _
  | kvhm => exact Laws.RoundTrip.kvhm _ _ _ _
  | assay => exact Laws.RoundTrip.assay _ _ _ _
  | gread => exact Laws.RoundTrip.gread _ _ _ _
  | gupd => exact Laws.RoundTrip.gupd _ _ _ _ _
  | gcinch => exact Laws.RoundTrip.gcinch _ _ _ _
  | gclose => exact Laws.RoundTrip.gclose _ _ _ _
  | gmount => exact Laws.RoundTrip.gmount _ _ _ _ _
  | gdismt => exact Laws.RoundTrip.gdismt _ _ _ _
  | gfence => exact Laws.RoundTrip.gfence _
  | mmab => exact Laws.RoundTrip.mmab _ _ _ _
  | mmah => exact Laws.RoundTrip.mmah _ _ _ _
  | mmai8 => exact Laws.RoundTrip.mmai8 _ _ _ _
  | mmai84 => exact Laws.RoundTrip.mmai84 _ _ _ _
  | mmai4 => exact Laws.RoundTrip.mmai4 _ _ _ _
  | aclr => exact Laws.RoundTrip.aclr _
  | aload => exact Laws.RoundTrip.aload _ _ _
  | astore => exact Laws.RoundTrip.astore _ _ _ _
  | arowmx => exact Laws.RoundTrip.arowmx _ _ _
  | aexpb => exact Laws.RoundTrip.aexpb _ _ _ _
  | ashift => exact Laws.RoundTrip.ashift _ _
  | arowsm => exact Laws.RoundTrip.arowsm _ _ _
  | qpush => exact Laws.RoundTrip.qpush _ _
  | qpop => exact Laws.RoundTrip.qpop _ _ _ _
  | qstat => exact Laws.RoundTrip.qstat _ _
  | qstatFeed => exact Laws.RoundTrip.qstatFeed _ _ _
  | cpy => exact Laws.RoundTrip.cpy _ _
  | cpym => exact Laws.RoundTrip.cpym _ _
  | cpyq => exact Laws.RoundTrip.cpyq _ _
  | cpyix => exact Laws.RoundTrip.cpyix _ _
  | smelt => exact Laws.RoundTrip.smelt _ _
  | cpys => exact Laws.RoundTrip.cpys _ _
  | txpose => exact Laws.RoundTrip.txpose _ _
  | tdmk => exact Laws.RoundTrip.tdmk _ _ _
  | tdfree => exact Laws.RoundTrip.tdfree _
  | fend => exact Laws.RoundTrip.fend
  | clauseHeader => exact Laws.RoundTrip.clauseHeader _ _ _ _
  | _ => trivial

end Sys2Proof.Machine

/-!
PROOF (R137 to R167, R195): the compute group. An instruction that awaits no lanes acts in the state it stands in; each row of the compute group is its
function under one issue.
-/
namespace Sys2Proof.Machine

-- One theorem after the other: in parallel they ask for more threads than the host allows.
set_option Elab.async false

/-! ## The issue of an instruction that awaits no lanes -/

theorem joined_of_all_false {b : Bound} (h : b.all = false) (s : State) : s.joined b = s := by
  simp [State.joined, h]

/-- An instruction that awaits no lanes and passes the issue stage acts in the state it stands in. -/
theorem issue_alone {s : State} {i : Instr} {q : Issue} {act : State → State} (h : s.passes i q = true) (hb : q.bound.all = false := by rfl) :
    issue i q s act = .next (act s) := by
  rw [issue_of_passes h, joined_of_all_false hb]

/-- An instruction with a path field is bound to its crew on the uniform path and to nothing on the vector path. -/
theorem pathBound_all (c : Prop) [Decidable c] : (if c then Bound.crew else Bound.none).all = false := by
  split <;> rfl

/-! ## Rows -/

/-- A compute instruction that passes the issue stage completes. -/
theorem compute_of_passes {i : Instr} {sh : Shape} {fn : LaneFn} {d a b : Field} {g : Guard} {feed : Bool} {s : State}
    (h : s.passes i (computeIssue sh d a b g 1 feed s) = true) : compute i sh fn d a b g feed s = .next (s.computed sh fn d a b g) :=
  issue_alone h (pathBound_all _)

/-- A special function that passes the issue stage starts its pending operations, each with the flags of its crew. -/
theorem computeSfu_of_passes {i : Instr} {fn : LaneFn} {d a : Field} {g : Guard} {s : State}
    (h : s.passes i (computeIssue {} d a constZero g 1 false s) = true) :
    computeSfu i fn d a g s =
      .next ((s.startSeta (computeWr {} fn d a constZero g s ++ s.sch.cur.crews.map fun c => .flags c 0)).advance 1) :=
  issue_alone h (pathBound_all _)

/-- A compare that passes the issue stage writes its predicate. -/
theorem compare1_of_passes {i : Instr} {sh : Shape} {fn : FEnv → DWord → DWord → Bool × FFlags} {path : BitVec 1} {pred : BitVec 3}
    {a b : Field} {g : Guard} {feed : Bool} {s : State} (h : s.passes i (compareIssue sh path pred a b g feed s) = true) :
    compare1 i sh fn path pred a b g feed s = .next ((s.wrote (compareWr sh fn path pred a b g s)).advance 1) :=
  issue_alone h (pathBound_all _)

theorem arithmeticRows_complete : ArithmeticCompletesClaim := by
  simp only [ArithmeticCompletesClaim, arithmeticRows, List.forall_mem_cons]
  refine ⟨?_, ?_, ?_, ?_, ?_, ?_, ?_, ?_, ?_, ?_, ?_, ?_, ?_, ?_, ?_, ?_, List.forall_mem_nil _⟩ <;> exact fun _ _ _ _ _ h => compute_of_passes h

theorem logicRows_complete : ∀ r ∈ logicRows, r.Completes := by
  simp only [logicRows, List.forall_mem_cons]
  refine ⟨?_, ?_, ?_, ?_, ?_, ?_, ?_, ?_, ?_, ?_, ?_, ?_, ?_, ?_, List.forall_mem_nil _⟩ <;> exact fun _ _ _ _ _ h => compute_of_passes h

theorem unaryRows_complete : ∀ r ∈ unaryRows, r.Completes := by
  simp only [unaryRows, List.forall_mem_cons]
  refine ⟨?_, ?_, ?_, ?_, ?_, List.forall_mem_nil _⟩ <;> exact fun _ _ _ _ h => compute_of_passes h

/-- Settles O1: row by row. -/
theorem integerCompletes : Obligations.IntegerCompletes :=
  ⟨arithmeticRows_complete, logicRows_complete, unaryRows_complete⟩

theorem floatRows_complete : FloatCompletesClaim := by
  simp only [FloatCompletesClaim, fp32Rows, packedRows, fp64Rows, List.forall_mem_append, List.forall_mem_cons]
  refine ⟨⟨⟨?_, ?_, ?_, ?_, ?_, ?_, ?_, List.forall_mem_nil _⟩, ?_, ?_, ?_, ?_, ?_, ?_, ?_, ?_, ?_, ?_, List.forall_mem_nil _⟩,
    ?_, ?_, ?_, List.forall_mem_nil _⟩ <;> exact fun _ _ _ _ _ h => compute_of_passes h

theorem conversionRows_complete : ConversionCompletesClaim := by
  intro h src mode dst isrc
  simp only [conversionRows, List.forall_mem_cons]
  refine ⟨?_, ?_, ?_, ?_, ?_, List.forall_mem_nil _⟩ <;> exact fun _ _ _ _ h => compute_of_passes h

theorem specialRows_start : SpecialFunctionStartsClaim := by
  simp only [SpecialFunctionStartsClaim, specialRows, List.forall_mem_cons]
  refine ⟨?_, ?_, ?_, ?_, ?_, ?_, ?_, ?_, List.forall_mem_nil _⟩ <;> exact fun _ _ _ _ h => computeSfu_of_passes h

/-- Settles O4: row by row. -/
theorem floatCompletes : Obligations.FloatCompletes := ⟨floatRows_complete, conversionRows_complete, specialRows_start⟩

/-! ## Carries, compares, SEL -/

/-- The sum of R146 and the carry out of it, bit 32. -/
theorem addCarry_eq : addCarry = fun x y c => (x + y + (if c then 1 else 0), decide (2 ^ 32 ≤ x.toNat + y.toNat + c.toNat)) := by
  funext x y c
  have hsum : BitVec.ofNat 32 (x.toNat + y.toNat + c.toNat) = x + y + (if c then 1 else 0) := by
    cases c <;> simp [BitVec.ofNat_add]
  exact Prod.ext hsum rfl

/-- The difference of R146 and the borrow. -/
theorem subBorrow_eq : subBorrow = fun x y c => (x - y - (if c then 1 else 0), decide (x.toNat < y.toNat + c.toNat)) := by
  funext x y c
  have hdiff : x - y - BitVec.ofNat 32 c.toNat = x - y - (if c then 1 else 0) := by cases c <;> rfl
  exact Prod.ext hdiff rfl

theorem carry_completes : CarryCompletesClaim := by
  intro d a b g s
  rw [← addCarry_eq, ← subBorrow_eq]
  exact ⟨fun h => issue_alone h (pathBound_all _), fun h => issue_alone h (pathBound_all _)⟩

theorem compare_completes : CompareCompletesClaim := by
  constructor
  · simp only [compareRows, List.forall_mem_cons]
    refine ⟨?_, ?_, ?_, ?_, List.forall_mem_nil _⟩ <;> exact fun _ _ _ _ _ _ _ h => compare1_of_passes h
  · exact fun _ _ _ _ _ _ _ => ⟨fun h => issue_alone h, fun h => issue_alone h⟩

theorem select_completes : SelectCompletesClaim := fun _ _ _ _ _ h => issue_alone h (pathBound_all _)

/-- Settles O3: the carries by the sum and the difference of words, the compares row by row, SEL by its writes. -/
theorem carryCompareSelectComplete : Obligations.CarryCompareSelectComplete := ⟨carry_completes, compare_completes, select_completes⟩

/-! ## Moves and predicates -/

/-- Settles O5: each form by its writes. -/
theorem moveCompletes : Obligations.MoveCompletes := fun _ _ _ _ _ _ =>
  ⟨fun h => issue_alone h (pathBound_all _), fun h => issue_alone h (pathBound_all _), fun h => issue_alone h (pathBound_all _)⟩

/-- Settles O16: PLOP and V2P by their writes. -/
theorem predicatesComplete : Obligations.PredicatesComplete := fun _ _ _ _ _ _ _ _ _ =>
  ⟨fun h => issue_alone h (pathBound_all _), fun h => issue_alone h (pathBound_all _)⟩

end Sys2Proof.Machine

/-!
PROOF (R169 to R177): control transfers, calls and returns. A list of targets that all pass their checks is the premise of each transfer; the checks
then run the action in the state they leave.
-/
namespace Sys2Proof.Machine

-- One theorem after the other: in parallel they ask for more threads than the host allows.
set_option Elab.async false

/-! ## Targets -/

/-- Where every target passes its checks, the action runs in the state that they leave. -/
theorem withTargets_of_reachTargets {act : State → State} {gos : List (Nat × Word)} {s t : State} (h : s.reachTargets gos = some t) :
    s.withTargets act gos = act t := by
  induction gos generalizing s with
  | nil => rw [State.withTargets, ← Option.some.inj h]
  | cons e rest ih =>
    obtain ⟨lane, pc⟩ := e
    unfold State.reachTargets at h
    unfold State.withTargets
    split at h
    · exact absurd h (by simp)
    · next halign =>
      rw [if_neg halign]
      split at h
      · next hcheck => rw [hcheck]; exact ih h
      · exact absurd h (by simp)

theorem jump_of_reachTargets {words : Nat} {gos : List (Member × Word)} {s t : State} (h : s.reachTargets (laneTargets gos) = some t) :
    s.jump words gos = t.transfer words gos :=
  withTargets_of_reachTargets (act := fun t => t.transfer words gos) h

/-! ## Transfers -/

theorem transfer_completes : TransferCompletesClaim := by
  intro n q i lit a g s t
  refine ⟨?_, ?_, ?_, ?_⟩
  · rintro hpass _ rfl hreach
    exact (issue_alone hpass).trans (congrArg _ (jump_of_reachTargets hreach))
  · rintro hpass _ rfl hreach
    exact (issue_alone hpass).trans (congrArg _ (jump_of_reachTargets hreach))
  · rintro hpass _ rfl hreach
    exact (issue_alone hpass).trans (congrArg _ (jump_of_reachTargets hreach))
  · rintro hpass _ rfl _ rfl
    refine ⟨fun hstay => ?_, fun htaken hreach => ?_⟩
    · exact (issue_alone hpass).trans (congrArg _ (if_neg (Bool.eq_false_iff.mp hstay)))
    · exact (issue_alone hpass).trans (congrArg _ ((if_pos htaken).trans (withTargets_of_reachTargets hreach)))

/-- Threads that all go to one PC go on as one bundle. -/
theorem transfer_of_all {s : State} {words : Nat} {gos : List (Member × Word)} {pc : Word} (hall : ∀ e ∈ gos, e.2 = pc) (hne : gos ≠ [])
    (hlen : s.sch.cur.feed = true ∨ gos.length = s.sch.cur.members.length) : s.transfer words gos = s.goTo pc := by
  obtain ⟨e, rest, rfl⟩ := List.exists_cons_of_ne_nil hne
  have he : e.2 = pc := hall e (List.mem_cons_self ..)
  have hcond : ((e :: rest).all (fun f => f.2 == e.2) && (s.sch.cur.feed || (e :: rest).length == s.sch.cur.members.length)) = true := by
    rw [Bool.and_eq_true, List.all_eq_true, Bool.or_eq_true, beq_iff_eq]
    exact ⟨fun f hf => beq_iff_eq.mpr ((hall f hf).trans he.symm), hlen⟩
  unfold State.transfer
  exact (if_pos hcond).trans (by rw [he]; rfl)

/-- A mixed transfer files its parts. -/
theorem transfer_of_mixed {s : State} {words : Nat} {gos : List (Member × Word)} (hfeed : s.sch.cur.feed = false) (hne : gos ≠ [])
    (hmixed : ¬ ∀ e ∈ gos, ∀ f ∈ gos, e.2 = f.2 ∧ gos.length = s.sch.cur.members.length) :
    s.transfer words gos =
      ((dedup (gos.map fun e => e.2)).foldl
        (fun t pc => t.filePart s.sch.cur pc none ((gos.filter fun e => e.2 == pc).map fun e => e.1)) s.dropCur).filePart s.sch.cur
          (s.sch.cur.step words s.now).pc (s.sch.cur.step words s.now).clause (s.sch.cur.members.filter fun m => !(gos.any fun e => e.1 == m)) := by
  obtain ⟨e, rest, rfl⟩ := List.exists_cons_of_ne_nil hne
  have hcond : ¬ ((e :: rest).all (fun f => f.2 == e.2) && (s.sch.cur.feed || (e :: rest).length == s.sch.cur.members.length)) = true := by
    rw [Bool.and_eq_true, List.all_eq_true, hfeed, Bool.false_or, beq_iff_eq]
    rintro ⟨hsame, hlen⟩
    have hpc : ∀ f ∈ e :: rest, f.2 = e.2 := fun f hf => beq_iff_eq.mp (hsame f hf)
    exact hmixed fun f hf f' hf' => ⟨(hpc f hf).trans (hpc f' hf').symm, hlen⟩
  unfold State.transfer
  exact if_neg hcond

/-- Settles O6: the transfers of instructions by their targets, and the shapes of a transfer. -/
theorem transferCompletes : Obligations.TransferCompletes :=
  ⟨transfer_completes, fun _ _ _ _ => ⟨rfl, fun hall hne hlen => transfer_of_all hall hne hlen,
    fun hfeed hne hmixed => transfer_of_mixed hfeed hne hmixed⟩⟩

/-! ## Calls -/

theorem checkLanes_nil (s : State) (w words : Nat) (n : Need) : s.checkLanes w words n [] [] = .ok s [] [] := by
  simp [State.checkLanes, State.lanesParts, anyOverlap]

theorem callWith_overflow {s : State} {gos : List (Member × Word)} {e : Member × Word}
    (h : gos.find? (fun e => (s.stackOf e.1).depth == s.depthLimit) = some e) :
    s.callWith gos = s.takeTrap { cls := .trap, code := 128, lane := e.1.lane } := by
  unfold State.callWith
  unfold State.stackOf at h
  simp only [h]

/-- Below the depth limit a call looks at its targets, then at the spills of the threads whose hardware entries are taken. -/
theorem callWith_of_reachTargets {s t : State} {gos : List (Member × Word)} (hdepth : ∀ e ∈ gos, (s.stackOf e.1).depth ≠ s.depthLimit)
    (hreach : s.reachTargets (laneTargets gos) = some t) :
    s.callWith gos =
      match t.checkLanes 4 1 { w := true } (((gos.map fun e => e.1).filter fun m => (s.stackOf m).hw.length == 4).map fun m =>
        (m, t.spillSlot m ((s.stackOf m).depth - 4))) [] with
      | .trap i => t.takeTrap i
      | .miss t => t.park .crew 0
      | .ok t lanes _ =>
        if lanes.isEmpty then (t.setRegs (t.regs.pushAll s.sch.cur.blk (gos.map fun e => e.1) t.sch.cur.returnPc)).transfer 1 gos
        else s.storeAll t 1 0 false (fun _ => spillPolicy)
          (lanes.map fun a => ⟨a, natToBytes 4 ((s.stackOf a.m).hw.getLastD 0).toNat, fullMask⟩)
          fun u => (u.setRegs (u.regs.pushAll s.sch.cur.blk (gos.map fun e => e.1) u.sch.cur.returnPc)).transfer 1 gos := by
  have hnone : gos.find? (fun e => (s.regs.callSt s.sch.cur.blk e.1.crew e.1.lane).depth == s.depthLimit) = none :=
    List.find?_eq_none.mpr fun e he => by simpa [State.stackOf] using hdepth e he
  unfold State.callWith
  simp only [hnone]
  exact withTargets_of_reachTargets hreach

/-- A call that passes the issue stage completes as its threads' stacks, targets and spills say. -/
theorem callCompletes_of_exec {i : Instr} {s : State} {gos : List (Member × Word)} (h : exec i s = .next (s.callWith gos)) :
    CallCompletes i s gos := by
  refine ⟨?_, ?_, ?_, ?_⟩
  · intro e he
    rw [Next, h, callWith_overflow he]
  · intro t hroom hreach
    have hnofull : ((gos.map fun e => e.1).filter fun m => (s.stackOf m).hw.length == 4) = [] := by
      simpa [List.filter_eq_nil_iff] using fun a b hab => (hroom (a, b) hab).2
    rw [Next, h, callWith_of_reachTargets (fun e he => (hroom e he).1) hreach, hnofull, List.map_nil, checkLanes_nil]
    rfl
  · intro t t2 lanes oob hdepth hreach hcheck hne
    rw [Next, h, callWith_of_reachTargets hdepth hreach, hcheck]
    exact congrArg _ (if_neg (by simpa using hne))
  · intro t x hdepth hreach hcheck
    rw [Next, h, callWith_of_reachTargets hdepth hreach, hcheck]

theorem calls_complete : CallsCompleteClaim := fun _ _ _ _ =>
  ⟨fun h => callCompletes_of_exec (issue_alone h), fun h => callCompletes_of_exec (issue_alone h)⟩

/-! ## Returns -/

/-- A bundle that goes on at a ready instruction does not wait to issue again. -/
theorem advance_retries (s : State) (n : Nat) : (s.advance n).retries = false := by
  simp [State.retries, Bundle.step]

theorem goTo_retries (s : State) (pc : Word) : (s.goTo pc).retries = false := by
  simp [State.retries, State.goTo]

theorem Sched.file_curOn {h h' : Sched} {core qtr : Nat} {u : Bundle} {pc : Word} {cl : Option Clause} {ms : List Member} {now : Nat} {held : Bool}
    (hf : h.file core qtr u pc cl ms now held = some h') : h'.curOn = h.curOn := by
  unfold Sched.file at hf
  dsimp only at hf
  split at hf
  · rw [← Option.some.inj hf]
  · split at hf
    · rw [← Option.some.inj hf]
    · cases hf

theorem refileHeld_curOn (s : State) (core qtr : Nat) : (s.refileHeld core qtr).sch.curOn = s.sch.curOn := by
  unfold State.refileHeld
  refine List.foldlRecOn (motive := fun t : State => t.sch.curOn = s.sch.curOn) _ _ rfl fun t ht u _ => ?_
  split
  · next hf => exact (Sched.file_curOn hf).trans ht
  · exact ht

theorem filePart_curOn (s : State) (u : Bundle) (pc : Word) (cl : Option Clause) (ms : List Member) :
    (s.filePart u pc cl ms).sch.curOn = s.sch.curOn := by
  unfold State.filePart
  dsimp only
  split
  · exact refileHeld_curOn _ _ _
  · split
    · next hf => exact (Sched.file_curOn hf).trans (refileHeld_curOn _ _ _)
    · exact refileHeld_curOn _ _ _

/-- No transfer leaves the bundle waiting to issue again. -/
theorem transfer_retries (s : State) (words : Nat) (gos : List (Member × Word)) : (s.transfer words gos).retries = false := by
  cases gos with
  | nil => exact advance_retries s words
  | cons e rest =>
    unfold State.transfer
    dsimp only
    split
    · exact goTo_retries s _
    · have hoff : ((dedup ((e :: rest).map fun e => e.2)).foldl
          (fun t pc => t.filePart s.sch.cur pc none (((e :: rest).filter fun e => e.2 == pc).map fun e => e.1)) s.dropCur).sch.curOn = false :=
        List.foldlRecOn (motive := fun t : State => t.sch.curOn = false) _ _ rfl fun t ht pc _ => (filePart_curOn ..).trans ht
      rw [State.retries, filePart_curOn, hoff]
      rfl

theorem returnFrom_empty {s : State} {ms : List Member} {m : Member} (h : ms.find? (fun m => (s.stackOf m).depth == 0) = some m) :
    s.returnFrom ms = s.takeTrap { cls := .trap, code := 129, lane := m.lane } := by
  unfold State.returnFrom
  unfold State.stackOf at h
  simp only [h]

/-- Where no stack is empty, a return has its addresses at hand or refills them. -/
theorem returnFrom_nonempty {s : State} {ms : List Member} (h : ∀ m ∈ ms, (s.stackOf m).depth ≠ 0) :
    s.returnFrom ms =
      if ((ms.filter fun m => (s.stackOf m).hw.isEmpty).all fun m => (refilled s.refillsOf m).isSome) = true then
        (if (s.refillsOf.any fun p => p.parts != 0) = true then s.park .again 0 else s.returnWith s.refillsOf ms)
      else match s.checkLanes 4 1 { r := true, l1 := s.sch.cur.crews } (s.refillLanes ms) [] with
        | .trap i => s.takeTrap i
        | .miss t => t.park .crew 0
        | .ok t lanes _ => (if t.loadBlocked lanes then s else (t.dropRefills s.sch.cur).startRefills lanes).park .again 0 := by
  have hnone : ms.find? (fun m => (s.regs.callSt s.sch.cur.blk m.crew m.lane).depth == 0) = none :=
    List.find?_eq_none.mpr fun m hm => by simpa [State.stackOf] using h m hm
  unfold State.returnFrom
  simp only [hnone]
  rfl

/-- With its refill loads unpoisoned and its targets reached, a return pops and moves its threads, and the refill loads are over. -/
theorem returnWith_of_reachTargets {s t : State} {ms : List Member} (hgood : ∀ p ∈ s.refillsOf, p.poisoned = false)
    (hreach : s.reachTargets (laneTargets (ms.map fun m => (m, s.returnPcOf s.refillsOf m))) = some t) :
    s.returnWith s.refillsOf ms = ((t.setRegs (ms.foldl
      (fun r m => r.setCall s.sch.cur.blk m.crew m.lane (r.callSt s.sch.cur.blk m.crew m.lane).pop) t.regs)).transfer 1
        (ms.map fun m => (m, s.returnPcOf s.refillsOf m))).dropRefills s.sch.cur := by
  have hnone : s.refillsOf.find? (fun p => p.poisoned) = none := List.find?_eq_none.mpr fun p hp => by simp [hgood p hp]
  have hto : s.returnTo (ms.map fun m => (m, s.returnPcOf s.refillsOf m)) = (t.setRegs (ms.foldl
      (fun r m => r.setCall s.sch.cur.blk m.crew m.lane (r.callSt s.sch.cur.blk m.crew m.lane).pop) t.regs)).transfer 1
        (ms.map fun m => (m, s.returnPcOf s.refillsOf m)) := by
    unfold State.returnTo
    exact (withTargets_of_reachTargets hreach).trans (by rw [List.foldl_map])
  unfold State.returnWith
  simp only [hnone]
  refine (if_neg ?_).trans (congrArg (fun x => State.dropRefills x s.sch.cur) hto)
  exact Bool.eq_false_iff.mp ((congrArg State.retries hto).trans (transfer_retries ..))

theorem return_completes : ReturnCompletesClaim := by
  rintro g s t hpass _ rfl
  have hexec : exec (.ret g) s = .next (s.returnFrom (s.voters g)) := issue_alone hpass
  simp only [Next, hexec, Host.Outcome.next.injEq]
  have hall : (∀ m ∈ s.voters g, (s.stackOf m).depth ≠ 0 ∧ ((s.stackOf m).hw ≠ [] ∨ (refilled s.refillsOf m).isSome = true)) →
      (((s.voters g).filter fun m => (s.stackOf m).hw.isEmpty).all fun m => (refilled s.refillsOf m).isSome) = true := by
    intro h
    rw [List.all_eq_true]
    intro m hm
    obtain ⟨hm, hhw⟩ := List.mem_filter.mp hm
    exact (h m hm).2.resolve_left fun hne => hne (by simpa using hhw)
  refine ⟨fun m hm => returnFrom_empty hm, fun hready hdone hreach => ?_, fun hdepth hmiss => ?_, fun hready hparts => ?_⟩
  · have hparts : ¬ (s.refillsOf.any fun p => p.parts != 0) = true := by
      simpa using fun p hp => (hdone p hp).1
    rw [returnFrom_nonempty fun m hm => (hready m hm).1, if_pos (hall hready), if_neg hparts]
    exact returnWith_of_reachTargets (fun p hp => (hdone p hp).2) hreach
  · have hnot : ¬ (((s.voters g).filter fun m => (s.stackOf m).hw.isEmpty).all fun m => (refilled s.refillsOf m).isSome) = true := by
      obtain ⟨m, hm, hhw, href⟩ := hmiss
      rw [List.all_eq_true]
      intro h
      have := h m (List.mem_filter.mpr ⟨hm, by simp [hhw]⟩)
      simp [href] at this
    rw [returnFrom_nonempty hdepth, if_neg hnot]
    refine ⟨fun x hx => by rw [hx], fun lanes oob hok hfree => ?_⟩
    rw [hok]
    exact congrArg (fun x => State.park x .again 0) (if_neg (by simp [hfree]))
  · have hparts : (s.refillsOf.any fun p => p.parts != 0) = true := by simpa using hparts
    rw [returnFrom_nonempty fun m hm => (hready m hm).1, if_pos (hall hready), if_pos hparts]

/-- Settles O7: calls by the stacks, targets and spills of their threads, returns by their refills and targets. -/
theorem callsAndReturnsComplete : Obligations.CallsAndReturnsComplete := ⟨calls_complete, return_completes⟩

end Sys2Proof.Machine

/-!
PROOF (R55, R180 to R186): crew operations on the gathered bundle, and CRED's tree of integer additions.
-/
namespace Sys2Proof.Machine

-- One theorem after the other: in parallel they ask for more threads than the host allows.
set_option Elab.async false

/-! ## Crew operations -/

/-- Settles O10: each crew operation acts on the bundle joined of its member mask. -/
theorem crewOperationsComplete : Obligations.CrewOperationsComplete := by
  rintro d a b g m s j rfl
  exact ⟨fun h => issue_of_passes h, fun h => issue_of_passes h, fun h => issue_of_passes h, fun h => issue_of_passes h,
    fun h => issue_of_passes h, fun h => issue_of_passes h⟩

/-! ## CRED's tree of integer additions (R55) -/

/-- One level of CRED's tree: every node at a multiple of 2^(t + 1) joins the value 2^t lanes above it. -/
def credLevel (opc type : Nat) (env : FEnv) (w : Nat) (acc : List DWord × FFlags) (t : Nat) : List DWord × FFlags :=
  let nodes := (List.range w).map fun i =>
    if i % 2 ^ (t + 1) = 0 then redNode opc type env acc.1 i (i + 2 ^ t) else (acc.1.getD i 0, 0)
  (nodes.map fun n => n.1, nodes.foldl (fun f n => f ||| n.2) acc.2)

theorem credTree_eq (opc type : Nat) (env : FEnv) (w : Nat) (xs : List DWord) :
    credTree opc type env w xs =
      ((((List.range w.log2).foldl (credLevel opc type env w) (xs, 0)).1.getD 0 0),
        ((List.range w.log2).foldl (credLevel opc type env w) (xs, 0)).2) := rfl

/-- The sum of the n values from lane i on. -/
def laneSum (xs : List DWord) (i n : Nat) : Nat := (((xs.drop i).take n).map BitVec.toNat).sum

theorem laneSum_add (xs : List DWord) (i m n : Nat) : laneSum xs i (m + n) = laneSum xs i m + laneSum xs (i + m) n := by
  simp [laneSum, List.take_add]

/-- After t levels the value at each multiple i of 2^t is the sum of the 2^t values from lane i on, and no flag is raised. -/
def CredSums (k : Nat) (xs : List DWord) (t : Nat) (acc : List DWord × FFlags) : Prop :=
  acc.2 = 0 ∧ ∀ i < 2 ^ k, i % 2 ^ t = 0 → (acc.1.getD i 0).toNat = laneSum xs i (2 ^ t) % 2 ^ 32

theorem redNode_add (env : FEnv) (xs : List DWord) (i j : Nat) :
    redNode 0 0 env xs i j = (BitVec.ofNat 64 (((xs.getD i 0).toNat + (xs.getD j 0).toNat) % 2 ^ 32), 0) := rfl

theorem foldl_or_zero {α : Type} (l : List (α × FFlags)) (h : ∀ x ∈ l, x.2 = 0) (f : FFlags) :
    l.foldl (fun f n => f ||| n.2) f = f := by
  induction l generalizing f with
  | nil => rfl
  | cons x xs ih =>
    rw [List.foldl_cons, h x List.mem_cons_self, ih fun y hy => h y (List.mem_cons_of_mem _ hy)]
    exact BitVec.or_zero

theorem credSums_zero {k : Nat} {xs : List DWord} (hx : ∀ x ∈ xs, x.toNat < 2 ^ 32) (hl : xs.length = 2 ^ k) : CredSums k xs 0 (xs, 0) := by
  refine ⟨rfl, fun i hi _ => ?_⟩
  have hi' : i < xs.length := hl ▸ hi
  have hv := hx _ (List.getElem_mem hi')
  simpa [laneSum, List.getD_eq_getElem?_getD, hi', List.take_one] using (Nat.mod_eq_of_lt hv).symm

/-- The node's partner stands inside the tile. -/
theorem node_partner_lt {k t i : Nat} (ht : t < k) (hi : i < 2 ^ k) (hm : i % 2 ^ (t + 1) = 0) : i + 2 ^ t < 2 ^ k := by
  obtain ⟨c, rfl⟩ := Nat.dvd_of_mod_eq_zero hm
  obtain ⟨d, rfl⟩ : ∃ d, k = t + 1 + d := ⟨k - (t + 1), by omega⟩
  rw [Nat.pow_add _ (t + 1)] at hi ⊢
  have hc : c < 2 ^ d := Nat.lt_of_mul_lt_mul_left hi
  calc 2 ^ (t + 1) * c + 2 ^ t < 2 ^ (t + 1) * c + 2 ^ (t + 1) := by
        have := Nat.pow_lt_pow_right (a := 2) (by omega) (Nat.lt_succ_self t); omega
    _ = 2 ^ (t + 1) * (c + 1) := (Nat.mul_succ _ _).symm
    _ ≤ 2 ^ (t + 1) * 2 ^ d := Nat.mul_le_mul_left _ hc

theorem credSums_level {k t : Nat} {xs : List DWord} {env : FEnv} {acc : List DWord × FFlags} (ht : t < k) (h : CredSums k xs t acc) :
    CredSums k xs (t + 1) (credLevel 0 0 env (2 ^ k) acc t) := by
  obtain ⟨hf, hv⟩ := h
  constructor
  · rw [credLevel, foldl_or_zero, hf]
    simp only [List.mem_map, forall_exists_index, and_imp]
    rintro _ i _ rfl
    split <;> rfl
  · intro i hi hm
    have hlow : i % 2 ^ t = 0 := by
      obtain ⟨c, rfl⟩ := Nat.dvd_of_mod_eq_zero hm
      rw [Nat.pow_succ, Nat.mul_assoc]
      exact Nat.mul_mod_right _ _
    have hj := hv _ (node_partner_lt ht hi hm) (by rw [Nat.add_mod_right, hlow])
    have hnode : (credLevel 0 0 env (2 ^ k) acc t).1.getD i 0 =
        BitVec.ofNat 64 (((acc.1.getD i 0).toNat + (acc.1.getD (i + 2 ^ t) 0).toNat) % 2 ^ 32) := by
      simp [credLevel, List.getD_eq_getElem?_getD, hi, hm, redNode_add]
    rw [hnode, hv i hi hlow, hj, show 2 ^ (t + 1) = 2 ^ t + 2 ^ t by rw [Nat.pow_succ, Nat.mul_two], laneSum_add, BitVec.toNat_ofNat]
    omega

theorem credSums_levels {k : Nat} {xs : List DWord} (env : FEnv) (hx : ∀ x ∈ xs, x.toNat < 2 ^ 32) (hl : xs.length = 2 ^ k) (t : Nat)
    (ht : t ≤ k) : CredSums k xs t ((List.range t).foldl (credLevel 0 0 env (2 ^ k)) (xs, 0)) := by
  induction t with
  | zero => exact credSums_zero hx hl
  | succ t ih =>
    rw [List.range_succ, List.foldl_append]
    exact credSums_level ht (ih (by omega))

/-- Settles O11: by the sums that each level of the tree holds, at the last level over the whole tile. -/
theorem reductionIsSum : Obligations.ReductionIsSum := by
  intro k env xs _ hl hx
  obtain ⟨hf, hv⟩ := credSums_levels env hx hl k (Nat.le_refl k)
  have hall : laneSum xs 0 (2 ^ k) = (xs.map fun x => x.toNat).sum := by simp [laneSum, ← hl]
  have hroot := hv 0 (Nat.two_pow_pos k) (Nat.zero_mod _)
  rw [credTree_eq, Nat.log2_two_pow, hf, Prod.mk.injEq]
  refine ⟨BitVec.eq_of_toNat_eq ?_, rfl⟩
  rw [hroot, hall, BitVec.toNat_ofNat]
  omega

end Sys2Proof.Machine

/-!
PROOF (R187 to R206): barriers, waits, fences, special registers and the system instructions, as far as they are an issue and its act.
-/
namespace Sys2Proof.Machine

-- One theorem after the other: in parallel they ask for more threads than the host allows.
set_option Elab.async false

/-! ## Issue of shared actions and commit points -/

/-- Outside a guarded pair an instruction on shared state that awaits no lanes acts in the state it stands in. -/
theorem issueShared_alone {s : State} {i : Instr} {q : Issue} {act : State → State} (h : s.passes i q = true)
    (hp : s.pairOf s.sch.cur.blk = none) (hb : q.bound.all = false := by rfl) : issueShared i q s act = .next (act s) := by
  rw [issueShared, issue_alone h hb, share_alone hp]

/-- Outside a guarded pair a commit point that awaits no lanes acts in the state it stands in. -/
theorem issueCommit_alone {s : State} {i : Instr} {q : Issue} {rec : State → List (Nat × List Byte)} {act : State → State}
    (h : s.passes i q = true) (hp : s.pairOf s.sch.cur.blk = none) (hb : q.bound.all = false := by rfl) :
    issueCommit i q s rec act = .next (act s) := by
  rw [issueCommit, issue_alone h hb, atCommit_alone hp]

/-! ## Barriers and waits -/

/-- Settles O12: BAR and LBAR park their bundle and test the barrier. -/
theorem barriersArrive : Obligations.BarriersArrive := fun _ _ _ => ⟨fun h => issue_alone h, fun h => issue_alone h⟩

/-- WAITCMP outside a guarded pair, once its lanes are checked (R191). -/
theorem execWaitcmp_of_ok {u : BitVec 1} {cond : BitVec 3} {a b : Field} {g : Guard} {m : MemMod} {s t : State} {lanes : List LaneAcc}
    {oob : List Member}
    (h : s.passes (.waitcmp u cond a b g m)
      { words := 2, guard := g, keys := s.aKeys a 1 ++ s.bKeys false b (regsOf (m.wid == 3)) ++ s.polKeys m.pol.toNat } = true)
    (hp : s.pairOf s.sch.cur.blk = none) (hpol : s.polIllop m false true = false)
    (hc : s.checkRecord (s.record s.sch.cur.blk m.recNo.toNat) (memOff m) (memWidth m) 2 { r := true } (s.elemLanes a g) = .ok t lanes oob) :
    execWaitcmp u cond a b g m s =   .next (if t.loadBlocked lanes then s.park .again 0 else t.waitOn u cond b m lanes) := by
  rw [execWaitcmp, issueCommit_alone h hp]
  simp only [hpol, hc, Bool.false_eq_true, if_false]

/-- Settles O14: by the lanes that pass the check. -/
theorem waitcmpArms : Obligations.WaitcmpArms := by
  intro u cond a b g m s t lanes oob h hp hpol hc
  constructor
  · rintro rfl
    exact execWaitcmp_of_ok h hp hpol hc
  · intro hl hblocked
    refine (execWaitcmp_of_ok h hp hpol hc).trans ?_
    rw [if_neg (by simp [hblocked]), State.waitOn, if_neg (by simpa using hl)]

/-! ## Special registers -/

/-- RDSR but of CFPS with flags still to land (R197, R42). -/
theorem readSpecialCompletes : ReadSpecialCompletesClaim := by
  intro d i g s h hflags
  refine (issue_alone h (pathBound_all _)).trans ?_
  rw [if_neg]
  simp only [Bool.and_eq_true, beq_iff_eq, List.any_eq_true, not_and, not_exists]
  exact fun hi c hc => by simp [hflags hi c hc]

@[simp] theorem crewSt_setCrew_self (r : Regs) (b c : Nat) (x : CrewSt) : (r.setCrew b c x).crewSt b c = x := by
  simp [Regs.crewSt_setCrew]

/-- WRSR's effect on the register that it names (R198). -/
theorem wrsr_sets (s : State) (v : Word) :
    ((s.wrsr 0x0D v).regs.crewSt s.sch.cur.blk s.sch.cur.crew).abnd = v.toNat ∧
    ((s.wrsr 0x0F v).regs.crewSt s.sch.cur.blk s.sch.cur.crew).cfpm = v ∧
    ((s.wrsr 0x10 v).regs.crewSt s.sch.cur.blk s.sch.cur.crew).cfps = v := by
  simp [State.wrsr]

theorem writeSpecialCompletes : WriteSpecialCompletesClaim := by
  rintro a i g s v rfl h
  refine ⟨fun hg => ?_, fun hg hbad => ?_, fun hg hok hpend => ⟨?_, ?_, ?_, ?_⟩⟩
  · exact (issue_alone h).trans (by simp [hg])
  · exact (issue_alone h).trans (by simp [hg, hbad])
  · exact (issue_alone h).trans (by simp only [hg, hok, hpend, Bool.not_true, Bool.false_eq_true, if_false])
  · rintro rfl; exact (wrsr_sets s _).1
  · rintro rfl; exact (wrsr_sets s _).2.1
  · rintro rfl; exact (wrsr_sets s _).2.2

theorem winb_of_valid {s : State} {v : Nat} (h8 : v % 8 = 0) (hv : v + 64 ≤ (s.regs.crewSt s.sch.cur.blk s.sch.cur.crew).abnd) :
    s.winb v = (s.setRegs (s.regs.setCrew s.sch.cur.blk s.sch.cur.crew { s.regs.crewSt s.sch.cur.blk s.sch.cur.crew with wb := v })).advance 1 := by
  simp [State.winb, h8, Nat.not_lt.mpr hv]

theorem winb_of_invalid {s : State} {v : Nat} (h : v % 8 ≠ 0 ∨ (s.regs.crewSt s.sch.cur.blk s.sch.cur.crew).abnd < v + 64) :
    s.winb v = s.illop 1 false := by
  simp only [State.winb, Bool.or_eq_true, decide_eq_true_eq]
  exact if_pos h

theorem crewRegistersComplete : CrewRegistersCompleteClaim := by
  rintro i a w g s c rfl
  refine ⟨fun h => ⟨fun hg => ?_, fun hg hv => ?_, fun hg hv => ?_⟩, ?_, fun h => ⟨fun hg => ?_, fun hg => ?_⟩⟩
  · exact (issue_alone h).trans (by simp [hg])
  · exact (issue_alone h).trans (by simp [hg, winb_of_valid (Nat.mul_mod_right 8 _) hv])
  · exact (issue_alone h).trans (by simp [hg, winb_of_invalid (.inr hv)])
  · rintro h v rfl
    refine ⟨fun hg => ?_, fun hg h8 hv => ?_, fun hg hv => ?_⟩
    · exact (issue_alone h).trans (by simp [hg])
    · exact (issue_alone h).trans (by simp [hg, winb_of_valid h8 hv])
    · exact (issue_alone h).trans (by simp [hg, winb_of_invalid hv])
  · exact (issue_alone h).trans (by simp [hg])
  · exact (issue_alone h).trans (by simp [hg])

/-- Settles O18: RDSR, WRSR, WINB and CPART in turn. -/
theorem specialRegistersComplete : Obligations.SpecialRegistersComplete :=
  ⟨readSpecialCompletes, writeSpecialCompletes, crewRegistersComplete⟩

/-! ## The work queue -/

/-- A crew of block 1 at an instruction of a clause, one cycle after reset. -/
def crewAtCycleOne : State := { State.reset.withFetchWord 32 0 with clk := { (State.reset.withFetchWord 32 0).clk with gcyc := 1 } }

/-- The operation that WQPOP sends carries the cycle in which it set out. -/
theorem wqSend_wq (s : State) (push : Bool) (v : Word) (kd qd : Nat) :
    (s.wqSend push v kd qd).disp.wq = s.disp.wq ++
      [{ pend := s.pipe.nextId, blk := s.sch.cur.blk, crew := s.sch.cur.crew, push := push, value := v, kd := kd, qd := qd, at' := s.now }] := rfl

/-- Refutes O19: the statement's operation sets out in cycle 0, the model's in the current cycle, which is cycle 1 in the crew's state here. -/
theorem not_systemComplete : ¬ Obligations.SystemComplete := by
  rintro ⟨-, -, hwq⟩
  have hpair : crewAtCycleOne.pairOf crewAtCycleOne.sch.cur.blk = none := by decide +kernel
  have hpass : crewAtCycleOne.passes (.wqpop 5 3 0) { bound := .crew, guard := 0, keys :=
      [.k crewAtCycleOne.sch.cur.blk crewAtCycleOne.sch.cur.crew 5, .q crewAtCycleOne.sch.cur.blk crewAtCycleOne.sch.cur.crew 3] } = true := by
    decide +kernel
  have hguard : crewAtCycleOne.uniformOn 0 = true := by decide +kernel
  have hnow : crewAtCycleOne.now = 1 := by decide +kernel
  obtain ⟨t, hnext, -, -, -, hsent⟩ := ((hwq 5 0 3 0 crewAtCycleOne hpair).1 hpass).2 hguard
  have hexec : exec (.wqpop 5 3 0) crewAtCycleOne = .next (crewAtCycleOne.wqSend false 0 5 3) :=
    (issueShared_alone hpass hpair).trans (congrArg _ (if_pos hguard))
  obtain rfl : crewAtCycleOne.wqSend false 0 5 3 = t := Host.Outcome.next.inj (hexec.symm.trans hnext)
  rw [wqSend_wq, hnow] at hsent
  simpa using List.append_cancel_left hsent

end Sys2Proof.Machine

/-!
PROOF (R107 to R112, R169, R371): the machine: sample words, the state after reset, and the shape of a step.
-/
namespace Sys2Proof.Machine

-- One theorem after the other: in parallel they ask for more threads than the host allows.
set_option Elab.async false

/-- Settles O51: each word is decoded. -/
theorem sampleWordsDecode : Obligations.SampleWordsDecode := by
  refine ⟨?_, ?_, ?_, ?_, ?_, ?_, ?_, ?_, ?_⟩ <;> decide +kernel

/-! ## Reset -/

/-- Settles O55. -/
theorem resetInv : Obligations.ResetInv := ⟨reset_mem_wf, by decide +kernel⟩

/-- Settles O56: each value is that of the empty table's default. -/
theorem resetState : Obligations.ResetState := by
  refine ⟨rfl, rfl, rfl, by decide +kernel, rfl, rfl, rfl, rfl, rfl, fun n m => ?_⟩
  have hlines (sl ten : Nat) : State.reset.slcocc sl ten = BitVec.ofNat 32 (ten * 2 ^ 28) := by
    simp [State.slcocc, State.reset]
  have hquota : CtxPage.init.quota = 0 := by decide +kernel
  have hperiod : CtxPage.init.period = 1000 * 1650000 := by decide +kernel
  exact ⟨rfl, rfl, rfl, rfl, rfl, rfl, rfl, rfl, rfl, rfl, rfl, hquota, hperiod, rfl, hlines n m⟩

/-! ## The step -/

/-- A word that is fetched without a fault. -/
theorem fetchWord_of_translated {s t y : State} {va : Nat} {x : Xlate} (pc : Word)
    (hva : va = ((s.launchOf s.sch.cur.blk).codebase + pc.toNat) % 2 ^ 64)
    (htr : s.translate s.curCore (s.launchOf s.sch.cur.blk).ctx va = (.ok x, y)) (hx : x.x = true)
    (ht : t = y.readLine (x.home va) (lineOf (x.phys va)) (s.launchOf s.sch.cur.blk).id) (hbad : t.homeBad (x.home va) (x.phys va) 4 = false) :
    s.fetchWord pc = .ok (BitVec.ofNat 32 (bytesToNat (t.homeBytes (x.home va) (x.phys va) 4))) t := by
  subst hva ht
  rw [State.fetchWord]
  simp only [htr, hx, hbad, Bool.not_true, Bool.false_eq_true, if_false]

/-- What the fetch gives for a word w, by the bundle's place in its clause (R108, R109, R111). -/
theorem fetchCur_of_word {s t : State} {w : Word} (h : s.fetchWord s.sch.cur.pc = .ok w t) :
    (∀ i, s.sch.cur.clause = none → decodeHeader w = .ok i → fetchCur s = .instr i t) ∧
    (∀ e, s.sch.cur.clause = none → decodeHeader w = .error e → fetchCur s = .wait t.noHeader) ∧
    (∀ c i, s.sch.cur.clause = some c → (hasExt (fop w).toNat && decide (2 ≤ c.left)) = false → decodeBody s.sch.cur.feed w none = .ok i →
      fetchCur s = .instr i t) ∧
    (∀ c i y u, s.sch.cur.clause = some c → (hasExt (fop w).toNat && decide (2 ≤ c.left)) = true → t.fetchWord (s.sch.cur.pc + 4) = .ok y u →
      decodeBody s.sch.cur.feed w (some y) = .ok i → fetchCur s = .instr i u) ∧
    (∀ c e, s.sch.cur.clause = some c → (hasExt (fop w).toNat && decide (2 ≤ c.left)) = false → decodeBody s.sch.cur.feed w none = .error e →
      fetchCur s = .wait (t.illop 1 false)) := by
  refine ⟨fun i hc hd => ?_, fun e hc hd => ?_, fun c i hc hext hd => ?_, fun c i y u hc hext hy hd => ?_, fun c e hc hext hd => ?_⟩
  · simp only [fetchCur, h, hc, hd]
  · simp only [fetchCur, h, hc, hd]
  · simp only [fetchCur, h, hc, hext, hd, decoded, Bool.false_eq_true, if_false]
  · simp only [fetchCur, h, hc, hext, hy, hd, decoded, if_true]
  · simp only [fetchCur, h, hc, hext, hd, decoded, Bool.false_eq_true, if_false]

/-- Settles O53: the step's branches in turn, and what the fetch gives. -/
theorem stepRunsDecoded : Obligations.StepRunsDecoded := by
  intro s
  refine ⟨fun i rest t ha he => ?_, fun ha hon hgated => ?_, fun ha hon t he => ?_, ?_, ?_⟩
  · simp only [step, ha, he, tick]
  · simp only [step, ha, hon, hgated, if_true]
  · simp only [step, ha, hon, he, tick, Bool.false_eq_true, if_false]
  · rintro i t u v ha hon hgated hfetch he rfl
    simp only [step, ha, hon, hgated, hfetch, he, release, tick, Bool.false_eq_true, if_true, if_false]
  · rintro va x y t w h pa hva htr hx rfl rfl ht hbad rfl
    exact fetchCur_of_word (fetchWord_of_translated _ hva htr hx ht hbad)

end Sys2Proof.Machine

/-!
PROOF (frames): folds. A field that each step of a fold leaves as it is, the fold leaves as it is.
-/
namespace Sys2Proof.Machine

theorem foldl_frame {α β σ : Type} {F : σ → β} {f : σ → α → σ} (h : ∀ s a, F (f s a) = F s) (l : List α) (s : σ) : F (l.foldl f s) = F s := by
  induction l generalizing s with
  | nil => rfl
  | cons a t ih => rw [List.foldl_cons, ih, h]

theorem foldl_fst {α β σ τ : Type} {F : σ → β} {f : σ × τ → α → σ × τ} (h : ∀ x a, F (f x a).1 = F x.1) (l : List α) (x : σ × τ) :
    F (l.foldl f x).1 = F x.1 := foldl_frame (F := fun y : σ × τ => F y.1) h l x

theorem foldl_featacc {α : Type} {f : State → α → State} (h : ∀ s a, (f s a).host.featacc = s.host.featacc) (l : List α) (s : State) :
    (l.foldl f s).host.featacc = s.host.featacc := foldl_frame (F := fun t : State => t.host.featacc) h l s

end Sys2Proof.Machine

/-!
PROOF (frames): what the store's operations leave unchanged.
-/
namespace Sys2Proof.Machine
set_option Elab.async false

@[simp] theorem State.setCtx_featacc (s : State) (c : Nat) (x : CtxPage) : (s.setCtx c x).host.featacc = s.host.featacc := rfl

@[simp] theorem State.lapseHolds_frame (s : State) (b : Nat) : (s.lapseHolds b).clk = s.clk ∧ (s.lapseHolds b).sch = s.sch ∧
    (s.lapseHolds b).regs = s.regs ∧ (s.lapseHolds b).pipe = s.pipe ∧ (s.lapseHolds b).mem = s.mem ∧ (s.lapseHolds b).sp = s.sp ∧
    (s.lapseHolds b).sl = s.sl ∧ (s.lapseHolds b).kv = s.kv ∧ (s.lapseHolds b).disp = s.disp ∧ (s.lapseHolds b).host = s.host ∧
    (s.lapseHolds b).pow = s.pow ∧ (s.lapseHolds b).grd = s.grd := by
  unfold State.lapseHolds
  and_intros <;> refine foldl_frame (fun s a => ?_) _ _ <;> (repeat' split) <;> simp

@[simp] theorem State.lapseCrew_frame (s : State) (b c : Nat) : (s.lapseCrew b c).clk = s.clk ∧ (s.lapseCrew b c).sch = s.sch ∧
    (s.lapseCrew b c).regs = s.regs ∧ (s.lapseCrew b c).pipe = s.pipe ∧ (s.lapseCrew b c).mem = s.mem ∧ (s.lapseCrew b c).sp = s.sp ∧
    (s.lapseCrew b c).sl = s.sl ∧ (s.lapseCrew b c).kv = s.kv ∧ (s.lapseCrew b c).disp = s.disp ∧ (s.lapseCrew b c).host = s.host ∧
    (s.lapseCrew b c).pow = s.pow ∧ (s.lapseCrew b c).grd = s.grd := by
  unfold State.lapseCrew
  and_intros <;> refine foldl_frame (fun s a => ?_) _ _ <;> (repeat' split) <;> simp

@[simp] theorem State.leaveGirth_frame (s : State) (b : Nat) : (s.leaveGirth b).clk = s.clk ∧ (s.leaveGirth b).sch = s.sch ∧
    (s.leaveGirth b).regs = s.regs ∧ (s.leaveGirth b).pipe = s.pipe ∧ (s.leaveGirth b).mem = s.mem ∧ (s.leaveGirth b).sp = s.sp ∧
    (s.leaveGirth b).sl = s.sl ∧ (s.leaveGirth b).kv = s.kv ∧ (s.leaveGirth b).disp = s.disp ∧ (s.leaveGirth b).host = s.host ∧
    (s.leaveGirth b).pow = s.pow ∧ (s.leaveGirth b).grd = s.grd := by simp [State.leaveGirth]

@[simp] theorem State.backGirth_frame (s : State) (core : Nat) : (s.backGirth core).clk = s.clk ∧ (s.backGirth core).sch = s.sch ∧
    (s.backGirth core).regs = s.regs ∧ (s.backGirth core).pipe = s.pipe ∧ (s.backGirth core).mem = s.mem ∧ (s.backGirth core).sp = s.sp ∧
    (s.backGirth core).sl = s.sl ∧ (s.backGirth core).kv = s.kv ∧ (s.backGirth core).disp = s.disp ∧ (s.backGirth core).host = s.host ∧
    (s.backGirth core).pow = s.pow ∧ (s.backGirth core).grd = s.grd := ⟨rfl, rfl, rfl, rfl, rfl, rfl, rfl, rfl, rfl, rfl, rfl, rfl⟩

@[simp] theorem State.faultGirth_frame (s : State) (f : FaultRec) : (s.faultGirth f).clk = s.clk ∧ (s.faultGirth f).sch = s.sch ∧
    (s.faultGirth f).regs = s.regs ∧ (s.faultGirth f).pipe = s.pipe ∧ (s.faultGirth f).mem = s.mem ∧ (s.faultGirth f).sp = s.sp ∧
    (s.faultGirth f).sl = s.sl ∧ (s.faultGirth f).kv = s.kv ∧ (s.faultGirth f).disp = s.disp ∧ (s.faultGirth f).host = s.host ∧
    (s.faultGirth f).pow = s.pow ∧ (s.faultGirth f).grd = s.grd := by
  unfold State.faultGirth
  dsimp only
  (repeat' split) <;> simp

@[simp] theorem State.stopBlock_frame (s : State) (b why : Nat) : (s.stopBlock b why).clk = s.clk ∧ (s.stopBlock b why).regs = s.regs ∧
    (s.stopBlock b why).pipe = s.pipe ∧ (s.stopBlock b why).mem = s.mem ∧ (s.stopBlock b why).sp = s.sp ∧ (s.stopBlock b why).sl = s.sl ∧
    (s.stopBlock b why).kv = s.kv ∧ (s.stopBlock b why).host = s.host ∧ (s.stopBlock b why).pow = s.pow ∧ (s.stopBlock b why).grd = s.grd := by
  unfold State.stopBlock
  dsimp only
  (repeat' split) <;> simp

@[simp] theorem State.stopLaunch_frame (s : State) (u status : Nat) : (s.stopLaunch u status).clk = s.clk ∧ (s.stopLaunch u status).regs = s.regs ∧
    (s.stopLaunch u status).pipe = s.pipe ∧ (s.stopLaunch u status).mem = s.mem ∧ (s.stopLaunch u status).sp = s.sp ∧
    (s.stopLaunch u status).sl = s.sl ∧ (s.stopLaunch u status).kv = s.kv ∧ (s.stopLaunch u status).gi = s.gi ∧
    (s.stopLaunch u status).host = s.host ∧ (s.stopLaunch u status).pow = s.pow ∧
    (s.stopLaunch u status).grd = s.grd := ⟨rfl, rfl, rfl, rfl, rfl, rfl, rfl, rfl, rfl, rfl, rfl⟩

@[simp] theorem State.killBlock_frame (s : State) (b : Nat) : (s.killBlock b).clk = s.clk ∧ (s.killBlock b).regs = s.regs ∧
    (s.killBlock b).pipe = s.pipe ∧ (s.killBlock b).mem = s.mem ∧ (s.killBlock b).sp = s.sp ∧ (s.killBlock b).sl = s.sl ∧
    (s.killBlock b).kv = s.kv ∧ (s.killBlock b).gi = s.gi ∧ (s.killBlock b).host = s.host ∧ (s.killBlock b).pow = s.pow ∧
    (s.killBlock b).grd = s.grd := ⟨rfl, rfl, rfl, rfl, rfl, rfl, rfl, rfl, rfl, rfl, rfl⟩

@[simp] theorem State.pairBad_frame (s : State) (b : Nat) (own : Bool) : (s.pairBad b own).clk = s.clk ∧ (s.pairBad b own).regs = s.regs ∧
    (s.pairBad b own).pipe = s.pipe ∧ (s.pairBad b own).mem = s.mem ∧ (s.pairBad b own).sp = s.sp ∧ (s.pairBad b own).sl = s.sl ∧
    (s.pairBad b own).kv = s.kv ∧ (s.pairBad b own).gi = s.gi ∧ (s.pairBad b own).disp = s.disp ∧ (s.pairBad b own).host = s.host ∧
    (s.pairBad b own).pow = s.pow := by
  unfold State.pairBad
  (repeat' split) <;> simp

@[simp] theorem State.dropVerdicts_frame (s : State) (ctx : Nat) : (s.dropVerdicts ctx).clk = s.clk ∧ (s.dropVerdicts ctx).sch = s.sch ∧
    (s.dropVerdicts ctx).regs = s.regs ∧ (s.dropVerdicts ctx).mem = s.mem ∧ (s.dropVerdicts ctx).sp = s.sp ∧ (s.dropVerdicts ctx).sl = s.sl ∧
    (s.dropVerdicts ctx).kv = s.kv ∧ (s.dropVerdicts ctx).gi = s.gi ∧ (s.dropVerdicts ctx).disp = s.disp ∧ (s.dropVerdicts ctx).host = s.host ∧
    (s.dropVerdicts ctx).pow = s.pow ∧ (s.dropVerdicts ctx).grd = s.grd := ⟨rfl, rfl, rfl, rfl, rfl, rfl, rfl, rfl, rfl, rfl, rfl, rfl⟩

@[simp] theorem State.takeTrap_frame (s : State) (i : TrapInfo) : (s.takeTrap i).clk = s.clk ∧ (s.takeTrap i).regs = s.regs ∧
    (s.takeTrap i).mem = s.mem ∧ (s.takeTrap i).sp = s.sp ∧ (s.takeTrap i).sl = s.sl ∧ (s.takeTrap i).kv = s.kv ∧ (s.takeTrap i).host = s.host ∧
    (s.takeTrap i).pow = s.pow := by
  unfold State.takeTrap
  dsimp only
  (repeat' split) <;> simp

@[simp] theorem State.illop_frame (s : State) (words : Nat) (bound : Bool) : (s.illop words bound).clk = s.clk ∧
    (s.illop words bound).regs = s.regs ∧ (s.illop words bound).mem = s.mem ∧ (s.illop words bound).sp = s.sp ∧ (s.illop words bound).sl = s.sl ∧
    (s.illop words bound).kv = s.kv ∧ (s.illop words bound).host = s.host ∧ (s.illop words bound).pow = s.pow := by simp [State.illop]

@[simp] theorem State.spendGo_frame (s : State) (b c : Nat) : (s.spendGo b c).clk = s.clk ∧ (s.spendGo b c).sch = s.sch ∧
    (s.spendGo b c).regs = s.regs ∧ (s.spendGo b c).pipe = s.pipe ∧ (s.spendGo b c).mem = s.mem ∧ (s.spendGo b c).sp = s.sp ∧
    (s.spendGo b c).sl = s.sl ∧ (s.spendGo b c).kv = s.kv ∧ (s.spendGo b c).gi = s.gi ∧ (s.spendGo b c).disp = s.disp ∧
    (s.spendGo b c).host = s.host ∧ (s.spendGo b c).pow = s.pow := by
  unfold State.spendGo
  (repeat' split) <;> simp

@[simp] theorem State.stepOver_featacc (s : State) (b c : Nat) : (s.stepOver b c).host.featacc = s.host.featacc := rfl

@[simp] theorem State.refileHeld_frame (s : State) (core qtr : Nat) : (s.refileHeld core qtr).clk = s.clk ∧ (s.refileHeld core qtr).regs = s.regs ∧
    (s.refileHeld core qtr).pipe = s.pipe ∧ (s.refileHeld core qtr).mem = s.mem ∧ (s.refileHeld core qtr).sp = s.sp ∧
    (s.refileHeld core qtr).sl = s.sl ∧ (s.refileHeld core qtr).kv = s.kv ∧ (s.refileHeld core qtr).gi = s.gi ∧
    (s.refileHeld core qtr).disp = s.disp ∧ (s.refileHeld core qtr).host = s.host ∧ (s.refileHeld core qtr).pow = s.pow ∧
    (s.refileHeld core qtr).grd = s.grd := by
  unfold State.refileHeld
  and_intros <;> refine foldl_frame (fun s a => ?_) _ _ <;> (repeat' split) <;> simp

@[simp] theorem State.filePart_frame (s : State) (u : Bundle) (pc : Word) (cl : Option Clause) (ms : List Member) : (s.filePart u pc cl ms).clk =
    s.clk ∧ (s.filePart u pc cl ms).regs = s.regs ∧ (s.filePart u pc cl ms).pipe = s.pipe ∧ (s.filePart u pc cl ms).mem = s.mem ∧
    (s.filePart u pc cl ms).sp = s.sp ∧ (s.filePart u pc cl ms).sl = s.sl ∧ (s.filePart u pc cl ms).kv = s.kv ∧ (s.filePart u pc cl ms).gi = s.gi ∧
    (s.filePart u pc cl ms).disp = s.disp ∧ (s.filePart u pc cl ms).host = s.host ∧ (s.filePart u pc cl ms).pow = s.pow ∧
    (s.filePart u pc cl ms).grd = s.grd := by
  unfold State.filePart
  dsimp only
  (repeat' split) <;> simp

@[simp] theorem State.splitByCrew_frame (s : State) : s.splitByCrew.clk = s.clk ∧ s.splitByCrew.regs = s.regs ∧ s.splitByCrew.pipe = s.pipe ∧
    s.splitByCrew.mem = s.mem ∧ s.splitByCrew.sp = s.sp ∧ s.splitByCrew.sl = s.sl ∧ s.splitByCrew.kv = s.kv ∧ s.splitByCrew.gi = s.gi ∧
    s.splitByCrew.disp = s.disp ∧ s.splitByCrew.host = s.host ∧ s.splitByCrew.pow = s.pow ∧
    s.splitByCrew.grd = s.grd := ⟨rfl, rfl, rfl, rfl, rfl, rfl, rfl, rfl, rfl, rfl, rfl, rfl⟩

@[simp] theorem State.startSeta_frame (s : State) (ws : List RegWr) : (s.startSeta ws).clk = s.clk ∧ (s.startSeta ws).sch = s.sch ∧
    (s.startSeta ws).regs = s.regs ∧ (s.startSeta ws).mem = s.mem ∧ (s.startSeta ws).sp = s.sp ∧ (s.startSeta ws).sl = s.sl ∧
    (s.startSeta ws).kv = s.kv ∧ (s.startSeta ws).gi = s.gi ∧ (s.startSeta ws).disp = s.disp ∧ (s.startSeta ws).host = s.host ∧
    (s.startSeta ws).pow = s.pow ∧ (s.startSeta ws).grd = s.grd := by
  unfold State.startSeta
  and_intros <;> refine foldl_frame (fun s a => ?_) _ _ <;> simp

@[simp] theorem State.startWalk_frame (s : State) (die core ctx va : Nat) : (s.startWalk die core ctx va).clk = s.clk ∧
    (s.startWalk die core ctx va).sch = s.sch ∧ (s.startWalk die core ctx va).regs = s.regs ∧ (s.startWalk die core ctx va).mem = s.mem ∧
    (s.startWalk die core ctx va).sp = s.sp ∧ (s.startWalk die core ctx va).sl = s.sl ∧ (s.startWalk die core ctx va).kv = s.kv ∧
    (s.startWalk die core ctx va).gi = s.gi ∧ (s.startWalk die core ctx va).disp = s.disp ∧ (s.startWalk die core ctx va).host = s.host ∧
    (s.startWalk die core ctx va).pow = s.pow ∧ (s.startWalk die core ctx va).grd = s.grd := by
  unfold State.startWalk
  dsimp only
  (repeat' split) <;> simp

@[simp] theorem State.tlbInstall_frame (s : State) (cores : List Nat) (x : Xlate) : (s.tlbInstall cores x).clk = s.clk ∧
    (s.tlbInstall cores x).sch = s.sch ∧ (s.tlbInstall cores x).regs = s.regs ∧ (s.tlbInstall cores x).mem = s.mem ∧
    (s.tlbInstall cores x).sp = s.sp ∧ (s.tlbInstall cores x).sl = s.sl ∧ (s.tlbInstall cores x).kv = s.kv ∧ (s.tlbInstall cores x).gi = s.gi ∧
    (s.tlbInstall cores x).disp = s.disp ∧ (s.tlbInstall cores x).host = s.host ∧ (s.tlbInstall cores x).pow = s.pow ∧
    (s.tlbInstall cores x).grd = s.grd := ⟨rfl, rfl, rfl, rfl, rfl, rfl, rfl, rfl, rfl, rfl, rfl, rfl⟩

@[simp] theorem State.mscHit_frame (s : State) (slice line : Nat) (write : Bool) : (s.mscHit slice line write).clk = s.clk ∧
    (s.mscHit slice line write).sch = s.sch ∧ (s.mscHit slice line write).regs = s.regs ∧ (s.mscHit slice line write).pipe = s.pipe ∧
    (s.mscHit slice line write).mem = s.mem ∧ (s.mscHit slice line write).sp = s.sp ∧ (s.mscHit slice line write).kv = s.kv ∧
    (s.mscHit slice line write).gi = s.gi ∧ (s.mscHit slice line write).disp = s.disp ∧ (s.mscHit slice line write).host = s.host ∧
    (s.mscHit slice line write).pow = s.pow ∧
    (s.mscHit slice line write).grd = s.grd := ⟨rfl, rfl, rfl, rfl, rfl, rfl, rfl, rfl, rfl, rfl, rfl, rfl⟩

@[simp] theorem State.poisonWords_frame (s : State) (ws : List Nat) : (s.poisonWords ws).clk = s.clk ∧ (s.poisonWords ws).sch = s.sch ∧
    (s.poisonWords ws).regs = s.regs ∧ (s.poisonWords ws).pipe = s.pipe ∧ (s.poisonWords ws).sp = s.sp ∧ (s.poisonWords ws).sl = s.sl ∧
    (s.poisonWords ws).kv = s.kv ∧ (s.poisonWords ws).gi = s.gi ∧ (s.poisonWords ws).disp = s.disp ∧ (s.poisonWords ws).host = s.host ∧
    (s.poisonWords ws).pow = s.pow ∧ (s.poisonWords ws).grd = s.grd := ⟨rfl, rfl, rfl, rfl, rfl, rfl, rfl, rfl, rfl, rfl, rfl, rfl⟩

@[simp] theorem State.poisonHome_frame (s : State) (slice line : Nat) (bad : BitVec 8) : (s.poisonHome slice line bad).clk = s.clk ∧
    (s.poisonHome slice line bad).sch = s.sch ∧ (s.poisonHome slice line bad).regs = s.regs ∧ (s.poisonHome slice line bad).pipe = s.pipe ∧
    (s.poisonHome slice line bad).sp = s.sp ∧ (s.poisonHome slice line bad).kv = s.kv ∧ (s.poisonHome slice line bad).gi = s.gi ∧
    (s.poisonHome slice line bad).disp = s.disp ∧ (s.poisonHome slice line bad).host = s.host ∧ (s.poisonHome slice line bad).pow = s.pow ∧
    (s.poisonHome slice line bad).grd = s.grd := by
  unfold State.poisonHome
  (repeat' split) <;> simp

@[simp] theorem State.putBehind_frame (s : State) (unit pa : Nat) (bs : List (Nat × Byte)) (bad : BitVec 8) : (s.putBehind unit pa bs bad).clk =
    s.clk ∧ (s.putBehind unit pa bs bad).sch = s.sch ∧ (s.putBehind unit pa bs bad).regs = s.regs ∧ (s.putBehind unit pa bs bad).pipe = s.pipe ∧
    (s.putBehind unit pa bs bad).sp = s.sp ∧ (s.putBehind unit pa bs bad).kv = s.kv ∧ (s.putBehind unit pa bs bad).gi = s.gi ∧
    (s.putBehind unit pa bs bad).disp = s.disp ∧ (s.putBehind unit pa bs bad).host = s.host ∧ (s.putBehind unit pa bs bad).pow = s.pow ∧
    (s.putBehind unit pa bs bad).grd = s.grd := by
  unfold State.putBehind
  dsimp only
  (repeat' split) <;> simp

@[simp] theorem State.backOwn_frame (s : State) (m : MscLine) : (s.backOwn m).clk = s.clk ∧ (s.backOwn m).sch = s.sch ∧
    (s.backOwn m).regs = s.regs ∧ (s.backOwn m).pipe = s.pipe ∧ (s.backOwn m).sp = s.sp ∧ (s.backOwn m).kv = s.kv ∧ (s.backOwn m).gi = s.gi ∧
    (s.backOwn m).disp = s.disp ∧ (s.backOwn m).host = s.host ∧ (s.backOwn m).pow = s.pow ∧ (s.backOwn m).grd = s.grd := by
  unfold State.backOwn
  (repeat' split) <;> simp

@[simp] theorem State.l1Touch_frame (s : State) (core ctx line : Nat) : (s.l1Touch core ctx line).clk = s.clk ∧
    (s.l1Touch core ctx line).sch = s.sch ∧ (s.l1Touch core ctx line).regs = s.regs ∧ (s.l1Touch core ctx line).mem = s.mem ∧
    (s.l1Touch core ctx line).sp = s.sp ∧ (s.l1Touch core ctx line).sl = s.sl ∧ (s.l1Touch core ctx line).kv = s.kv ∧
    (s.l1Touch core ctx line).gi = s.gi ∧ (s.l1Touch core ctx line).disp = s.disp ∧ (s.l1Touch core ctx line).host = s.host ∧
    (s.l1Touch core ctx line).pow = s.pow ∧ (s.l1Touch core ctx line).grd = s.grd := ⟨rfl, rfl, rfl, rfl, rfl, rfl, rfl, rfl, rfl, rfl, rfl, rfl⟩

@[simp] theorem State.l1Reply_frame (s : State) (slice core ctx line : Nat) (fill : Bool) : (s.l1Reply slice core ctx line fill).clk = s.clk ∧
    (s.l1Reply slice core ctx line fill).sch = s.sch ∧ (s.l1Reply slice core ctx line fill).regs = s.regs ∧
    (s.l1Reply slice core ctx line fill).sp = s.sp ∧ (s.l1Reply slice core ctx line fill).sl = s.sl ∧
    (s.l1Reply slice core ctx line fill).kv = s.kv ∧ (s.l1Reply slice core ctx line fill).gi = s.gi ∧
    (s.l1Reply slice core ctx line fill).disp = s.disp ∧ (s.l1Reply slice core ctx line fill).host = s.host ∧
    (s.l1Reply slice core ctx line fill).pow = s.pow ∧ (s.l1Reply slice core ctx line fill).grd = s.grd := by
  unfold State.l1Reply
  dsimp only
  (repeat' split) <;> simp

@[simp] theorem State.l1Update_frame (s : State) (core line : Nat) (bs : List (Nat × Byte)) : (s.l1Update core line bs).clk = s.clk ∧
    (s.l1Update core line bs).sch = s.sch ∧ (s.l1Update core line bs).regs = s.regs ∧ (s.l1Update core line bs).mem = s.mem ∧
    (s.l1Update core line bs).sp = s.sp ∧ (s.l1Update core line bs).sl = s.sl ∧ (s.l1Update core line bs).kv = s.kv ∧
    (s.l1Update core line bs).gi = s.gi ∧ (s.l1Update core line bs).disp = s.disp ∧ (s.l1Update core line bs).host = s.host ∧
    (s.l1Update core line bs).pow = s.pow ∧ (s.l1Update core line bs).grd = s.grd := ⟨rfl, rfl, rfl, rfl, rfl, rfl, rfl, rfl, rfl, rfl, rfl, rfl⟩

@[simp] theorem State.l1Flash_frame (s : State) (core ctx : Nat) : (s.l1Flash core ctx).clk = s.clk ∧ (s.l1Flash core ctx).sch = s.sch ∧
    (s.l1Flash core ctx).regs = s.regs ∧ (s.l1Flash core ctx).mem = s.mem ∧ (s.l1Flash core ctx).sp = s.sp ∧ (s.l1Flash core ctx).sl = s.sl ∧
    (s.l1Flash core ctx).kv = s.kv ∧ (s.l1Flash core ctx).gi = s.gi ∧ (s.l1Flash core ctx).disp = s.disp ∧ (s.l1Flash core ctx).host = s.host ∧
    (s.l1Flash core ctx).pow = s.pow ∧ (s.l1Flash core ctx).grd = s.grd := ⟨rfl, rfl, rfl, rfl, rfl, rfl, rfl, rfl, rfl, rfl, rfl, rfl⟩

@[simp] theorem State.l1Drop_frame (s : State) (core line : Nat) : (s.l1Drop core line).clk = s.clk ∧ (s.l1Drop core line).sch = s.sch ∧
    (s.l1Drop core line).regs = s.regs ∧ (s.l1Drop core line).mem = s.mem ∧ (s.l1Drop core line).sp = s.sp ∧ (s.l1Drop core line).sl = s.sl ∧
    (s.l1Drop core line).kv = s.kv ∧ (s.l1Drop core line).gi = s.gi ∧ (s.l1Drop core line).disp = s.disp ∧ (s.l1Drop core line).host = s.host ∧
    (s.l1Drop core line).pow = s.pow ∧ (s.l1Drop core line).grd = s.grd := ⟨rfl, rfl, rfl, rfl, rfl, rfl, rfl, rfl, rfl, rfl, rfl, rfl⟩

@[simp] theorem State.hostWaits_frame (s : State) (o : HostOut) : (s.hostWaits o).clk = s.clk ∧ (s.hostWaits o).sch = s.sch ∧
    (s.hostWaits o).regs = s.regs ∧ (s.hostWaits o).pipe = s.pipe ∧ (s.hostWaits o).mem = s.mem ∧ (s.hostWaits o).sp = s.sp ∧
    (s.hostWaits o).sl = s.sl ∧ (s.hostWaits o).kv = s.kv ∧ (s.hostWaits o).gi = s.gi ∧ (s.hostWaits o).disp = s.disp ∧
    (s.hostWaits o).pow = s.pow ∧ (s.hostWaits o).grd = s.grd := ⟨rfl, rfl, rfl, rfl, rfl, rfl, rfl, rfl, rfl, rfl, rfl, rfl⟩

@[simp] theorem State.hostWaits_featacc (s : State) (o : HostOut) : (s.hostWaits o).host.featacc = s.host.featacc := rfl

@[simp] theorem State.msi_featacc (s : State) (v : Nat) : (s.msi v).host.featacc = s.host.featacc := by
  unfold State.msi
  dsimp only
  (repeat' split) <;> simp

@[simp] theorem State.logPush_frame (s : State) (key cap : Nat) (e : BitVec 256) : (s.logPush key cap e).clk = s.clk ∧
    (s.logPush key cap e).sch = s.sch ∧ (s.logPush key cap e).regs = s.regs ∧ (s.logPush key cap e).pipe = s.pipe ∧
    (s.logPush key cap e).sp = s.sp ∧ (s.logPush key cap e).kv = s.kv ∧ (s.logPush key cap e).gi = s.gi ∧ (s.logPush key cap e).disp = s.disp ∧
    (s.logPush key cap e).pow = s.pow ∧ (s.logPush key cap e).grd = s.grd := by
  unfold State.logPush
  dsimp only
  (repeat' split) <;> simp

@[simp] theorem State.logPush_featacc (s : State) (key cap : Nat) (e : BitVec 256) : (s.logPush key cap e).host.featacc = s.host.featacc := by
  unfold State.logPush
  dsimp only
  (repeat' split) <;> simp

@[simp] theorem State.tagLine_frame (s : State) (slice a : Nat) : (s.tagLine slice a).clk = s.clk ∧ (s.tagLine slice a).sch = s.sch ∧
    (s.tagLine slice a).regs = s.regs ∧ (s.tagLine slice a).pipe = s.pipe ∧ (s.tagLine slice a).sp = s.sp ∧ (s.tagLine slice a).kv = s.kv ∧
    (s.tagLine slice a).gi = s.gi ∧ (s.tagLine slice a).disp = s.disp ∧ (s.tagLine slice a).host = s.host ∧ (s.tagLine slice a).pow = s.pow ∧
    (s.tagLine slice a).grd = s.grd := by
  unfold State.tagLine
  dsimp only
  (repeat' split) <;> simp

@[simp] theorem State.logArray_frame (s : State) (slice : Nat) (e : BitVec 256) : (s.logArray slice e).clk = s.clk ∧
    (s.logArray slice e).sch = s.sch ∧ (s.logArray slice e).regs = s.regs ∧ (s.logArray slice e).pipe = s.pipe ∧ (s.logArray slice e).sp = s.sp ∧
    (s.logArray slice e).kv = s.kv ∧ (s.logArray slice e).gi = s.gi ∧ (s.logArray slice e).disp = s.disp ∧ (s.logArray slice e).pow = s.pow ∧
    (s.logArray slice e).grd = s.grd := by
  unfold State.logArray
  dsimp only
  (repeat' split) <;> simp

@[simp] theorem State.logArray_featacc (s : State) (slice : Nat) (e : BitVec 256) : (s.logArray slice e).host.featacc = s.host.featacc := by
  unfold State.logArray
  dsimp only
  (repeat' split) <;> simp

@[simp] theorem State.poisonLine_frame (s : State) (slice line w n : Nat) : (s.poisonLine slice line w n).clk = s.clk ∧
    (s.poisonLine slice line w n).sch = s.sch ∧ (s.poisonLine slice line w n).regs = s.regs ∧ (s.poisonLine slice line w n).pipe = s.pipe ∧
    (s.poisonLine slice line w n).sp = s.sp ∧ (s.poisonLine slice line w n).kv = s.kv ∧ (s.poisonLine slice line w n).gi = s.gi ∧
    (s.poisonLine slice line w n).disp = s.disp ∧ (s.poisonLine slice line w n).host = s.host ∧ (s.poisonLine slice line w n).pow = s.pow ∧
    (s.poisonLine slice line w n).grd = s.grd := by simp [State.poisonLine]

@[simp] theorem State.decodeWord_frame (s : State) (slice a mode lid : Nat) (sweep : Bool) (w : Nat) (bs : List Nat) : (s.decodeWord slice a mode
    lid sweep w bs).clk = s.clk ∧ (s.decodeWord slice a mode lid sweep w bs).sch = s.sch ∧
    (s.decodeWord slice a mode lid sweep w bs).regs = s.regs ∧ (s.decodeWord slice a mode lid sweep w bs).pipe = s.pipe ∧
    (s.decodeWord slice a mode lid sweep w bs).sp = s.sp ∧ (s.decodeWord slice a mode lid sweep w bs).kv = s.kv ∧
    (s.decodeWord slice a mode lid sweep w bs).gi = s.gi ∧ (s.decodeWord slice a mode lid sweep w bs).disp = s.disp ∧
    (s.decodeWord slice a mode lid sweep w bs).pow = s.pow ∧ (s.decodeWord slice a mode lid sweep w bs).grd = s.grd := by
  unfold State.decodeWord
  dsimp only
  (repeat' split) <;> simp

@[simp] theorem State.decodeWord_featacc (s : State) (slice a mode lid : Nat) (sweep : Bool) (w : Nat) (bs : List Nat) : (s.decodeWord slice a mode
    lid sweep w bs).host.featacc = s.host.featacc := by
  unfold State.decodeWord
  dsimp only
  (repeat' split) <;> simp

@[simp] theorem State.decodeLine_frame (s : State) (slice a lid : Nat) (sweep : Bool) : (s.decodeLine slice a lid sweep).clk = s.clk ∧
    (s.decodeLine slice a lid sweep).sch = s.sch ∧ (s.decodeLine slice a lid sweep).regs = s.regs ∧
    (s.decodeLine slice a lid sweep).pipe = s.pipe ∧ (s.decodeLine slice a lid sweep).sp = s.sp ∧ (s.decodeLine slice a lid sweep).kv = s.kv ∧
    (s.decodeLine slice a lid sweep).gi = s.gi ∧ (s.decodeLine slice a lid sweep).disp = s.disp ∧ (s.decodeLine slice a lid sweep).pow = s.pow ∧
    (s.decodeLine slice a lid sweep).grd = s.grd := by
  unfold State.decodeLine
  dsimp only
  split
  · simp
  · and_intros <;> refine (foldl_frame (fun t a => ?_) _ _).trans ?_ <;> simp

@[simp] theorem State.decodeLine_featacc (s : State) (slice a lid : Nat) (sweep : Bool) : (s.decodeLine slice a lid sweep).host.featacc =
    s.host.featacc := by
  unfold State.decodeLine
  dsimp only
  split
  · rfl
  · exact (foldl_featacc (fun t w => by simp) _ _).trans (by simp)

@[simp] theorem State.logBus_frame (s : State) (slice a : Nat) (write : Bool) (hits : List Hit) (action grp spare : Nat) : (s.logBus slice a write
    hits action grp spare).clk = s.clk ∧ (s.logBus slice a write hits action grp spare).sch = s.sch ∧
    (s.logBus slice a write hits action grp spare).regs = s.regs ∧ (s.logBus slice a write hits action grp spare).pipe = s.pipe ∧
    (s.logBus slice a write hits action grp spare).mem = s.mem ∧ (s.logBus slice a write hits action grp spare).sp = s.sp ∧
    (s.logBus slice a write hits action grp spare).kv = s.kv ∧ (s.logBus slice a write hits action grp spare).gi = s.gi ∧
    (s.logBus slice a write hits action grp spare).disp = s.disp ∧ (s.logBus slice a write hits action grp spare).pow = s.pow ∧
    (s.logBus slice a write hits action grp spare).grd = s.grd := by simp [State.logBus]

@[simp] theorem State.logBus_featacc (s : State) (slice a : Nat) (write : Bool) (hits : List Hit) (action grp spare : Nat) : (s.logBus slice a
    write hits action grp spare).host.featacc = s.host.featacc := by simp [State.logBus]

@[simp] theorem State.poisonPair_frame (s : State) (slice a : Nat) : (s.poisonPair slice a).clk = s.clk ∧ (s.poisonPair slice a).sch = s.sch ∧
    (s.poisonPair slice a).regs = s.regs ∧ (s.poisonPair slice a).pipe = s.pipe ∧ (s.poisonPair slice a).sp = s.sp ∧
    (s.poisonPair slice a).kv = s.kv ∧ (s.poisonPair slice a).gi = s.gi ∧ (s.poisonPair slice a).disp = s.disp ∧
    (s.poisonPair slice a).host = s.host ∧ (s.poisonPair slice a).pow = s.pow ∧ (s.poisonPair slice a).grd = s.grd := by
  unfold State.poisonPair
  and_intros <;> refine foldl_frame (fun s a => ?_) _ _ <;> (repeat' split) <;> simp

@[simp] theorem State.busLimit_frame (s : State) (slice a : Nat) (write : Bool) (hits : List Hit) : (s.busLimit slice a write hits).clk = s.clk ∧
    (s.busLimit slice a write hits).regs = s.regs ∧ (s.busLimit slice a write hits).pipe = s.pipe ∧ (s.busLimit slice a write hits).sp = s.sp ∧
    (s.busLimit slice a write hits).kv = s.kv ∧ (s.busLimit slice a write hits).gi = s.gi ∧ (s.busLimit slice a write hits).disp = s.disp ∧
    (s.busLimit slice a write hits).pow = s.pow ∧ (s.busLimit slice a write hits).grd = s.grd := by
  unfold State.busLimit
  dsimp only
  (repeat' split) <;> simp

@[simp] theorem State.busLimit_featacc (s : State) (slice a : Nat) (write : Bool) (hits : List Hit) : (s.busLimit slice a write hits).host.featacc
    = s.host.featacc := by
  unfold State.busLimit
  dsimp only
  (repeat' split) <;> simp

@[simp] theorem State.busTransfer_frame (s : State) (slice a : Nat) (write : Bool) : (s.busTransfer slice a write).clk = s.clk ∧
    (s.busTransfer slice a write).regs = s.regs ∧ (s.busTransfer slice a write).pipe = s.pipe ∧ (s.busTransfer slice a write).sp = s.sp ∧
    (s.busTransfer slice a write).kv = s.kv ∧ (s.busTransfer slice a write).gi = s.gi ∧ (s.busTransfer slice a write).disp = s.disp ∧
    (s.busTransfer slice a write).pow = s.pow ∧ (s.busTransfer slice a write).grd = s.grd := by
  unfold State.busTransfer
  dsimp only
  (repeat' split) <;> simp

@[simp] theorem State.busTransfer_featacc (s : State) (slice a : Nat) (write : Bool) : (s.busTransfer slice a write).host.featacc = s.host.featacc
    := by
  unfold State.busTransfer
  dsimp only
  (repeat' split) <;> simp

@[simp] theorem State.arrayRead_frame (s : State) (slice a lid : Nat) : (s.arrayRead slice a lid).clk = s.clk ∧
    (s.arrayRead slice a lid).regs = s.regs ∧ (s.arrayRead slice a lid).pipe = s.pipe ∧ (s.arrayRead slice a lid).sp = s.sp ∧
    (s.arrayRead slice a lid).kv = s.kv ∧ (s.arrayRead slice a lid).gi = s.gi ∧ (s.arrayRead slice a lid).disp = s.disp ∧
    (s.arrayRead slice a lid).pow = s.pow ∧ (s.arrayRead slice a lid).grd = s.grd := by simp [State.arrayRead]

@[simp] theorem State.arrayRead_featacc (s : State) (slice a lid : Nat) : (s.arrayRead slice a lid).host.featacc = s.host.featacc := by simp
    [State.arrayRead]

@[simp] theorem State.arrayRead_cells (s : State) (slice a lid : Nat) : (s.arrayRead slice a lid).mem.cells = s.mem.cells := by simp
    [State.arrayRead]

@[simp] theorem State.arrayReads_frame (lid : Nat) (ls : List (Nat × Nat)) (s : State) : (s.arrayReads lid ls).clk = s.clk ∧
    (s.arrayReads lid ls).regs = s.regs ∧ (s.arrayReads lid ls).pipe = s.pipe ∧ (s.arrayReads lid ls).sp = s.sp ∧ (s.arrayReads lid ls).kv = s.kv ∧
    (s.arrayReads lid ls).gi = s.gi ∧ (s.arrayReads lid ls).disp = s.disp ∧ (s.arrayReads lid ls).pow = s.pow ∧
    (s.arrayReads lid ls).grd = s.grd := by
  unfold State.arrayReads
  and_intros <;> refine foldl_frame (fun t p => ?_) _ _ <;> (
    split
    · simp only [State.busTransfer_frame]
      exact foldl_frame (fun t y => by simp only [State.decodeLine_frame]) _ _
    · rfl)

@[simp] theorem State.arrayReads_featacc (lid : Nat) (ls : List (Nat × Nat)) (s : State) : (s.arrayReads lid ls).host.featacc = s.host.featacc := by
  unfold State.arrayReads
  refine foldl_featacc (fun t p => ?_) _ _
  split
  · rw [State.busTransfer_featacc]
    exact foldl_featacc (fun t y => by simp) _ _
  · rfl

@[simp] theorem State.arrayReads_cells (lid : Nat) (ls : List (Nat × Nat)) (s : State) : (s.arrayReads lid ls).mem.cells = s.mem.cells := by
  unfold State.arrayReads
  refine foldl_cells _ _ (fun t p => ?_) _
  split
  · rw [State.busTransfer_cells]
    exact foldl_cells _ _ (fun t y => by simp) _
  · rfl

@[simp] theorem State.arrayWrites_frame (ls : List (Nat × Nat)) (s : State) : (s.arrayWrites ls).clk = s.clk ∧ (s.arrayWrites ls).regs = s.regs ∧
    (s.arrayWrites ls).pipe = s.pipe ∧ (s.arrayWrites ls).sp = s.sp ∧ (s.arrayWrites ls).kv = s.kv ∧ (s.arrayWrites ls).gi = s.gi ∧
    (s.arrayWrites ls).disp = s.disp ∧ (s.arrayWrites ls).pow = s.pow ∧ (s.arrayWrites ls).grd = s.grd := by
  unfold State.arrayWrites
  and_intros <;> refine foldl_frame (fun t p => ?_) _ _ <;> (
    split
    · refine (foldl_frame (fun t y => ?_) _ _).trans ?_ <;> simp only [State.tagLine_frame, State.busTransfer_frame]
    · rfl)

@[simp] theorem State.arrayWrites_featacc (ls : List (Nat × Nat)) (s : State) : (s.arrayWrites ls).host.featacc = s.host.featacc := by
  unfold State.arrayWrites
  refine foldl_featacc (fun t p => ?_) _ _
  split
  · exact (foldl_featacc (fun t y => by simp) _ _).trans (by simp)
  · rfl

@[simp] theorem State.arrayWrites_cells (ls : List (Nat × Nat)) (s : State) : (s.arrayWrites ls).mem.cells = s.mem.cells := by
  unfold State.arrayWrites
  refine foldl_cells _ _ (fun t p => ?_) _
  split
  · exact (foldl_cells _ _ (fun t y => by simp) _).trans (by simp)
  · rfl

@[simp] theorem State.rowError_frame (s : State) (row : Nat) (corrected : Bool) : (s.rowError row corrected).clk = s.clk ∧
    (s.rowError row corrected).regs = s.regs ∧ (s.rowError row corrected).pipe = s.pipe ∧ (s.rowError row corrected).mem = s.mem ∧
    (s.rowError row corrected).sp = s.sp ∧ (s.rowError row corrected).kv = s.kv ∧ (s.rowError row corrected).gi = s.gi ∧
    (s.rowError row corrected).disp = s.disp ∧ (s.rowError row corrected).host = s.host ∧ (s.rowError row corrected).pow = s.pow ∧
    (s.rowError row corrected).grd = s.grd := ⟨rfl, rfl, rfl, rfl, rfl, rfl, rfl, rfl, rfl, rfl, rfl⟩

@[simp] theorem State.hbmFill_frame (s : State) (slice a line lid : Nat) : (s.hbmFill slice a line lid).clk = s.clk ∧
    (s.hbmFill slice a line lid).regs = s.regs ∧ (s.hbmFill slice a line lid).pipe = s.pipe ∧ (s.hbmFill slice a line lid).sp = s.sp ∧
    (s.hbmFill slice a line lid).kv = s.kv ∧ (s.hbmFill slice a line lid).gi = s.gi ∧ (s.hbmFill slice a line lid).disp = s.disp ∧
    (s.hbmFill slice a line lid).pow = s.pow ∧ (s.hbmFill slice a line lid).grd = s.grd := by
  unfold State.hbmFill
  and_intros <;> refine (foldl_frame (fun t h => ?_) _ _).trans ?_ <;> dsimp only <;> (repeat' split) <;> simp

@[simp] theorem State.hbmFill_featacc (s : State) (slice a line lid : Nat) : (s.hbmFill slice a line lid).host.featacc = s.host.featacc := by
  unfold State.hbmFill
  refine (foldl_featacc (fun t h => ?_) _ _).trans ?_ <;> dsimp only <;> (repeat' split) <;> simp

@[simp] theorem State.hbmFill_cells (s : State) (slice a line lid : Nat) : (s.hbmFill slice a line lid).mem.cells = s.mem.cells := by
  unfold State.hbmFill
  refine (foldl_cells _ _ (fun t h => ?_) _).trans ?_ <;> dsimp only <;> (repeat' split) <;> simp

@[simp] theorem State.readLine_frame (s : State) (slice line lid : Nat) : (s.readLine slice line lid).clk = s.clk ∧
    (s.readLine slice line lid).regs = s.regs ∧ (s.readLine slice line lid).pipe = s.pipe ∧ (s.readLine slice line lid).sp = s.sp ∧
    (s.readLine slice line lid).kv = s.kv ∧ (s.readLine slice line lid).gi = s.gi ∧ (s.readLine slice line lid).disp = s.disp ∧
    (s.readLine slice line lid).pow = s.pow ∧ (s.readLine slice line lid).grd = s.grd := by
  unfold State.readLine
  (repeat' split) <;> simp

@[simp] theorem State.readLine_featacc (s : State) (slice line lid : Nat) : (s.readLine slice line lid).host.featacc = s.host.featacc := by
  unfold State.readLine
  (repeat' split) <;> simp

@[simp] theorem State.writeLine_frame (s : State) (slice line : Nat) : (s.writeLine slice line).clk = s.clk ∧
    (s.writeLine slice line).regs = s.regs ∧ (s.writeLine slice line).pipe = s.pipe ∧ (s.writeLine slice line).sp = s.sp ∧
    (s.writeLine slice line).kv = s.kv ∧ (s.writeLine slice line).gi = s.gi ∧ (s.writeLine slice line).disp = s.disp ∧
    (s.writeLine slice line).pow = s.pow ∧ (s.writeLine slice line).grd = s.grd := by
  unfold State.writeLine
  (repeat' split) <;> simp

@[simp] theorem State.writeLine_featacc (s : State) (slice line : Nat) : (s.writeLine slice line).host.featacc = s.host.featacc := by
  unfold State.writeLine
  (repeat' split) <;> simp

@[simp] theorem State.portWait_frame (s : State) (cl : Nat) (b : Budget) (w : PortWait) : (s.portWait cl b w).clk = s.clk ∧
    (s.portWait cl b w).sch = s.sch ∧ (s.portWait cl b w).regs = s.regs ∧ (s.portWait cl b w).pipe = s.pipe ∧ (s.portWait cl b w).mem = s.mem ∧
    (s.portWait cl b w).sp = s.sp ∧ (s.portWait cl b w).sl = s.sl ∧ (s.portWait cl b w).kv = s.kv ∧ (s.portWait cl b w).gi = s.gi ∧
    (s.portWait cl b w).disp = s.disp ∧ (s.portWait cl b w).host = s.host ∧
    (s.portWait cl b w).grd = s.grd := ⟨rfl, rfl, rfl, rfl, rfl, rfl, rfl, rfl, rfl, rfl, rfl, rfl⟩

@[simp] theorem State.leavePort_frame (cl start : Nat) (s : State) (w : PortWait) : (s.leavePort cl start w).clk = s.clk ∧
    (s.leavePort cl start w).sch = s.sch ∧ (s.leavePort cl start w).regs = s.regs ∧ (s.leavePort cl start w).mem = s.mem ∧
    (s.leavePort cl start w).sl = s.sl ∧ (s.leavePort cl start w).kv = s.kv ∧ (s.leavePort cl start w).gi = s.gi ∧
    (s.leavePort cl start w).disp = s.disp ∧ (s.leavePort cl start w).host = s.host ∧ (s.leavePort cl start w).grd = s.grd := by
  unfold State.leavePort
  dsimp only
  (repeat' split) <;> simp

@[simp] theorem State.startInterval_frame (cl n : Nat) (s : State) : (s.startInterval cl n).clk = s.clk ∧ (s.startInterval cl n).sch = s.sch ∧
    (s.startInterval cl n).regs = s.regs ∧ (s.startInterval cl n).mem = s.mem ∧ (s.startInterval cl n).sl = s.sl ∧
    (s.startInterval cl n).kv = s.kv ∧ (s.startInterval cl n).gi = s.gi ∧ (s.startInterval cl n).disp = s.disp ∧
    (s.startInterval cl n).host = s.host ∧ (s.startInterval cl n).grd = s.grd := by
  unfold State.startInterval
  and_intros <;> refine foldl_frame (fun s a => ?_) _ _ <;> simp

@[simp] theorem State.interval_frame (s : State) (cl : Nat) : (s.interval cl).clk = s.clk ∧ (s.interval cl).sch = s.sch ∧
    (s.interval cl).regs = s.regs ∧ (s.interval cl).mem = s.mem ∧ (s.interval cl).sl = s.sl ∧ (s.interval cl).kv = s.kv ∧
    (s.interval cl).gi = s.gi ∧ (s.interval cl).disp = s.disp ∧ (s.interval cl).host = s.host ∧ (s.interval cl).grd = s.grd := by
  unfold State.interval
  dsimp only
  split
  · simp
  · simp only [State.startInterval_frame]
    and_intros <;> exact foldl_frame (fun t i => by simp only [State.startInterval_frame]) _ _

@[simp] theorem State.cross_frame (s : State) (n f : Nat) : (s.cross n f).clk = s.clk ∧ (s.cross n f).sch = s.sch ∧ (s.cross n f).regs = s.regs ∧
    (s.cross n f).pipe = s.pipe ∧ (s.cross n f).mem = s.mem ∧ (s.cross n f).sp = s.sp ∧ (s.cross n f).kv = s.kv ∧ (s.cross n f).gi = s.gi ∧
    (s.cross n f).disp = s.disp ∧ (s.cross n f).host = s.host ∧ (s.cross n f).pow = s.pow ∧
    (s.cross n f).grd = s.grd := ⟨rfl, rfl, rfl, rfl, rfl, rfl, rfl, rfl, rfl, rfl, rfl, rfl⟩

@[simp] theorem State.crossAll_frame (s : State) (ls : List (Nat × Nat)) : (s.crossAll ls).clk = s.clk ∧ (s.crossAll ls).sch = s.sch ∧
    (s.crossAll ls).regs = s.regs ∧ (s.crossAll ls).pipe = s.pipe ∧ (s.crossAll ls).mem = s.mem ∧ (s.crossAll ls).sp = s.sp ∧
    (s.crossAll ls).kv = s.kv ∧ (s.crossAll ls).gi = s.gi ∧ (s.crossAll ls).disp = s.disp ∧ (s.crossAll ls).host = s.host ∧
    (s.crossAll ls).pow = s.pow ∧ (s.crossAll ls).grd = s.grd := by
  unfold State.crossAll
  and_intros <;> refine foldl_frame (fun s a => ?_) _ _ <;> simp

@[simp] theorem State.unitDone_frame (s : State) (unit : Nat) : (s.unitDone unit).clk = s.clk ∧ (s.unitDone unit).sch = s.sch ∧
    (s.unitDone unit).regs = s.regs ∧ (s.unitDone unit).mem = s.mem ∧ (s.unitDone unit).sp = s.sp ∧ (s.unitDone unit).sl = s.sl ∧
    (s.unitDone unit).kv = s.kv ∧ (s.unitDone unit).gi = s.gi ∧ (s.unitDone unit).disp = s.disp ∧ (s.unitDone unit).host = s.host ∧
    (s.unitDone unit).pow = s.pow ∧ (s.unitDone unit).grd = s.grd := ⟨rfl, rfl, rfl, rfl, rfl, rfl, rfl, rfl, rfl, rfl, rfl, rfl⟩

@[simp] theorem State.acquire_frame (s : State) (b scope : Nat) : (s.acquire b scope).clk = s.clk ∧ (s.acquire b scope).sch = s.sch ∧
    (s.acquire b scope).regs = s.regs ∧ (s.acquire b scope).sp = s.sp ∧ (s.acquire b scope).sl = s.sl ∧ (s.acquire b scope).kv = s.kv ∧
    (s.acquire b scope).gi = s.gi ∧ (s.acquire b scope).disp = s.disp ∧ (s.acquire b scope).host = s.host ∧ (s.acquire b scope).pow = s.pow ∧
    (s.acquire b scope).grd = s.grd := by
  unfold State.acquire
  dsimp only
  (repeat' split) <;> simp

@[simp] theorem State.wakeMonitors_frame (s : State) : s.wakeMonitors.clk = s.clk ∧ s.wakeMonitors.regs = s.regs ∧ s.wakeMonitors.sp = s.sp ∧
    s.wakeMonitors.sl = s.sl ∧ s.wakeMonitors.kv = s.kv ∧ s.wakeMonitors.gi = s.gi ∧ s.wakeMonitors.disp = s.disp ∧ s.wakeMonitors.host = s.host ∧
    s.wakeMonitors.pow = s.pow ∧ s.wakeMonitors.grd = s.grd := by
  unfold State.wakeMonitors
  dsimp only
  split
  · simp
  · simp
    and_intros <;> exact foldl_frame (fun t u => by simp only [State.acquire_frame]) _ _

@[simp] theorem State.readMonitors_frame (s : State) (f : Mon → Bool) (g : Mon → Mon) : (s.readMonitors f g).clk = s.clk ∧
    (s.readMonitors f g).regs = s.regs ∧ (s.readMonitors f g).sp = s.sp ∧ (s.readMonitors f g).sl = s.sl ∧ (s.readMonitors f g).kv = s.kv ∧
    (s.readMonitors f g).gi = s.gi ∧ (s.readMonitors f g).disp = s.disp ∧ (s.readMonitors f g).host = s.host ∧ (s.readMonitors f g).pow = s.pow ∧
    (s.readMonitors f g).grd = s.grd := by
  unfold State.readMonitors
  dsimp only
  split
  · split <;> simp <;> and_intros <;>
      exact foldl_frame (fun t m => by simp only [State.l1Reply_frame]) _ _
  · simp

@[simp] theorem State.monWrite_frame (s : State) (slice line : Nat) : (s.monWrite slice line).clk = s.clk ∧ (s.monWrite slice line).regs = s.regs ∧
    (s.monWrite slice line).sp = s.sp ∧ (s.monWrite slice line).kv = s.kv ∧ (s.monWrite slice line).gi = s.gi ∧
    (s.monWrite slice line).disp = s.disp ∧ (s.monWrite slice line).pow = s.pow ∧ (s.monWrite slice line).grd = s.grd := by
  unfold State.monWrite
  dsimp only
  (repeat' split) <;> simp

@[simp] theorem State.monWrite_featacc (s : State) (slice line : Nat) : (s.monWrite slice line).host.featacc = s.host.featacc := by
  unfold State.monWrite
  dsimp only
  (repeat' split) <;> simp

@[simp] theorem State.monitorAt_frame (s : State) (r : Req) (id lane crew : Nat) (poll : Bool) : (s.monitorAt r id lane crew poll).clk = s.clk ∧
    (s.monitorAt r id lane crew poll).regs = s.regs ∧ (s.monitorAt r id lane crew poll).mem = s.mem ∧ (s.monitorAt r id lane crew poll).sp = s.sp ∧
    (s.monitorAt r id lane crew poll).sl = s.sl ∧ (s.monitorAt r id lane crew poll).kv = s.kv ∧ (s.monitorAt r id lane crew poll).gi = s.gi ∧
    (s.monitorAt r id lane crew poll).disp = s.disp ∧ (s.monitorAt r id lane crew poll).host = s.host ∧
    (s.monitorAt r id lane crew poll).pow = s.pow ∧ (s.monitorAt r id lane crew poll).grd = s.grd := by simp [State.monitorAt]

@[simp] theorem State.homePut_frame (s : State) (slice pa : Nat) (bs : List (Nat × Byte)) : (s.homePut slice pa bs).clk = s.clk ∧
    (s.homePut slice pa bs).sch = s.sch ∧ (s.homePut slice pa bs).regs = s.regs ∧ (s.homePut slice pa bs).pipe = s.pipe ∧
    (s.homePut slice pa bs).sp = s.sp ∧ (s.homePut slice pa bs).kv = s.kv ∧ (s.homePut slice pa bs).gi = s.gi ∧
    (s.homePut slice pa bs).disp = s.disp ∧ (s.homePut slice pa bs).host = s.host ∧ (s.homePut slice pa bs).pow = s.pow ∧
    (s.homePut slice pa bs).grd = s.grd := by
  unfold State.homePut
  dsimp only
  (repeat' split) <;> simp

@[simp] theorem State.homeWrite_frame (s : State) (slice pa : Nat) (bs : List (Nat × Byte)) : (s.homeWrite slice pa bs).clk = s.clk ∧
    (s.homeWrite slice pa bs).regs = s.regs ∧ (s.homeWrite slice pa bs).sp = s.sp ∧ (s.homeWrite slice pa bs).kv = s.kv ∧
    (s.homeWrite slice pa bs).gi = s.gi ∧ (s.homeWrite slice pa bs).disp = s.disp ∧ (s.homeWrite slice pa bs).pow = s.pow ∧
    (s.homeWrite slice pa bs).grd = s.grd := by simp [State.homeWrite]

@[simp] theorem State.homeWrite_featacc (s : State) (slice pa : Nat) (bs : List (Nat × Byte)) : (s.homeWrite slice pa bs).host.featacc =
    s.host.featacc := by simp [State.homeWrite]

@[simp] theorem State.spadWrite_frame (s : State) (b x : Nat) (bs : List (Nat × Byte)) : (s.spadWrite b x bs).clk = s.clk ∧
    (s.spadWrite b x bs).sch = s.sch ∧ (s.spadWrite b x bs).regs = s.regs ∧ (s.spadWrite b x bs).pipe = s.pipe ∧ (s.spadWrite b x bs).sl = s.sl ∧
    (s.spadWrite b x bs).kv = s.kv ∧ (s.spadWrite b x bs).gi = s.gi ∧ (s.spadWrite b x bs).disp = s.disp ∧ (s.spadWrite b x bs).host = s.host ∧
    (s.spadWrite b x bs).pow = s.pow ∧ (s.spadWrite b x bs).grd = s.grd := ⟨rfl, rfl, rfl, rfl, rfl, rfl, rfl, rfl, rfl, rfl, rfl⟩

@[simp] theorem State.spadWrite_cells (s : State) (b x : Nat) (bs : List (Nat × Byte)) : (s.spadWrite b x bs).mem.cells = s.mem.cells := rfl

@[simp] theorem State.partDone_frame (s : State) (id : Nat) : (s.partDone id).clk = s.clk ∧ (s.partDone id).sch = s.sch ∧
    (s.partDone id).regs = s.regs ∧ (s.partDone id).mem = s.mem ∧ (s.partDone id).sp = s.sp ∧ (s.partDone id).sl = s.sl ∧
    (s.partDone id).kv = s.kv ∧ (s.partDone id).gi = s.gi ∧ (s.partDone id).disp = s.disp ∧ (s.partDone id).host = s.host ∧
    (s.partDone id).pow = s.pow ∧ (s.partDone id).grd = s.grd := ⟨rfl, rfl, rfl, rfl, rfl, rfl, rfl, rfl, rfl, rfl, rfl, rfl⟩

@[simp] theorem State.addReq_frame (s : State) (r : Req) : (s.addReq r).sch = s.sch := rfl

@[simp] theorem State.abufUpdate_frame (s : State) (cl line : Nat) (bs : List (Nat × Byte)) : (s.abufUpdate cl line bs).clk = s.clk ∧
    (s.abufUpdate cl line bs).sch = s.sch ∧ (s.abufUpdate cl line bs).regs = s.regs ∧ (s.abufUpdate cl line bs).mem = s.mem ∧
    (s.abufUpdate cl line bs).sp = s.sp ∧ (s.abufUpdate cl line bs).sl = s.sl ∧ (s.abufUpdate cl line bs).kv = s.kv ∧
    (s.abufUpdate cl line bs).gi = s.gi ∧ (s.abufUpdate cl line bs).disp = s.disp ∧ (s.abufUpdate cl line bs).host = s.host ∧
    (s.abufUpdate cl line bs).pow = s.pow ∧ (s.abufUpdate cl line bs).grd = s.grd := ⟨rfl, rfl, rfl, rfl, rfl, rfl, rfl, rfl, rfl, rfl, rfl, rfl⟩

@[simp] theorem State.atomicCopy_frame (s : State) (r : Req) (op wid lane crew v n pt wt : Nat) (data : List Byte) (bad : BitVec 8) : (s.atomicCopy
    r op wid lane crew v n pt wt data bad).clk = s.clk ∧ (s.atomicCopy r op wid lane crew v n pt wt data bad).sch = s.sch ∧
    (s.atomicCopy r op wid lane crew v n pt wt data bad).regs = s.regs ∧ (s.atomicCopy r op wid lane crew v n pt wt data bad).mem = s.mem ∧
    (s.atomicCopy r op wid lane crew v n pt wt data bad).sp = s.sp ∧ (s.atomicCopy r op wid lane crew v n pt wt data bad).sl = s.sl ∧
    (s.atomicCopy r op wid lane crew v n pt wt data bad).kv = s.kv ∧ (s.atomicCopy r op wid lane crew v n pt wt data bad).gi = s.gi ∧
    (s.atomicCopy r op wid lane crew v n pt wt data bad).disp = s.disp ∧ (s.atomicCopy r op wid lane crew v n pt wt data bad).host = s.host ∧
    (s.atomicCopy r op wid lane crew v n pt wt data bad).pow = s.pow ∧ (s.atomicCopy r op wid lane crew v n pt wt data bad).grd = s.grd := by
  unfold State.atomicCopy
  dsimp only
  (repeat' split) <;> simp

@[simp] theorem State.atomicAt_frame (s : State) (r : Req) (op wid lane crew v n pt wt : Nat) : (s.atomicAt r op wid lane crew v n pt wt).clk =
    s.clk ∧ (s.atomicAt r op wid lane crew v n pt wt).regs = s.regs ∧ (s.atomicAt r op wid lane crew v n pt wt).sp = s.sp ∧
    (s.atomicAt r op wid lane crew v n pt wt).kv = s.kv ∧ (s.atomicAt r op wid lane crew v n pt wt).gi = s.gi ∧
    (s.atomicAt r op wid lane crew v n pt wt).disp = s.disp ∧ (s.atomicAt r op wid lane crew v n pt wt).pow = s.pow ∧
    (s.atomicAt r op wid lane crew v n pt wt).grd = s.grd := by
  unfold State.atomicAt
  dsimp only
  (repeat' split) <;> simp

@[simp] theorem State.atomicAt_featacc (s : State) (r : Req) (op wid lane crew v n pt wt : Nat) : (s.atomicAt r op wid lane crew v n pt
    wt).host.featacc = s.host.featacc := by
  unfold State.atomicAt
  dsimp only
  (repeat' split) <;> simp

@[simp] theorem State.atomBad_frame (s : State) (r : Req) : (s.atomBad r).clk = s.clk ∧ (s.atomBad r).sch = s.sch ∧ (s.atomBad r).regs = s.regs ∧
    (s.atomBad r).mem = s.mem ∧ (s.atomBad r).sp = s.sp ∧ (s.atomBad r).sl = s.sl ∧ (s.atomBad r).kv = s.kv ∧ (s.atomBad r).gi = s.gi ∧
    (s.atomBad r).disp = s.disp ∧ (s.atomBad r).host = s.host ∧ (s.atomBad r).pow = s.pow ∧ (s.atomBad r).grd = s.grd := by
  unfold State.atomBad
  (repeat' split) <;> simp

@[simp] theorem State.atomAct_frame (s : State) (r : Req) : (s.atomAct r).clk = s.clk ∧ (s.atomAct r).regs = s.regs ∧ (s.atomAct r).sp = s.sp ∧
    (s.atomAct r).kv = s.kv ∧ (s.atomAct r).gi = s.gi ∧ (s.atomAct r).disp = s.disp ∧ (s.atomAct r).pow = s.pow ∧ (s.atomAct r).grd = s.grd := by
  unfold State.atomAct
  dsimp only
  (repeat' split) <;> simp

@[simp] theorem State.atomAct_featacc (s : State) (r : Req) : (s.atomAct r).host.featacc = s.host.featacc := by
  unfold State.atomAct
  dsimp only
  (repeat' split) <;> simp

@[simp] theorem State.settleAtoms_frame (s : State) (i here : Nat) : (s.settleAtoms i here).clk = s.clk ∧ (s.settleAtoms i here).regs = s.regs ∧
    (s.settleAtoms i here).sp = s.sp ∧ (s.settleAtoms i here).kv = s.kv ∧ (s.settleAtoms i here).gi = s.gi ∧ (s.settleAtoms i here).disp = s.disp ∧
    (s.settleAtoms i here).pow = s.pow ∧ (s.settleAtoms i here).grd = s.grd := by
  unfold State.settleAtoms
  dsimp only
  and_intros <;> refine (foldl_frame (fun t r => by simp only [State.atomAct_frame]) _ _).trans ?_ <;> (
    split
    · rfl
    · split
      · exact foldl_frame (fun t r => by simp only [State.atomBad_frame]) _ _
      · rfl)

@[simp] theorem State.settleAtoms_featacc (s : State) (i here : Nat) : (s.settleAtoms i here).host.featacc = s.host.featacc := by
  unfold State.settleAtoms
  dsimp only
  refine (foldl_featacc (fun t r => by simp only [State.atomAct_featacc]) _ _).trans ?_
  split
  · rfl
  · split
    · exact foldl_featacc (fun t r => by simp only [State.atomBad_frame]) _ _
    · rfl

@[simp] theorem State.atomHere_frame (s : State) (r : Req) : (s.atomHere r).clk = s.clk ∧ (s.atomHere r).regs = s.regs ∧ (s.atomHere r).sp = s.sp ∧
    (s.atomHere r).kv = s.kv ∧ (s.atomHere r).gi = s.gi ∧ (s.atomHere r).disp = s.disp ∧ (s.atomHere r).pow = s.pow ∧
    (s.atomHere r).grd = s.grd := by simp [State.atomHere]

@[simp] theorem State.atomHere_featacc (s : State) (r : Req) : (s.atomHere r).host.featacc = s.host.featacc := by simp [State.atomHere]

@[simp] theorem State.sameRead_frame (s : State) (r : Req) (d : List Byte × BitVec 8) : (s.sameRead r d).clk = s.clk ∧
    (s.sameRead r d).sch = s.sch ∧ (s.sameRead r d).regs = s.regs ∧ (s.sameRead r d).mem = s.mem ∧ (s.sameRead r d).sp = s.sp ∧
    (s.sameRead r d).sl = s.sl ∧ (s.sameRead r d).kv = s.kv ∧ (s.sameRead r d).gi = s.gi ∧ (s.sameRead r d).disp = s.disp ∧
    (s.sameRead r d).host = s.host ∧ (s.sameRead r d).pow = s.pow ∧
    (s.sameRead r d).grd = s.grd := ⟨rfl, rfl, rfl, rfl, rfl, rfl, rfl, rfl, rfl, rfl, rfl, rfl⟩

@[simp] theorem State.perform_frame (s : State) (r : Req) : (s.perform r).clk = s.clk ∧ (s.perform r).regs = s.regs ∧ (s.perform r).sp = s.sp ∧
    (s.perform r).kv = s.kv ∧ (s.perform r).gi = s.gi ∧ (s.perform r).disp = s.disp ∧ (s.perform r).pow = s.pow ∧ (s.perform r).grd = s.grd := by
  unfold State.perform
  dsimp only
  (repeat' split) <;> simp

@[simp] theorem State.perform_featacc (s : State) (r : Req) : (s.perform r).host.featacc = s.host.featacc := by
  unfold State.perform
  dsimp only
  (repeat' split) <;> simp

@[simp] theorem State.logViolation_frame (s : State) (b : Nat) (addr : Nat) (pc : Word) (crew lane kind : Nat) : (s.logViolation b addr pc crew
    lane kind).clk = s.clk ∧ (s.logViolation b addr pc crew lane kind).sch = s.sch ∧ (s.logViolation b addr pc crew lane kind).regs = s.regs ∧
    (s.logViolation b addr pc crew lane kind).pipe = s.pipe ∧ (s.logViolation b addr pc crew lane kind).mem = s.mem ∧
    (s.logViolation b addr pc crew lane kind).sp = s.sp ∧ (s.logViolation b addr pc crew lane kind).kv = s.kv ∧
    (s.logViolation b addr pc crew lane kind).gi = s.gi ∧ (s.logViolation b addr pc crew lane kind).disp = s.disp ∧
    (s.logViolation b addr pc crew lane kind).pow = s.pow ∧ (s.logViolation b addr pc crew lane kind).grd = s.grd := by simp [State.logViolation]

@[simp] theorem State.logViolation_featacc (s : State) (b : Nat) (addr : Nat) (pc : Word) (crew lane kind : Nat) : (s.logViolation b addr pc crew
    lane kind).host.featacc = s.host.featacc := by simp [State.logViolation]

@[simp] theorem State.loadPart_frame (s : State) (inst pend : Nat) (home : List Nat) (m : Member) (pol : Word) (low : Nat) (p : Piece) :
    (s.loadPart inst pend home m pol low p).1.clk = s.clk ∧ (s.loadPart inst pend home m pol low p).1.sch = s.sch ∧
    (s.loadPart inst pend home m pol low p).1.regs = s.regs ∧ (s.loadPart inst pend home m pol low p).1.mem = s.mem ∧
    (s.loadPart inst pend home m pol low p).1.sp = s.sp ∧ (s.loadPart inst pend home m pol low p).1.sl = s.sl ∧
    (s.loadPart inst pend home m pol low p).1.kv = s.kv ∧ (s.loadPart inst pend home m pol low p).1.gi = s.gi ∧
    (s.loadPart inst pend home m pol low p).1.disp = s.disp ∧ (s.loadPart inst pend home m pol low p).1.host = s.host ∧
    (s.loadPart inst pend home m pol low p).1.pow = s.pow ∧ (s.loadPart inst pend home m pol low p).1.grd = s.grd := by
  unfold State.loadPart
  dsimp only
  (repeat' split) <;> simp

@[simp] theorem State.loadLane_frame (s : State) (inst pend : Nat) (home : List Nat) (pol : Word) (a : LaneAcc) : (s.loadLane inst pend home pol
    a).clk = s.clk ∧ (s.loadLane inst pend home pol a).sch = s.sch ∧ (s.loadLane inst pend home pol a).regs = s.regs ∧
    (s.loadLane inst pend home pol a).mem = s.mem ∧ (s.loadLane inst pend home pol a).sp = s.sp ∧ (s.loadLane inst pend home pol a).sl = s.sl ∧
    (s.loadLane inst pend home pol a).kv = s.kv ∧ (s.loadLane inst pend home pol a).gi = s.gi ∧ (s.loadLane inst pend home pol a).disp = s.disp ∧
    (s.loadLane inst pend home pol a).host = s.host ∧ (s.loadLane inst pend home pol a).pow = s.pow ∧
    (s.loadLane inst pend home pol a).grd = s.grd := by
  unfold State.loadLane
  and_intros <;> exact foldl_fst (fun x p => by simp only [State.loadPart_frame]) _ _

@[simp] theorem State.loadParts_frame (s : State) (inst pend : Nat) (home : List Nat) (pol : Nat → Word) (lanes : List LaneAcc) : (s.loadParts inst
    pend home pol lanes).clk = s.clk ∧ (s.loadParts inst pend home pol lanes).sch = s.sch ∧ (s.loadParts inst pend home pol lanes).regs = s.regs ∧
    (s.loadParts inst pend home pol lanes).mem = s.mem ∧ (s.loadParts inst pend home pol lanes).sp = s.sp ∧
    (s.loadParts inst pend home pol lanes).sl = s.sl ∧ (s.loadParts inst pend home pol lanes).kv = s.kv ∧
    (s.loadParts inst pend home pol lanes).gi = s.gi ∧ (s.loadParts inst pend home pol lanes).disp = s.disp ∧
    (s.loadParts inst pend home pol lanes).host = s.host ∧ (s.loadParts inst pend home pol lanes).pow = s.pow ∧
    (s.loadParts inst pend home pol lanes).grd = s.grd := by
  unfold State.loadParts
  and_intros <;> refine foldl_frame (fun s a => ?_) _ _ <;> simp

@[simp] theorem State.nextEpoch_frame (s : State) (b c : Nat) : (s.nextEpoch b c).clk = s.clk ∧ (s.nextEpoch b c).regs = s.regs ∧
    (s.nextEpoch b c).pipe = s.pipe ∧ (s.nextEpoch b c).mem = s.mem ∧ (s.nextEpoch b c).sp = s.sp ∧ (s.nextEpoch b c).sl = s.sl ∧
    (s.nextEpoch b c).kv = s.kv ∧ (s.nextEpoch b c).gi = s.gi ∧ (s.nextEpoch b c).disp = s.disp ∧ (s.nextEpoch b c).host = s.host ∧
    (s.nextEpoch b c).pow = s.pow ∧ (s.nextEpoch b c).grd = s.grd := ⟨rfl, rfl, rfl, rfl, rfl, rfl, rfl, rfl, rfl, rfl, rfl, rfl⟩

@[simp] theorem State.enterStore_frame (s : State) (b : Nat) (pend : Nat) (prev : Option Nat) (x : LineStore) : (s.enterStore b pend prev x).1.clk
    = s.clk ∧ (s.enterStore b pend prev x).1.sch = s.sch ∧ (s.enterStore b pend prev x).1.regs = s.regs ∧
    (s.enterStore b pend prev x).1.mem = s.mem ∧ (s.enterStore b pend prev x).1.sp = s.sp ∧ (s.enterStore b pend prev x).1.sl = s.sl ∧
    (s.enterStore b pend prev x).1.kv = s.kv ∧ (s.enterStore b pend prev x).1.gi = s.gi ∧ (s.enterStore b pend prev x).1.disp = s.disp ∧
    (s.enterStore b pend prev x).1.host = s.host ∧ (s.enterStore b pend prev x).1.pow = s.pow ∧ (s.enterStore b pend prev x).1.grd = s.grd := by
  unfold State.enterStore
  dsimp only
  (repeat' split) <;> simp

@[simp] theorem State.holdStore_frame (s : State) (b pend : Nat) (prev : Option Nat) (x : LineStore) : (s.holdStore b pend prev x).1.clk = s.clk ∧
    (s.holdStore b pend prev x).1.sch = s.sch ∧ (s.holdStore b pend prev x).1.regs = s.regs ∧ (s.holdStore b pend prev x).1.mem = s.mem ∧
    (s.holdStore b pend prev x).1.sp = s.sp ∧ (s.holdStore b pend prev x).1.sl = s.sl ∧ (s.holdStore b pend prev x).1.kv = s.kv ∧
    (s.holdStore b pend prev x).1.gi = s.gi ∧ (s.holdStore b pend prev x).1.disp = s.disp ∧ (s.holdStore b pend prev x).1.host = s.host ∧
    (s.holdStore b pend prev x).1.pow = s.pow := by
  unfold State.holdStore
  dsimp only
  (repeat' split) <;> simp

@[simp] theorem State.sign_frame (s : State) (b c : Nat) (bs : List Byte) : (s.sign b c bs).clk = s.clk ∧ (s.sign b c bs).sch = s.sch ∧
    (s.sign b c bs).regs = s.regs ∧ (s.sign b c bs).pipe = s.pipe ∧ (s.sign b c bs).mem = s.mem ∧ (s.sign b c bs).sp = s.sp ∧
    (s.sign b c bs).sl = s.sl ∧ (s.sign b c bs).kv = s.kv ∧ (s.sign b c bs).gi = s.gi ∧ (s.sign b c bs).disp = s.disp ∧
    (s.sign b c bs).host = s.host ∧ (s.sign b c bs).pow = s.pow := by
  unfold State.sign
  dsimp only
  (repeat' split) <;> simp

@[simp] theorem State.enterStores_frame (s : State) (b pend : Nat) (xs : List LineStore) : (s.enterStores b pend xs).clk = s.clk ∧
    (s.enterStores b pend xs).sch = s.sch ∧ (s.enterStores b pend xs).regs = s.regs ∧ (s.enterStores b pend xs).mem = s.mem ∧
    (s.enterStores b pend xs).sp = s.sp ∧ (s.enterStores b pend xs).sl = s.sl ∧ (s.enterStores b pend xs).kv = s.kv ∧
    (s.enterStores b pend xs).gi = s.gi ∧ (s.enterStores b pend xs).disp = s.disp ∧ (s.enterStores b pend xs).host = s.host ∧
    (s.enterStores b pend xs).pow = s.pow := by
  unfold State.enterStores
  dsimp only
  and_intros <;> refine foldl_fst (fun x p => ?_) _ _ <;> split <;> simp

@[simp] theorem State.noteEnd_frame (s : State) (g : GuardRes) : (s.noteEnd g).clk = s.clk ∧ (s.noteEnd g).sch = s.sch ∧
    (s.noteEnd g).regs = s.regs ∧ (s.noteEnd g).pipe = s.pipe ∧ (s.noteEnd g).mem = s.mem ∧ (s.noteEnd g).sp = s.sp ∧ (s.noteEnd g).sl = s.sl ∧
    (s.noteEnd g).kv = s.kv ∧ (s.noteEnd g).gi = s.gi ∧ (s.noteEnd g).disp = s.disp ∧ (s.noteEnd g).host = s.host ∧
    (s.noteEnd g).pow = s.pow := ⟨rfl, rfl, rfl, rfl, rfl, rfl, rfl, rfl, rfl, rfl, rfl, rfl⟩

@[simp] theorem State.mirrored_cells (before after : State) (ids : List Nat) (ended : List GuardRes) : (before.mirrored after ids ended).mem.cells
    = before.mem.cells := rfl

@[simp] theorem State.monitorOver_frame (s before after : State) : (s.monitorOver before after).clk = s.clk ∧
    (s.monitorOver before after).regs = s.regs ∧ (s.monitorOver before after).mem = s.mem ∧ (s.monitorOver before after).sp = s.sp ∧
    (s.monitorOver before after).sl = s.sl ∧ (s.monitorOver before after).kv = s.kv ∧ (s.monitorOver before after).gi = s.gi ∧
    (s.monitorOver before after).disp = s.disp ∧ (s.monitorOver before after).host = s.host ∧ (s.monitorOver before after).pow = s.pow ∧
    (s.monitorOver before after).grd = s.grd := by
  unfold State.monitorOver
  dsimp only
  (repeat' split) <;> simp

@[simp] theorem State.arriveAt_frame (s : State) (b c : Nat) : (s.arriveAt b c).clk = s.clk ∧ (s.arriveAt b c).sch = s.sch ∧
    (s.arriveAt b c).regs = s.regs ∧ (s.arriveAt b c).pipe = s.pipe ∧ (s.arriveAt b c).mem = s.mem ∧ (s.arriveAt b c).sp = s.sp ∧
    (s.arriveAt b c).sl = s.sl ∧ (s.arriveAt b c).kv = s.kv ∧ (s.arriveAt b c).gi = s.gi ∧ (s.arriveAt b c).disp = s.disp ∧
    (s.arriveAt b c).host = s.host ∧ (s.arriveAt b c).pow = s.pow := by
  unfold State.arriveAt
  (repeat' split) <;> simp

@[simp] theorem State.usedGo_frame (s : State) (b c : Nat) : (s.usedGo b c).clk = s.clk ∧ (s.usedGo b c).sch = s.sch ∧
    (s.usedGo b c).regs = s.regs ∧ (s.usedGo b c).pipe = s.pipe ∧ (s.usedGo b c).mem = s.mem ∧ (s.usedGo b c).sp = s.sp ∧
    (s.usedGo b c).sl = s.sl ∧ (s.usedGo b c).kv = s.kv ∧ (s.usedGo b c).gi = s.gi ∧ (s.usedGo b c).disp = s.disp ∧ (s.usedGo b c).host = s.host ∧
    (s.usedGo b c).pow = s.pow := by
  unfold State.usedGo
  (repeat' split) <;> simp

@[simp] theorem State.beginStores_frame (s : State) (flag : Nat) (isWrite : Bool) (pol : Nat → Word) (xs : List StoreAcc) : (s.beginStores flag
    isWrite pol xs).clk = s.clk ∧ (s.beginStores flag isWrite pol xs).sch = s.sch ∧ (s.beginStores flag isWrite pol xs).regs = s.regs ∧
    (s.beginStores flag isWrite pol xs).mem = s.mem ∧ (s.beginStores flag isWrite pol xs).sp = s.sp ∧
    (s.beginStores flag isWrite pol xs).sl = s.sl ∧ (s.beginStores flag isWrite pol xs).kv = s.kv ∧ (s.beginStores flag isWrite pol xs).gi = s.gi ∧
    (s.beginStores flag isWrite pol xs).disp = s.disp ∧ (s.beginStores flag isWrite pol xs).host = s.host ∧
    (s.beginStores flag isWrite pol xs).pow = s.pow := by
  unfold State.beginStores
  and_intros <;> refine foldl_frame (fun s a => ?_) _ _ <;> simp

@[simp] theorem State.cutReleases_frame (s : State) (pol : Nat → Word) : (s.cutReleases pol).clk = s.clk ∧ (s.cutReleases pol).regs = s.regs ∧
    (s.cutReleases pol).pipe = s.pipe ∧ (s.cutReleases pol).mem = s.mem ∧ (s.cutReleases pol).sp = s.sp ∧ (s.cutReleases pol).sl = s.sl ∧
    (s.cutReleases pol).kv = s.kv ∧ (s.cutReleases pol).gi = s.gi ∧ (s.cutReleases pol).disp = s.disp ∧ (s.cutReleases pol).host = s.host ∧
    (s.cutReleases pol).pow = s.pow ∧ (s.cutReleases pol).grd = s.grd := by
  unfold State.cutReleases
  and_intros <;> refine foldl_frame (fun s a => ?_) _ _ <;> (repeat' split) <;> simp

end Sys2Proof.Machine

/-!
PROOF (frames): translation, the checks of lanes, and the targets of transfers.
-/
namespace Sys2Proof.Machine
set_option Elab.async false

/-! ## Translation (R325) -/

theorem State.tlbHit_setPipe {s : State} {core ctx va : Nat} {r : Xlate × State} (h : s.tlbHit core ctx va = some r) : r.2 = s.setPipe r.2.pipe := by
  unfold State.tlbHit at h
  split at h
  · cases h; rfl
  · obtain ⟨e, -, rfl⟩ := Option.map_eq_some_iff.mp h
    rfl

/-- A translation changes nothing but the pipe: TLB entries and walks (R325). -/
theorem State.translate_setPipe (s : State) (core ctx va : Nat) : (s.translate core ctx va).2 = s.setPipe (s.translate core ctx va).2.pipe := by
  unfold State.translate
  split
  · rfl
  · split
    · exact State.tlbHit_setPipe ‹_›
    · split
      · rfl
      · unfold State.startWalk
        dsimp only
        split <;> rfl

theorem State.translateAll_setPipe (core ctx : Nat) (vas : List Nat) (s : State) :
    (s.translateAll core ctx vas).2 = s.setPipe (s.translateAll core ctx vas).2.pipe := by
  induction vas generalizing s with
  | nil => rfl
  | cons va vas ih =>
    rw [State.translateAll]
    dsimp only
    rw [ih, State.translate_setPipe]
    rfl

/-! ## The checks of lanes (Table 15.4) -/

theorem State.laneParts_setPipe (core ctx : Nat) (l1 : Bool) (ps : List (Nat × Nat × Nat)) (s : State) :
    (s.laneParts core ctx l1 ps).1 = s.setPipe (s.laneParts core ctx l1 ps).1.pipe := by
  induction ps generalizing s with
  | nil => rfl
  | cons p ps ih =>
    obtain ⟨off, len, va⟩ := p
    rw [State.laneParts]
    dsimp only
    split <;> (dsimp only; rw [ih, State.translate_setPipe]; rfl)

theorem State.lanesParts_setPipe (core ctx w : Nat) (l1 : List Nat) (lanes : List (Member × Nat)) (s : State) :
    (s.lanesParts core ctx w l1 lanes).1 = s.setPipe (s.lanesParts core ctx w l1 lanes).1.pipe := by
  induction lanes generalizing s with
  | nil => rfl
  | cons e lanes ih =>
    obtain ⟨m, va⟩ := e
    rw [State.lanesParts]
    dsimp only
    rw [ih, State.laneParts_setPipe]
    rfl

/-- What the checks of an access leave unchanged: they change translations and the logs of violations alone. -/
structure State.CheckedTo (s t : State) : Prop where
  clk : t.clk = s.clk
  sch : t.sch = s.sch
  regs : t.regs = s.regs
  mem : t.mem = s.mem
  sp : t.sp = s.sp
  kv : t.kv = s.kv
  gi : t.gi = s.gi
  disp : t.disp = s.disp
  pow : t.pow = s.pow
  grd : t.grd = s.grd
  featacc : t.host.featacc = s.host.featacc

theorem State.CheckedTo.refl (s : State) : s.CheckedTo s := by constructor <;> rfl

theorem State.CheckedTo.trans {s t u : State} (h : s.CheckedTo t) (k : t.CheckedTo u) : s.CheckedTo u where
  clk := k.clk.trans h.clk
  sch := k.sch.trans h.sch
  regs := k.regs.trans h.regs
  mem := k.mem.trans h.mem
  sp := k.sp.trans h.sp
  kv := k.kv.trans h.kv
  gi := k.gi.trans h.gi
  disp := k.disp.trans h.disp
  pow := k.pow.trans h.pow
  grd := k.grd.trans h.grd
  featacc := k.featacc.trans h.featacc

theorem State.checkedTo_setPipe (s : State) (p : Pipe) : s.CheckedTo (s.setPipe p) := by constructor <;> rfl

theorem State.checkedTo_logViolation (s : State) (b va : Nat) (pc : Word) (crew lane kind : Nat) :
    s.CheckedTo (s.logViolation b va pc crew lane kind) := by constructor <;> simp

theorem foldl_checkedTo {α : Type} {f : State → α → State} (h : ∀ (s : State) a, s.CheckedTo (f s a)) (l : List α) (s : State) :
    s.CheckedTo (l.foldl f s) := by
  induction l generalizing s with
  | nil => exact .refl s
  | cons a l ih => exact (h s a).trans (ih (f s a))

/-- The state that a check ends in, where it takes no exception. -/
def Checked.Reaches (c : Checked) (t : State) : Prop := c = .miss t ∨ ∃ lanes oob, c = .ok t lanes oob

theorem checkLanes_reaches {s t : State} {w words : Nat} {n : Need} {lanes : List (Member × Nat)} {oob : List Member}
    (h : (s.checkLanes w words n lanes oob).Reaches t) : s.CheckedTo t := by
  have hparts (core ctx : Nat) : s.CheckedTo (s.lanesParts core ctx w n.l1 lanes).1 :=
    State.lanesParts_setPipe core ctx w n.l1 lanes s ▸ s.checkedTo_setPipe _
  unfold State.checkLanes at h
  dsimp only at h
  split at h
  · rcases h with h | ⟨_, _, h⟩ <;> cases h
  · split at h
    · rcases h with h | ⟨_, _, h⟩ <;> cases h
      exact hparts _ _
    · split at h
      · rcases h with h | ⟨_, _, h⟩ <;> cases h
      · split at h
        · rcases h with h | ⟨_, _, h⟩ <;> cases h
        · split at h
          · rcases h with h | ⟨_, _, h⟩ <;> cases h
          · rcases h with h | ⟨_, _, h⟩ <;> cases h
            exact (hparts _ _).trans (foldl_checkedTo (fun t a => t.checkedTo_logViolation ..) _ _)

theorem checkOffsets_reaches {s t : State} {r : BitVec 256} {w words : Nat} {n : Need} {os : List (Member × Int)}
    (h : (s.checkOffsets r w words n os).Reaches t) : s.CheckedTo t := by
  unfold State.checkOffsets at h
  dsimp only at h
  split at h
  · rcases h with h | ⟨_, _, h⟩ <;> cases h
  · split at h
    · next u lanes oob hc =>
      have hu := checkLanes_reaches (.inr ⟨lanes, oob, hc⟩)
      rcases h with h | ⟨_, _, h⟩ <;> cases h
      split
      · exact hu
      · exact hu.trans (foldl_checkedTo (fun t e => t.checkedTo_logViolation ..) _ _)
    · exact checkLanes_reaches h

theorem checkRecord_reaches {s t : State} {r : BitVec 256} {off : Int} {w words : Nat} {n : Need} {lanes : List (Member × Nat)}
    (h : (s.checkRecord r off w words n lanes).Reaches t) : s.CheckedTo t := checkOffsets_reaches h

end Sys2Proof.Machine

/-!
PROOF (frames): what the operations of control, barriers and queues leave unchanged.
-/
namespace Sys2Proof.Machine
set_option Elab.async false

@[simp] theorem State.putBack_frame (s : State) : s.putBack.clk = s.clk ∧ s.putBack.regs = s.regs ∧ s.putBack.pipe = s.pipe ∧
    s.putBack.mem = s.mem ∧ s.putBack.sp = s.sp ∧ s.putBack.sl = s.sl ∧ s.putBack.kv = s.kv ∧ s.putBack.gi = s.gi ∧ s.putBack.disp = s.disp ∧
    s.putBack.host = s.host ∧ s.putBack.pow = s.pow ∧ s.putBack.grd = s.grd := by
  unfold State.putBack
  dsimp only
  (repeat' split) <;> simp

@[simp] theorem State.fetchTrap_frame (s : State) (c : Trap) (va : Nat) : (s.fetchTrap c va).clk = s.clk ∧ (s.fetchTrap c va).regs = s.regs ∧
    (s.fetchTrap c va).mem = s.mem ∧ (s.fetchTrap c va).sp = s.sp ∧ (s.fetchTrap c va).sl = s.sl ∧ (s.fetchTrap c va).kv = s.kv ∧
    (s.fetchTrap c va).host = s.host ∧ (s.fetchTrap c va).pow = s.pow := by simp [State.fetchTrap]

@[simp] theorem State.noHeader_frame (s : State) : s.noHeader.clk = s.clk ∧ s.noHeader.regs = s.regs ∧ s.noHeader.mem = s.mem ∧
    s.noHeader.sp = s.sp ∧ s.noHeader.sl = s.sl ∧ s.noHeader.kv = s.kv ∧ s.noHeader.host = s.host ∧
    s.noHeader.pow = s.pow := by simp [State.noHeader]

@[simp] theorem State.withWords_frame (s : State) (w0 w1 : Word) : (s.withWords w0 w1).clk = s.clk ∧ (s.withWords w0 w1).sp = s.sp ∧
    (s.withWords w0 w1).sl = s.sl ∧ (s.withWords w0 w1).kv = s.kv ∧ (s.withWords w0 w1).gi = s.gi ∧ (s.withWords w0 w1).pow = s.pow ∧
    (s.withWords w0 w1).grd = s.grd := ⟨rfl, rfl, rfl, rfl, rfl, rfl, rfl⟩

@[simp] theorem State.transfer_frame (s : State) (words : Nat) (gos : List (Member × Word)) : (s.transfer words gos).clk = s.clk ∧
    (s.transfer words gos).regs = s.regs ∧ (s.transfer words gos).pipe = s.pipe ∧ (s.transfer words gos).mem = s.mem ∧
    (s.transfer words gos).sp = s.sp ∧ (s.transfer words gos).sl = s.sl ∧ (s.transfer words gos).kv = s.kv ∧ (s.transfer words gos).gi = s.gi ∧
    (s.transfer words gos).disp = s.disp ∧ (s.transfer words gos).host = s.host ∧ (s.transfer words gos).pow = s.pow ∧
    (s.transfer words gos).grd = s.grd := by
  unfold State.transfer
  split
  · simp
  · dsimp only
    split
    · simp
    · simp only [State.filePart_frame]
      and_intros <;> refine (foldl_frame (fun t pc => by simp only [State.filePart_frame]) _ _).trans ?_ <;> simp

@[simp] theorem State.startRefills_frame (s : State) (lanes : List LaneAcc) : (s.startRefills lanes).clk = s.clk ∧
    (s.startRefills lanes).sch = s.sch ∧ (s.startRefills lanes).regs = s.regs ∧ (s.startRefills lanes).mem = s.mem ∧
    (s.startRefills lanes).sp = s.sp ∧ (s.startRefills lanes).sl = s.sl ∧ (s.startRefills lanes).kv = s.kv ∧ (s.startRefills lanes).gi = s.gi ∧
    (s.startRefills lanes).disp = s.disp ∧ (s.startRefills lanes).host = s.host ∧ (s.startRefills lanes).pow = s.pow ∧
    (s.startRefills lanes).grd = s.grd := by
  unfold State.startRefills
  and_intros <;> refine foldl_frame (fun s a => ?_) _ _ <;> simp

@[simp] theorem State.dropRefills_frame (s : State) (u : Bundle) : (s.dropRefills u).clk = s.clk ∧ (s.dropRefills u).sch = s.sch ∧
    (s.dropRefills u).regs = s.regs ∧ (s.dropRefills u).mem = s.mem ∧ (s.dropRefills u).sp = s.sp ∧ (s.dropRefills u).sl = s.sl ∧
    (s.dropRefills u).kv = s.kv ∧ (s.dropRefills u).gi = s.gi ∧ (s.dropRefills u).disp = s.disp ∧ (s.dropRefills u).host = s.host ∧
    (s.dropRefills u).pow = s.pow ∧ (s.dropRefills u).grd = s.grd := ⟨rfl, rfl, rfl, rfl, rfl, rfl, rfl, rfl, rfl, rfl, rfl, rfl⟩

@[simp] theorem State.noteArrivals_frame (s : State) (bs : List Nat) (p : Wait → Bool) : (s.noteArrivals bs p).clk = s.clk ∧
    (s.noteArrivals bs p).sch = s.sch ∧ (s.noteArrivals bs p).regs = s.regs ∧ (s.noteArrivals bs p).pipe = s.pipe ∧
    (s.noteArrivals bs p).mem = s.mem ∧ (s.noteArrivals bs p).sp = s.sp ∧ (s.noteArrivals bs p).sl = s.sl ∧ (s.noteArrivals bs p).kv = s.kv ∧
    (s.noteArrivals bs p).gi = s.gi ∧ (s.noteArrivals bs p).disp = s.disp ∧ (s.noteArrivals bs p).host = s.host ∧
    (s.noteArrivals bs p).pow = s.pow := by
  unfold State.noteArrivals
  and_intros <;> refine foldl_frame (fun s a => ?_) _ _ <;> (repeat' split) <;> simp

@[simp] theorem State.barCheck_frame (s : State) (b id : Nat) (cl : Bool) : (s.barCheck b id cl).clk = s.clk ∧ (s.barCheck b id cl).regs = s.regs ∧
    (s.barCheck b id cl).mem = s.mem ∧ (s.barCheck b id cl).sp = s.sp ∧ (s.barCheck b id cl).sl = s.sl ∧ (s.barCheck b id cl).kv = s.kv ∧
    (s.barCheck b id cl).gi = s.gi ∧ (s.barCheck b id cl).disp = s.disp ∧ (s.barCheck b id cl).host = s.host ∧
    (s.barCheck b id cl).pow = s.pow := by
  unfold State.barCheck
  dsimp only
  generalize (if cl = true then s.groupOf b else [b]) = bs
  split
  · simp
    and_intros <;> refine (foldl_frame (fun t b => by simp) _ _).trans ?_ <;> simp
  · simp

@[simp] theorem State.checkBars_frame (s : State) (b : Nat) : (s.checkBars b).clk = s.clk ∧ (s.checkBars b).regs = s.regs ∧
    (s.checkBars b).mem = s.mem ∧ (s.checkBars b).sp = s.sp ∧ (s.checkBars b).sl = s.sl ∧ (s.checkBars b).kv = s.kv ∧ (s.checkBars b).gi = s.gi ∧
    (s.checkBars b).disp = s.disp ∧ (s.checkBars b).host = s.host ∧ (s.checkBars b).pow = s.pow := by
  unfold State.checkBars
  and_intros <;> refine foldl_frame (fun s a => ?_) _ _ <;> simp

@[simp] theorem State.noteLbar_frame (s : State) (l : Nat) : (s.noteLbar l).clk = s.clk ∧ (s.noteLbar l).sch = s.sch ∧
    (s.noteLbar l).regs = s.regs ∧ (s.noteLbar l).pipe = s.pipe ∧ (s.noteLbar l).mem = s.mem ∧ (s.noteLbar l).sp = s.sp ∧
    (s.noteLbar l).sl = s.sl ∧ (s.noteLbar l).kv = s.kv ∧ (s.noteLbar l).gi = s.gi ∧ (s.noteLbar l).host = s.host ∧ (s.noteLbar l).pow = s.pow ∧
    (s.noteLbar l).grd = s.grd := ⟨rfl, rfl, rfl, rfl, rfl, rfl, rfl, rfl, rfl, rfl, rfl, rfl⟩

@[simp] theorem State.lbarCheck_frame (s : State) (u : Nat) : (s.lbarCheck u).clk = s.clk ∧ (s.lbarCheck u).regs = s.regs ∧
    (s.lbarCheck u).pipe = s.pipe ∧ (s.lbarCheck u).mem = s.mem ∧ (s.lbarCheck u).sp = s.sp ∧ (s.lbarCheck u).sl = s.sl ∧
    (s.lbarCheck u).kv = s.kv ∧ (s.lbarCheck u).gi = s.gi ∧ (s.lbarCheck u).host = s.host ∧ (s.lbarCheck u).pow = s.pow := by
  unfold State.lbarCheck
  dsimp only
  split
  · simp
    and_intros <;> refine (foldl_frame (fun t b => by simp) _ _).trans ?_ <;> simp
  · simp

@[simp] theorem State.trapOthers_frame (s : State) (r : ArriveRec) (cls : Trap) : (s.trapOthers r cls).clk = s.clk ∧
    (s.trapOthers r cls).regs = s.regs ∧ (s.trapOthers r cls).mem = s.mem ∧ (s.trapOthers r cls).sp = s.sp ∧ (s.trapOthers r cls).sl = s.sl ∧
    (s.trapOthers r cls).kv = s.kv ∧ (s.trapOthers r cls).host = s.host ∧ (s.trapOthers r cls).pow = s.pow := by
  unfold State.trapOthers
  dsimp only
  (repeat' split) <;> simp

@[simp] theorem State.exitFaults_frame (s : State) (b : Nat) (out : List Member) : (s.exitFaults b out).clk = s.clk ∧
    (s.exitFaults b out).regs = s.regs ∧ (s.exitFaults b out).mem = s.mem ∧ (s.exitFaults b out).sp = s.sp ∧ (s.exitFaults b out).sl = s.sl ∧
    (s.exitFaults b out).kv = s.kv ∧ (s.exitFaults b out).host = s.host ∧ (s.exitFaults b out).pow = s.pow := by
  unfold State.exitFaults
  and_intros <;> refine foldl_frame (fun s a => ?_) _ _ <;> dsimp only <;> (repeat' split) <;> simp

@[simp] theorem State.noteOver_frame (s : State) (b : Nat) : (s.noteOver b).clk = s.clk ∧ (s.noteOver b).regs = s.regs ∧
    (s.noteOver b).pipe = s.pipe ∧ (s.noteOver b).mem = s.mem ∧ (s.noteOver b).sp = s.sp ∧ (s.noteOver b).sl = s.sl ∧ (s.noteOver b).kv = s.kv ∧
    (s.noteOver b).gi = s.gi ∧ (s.noteOver b).disp = s.disp ∧ (s.noteOver b).host = s.host ∧ (s.noteOver b).pow = s.pow ∧
    (s.noteOver b).grd = s.grd := by
  unfold State.noteOver
  (repeat' split) <;> simp

@[simp] theorem State.stopFeed_frame (s : State) (b : Nat) : (s.stopFeed b).clk = s.clk ∧ (s.stopFeed b).regs = s.regs ∧
    (s.stopFeed b).pipe = s.pipe ∧ (s.stopFeed b).mem = s.mem ∧ (s.stopFeed b).sp = s.sp ∧ (s.stopFeed b).sl = s.sl ∧ (s.stopFeed b).kv = s.kv ∧
    (s.stopFeed b).gi = s.gi ∧ (s.stopFeed b).host = s.host ∧ (s.stopFeed b).pow = s.pow ∧
    (s.stopFeed b).grd = s.grd := ⟨rfl, rfl, rfl, rfl, rfl, rfl, rfl, rfl, rfl, rfl, rfl⟩

@[simp] theorem State.discardPanels_frame (s : State) (b : Nat) : (s.discardPanels b).clk = s.clk ∧ (s.discardPanels b).sch = s.sch ∧
    (s.discardPanels b).regs = s.regs ∧ (s.discardPanels b).pipe = s.pipe ∧ (s.discardPanels b).mem = s.mem ∧ (s.discardPanels b).sl = s.sl ∧
    (s.discardPanels b).kv = s.kv ∧ (s.discardPanels b).gi = s.gi ∧ (s.discardPanels b).disp = s.disp ∧ (s.discardPanels b).host = s.host ∧
    (s.discardPanels b).pow = s.pow ∧ (s.discardPanels b).grd = s.grd := ⟨rfl, rfl, rfl, rfl, rfl, rfl, rfl, rfl, rfl, rfl, rfl, rfl⟩

@[simp] theorem State.exitThreads_frame (s : State) (out : List Member) : (s.exitThreads out).clk = s.clk ∧ (s.exitThreads out).mem = s.mem ∧
    (s.exitThreads out).sl = s.sl ∧ (s.exitThreads out).kv = s.kv ∧ (s.exitThreads out).host = s.host ∧ (s.exitThreads out).pow = s.pow := by
  unfold State.exitThreads
  dsimp only
  split
  · simp
  · simp
    and_intros <;> split <;> split <;> simp

@[simp] theorem State.observe_frame (s : State) (wait : BitVec 12) : (s.observe wait).clk = s.clk ∧ (s.observe wait).regs = s.regs ∧
    (s.observe wait).mem = s.mem ∧ (s.observe wait).sp = s.sp ∧ (s.observe wait).sl = s.sl ∧ (s.observe wait).kv = s.kv ∧
    (s.observe wait).gi = s.gi ∧ (s.observe wait).disp = s.disp ∧ (s.observe wait).host = s.host ∧ (s.observe wait).pow = s.pow ∧
    (s.observe wait).grd = s.grd := by
  unfold State.observe
  dsimp only
  (repeat' split) <;> simp

@[simp] theorem State.stopAtHeader_frame (s : State) : s.stopAtHeader.clk = s.clk ∧ s.stopAtHeader.regs = s.regs ∧ s.stopAtHeader.pipe = s.pipe ∧
    s.stopAtHeader.mem = s.mem ∧ s.stopAtHeader.sp = s.sp ∧ s.stopAtHeader.sl = s.sl ∧ s.stopAtHeader.kv = s.kv ∧ s.stopAtHeader.gi = s.gi ∧
    s.stopAtHeader.disp = s.disp ∧ s.stopAtHeader.host = s.host ∧ s.stopAtHeader.pow = s.pow ∧
    s.stopAtHeader.grd = s.grd := ⟨rfl, rfl, rfl, rfl, rfl, rfl, rfl, rfl, rfl, rfl, rfl, rfl⟩

@[simp] theorem State.cutEpochs_frame (s : State) : s.cutEpochs.clk = s.clk ∧ s.cutEpochs.regs = s.regs ∧ s.cutEpochs.pipe = s.pipe ∧
    s.cutEpochs.mem = s.mem ∧ s.cutEpochs.sp = s.sp ∧ s.cutEpochs.sl = s.sl ∧ s.cutEpochs.kv = s.kv ∧ s.cutEpochs.gi = s.gi ∧
    s.cutEpochs.disp = s.disp ∧ s.cutEpochs.host = s.host ∧ s.cutEpochs.pow = s.pow ∧ s.cutEpochs.grd = s.grd := by
  unfold State.cutEpochs
  and_intros <;> refine foldl_frame (fun s a => ?_) _ _ <;> simp

@[simp] theorem State.armMonitors_frame (s : State) (id : Nat) (u : BitVec 1) (cond : BitVec 3) (b : Field) (m : MemMod) (lanes : List LaneAcc) :
    (s.armMonitors id u cond b m lanes).clk = s.clk ∧ (s.armMonitors id u cond b m lanes).sch = s.sch ∧
    (s.armMonitors id u cond b m lanes).regs = s.regs ∧ (s.armMonitors id u cond b m lanes).mem = s.mem ∧
    (s.armMonitors id u cond b m lanes).sp = s.sp ∧ (s.armMonitors id u cond b m lanes).sl = s.sl ∧ (s.armMonitors id u cond b m lanes).kv = s.kv ∧
    (s.armMonitors id u cond b m lanes).gi = s.gi ∧ (s.armMonitors id u cond b m lanes).disp = s.disp ∧
    (s.armMonitors id u cond b m lanes).host = s.host ∧ (s.armMonitors id u cond b m lanes).pow = s.pow ∧
    (s.armMonitors id u cond b m lanes).grd = s.grd := by
  unfold State.armMonitors
  and_intros <;> refine foldl_frame (fun s a => ?_) _ _ <;> (repeat' split) <;> simp

@[simp] theorem State.waitOn_frame (s : State) (u : BitVec 1) (cond : BitVec 3) (b : Field) (m : MemMod) (lanes : List LaneAcc) : (s.waitOn u cond
    b m lanes).clk = s.clk ∧ (s.waitOn u cond b m lanes).regs = s.regs ∧ (s.waitOn u cond b m lanes).mem = s.mem ∧
    (s.waitOn u cond b m lanes).sp = s.sp ∧ (s.waitOn u cond b m lanes).sl = s.sl ∧ (s.waitOn u cond b m lanes).kv = s.kv ∧
    (s.waitOn u cond b m lanes).gi = s.gi ∧ (s.waitOn u cond b m lanes).disp = s.disp ∧ (s.waitOn u cond b m lanes).host = s.host ∧
    (s.waitOn u cond b m lanes).pow = s.pow ∧ (s.waitOn u cond b m lanes).grd = s.grd := by
  unfold State.waitOn
  dsimp only
  (repeat' split) <;> simp

@[simp] theorem State.releaseFence_frame (s : State) (b c scope : Nat) (girth : Bool) : (s.releaseFence b c scope girth).clk = s.clk ∧
    (s.releaseFence b c scope girth).regs = s.regs ∧ (s.releaseFence b c scope girth).pipe = s.pipe ∧
    (s.releaseFence b c scope girth).mem = s.mem ∧ (s.releaseFence b c scope girth).sp = s.sp ∧ (s.releaseFence b c scope girth).sl = s.sl ∧
    (s.releaseFence b c scope girth).kv = s.kv ∧ (s.releaseFence b c scope girth).gi = s.gi ∧ (s.releaseFence b c scope girth).disp = s.disp ∧
    (s.releaseFence b c scope girth).host = s.host ∧ (s.releaseFence b c scope girth).pow = s.pow ∧
    (s.releaseFence b c scope girth).grd = s.grd := ⟨rfl, rfl, rfl, rfl, rfl, rfl, rfl, rfl, rfl, rfl, rfl, rfl⟩

@[simp] theorem State.promoteAll_frame (s : State) (b c : Nat) : (s.promoteAll b c).clk = s.clk ∧ (s.promoteAll b c).sch = s.sch ∧
    (s.promoteAll b c).pipe = s.pipe ∧ (s.promoteAll b c).mem = s.mem ∧ (s.promoteAll b c).sp = s.sp ∧ (s.promoteAll b c).sl = s.sl ∧
    (s.promoteAll b c).kv = s.kv ∧ (s.promoteAll b c).gi = s.gi ∧ (s.promoteAll b c).disp = s.disp ∧ (s.promoteAll b c).host = s.host ∧
    (s.promoteAll b c).pow = s.pow ∧ (s.promoteAll b c).grd = s.grd := ⟨rfl, rfl, rfl, rfl, rfl, rfl, rfl, rfl, rfl, rfl, rfl, rfl⟩

@[simp] theorem State.reservePanel_frame (s : State) (b : Nat) (p : Panel) : (s.reservePanel b p).1.clk = s.clk ∧
    (s.reservePanel b p).1.sch = s.sch ∧ (s.reservePanel b p).1.regs = s.regs ∧ (s.reservePanel b p).1.mem = s.mem ∧
    (s.reservePanel b p).1.sl = s.sl ∧ (s.reservePanel b p).1.kv = s.kv ∧ (s.reservePanel b p).1.gi = s.gi ∧ (s.reservePanel b p).1.disp = s.disp ∧
    (s.reservePanel b p).1.host = s.host ∧ (s.reservePanel b p).1.pow = s.pow ∧ (s.reservePanel b p).1.grd = s.grd := by
  unfold State.reservePanel
  dsimp only
  (repeat' split) <;> simp

@[simp] theorem State.pushEntry_frame (s : State) (b qtr q crew : Nat) (data : List Byte) (bad : Bool) : (s.pushEntry b qtr q crew data bad).clk =
    s.clk ∧ (s.pushEntry b qtr q crew data bad).sch = s.sch ∧ (s.pushEntry b qtr q crew data bad).regs = s.regs ∧
    (s.pushEntry b qtr q crew data bad).mem = s.mem ∧ (s.pushEntry b qtr q crew data bad).sl = s.sl ∧
    (s.pushEntry b qtr q crew data bad).kv = s.kv ∧ (s.pushEntry b qtr q crew data bad).gi = s.gi ∧
    (s.pushEntry b qtr q crew data bad).disp = s.disp ∧ (s.pushEntry b qtr q crew data bad).host = s.host ∧
    (s.pushEntry b qtr q crew data bad).pow = s.pow ∧
    (s.pushEntry b qtr q crew data bad).grd = s.grd := ⟨rfl, rfl, rfl, rfl, rfl, rfl, rfl, rfl, rfl, rfl, rfl⟩

@[simp] theorem State.queueTrap_frame (s : State) (words : Nat) (bound : Bool) : (s.queueTrap words bound).clk = s.clk ∧
    (s.queueTrap words bound).regs = s.regs ∧ (s.queueTrap words bound).mem = s.mem ∧ (s.queueTrap words bound).sp = s.sp ∧
    (s.queueTrap words bound).sl = s.sl ∧ (s.queueTrap words bound).kv = s.kv ∧ (s.queueTrap words bound).host = s.host ∧
    (s.queueTrap words bound).pow = s.pow := by simp [State.queueTrap]

@[simp] theorem State.setTile_frame (s : State) (i : Nat) (rows : List (List Nat)) : (s.setTile i rows).clk = s.clk ∧
    (s.setTile i rows).sch = s.sch ∧ (s.setTile i rows).pipe = s.pipe ∧ (s.setTile i rows).mem = s.mem ∧ (s.setTile i rows).sp = s.sp ∧
    (s.setTile i rows).sl = s.sl ∧ (s.setTile i rows).kv = s.kv ∧ (s.setTile i rows).gi = s.gi ∧ (s.setTile i rows).disp = s.disp ∧
    (s.setTile i rows).host = s.host ∧ (s.setTile i rows).pow = s.pow ∧
    (s.setTile i rows).grd = s.grd := ⟨rfl, rfl, rfl, rfl, rfl, rfl, rfl, rfl, rfl, rfl, rfl, rfl⟩

@[simp] theorem State.aload_frame (s : State) (d : Nat) (ka : Nat) (m : AloadMod) : (s.aload d ka m).clk = s.clk ∧ (s.aload d ka m).regs = s.regs ∧
    (s.aload d ka m).mem = s.mem ∧ (s.aload d ka m).sp = s.sp ∧ (s.aload d ka m).sl = s.sl ∧ (s.aload d ka m).kv = s.kv ∧
    (s.aload d ka m).host = s.host ∧ (s.aload d ka m).pow = s.pow := by
  unfold State.aload
  dsimp only
  (repeat' split) <;> simp

@[simp] theorem State.promoteOne_frame (s : State) (i : Nat) : (s.promoteOne i).clk = s.clk ∧ (s.promoteOne i).sch = s.sch ∧
    (s.promoteOne i).pipe = s.pipe ∧ (s.promoteOne i).mem = s.mem ∧ (s.promoteOne i).sp = s.sp ∧ (s.promoteOne i).sl = s.sl ∧
    (s.promoteOne i).kv = s.kv ∧ (s.promoteOne i).gi = s.gi ∧ (s.promoteOne i).disp = s.disp ∧ (s.promoteOne i).host = s.host ∧
    (s.promoteOne i).pow = s.pow ∧ (s.promoteOne i).grd = s.grd := by simp [State.promoteOne]

@[simp] theorem State.flagSetb_frame (s : State) : s.flagSetb.clk = s.clk ∧ s.flagSetb.sch = s.sch ∧ s.flagSetb.regs = s.regs ∧
    s.flagSetb.mem = s.mem ∧ s.flagSetb.sp = s.sp ∧ s.flagSetb.sl = s.sl ∧ s.flagSetb.kv = s.kv ∧ s.flagSetb.gi = s.gi ∧ s.flagSetb.disp = s.disp ∧
    s.flagSetb.host = s.host ∧ s.flagSetb.pow = s.pow ∧ s.flagSetb.grd = s.grd := ⟨rfl, rfl, rfl, rfl, rfl, rfl, rfl, rfl, rfl, rfl, rfl, rfl⟩

@[simp] theorem State.asMatrix_frame (s : State) (from' : Nat) : (s.asMatrix from').clk = s.clk ∧ (s.asMatrix from').sch = s.sch ∧
    (s.asMatrix from').regs = s.regs ∧ (s.asMatrix from').mem = s.mem ∧ (s.asMatrix from').sp = s.sp ∧ (s.asMatrix from').sl = s.sl ∧
    (s.asMatrix from').kv = s.kv ∧ (s.asMatrix from').gi = s.gi ∧ (s.asMatrix from').disp = s.disp ∧ (s.asMatrix from').host = s.host ∧
    (s.asMatrix from').pow = s.pow ∧ (s.asMatrix from').grd = s.grd := ⟨rfl, rfl, rfl, rfl, rfl, rfl, rfl, rfl, rfl, rfl, rfl, rfl⟩

@[simp] theorem State.astoreSpad_frame (s : State) (d a b : Field) (m : AstoreMod) : (s.astoreSpad d a b m).clk = s.clk ∧
    (s.astoreSpad d a b m).sl = s.sl ∧ (s.astoreSpad d a b m).kv = s.kv ∧ (s.astoreSpad d a b m).host = s.host ∧
    (s.astoreSpad d a b m).pow = s.pow := by
  unfold State.astoreSpad
  dsimp only
  (repeat' split) <;> simp

@[simp] theorem State.astoreSpad_cells (s : State) (d a b : Field) (m : AstoreMod) : (s.astoreSpad d a b m).mem.cells = s.mem.cells := by
  unfold State.astoreSpad
  dsimp only
  (repeat' split) <;> simp

@[simp] theorem State.afterRead_frame (s : State) (first : Nat) (acq : Bool) (words : Nat) : (s.afterRead first acq words).clk = s.clk ∧
    (s.afterRead first acq words).regs = s.regs ∧ (s.afterRead first acq words).pipe = s.pipe ∧ (s.afterRead first acq words).mem = s.mem ∧
    (s.afterRead first acq words).sp = s.sp ∧ (s.afterRead first acq words).sl = s.sl ∧ (s.afterRead first acq words).kv = s.kv ∧
    (s.afterRead first acq words).gi = s.gi ∧ (s.afterRead first acq words).disp = s.disp ∧ (s.afterRead first acq words).host = s.host ∧
    (s.afterRead first acq words).pow = s.pow ∧ (s.afterRead first acq words).grd = s.grd := by
  unfold State.afterRead
  (repeat' split) <;> simp

@[simp] theorem State.startLoad_frame (s : State) (d : Field) (w ep : Nat) (sx : Bool) (m : MemMod) (lanes : List LaneAcc) (oob : List Member) :
    (s.startLoad d w ep sx m lanes oob).clk = s.clk ∧ (s.startLoad d w ep sx m lanes oob).regs = s.regs ∧
    (s.startLoad d w ep sx m lanes oob).mem = s.mem ∧ (s.startLoad d w ep sx m lanes oob).sp = s.sp ∧
    (s.startLoad d w ep sx m lanes oob).sl = s.sl ∧ (s.startLoad d w ep sx m lanes oob).kv = s.kv ∧ (s.startLoad d w ep sx m lanes oob).gi = s.gi ∧
    (s.startLoad d w ep sx m lanes oob).disp = s.disp ∧ (s.startLoad d w ep sx m lanes oob).host = s.host ∧
    (s.startLoad d w ep sx m lanes oob).pow = s.pow ∧ (s.startLoad d w ep sx m lanes oob).grd = s.grd := by
  unfold State.startLoad
  dsimp only
  rw [State.afterRead]
  split <;> simp <;> and_intros <;> exact foldl_frame (fun t c => by simp) _ _

@[simp] theorem State.recldK_frame (s : State) (a : Field) (n : Nat) : (s.recldK a n).clk = s.clk ∧ (s.recldK a n).regs = s.regs ∧
    (s.recldK a n).mem = s.mem ∧ (s.recldK a n).sl = s.sl ∧ (s.recldK a n).kv = s.kv ∧ (s.recldK a n).host = s.host ∧
    (s.recldK a n).pow = s.pow := by
  unfold State.recldK
  dsimp only
  (repeat' split) <;> simp

@[simp] theorem State.atomLane_frame (s : State) (f : AtomForm) (inst pend wt : Nat) (pol : Word) (a : LaneAcc) (args : Nat × Nat) : (s.atomLane f
    inst pend wt pol a args).clk = s.clk ∧ (s.atomLane f inst pend wt pol a args).sch = s.sch ∧
    (s.atomLane f inst pend wt pol a args).regs = s.regs ∧ (s.atomLane f inst pend wt pol a args).mem = s.mem ∧
    (s.atomLane f inst pend wt pol a args).sp = s.sp ∧ (s.atomLane f inst pend wt pol a args).sl = s.sl ∧
    (s.atomLane f inst pend wt pol a args).kv = s.kv ∧ (s.atomLane f inst pend wt pol a args).gi = s.gi ∧
    (s.atomLane f inst pend wt pol a args).disp = s.disp ∧ (s.atomLane f inst pend wt pol a args).host = s.host ∧
    (s.atomLane f inst pend wt pol a args).pow = s.pow ∧ (s.atomLane f inst pend wt pol a args).grd = s.grd := by
  unfold State.atomLane
  dsimp only
  (repeat' split) <;> simp

@[simp] theorem State.emptyOp_frame (s : State) (flag words : Nat) (seta : Bool) : (s.emptyOp flag words seta).clk = s.clk ∧
    (s.emptyOp flag words seta).regs = s.regs ∧ (s.emptyOp flag words seta).mem = s.mem ∧ (s.emptyOp flag words seta).sp = s.sp ∧
    (s.emptyOp flag words seta).sl = s.sl ∧ (s.emptyOp flag words seta).kv = s.kv ∧ (s.emptyOp flag words seta).gi = s.gi ∧
    (s.emptyOp flag words seta).disp = s.disp ∧ (s.emptyOp flag words seta).host = s.host ∧ (s.emptyOp flag words seta).pow = s.pow ∧
    (s.emptyOp flag words seta).grd = s.grd := ⟨rfl, rfl, rfl, rfl, rfl, rfl, rfl, rfl, rfl, rfl, rfl⟩

@[simp] theorem State.sendContract_frame (s : State) (d : Field) (op : SeqOp) : (s.sendContract d op).clk = s.clk ∧
    (s.sendContract d op).regs = s.regs ∧ (s.sendContract d op).mem = s.mem ∧ (s.sendContract d op).sp = s.sp ∧ (s.sendContract d op).kv = s.kv ∧
    (s.sendContract d op).gi = s.gi ∧ (s.sendContract d op).disp = s.disp ∧ (s.sendContract d op).host = s.host ∧
    (s.sendContract d op).pow = s.pow ∧ (s.sendContract d op).grd = s.grd := ⟨rfl, rfl, rfl, rfl, rfl, rfl, rfl, rfl, rfl, rfl⟩

@[simp] theorem State.contract_frame (s : State) (d : Field) (g : Guard) (op : SeqOp) : (s.contract d g op).clk = s.clk ∧
    (s.contract d g op).regs = s.regs ∧ (s.contract d g op).mem = s.mem ∧ (s.contract d g op).sp = s.sp ∧ (s.contract d g op).kv = s.kv ∧
    (s.contract d g op).gi = s.gi ∧ (s.contract d g op).disp = s.disp ∧ (s.contract d g op).host = s.host ∧ (s.contract d g op).pow = s.pow ∧
    (s.contract d g op).grd = s.grd := by
  unfold State.contract
  (repeat' split) <;> simp

end Sys2Proof.Machine

/-!
PROOF (frames): the candidates of the issue stage.
-/
namespace Sys2Proof.Machine

@[simp] theorem State.takeCand_frame (s : State) (c : Cand) : (s.takeCand c).2.clk = s.clk ∧ (s.takeCand c).2.regs = s.regs ∧
    (s.takeCand c).2.pipe = s.pipe ∧ (s.takeCand c).2.mem = s.mem ∧ (s.takeCand c).2.sp = s.sp ∧ (s.takeCand c).2.sl = s.sl ∧
    (s.takeCand c).2.kv = s.kv ∧ (s.takeCand c).2.gi = s.gi ∧ (s.takeCand c).2.disp = s.disp ∧ (s.takeCand c).2.host = s.host ∧
    (s.takeCand c).2.pow = s.pow ∧ (s.takeCand c).2.grd = s.grd := by
  cases c <;> exact ⟨rfl, rfl, rfl, rfl, rfl, rfl, rfl, rfl, rfl, rfl, rfl, rfl⟩

end Sys2Proof.Machine

/-!
PROOF (frames): what the operations of contracts, the issue stage, results, girth and engines leave unchanged.
-/
namespace Sys2Proof.Machine
set_option Elab.async false

@[simp] theorem State.contractPriv_frame (s : State) (d : Field) (g : Guard) (op : SeqOp) : (s.contractPriv d g op).clk = s.clk ∧
    (s.contractPriv d g op).regs = s.regs ∧ (s.contractPriv d g op).mem = s.mem ∧ (s.contractPriv d g op).sp = s.sp ∧
    (s.contractPriv d g op).kv = s.kv ∧ (s.contractPriv d g op).host = s.host ∧ (s.contractPriv d g op).pow = s.pow := by
  unfold State.contractPriv
  (repeat' split) <;> simp

@[simp] theorem State.fork_frame (s : State) (e : Engine) : (s.fork e).clk = s.clk ∧ (s.fork e).sch = s.sch ∧ (s.fork e).regs = s.regs ∧
    (s.fork e).mem = s.mem ∧ (s.fork e).sl = s.sl ∧ (s.fork e).kv = s.kv ∧ (s.fork e).gi = s.gi ∧ (s.fork e).disp = s.disp ∧
    (s.fork e).host = s.host ∧ (s.fork e).pow = s.pow ∧ (s.fork e).grd = s.grd := ⟨rfl, rfl, rfl, rfl, rfl, rfl, rfl, rfl, rfl, rfl, rfl⟩

@[simp] theorem State.kvSend_frame (s : State) (p : Pend) (op : KvOp) : (s.kvSend p op).clk = s.clk ∧ (s.kvSend p op).sch = s.sch ∧
    (s.kvSend p op).regs = s.regs ∧ (s.kvSend p op).mem = s.mem ∧ (s.kvSend p op).sp = s.sp ∧ (s.kvSend p op).sl = s.sl ∧
    (s.kvSend p op).gi = s.gi ∧ (s.kvSend p op).disp = s.disp ∧ (s.kvSend p op).host = s.host ∧ (s.kvSend p op).pow = s.pow ∧
    (s.kvSend p op).grd = s.grd := ⟨rfl, rfl, rfl, rfl, rfl, rfl, rfl, rfl, rfl, rfl, rfl⟩

@[simp] theorem State.kvProt_frame (s : State) (bound : Bool) : (s.kvProt bound).clk = s.clk ∧ (s.kvProt bound).regs = s.regs ∧
    (s.kvProt bound).mem = s.mem ∧ (s.kvProt bound).sp = s.sp ∧ (s.kvProt bound).sl = s.sl ∧ (s.kvProt bound).kv = s.kv ∧
    (s.kvProt bound).host = s.host ∧ (s.kvProt bound).pow = s.pow := by simp [State.kvProt]

@[simp] theorem State.kvapp_frame (s : State) (a : Field) (m : KvMod) : (s.kvapp a m).clk = s.clk ∧ (s.kvapp a m).regs = s.regs ∧
    (s.kvapp a m).mem = s.mem ∧ (s.kvapp a m).sp = s.sp ∧ (s.kvapp a m).pow = s.pow := by
  unfold State.kvapp
  dsimp only
  (repeat' split) <;> simp

@[simp] theorem State.kvapp_featacc (s : State) (a : Field) (m : KvMod) : (s.kvapp a m).host.featacc = s.host.featacc := by
  unfold State.kvapp
  dsimp only
  (repeat' split) <;> simp

@[simp] theorem State.assay_frame (s : State) (d a : Field) (m : KvMod) : (s.assay d a m).clk = s.clk ∧ (s.assay d a m).regs = s.regs ∧
    (s.assay d a m).mem = s.mem ∧ (s.assay d a m).sl = s.sl ∧ (s.assay d a m).kv = s.kv ∧ (s.assay d a m).host = s.host ∧
    (s.assay d a m).pow = s.pow := by
  unfold State.assay
  dsimp only
  (repeat' split) <;> simp

@[simp] theorem State.halveHeats_frame (s : State) : s.halveHeats.clk = s.clk ∧ s.halveHeats.sch = s.sch ∧ s.halveHeats.regs = s.regs ∧
    s.halveHeats.pipe = s.pipe ∧ s.halveHeats.mem = s.mem ∧ s.halveHeats.sp = s.sp ∧ s.halveHeats.sl = s.sl ∧ s.halveHeats.gi = s.gi ∧
    s.halveHeats.disp = s.disp ∧ s.halveHeats.host = s.host ∧ s.halveHeats.pow = s.pow ∧
    s.halveHeats.grd = s.grd := ⟨rfl, rfl, rfl, rfl, rfl, rfl, rfl, rfl, rfl, rfl, rfl, rfl⟩

@[simp] theorem State.settleHeat_frame (s : State) : s.settleHeat.clk = s.clk ∧ s.settleHeat.sch = s.sch ∧ s.settleHeat.regs = s.regs ∧
    s.settleHeat.pipe = s.pipe ∧ s.settleHeat.mem = s.mem ∧ s.settleHeat.sp = s.sp ∧ s.settleHeat.sl = s.sl ∧ s.settleHeat.gi = s.gi ∧
    s.settleHeat.disp = s.disp ∧ s.settleHeat.host = s.host ∧ s.settleHeat.pow = s.pow ∧ s.settleHeat.grd = s.grd := by
  unfold State.settleHeat
  dsimp only
  split
  · simp
  · and_intros <;> dsimp only <;> exact foldl_frame (fun t i => by simp only [State.halveHeats_frame]) _ _

@[simp] theorem State.girthSeg_frame (s : State) : s.girthSeg.clk = s.clk ∧ s.girthSeg.regs = s.regs ∧ s.girthSeg.mem = s.mem ∧
    s.girthSeg.sp = s.sp ∧ s.girthSeg.sl = s.sl ∧ s.girthSeg.kv = s.kv ∧ s.girthSeg.host = s.host ∧
    s.girthSeg.pow = s.pow := by simp [State.girthSeg]

@[simp] theorem State.girthSend_frame (s : State) (p : Pend) (slot : Nat) (act : GirthAct) : (s.girthSend p slot act).clk = s.clk ∧
    (s.girthSend p slot act).regs = s.regs ∧ (s.girthSend p slot act).mem = s.mem ∧ (s.girthSend p slot act).sp = s.sp ∧
    (s.girthSend p slot act).sl = s.sl ∧ (s.girthSend p slot act).kv = s.kv ∧ (s.girthSend p slot act).disp = s.disp ∧
    (s.girthSend p slot act).host = s.host ∧ (s.girthSend p slot act).pow = s.pow ∧ (s.girthSend p slot act).grd = s.grd := by
  unfold State.girthSend
  dsimp only
  (repeat' split) <;> simp

@[simp] theorem State.onSlot_frame (s : State) (a : Field) (g : Guard) (regs : List RegKey) (act : State → GirthAct) : (s.onSlot a g regs act).clk
    = s.clk ∧ (s.onSlot a g regs act).regs = s.regs ∧ (s.onSlot a g regs act).mem = s.mem ∧ (s.onSlot a g regs act).sp = s.sp ∧
    (s.onSlot a g regs act).sl = s.sl ∧ (s.onSlot a g regs act).kv = s.kv ∧ (s.onSlot a g regs act).host = s.host ∧
    (s.onSlot a g regs act).pow = s.pow := by
  unfold State.onSlot
  dsimp only
  (repeat' split) <;> simp

@[simp] theorem State.mapShard_frame (s : State) (id : Nat) (f : ShardRead → ShardRead) : (s.mapShard id f).clk = s.clk ∧
    (s.mapShard id f).sch = s.sch ∧ (s.mapShard id f).regs = s.regs ∧ (s.mapShard id f).mem = s.mem ∧ (s.mapShard id f).sp = s.sp ∧
    (s.mapShard id f).sl = s.sl ∧ (s.mapShard id f).kv = s.kv ∧ (s.mapShard id f).gi = s.gi ∧ (s.mapShard id f).disp = s.disp ∧
    (s.mapShard id f).host = s.host ∧ (s.mapShard id f).pow = s.pow ∧
    (s.mapShard id f).grd = s.grd := ⟨rfl, rfl, rfl, rfl, rfl, rfl, rfl, rfl, rfl, rfl, rfl, rfl⟩

@[simp] theorem State.dropShards_frame (s : State) (w : TdUser) : (s.dropShards w).clk = s.clk ∧ (s.dropShards w).sch = s.sch ∧
    (s.dropShards w).regs = s.regs ∧ (s.dropShards w).mem = s.mem ∧ (s.dropShards w).sp = s.sp ∧ (s.dropShards w).sl = s.sl ∧
    (s.dropShards w).kv = s.kv ∧ (s.dropShards w).gi = s.gi ∧ (s.dropShards w).disp = s.disp ∧ (s.dropShards w).host = s.host ∧
    (s.dropShards w).pow = s.pow ∧ (s.dropShards w).grd = s.grd := ⟨rfl, rfl, rfl, rfl, rfl, rfl, rfl, rfl, rfl, rfl, rfl, rfl⟩

@[simp] theorem State.sendShard_frame (s : State) (w : TdUser) (va : Nat) : (s.sendShard w va).2.clk = s.clk ∧ (s.sendShard w va).2.sch = s.sch ∧
    (s.sendShard w va).2.regs = s.regs ∧ (s.sendShard w va).2.mem = s.mem ∧ (s.sendShard w va).2.sl = s.sl ∧ (s.sendShard w va).2.kv = s.kv ∧
    (s.sendShard w va).2.gi = s.gi ∧ (s.sendShard w va).2.disp = s.disp ∧ (s.sendShard w va).2.host = s.host ∧
    (s.sendShard w va).2.grd = s.grd := by
  unfold State.sendShard
  dsimp only
  (repeat' split) <;> simp

@[simp] theorem State.copyTrap_frame (s : State) (c : Trap) (va : Nat) : (s.copyTrap c va).clk = s.clk ∧ (s.copyTrap c va).regs = s.regs ∧
    (s.copyTrap c va).mem = s.mem ∧ (s.copyTrap c va).sp = s.sp ∧ (s.copyTrap c va).sl = s.sl ∧ (s.copyTrap c va).kv = s.kv ∧
    (s.copyTrap c va).host = s.host ∧ (s.copyTrap c va).pow = s.pow := by simp [State.copyTrap]

@[simp] theorem State.copyTrapFree_frame (s : State) (c : Trap) : (s.copyTrapFree c).regs = s.regs ∧ (s.copyTrapFree c).mem = s.mem ∧
    (s.copyTrapFree c).sp = s.sp ∧ (s.copyTrapFree c).sl = s.sl ∧ (s.copyTrapFree c).kv = s.kv ∧ (s.copyTrapFree c).host = s.host ∧
    (s.copyTrapFree c).pow = s.pow := by simp [State.copyTrapFree]

@[simp] theorem State.shardsDone_frame (s : State) : s.shardsDone.clk = s.clk ∧ s.shardsDone.sch = s.sch ∧ s.shardsDone.regs = s.regs ∧
    s.shardsDone.mem = s.mem ∧ s.shardsDone.sp = s.sp ∧ s.shardsDone.sl = s.sl ∧ s.shardsDone.kv = s.kv ∧ s.shardsDone.gi = s.gi ∧
    s.shardsDone.disp = s.disp ∧ s.shardsDone.host = s.host ∧ s.shardsDone.pow = s.pow ∧
    s.shardsDone.grd = s.grd := ⟨rfl, rfl, rfl, rfl, rfl, rfl, rfl, rfl, rfl, rfl, rfl, rfl⟩

@[simp] theorem State.heatUp_frame (s : State) (ctx p : Nat) : (s.heatUp ctx p).clk = s.clk ∧ (s.heatUp ctx p).sch = s.sch ∧
    (s.heatUp ctx p).regs = s.regs ∧ (s.heatUp ctx p).pipe = s.pipe ∧ (s.heatUp ctx p).mem = s.mem ∧ (s.heatUp ctx p).sp = s.sp ∧
    (s.heatUp ctx p).sl = s.sl ∧ (s.heatUp ctx p).gi = s.gi ∧ (s.heatUp ctx p).disp = s.disp ∧ (s.heatUp ctx p).host = s.host ∧
    (s.heatUp ctx p).pow = s.pow ∧ (s.heatUp ctx p).grd = s.grd := by
  unfold State.heatUp
  dsimp only
  (repeat' split) <;> simp

@[simp] theorem State.watchSync_frame (s : State) (b : Nat) : (s.watchSync b).clk = s.clk ∧ (s.watchSync b).regs = s.regs ∧
    (s.watchSync b).pipe = s.pipe ∧ (s.watchSync b).mem = s.mem ∧ (s.watchSync b).sp = s.sp ∧ (s.watchSync b).sl = s.sl ∧
    (s.watchSync b).kv = s.kv ∧ (s.watchSync b).gi = s.gi ∧ (s.watchSync b).host = s.host ∧ (s.watchSync b).pow = s.pow ∧
    (s.watchSync b).grd = s.grd := by
  unfold State.watchSync
  dsimp only
  (repeat' split) <;> simp

@[simp] theorem State.select_frame (s : State) (u : Bundle) : (s.select u).clk = s.clk ∧ (s.select u).regs = s.regs ∧ (s.select u).pipe = s.pipe ∧
    (s.select u).mem = s.mem ∧ (s.select u).sp = s.sp ∧ (s.select u).sl = s.sl ∧ (s.select u).kv = s.kv ∧ (s.select u).gi = s.gi ∧
    (s.select u).disp = s.disp ∧ (s.select u).host = s.host ∧ (s.select u).pow = s.pow ∧
    (s.select u).grd = s.grd := ⟨rfl, rfl, rfl, rfl, rfl, rfl, rfl, rfl, rfl, rfl, rfl, rfl⟩

@[simp] theorem State.keepCand_frame (s : State) (c : Cand) : (s.keepCand c).clk = s.clk ∧ (s.keepCand c).regs = s.regs ∧
    (s.keepCand c).pipe = s.pipe ∧ (s.keepCand c).mem = s.mem ∧ (s.keepCand c).sp = s.sp ∧ (s.keepCand c).sl = s.sl ∧ (s.keepCand c).kv = s.kv ∧
    (s.keepCand c).gi = s.gi ∧ (s.keepCand c).disp = s.disp ∧ (s.keepCand c).host = s.host ∧ (s.keepCand c).pow = s.pow ∧
    (s.keepCand c).grd = s.grd := by simp [State.keepCand]

@[simp] theorem State.grantTo_frame (s : State) (core qtr : Nat) (e : Cand × Needs) : (s.grantTo core qtr e).clk = s.clk ∧
    (s.grantTo core qtr e).regs = s.regs ∧ (s.grantTo core qtr e).pipe = s.pipe ∧ (s.grantTo core qtr e).mem = s.mem ∧
    (s.grantTo core qtr e).sp = s.sp ∧ (s.grantTo core qtr e).sl = s.sl ∧ (s.grantTo core qtr e).kv = s.kv ∧ (s.grantTo core qtr e).gi = s.gi ∧
    (s.grantTo core qtr e).disp = s.disp ∧ (s.grantTo core qtr e).host = s.host ∧ (s.grantTo core qtr e).pow = s.pow ∧
    (s.grantTo core qtr e).grd = s.grd := by
  unfold State.grantTo
  dsimp only
  (repeat' split) <;> simp

@[simp] theorem State.issuePicks_frame (s : State) (core qtr : Nat) (p : Picks) : (s.issuePicks core qtr p).clk = s.clk ∧
    (s.issuePicks core qtr p).regs = s.regs ∧ (s.issuePicks core qtr p).pipe = s.pipe ∧ (s.issuePicks core qtr p).mem = s.mem ∧
    (s.issuePicks core qtr p).sp = s.sp ∧ (s.issuePicks core qtr p).sl = s.sl ∧ (s.issuePicks core qtr p).kv = s.kv ∧
    (s.issuePicks core qtr p).gi = s.gi ∧ (s.issuePicks core qtr p).disp = s.disp ∧ (s.issuePicks core qtr p).host = s.host ∧
    (s.issuePicks core qtr p).pow = s.pow ∧ (s.issuePicks core qtr p).grd = s.grd := by
  unfold State.issuePicks
  dsimp only
  (repeat' split) <;> simp

@[simp] theorem State.lbarFree_frame (s : State) (l : Nat) (cs : List Nat) : (s.lbarFree l cs).clk = s.clk ∧ (s.lbarFree l cs).regs = s.regs ∧
    (s.lbarFree l cs).mem = s.mem ∧ (s.lbarFree l cs).sp = s.sp ∧ (s.lbarFree l cs).sl = s.sl ∧ (s.lbarFree l cs).kv = s.kv ∧
    (s.lbarFree l cs).gi = s.gi ∧ (s.lbarFree l cs).disp = s.disp ∧ (s.lbarFree l cs).host = s.host ∧ (s.lbarFree l cs).pow = s.pow ∧
    (s.lbarFree l cs).grd = s.grd := by
  unfold State.lbarFree
  and_intros <;> refine foldl_frame (fun t cl => ?_) _ _ <;> dsimp only <;> refine foldl_frame (fun t b => ?_) _ _ <;> simp

@[simp] theorem State.lbarPlaceable_frame (s : State) (l : Nat) : (s.lbarPlaceable l).clk = s.clk ∧ (s.lbarPlaceable l).sch = s.sch ∧
    (s.lbarPlaceable l).regs = s.regs ∧ (s.lbarPlaceable l).pipe = s.pipe ∧ (s.lbarPlaceable l).mem = s.mem ∧ (s.lbarPlaceable l).sp = s.sp ∧
    (s.lbarPlaceable l).sl = s.sl ∧ (s.lbarPlaceable l).kv = s.kv ∧ (s.lbarPlaceable l).gi = s.gi ∧ (s.lbarPlaceable l).host = s.host ∧
    (s.lbarPlaceable l).pow = s.pow ∧ (s.lbarPlaceable l).grd = s.grd := by
  unfold State.lbarPlaceable
  and_intros <;> refine foldl_frame (fun s a => ?_) _ _ <;> simp

@[simp] theorem State.trapBundle_frame (s : State) (i : Nat) (info : TrapInfo) : (s.trapBundle i info).clk = s.clk ∧
    (s.trapBundle i info).regs = s.regs ∧ (s.trapBundle i info).mem = s.mem ∧ (s.trapBundle i info).sp = s.sp ∧ (s.trapBundle i info).sl = s.sl ∧
    (s.trapBundle i info).kv = s.kv ∧ (s.trapBundle i info).host = s.host ∧ (s.trapBundle i info).pow = s.pow := by
  unfold State.trapBundle
  dsimp only
  (repeat' split) <;> simp

@[simp] theorem State.trapPend_frame (s : State) (id : Nat) (info : TrapInfo) : (s.trapPend id info).clk = s.clk ∧
    (s.trapPend id info).regs = s.regs ∧ (s.trapPend id info).mem = s.mem ∧ (s.trapPend id info).sp = s.sp ∧ (s.trapPend id info).sl = s.sl ∧
    (s.trapPend id info).kv = s.kv ∧ (s.trapPend id info).host = s.host ∧ (s.trapPend id info).pow = s.pow := by
  unfold State.trapPend
  and_intros <;> refine foldl_frame (fun s a => ?_) _ _ <;> (repeat' split) <;> simp

@[simp] theorem State.wqLand_frame (s : State) (q : WqOp) (ws : List RegWr) (took poisoned : Bool) : (s.wqLand q ws took poisoned).clk = s.clk ∧
    (s.wqLand q ws took poisoned).sch = s.sch ∧ (s.wqLand q ws took poisoned).regs = s.regs ∧ (s.wqLand q ws took poisoned).mem = s.mem ∧
    (s.wqLand q ws took poisoned).sp = s.sp ∧ (s.wqLand q ws took poisoned).sl = s.sl ∧ (s.wqLand q ws took poisoned).kv = s.kv ∧
    (s.wqLand q ws took poisoned).gi = s.gi ∧ (s.wqLand q ws took poisoned).disp = s.disp ∧ (s.wqLand q ws took poisoned).host = s.host ∧
    (s.wqLand q ws took poisoned).pow = s.pow ∧
    (s.wqLand q ws took poisoned).grd = s.grd := ⟨rfl, rfl, rfl, rfl, rfl, rfl, rfl, rfl, rfl, rfl, rfl, rfl⟩

@[simp] theorem State.wqWait_frame (s : State) (q : WqOp) : (s.wqWait q).clk = s.clk ∧ (s.wqWait q).sch = s.sch ∧ (s.wqWait q).regs = s.regs ∧
    (s.wqWait q).pipe = s.pipe ∧ (s.wqWait q).mem = s.mem ∧ (s.wqWait q).sp = s.sp ∧ (s.wqWait q).sl = s.sl ∧ (s.wqWait q).kv = s.kv ∧
    (s.wqWait q).gi = s.gi ∧ (s.wqWait q).host = s.host ∧ (s.wqWait q).pow = s.pow ∧
    (s.wqWait q).grd = s.grd := ⟨rfl, rfl, rfl, rfl, rfl, rfl, rfl, rfl, rfl, rfl, rfl, rfl⟩

@[simp] theorem State.cancelNow_frame (s : State) (ctx kind id : Nat) : (s.cancelNow ctx kind id).clk = s.clk ∧
    (s.cancelNow ctx kind id).regs = s.regs ∧ (s.cancelNow ctx kind id).pipe = s.pipe ∧ (s.cancelNow ctx kind id).mem = s.mem ∧
    (s.cancelNow ctx kind id).sp = s.sp ∧ (s.cancelNow ctx kind id).sl = s.sl ∧ (s.cancelNow ctx kind id).kv = s.kv ∧
    (s.cancelNow ctx kind id).gi = s.gi ∧ (s.cancelNow ctx kind id).host = s.host ∧ (s.cancelNow ctx kind id).pow = s.pow ∧
    (s.cancelNow ctx kind id).grd = s.grd := by
  unfold State.cancelNow
  and_intros <;> dsimp only <;> exact foldl_frame (fun t l => by simp) _ _

@[simp] theorem State.stopDone_frame (s : State) (b : Nat) : (s.stopDone b).clk = s.clk ∧ (s.stopDone b).mem = s.mem ∧ (s.stopDone b).sl = s.sl ∧
    (s.stopDone b).kv = s.kv ∧ (s.stopDone b).host = s.host ∧ (s.stopDone b).pow = s.pow := by simp [State.stopDone]

@[simp] theorem State.ticked_frame (s : State) : s.ticked.sch = s.sch ∧ s.ticked.regs = s.regs ∧ s.ticked.pipe = s.pipe ∧ s.ticked.mem = s.mem ∧
    s.ticked.sp = s.sp ∧ s.ticked.sl = s.sl ∧ s.ticked.kv = s.kv ∧ s.ticked.gi = s.gi ∧ s.ticked.disp = s.disp ∧ s.ticked.host = s.host ∧
    s.ticked.pow = s.pow ∧ s.ticked.grd = s.grd := ⟨rfl, rfl, rfl, rfl, rfl, rfl, rfl, rfl, rfl, rfl, rfl, rfl⟩

@[simp] theorem State.noteIssue_frame (s : State) (u : Bundle) : (s.noteIssue u).clk = s.clk ∧ (s.noteIssue u).regs = s.regs ∧
    (s.noteIssue u).pipe = s.pipe ∧ (s.noteIssue u).mem = s.mem ∧ (s.noteIssue u).sp = s.sp ∧ (s.noteIssue u).sl = s.sl ∧
    (s.noteIssue u).kv = s.kv ∧ (s.noteIssue u).gi = s.gi ∧ (s.noteIssue u).host = s.host ∧ (s.noteIssue u).pow = s.pow ∧
    (s.noteIssue u).grd = s.grd := by
  unfold State.noteIssue
  dsimp only
  (repeat' split) <;> simp

@[simp] theorem State.stepHalt_frame (s : State) (u : Bundle) (c : Nat) : (s.stepHalt u c).clk = s.clk ∧ (s.stepHalt u c).regs = s.regs ∧
    (s.stepHalt u c).pipe = s.pipe ∧ (s.stepHalt u c).mem = s.mem ∧ (s.stepHalt u c).sp = s.sp ∧ (s.stepHalt u c).sl = s.sl ∧
    (s.stepHalt u c).kv = s.kv ∧ (s.stepHalt u c).host = s.host ∧ (s.stepHalt u c).pow = s.pow ∧ (s.stepHalt u c).grd = s.grd := by
  unfold State.stepHalt
  dsimp only
  (repeat' split) <;> simp

@[simp] theorem State.stepUsed_frame (s : State) (u : Bundle) : (s.stepUsed u).clk = s.clk ∧ (s.stepUsed u).regs = s.regs ∧
    (s.stepUsed u).pipe = s.pipe ∧ (s.stepUsed u).mem = s.mem ∧ (s.stepUsed u).sp = s.sp ∧ (s.stepUsed u).sl = s.sl ∧ (s.stepUsed u).kv = s.kv ∧
    (s.stepUsed u).pow = s.pow ∧ (s.stepUsed u).grd = s.grd := by
  unfold State.stepUsed
  and_intros <;> refine foldl_frame (fun s a => ?_) _ _ <;> simp

@[simp] theorem State.stepUsed_featacc (s : State) (u : Bundle) : (s.stepUsed u).host.featacc = s.host.featacc := by
  unfold State.stepUsed
  exact foldl_featacc (fun s a => by simp) _ _

@[simp] theorem State.afterInstr_frame (s : State) (u : Bundle) (i : Instr) : (s.afterInstr u i).clk = s.clk ∧ (s.afterInstr u i).regs = s.regs ∧
    (s.afterInstr u i).pipe = s.pipe ∧ (s.afterInstr u i).mem = s.mem ∧ (s.afterInstr u i).sp = s.sp ∧ (s.afterInstr u i).sl = s.sl ∧
    (s.afterInstr u i).kv = s.kv ∧ (s.afterInstr u i).pow = s.pow ∧ (s.afterInstr u i).grd = s.grd := by
  unfold State.afterInstr
  dsimp only
  (repeat' split) <;> simp

@[simp] theorem State.afterInstr_featacc (s : State) (u : Bundle) (i : Instr) : (s.afterInstr u i).host.featacc = s.host.featacc := by
  unfold State.afterInstr
  dsimp only
  (repeat' split) <;> simp

@[simp] theorem State.secondPath_frame (s : State) (faulted : Bool) : (s.secondPath faulted).clk = s.clk ∧ (s.secondPath faulted).regs = s.regs ∧
    (s.secondPath faulted).pipe = s.pipe ∧ (s.secondPath faulted).mem = s.mem ∧ (s.secondPath faulted).sp = s.sp ∧
    (s.secondPath faulted).sl = s.sl ∧ (s.secondPath faulted).kv = s.kv ∧ (s.secondPath faulted).gi = s.gi ∧ (s.secondPath faulted).disp = s.disp ∧
    (s.secondPath faulted).host = s.host ∧ (s.secondPath faulted).pow = s.pow ∧ (s.secondPath faulted).grd = s.grd := by
  unfold State.secondPath
  dsimp only
  (repeat' split) <;> simp

@[simp] theorem State.joinFault_frame (t : State) (u : Bundle) (n : Nat) : (t.joinFault u n).clk = t.clk ∧ (t.joinFault u n).regs = t.regs ∧
    (t.joinFault u n).pipe = t.pipe ∧ (t.joinFault u n).mem = t.mem ∧ (t.joinFault u n).sp = t.sp ∧ (t.joinFault u n).sl = t.sl ∧
    (t.joinFault u n).kv = t.kv ∧ (t.joinFault u n).gi = t.gi ∧ (t.joinFault u n).disp = t.disp ∧ (t.joinFault u n).host = t.host ∧
    (t.joinFault u n).pow = t.pow ∧ (t.joinFault u n).grd = t.grd := by
  unfold State.joinFault
  dsimp only
  (repeat' split) <;> simp

@[simp] theorem literalAct_frame (x : DWord) (d : Field) (g : Guard) (words : Nat) (t : State) : (literalAct x d g words t).clk = t.clk ∧
    (literalAct x d g words t).pipe = t.pipe ∧ (literalAct x d g words t).mem = t.mem ∧ (literalAct x d g words t).sp = t.sp ∧
    (literalAct x d g words t).sl = t.sl ∧ (literalAct x d g words t).kv = t.kv ∧ (literalAct x d g words t).gi = t.gi ∧
    (literalAct x d g words t).disp = t.disp ∧ (literalAct x d g words t).host = t.host ∧ (literalAct x d g words t).pow = t.pow ∧
    (literalAct x d g words t).grd = t.grd := ⟨rfl, rfl, rfl, rfl, rfl, rfl, rfl, rfl, rfl, rfl, rfl⟩

@[simp] theorem State.eccunc_frame (s : State) (b : Nat) (own : Bool) : (s.eccunc b own).clk = s.clk ∧ (s.eccunc b own).regs = s.regs ∧
    (s.eccunc b own).pipe = s.pipe ∧ (s.eccunc b own).mem = s.mem ∧ (s.eccunc b own).sp = s.sp ∧ (s.eccunc b own).sl = s.sl ∧
    (s.eccunc b own).kv = s.kv ∧ (s.eccunc b own).gi = s.gi ∧ (s.eccunc b own).host = s.host ∧ (s.eccunc b own).pow = s.pow := by
  unfold State.eccunc
  (repeat' split) <;> simp

@[simp] theorem State.recheck_frame (s : State) (b : Nat) : (s.recheck b).clk = s.clk ∧ (s.recheck b).regs = s.regs ∧ (s.recheck b).mem = s.mem ∧
    (s.recheck b).sp = s.sp ∧ (s.recheck b).sl = s.sl ∧ (s.recheck b).kv = s.kv ∧ (s.recheck b).gi = s.gi ∧ (s.recheck b).host = s.host ∧
    (s.recheck b).pow = s.pow := by simp [State.recheck]

@[simp] theorem State.resumePend_frame (s : State) (p : Pend) : (s.resumePend p).clk = s.clk ∧ (s.resumePend p).regs = s.regs ∧
    (s.resumePend p).pipe = s.pipe ∧ (s.resumePend p).mem = s.mem ∧ (s.resumePend p).sp = s.sp ∧ (s.resumePend p).sl = s.sl ∧
    (s.resumePend p).kv = s.kv ∧ (s.resumePend p).gi = s.gi ∧ (s.resumePend p).disp = s.disp ∧ (s.resumePend p).host = s.host ∧
    (s.resumePend p).pow = s.pow ∧ (s.resumePend p).grd = s.grd := ⟨rfl, rfl, rfl, rfl, rfl, rfl, rfl, rfl, rfl, rfl, rfl, rfl⟩

@[simp] theorem State.toMirrors_frame (s : State) (p : Pend) (ws : List RegWr) : (s.toMirrors p ws).clk = s.clk ∧ (s.toMirrors p ws).sch = s.sch ∧
    (s.toMirrors p ws).regs = s.regs ∧ (s.toMirrors p ws).mem = s.mem ∧ (s.toMirrors p ws).sp = s.sp ∧ (s.toMirrors p ws).sl = s.sl ∧
    (s.toMirrors p ws).kv = s.kv ∧ (s.toMirrors p ws).gi = s.gi ∧ (s.toMirrors p ws).disp = s.disp ∧ (s.toMirrors p ws).host = s.host ∧
    (s.toMirrors p ws).pow = s.pow := ⟨rfl, rfl, rfl, rfl, rfl, rfl, rfl, rfl, rfl, rfl, rfl⟩

@[simp] theorem State.landWith_frame (s : State) (p : Pend) (ws : List RegWr) : (s.landWith p ws).clk = s.clk ∧ (s.landWith p ws).mem = s.mem ∧
    (s.landWith p ws).sp = s.sp ∧ (s.landWith p ws).sl = s.sl ∧ (s.landWith p ws).kv = s.kv ∧ (s.landWith p ws).gi = s.gi ∧
    (s.landWith p ws).host = s.host ∧ (s.landWith p ws).pow = s.pow := by
  unfold State.landWith
  dsimp only
  (repeat' split) <;> simp

@[simp] theorem State.landRecld_frame (s : State) (p : Pend) (n : Nat) : (s.landRecld p n).clk = s.clk ∧ (s.landRecld p n).mem = s.mem ∧
    (s.landRecld p n).sl = s.sl ∧ (s.landRecld p n).kv = s.kv ∧ (s.landRecld p n).host = s.host ∧ (s.landRecld p n).pow = s.pow := by
  unfold State.landRecld
  dsimp only
  (repeat' split) <;> simp

@[simp] theorem State.badMonitors_frame (s : State) : s.badMonitors.clk = s.clk ∧ s.badMonitors.regs = s.regs ∧ s.badMonitors.mem = s.mem ∧
    s.badMonitors.sp = s.sp ∧ s.badMonitors.sl = s.sl ∧ s.badMonitors.kv = s.kv ∧ s.badMonitors.gi = s.gi ∧ s.badMonitors.host = s.host ∧
    s.badMonitors.pow = s.pow := by
  unfold State.badMonitors
  and_intros <;> refine foldl_frame (fun s a => ?_) _ _ <;> simp

@[simp] theorem State.pollAgain_frame (s : State) (n : Nat) : (s.pollAgain n).clk = s.clk ∧ (s.pollAgain n).sch = s.sch ∧
    (s.pollAgain n).regs = s.regs ∧ (s.pollAgain n).mem = s.mem ∧ (s.pollAgain n).sp = s.sp ∧ (s.pollAgain n).sl = s.sl ∧
    (s.pollAgain n).kv = s.kv ∧ (s.pollAgain n).gi = s.gi ∧ (s.pollAgain n).disp = s.disp ∧ (s.pollAgain n).host = s.host ∧
    (s.pollAgain n).pow = s.pow ∧ (s.pollAgain n).grd = s.grd := by
  unfold State.pollAgain
  dsimp only
  (repeat' split) <;> simp

@[simp] theorem State.serveHere_frame (s : State) (r : Req) : (s.serveHere r).clk = s.clk ∧ (s.serveHere r).regs = s.regs ∧
    (s.serveHere r).sp = s.sp ∧ (s.serveHere r).kv = s.kv ∧ (s.serveHere r).gi = s.gi ∧ (s.serveHere r).disp = s.disp ∧
    (s.serveHere r).pow = s.pow ∧ (s.serveHere r).grd = s.grd := by
  unfold State.serveHere
  dsimp only
  (repeat' split) <;> simp

@[simp] theorem State.serveHere_featacc (s : State) (r : Req) : (s.serveHere r).host.featacc = s.host.featacc := by
  unfold State.serveHere
  dsimp only
  (repeat' split) <;> simp

@[simp] theorem State.joinFill_frame (s : State) (r : Req) : (s.joinFill r).clk = s.clk ∧ (s.joinFill r).sch = s.sch ∧
    (s.joinFill r).regs = s.regs ∧ (s.joinFill r).mem = s.mem ∧ (s.joinFill r).sp = s.sp ∧ (s.joinFill r).sl = s.sl ∧ (s.joinFill r).kv = s.kv ∧
    (s.joinFill r).gi = s.gi ∧ (s.joinFill r).disp = s.disp ∧ (s.joinFill r).host = s.host ∧ (s.joinFill r).pow = s.pow ∧
    (s.joinFill r).grd = s.grd := by
  unfold State.joinFill
  dsimp only
  (repeat' split) <;> simp

@[simp] theorem State.seqApplied_frame (s : State) (id slice : Nat) : (s.seqApplied id slice).clk = s.clk ∧ (s.seqApplied id slice).sch = s.sch ∧
    (s.seqApplied id slice).regs = s.regs ∧ (s.seqApplied id slice).pipe = s.pipe ∧ (s.seqApplied id slice).mem = s.mem ∧
    (s.seqApplied id slice).sp = s.sp ∧ (s.seqApplied id slice).kv = s.kv ∧ (s.seqApplied id slice).gi = s.gi ∧
    (s.seqApplied id slice).disp = s.disp ∧ (s.seqApplied id slice).host = s.host ∧ (s.seqApplied id slice).pow = s.pow ∧
    (s.seqApplied id slice).grd = s.grd := ⟨rfl, rfl, rfl, rfl, rfl, rfl, rfl, rfl, rfl, rfl, rfl, rfl⟩

@[simp] theorem State.walkOver_frame (s : State) (w : Walk) (tr : Option Xlate) : (s.walkOver w tr).clk = s.clk ∧ (s.walkOver w tr).sch = s.sch ∧
    (s.walkOver w tr).regs = s.regs ∧ (s.walkOver w tr).mem = s.mem ∧ (s.walkOver w tr).sp = s.sp ∧ (s.walkOver w tr).sl = s.sl ∧
    (s.walkOver w tr).kv = s.kv ∧ (s.walkOver w tr).gi = s.gi ∧ (s.walkOver w tr).disp = s.disp ∧ (s.walkOver w tr).host = s.host ∧
    (s.walkOver w tr).pow = s.pow ∧ (s.walkOver w tr).grd = s.grd := ⟨rfl, rfl, rfl, rfl, rfl, rfl, rfl, rfl, rfl, rfl, rfl, rfl⟩

@[simp] theorem State.walkFault_frame (s : State) (w : Walk) : (s.walkFault w).clk = s.clk ∧ (s.walkFault w).sch = s.sch ∧
    (s.walkFault w).regs = s.regs ∧ (s.walkFault w).mem = s.mem ∧ (s.walkFault w).sp = s.sp ∧ (s.walkFault w).sl = s.sl ∧
    (s.walkFault w).kv = s.kv ∧ (s.walkFault w).gi = s.gi ∧ (s.walkFault w).disp = s.disp ∧ (s.walkFault w).host = s.host ∧
    (s.walkFault w).pow = s.pow ∧ (s.walkFault w).grd = s.grd := by
  unfold State.walkFault
  dsimp only
  (repeat' split) <;> simp

@[simp] theorem State.walkInstall_frame (s : State) (w : Walk) (x : Xlate) : (s.walkInstall w x).clk = s.clk ∧ (s.walkInstall w x).sch = s.sch ∧
    (s.walkInstall w x).regs = s.regs ∧ (s.walkInstall w x).mem = s.mem ∧ (s.walkInstall w x).sp = s.sp ∧ (s.walkInstall w x).sl = s.sl ∧
    (s.walkInstall w x).kv = s.kv ∧ (s.walkInstall w x).gi = s.gi ∧ (s.walkInstall w x).disp = s.disp ∧ (s.walkInstall w x).host = s.host ∧
    (s.walkInstall w x).pow = s.pow ∧ (s.walkInstall w x).grd = s.grd := ⟨rfl, rfl, rfl, rfl, rfl, rfl, rfl, rfl, rfl, rfl, rfl, rfl⟩

@[simp] theorem State.carryPoison_frame (s : State) (pa : Nat) (bs : List (Byte × Bool)) : (s.carryPoison pa bs).clk = s.clk ∧
    (s.carryPoison pa bs).sch = s.sch ∧ (s.carryPoison pa bs).regs = s.regs ∧ (s.carryPoison pa bs).pipe = s.pipe ∧
    (s.carryPoison pa bs).sp = s.sp ∧ (s.carryPoison pa bs).sl = s.sl ∧ (s.carryPoison pa bs).kv = s.kv ∧ (s.carryPoison pa bs).gi = s.gi ∧
    (s.carryPoison pa bs).disp = s.disp ∧ (s.carryPoison pa bs).host = s.host ∧ (s.carryPoison pa bs).pow = s.pow ∧
    (s.carryPoison pa bs).grd = s.grd := ⟨rfl, rfl, rfl, rfl, rfl, rfl, rfl, rfl, rfl, rfl, rfl, rfl⟩

@[simp] theorem State.carryPoison_cells (s : State) (pa : Nat) (bs : List (Byte × Bool)) : (s.carryPoison pa bs).mem.cells = s.mem.cells := rfl

@[simp] theorem State.carryHome_frame (s : State) (slice pa : Nat) (bs : List (Byte × Bool)) : (s.carryHome slice pa bs).clk = s.clk ∧
    (s.carryHome slice pa bs).sch = s.sch ∧ (s.carryHome slice pa bs).regs = s.regs ∧ (s.carryHome slice pa bs).pipe = s.pipe ∧
    (s.carryHome slice pa bs).sp = s.sp ∧ (s.carryHome slice pa bs).kv = s.kv ∧ (s.carryHome slice pa bs).gi = s.gi ∧
    (s.carryHome slice pa bs).disp = s.disp ∧ (s.carryHome slice pa bs).host = s.host ∧ (s.carryHome slice pa bs).pow = s.pow ∧
    (s.carryHome slice pa bs).grd = s.grd := by simp [State.carryHome]

@[simp] theorem State.carryHome_cells (s : State) (slice pa : Nat) (bs : List (Byte × Bool)) : (s.carryHome slice pa bs).mem.cells = s.mem.cells :=
    by simp [State.carryHome]

@[simp] theorem State.engPut_frame (s : State) (e : Engine) (pa : Nat) (bs : List (Byte × Bool)) : (s.engPut e pa bs).clk = s.clk ∧
    (s.engPut e pa bs).sch = s.sch ∧ (s.engPut e pa bs).regs = s.regs ∧ (s.engPut e pa bs).pipe = s.pipe ∧ (s.engPut e pa bs).sp = s.sp ∧
    (s.engPut e pa bs).kv = s.kv ∧ (s.engPut e pa bs).gi = s.gi ∧ (s.engPut e pa bs).disp = s.disp ∧ (s.engPut e pa bs).host = s.host ∧
    (s.engPut e pa bs).pow = s.pow ∧ (s.engPut e pa bs).grd = s.grd := by
  unfold State.engPut
  (repeat' split) <;> simp

@[simp] theorem State.engPuts_frame (s : State) (e : Engine) (dst : List (Option Nat)) (bs : List (Byte × Bool)) : (s.engPuts e dst bs).clk = s.clk
    ∧ (s.engPuts e dst bs).sch = s.sch ∧ (s.engPuts e dst bs).regs = s.regs ∧ (s.engPuts e dst bs).pipe = s.pipe ∧ (s.engPuts e dst bs).sp = s.sp ∧
    (s.engPuts e dst bs).kv = s.kv ∧ (s.engPuts e dst bs).gi = s.gi ∧ (s.engPuts e dst bs).disp = s.disp ∧ (s.engPuts e dst bs).host = s.host ∧
    (s.engPuts e dst bs).pow = s.pow ∧ (s.engPuts e dst bs).grd = s.grd := by
  unfold State.engPuts
  and_intros <;> refine foldl_frame (fun t line => ?_) _ _ <;> dsimp only <;> (
    split
    · rfl
    · split
      · simp only [State.engPut_frame]
      · exact foldl_frame (fun t x => by simp only [State.engPut_frame]) _ _)

@[simp] theorem State.linesWritten_frame (s : State) (ls : List (Nat × Nat)) : (s.linesWritten ls).clk = s.clk ∧
    (s.linesWritten ls).regs = s.regs ∧ (s.linesWritten ls).sp = s.sp ∧ (s.linesWritten ls).kv = s.kv ∧ (s.linesWritten ls).gi = s.gi ∧
    (s.linesWritten ls).disp = s.disp ∧ (s.linesWritten ls).pow = s.pow ∧ (s.linesWritten ls).grd = s.grd := by
  unfold State.linesWritten
  and_intros <;> exact (foldl_frame (fun t x => by simp only [State.monWrite_frame]) _ _).trans (by simp only [State.arrayWrites_frame])

@[simp] theorem State.linesWritten_featacc (s : State) (ls : List (Nat × Nat)) : (s.linesWritten ls).host.featacc = s.host.featacc := by
  unfold State.linesWritten
  exact (foldl_featacc (fun t x => by simp only [State.monWrite_featacc]) _ _).trans (by simp only [State.arrayWrites_featacc])

@[simp] theorem State.linesWritten_cells (s : State) (ls : List (Nat × Nat)) : (s.linesWritten ls).mem.cells = s.mem.cells := by
  unfold State.linesWritten
  exact (foldl_cells _ _ (fun t x => by simp) _).trans (by simp)

@[simp] theorem State.landLine_frame (s : State) (b off : Nat) : (s.landLine b off).clk = s.clk ∧ (s.landLine b off).sch = s.sch ∧
    (s.landLine b off).regs = s.regs ∧ (s.landLine b off).pipe = s.pipe ∧ (s.landLine b off).mem = s.mem ∧ (s.landLine b off).sl = s.sl ∧
    (s.landLine b off).kv = s.kv ∧ (s.landLine b off).gi = s.gi ∧ (s.landLine b off).disp = s.disp ∧ (s.landLine b off).host = s.host ∧
    (s.landLine b off).pow = s.pow ∧ (s.landLine b off).grd = s.grd := ⟨rfl, rfl, rfl, rfl, rfl, rfl, rfl, rfl, rfl, rfl, rfl, rfl⟩

@[simp] theorem State.landEntry_frame (s : State) (b : Nat) (p : Panel) (id : Nat) (data : List Byte) (bad : Bool) : (s.landEntry b p id data
    bad).clk = s.clk ∧ (s.landEntry b p id data bad).sch = s.sch ∧ (s.landEntry b p id data bad).regs = s.regs ∧
    (s.landEntry b p id data bad).pipe = s.pipe ∧ (s.landEntry b p id data bad).mem = s.mem ∧ (s.landEntry b p id data bad).sl = s.sl ∧
    (s.landEntry b p id data bad).kv = s.kv ∧ (s.landEntry b p id data bad).gi = s.gi ∧ (s.landEntry b p id data bad).disp = s.disp ∧
    (s.landEntry b p id data bad).host = s.host ∧ (s.landEntry b p id data bad).pow = s.pow ∧
    (s.landEntry b p id data bad).grd = s.grd := ⟨rfl, rfl, rfl, rfl, rfl, rfl, rfl, rfl, rfl, rfl, rfl, rfl⟩

@[simp] theorem State.dropEntries_frame (s : State) (b : Nat) (ps : List Panel) : (s.dropEntries b ps).clk = s.clk ∧
    (s.dropEntries b ps).sch = s.sch ∧ (s.dropEntries b ps).regs = s.regs ∧ (s.dropEntries b ps).pipe = s.pipe ∧ (s.dropEntries b ps).mem = s.mem ∧
    (s.dropEntries b ps).sl = s.sl ∧ (s.dropEntries b ps).kv = s.kv ∧ (s.dropEntries b ps).gi = s.gi ∧ (s.dropEntries b ps).disp = s.disp ∧
    (s.dropEntries b ps).host = s.host ∧ (s.dropEntries b ps).pow = s.pow ∧ (s.dropEntries b ps).grd = s.grd := by
  unfold State.dropEntries
  and_intros <;> refine foldl_frame (fun s a => ?_) _ _ <;> simp

@[simp] theorem State.dropRows_frame (s : State) (ctx p : Nat) : (s.dropRows ctx p).clk = s.clk ∧ (s.dropRows ctx p).sch = s.sch ∧
    (s.dropRows ctx p).regs = s.regs ∧ (s.dropRows ctx p).pipe = s.pipe ∧ (s.dropRows ctx p).sp = s.sp ∧ (s.dropRows ctx p).sl = s.sl ∧
    (s.dropRows ctx p).gi = s.gi ∧ (s.dropRows ctx p).disp = s.disp ∧ (s.dropRows ctx p).host = s.host ∧ (s.dropRows ctx p).pow = s.pow ∧
    (s.dropRows ctx p).grd = s.grd := ⟨rfl, rfl, rfl, rfl, rfl, rfl, rfl, rfl, rfl, rfl, rfl⟩

@[simp] theorem State.dropRows_cells (s : State) (ctx p : Nat) : (s.dropRows ctx p).mem.cells = s.mem.cells := rfl

@[simp] theorem State.dropHall_frame (s : State) (ctx p : Nat) : (s.dropHall ctx p).clk = s.clk ∧ (s.dropHall ctx p).sch = s.sch ∧
    (s.dropHall ctx p).regs = s.regs ∧ (s.dropHall ctx p).pipe = s.pipe ∧ (s.dropHall ctx p).mem = s.mem ∧ (s.dropHall ctx p).sp = s.sp ∧
    (s.dropHall ctx p).sl = s.sl ∧ (s.dropHall ctx p).gi = s.gi ∧ (s.dropHall ctx p).disp = s.disp ∧ (s.dropHall ctx p).host = s.host ∧
    (s.dropHall ctx p).pow = s.pow ∧ (s.dropHall ctx p).grd = s.grd := ⟨rfl, rfl, rfl, rfl, rfl, rfl, rfl, rfl, rfl, rfl, rfl, rfl⟩

@[simp] theorem State.freePage_frame (s : State) (ctx p : Nat) : (s.freePage ctx p).clk = s.clk ∧ (s.freePage ctx p).sch = s.sch ∧
    (s.freePage ctx p).regs = s.regs ∧ (s.freePage ctx p).pipe = s.pipe ∧ (s.freePage ctx p).sp = s.sp ∧ (s.freePage ctx p).sl = s.sl ∧
    (s.freePage ctx p).gi = s.gi ∧ (s.freePage ctx p).disp = s.disp ∧ (s.freePage ctx p).host = s.host ∧ (s.freePage ctx p).pow = s.pow ∧
    (s.freePage ctx p).grd = s.grd := ⟨rfl, rfl, rfl, rfl, rfl, rfl, rfl, rfl, rfl, rfl, rfl⟩

@[simp] theorem State.freePage_cells (s : State) (ctx p : Nat) : (s.freePage ctx p).mem.cells = s.mem.cells := rfl

@[simp] theorem State.setElems_frame (s : State) (ctx p k : Nat) (row : List (BitVec 16)) : (s.setElems ctx p k row).clk = s.clk ∧
    (s.setElems ctx p k row).sch = s.sch ∧ (s.setElems ctx p k row).regs = s.regs ∧ (s.setElems ctx p k row).pipe = s.pipe ∧
    (s.setElems ctx p k row).sp = s.sp ∧ (s.setElems ctx p k row).sl = s.sl ∧ (s.setElems ctx p k row).gi = s.gi ∧
    (s.setElems ctx p k row).disp = s.disp ∧ (s.setElems ctx p k row).host = s.host ∧ (s.setElems ctx p k row).pow = s.pow ∧
    (s.setElems ctx p k row).grd = s.grd := ⟨rfl, rfl, rfl, rfl, rfl, rfl, rfl, rfl, rfl, rfl, rfl⟩

@[simp] theorem State.setElems_cells (s : State) (ctx p k : Nat) (row : List (BitVec 16)) : (s.setElems ctx p k row).mem.cells = s.mem.cells := rfl

@[simp] theorem State.moved_frame (s : State) (ctx p : Nat) : (s.moved ctx p).clk = s.clk ∧ (s.moved ctx p).sch = s.sch ∧
    (s.moved ctx p).regs = s.regs ∧ (s.moved ctx p).pipe = s.pipe ∧ (s.moved ctx p).sp = s.sp ∧ (s.moved ctx p).sl = s.sl ∧
    (s.moved ctx p).gi = s.gi ∧ (s.moved ctx p).disp = s.disp ∧ (s.moved ctx p).host = s.host ∧ (s.moved ctx p).pow = s.pow ∧
    (s.moved ctx p).grd = s.grd := by
  unfold State.moved
  dsimp only
  (repeat' split) <;> simp

@[simp] theorem State.moved_cells (s : State) (ctx p : Nat) : (s.moved ctx p).mem.cells = s.mem.cells := by
  unfold State.moved
  dsimp only
  (repeat' split) <;> simp

@[simp] theorem State.beginMove_frame (s : State) (ctx p : Nat) (x : KvPage) : (s.beginMove ctx p x).clk = s.clk ∧
    (s.beginMove ctx p x).sch = s.sch ∧ (s.beginMove ctx p x).regs = s.regs ∧ (s.beginMove ctx p x).pipe = s.pipe ∧
    (s.beginMove ctx p x).mem = s.mem ∧ (s.beginMove ctx p x).sp = s.sp ∧ (s.beginMove ctx p x).sl = s.sl ∧ (s.beginMove ctx p x).gi = s.gi ∧
    (s.beginMove ctx p x).disp = s.disp ∧ (s.beginMove ctx p x).host = s.host ∧ (s.beginMove ctx p x).pow = s.pow ∧
    (s.beginMove ctx p x).grd = s.grd := ⟨rfl, rfl, rfl, rfl, rfl, rfl, rfl, rfl, rfl, rfl, rfl, rfl⟩

@[simp] theorem State.readyPage_frame (s : State) (ctx p k u : Nat) (r : Reserve) : (s.readyPage ctx p k u r).1.clk = s.clk ∧
    (s.readyPage ctx p k u r).1.sch = s.sch ∧ (s.readyPage ctx p k u r).1.regs = s.regs ∧ (s.readyPage ctx p k u r).1.pipe = s.pipe ∧
    (s.readyPage ctx p k u r).1.mem = s.mem ∧ (s.readyPage ctx p k u r).1.sp = s.sp ∧ (s.readyPage ctx p k u r).1.sl = s.sl ∧
    (s.readyPage ctx p k u r).1.gi = s.gi ∧ (s.readyPage ctx p k u r).1.disp = s.disp ∧ (s.readyPage ctx p k u r).1.host = s.host ∧
    (s.readyPage ctx p k u r).1.pow = s.pow ∧ (s.readyPage ctx p k u r).1.grd = s.grd := by
  unfold State.readyPage
  dsimp only
  (repeat' split) <;> simp

@[simp] theorem State.widenHall_frame (s : State) (ctx p ch : Nat) (row : List (BitVec 16)) : (s.widenHall ctx p ch row).clk = s.clk ∧
    (s.widenHall ctx p ch row).sch = s.sch ∧ (s.widenHall ctx p ch row).regs = s.regs ∧ (s.widenHall ctx p ch row).pipe = s.pipe ∧
    (s.widenHall ctx p ch row).mem = s.mem ∧ (s.widenHall ctx p ch row).sp = s.sp ∧ (s.widenHall ctx p ch row).sl = s.sl ∧
    (s.widenHall ctx p ch row).gi = s.gi ∧ (s.widenHall ctx p ch row).disp = s.disp ∧ (s.widenHall ctx p ch row).host = s.host ∧
    (s.widenHall ctx p ch row).pow = s.pow ∧ (s.widenHall ctx p ch row).grd = s.grd := ⟨rfl, rfl, rfl, rfl, rfl, rfl, rfl, rfl, rfl, rfl, rfl, rfl⟩

@[simp] theorem State.dropKvOp_frame (s : State) (id : Nat) : (s.dropKvOp id).clk = s.clk ∧ (s.dropKvOp id).sch = s.sch ∧
    (s.dropKvOp id).regs = s.regs ∧ (s.dropKvOp id).pipe = s.pipe ∧ (s.dropKvOp id).mem = s.mem ∧ (s.dropKvOp id).sp = s.sp ∧
    (s.dropKvOp id).sl = s.sl ∧ (s.dropKvOp id).gi = s.gi ∧ (s.dropKvOp id).disp = s.disp ∧ (s.dropKvOp id).host = s.host ∧
    (s.dropKvOp id).pow = s.pow ∧ (s.dropKvOp id).grd = s.grd := ⟨rfl, rfl, rfl, rfl, rfl, rfl, rfl, rfl, rfl, rfl, rfl, rfl⟩

@[simp] theorem State.kvVerdict_frame (s : State) (o : KvRec) (k u slot : Nat) (krow vrow : List (BitVec 16)) (ok : Bool) : (s.kvVerdict o k u slot
    krow vrow ok).clk = s.clk ∧ (s.kvVerdict o k u slot krow vrow ok).regs = s.regs ∧ (s.kvVerdict o k u slot krow vrow ok).mem = s.mem ∧
    (s.kvVerdict o k u slot krow vrow ok).sl = s.sl ∧ (s.kvVerdict o k u slot krow vrow ok).host = s.host ∧
    (s.kvVerdict o k u slot krow vrow ok).pow = s.pow := by
  unfold State.kvVerdict
  dsimp only
  (repeat' split) <;> simp

end Sys2Proof.Machine

/-!
PROOF (frames): what the operations of the dispatcher, swaps, guarded pairs, power and the host leave unchanged.
-/
namespace Sys2Proof.Machine
set_option Elab.async false

@[simp] theorem State.kvLand_frame (s : State) (o : KvRec) (ws : List RegWr) : (s.kvLand o ws).clk = s.clk ∧ (s.kvLand o ws).sch = s.sch ∧
    (s.kvLand o ws).regs = s.regs ∧ (s.kvLand o ws).mem = s.mem ∧ (s.kvLand o ws).sp = s.sp ∧ (s.kvLand o ws).sl = s.sl ∧
    (s.kvLand o ws).gi = s.gi ∧ (s.kvLand o ws).disp = s.disp ∧ (s.kvLand o ws).host = s.host ∧ (s.kvLand o ws).pow = s.pow ∧
    (s.kvLand o ws).grd = s.grd := ⟨rfl, rfl, rfl, rfl, rfl, rfl, rfl, rfl, rfl, rfl, rfl⟩

@[simp] theorem State.forkPage_frame (s : State) (o : KvRec) (p kd qd : Nat) : (s.forkPage o p kd qd).clk = s.clk ∧
    (s.forkPage o p kd qd).sch = s.sch ∧ (s.forkPage o p kd qd).regs = s.regs ∧ (s.forkPage o p kd qd).mem = s.mem ∧
    (s.forkPage o p kd qd).sp = s.sp ∧ (s.forkPage o p kd qd).sl = s.sl ∧ (s.forkPage o p kd qd).gi = s.gi ∧ (s.forkPage o p kd qd).disp = s.disp ∧
    (s.forkPage o p kd qd).host = s.host ∧ (s.forkPage o p kd qd).pow = s.pow ∧ (s.forkPage o p kd qd).grd = s.grd := by
  unfold State.forkPage
  dsimp only
  (repeat' split) <;> simp

@[simp] theorem State.unrefPage_frame (s : State) (o : KvRec) (p : Nat) : (s.unrefPage o p).clk = s.clk ∧ (s.unrefPage o p).sch = s.sch ∧
    (s.unrefPage o p).regs = s.regs ∧ (s.unrefPage o p).sp = s.sp ∧ (s.unrefPage o p).sl = s.sl ∧ (s.unrefPage o p).gi = s.gi ∧
    (s.unrefPage o p).disp = s.disp ∧ (s.unrefPage o p).host = s.host ∧ (s.unrefPage o p).pow = s.pow ∧ (s.unrefPage o p).grd = s.grd := by
  unfold State.unrefPage
  dsimp only
  (repeat' split) <;> simp

@[simp] theorem State.unrefPage_cells (s : State) (o : KvRec) (p : Nat) : (s.unrefPage o p).mem.cells = s.mem.cells := by
  unfold State.unrefPage
  dsimp only
  (repeat' split) <;> simp

@[simp] theorem State.freeLines_frame (s : State) (lines : List Nat) : (s.freeLines lines).sch = s.sch ∧ (s.freeLines lines).regs = s.regs ∧
    (s.freeLines lines).pipe = s.pipe ∧ (s.freeLines lines).sp = s.sp ∧ (s.freeLines lines).sl = s.sl ∧ (s.freeLines lines).kv = s.kv ∧
    (s.freeLines lines).gi = s.gi ∧ (s.freeLines lines).disp = s.disp ∧ (s.freeLines lines).host = s.host ∧ (s.freeLines lines).pow = s.pow ∧
    (s.freeLines lines).grd = s.grd := ⟨rfl, rfl, rfl, rfl, rfl, rfl, rfl, rfl, rfl, rfl, rfl⟩

@[simp] theorem State.endPins_frame (s : State) (f : Pin → Bool) : (s.endPins f).clk = s.clk ∧ (s.endPins f).sch = s.sch ∧
    (s.endPins f).regs = s.regs ∧ (s.endPins f).pipe = s.pipe ∧ (s.endPins f).mem = s.mem ∧ (s.endPins f).sp = s.sp ∧ (s.endPins f).kv = s.kv ∧
    (s.endPins f).gi = s.gi ∧ (s.endPins f).disp = s.disp ∧ (s.endPins f).host = s.host ∧ (s.endPins f).pow = s.pow ∧
    (s.endPins f).grd = s.grd := ⟨rfl, rfl, rfl, rfl, rfl, rfl, rfl, rfl, rfl, rfl, rfl, rfl⟩

@[simp] theorem State.endReserve_cells (s : State) (ctx : Nat) : (s.endReserve ctx).mem.cells = s.mem.cells := by
  unfold State.endReserve
  exact foldl_cells _ _ (fun s a => by simp) _

@[simp] theorem State.decided_frame (s : State) (r : SeqRec) (status : Nat) (slices : List Nat) (pin : Nat) : (s.decided r status slices pin).clk =
    s.clk ∧ (s.decided r status slices pin).sch = s.sch ∧ (s.decided r status slices pin).regs = s.regs ∧
    (s.decided r status slices pin).mem = s.mem ∧ (s.decided r status slices pin).sp = s.sp ∧ (s.decided r status slices pin).kv = s.kv ∧
    (s.decided r status slices pin).gi = s.gi ∧ (s.decided r status slices pin).disp = s.disp ∧ (s.decided r status slices pin).host = s.host ∧
    (s.decided r status slices pin).pow = s.pow ∧
    (s.decided r status slices pin).grd = s.grd := ⟨rfl, rfl, rfl, rfl, rfl, rfl, rfl, rfl, rfl, rfl, rfl⟩

@[simp] theorem State.pinEnded_frame (s : State) (p : Nat) : (s.pinEnded p).clk = s.clk ∧ (s.pinEnded p).sch = s.sch ∧
    (s.pinEnded p).regs = s.regs ∧ (s.pinEnded p).pipe = s.pipe ∧ (s.pinEnded p).mem = s.mem ∧ (s.pinEnded p).sp = s.sp ∧
    (s.pinEnded p).kv = s.kv ∧ (s.pinEnded p).gi = s.gi ∧ (s.pinEnded p).disp = s.disp ∧ (s.pinEnded p).pow = s.pow ∧
    (s.pinEnded p).grd = s.grd := by
  unfold State.pinEnded
  dsimp only
  (repeat' split) <;> simp

@[simp] theorem State.pinEnded_featacc (s : State) (p : Nat) : (s.pinEnded p).host.featacc = s.host.featacc := by
  unfold State.pinEnded
  dsimp only
  (repeat' split) <;> simp

@[simp] theorem State.releaseBlock_frame (s : State) (b : Nat) : (s.releaseBlock b).clk = s.clk ∧ (s.releaseBlock b).sl = s.sl ∧
    (s.releaseBlock b).kv = s.kv ∧ (s.releaseBlock b).disp = s.disp ∧ (s.releaseBlock b).host = s.host ∧
    (s.releaseBlock b).pow = s.pow := ⟨rfl, rfl, rfl, rfl, rfl, rfl⟩

@[simp] theorem State.releaseBlock_cells (s : State) (b : Nat) : (s.releaseBlock b).mem.cells = s.mem.cells := rfl

@[simp] theorem State.placeOne_frame (s : State) (l : Launch) (lin : Nat) (x : Site) (primary : Bool) (twin : Option Nat) : (s.placeOne l lin x
    primary twin).clk = s.clk ∧ (s.placeOne l lin x primary twin).pipe = s.pipe ∧ (s.placeOne l lin x primary twin).mem = s.mem ∧
    (s.placeOne l lin x primary twin).sp = s.sp ∧ (s.placeOne l lin x primary twin).sl = s.sl ∧ (s.placeOne l lin x primary twin).kv = s.kv ∧
    (s.placeOne l lin x primary twin).gi = s.gi ∧ (s.placeOne l lin x primary twin).host = s.host ∧ (s.placeOne l lin x primary twin).pow = s.pow ∧
    (s.placeOne l lin x primary twin).grd = s.grd := ⟨rfl, rfl, rfl, rfl, rfl, rfl, rfl, rfl, rfl, rfl⟩

@[simp] theorem State.placePair_frame (s : State) (l : Launch) (lin : Nat) (x y : Site) (area : List (Nat × Nat)) : (s.placePair l lin x y
    area).clk = s.clk ∧ (s.placePair l lin x y area).pipe = s.pipe ∧ (s.placePair l lin x y area).mem = s.mem ∧
    (s.placePair l lin x y area).sp = s.sp ∧ (s.placePair l lin x y area).sl = s.sl ∧ (s.placePair l lin x y area).kv = s.kv ∧
    (s.placePair l lin x y area).gi = s.gi ∧ (s.placePair l lin x y area).host = s.host ∧
    (s.placePair l lin x y area).pow = s.pow := ⟨rfl, rfl, rfl, rfl, rfl, rfl, rfl, rfl, rfl⟩

@[simp] theorem State.fitSync_frame (s : State) (l : Launch) : (s.fitSync l).clk = s.clk ∧ (s.fitSync l).sch = s.sch ∧
    (s.fitSync l).regs = s.regs ∧ (s.fitSync l).pipe = s.pipe ∧ (s.fitSync l).mem = s.mem ∧ (s.fitSync l).sp = s.sp ∧ (s.fitSync l).sl = s.sl ∧
    (s.fitSync l).kv = s.kv ∧ (s.fitSync l).gi = s.gi ∧ (s.fitSync l).host = s.host ∧ (s.fitSync l).pow = s.pow ∧ (s.fitSync l).grd = s.grd := by
  unfold State.fitSync
  dsimp only
  (repeat' split) <;> simp

@[simp] theorem State.hostPut_frame (s : State) (x : Nat) (bs : List Byte) : (s.hostPut x bs).clk = s.clk ∧ (s.hostPut x bs).regs = s.regs ∧
    (s.hostPut x bs).sp = s.sp ∧ (s.hostPut x bs).kv = s.kv ∧ (s.hostPut x bs).gi = s.gi ∧ (s.hostPut x bs).disp = s.disp ∧
    (s.hostPut x bs).pow = s.pow ∧ (s.hostPut x bs).grd = s.grd := by simp [State.hostPut]

@[simp] theorem State.hostPut_featacc (s : State) (x : Nat) (bs : List Byte) : (s.hostPut x bs).host.featacc = s.host.featacc := by simp
    [State.hostPut]

@[simp] theorem State.dropHostLine_frame (s : State) (line : Nat) : (s.dropHostLine line).clk = s.clk ∧ (s.dropHostLine line).sch = s.sch ∧
    (s.dropHostLine line).regs = s.regs ∧ (s.dropHostLine line).pipe = s.pipe ∧ (s.dropHostLine line).mem = s.mem ∧
    (s.dropHostLine line).sp = s.sp ∧ (s.dropHostLine line).kv = s.kv ∧ (s.dropHostLine line).gi = s.gi ∧ (s.dropHostLine line).disp = s.disp ∧
    (s.dropHostLine line).host = s.host ∧ (s.dropHostLine line).pow = s.pow ∧
    (s.dropHostLine line).grd = s.grd := ⟨rfl, rfl, rfl, rfl, rfl, rfl, rfl, rfl, rfl, rfl, rfl, rfl⟩

@[simp] theorem State.closeLevels_frame (s : State) (l : Launch) : (s.closeLevels l).clk = s.clk ∧ (s.closeLevels l).sch = s.sch ∧
    (s.closeLevels l).regs = s.regs ∧ (s.closeLevels l).pipe = s.pipe ∧ (s.closeLevels l).mem = s.mem ∧ (s.closeLevels l).sp = s.sp ∧
    (s.closeLevels l).sl = s.sl ∧ (s.closeLevels l).kv = s.kv ∧ (s.closeLevels l).gi = s.gi ∧ (s.closeLevels l).host = s.host ∧
    (s.closeLevels l).pow = s.pow ∧ (s.closeLevels l).grd = s.grd := by
  unfold State.closeLevels
  and_intros <;> refine foldl_frame (fun s a => ?_) _ _ <;> (repeat' split) <;> simp

@[simp] theorem State.noteDone_frame (s : State) (ctx id status : Nat) : (s.noteDone ctx id status).clk = s.clk ∧
    (s.noteDone ctx id status).sch = s.sch ∧ (s.noteDone ctx id status).regs = s.regs ∧ (s.noteDone ctx id status).pipe = s.pipe ∧
    (s.noteDone ctx id status).mem = s.mem ∧ (s.noteDone ctx id status).sp = s.sp ∧ (s.noteDone ctx id status).sl = s.sl ∧
    (s.noteDone ctx id status).kv = s.kv ∧ (s.noteDone ctx id status).gi = s.gi ∧ (s.noteDone ctx id status).host = s.host ∧
    (s.noteDone ctx id status).pow = s.pow ∧ (s.noteDone ctx id status).grd = s.grd := ⟨rfl, rfl, rfl, rfl, rfl, rfl, rfl, rfl, rfl, rfl, rfl, rfl⟩

@[simp] theorem State.clearSegment_frame (s : State) (l : Launch) (seg : Nat) : (s.clearSegment l seg).clk = s.clk ∧
    (s.clearSegment l seg).sch = s.sch ∧ (s.clearSegment l seg).regs = s.regs ∧ (s.clearSegment l seg).pipe = s.pipe ∧
    (s.clearSegment l seg).mem = s.mem ∧ (s.clearSegment l seg).sp = s.sp ∧ (s.clearSegment l seg).sl = s.sl ∧ (s.clearSegment l seg).kv = s.kv ∧
    (s.clearSegment l seg).disp = s.disp ∧ (s.clearSegment l seg).host = s.host ∧ (s.clearSegment l seg).pow = s.pow ∧
    (s.clearSegment l seg).grd = s.grd := ⟨rfl, rfl, rfl, rfl, rfl, rfl, rfl, rfl, rfl, rfl, rfl, rfl⟩

@[simp] theorem State.childDone_frame (s : State) (ctx kind id status queue : Nat) : (s.childDone ctx kind id status queue).clk = s.clk ∧
    (s.childDone ctx kind id status queue).regs = s.regs ∧ (s.childDone ctx kind id status queue).pipe = s.pipe ∧
    (s.childDone ctx kind id status queue).mem = s.mem ∧ (s.childDone ctx kind id status queue).sp = s.sp ∧
    (s.childDone ctx kind id status queue).sl = s.sl ∧ (s.childDone ctx kind id status queue).kv = s.kv ∧
    (s.childDone ctx kind id status queue).gi = s.gi ∧ (s.childDone ctx kind id status queue).host = s.host ∧
    (s.childDone ctx kind id status queue).pow = s.pow ∧ (s.childDone ctx kind id status queue).grd = s.grd := by
  unfold State.childDone
  dsimp only
  (repeat' split) <;> simp

@[simp] theorem State.stopHalves_frame (s : State) (b why : Nat) : (s.stopHalves b why).clk = s.clk ∧ (s.stopHalves b why).regs = s.regs ∧
    (s.stopHalves b why).pipe = s.pipe ∧ (s.stopHalves b why).mem = s.mem ∧ (s.stopHalves b why).sp = s.sp ∧ (s.stopHalves b why).sl = s.sl ∧
    (s.stopHalves b why).kv = s.kv ∧ (s.stopHalves b why).host = s.host ∧ (s.stopHalves b why).pow = s.pow ∧ (s.stopHalves b why).grd = s.grd := by
  unfold State.stopHalves
  and_intros <;> refine foldl_frame (fun s a => ?_) _ _ <;> simp

@[simp] theorem State.saveBlock_frame (s : State) (b : Nat) (run : Option (Nat × Nat)) : (s.saveBlock b run).clk = s.clk ∧
    (s.saveBlock b run).regs = s.regs ∧ (s.saveBlock b run).pipe = s.pipe ∧ (s.saveBlock b run).mem = s.mem ∧ (s.saveBlock b run).sp = s.sp ∧
    (s.saveBlock b run).sl = s.sl ∧ (s.saveBlock b run).kv = s.kv ∧ (s.saveBlock b run).gi = s.gi ∧ (s.saveBlock b run).pow = s.pow ∧
    (s.saveBlock b run).grd = s.grd := by
  unfold State.saveBlock
  dsimp only
  (repeat' split) <;> simp

@[simp] theorem State.saveBlock_featacc (s : State) (b : Nat) (run : Option (Nat × Nat)) : (s.saveBlock b run).host.featacc = s.host.featacc := by
  unfold State.saveBlock
  dsimp only
  (repeat' split) <;> simp

@[simp] theorem State.parkCur_frame (s : State) (b : Nat) : (s.parkCur b).clk = s.clk ∧ (s.parkCur b).regs = s.regs ∧ (s.parkCur b).pipe = s.pipe ∧
    (s.parkCur b).mem = s.mem ∧ (s.parkCur b).sp = s.sp ∧ (s.parkCur b).sl = s.sl ∧ (s.parkCur b).kv = s.kv ∧ (s.parkCur b).gi = s.gi ∧
    (s.parkCur b).disp = s.disp ∧ (s.parkCur b).host = s.host ∧ (s.parkCur b).pow = s.pow ∧ (s.parkCur b).grd = s.grd := by
  unfold State.parkCur
  (repeat' split) <;> simp

@[simp] theorem State.saveBytes_frame (s : State) (b : Nat) : (s.saveBytes b).regs = s.regs ∧ (s.saveBytes b).pipe = s.pipe ∧
    (s.saveBytes b).sp = s.sp ∧ (s.saveBytes b).kv = s.kv ∧ (s.saveBytes b).gi = s.gi ∧ (s.saveBytes b).disp = s.disp ∧
    (s.saveBytes b).pow = s.pow ∧ (s.saveBytes b).grd = s.grd := by
  unfold State.saveBytes
  dsimp only
  (repeat' split) <;> simp

@[simp] theorem State.saveBytes_featacc (s : State) (b : Nat) : (s.saveBytes b).host.featacc = s.host.featacc := by
  unfold State.saveBytes
  dsimp only
  (repeat' split) <;> simp

@[simp] theorem State.beginRestore_frame (s : State) (b : Nat) (x : Site) : (s.beginRestore b x).clk = s.clk ∧ (s.beginRestore b x).sch = s.sch ∧
    (s.beginRestore b x).regs = s.regs ∧ (s.beginRestore b x).pipe = s.pipe ∧ (s.beginRestore b x).mem = s.mem ∧ (s.beginRestore b x).sp = s.sp ∧
    (s.beginRestore b x).sl = s.sl ∧ (s.beginRestore b x).kv = s.kv ∧ (s.beginRestore b x).gi = s.gi ∧ (s.beginRestore b x).host = s.host ∧
    (s.beginRestore b x).pow = s.pow ∧ (s.beginRestore b x).grd = s.grd := ⟨rfl, rfl, rfl, rfl, rfl, rfl, rfl, rfl, rfl, rfl, rfl, rfl⟩

@[simp] theorem State.lbarBack_frame (s : State) (b : Nat) : (s.lbarBack b).clk = s.clk ∧ (s.lbarBack b).regs = s.regs ∧
    (s.lbarBack b).mem = s.mem ∧ (s.lbarBack b).sp = s.sp ∧ (s.lbarBack b).sl = s.sl ∧ (s.lbarBack b).kv = s.kv ∧ (s.lbarBack b).gi = s.gi ∧
    (s.lbarBack b).disp = s.disp ∧ (s.lbarBack b).host = s.host ∧ (s.lbarBack b).pow = s.pow ∧ (s.lbarBack b).grd = s.grd := by
  unfold State.lbarBack
  (repeat' split) <;> simp

@[simp] theorem State.runAgain_frame (s : State) (b : Nat) : (s.runAgain b).clk = s.clk ∧ (s.runAgain b).regs = s.regs ∧
    (s.runAgain b).mem = s.mem ∧ (s.runAgain b).sp = s.sp ∧ (s.runAgain b).sl = s.sl ∧ (s.runAgain b).kv = s.kv ∧ (s.runAgain b).host = s.host ∧
    (s.runAgain b).pow = s.pow ∧ (s.runAgain b).grd = s.grd := by
  unfold State.runAgain
  dsimp only
  (repeat' split) <;> simp

@[simp] theorem State.restoreBin_frame (s : State) (core : Nat) (n : Bin) : (s.restoreBin core n).clk = s.clk ∧
    (s.restoreBin core n).regs = s.regs ∧ (s.restoreBin core n).pipe = s.pipe ∧ (s.restoreBin core n).mem = s.mem ∧
    (s.restoreBin core n).sp = s.sp ∧ (s.restoreBin core n).sl = s.sl ∧ (s.restoreBin core n).kv = s.kv ∧ (s.restoreBin core n).gi = s.gi ∧
    (s.restoreBin core n).disp = s.disp ∧ (s.restoreBin core n).host = s.host ∧ (s.restoreBin core n).pow = s.pow ∧
    (s.restoreBin core n).grd = s.grd := by
  unfold State.restoreBin
  dsimp only
  (repeat' split) <;> simp

@[simp] theorem State.faultWritten_frame (s : State) (id seq : Nat) : (s.faultWritten id seq).clk = s.clk ∧ (s.faultWritten id seq).regs = s.regs ∧
    (s.faultWritten id seq).pipe = s.pipe ∧ (s.faultWritten id seq).mem = s.mem ∧ (s.faultWritten id seq).sp = s.sp ∧
    (s.faultWritten id seq).sl = s.sl ∧ (s.faultWritten id seq).kv = s.kv ∧ (s.faultWritten id seq).gi = s.gi ∧
    (s.faultWritten id seq).disp = s.disp ∧ (s.faultWritten id seq).host = s.host ∧ (s.faultWritten id seq).pow = s.pow ∧
    (s.faultWritten id seq).grd = s.grd := ⟨rfl, rfl, rfl, rfl, rfl, rfl, rfl, rfl, rfl, rfl, rfl, rfl⟩

@[simp] theorem State.withdrawWait_frame (s : State) (c : Nat) (w : Wait) : (s.withdrawWait c w).clk = s.clk ∧ (s.withdrawWait c w).regs = s.regs ∧
    (s.withdrawWait c w).mem = s.mem ∧ (s.withdrawWait c w).sp = s.sp ∧ (s.withdrawWait c w).sl = s.sl ∧ (s.withdrawWait c w).gi = s.gi ∧
    (s.withdrawWait c w).host = s.host ∧ (s.withdrawWait c w).pow = s.pow ∧ (s.withdrawWait c w).grd = s.grd := by
  unfold State.withdrawWait
  dsimp only
  (repeat' split) <;> simp

@[simp] theorem State.watchBundle_frame (s : State) (i c : Nat) : (s.watchBundle i c).clk = s.clk ∧ (s.watchBundle i c).regs = s.regs ∧
    (s.watchBundle i c).mem = s.mem ∧ (s.watchBundle i c).sp = s.sp ∧ (s.watchBundle i c).sl = s.sl ∧ (s.watchBundle i c).host = s.host ∧
    (s.watchBundle i c).pow = s.pow := by
  unfold State.watchBundle
  dsimp only
  (repeat' split) <;> simp

@[simp] theorem State.watchBin_frame (s : State) (n : Bin) (c : Nat) : (s.watchBin n c).clk = s.clk ∧ (s.watchBin n c).regs = s.regs ∧
    (s.watchBin n c).mem = s.mem ∧ (s.watchBin n c).sp = s.sp ∧ (s.watchBin n c).sl = s.sl ∧ (s.watchBin n c).kv = s.kv ∧
    (s.watchBin n c).host = s.host ∧ (s.watchBin n c).pow = s.pow := by simp [State.watchBin]

@[simp] theorem State.setWords_frame (s : State) (slot i : Nat) (ws : List Word) : (s.setWords slot i ws).clk = s.clk ∧
    (s.setWords slot i ws).sch = s.sch ∧ (s.setWords slot i ws).regs = s.regs ∧ (s.setWords slot i ws).pipe = s.pipe ∧
    (s.setWords slot i ws).mem = s.mem ∧ (s.setWords slot i ws).sp = s.sp ∧ (s.setWords slot i ws).sl = s.sl ∧ (s.setWords slot i ws).kv = s.kv ∧
    (s.setWords slot i ws).disp = s.disp ∧ (s.setWords slot i ws).host = s.host ∧ (s.setWords slot i ws).pow = s.pow ∧
    (s.setWords slot i ws).grd = s.grd := ⟨rfl, rfl, rfl, rfl, rfl, rfl, rfl, rfl, rfl, rfl, rfl, rfl⟩

@[simp] theorem State.girthUpdate_frame (s : State) (o : GirthOp) (slot op word : Nat) (w64 : Bool) (v n kd : Nat) (q : Option Nat) :
    (s.girthUpdate o slot op word w64 v n kd q).1.clk = s.clk ∧ (s.girthUpdate o slot op word w64 v n kd q).1.sch = s.sch ∧
    (s.girthUpdate o slot op word w64 v n kd q).1.regs = s.regs ∧ (s.girthUpdate o slot op word w64 v n kd q).1.pipe = s.pipe ∧
    (s.girthUpdate o slot op word w64 v n kd q).1.mem = s.mem ∧ (s.girthUpdate o slot op word w64 v n kd q).1.sp = s.sp ∧
    (s.girthUpdate o slot op word w64 v n kd q).1.sl = s.sl ∧ (s.girthUpdate o slot op word w64 v n kd q).1.kv = s.kv ∧
    (s.girthUpdate o slot op word w64 v n kd q).1.disp = s.disp ∧ (s.girthUpdate o slot op word w64 v n kd q).1.host = s.host ∧
    (s.girthUpdate o slot op word w64 v n kd q).1.pow = s.pow ∧
    (s.girthUpdate o slot op word w64 v n kd q).1.grd = s.grd := ⟨rfl, rfl, rfl, rfl, rfl, rfl, rfl, rfl, rfl, rfl, rfl, rfl⟩

@[simp] theorem State.girthActed_frame (s : State) (o : GirthOp) (ws : List RegWr) : (s.girthActed o ws).clk = s.clk ∧
    (s.girthActed o ws).regs = s.regs ∧ (s.girthActed o ws).mem = s.mem ∧ (s.girthActed o ws).sp = s.sp ∧ (s.girthActed o ws).sl = s.sl ∧
    (s.girthActed o ws).kv = s.kv ∧ (s.girthActed o ws).host = s.host ∧ (s.girthActed o ws).pow = s.pow := by simp [State.girthActed]

@[simp] theorem State.endHold_frame (s : State) (slot : Nat) : (s.endHold slot).clk = s.clk ∧ (s.endHold slot).regs = s.regs ∧
    (s.endHold slot).mem = s.mem ∧ (s.endHold slot).sp = s.sp ∧ (s.endHold slot).sl = s.sl ∧ (s.endHold slot).kv = s.kv ∧
    (s.endHold slot).host = s.host ∧ (s.endHold slot).pow = s.pow := by
  unfold State.endHold
  dsimp only
  (repeat' split) <;> simp

@[simp] theorem State.settleSlot_frame (s : State) (slot c : Nat) : (s.settleSlot slot c).clk = s.clk ∧ (s.settleSlot slot c).regs = s.regs ∧
    (s.settleSlot slot c).mem = s.mem ∧ (s.settleSlot slot c).sp = s.sp ∧ (s.settleSlot slot c).sl = s.sl ∧ (s.settleSlot slot c).kv = s.kv ∧
    (s.settleSlot slot c).host = s.host ∧ (s.settleSlot slot c).pow = s.pow := by
  unfold State.settleSlot
  dsimp only
  (repeat' split) <;> simp

@[simp] theorem State.girthMissed_frame (s : State) (stop c : Nat) : (s.girthMissed stop c).clk = s.clk ∧ (s.girthMissed stop c).regs = s.regs ∧
    (s.girthMissed stop c).mem = s.mem ∧ (s.girthMissed stop c).sp = s.sp ∧ (s.girthMissed stop c).sl = s.sl ∧ (s.girthMissed stop c).kv = s.kv ∧
    (s.girthMissed stop c).host = s.host ∧ (s.girthMissed stop c).pow = s.pow := by
  unfold State.girthMissed
  and_intros <;> refine foldl_frame (fun s a => ?_) _ _ <;> (repeat' split) <;> simp

@[simp] theorem State.notePass_frame (s : State) (stop slot c : Nat) : (s.notePass stop slot c).clk = s.clk ∧
    (s.notePass stop slot c).sch = s.sch ∧ (s.notePass stop slot c).regs = s.regs ∧ (s.notePass stop slot c).pipe = s.pipe ∧
    (s.notePass stop slot c).mem = s.mem ∧ (s.notePass stop slot c).sp = s.sp ∧ (s.notePass stop slot c).sl = s.sl ∧
    (s.notePass stop slot c).kv = s.kv ∧ (s.notePass stop slot c).disp = s.disp ∧ (s.notePass stop slot c).host = s.host ∧
    (s.notePass stop slot c).pow = s.pow ∧ (s.notePass stop slot c).grd = s.grd := ⟨rfl, rfl, rfl, rfl, rfl, rfl, rfl, rfl, rfl, rfl, rfl, rfl⟩

@[simp] theorem State.dropHeld_frame (s : State) (b : Nat) : (s.dropHeld b).clk = s.clk ∧ (s.dropHeld b).sch = s.sch ∧
    (s.dropHeld b).regs = s.regs ∧ (s.dropHeld b).pipe = s.pipe ∧ (s.dropHeld b).mem = s.mem ∧ (s.dropHeld b).sp = s.sp ∧
    (s.dropHeld b).sl = s.sl ∧ (s.dropHeld b).kv = s.kv ∧ (s.dropHeld b).gi = s.gi ∧ (s.dropHeld b).disp = s.disp ∧ (s.dropHeld b).host = s.host ∧
    (s.dropHeld b).pow = s.pow := ⟨rfl, rfl, rfl, rfl, rfl, rfl, rfl, rfl, rfl, rfl, rfl, rfl⟩

@[simp] theorem State.releaseStore_frame (s : State) (h : HoldStore) : (s.releaseStore h).clk = s.clk ∧ (s.releaseStore h).sch = s.sch ∧
    (s.releaseStore h).regs = s.regs ∧ (s.releaseStore h).mem = s.mem ∧ (s.releaseStore h).sp = s.sp ∧ (s.releaseStore h).sl = s.sl ∧
    (s.releaseStore h).kv = s.kv ∧ (s.releaseStore h).gi = s.gi ∧ (s.releaseStore h).disp = s.disp ∧ (s.releaseStore h).host = s.host ∧
    (s.releaseStore h).pow = s.pow ∧ (s.releaseStore h).grd = s.grd := ⟨rfl, rfl, rfl, rfl, rfl, rfl, rfl, rfl, rfl, rfl, rfl, rfl⟩

@[simp] theorem State.commitPair_frame (s : State) (p : Pair) : (s.commitPair p).clk = s.clk ∧ (s.commitPair p).regs = s.regs ∧
    (s.commitPair p).mem = s.mem ∧ (s.commitPair p).sp = s.sp ∧ (s.commitPair p).sl = s.sl ∧ (s.commitPair p).kv = s.kv ∧
    (s.commitPair p).gi = s.gi ∧ (s.commitPair p).host = s.host ∧ (s.commitPair p).pow = s.pow := by simp [State.commitPair]

@[simp] theorem State.rollBack_frame (s : State) (p : Pair) : (s.rollBack p).clk = s.clk ∧ (s.rollBack p).regs = s.regs ∧
    (s.rollBack p).pipe = s.pipe ∧ (s.rollBack p).mem = s.mem ∧ (s.rollBack p).sp = s.sp ∧ (s.rollBack p).sl = s.sl ∧ (s.rollBack p).kv = s.kv ∧
    (s.rollBack p).gi = s.gi ∧ (s.rollBack p).host = s.host ∧ (s.rollBack p).pow = s.pow := by
  unfold State.rollBack
  dsimp only
  (repeat' split) <;> simp

@[simp] theorem State.lapseClosing_frame (s : State) (p : Pair) : (s.lapseClosing p).clk = s.clk ∧ (s.lapseClosing p).sch = s.sch ∧
    (s.lapseClosing p).regs = s.regs ∧ (s.lapseClosing p).pipe = s.pipe ∧ (s.lapseClosing p).mem = s.mem ∧ (s.lapseClosing p).sp = s.sp ∧
    (s.lapseClosing p).sl = s.sl ∧ (s.lapseClosing p).kv = s.kv ∧ (s.lapseClosing p).disp = s.disp ∧ (s.lapseClosing p).host = s.host ∧
    (s.lapseClosing p).pow = s.pow ∧ (s.lapseClosing p).grd = s.grd := by
  unfold State.lapseClosing
  and_intros <;> refine foldl_frame (fun s a => ?_) _ _ <;> (repeat' split) <;> simp

@[simp] theorem State.sweep_frame (s : State) (sl : Nat) : (s.sweep sl).clk = s.clk ∧ (s.sweep sl).sch = s.sch ∧ (s.sweep sl).regs = s.regs ∧
    (s.sweep sl).pipe = s.pipe ∧ (s.sweep sl).sp = s.sp ∧ (s.sweep sl).kv = s.kv ∧ (s.sweep sl).gi = s.gi ∧ (s.sweep sl).disp = s.disp ∧
    (s.sweep sl).pow = s.pow ∧ (s.sweep sl).grd = s.grd := by
  unfold State.sweep
  dsimp only
  (repeat' split) <;> simp

@[simp] theorem State.sweep_featacc (s : State) (sl : Nat) : (s.sweep sl).host.featacc = s.host.featacc := by
  unfold State.sweep
  dsimp only
  (repeat' split) <;> simp

@[simp] theorem State.sweep_cells (s : State) (sl : Nat) : (s.sweep sl).mem.cells = s.mem.cells := by
  unfold State.sweep
  dsimp only
  (repeat' split) <;> simp

@[simp] theorem State.evacuate_frame (s : State) (sl : Nat) : (s.evacuate sl).clk = s.clk ∧ (s.evacuate sl).sch = s.sch ∧
    (s.evacuate sl).regs = s.regs ∧ (s.evacuate sl).pipe = s.pipe ∧ (s.evacuate sl).mem = s.mem ∧ (s.evacuate sl).sp = s.sp ∧
    (s.evacuate sl).kv = s.kv ∧ (s.evacuate sl).gi = s.gi ∧ (s.evacuate sl).disp = s.disp ∧ (s.evacuate sl).pow = s.pow ∧
    (s.evacuate sl).grd = s.grd := by
  unfold State.evacuate
  dsimp only
  (repeat' split) <;> simp

@[simp] theorem State.evacuate_featacc (s : State) (sl : Nat) : (s.evacuate sl).host.featacc = s.host.featacc := by
  unfold State.evacuate
  dsimp only
  (repeat' split) <;> simp

@[simp] theorem State.closeYoke_frame (s : State) (pair k : Nat) (iu il : BitVec 12) : (s.closeYoke pair k iu il).clk = s.clk ∧
    (s.closeYoke pair k iu il).sch = s.sch ∧ (s.closeYoke pair k iu il).regs = s.regs ∧ (s.closeYoke pair k iu il).pipe = s.pipe ∧
    (s.closeYoke pair k iu il).mem = s.mem ∧ (s.closeYoke pair k iu il).sp = s.sp ∧ (s.closeYoke pair k iu il).sl = s.sl ∧
    (s.closeYoke pair k iu il).kv = s.kv ∧ (s.closeYoke pair k iu il).gi = s.gi ∧ (s.closeYoke pair k iu il).disp = s.disp ∧
    (s.closeYoke pair k iu il).host = s.host ∧
    (s.closeYoke pair k iu il).grd = s.grd := ⟨rfl, rfl, rfl, rfl, rfl, rfl, rfl, rfl, rfl, rfl, rfl, rfl⟩

@[simp] theorem State.putReq_frame (s : State) (r : Req) : (s.putReq r).clk = s.clk ∧ (s.putReq r).sch = s.sch ∧ (s.putReq r).regs = s.regs ∧
    (s.putReq r).mem = s.mem ∧ (s.putReq r).sp = s.sp ∧ (s.putReq r).sl = s.sl ∧ (s.putReq r).kv = s.kv ∧ (s.putReq r).gi = s.gi ∧
    (s.putReq r).disp = s.disp ∧ (s.putReq r).host = s.host ∧ (s.putReq r).pow = s.pow ∧
    (s.putReq r).grd = s.grd := ⟨rfl, rfl, rfl, rfl, rfl, rfl, rfl, rfl, rfl, rfl, rfl, rfl⟩

@[simp] theorem State.chargeReq_frame (s : State) (r : Req) : (s.chargeReq r).clk = s.clk ∧ (s.chargeReq r).sch = s.sch ∧
    (s.chargeReq r).regs = s.regs ∧ (s.chargeReq r).mem = s.mem ∧ (s.chargeReq r).sl = s.sl ∧ (s.chargeReq r).kv = s.kv ∧
    (s.chargeReq r).gi = s.gi ∧ (s.chargeReq r).disp = s.disp ∧ (s.chargeReq r).host = s.host ∧ (s.chargeReq r).grd = s.grd := by
  unfold State.chargeReq
  dsimp only
  (repeat' split) <;> simp

@[simp] theorem State.spendQuota_featacc (s : State) (ctx : Nat) : (s.spendQuota ctx).host.featacc = s.host.featacc := by
  unfold State.spendQuota
  exact foldl_featacc (fun s a => by simp) _ _

@[simp] theorem State.chargeEnergy_featacc (s : State) (blk w amount : Nat) : (s.chargeEnergy blk w amount).host.featacc = s.host.featacc := by
  unfold State.chargeEnergy
  dsimp only
  (repeat' split) <;> simp

@[simp] theorem State.chargeBlocks_featacc (s : State) : s.chargeBlocks.host.featacc = s.host.featacc := by
  unfold State.chargeBlocks
  exact foldl_featacc (fun s a => by simp) _ _

@[simp] theorem State.wrsr_frame (s : State) (i : BitVec 7) (v : Word) : (s.wrsr i v).clk = s.clk ∧ (s.wrsr i v).sch = s.sch ∧
    (s.wrsr i v).pipe = s.pipe ∧ (s.wrsr i v).mem = s.mem ∧ (s.wrsr i v).sp = s.sp ∧ (s.wrsr i v).sl = s.sl ∧ (s.wrsr i v).kv = s.kv ∧
    (s.wrsr i v).gi = s.gi ∧ (s.wrsr i v).disp = s.disp ∧ (s.wrsr i v).host = s.host ∧ (s.wrsr i v).pow = s.pow ∧ (s.wrsr i v).grd = s.grd := by
  unfold State.wrsr
  dsimp only
  (repeat' split) <;> simp

@[simp] theorem State.winb_frame (s : State) (v : Nat) : (s.winb v).clk = s.clk ∧ (s.winb v).mem = s.mem ∧ (s.winb v).sp = s.sp ∧
    (s.winb v).sl = s.sl ∧ (s.winb v).kv = s.kv ∧ (s.winb v).host = s.host ∧ (s.winb v).pow = s.pow := by
  unfold State.winb
  dsimp only
  (repeat' split) <;> simp

@[simp] theorem State.cancelLevel_frame (s : State) (kind id : Nat) : (s.cancelLevel kind id).clk = s.clk ∧ (s.cancelLevel kind id).regs = s.regs ∧
    (s.cancelLevel kind id).mem = s.mem ∧ (s.cancelLevel kind id).sp = s.sp ∧ (s.cancelLevel kind id).sl = s.sl ∧
    (s.cancelLevel kind id).kv = s.kv ∧ (s.cancelLevel kind id).host = s.host ∧ (s.cancelLevel kind id).pow = s.pow := by
  unfold State.cancelLevel
  dsimp only
  (repeat' split) <;> simp

@[simp] theorem State.wqSend_frame (s : State) (push : Bool) (v : Word) (kd qd : Nat) : (s.wqSend push v kd qd).clk = s.clk ∧
    (s.wqSend push v kd qd).regs = s.regs ∧ (s.wqSend push v kd qd).mem = s.mem ∧ (s.wqSend push v kd qd).sp = s.sp ∧
    (s.wqSend push v kd qd).sl = s.sl ∧ (s.wqSend push v kd qd).kv = s.kv ∧ (s.wqSend push v kd qd).gi = s.gi ∧
    (s.wqSend push v kd qd).host = s.host ∧ (s.wqSend push v kd qd).pow = s.pow ∧
    (s.wqSend push v kd qd).grd = s.grd := ⟨rfl, rfl, rfl, rfl, rfl, rfl, rfl, rfl, rfl, rfl⟩

@[simp] theorem State.served_frame (s : State) (id : Nat) : (s.served id).clk = s.clk ∧ (s.served id).regs = s.regs ∧ (s.served id).pipe = s.pipe ∧
    (s.served id).mem = s.mem ∧ (s.served id).sp = s.sp ∧ (s.served id).sl = s.sl ∧ (s.served id).kv = s.kv ∧ (s.served id).gi = s.gi ∧
    (s.served id).disp = s.disp ∧ (s.served id).host = s.host ∧ (s.served id).pow = s.pow ∧
    (s.served id).grd = s.grd := ⟨rfl, rfl, rfl, rfl, rfl, rfl, rfl, rfl, rfl, rfl, rfl, rfl⟩

@[simp] theorem State.cmdEnd_frame (s : State) (status : Nat) : (s.cmdEnd status).clk = s.clk ∧ (s.cmdEnd status).sch = s.sch ∧
    (s.cmdEnd status).regs = s.regs ∧ (s.cmdEnd status).pipe = s.pipe ∧ (s.cmdEnd status).mem = s.mem ∧ (s.cmdEnd status).sp = s.sp ∧
    (s.cmdEnd status).sl = s.sl ∧ (s.cmdEnd status).kv = s.kv ∧ (s.cmdEnd status).gi = s.gi ∧ (s.cmdEnd status).disp = s.disp ∧
    (s.cmdEnd status).pow = s.pow ∧ (s.cmdEnd status).grd = s.grd := ⟨rfl, rfl, rfl, rfl, rfl, rfl, rfl, rfl, rfl, rfl, rfl, rfl⟩

@[simp] theorem State.cmdEnd_featacc (s : State) (status : Nat) : (s.cmdEnd status).host.featacc = s.host.featacc := rfl

@[simp] theorem State.cmdWait_frame (s : State) (r : CmdRun) : (s.cmdWait r).clk = s.clk ∧ (s.cmdWait r).sch = s.sch ∧
    (s.cmdWait r).regs = s.regs ∧ (s.cmdWait r).pipe = s.pipe ∧ (s.cmdWait r).mem = s.mem ∧ (s.cmdWait r).sp = s.sp ∧ (s.cmdWait r).sl = s.sl ∧
    (s.cmdWait r).kv = s.kv ∧ (s.cmdWait r).gi = s.gi ∧ (s.cmdWait r).disp = s.disp ∧ (s.cmdWait r).pow = s.pow ∧
    (s.cmdWait r).grd = s.grd := ⟨rfl, rfl, rfl, rfl, rfl, rfl, rfl, rfl, rfl, rfl, rfl, rfl⟩

@[simp] theorem State.cmdWait_featacc (s : State) (r : CmdRun) : (s.cmdWait r).host.featacc = s.host.featacc := rfl

@[simp] theorem State.shootDown_frame (s : State) (ctx base len : Nat) : (s.shootDown ctx base len).clk = s.clk ∧
    (s.shootDown ctx base len).sch = s.sch ∧ (s.shootDown ctx base len).regs = s.regs ∧ (s.shootDown ctx base len).mem = s.mem ∧
    (s.shootDown ctx base len).sp = s.sp ∧ (s.shootDown ctx base len).sl = s.sl ∧ (s.shootDown ctx base len).kv = s.kv ∧
    (s.shootDown ctx base len).gi = s.gi ∧ (s.shootDown ctx base len).disp = s.disp ∧ (s.shootDown ctx base len).pow = s.pow ∧
    (s.shootDown ctx base len).grd = s.grd := by
  unfold State.shootDown
  dsimp only
  (repeat' split) <;> simp

@[simp] theorem State.shootDown_featacc (s : State) (ctx base len : Nat) : (s.shootDown ctx base len).host.featacc = s.host.featacc := by
  unfold State.shootDown
  dsimp only
  (repeat' split) <;> simp

@[simp] theorem State.stopCores_frame (s : State) (f : Nat → Bool) : (s.stopCores f).clk = s.clk ∧ (s.stopCores f).regs = s.regs ∧
    (s.stopCores f).pipe = s.pipe ∧ (s.stopCores f).mem = s.mem ∧ (s.stopCores f).sp = s.sp ∧ (s.stopCores f).sl = s.sl ∧
    (s.stopCores f).kv = s.kv ∧ (s.stopCores f).host = s.host ∧ (s.stopCores f).pow = s.pow ∧ (s.stopCores f).grd = s.grd := by
  unfold State.stopCores
  and_intros <;> refine foldl_frame (fun s a => ?_) _ _ <;> simp

@[simp] theorem State.repairCore_frame (s : State) (core : Nat) : (s.repairCore core).clk = s.clk ∧ (s.repairCore core).regs = s.regs ∧
    (s.repairCore core).pipe = s.pipe ∧ (s.repairCore core).mem = s.mem ∧ (s.repairCore core).sp = s.sp ∧ (s.repairCore core).sl = s.sl ∧
    (s.repairCore core).kv = s.kv ∧ (s.repairCore core).pow = s.pow ∧ (s.repairCore core).grd = s.grd := by
  unfold State.repairCore
  (repeat' split) <;> simp

@[simp] theorem State.repairCore_featacc (s : State) (core : Nat) : (s.repairCore core).host.featacc = s.host.featacc := by
  unfold State.repairCore
  (repeat' split) <;> simp

@[simp] theorem State.drainCluster_frame (s : State) (cl : Nat) : (s.drainCluster cl).clk = s.clk ∧ (s.drainCluster cl).regs = s.regs ∧
    (s.drainCluster cl).pipe = s.pipe ∧ (s.drainCluster cl).mem = s.mem ∧ (s.drainCluster cl).sp = s.sp ∧ (s.drainCluster cl).sl = s.sl ∧
    (s.drainCluster cl).kv = s.kv ∧ (s.drainCluster cl).pow = s.pow ∧ (s.drainCluster cl).grd = s.grd := by
  unfold State.drainCluster
  dsimp only
  (repeat' split) <;> simp

@[simp] theorem State.drainCluster_featacc (s : State) (cl : Nat) : (s.drainCluster cl).host.featacc = s.host.featacc := by
  unfold State.drainCluster
  dsimp only
  (repeat' split) <;> simp

@[simp] theorem State.returnCluster_frame (s : State) (cl : Nat) : (s.returnCluster cl).clk = s.clk ∧ (s.returnCluster cl).sch = s.sch ∧
    (s.returnCluster cl).regs = s.regs ∧ (s.returnCluster cl).pipe = s.pipe ∧ (s.returnCluster cl).mem = s.mem ∧ (s.returnCluster cl).sp = s.sp ∧
    (s.returnCluster cl).sl = s.sl ∧ (s.returnCluster cl).kv = s.kv ∧ (s.returnCluster cl).gi = s.gi ∧ (s.returnCluster cl).pow = s.pow ∧
    (s.returnCluster cl).grd = s.grd := by
  unfold State.returnCluster
  dsimp only
  (repeat' split) <;> simp

@[simp] theorem State.returnCluster_featacc (s : State) (cl : Nat) : (s.returnCluster cl).host.featacc = s.host.featacc := by
  unfold State.returnCluster
  dsimp only
  (repeat' split) <;> simp

@[simp] theorem State.repairSlice_frame (s : State) (sl : Nat) : (s.repairSlice sl).clk = s.clk ∧ (s.repairSlice sl).sch = s.sch ∧
    (s.repairSlice sl).regs = s.regs ∧ (s.repairSlice sl).pipe = s.pipe ∧ (s.repairSlice sl).mem = s.mem ∧ (s.repairSlice sl).sp = s.sp ∧
    (s.repairSlice sl).kv = s.kv ∧ (s.repairSlice sl).gi = s.gi ∧ (s.repairSlice sl).disp = s.disp ∧ (s.repairSlice sl).pow = s.pow ∧
    (s.repairSlice sl).grd = s.grd := by
  unfold State.repairSlice
  (repeat' split) <;> simp

@[simp] theorem State.repairSlice_featacc (s : State) (sl : Nat) : (s.repairSlice sl).host.featacc = s.host.featacc := by
  unfold State.repairSlice
  (repeat' split) <;> simp

@[simp] theorem State.retirePage_frame (s : State) (pa : Nat) : (s.retirePage pa).clk = s.clk ∧ (s.retirePage pa).sch = s.sch ∧
    (s.retirePage pa).regs = s.regs ∧ (s.retirePage pa).pipe = s.pipe ∧ (s.retirePage pa).mem = s.mem ∧ (s.retirePage pa).sp = s.sp ∧
    (s.retirePage pa).kv = s.kv ∧ (s.retirePage pa).gi = s.gi ∧ (s.retirePage pa).disp = s.disp ∧ (s.retirePage pa).pow = s.pow ∧
    (s.retirePage pa).grd = s.grd := by
  unfold State.retirePage
  dsimp only
  (repeat' split) <;> simp

@[simp] theorem State.retirePage_featacc (s : State) (pa : Nat) : (s.retirePage pa).host.featacc = s.host.featacc := by
  unfold State.retirePage
  dsimp only
  (repeat' split) <;> simp

@[simp] theorem State.driverOp_frame (s : State) (ctx : Nat) (op : SeqOp) : (s.driverOp ctx op).clk = s.clk ∧ (s.driverOp ctx op).sch = s.sch ∧
    (s.driverOp ctx op).regs = s.regs ∧ (s.driverOp ctx op).mem = s.mem ∧ (s.driverOp ctx op).sp = s.sp ∧ (s.driverOp ctx op).kv = s.kv ∧
    (s.driverOp ctx op).gi = s.gi ∧ (s.driverOp ctx op).disp = s.disp ∧ (s.driverOp ctx op).pow = s.pow ∧
    (s.driverOp ctx op).grd = s.grd := ⟨rfl, rfl, rfl, rfl, rfl, rfl, rfl, rfl, rfl, rfl⟩

@[simp] theorem State.driverOp_featacc (s : State) (ctx : Nat) (op : SeqOp) : (s.driverOp ctx op).host.featacc = s.host.featacc := rfl

@[simp] theorem State.driverResctr_frame (s : State) (ctx pa : Nat) : (s.driverResctr ctx pa).clk = s.clk ∧ (s.driverResctr ctx pa).sch = s.sch ∧
    (s.driverResctr ctx pa).regs = s.regs ∧ (s.driverResctr ctx pa).mem = s.mem ∧ (s.driverResctr ctx pa).sp = s.sp ∧
    (s.driverResctr ctx pa).kv = s.kv ∧ (s.driverResctr ctx pa).gi = s.gi ∧ (s.driverResctr ctx pa).disp = s.disp ∧
    (s.driverResctr ctx pa).pow = s.pow ∧ (s.driverResctr ctx pa).grd = s.grd := by
  unfold State.driverResctr
  (repeat' split) <;> simp

@[simp] theorem State.driverResctr_featacc (s : State) (ctx pa : Nat) : (s.driverResctr ctx pa).host.featacc = s.host.featacc := by
  unfold State.driverResctr
  (repeat' split) <;> simp

@[simp] theorem State.endCtxDone_cells (s : State) (ctx : Nat) : (s.endCtxDone ctx).mem.cells = s.mem.cells := by
  unfold State.endCtxDone
  dsimp only
  (repeat' split) <;> simp

@[simp] theorem State.putQueue_frame (s : State) (q : Nat) (f : LQueue → LQueue) : (s.putQueue q f).clk = s.clk ∧ (s.putQueue q f).sch = s.sch ∧
    (s.putQueue q f).regs = s.regs ∧ (s.putQueue q f).pipe = s.pipe ∧ (s.putQueue q f).mem = s.mem ∧ (s.putQueue q f).sp = s.sp ∧
    (s.putQueue q f).sl = s.sl ∧ (s.putQueue q f).kv = s.kv ∧ (s.putQueue q f).gi = s.gi ∧ (s.putQueue q f).host = s.host ∧
    (s.putQueue q f).pow = s.pow ∧ (s.putQueue q f).grd = s.grd := by
  unfold State.putQueue
  (repeat' split) <;> simp

@[simp] theorem State.putCtx_frame (s : State) (c : Nat) (f : CtxPage → CtxPage) : (s.putCtx c f).clk = s.clk ∧ (s.putCtx c f).sch = s.sch ∧
    (s.putCtx c f).regs = s.regs ∧ (s.putCtx c f).pipe = s.pipe ∧ (s.putCtx c f).mem = s.mem ∧ (s.putCtx c f).sp = s.sp ∧
    (s.putCtx c f).sl = s.sl ∧ (s.putCtx c f).kv = s.kv ∧ (s.putCtx c f).gi = s.gi ∧ (s.putCtx c f).disp = s.disp ∧ (s.putCtx c f).pow = s.pow ∧
    (s.putCtx c f).grd = s.grd := by
  unfold State.putCtx
  dsimp only
  (repeat' split) <;> simp

@[simp] theorem State.putCtx_featacc (s : State) (c : Nat) (f : CtxPage → CtxPage) : (s.putCtx c f).host.featacc = s.host.featacc := by
  unfold State.putCtx
  dsimp only
  (repeat' split) <;> simp

@[simp] theorem State.setPort_featacc (s : State) (n : Nat) (p : Port) : (s.setPort n p).host.featacc = s.host.featacc := rfl

@[simp] theorem State.bootStep_frame (s : State) : s.bootStep.clk = s.clk ∧ s.bootStep.sch = s.sch ∧ s.bootStep.regs = s.regs ∧
    s.bootStep.pipe = s.pipe ∧ s.bootStep.mem = s.mem ∧ s.bootStep.sp = s.sp ∧ s.bootStep.sl = s.sl ∧ s.bootStep.kv = s.kv ∧ s.bootStep.gi = s.gi ∧
    s.bootStep.disp = s.disp ∧ s.bootStep.pow = s.pow ∧ s.bootStep.grd = s.grd := by
  unfold State.bootStep
  dsimp only
  (repeat' split) <;> simp

@[simp] theorem State.bootStep_featacc (s : State) : s.bootStep.host.featacc = s.host.featacc := by
  unfold State.bootStep
  dsimp only
  (repeat' split) <;> simp

@[simp] theorem State.takeThread_frame (s : State) (b : Nat) (m : Member) : (s.takeThread b m).clk = s.clk ∧ (s.takeThread b m).regs = s.regs ∧
    (s.takeThread b m).pipe = s.pipe ∧ (s.takeThread b m).mem = s.mem ∧ (s.takeThread b m).sp = s.sp ∧ (s.takeThread b m).sl = s.sl ∧
    (s.takeThread b m).kv = s.kv ∧ (s.takeThread b m).gi = s.gi ∧ (s.takeThread b m).disp = s.disp ∧ (s.takeThread b m).host = s.host ∧
    (s.takeThread b m).pow = s.pow ∧ (s.takeThread b m).grd = s.grd := ⟨rfl, rfl, rfl, rfl, rfl, rfl, rfl, rfl, rfl, rfl, rfl, rfl⟩

@[simp] theorem State.putPc_frame (s : State) (b c l : Nat) (pc : Word) : (s.putPc b c l pc).clk = s.clk ∧ (s.putPc b c l pc).regs = s.regs ∧
    (s.putPc b c l pc).pipe = s.pipe ∧ (s.putPc b c l pc).mem = s.mem ∧ (s.putPc b c l pc).sp = s.sp ∧ (s.putPc b c l pc).sl = s.sl ∧
    (s.putPc b c l pc).kv = s.kv ∧ (s.putPc b c l pc).gi = s.gi ∧ (s.putPc b c l pc).disp = s.disp ∧ (s.putPc b c l pc).host = s.host ∧
    (s.putPc b c l pc).pow = s.pow ∧ (s.putPc b c l pc).grd = s.grd := by
  unfold State.putPc
  dsimp only
  (repeat' split) <;> simp

@[simp] theorem State.putCall_frame (s : State) (b c l : Nat) (v : Word) : (s.putCall b c l v).sch = s.sch ∧ (s.putCall b c l v).pipe = s.pipe ∧
    (s.putCall b c l v).mem = s.mem ∧ (s.putCall b c l v).sp = s.sp ∧ (s.putCall b c l v).sl = s.sl ∧ (s.putCall b c l v).kv = s.kv ∧
    (s.putCall b c l v).gi = s.gi ∧ (s.putCall b c l v).disp = s.disp ∧ (s.putCall b c l v).host = s.host ∧ (s.putCall b c l v).pow = s.pow ∧
    (s.putCall b c l v).grd = s.grd := by
  unfold State.putCall
  dsimp only
  (repeat' split) <;> simp

@[simp] theorem State.wake_frame (s : State) (core qtr : Nat) : (s.wake core qtr).clk = s.clk ∧ (s.wake core qtr).regs = s.regs ∧
    (s.wake core qtr).pipe = s.pipe ∧ (s.wake core qtr).mem = s.mem ∧ (s.wake core qtr).sp = s.sp ∧ (s.wake core qtr).sl = s.sl ∧
    (s.wake core qtr).kv = s.kv ∧ (s.wake core qtr).gi = s.gi ∧ (s.wake core qtr).disp = s.disp ∧ (s.wake core qtr).host = s.host ∧
    (s.wake core qtr).pow = s.pow ∧ (s.wake core qtr).grd = s.grd := ⟨rfl, rfl, rfl, rfl, rfl, rfl, rfl, rfl, rfl, rfl, rfl, rfl⟩

end Sys2Proof.Machine

/-!
PROOF (R90, R91, R108, R109, R178, R179, R187, R193, R194): shaping and exit, the clause header, the completion of a barrier, fences.
-/
namespace Sys2Proof.Machine

-- One theorem after the other: in parallel they ask for more threads than the host allows.
set_option Elab.async false

/-! ## Shaping and exit (R178, R179) -/

theorem shapingCompletes : ShapingCompletesClaim := by
  refine fun s => ⟨fun h => issue_alone h, fun h => issue_alone h, ?_⟩
  rintro h t rfl filed rfl
  refine ⟨fun hpass => ?_, fun hpass hfiled => ?_, fun x hpass hfiled => ?_⟩
  · exact (issue_alone h).trans (congrArg _ (if_pos hpass))
  · refine (issue_alone h).trans (congrArg _ ((if_neg (by simp [hpass])).trans ?_))
    dsimp only
    rw [show ((s.refileHeld s.curCore s.curQtr).sch.file _ _ _ _ _ _ _ _) = none from hfiled]
  · refine (issue_alone h).trans (congrArg _ ((if_neg (by simp [hpass])).trans ?_))
    dsimp only
    rw [show ((s.refileHeld s.curCore s.curQtr).sch.file _ _ _ _ _ _ _ _) = some x from hfiled]

/-- The LIVEMASK bit of a thread is clear once the bits of a list with it have been cleared. -/
theorem clearLive_getLsbD {b : Nat} {m : Member} (hl : m.lane < 32) (out : List Member) (r : Regs)
    (h : m ∈ out ∨ (r.crewSt b m.crew).live.getLsbD m.lane = false) : ((r.clearLive b out).crewSt b m.crew).live.getLsbD m.lane = false := by
  induction out generalizing r with
  | nil => simpa [Regs.clearLive] using h
  | cons x out ih =>
    refine ih (r.setCrew b x.crew { r.crewSt b x.crew with live := (r.crewSt b x.crew).live &&& ~~~(1#32 <<< x.lane) }) ?_
    rw [List.mem_cons] at h
    rcases h with (rfl | h) | h
    · right
      simp [hl]
    · exact .inl h
    · right
      rw [Regs.crewSt_setCrew]
      split
      · next hkey =>
        have hsame : r.crewSt b x.crew = r.crewSt b m.crew := by simp only [Regs.crewSt, hkey]
        simp [hsame, h]
      · exact h

theorem exitThreads_regs (s : State) {out : List Member} (h : out ≠ []) : (s.exitThreads out).regs = s.regs.clearLive s.sch.cur.blk out := by
  unfold State.exitThreads
  rw [if_neg (by simpa using h)]
  dsimp only
  simp only [State.noteOver_frame]
  split <;> split <;> simp

theorem exitCompletes : ExitCompletesClaim := by
  refine fun g s h => ⟨fun hl => ?_, fun hl => ⟨issue_alone h, fun m hm _ hlane => ?_⟩⟩
  · exact (issue_alone h).trans (by rw [hl]; rfl)
  · rw [State.liveMask, exitThreads_regs s hl]
    exact clearLive_getLsbD hlane _ _ (.inl hm)

/-- Settles O8: by the branches of REFORM, and by the LIVEMASK bits that EXIT clears. -/
theorem shapingAndExitComplete : Obligations.ShapingAndExitComplete := ⟨shapingCompletes, exitCompletes⟩

/-! ## The clause header (R108, R109) -/

theorem observe_cur (s : State) (wait : BitVec 12) : (s.observe wait).sch.cur = s.sch.cur := by
  unfold State.observe
  dsimp only
  split
  · rfl
  · simp

/-- Settles O9: what the start of the clause observes changes neither the bundle nor its registers. -/
theorem clauseHeaderCompletes : Obligations.ClauseHeaderCompletes := by
  intro wait seta setb len s hform hst
  have hexec : exec (.clauseHeader wait seta setb len) s = execClauseHeader wait seta setb len s := rfl
  have hst' : ((s.block s.sch.cur.blk).st == .stopping) = false := by simpa using hst
  constructor
  · intro hw
    simp only [Next, hexec, execClauseHeader, hform, hst', hw, Bool.false_eq_true, if_false, if_true]
  · intro hw
    have hnext : exec (.clauseHeader wait seta setb len) s = .next ((s.observe wait).setCur { (s.observe wait).sch.cur with
        pc := (s.observe wait).sch.cur.pc + 4, clause := some ⟨seta.toNat, setb.toNat, len.toNat⟩, wait := .ready, pass := false, adv := 0 }) := by
      simp only [hexec, execClauseHeader, hform, hst', hw, Bool.false_eq_true, if_false]
    exact ⟨_, hnext, by simp [observe_cur]⟩

/-! ## The completion of a barrier (R187) -/

/-- A barrier's readiness reads of the guarded pairs what is held and where a block may go on. -/
theorem barReady_setGrd (s : State) (g : Guarded) (hold : g.hold = s.grd.hold) (hgo : ∀ b, { s with grd := g }.mayGo b 33 = s.mayGo b 33)
    (bs : List Nat) (id : Nat) (cl : Bool) : { s with grd := g }.barReady bs id cl = s.barReady bs id cl := by
  simp only [State.barReady, State.settled, State.releaseWaits, State.inHold, hold, hgo]
  rfl

theorem mapPair_mayGo (s : State) (b c primary : Nat) (f : Pair → Pair) (hf : ∀ p, (f p).primary = p.primary ∧ (f p).twin = p.twin ∧ (f p).go = p.go) :
    (s.mapPair primary f).mayGo b c = s.mayGo b c := by
  have hfind : (s.mapPair primary f).pairOf b = (s.pairOf b).map fun p => if p.primary == primary then f p else p := by
    simp only [State.pairOf, State.mapPair, List.find?_map]
    congr 2
    funext p
    simp only [Function.comp]
    split <;> simp [hf]
  simp only [State.mayGo, hfind]
  cases s.pairOf b with
  | none => rfl
  | some p => simp only [Option.map_some]; split <;> simp [hf]

theorem mapPair_barReady (s : State) (primary : Nat) (f : Pair → Pair)
    (hf : ∀ p, (f p).primary = p.primary ∧ (f p).twin = p.twin ∧ (f p).go = p.go) (bs : List Nat) (id : Nat) (cl : Bool) :
    (s.mapPair primary f).barReady bs id cl = s.barReady bs id cl :=
  barReady_setGrd s (s.mapPair primary f).grd rfl (fun b => mapPair_mayGo s b 33 primary f hf) bs id cl

/-- An arrival at a comparison point leaves every barrier as ready as it was. -/
theorem arriveAt_barReady (s : State) (b c : Nat) (bs : List Nat) (id : Nat) (cl : Bool) :
    (s.arriveAt b c).barReady bs id cl = s.barReady bs id cl := by
  unfold State.arriveAt
  split
  · exact mapPair_barReady s _ _ (fun p => by split <;> simp) bs id cl
  · rfl

theorem noteArrivals_barReady (s : State) (bs bs' : List Nat) (p : Wait → Bool) (id : Nat) (cl : Bool) :
    (s.noteArrivals bs p).barReady bs' id cl = s.barReady bs' id cl := by
  unfold State.noteArrivals
  refine foldl_frame (F := fun t : State => t.barReady bs' id cl) (fun t b => ?_) bs s
  split
  · exact arriveAt_barReady t b 33 bs' id cl
  · rfl

/-- What the completion of a barrier makes of a bundle: one that waits there gets the cycle of its resumption. -/
def barGoes (bs : List Nat) (id : Nat) (cl : Bool) (due : Nat) (u : Bundle) : Bundle :=
  if bs.contains u.blk && !u.feed && u.wait == Wait.bar id cl none then { u with wait := .bar id cl (some due) } else u

theorem barCheck_bundles {s : State} {b id : Nat} {cl : Bool} (h : s.barReady (if cl then s.groupOf b else [b]) id cl = true) :
    (s.barCheck b id cl).sch.bundles =
      s.sch.bundles.map (barGoes (if cl then s.groupOf b else [b]) id cl (s.now + if cl then 40 else 6)) := by
  unfold State.barCheck
  dsimp only
  rw [noteArrivals_barReady, if_pos h]
  generalize (if cl = true then s.groupOf b else [b]) = bs
  have hsch (l : List Nat) (t : State) : (l.foldl (fun t b => (t.usedGo b 33).acquire b (if cl then 2 else 1)) t).sch = t.sch :=
    foldl_frame (fun t b => by simp) l t
  have hnow : (s.noteArrivals bs fun w => w == Wait.bar id cl none).now = s.now := by simp [State.now]
  simp only [State.mapBundles, hsch, hnow, State.noteArrivals_frame]
  rfl

/-- Settles O13: the bundles behind a completed barrier are those before it, each that waits there with its cycle. -/
theorem barrierCompletes : Obligations.BarrierCompletes := by
  rintro s b id cl bs rfl h
  rw [barCheck_bundles h]
  generalize (if cl = true then s.groupOf b else [b]) = bs
  refine ⟨?_, fun v hv hblk hfeed hwait => List.mem_map.mpr ⟨v, hv, ?_⟩⟩
  · simp only [List.mem_map, forall_exists_index, and_imp]
    rintro _ v _ rfl hblk hfeed
    by_cases hhere : (bs.contains v.blk && !v.feed && v.wait == Wait.bar id cl none) = true
    · rw [barGoes, if_pos hhere]
      simp
    · rw [barGoes, if_neg hhere] at hblk hfeed ⊢
      simpa [hblk, hfeed] using hhere
  · rw [barGoes, if_pos (by simp [hblk, hfeed, hwait])]

/-! ## Fences (R90, R91, R193, R194) -/

/-- A fence that has nothing to wait for makes its release and acquire parts. -/
theorem fence_of_ready {s : State} {ord scope : Nat} {girth : Bool} (h : s.fenceWaits ord girth = false) :
    s.fence ord scope girth = s.fenced2 ord scope girth := by
  unfold State.fence State.fenced2
  rw [if_neg (by rw [State.fenceWaits] at h; simp only [h]; decide)]
  simp only [beq_iff_eq]

theorem cutEpochs_eq (s : State) : ∃ e, s.cutEpochs = { s with sch := { s.sch with epochs := e } } := by
  unfold State.cutEpochs
  generalize s.sch.cur.blk = b
  generalize s.sch.cur.crews = cs
  induction cs generalizing s with
  | nil => exact ⟨_, rfl⟩
  | cons c cs ih =>
    obtain ⟨e, he⟩ := ih (s.nextEpoch b c)
    exact ⟨e, he⟩

/-- Settles O15: FENCE, GFENCE, FENCEO and FENCER in turn. -/
theorem fencesComplete : Obligations.FencesComplete := by
  refine fun ord scope s => ⟨fun h hw => ?_, fun h hp hw => ?_, fun h => issue_alone h, fun h => ?_⟩
  · exact (issue_alone h).trans (congrArg _ (fence_of_ready hw))
  · refine (issue_alone h).trans (congrArg _ ?_)
    exact (atPoint_alone hp).trans (fence_of_ready hw)
  · obtain ⟨e, he⟩ := cutEpochs_eq s
    refine ⟨_, issue_alone h, ?_⟩
    dsimp only
    rw [he]
    exact ⟨rfl, rfl, rfl, rfl, rfl⟩

end Sys2Proof.Machine

/-!
PROOF (R22 to R24, R110, R128): what the issue of an instruction changes before the instruction acts.
-/
namespace Sys2Proof.Machine

-- One theorem after the other: in parallel they ask for more threads than the host allows.
set_option Elab.async false

/-- What the gate and an exception leave unchanged: clock, registers, memory, scratchpads, slices, pages, host and power. -/
structure State.Untouched (s t : State) : Prop where
  clk : t.clk = s.clk
  regs : t.regs = s.regs
  mem : t.mem = s.mem
  sp : t.sp = s.sp
  sl : t.sl = s.sl
  kv : t.kv = s.kv
  host : t.host = s.host
  pow : t.pow = s.pow

namespace State.Untouched

theorem refl (s : State) : s.Untouched s := by constructor <;> rfl

theorem trans {s t u : State} (h : s.Untouched t) (k : t.Untouched u) : s.Untouched u where
  clk := k.clk.trans h.clk
  regs := k.regs.trans h.regs
  mem := k.mem.trans h.mem
  sp := k.sp.trans h.sp
  sl := k.sl.trans h.sl
  kv := k.kv.trans h.kv
  host := k.host.trans h.host
  pow := k.pow.trans h.pow

theorem takeTrap (s : State) (i : TrapInfo) : s.Untouched (s.takeTrap i) := by constructor <;> simp
theorem illop (s : State) (words : Nat) (bound : Bool) : s.Untouched (s.illop words bound) := takeTrap s _
theorem setCur (s : State) (u : Bundle) : s.Untouched (s.setCur u) := by constructor <;> rfl
theorem park (s : State) (w : Wait) (adv : Nat) : s.Untouched (s.park w adv) := setCur s _
theorem advance (s : State) (n : Nat) : s.Untouched (s.advance n) := setCur s _
theorem sched (s : State) (h : Sched) : s.Untouched { s with sch := h } := by constructor <;> rfl

end State.Untouched

/-- The state that a gate ends in. -/
def Gate.state : Gate → State
  | .stop t => t
  | .go t => t

@[simp] theorem Gate.state_stop (t : State) : (Gate.stop t).state = t := rfl
@[simp] theorem Gate.state_go (t : State) : (Gate.go t).state = t := rfl

theorem scoreboard_untouched (s : State) (keys : List RegKey) : s.Untouched (s.scoreboard keys).state := by
  unfold State.scoreboard
  split
  · exact (State.Untouched.sched s _).trans (.park _ _ _)
  · exact .refl s

theorem arrive_untouched (s : State) (mask : Word) (whole : Bool) (words : Nat) : s.Untouched (s.arrive mask whole words).state := by
  unfold State.arrive
  dsimp only
  split
  · exact .sched s _
  · split
    · exact .sched s _
    · exact (State.Untouched.sched s _).trans (.park _ _ _)

theorem memberGate_untouched (s : State) (m : CrewMod) (words : Nat) : s.Untouched (s.memberGate m words).state := by
  unfold State.memberGate
  dsimp only
  split
  · rw [Gate.state_stop]
    exact .takeTrap s _
  · split
    · rw [Gate.state_stop]
      exact .takeTrap s _
    · exact arrive_untouched s _ _ _

theorem wholeGate_untouched (s : State) (words : Nat) : s.Untouched (s.wholeGate words).state := by
  unfold State.wholeGate
  dsimp only
  split
  · rw [Gate.state_stop]
    exact .takeTrap s _
  · exact arrive_untouched s _ _ _

theorem gate_untouched (i : Instr) (q : Issue) (s : State) : s.Untouched (gate i q s).state := by
  unfold gate
  dsimp only
  split
  · exact .illop s _ _
  · split
    · exact .sched s _
    · split
      · exact .illop s _ _
      · generalize hx : (if s.sch.cur.feed = true then Gate.go s else _) = x
        have harrived : s.Untouched x.state := by
          subst hx
          split
          · exact .refl s
          · split
            · exact .refl s
            · exact .refl s
            · have hboard := scoreboard_untouched s (s.maskKeys ‹_›)
              split
              · next hs => rwa [hs] at hboard
              · next t hs =>
                rw [hs] at hboard
                exact hboard.trans (memberGate_untouched t _ _)
            · exact wholeGate_untouched s _
        cases x with
        | stop t => exact harrived
        | go t => exact harrived.trans (scoreboard_untouched t _)

/-- An instruction either does not act, or acts in a state whose registers and memory are those it was issued in. -/
theorem issue_cases {i : Instr} {q : Issue} {s t : State} {act : State → State} (h : issue i q s act = .next t) :
    s.Untouched t ∨ ∃ u, s.Untouched u ∧ t = act u := by
  have hg := gate_untouched i q s
  unfold issue at h
  split at h
  · next u hu => cases h; exact .inl (by rw [hu] at hg; exact hg)
  · next u hu => cases h; exact .inr ⟨u, by rw [hu] at hg; exact hg, rfl⟩

end Sys2Proof.Machine

/-!
PROOF (R87, R122, R207 to R214): loads and stores: their checks, and what they leave unchanged.
-/
namespace Sys2Proof.Machine

-- One theorem after the other: in parallel they ask for more threads than the host allows.
set_option Elab.async false

/-! ## Stores (R87, R214) -/

/-- What a store of checked lanes does. -/
def State.storeChecked (s t : State) (m : MemMod) (xs : List StoreAcc) : State :=
  if xs.isEmpty then (t.beginStores s.setb false (s.pol m) []).advance 2 else s.storeOut t 2 (s.pol m) xs fun t => t.advance 2

/-- What a store does, by the outcome of its checks. -/
theorem store_of_check {s : State} {ls : List (Member × Nat)} {m : MemMod} {align : Bool} {data : Member → List Byte × Nat}
    (hpol : s.polIllop m true false = false) {c : Checked}
    (hc : s.checkRecord (s.record s.sch.cur.blk m.recNo.toNat) (memOff m) (memWidth m) 2 { align := align, store := true } ls = c) :
    (∀ x, c = .trap x → s.store ls m align data = s.takeTrap x) ∧ (∀ t, c = .miss t → s.store ls m align data = t.park .crew 0) ∧
    (∀ t lanes oob, c = .ok t lanes oob → s.store ls m align data = s.storeChecked t m (storeAccs lanes data)) := by
  refine ⟨?_, ?_, ?_⟩ <;> rintro _ <;> intros <;> subst c <;> simp only [State.store, hpol, ‹s.checkRecord _ _ _ _ _ _ = _›] <;> rfl

/-- Stores that pass their checks enter as R87 and R344 say. -/
theorem storesEnter_of_exec {i : Instr} {s t : State} {m : MemMod} {xs : List StoreAcc} (h : exec i s = .next (s.storeChecked t m xs)) :
    StoresEnter i s t (s.pol m) xs := by
  refine ⟨?_, fun hne hw => ?_, ?_⟩
  · rintro rfl
    exact h
  · rw [Next, h, State.storeChecked, if_neg (by simpa using hne), State.storeOut, if_pos hw]
  · rintro hne hw e rfl
    rw [State.storeChecked, if_neg (by simpa using hne), State.storeOut, if_neg (by simp [hw]), State.storeAll] at h
    refine ⟨fun hr => ?_, fun hr => ?_, fun hr => ?_, fun hr => ?_⟩ <;> (rw [hr] at h; exact h)

/-- A store instruction follows the rules of an access. -/
theorem storeRules_of_exec {i : Instr} {s : State} {ls : List (Member × Nat)} {m : MemMod} {align : Bool} {data : Member → List Byte × Nat}
    (h : exec i s = .next (s.store ls m align data)) :
    AccessRules i s m true false
      (s.checkRecord (s.record s.sch.cur.blk m.recNo.toNat) (memOff m) (memWidth m) 2 { align := align, store := true } ls)
      fun t lanes _ => StoresEnter i s t (s.pol m) (storeAccs lanes data) := by
  refine ⟨fun hpol => h.trans (congrArg _ (if_pos hpol)), fun hpol => ?_⟩
  obtain ⟨htrap, hmiss, hok⟩ := store_of_check (data := data) hpol rfl
  exact ⟨fun x hc => h.trans (congrArg _ (htrap x hc)), fun t hc => h.trans (congrArg _ (hmiss t hc)),
    fun t lanes oob hc => storesEnter_of_exec (h.trans (congrArg _ (hok t lanes oob hc)))⟩

/-- Settles O21: ST, STM and STK are one store of their lanes. -/
theorem storesComplete : Obligations.StoresComplete := fun _ _ _ _ _ _ =>
  ⟨fun h => storeRules_of_exec (issue_alone h), fun h => storeRules_of_exec (issue_alone h), fun h => storeRules_of_exec (issue_alone h)⟩

/-! ## The frame of an access -/

/-- What an access leaves unchanged at its issue. -/
structure State.AccessKeeps (s t : State) : Prop where
  regs : t.regs = s.regs
  cells : t.mem.cells = s.mem.cells
  bytes : t.sp.bytes = s.sp.bytes
  recs : t.sp.recs = s.sp.recs
  featacc : t.host.featacc = s.host.featacc

namespace State.AccessKeeps

theorem trans {s t u : State} (h : s.AccessKeeps t) (k : t.AccessKeeps u) : s.AccessKeeps u where
  regs := k.regs.trans h.regs
  cells := k.cells.trans h.cells
  bytes := k.bytes.trans h.bytes
  recs := k.recs.trans h.recs
  featacc := k.featacc.trans h.featacc

theorem of_untouched {s t : State} (h : s.Untouched t) : s.AccessKeeps t := by
  constructor <;> simp [h.regs, h.mem, h.sp, h.host]

theorem of_checkedTo {s t : State} (h : s.CheckedTo t) : s.AccessKeeps t := by
  constructor <;> simp [h.regs, h.mem, h.sp, h.featacc]

theorem of_reaches {s t : State} {r : BitVec 256} {off : Int} {w words : Nat} {n : Need} {lanes : List (Member × Nat)}
    (h : (s.checkRecord r off w words n lanes).Reaches t) : s.AccessKeeps t := of_checkedTo (checkRecord_reaches h)

theorem refl (s : State) : s.AccessKeeps s := of_untouched (.refl s)
theorem takeTrap (s : State) (i : TrapInfo) : s.AccessKeeps (s.takeTrap i) := of_untouched (.takeTrap s i)
theorem illop (s : State) (words : Nat) (bound : Bool) : s.AccessKeeps (s.illop words bound) := of_untouched (.illop s words bound)
theorem park (s : State) (w : Wait) (adv : Nat) : s.AccessKeeps (s.park w adv) := of_untouched (.park s w adv)
theorem advance (s : State) (n : Nat) : s.AccessKeeps (s.advance n) := of_untouched (.advance s n)

theorem foldl {α : Type} {f : State → α → State} (h : ∀ (s : State) a, s.AccessKeeps (f s a)) (l : List α) (s : State) :
    s.AccessKeeps (l.foldl f s) := by
  induction l generalizing s with
  | nil => exact refl s
  | cons a l ih => exact (h s a).trans (ih (f s a))

theorem afterRead (s : State) (first : Nat) (acq : Bool) (words : Nat) : s.AccessKeeps (s.afterRead first acq words) := by
  unfold State.afterRead
  split
  · exact park s _ _
  · exact advance s _

theorem load (s : State) (d a b : Field) (g : Guard) (m : MemMod) (align : Bool) : s.AccessKeeps (s.load d a b g m align) := by
  unfold State.load
  dsimp only
  split
  · exact illop s _ _
  · split
    · exact takeTrap s _
    · next hc => exact (of_reaches (.inl hc)).trans (park _ _ _)
    · next t lanes oob hc =>
      split
      · exact park s _ _
      · refine (of_reaches (.inr ⟨lanes, oob, hc⟩)).trans ?_
        constructor <;> simp

theorem loadK (s : State) (d a b : Field) (g : Guard) (m : MemMod) : s.AccessKeeps (s.loadK d a b g m) := by
  unfold State.loadK
  dsimp only
  split
  · exact illop s _ _
  · split
    · exact takeTrap s _
    · next hc => exact (of_reaches (.inl hc)).trans (park _ _ _)
    · next t lanes oob hc =>
      split
      · exact park s _ _
      · refine (of_reaches (.inr ⟨lanes, oob, hc⟩)).trans (trans ?_ (afterRead _ _ _ _))
        constructor <;> simp

theorem storeAll (s t : State) (words flag : Nat) (isWrite : Bool) (pol : Nat → Word) (xs : List StoreAcc) {done : State → State}
    (ht : s.AccessKeeps t) (hd : ∀ t : State, t.AccessKeeps (done t)) : s.AccessKeeps (s.storeAll t words flag isWrite pol xs done) := by
  unfold State.storeAll
  split
  · refine ht.trans (trans ?_ (hd _))
    constructor <;> simp
  · exact park s _ _
  · exact takeTrap s _
  · refine trans ?_ (park _ _ _)
    constructor <;> simp

theorem cutReleases (s : State) (pol : Nat → Word) : s.AccessKeeps (s.cutReleases pol) := by constructor <;> simp

theorem storeOut (s t : State) (words : Nat) (pol : Nat → Word) (xs : List StoreAcc) {done : State → State}
    (ht : s.AccessKeeps t) (hd : ∀ t : State, t.AccessKeeps (done t)) : s.AccessKeeps (s.storeOut t words pol xs done) := by
  unfold State.storeOut
  split
  · exact park s _ _
  · refine storeAll s _ _ _ _ _ _ ?_ fun t => (cutReleases t _).trans (hd _)
    split
    · exact ht.trans (cutReleases t _)
    · exact ht

theorem store (s : State) (ls : List (Member × Nat)) (m : MemMod) (align : Bool) (data : Member → List Byte × Nat) :
    s.AccessKeeps (s.store ls m align data) := by
  unfold State.store
  split
  · exact illop s _ _
  · split
    · exact takeTrap s _
    · next hc => exact (of_reaches (.inl hc)).trans (park _ _ _)
    · next t lanes oob hc =>
      have ht := of_reaches (.inr ⟨lanes, oob, hc⟩)
      dsimp only
      split
      · refine ht.trans (trans ?_ (advance _ _))
        constructor <;> simp
      · exact storeOut s t _ _ _ ht fun t => advance t _

theorem spadLoad (s : State) (d : Field) (sx : Bool) (m : MemMod) (r : SpadRes) : s.AccessKeeps (s.spadLoad d sx m r) := by
  unfold State.spadLoad
  dsimp only
  split
  · exact illop s _ _
  · split
    · exact takeTrap s _
    · exact park s _ _
    · split
      · exact park s _ _
      · refine trans ?_ (afterRead _ _ _ _)
        exact foldl (fun t c => by constructor <;> simp) _ _

/-- An instruction whose act keeps them keeps them. -/
theorem of_issue {i : Instr} {q : Issue} {s t : State} {act : State → State} (h : issue i q s act = .next t) (hact : ∀ u : State, u.AccessKeeps (act u)) :
    s.AccessKeeps t := by
  rcases issue_cases h with hs | ⟨u, hu, rfl⟩
  · exact of_untouched hs
  · exact (of_untouched hu).trans (hact u)

end State.AccessKeeps

/-- PREF's requests. -/
def State.prefetch (s : State) (fill : Bool) (m : MemMod) (lanes : List LaneAcc) : State :=
  lanes.foldl (fun t x => match x.parts.head? with
    | some p => t.addReq { id := 0, slice := p.home, core := t.curCore, ctx := t.ctxOf t.sch.cur.blk, pa := p.pa / 64 * 64, kind := .pref fill,
                           pend := 0, tkeep := polKeep (t.pol m x.m.crew), tnorm := polNorm (t.pol m x.m.crew), ccls := p.tr.ccls, ilv := p.tr.ilv,
                           charged := false, heldTo := 0 }
    | none => t) s

@[simp] theorem State.prefetch_frame (s : State) (fill : Bool) (m : MemMod) (lanes : List LaneAcc) : (s.prefetch fill m lanes).clk = s.clk ∧
    (s.prefetch fill m lanes).sch = s.sch ∧ (s.prefetch fill m lanes).regs = s.regs ∧ (s.prefetch fill m lanes).mem = s.mem ∧
    (s.prefetch fill m lanes).sp = s.sp ∧ (s.prefetch fill m lanes).host = s.host := by
  unfold State.prefetch
  and_intros <;> refine foldl_frame (fun t x => ?_) _ _ <;> split <;> simp

/-- What PREF does once it issues. -/
def State.pref (s : State) (a b : Field) (g : Guard) (m : MemMod) : State :=
  if s.polIllop m false true then s.illop 2 false
  else match s.checkRecord (s.record s.sch.cur.blk m.recNo.toNat) (memOff m) (memWidth m) 2 { align := false, r := true, silent := true } (s.elemLanes a g) with
    | .trap i => s.takeTrap i
    | .miss t => t.park .crew 0
    | .ok t lanes _ => (t.prefetch (b.getLsbD 0) m lanes).advance 2

theorem execPref_eq_issue (a b : Field) (g : Guard) (m : MemMod) (s : State) :
    execPref a b g m s = issue (.pref a b g m) { words := 2, guard := g, keys := s.aKeys a 1 ++ s.polKeys m.pol.toNat } s fun t => t.pref a b g m := rfl

theorem State.AccessKeeps.pref (s : State) (a b : Field) (g : Guard) (m : MemMod) : s.AccessKeeps (s.pref a b g m) := by
  unfold State.pref
  split
  · exact .illop s _ _
  · split
    · exact .takeTrap s _
    · next hc => exact (State.AccessKeeps.of_reaches (.inl hc)).trans (.park _ _ _)
    · next v lanes oob hc =>
      refine (State.AccessKeeps.of_reaches (.inr ⟨lanes, oob, hc⟩)).trans (.trans ?_ (.advance (v.prefetch (b.getLsbD 0) m lanes) 2))
      constructor <;> simp

/-- Settles O22: instruction by instruction. -/
theorem accessFrame : Obligations.AccessFrame := by
  intro d a b g m s t i hi hnext
  suffices h : s.AccessKeeps t from ⟨h.regs, h.cells, h.bytes, h.recs, h.featacc⟩
  simp only [List.mem_cons, List.not_mem_nil, or_false] at hi
  rcases hi with rfl | rfl | rfl | rfl | rfl | rfl | rfl | rfl | rfl
  · exact .of_issue hnext fun u => .load u _ _ _ _ _ _
  · exact .of_issue hnext fun u => .load u _ _ _ _ _ _
  · exact .of_issue hnext fun u => .loadK u _ _ _ _ _
  · exact .of_issue hnext fun u => .store u _ _ _ _
  · exact .of_issue hnext fun u => .store u _ _ _ _
  · exact .of_issue hnext fun u => .store u _ _ _ _
  · exact .of_issue ((execPref_eq_issue a b g m s).symm.trans hnext) fun u => .pref u _ _ _ _
  · exact .of_issue hnext fun u => .spadLoad u _ _ _ _
  · exact .of_issue hnext fun u => .spadLoad u _ _ _ _

end Sys2Proof.Machine

/-!
PROOF (R215 to R218, R222 to R224): scratchpad access, L1 maintenance, prefetch and RECLD.
-/
namespace Sys2Proof.Machine

-- One theorem after the other: in parallel they ask for more threads than the host allows.
set_option Elab.async false

/-! ## Scratchpads (R215 to R218) -/

/-- A load from scratchpads follows R215 to R217. -/
theorem spadRules_of_load {i : Instr} {s : State} {d : Field} {sx : Bool} {m : MemMod} {r : SpadRes} (h : exec i s = .next (s.spadLoad d sx m r)) :
    SpadRules i s m false true r fun l =>
      ((l.any fun e => s.lineAbsent e.blk e.x (memWidth m)) = true → Next (exec i s) (s.park .crew 0)) ∧
      ((l.any fun e => s.lineAbsent e.blk e.x (memWidth m)) = false → Next (exec i s) (s.spadLoad d sx m (.ok l))) := by
  refine ⟨fun hpol => h.trans (congrArg _ (if_pos hpol)), fun hpol => ⟨?_, ?_, ?_⟩⟩
  · rintro x rfl
    rw [Next, h, State.spadLoad, if_neg (by simp [hpol])]
  · rintro rfl
    rw [Next, h, State.spadLoad, if_neg (by simp [hpol])]
  · rintro l rfl
    refine ⟨fun habs => ?_, fun _ => h⟩
    rw [Next, h, State.spadLoad, if_neg (by simp [hpol])]
    exact congrArg _ (if_pos habs)

theorem Spad.write_byte_of_ne (p : Spad) {b x : Nat} (blk y : Nat) {bs : List (Nat × Byte)}
    (h : ∀ e ∈ bs, spadKey b (x + e.1) ≠ spadKey blk y) : (p.write b x bs).byte blk y = p.byte blk y := by
  unfold Spad.write Spad.byte
  dsimp only
  generalize p.bytes = m
  induction bs generalizing m with
  | nil => rfl
  | cons e bs ih =>
    rw [List.foldl_cons, ih (fun e' he' => h e' (List.mem_cons_of_mem _ he')), mget_mput_ne _ _ _ (h e List.mem_cons_self).symm]

@[simp] theorem State.spadStored_frame (s : State) (l : List SpadAcc) (data : Member → List Byte × Nat) :
    (s.spadStored l data).clk = s.clk ∧ (s.spadStored l data).sch = s.sch ∧ (s.spadStored l data).regs = s.regs ∧
    (s.spadStored l data).mem.cells = s.mem.cells := by
  unfold State.spadStored
  and_intros
  · exact foldl_frame (F := fun t : State => t.clk) (by simp) _ _
  · exact foldl_frame (F := fun t : State => t.sch) (by simp) _ _
  · exact foldl_frame (F := fun t : State => t.regs) (by simp) _ _
  · exact foldl_frame (F := fun t : State => t.mem.cells) (by intros; rfl) _ _

theorem State.spadStored_byte_of_ne (s : State) {l : List SpadAcc} {data : Member → List Byte × Nat} (blk x : Nat)
    (h : ∀ e ∈ l, ∀ y ∈ maskBytes (data e.m).1 (data e.m).2, spadKey e.blk (e.x + y.1) ≠ spadKey blk x) :
    (s.spadStored l data).sp.byte blk x = s.sp.byte blk x := by
  unfold State.spadStored
  induction l generalizing s with
  | nil => rfl
  | cons e l ih =>
    rw [List.foldl_cons, ih _ fun e' he' => h e' (List.mem_cons_of_mem _ he')]
    exact Spad.write_byte_of_ne _ blk x (h e List.mem_cons_self)

/-- The pending operations of a scratchpad store, which free its flag. -/
def State.spadPends (s : State) (isWrite : Bool) : State :=
  s.sch.cur.crews.foldl (fun t c =>
    t.addPend { Pend.blank with blk := s.sch.cur.blk, crew := c, flag := s.setb, seta := false, isWrite := isWrite, pc := s.sch.cur.pc }) s

@[simp] theorem State.spadPends_frame (s : State) (isWrite : Bool) : (s.spadPends isWrite).clk = s.clk ∧ (s.spadPends isWrite).sch = s.sch ∧
    (s.spadPends isWrite).regs = s.regs ∧ (s.spadPends isWrite).mem = s.mem ∧ (s.spadPends isWrite).sp = s.sp := by
  unfold State.spadPends
  and_intros <;> exact foldl_frame (by intros; rfl) _ _

theorem State.setb_eq_of_sch {s t : State} (h : t.sch = s.sch) : t.setb = s.setb := by simp only [State.setb, h]

/-- A store to scratchpads that neither waits nor faults. -/
theorem State.spadStore_ok {s : State} {m : MemMod} {peer : Bool} {l : List SpadAcc} {data : Member → List Byte × Nat}
    (hpol : s.polIllop m true false = false) (hw : l = [] ∨ s.orderWaits (s.pol m) = false) :
    s.spadStore m peer (.ok l) data = (((s.spadStored l data).spadPends (peer && !l.isEmpty)).cutReleases (s.pol m)).advance 2 := by
  have hgo : ¬(!l.isEmpty && s.orderWaits (s.pol m)) = true := by rcases hw with rfl | hw <;> simp [*]
  rw [State.spadStore, if_neg (by simp [hpol])]
  simp only [if_neg hgo, State.spadPends, State.spadStored_frame, State.setb_eq_of_sch (State.spadStored_frame s l data).2.1]
  rfl

@[simp] theorem State.cutReleases_cur (s : State) (pol : Nat → Word) : (s.cutReleases pol).sch.cur = s.sch.cur := by
  unfold State.cutReleases
  refine foldl_frame (F := fun t : State => t.sch.cur) (fun t c => ?_) _ _
  split <;> rfl

/-- A store to scratchpads follows R215, R216 and R218. -/
theorem spadRules_of_store {i : Instr} {s : State} {m : MemMod} {peer : Bool} {r : SpadRes} {data : Member → List Byte × Nat}
    (h : exec i s = .next (s.spadStore m peer r data)) : SpadRules i s m true false r fun l => SpadStores i s (s.pol m) l data := by
  refine ⟨fun hpol => h.trans (congrArg _ (if_pos hpol)), fun hpol => ⟨?_, ?_, ?_⟩⟩
  · rintro x rfl
    rw [Next, h, State.spadStore, if_neg (by simp [hpol])]
  · rintro rfl
    rw [Next, h, State.spadStore, if_neg (by simp [hpol])]
  · rintro l rfl
    refine ⟨fun hne hw => ?_, fun hw => ⟨_, h, ?_⟩⟩
    · rw [Next, h, State.spadStore, if_neg (by simp [hpol])]
      exact congrArg _ (if_pos (by simp [hne, hw]))
    · rw [State.spadStore_ok hpol hw]
      exact ⟨by simp, by simp, by simp, by simp [State.now],
        fun blk x hx => (by simp : _ = (s.spadStored l data).sp.byte blk x).trans (s.spadStored_byte_of_ne blk x hx)⟩

/-- Settles O23: the loads are one scratchpad load, the stores one scratchpad store. -/
theorem scratchpadCompletes : Obligations.ScratchpadCompletes := fun _ _ _ _ _ _ =>
  ⟨fun h => spadRules_of_load (issue_alone h), fun h => spadRules_of_load (issue_alone h), fun h => spadRules_of_store (issue_alone h),
    fun h => spadRules_of_store (issue_alone h), fun h => spadRules_of_store (issue_alone h)⟩

/-! ## INVL1, PREF, RECLD (R222 to R224) -/

/-- INVL1 of a line, of a bundle with one crew that has an active lane. -/
theorem exec_invl1Line {s : State} {k : BitVec 6} {g : Guard} {c : Nat}
    (h : s.passes (.invl1Line k g)
      { guard := g, keys := s.sch.cur.crews.flatMap fun c => [.k s.sch.cur.blk c k.toNat, .k s.sch.cur.blk c (k.toNat + 1)] } = true)
    (hc : crewsOf (s.lanesOn g) = [c]) {r : State × Bool}
    (hr : s.invLine s.curCore (s.ctxOf s.sch.cur.blk) (s.regs.kval s.sch.cur.blk c k.toNat true).toNat = r) :
    Next (exec (.invl1Line k g) s) (if r.2 then r.1.park .again 0 else r.1.advance 1) := by
  refine (issue_alone h).trans ?_
  simp only [hc, List.map_cons, List.map_nil, List.foldl_cons, List.foldl_nil, hr, Bool.false_or]

theorem State.prefetch_reqs_length (s : State) (fill : Bool) (m : MemMod) (lanes : List LaneAcc) :
    (s.prefetch fill m lanes).pipe.reqs.length = s.pipe.reqs.length + (lanes.filter fun x => !x.parts.isEmpty).length := by
  unfold State.prefetch
  induction lanes generalizing s with
  | nil => rfl
  | cons x lanes ih =>
    rw [List.foldl_cons, ih]
    cases hx : x.parts with
    | nil => simp [hx]
    | cons p ps => simp [hx, State.addReq]; omega

theorem State.setRecord_record (s : State) (b n : Nat) (r : BitVec 256) : (s.setRecord b n r).record b n = r := by
  rw [State.record, State.setRecord, mget_mput, if_pos rfl]

theorem State.setRecord_record_ne (s : State) (b : Nat) {n k : Nat} (r : BitVec 256) (h : k ≠ n) : (s.setRecord b n r).record b k = s.record b k :=
  mget_mput_ne _ _ _ (by omega)

theorem State.advance_record (s : State) (k b n : Nat) : (s.advance k).record b n = s.record b n := rfl

/-- RECLD from memory, by the outcome of its checks. -/
theorem recldMem_of_check {s : State} {a : Field} {m : MemMod} (hpol : s.polIllop m false true = false) {va : Nat}
    (hva : va = (BitVec.ofInt 64 ((s.regs.kval s.sch.cur.blk s.sch.cur.crew a.num true).toNat + memOff m)).toNat) {c : Checked}
    (hc : s.checkLanes 32 2 { r := true } [(⟨lowLane s.sch.cur.members, s.sch.cur.crew⟩, va)] [] = c) :
    (∀ x, c = .trap x → s.recldMem a m = s.takeTrap x) ∧
    (∀ t lanes oob, c = .ok t lanes oob → t.loadBlocked lanes = false → (s.recldMem a m).sch.cur.wait = .pend t.pipe.nextId ∧
      (s.recldMem a m).sch.cur.adv = 2 ∧ (s.recldMem a m).regs = t.regs ∧ (s.recldMem a m).mem = t.mem ∧ (s.recldMem a m).sp = t.sp) := by
  subst hva
  refine ⟨?_, ?_⟩
  · rintro x rfl
    simp only [State.recldMem, hpol, hc, Bool.false_eq_true, if_false]
  · rintro t lanes oob rfl hb
    simp only [State.recldMem, hpol, hc, hb, Bool.false_eq_true, if_false]
    refine ⟨rfl, rfl, ?_, ?_, ?_⟩ <;> simp

theorem checkLanes_misaligned {s : State} {w words va : Nat} {n : Need} {x : Member} (hn : n.align = true) (h : va % w ≠ 0) :
    s.checkLanes w words n [(x, va)] [] = .trap { cls := .misalign, va := va, lane := x.lane, words := words } := by
  have : ([(x, va)].filter fun e => n.align && e.2 % w != 0) = [(x, va)] := by simp [hn, h]
  simp only [State.checkLanes, this, List.head?_cons]

/-- PREF follows the rules of an access, and sends a request for each lane left. -/
theorem accessRules_pref {a b : Field} {g : Guard} {m : MemMod} {s : State}
    (h : s.passes (.pref a b g m) { words := 2, guard := g, keys := s.aKeys a 1 ++ s.polKeys m.pol.toNat } = true) :
    AccessRules (.pref a b g m) s m false true (s.laneCheck a g m { align := false, r := true, silent := true }) fun t lanes _ =>
      ∃ u, Next (exec (.pref a b g m) s) u ∧ u.regs = t.regs ∧ u.mem = t.mem ∧ u.sch.cur = t.sch.cur.step 2 t.now ∧
        (u.pipe.reqs.length = t.pipe.reqs.length + (lanes.filter fun x => !x.parts.isEmpty).length) := by
  have hx : exec (.pref a b g m) s = .next (s.pref a b g m) := (execPref_eq_issue a b g m s).trans (issue_alone h)
  refine ⟨fun hpol => hx.trans (congrArg _ (if_pos hpol)), fun hpol => ?_⟩
  rw [State.pref, if_neg (by simp [hpol])] at hx
  unfold State.laneCheck
  refine ⟨fun x hc => ?_, fun t hc => ?_, fun t lanes oob hc => ⟨(t.prefetch (b.getLsbD 0) m lanes).advance 2, ?_, by simp, by simp, by simp [State.now],
    State.prefetch_reqs_length t _ _ _⟩⟩
  · simpa only [hc] using hx
  · simpa only [hc] using hx
  · simpa only [hc] using hx

/-- What RECLD does once it issues. -/
def State.recld (s : State) (a b : Field) (g : Guard) (m : MemMod) : State :=
  if !s.uniformOn g then s.advance 2 else if b.getLsbD 0 then s.recldMem a m else s.recldK a m.recNo.toNat

theorem exec_recld {a b : Field} {g : Guard} {m : MemMod} {s : State}
    (h : s.passes (.recld a b g m)
      { words := 2, bound := .crew, guard := g,
        keys := s.fieldKeys a true (if b.getLsbD 0 then 2 else 8) ++ (if b.getLsbD 0 then s.polKeys m.pol.toNat else []) } = true) :
    exec (.recld a b g m) s = .next (s.recld a b g m) := issue_alone h

/-- Settles O24: instruction by instruction. -/
theorem maintenanceCompletes : Obligations.MaintenanceCompletes := by
  intro a b k g m s
  refine ⟨fun h => ⟨fun hl => ?_, fun hl => ?_⟩, fun h => ⟨fun hl => ?_, ?_, ?_⟩, accessRules_pref, fun h => ?_⟩
  · exact (issue_alone h).trans (by simp [hl])
  · exact (issue_alone h).trans (by simp [hl])
  · exact (issue_alone h).trans (by simp [hl, crewsOf, dedup])
  · rintro c x t va hc rfl htr
    exact exec_invl1Line h hc (r := (t.setL1 _, false)) (by simp only [State.invLine, htr])
  · rintro c t va hc rfl
    exact ⟨fun htr => exec_invl1Line h hc (r := (t, false)) (by simp only [State.invLine, htr]),
      fun htr => exec_invl1Line h hc (r := (t, true)) (by simp only [State.invLine, htr])⟩
  · have hx := exec_recld h
    refine ⟨fun hu => ?_, ?_, ?_⟩
    · rwa [State.recld, if_pos (by simp [hu])] at hx
    · rintro hu hb r rfl
      rw [State.recld, if_neg (by simp [hu]), if_neg (Bool.eq_false_iff.mp hb), State.recldK] at hx
      refine ⟨fun hr => by rwa [if_pos hr] at hx, fun hr => ?_⟩
      rw [if_neg (by simp [hr])] at hx
      exact ⟨_, hx, (State.advance_record _ _ _ _).trans (State.setRecord_record _ _ _ _),
        fun n hn => (State.advance_record _ _ _ _).trans (State.setRecord_record_ne _ _ _ hn), by simp, by simp⟩
    · intro hu hb hpol va hva
      rw [State.recld, if_neg (by simp [hu]), if_pos hb] at hx
      obtain ⟨htrap, hok⟩ := recldMem_of_check hpol hva rfl
      exact ⟨fun hmis => hx.trans (congrArg _ (htrap _ (checkLanes_misaligned rfl hmis))), fun x hc => hx.trans (congrArg _ (htrap x hc)),
        fun t lanes oob hc hb => ⟨_, hx, hok t lanes oob hc hb⟩⟩

end Sys2Proof.Machine

/-!
PROOF (R82, R87, R93, R97, R219): a store and an atomic at their home point.
-/
namespace Sys2Proof.Machine

-- One theorem after the other: in parallel they ask for more threads than the host allows.
set_option Elab.async false

theorem Mem.putAt_get (m : Mem) (pa : Nat) {bs : List (Nat × Byte)} (hnd : (bs.map fun e => e.1).Nodup) {e : Nat × Byte} (he : e ∈ bs) :
    mget memDefault (m.putAt pa bs).cells (pa + e.1) = e.2 := by
  induction bs generalizing m with
  | nil => cases he
  | cons x bs ih =>
    rw [List.map_cons, List.nodup_cons] at hnd
    rcases List.mem_cons.mp he with rfl | he
    · refine (Mem.putAt_ne (m.put _ _) pa _ bs fun y hy hxy => hnd.1 (List.mem_map.mpr ⟨y, hy, by omega⟩)).trans ?_
      rw [Mem.put, mget_mput, if_pos rfl]
    · exact ih (m.put _ _) hnd.2 he

/-- A copy that stands for a line of one home stands in that home, and memory holds its bytes. -/
theorem State.oneHome.find {s : State} {slice line : Nat} (h : s.oneHome slice line) {m : MscLine} (hm : s.mscFind slice line = some m) : m.own = none := by
  have := List.find?_some hm
  rw [Bool.and_eq_true, beq_iff_eq, beq_iff_eq] at this
  exact (h m (List.mem_of_find?_eq_some hm) this.2).2

theorem State.oneHome.find_shares {s : State} {slice line : Nat} (h : s.oneHome slice line) (hm : s.mscFind slice line = none) :
    (s.sl.lines.find? fun m => m.shares line) = none := by
  refine List.find?_eq_none.mpr fun m hmem hs => ?_
  rw [MscLine.shares, Bool.and_eq_true, beq_iff_eq] at hs
  exact List.find?_eq_none.mp hm m hmem (by simp [hs.1, (h m hmem hs.1).1])

theorem State.homeWrite_cells (s : State) (slice pa : Nat) (bs : List (Nat × Byte)) :
    (s.homeWrite slice pa bs).mem.cells = (s.homePut slice pa bs).mem.cells := by simp [State.homeWrite]

/-- A write to a line of one home stands in memory (R82). -/
theorem State.homePut_cells_of_oneHome {s : State} {slice pa : Nat} (bs : List (Nat × Byte)) (h : s.oneHome slice (lineOf pa)) :
    (s.homePut slice pa bs).mem.cells = (s.mem.putAt pa bs).cells := by
  unfold State.homePut
  dsimp only
  split
  · next hm =>
    have hfind := h.find_shares hm
    rw [lineOf] at hfind
    rw [State.putBehind, hfind]
    simp
  · next m hm =>
    rw [h.find hm]
    simp

theorem State.homeWrite_memByte {s : State} {slice pa : Nat} {bs : List (Nat × Byte)} (h : s.oneHome slice (lineOf pa))
    (hnd : (bs.map fun e => e.1).Nodup) {e : Nat × Byte} (he : e ∈ bs) : (s.homeWrite slice pa bs).memByte (pa + e.1) = e.2 := by
  rw [State.memByte, State.homeWrite_cells, State.homePut_cells_of_oneHome bs h, Mem.putAt_get _ _ hnd he]

/-- Settles O27: a write of a line with one home stands in memory; one of a home's own copy changes that copy. -/
theorem homeWriteFrame : Obligations.HomeWriteFrame := fun s slice pa bs =>
  ⟨fun hnd h _ he => State.homeWrite_memByte h hnd he, fun m d hm hd hr => by
      rw [State.homeWrite_cells, State.homePut, hm]
      simp [hd, hr],
    fun a h => State.homeWrite_memByte_ne s slice pa a bs fun e he => (h e he).symm⟩

/-! ## Atomics (R93, R219) -/

@[simp] theorem natToBytes_length (n x : Nat) : (natToBytes n x).length = n := by
  induction n generalizing x with
  | zero => rfl
  | succ n ih => rw [natToBytes, List.length_cons, ih]

theorem bytesToNat_lt (bs : List Byte) : bytesToNat bs < 256 ^ bs.length := by
  induction bs with
  | nil => simp [bytesToNat]
  | cons b t ih =>
    have hb := b.isLt
    rw [bytesToNat, List.length_cons, Nat.pow_succ]
    omega

theorem natToBytes_bytesToNat (bs : List Byte) : natToBytes bs.length (bytesToNat bs) = bs := by
  induction bs with
  | nil => rfl
  | cons b t ih =>
    have hb := b.isLt
    rw [bytesToNat, List.length_cons, natToBytes, show (b.toNat + 256 * bytesToNat t) / 256 = bytesToNat t by omega, ih]
    exact congrArg (· :: t) (BitVec.eq_of_toNat_eq (by rw [BitVec.toNat_ofNat]; omega))

theorem State.soil_place (s : State) (m : MscLine) : (s.soil m).line = m.line ∧ (s.soil m).slice = m.slice ∧ (s.soil m).own = m.own := by
  unfold State.soil
  split <;> exact ⟨rfl, rfl, rfl⟩

theorem State.oneHome.mscHit {s : State} {slice line : Nat} (h : s.oneHome slice line) (n k : Nat) (w : Bool) : (s.mscHit n k w).oneHome slice line := by
  intro m hm hl
  obtain ⟨x, hx, rfl⟩ := List.mem_map.mp hm
  obtain ⟨hline, hslice, hown⟩ := s.soil_place x
  generalize hy : (if x.slice == n && x.line == k then { (if w then s.soil x else x) with used := s.now } else x) = y at hl
  have hxy : y.line = x.line ∧ y.slice = x.slice ∧ y.own = x.own := by
    subst hy
    split
    · split
      · exact ⟨hline, hslice, hown⟩
      · exact ⟨rfl, rfl, rfl⟩
    · exact ⟨rfl, rfl, rfl⟩
  rw [hxy.2.1, hxy.2.2]
  exact h x hx (hxy.1.symm.trans hl)

/-- The home of a line that stands nowhere else reads it from memory (R82). -/
theorem State.homeData_of_oneHome {s : State} {slice line : Nat} (h : s.oneHome slice line) : (s.homeData slice line).1 = s.memBytes (line * 64) 64 := by
  unfold State.homeData
  split
  · next m hm => rw [h.find hm]; rfl
  · next hm => rw [State.behind, h.find_shares hm]; rfl

theorem State.homeBytes_of_oneHome {s : State} {slice pa n : Nat} (h : s.oneHome slice (lineOf pa)) (hn : pa % 64 + n ≤ 64) :
    s.homeBytes slice pa n = s.memBytes pa n := by
  rw [State.homeBytes, show pa / 64 = lineOf pa from rfl, State.homeData_of_oneHome h]
  refine List.ext_getElem (by simp [State.memBytes]; omega) fun i hi hi' => ?_
  simp only [State.memBytes, List.getElem_take, List.getElem_drop, List.getElem_map, List.getElem_range]
  refine congrArg s.memByte ?_
  rw [lineOf]
  omega

theorem atOffsets_map_fst (bs : List Byte) : ((atOffsets bs).map fun e => e.1) = List.range bs.length := by
  rw [atOffsets]
  exact List.map_fst_zip (by simp)

theorem mem_atOffsets {bs : List Byte} {i : Nat} (h : i < bs.length) : (i, bs[i]) ∈ atOffsets bs :=
  List.mem_iff_getElem.mpr ⟨i, by simpa [atOffsets] using h, by simp [atOffsets]⟩

theorem atOffsets_lt {bs : List Byte} {e : Nat × Byte} (h : e ∈ atOffsets bs) : e.1 < bs.length := by
  simpa using List.of_mem_zip (l₁ := List.range bs.length) h |>.1

/-- Whole data written to a line of one home reads back. -/
theorem State.homeWrite_memBytes {s : State} {slice pa : Nat} (bs : List Byte) (h : s.oneHome slice (lineOf pa)) :
    (s.homeWrite slice pa (atOffsets bs)).memBytes pa bs.length = bs := by
  refine List.ext_getElem (by simp [State.memBytes]) fun i hi hi' => ?_
  simp only [State.memBytes, List.getElem_map, List.getElem_range]
  exact State.homeWrite_memByte h (by rw [atOffsets_map_fst]; exact List.nodup_range) (mem_atOffsets hi')

/-- The old value that an atomic at its home point reads, in its width. -/
def State.atomOld (s : State) (r : Req) (wid : Nat) : List Byte :=
  natToBytes wid (bytesToNat ((s.mscHit r.slice (lineOf r.pa) true).homeBytes r.slice r.pa wid))

/-- The state whose memory an atomic at its home point leaves. -/
def State.atomHome (s : State) (r : Req) (op wid v n : Nat) : State :=
  (s.mscHit r.slice (lineOf r.pa) true).homeWrite r.slice r.pa (atOffsets (natToBytes wid (atomNew op (8 * wid) (bytesToNat (s.atomOld r wid)) v n)))

theorem State.atomicAt_mem {s : State} {r : Req} {op wid lane crew v n pt wt : Nat} (h1 : pt ≠ 1) (h2 : pt ≠ 2) :
    (s.atomicAt r op wid lane crew v n pt wt).mem = (s.atomHome r op wid v n).mem := by
  rw [State.atomicAt]
  simp only [if_neg h1, if_neg h2]
  simp [State.atomHome, State.atomOld]

theorem State.memByte_congr {s t : State} (h : t.mem = s.mem) (a : Nat) : t.memByte a = s.memByte a := by rw [State.memByte, h, State.memByte]
theorem State.memBytes_congr {s t : State} (h : t.mem = s.mem) (a n : Nat) : t.memBytes a n = s.memBytes a n := by
  simp only [State.memBytes, State.memByte_congr h]

theorem State.atomOld_of_oneHome {s : State} {r : Req} {wid : Nat} (h : s.oneHome r.slice (lineOf r.pa)) (hw : r.pa % 64 + wid ≤ 64) :
    s.atomOld r wid = s.memBytes r.pa wid := by
  rw [State.atomOld, State.homeBytes_of_oneHome (h.mscHit _ _ _) hw, State.memBytes_congr (by simp : _ = s.mem)]
  have hlen : (s.memBytes r.pa wid).length = wid := by simp [State.memBytes]
  simpa only [hlen] using natToBytes_bytesToNat (s.memBytes r.pa wid)

@[simp] theorem State.atomBad_atoms (s : State) (r : Req) : (s.atomBad r).pipe.atoms = s.pipe.atoms := by
  unfold State.atomBad
  split <;> rfl

/-- With no atomic left that may act, none acts. -/
theorem foldl_atomAct_of_unfit {t : State} (h : ∀ r ∈ t.pipe.atoms, r.fit = false) : ((t.pipe.atoms.filter fun r => r.fit).foldl State.atomAct t) = t := by
  rw [List.filter_eq_nil_iff.mpr fun r hr => by simp [h r hr], List.foldl_nil]

/-- An instruction of which no lane writes leaves memory as it is. -/
theorem State.settleAtoms_mem_of_poison {s : State} {i here : Nat} (hbad : ∃ r ∈ s.pipe.atoms, r.atomOf i = true ∧ s.atomPoison r = true)
    (hfit : ∀ r ∈ s.pipe.atoms, r.fit = false) : (s.settleAtoms i here).mem = s.mem := by
  obtain ⟨r, hr, hi, hp⟩ := hbad
  unfold State.settleAtoms
  dsimp only
  split
  · rw [foldl_atomAct_of_unfit hfit]
  · rw [if_pos (List.any_eq_true.mpr ⟨r, List.mem_filter.mpr ⟨hr, by simp [hi, hfit r hr]⟩, hp⟩), foldl_atomAct_of_unfit]
    · exact foldl_mem _ _ (by simp) _
    · rw [foldl_frame (F := fun t : State => t.pipe.atoms) (by simp)]
      exact fun r hr => hfit r (List.mem_filter.mp hr).1

/-- Settles O26: what the home point reads and writes is the line's memory. -/
theorem homeAtomicExact : Obligations.HomeAtomicExact := by
  refine ⟨?_, fun s i here hbad hfit => State.settleAtoms_mem_of_poison hbad hfit⟩
  rintro s t r op wid lane crew v n pt wt h1 h2 rfl
  have hmem := State.atomicAt_mem (s := s) (r := r) (op := op) (wid := wid) (lane := lane) (crew := crew) (v := v) (n := n) (wt := wt) h1 h2
  refine ⟨fun h hw => ?_, fun a ha => ?_⟩
  · rw [State.memBytes_congr hmem, State.atomHome, State.atomOld_of_oneHome h hw]
    simpa using State.homeWrite_memBytes (natToBytes wid (atomNew op (8 * wid) (bytesToNat (s.memBytes r.pa wid)) v n)) (h.mscHit r.slice (lineOf r.pa) true)
  · rw [State.memByte_congr hmem, State.atomHome, State.homeWrite_memByte_ne, State.memByte_congr (by simp : _ = s.mem)]
    intro e he
    have := atOffsets_lt he
    rw [natToBytes_length] at this
    omega

end Sys2Proof.Machine

/-!
PROOF (R225 to R235, R282, R285): contract, KV and girth instructions send their operation.
-/
namespace Sys2Proof.Machine

-- One theorem after the other: in parallel they ask for more threads than the host allows.
set_option Elab.async false

/-! ## Contracts (R225 to R227) -/

/-- What an operation sent to the sequencer leaves, and where it stands. -/
theorem contractSent_of_exec {i : Instr} {s : State} {d : Field} {op : SeqOp} (h : exec i s = .next (s.sendContract d op)) : ContractSent i d op s := by
  refine ⟨_, h, rfl, rfl, rfl, rfl, ?_, rfl, rfl⟩
  simp [State.sendContract, State.keyPending, State.advance, State.setCur, State.addPend]

theorem State.contract_off {s : State} {g : Guard} (d : Field) (op : SeqOp) (h : s.uniformOn g = false) : s.contract d g op = s.emptyOp s.seta 2 true :=
  if_neg (by simp [h])

theorem State.contract_on {s : State} {g : Guard} (d : Field) (op : SeqOp) (h : s.uniformOn g = true) : s.contract d g op = s.sendContract d op := if_pos h

theorem State.contractPriv_off {s : State} {g : Guard} (d : Field) (op : SeqOp) (h : s.uniformOn g = false) :
    s.contractPriv d g op = s.emptyOp s.seta 2 true := (if_neg (by simp [h])).trans (State.contract_off d op h)

theorem State.contractPriv_user {s : State} {g : Guard} (d : Field) (op : SeqOp) (h : s.uniformOn g = true)
    (hp : (s.ctx (s.ctxOf s.sch.cur.blk)).privileged = false) :
    s.contractPriv d g op = s.takeTrap { cls := .prot, lane := lowLane s.sch.cur.members, words := 2 } := if_pos (by simp [h, hp])

theorem State.contractPriv_on {s : State} {g : Guard} (d : Field) (op : SeqOp) (h : s.uniformOn g = true)
    (hp : (s.ctx (s.ctxOf s.sch.cur.blk)).privileged = true) : s.contractPriv d g op = s.sendContract d op :=
  (if_neg (by simp [hp])).trans (State.contract_on d op h)

/-- Settles O28: the guard, the privilege, and the operation sent. -/
theorem contractsComplete : Obligations.ContractsComplete := by
  intro d a g m s hp
  refine ⟨fun h => ⟨fun hg => ?_, fun hg => ?_⟩, fun h => ⟨fun hg => ?_, fun hg => ?_⟩, fun h => ⟨fun hg => ?_, fun hg hk => ?_, fun hg hk x hx => ?_⟩,
    fun h => ⟨fun hg => ?_, fun hg hk => ?_, fun hg hk => ?_⟩⟩
  · exact (issueShared_alone h hp).trans (congrArg _ (State.contract_off d _ hg))
  · exact contractSent_of_exec ((issueShared_alone h hp).trans (congrArg _ (State.contract_on d _ hg)))
  · exact (issueShared_alone h hp).trans (congrArg _ (State.contract_off d _ hg))
  · exact contractSent_of_exec ((issueShared_alone h hp).trans (congrArg _ (State.contract_on d _ hg)))
  · exact (issueShared_alone h hp).trans (congrArg _ (State.contractPriv_off d _ hg))
  · exact (issueShared_alone h hp).trans (congrArg _ (State.contractPriv_user d _ hg hk))
  · subst hx
    exact contractSent_of_exec ((issueShared_alone h hp).trans (congrArg _ (State.contractPriv_on d _ hg hk)))
  · exact (issueShared_alone h hp).trans (congrArg _ (State.contractPriv_off d _ hg))
  · exact (issueShared_alone h hp).trans (congrArg _ (State.contractPriv_user d _ hg hk))
  · exact contractSent_of_exec ((issueShared_alone h hp).trans (congrArg _ (State.contractPriv_on d _ hg hk)))

/-! ## KV (R228 to R231) -/

/-- The crew at cycle 1 whose context has a reserve contract of 3 pages. -/
def crewWithReserve : State :=
  { crewAtCycleOne with kv := { crewAtCycleOne.kv with res := mput none crewAtCycleOne.kv.res 0 (some
    { quota := 3, ch := 256, rope := false, omega := [], backbase := 0, slices := [0], trs := [] }) } }

/-- An operation sent to the pages carries the cycle in which it set out. -/
theorem kvSend_ops (s : State) (p : Pend) (op : KvOp) :
    ((s.kvSend p op).advance 2).kv.ops = s.kv.ops ++
      [{ KvRec.blank with id := s.pipe.nextId, ctx := s.ctxOf s.sch.cur.blk, blk := s.sch.cur.blk, crew := s.sch.cur.crew, pend := s.pipe.nextId, op := op,
                          gen := s.resGen (s.ctxOf s.sch.cur.blk), at' := s.now }] := rfl

/-- KVFREE of a page below the quota. -/
theorem exec_kvfree {s : State} {a : Field} {g : Guard} {m : KvMod} (hp : s.pairOf s.sch.cur.blk = none)
    (h : s.passes (.kvfree a g m) { words := 2, bound := .crew, guard := g, feat := some 1, keys := s.fieldKeys a true 1 } = true)
    (hg : s.uniformOn g = true) (hq : (s.opK a 0).toNat < s.quota (s.ctxOf s.sch.cur.blk)) :
    exec (.kvfree a g m) s = .next ((s.kvSend { Pend.blank with flag := s.setb, seta := false } (.free (s.opK a 0).toNat)).advance 2) := by
  refine (issueShared_alone h hp).trans (congrArg _ ?_)
  rw [if_neg (by simp [hg]), if_neg (by omega)]

/-- Refutes O29: the statement's operation sets out in cycle 0, the model's KVFREE in the current cycle, which is cycle 1 in the crew's state here. -/
theorem not_kvComplete : ¬ Obligations.KvComplete := by
  rintro ⟨hkv, -⟩
  have hpair : crewWithReserve.pairOf crewWithReserve.sch.cur.blk = none := by decide +kernel
  have hpass : crewWithReserve.passes (.kvfree 0x44 0 ⟨0, 0, 0⟩)
      { words := 2, bound := .crew, guard := 0, feat := some 1, keys := crewWithReserve.fieldKeys 0x44 true 1 } = true := by decide +kernel
  have hguard : crewWithReserve.uniformOn 0 = true := by decide +kernel
  have hquota : (crewWithReserve.opK 0x44 0).toNat < crewWithReserve.quota (crewWithReserve.ctxOf crewWithReserve.sch.cur.blk) := by decide +kernel
  have hnow : crewWithReserve.now = 1 := by decide +kernel
  obtain ⟨-, -, hfree, -⟩ := hkv 0 0x44 0 ⟨0, 0, 0⟩ crewWithReserve _ rfl hpair
  obtain ⟨-, -, hsent⟩ := hfree hpass _ rfl
  obtain ⟨t, hnext, -, -, -, -, hops⟩ := hsent hguard hquota
  obtain rfl := Host.Outcome.next.inj ((exec_kvfree hpair hpass hguard hquota).symm.trans hnext)
  rw [kvSend_ops, hnow] at hops
  have hrec := List.append_cancel_left hops
  simp only [List.cons.injEq, KvRec.mk.injEq] at hrec
  simp [KvRec.blank] at hrec

/-! ## Girth (R233 to R235, R282, R285) -/

/-- What an operation sent to the girth stop leaves, and where it stands. -/
theorem girthSent_of_exec {i : Instr} {s : State} {p : Pend} {slot : Nat} {act : GirthAct} (h : exec i s = .next (s.girthSend p slot act)) :
    GirthSent i s slot act := by
  refine ⟨fun hf hfull => h.trans (congrArg _ ?_), fun hf hroom => ?_⟩
  · rw [State.girthSend, if_neg (by simp [hf]), if_pos hfull]
  · rw [State.girthSend, if_neg (by simp [hf]), if_neg (by omega)] at h
    exact ⟨_, h, rfl, rfl, rfl, rfl, rfl⟩

theorem onSlot_of_exec {i : Instr} {s : State} {a : Field} {g : Guard} {regs : List RegKey} {act : State → GirthAct}
    (h : exec i s = .next (s.onSlot a g regs act)) : OnSlot i s a g (act s) := by
  unfold State.onSlot at h
  refine ⟨fun hg => ?_, fun hg hin => ?_, fun hg hin => ?_⟩
  · rwa [if_pos (by simp [hg])] at h
  · rwa [if_neg (by simp [hg]), if_pos (by simp [hin])] at h
  · rw [if_neg (by simp [hg]), if_neg (by simp [hin])] at h
    exact girthSent_of_exec h

/-- What GMOUNT does once it issues. -/
def State.gmount (s : State) (d a b : Field) (g : Guard) : State :=
  if !s.uniformOn g then s.emptyOp s.seta 2 true
  else if s.opK a 0 = 0 then s.illop 2 false
  else if (s.launchOf s.sch.cur.blk).glen = 0 then s.girthSeg
  else s.girthSend { Pend.blank with regs := s.fieldKeys d true 1 } 0 (.mount (s.opK a 0) (s.groupK b 16) d.num)

/-- What GDISMT does once it issues. -/
def State.gdismt (s : State) (d a : Field) (g : Guard) (m : GirthMod) : State :=
  if m.op = 0 then s.onSlot a g (s.fieldKeys d false 1 ++ s.qdKeys m) fun t => .dismount none (t.cellD d) (girthQ m)
  else if !s.uniformOn g then s.emptyOp s.seta 2 true
  else if (s.launchOf s.sch.cur.blk).glen = 0 then s.girthSeg
  else s.girthSend { Pend.blank with regs := s.fieldKeys d false 1 ++ s.qdKeys m } 0 (.dismount (some (s.opK a 0)) (s.cellD d) (girthQ m))

theorem exec_gmount {s : State} {d a b : Field} {g : Guard} {m : GirthMod} (hp : s.pairOf s.sch.cur.blk = none)
    (h : s.passes (.gmount d a b g m) (girthIssue (s.fieldKeys d true 1 ++ s.fieldKeys a true 1 ++ s.fieldKeys b true 16) g) = true) :
    exec (.gmount d a b g m) s = .next (s.gmount d a b g) := issueCommit_alone h hp

theorem exec_gdismt {s : State} {d a : Field} {g : Guard} {m : GirthMod} (hp : s.pairOf s.sch.cur.blk = none)
    (h : s.passes (.gdismt d a g m) (girthIssue (s.fieldKeys d false 1 ++ s.fieldKeys a true 1 ++ s.qdKeys m) g) = true) :
    exec (.gdismt d a g m) s = .next (s.gdismt d a g m) := issueCommit_alone h hp

/-- Settles O30: the forms on a slot alike, then the forms by tag. -/
theorem girthCompletes : Obligations.GirthCompletes := by
  intro d a b g m s hp
  refine ⟨fun h => ?_, ?_, fun h => ?_, fun h => ?_, fun h => ?_, fun h => ?_⟩
  · have hx : exec (.gread d a g m) s = .next (s.onSlot a g _ _) := issueCommit_alone h hp
    exact onSlot_of_exec hx
  · rintro h args rfl
    have hx : exec (.gupd d a b g m) s = .next (s.onSlot a g _ _) := issueCommit_alone h hp
    exact onSlot_of_exec hx
  · have hx : exec (.gcinch d a g m) s = .next (s.onSlot a g _ _) := issueCommit_alone h hp
    exact onSlot_of_exec hx
  · have hx : exec (.gclose a b g m) s = .next (s.onSlot a g _ _) := issueCommit_alone h hp
    exact onSlot_of_exec hx
  · have hx := exec_gmount hp h
    unfold State.gmount at hx
    refine ⟨fun hg => ?_, fun hg h0 => ?_, fun hg h0 hl => ?_, fun hg h0 hl => ?_⟩
    · rwa [if_pos (by simp [hg])] at hx
    · rwa [if_neg (by simp [hg]), if_pos h0] at hx
    · rwa [if_neg (by simp [hg]), if_neg h0, if_pos hl] at hx
    · rw [if_neg (by simp [hg]), if_neg h0, if_neg hl] at hx
      exact girthSent_of_exec hx
  · have hx := exec_gdismt hp h
    unfold State.gdismt at hx
    refine ⟨fun ho => ?_, fun ho hg => ?_, fun ho hg hl => ?_, fun ho hg hl => ?_⟩
    · rw [if_pos ho] at hx
      exact onSlot_of_exec hx
    · rwa [if_neg ho, if_pos (by simp [hg])] at hx
    · rwa [if_neg ho, if_neg (by simp [hg]), if_pos hl] at hx
    · rw [if_neg ho, if_neg (by simp [hg]), if_neg hl] at hx
      exact girthSent_of_exec hx

end Sys2Proof.Machine

/-!
PROOF (R244 to R262): the MMA instructions, the transfers and row operations of tiles, and the queues.
-/
namespace Sys2Proof.Machine

-- One theorem after the other: in parallel they ask for more threads than the host allows.
set_option Elab.async false

/-! ## Pushes (R244) -/

/-- A push enters, waits or takes its exception as R244 says. -/
theorem pushes_of_exec {i : Instr} {s j : State} {q : Nat} {act : State → State} (h : exec i s = .next (j.pushTo 2 q act)) : Pushes i s j q (act j) := by
  unfold State.pushTo at h
  refine ⟨fun hroom => ?_, fun hfull => ⟨fun hbound => ?_, fun hbound => ?_⟩⟩
  · rwa [if_pos hroom] at h
  · rwa [if_neg (by omega), if_pos hbound] at h
  · rwa [if_neg (by omega), if_neg (by simp [hbound])] at h

/-! ## MMA (R249, R250) -/

theorem State.mma_of_noPanel {j : State} {d a b : Nat} {m : MmaMod} {n : Nat} {f : ElemFn} (h : (j.panelQueue a && j.panelQueue b) = false) :
    j.mma d a b m n f = j.queueTrap 2 true := if_pos (by simp [h])

theorem State.mma_of_stuck {j : State} {d a b : Nat} {m : MmaMod} {n : Nat} {f : ElemFn} (h : (j.panelQueue a && j.panelQueue b) = true)
    (hx : j.popLook j.sch.cur.blk j.curQtr a n = .stuck ∨ j.popLook j.sch.cur.blk j.curQtr b 1 = .stuck) :
    j.mma d a b m n f = j.queueTrap 2 true := by
  unfold State.mma
  dsimp only
  rw [if_neg (by simp [h])]
  rcases hx with hx | hx
  · rw [hx]
  · rw [hx]
    cases j.popLook j.sch.cur.blk j.curQtr a n <;> rfl

theorem State.mma_of_wait {j : State} {d a b : Nat} {m : MmaMod} {n : Nat} {f : ElemFn} (h : (j.panelQueue a && j.panelQueue b) = true)
    (hx : j.popLook j.sch.cur.blk j.curQtr a n ≠ .stuck) (hy : j.popLook j.sch.cur.blk j.curQtr b 1 ≠ .stuck)
    (hw : j.popLook j.sch.cur.blk j.curQtr a n = .wait ∨ j.popLook j.sch.cur.blk j.curQtr b 1 = .wait) :
    j.mma d a b m n f = j.park .crew 0 := by
  unfold State.mma
  dsimp only
  rw [if_neg (by simp [h])]
  revert hx hy hw
  cases j.popLook j.sch.cur.blk j.curQtr a n <;> cases j.popLook j.sch.cur.blk j.curQtr b 1 <;> simp

theorem State.mma_of_bad {j : State} {d a b : Nat} {m : MmaMod} {n : Nat} {f : ElemFn} (h : (j.panelQueue a && j.panelQueue b) = true)
    {es fs : List QEntry} (hx : j.popLook j.sch.cur.blk j.curQtr a n = .data es) (hy : j.popLook j.sch.cur.blk j.curQtr b 1 = .data fs)
    (hbad : (es ++ fs).any (fun e => e.bad) = true) : j.mma d a b m n f = j.takeTrap { cls := .eccunc, words := 2 } := by
  unfold State.mma
  dsimp only
  rw [if_neg (by simp [h]), hx, hy]
  exact if_pos hbad

theorem State.mma_of_data {j : State} {d a b : Nat} {m : MmaMod} {n : Nat} {f : ElemFn} (h : (j.panelQueue a && j.panelQueue b) = true)
    {es fs : List QEntry} (hx : j.popLook j.sch.cur.blk j.curQtr a n = .data es) (hy : j.popLook j.sch.cur.blk j.curQtr b 1 = .data fs)
    (hgood : (es ++ fs).any (fun e => e.bad) = false) :
    j.mma d a b m n f = ((j.mmaTaken a b m n).addPend (j.tilePend d
      (j.mmaWr (j.tileAt d) (j.mmaRows m) (f (es.map fun e => e.data) ((fs.head?.map fun e => e.data).getD []))))).advance 2 := by
  unfold State.mma
  dsimp only
  rw [if_neg (by simp [h]), hx, hy]
  exact if_neg (by simp [hgood])

/-- Settles O31: by the row, then by what stands at the heads of the queues. -/
theorem mmaCompletes : Obligations.MmaCompletes := by
  rintro r hr d a b m s j rfl h
  have hx : exec (r.instr d a b m) s =
      .next ((s.joined .whole).mma d.toNat a.toNat b.toNat m r.panels (r.elem (s.joined .whole) m)) := by
    simp only [mmaRowsAll, List.mem_cons, List.not_mem_nil, or_false] at hr
    rcases hr with rfl | rfl | rfl | rfl | rfl <;> exact issue_of_passes h
  refine ⟨fun hp => hx.trans (congrArg _ (State.mma_of_noPanel hp)), ?_⟩
  rintro hp x y rfl rfl
  exact ⟨fun hs => hx.trans (congrArg _ (State.mma_of_stuck hp hs)), fun h1 h2 hw => hx.trans (congrArg _ (State.mma_of_wait hp h1 h2 hw)),
    fun es fs h1 h2 => ⟨fun hb => hx.trans (congrArg _ (State.mma_of_bad hp h1 h2 hb)), fun hb => hx.trans (congrArg _ (State.mma_of_data hp h1 h2 hb))⟩⟩

/-! ## Transfers of tiles (R253 to R258) -/

theorem tileLoadsComplete : TileLoadsCompleteClaim := by
  rintro d a m s j rfl
  refine ⟨fun h => issue_of_passes h, ?_⟩
  rintro h x e rfl rfl
  have hx : exec (.aload d a m) s = .next ((s.joined .whole).aload d.toNat a.num m) := issue_of_passes h
  unfold State.aload at hx
  refine ⟨⟨fun hmis => ?_, fun hal hb => ?_⟩, fun hal hb => ⟨fun habs => ?_, fun habs => ?_⟩⟩
  · rwa [if_pos hmis] at hx
  · rwa [if_neg (by simp [hal]), if_pos hb] at hx
  · rwa [if_neg (by simp [hal]), if_neg (by omega), if_pos habs] at hx
  · rwa [if_neg (by simp [hal]), if_neg (by omega), if_neg (Bool.eq_false_iff.mp habs)] at hx

/-- What ASTORE does once it issues. -/
def State.astore (s : State) (d a b : Field) (m : AstoreMod) : State :=
  if m.dst = 0 then s.astoreSpad d a b m
  else if m.dst = 1 then s.astoreMem d a b m
  else s.astoreQueue d a b m

/-- An ASTORE to memory in the format of its record, by its checks. -/
theorem State.astoreMem_ok {j : State} {d a b : Field} {m : AstoreMod} {fmt : Nat} (hd : recDims (j.record j.sch.cur.blk m.recNo.toNat) = 2)
    (hf : recConv (recFmt (j.record j.sch.cur.blk m.recNo.toNat)) = some fmt) (hsc : fmt = 3 ∨ m.sc = 0)
    (hpol : j.polIllop (astoreModMem m) true false = false) {es : List (Member × Int × Nat)}
    (hes : es = (((List.range 32).zip (j.astoreRows d b m fmt)).flatMap fun x => ((List.range 32).zip x.2).map fun y =>
      ((⟨x.1, j.sch.cur.crew⟩ : Member), astoreOffset (j.record j.sch.cur.blk m.recNo.toNat) m.lay.toNat
        (j.regs.kreg j.sch.cur.blk j.sch.cur.crew a.num).toNat x.1 y.1, y.2)))
    {t : State} {lanes : List LaneAcc} {oob : List Member}
    (hc : j.checkOffsets (j.record j.sch.cur.blk m.recNo.toNat) (fmtBytes fmt) 2 { store := true } (es.map fun e => (e.1, e.2.1)) = .ok t lanes oob)
    {xs : List StoreAcc} (hxs : xs = astoreAccs (fmtBytes fmt)
      (es.map fun e => (e.1, ((recBase (j.record j.sch.cur.blk m.recNo.toNat) : Int) + e.2.1).toNat, e.2.2)) lanes) :
    j.astoreMem d a b m = if xs.isEmpty then ((t.promoteOne d.toNat).flagSetb).advance 2
      else j.storeOut (t.promoteOne d.toNat) 2 (j.pol (astoreModMem m)) xs fun t => (t.asMatrix j.pipe.nextId).advance 2 := by
  subst hxs hes
  have hfmt : ¬((fmt != 3 && m.sc != 0) || j.polIllop (astoreModMem m) true false) = true := by
    rcases hsc with rfl | hsc <;> simp [*]
  unfold State.astoreMem
  simp only [hd, if_true, hf, if_neg hfmt]
  simp only [hc]

theorem tileStoresComplete : TileStoresCompleteClaim := by
  rintro d a b m s j rfl h
  have hx : exec (.astore d a b m) s = .next ((s.joined .whole).astore d a b m) := issue_of_passes h
  generalize s.joined .whole = j at hx ⊢
  unfold State.astore at hx
  refine ⟨?_, fun hdst => ?_, ?_⟩
  · rintro hdst x n rfl rfl
    rw [if_pos hdst] at hx
    unfold State.astoreSpad at hx
    refine ⟨⟨fun hmis => ?_, fun hal hb => ?_⟩, fun hal hb => ?_⟩
    · rwa [if_pos hmis] at hx
    · rwa [if_neg (by simp [hal]), if_pos hb] at hx
    · rwa [if_neg (by simp [hal]), if_neg (by omega)] at hx
  · rw [if_neg (by simp [hdst]), if_neg (by simp [hdst]), State.astoreQueue] at hx
    refine ⟨fun hp => ?_, fun hp => ?_⟩
    · rwa [if_pos (by simp [hp])] at hx
    · rw [if_neg (by simp [hp])] at hx
      exact pushes_of_exec hx
  · rintro hdst r rfl
    rw [if_neg (by simp [hdst]), if_pos hdst] at hx
    refine ⟨fun hno => hx.trans (congrArg _ ?_), ?_⟩
    · unfold State.astoreMem
      rcases hno with hno | hno <;> simp [hno]
    · rintro fmt hd hf hsc hpol es hes t lanes oob hc xs pol hxs rfl
      rw [State.astoreMem_ok hd hf hsc hpol hes hc hxs] at hx
      refine ⟨fun he => ?_, fun he hw => ?_, ?_⟩
      · rwa [if_pos (by simp [he])] at hx
      · rwa [if_neg (by simpa using he), State.storeOut, if_pos hw] at hx
      · rintro he hw e rfl hr
        rwa [if_neg (by simpa using he), State.storeOut, if_neg (by simp [hw]), State.storeAll, hr] at hx

/-- Settles O33: the loads and the stores. -/
theorem tileTransfersComplete : Obligations.TileTransfersComplete := ⟨tileLoadsComplete, tileStoresComplete⟩

/-! ## Row operations (R259 to R262) -/

theorem max_eq_ite (x y : Int) : max x y = if y < x then x else y := by
  split <;> omega

/-- Settles O34: instruction by instruction. -/
theorem rowOperationsComplete : Obligations.RowOperationsComplete := by
  rintro d a b p s j rfl k c rfl rfl
  refine ⟨fun h => ?_, ?_, fun h => issue_of_passes h, fun h => issue_of_passes h⟩
  · simp only [max_eq_ite]
    exact issue_of_passes h
  · rintro h ws rfl
    have hx : exec (.aexpb d a b p) s = .next ((s.joined .whole).aexpb d a b (p == 1)) := issue_of_passes h
    unfold State.aexpb at hx
    refine ⟨fun hp => ?_, fun hp hq => ?_, fun hp hq => ?_⟩
    · rwa [if_pos (by simp [hp])] at hx
    · rwa [if_neg (by simp [hp]), if_pos (by simp [hq])] at hx
    · rw [if_neg (by simp [hp]), if_neg (by simp [hq])] at hx
      exact pushes_of_exec hx

/-! ## Queues (R245 to R247) -/

theorem State.withKeys_free {s : State} {keys : List RegKey} {act : State → State} (h : keys.any s.keyPending = false) : s.withKeys keys act = act s := by
  simp only [State.withKeys, State.scoreboard]
  rw [if_neg (by simp [h])]

theorem joined_of_feed {s : State} {b : Bound} (h : s.sch.cur.feed = true) : s.joined b = s := by simp [State.joined, h]

theorem exec_qpop_crew {d a b : Field} {m : QpopMod} {s : State} (hf : s.sch.cur.feed = false)
    (h : s.passes (.qpop d a b m) { words := 2, bound := .whole, feed := true, bad := qpopBad false d a b m } = true) :
    exec (.qpop d a b m) s = .next ((s.joined .whole).qpopCrew d a.toNat m) := by
  have hx := issue_of_passes (act := fun t => t.qpopCrew d a.toNat m) h
  refine Eq.trans ?_ hx
  rw [exec, execQpop]
  simp only [hf, Bool.false_eq_true, if_false]

theorem exec_qpop_feed {d a b : Field} {m : QpopMod} {s : State} (hf : s.sch.cur.feed = true)
    (h : s.passes (.qpop d a b m)
      { words := 2, bound := .whole, feed := true, bad := qpopBad true d a b m, keys := s.fieldKeys d true (m.cnt.toNat + 1) } = true) :
    exec (.qpop d a b m) s = .next (s.qpopFeed d a.toNat b.toNat m) := by
  have hx := issue_of_passes (act := fun t => t.qpopFeed d a.toNat b.toNat m) h
  rw [joined_of_feed hf] at hx
  refine Eq.trans ?_ hx
  rw [exec, execQpop]
  simp only [hf, if_true]

/-- Settles O35: instruction by instruction. -/
theorem queuesComplete : Obligations.QueuesComplete := by
  rintro d a b k m s j rfl blk c rfl rfl
  refine ⟨?_, ?_, ?_, fun h => issue_of_passes h, fun h => ?_⟩
  · rintro h q rfl
    have hx : exec (.qpush d a) s = .next ((s.joined .whole).qpush d.toNat a) := issue_of_passes h
    generalize s.joined .whole = j at hx ⊢
    unfold State.qpush at hx
    refine ⟨fun hno => hx.trans (congrArg _ ?_), fun n hd hn hkeys => ?_⟩
    · rcases hno with hno | hno <;> simp [hno]
    · simp only [if_neg hd, hn, State.withKeys_free hkeys] at hx
      refine ⟨fun hq hw => ?_, ?_⟩
      · rwa [if_pos (by simp [hq, hw])] at hx
      · rintro hw t rfl
        have hfree : ¬(decide (8 ≤ d.toNat) && j.releaseWaits j.sch.cur.blk j.sch.cur.crew 4) = true := by
          rcases hw with hw | hw
          · simp [Nat.not_le.mpr hw]
          · simp [hw]
        rw [if_neg hfree] at hx
        have hpush := pushes_of_exec hx
        by_cases hq : 8 ≤ d.toNat
        · rwa [if_pos hq] at hpush ⊢
        · rwa [if_neg hq] at hpush ⊢
  · rintro hfeed h q rfl
    have hx := exec_qpop_crew hfeed h
    generalize s.joined .whole = j at hx ⊢
    unfold State.qpopCrew at hx
    refine ⟨fun hno => hx.trans (congrArg _ ?_), fun n hd hn hkeys => ?_⟩
    · rcases hno with hno | hno <;> simp [hno]
    · simp only [if_neg hd, hn, State.withKeys_free hkeys] at hx
      refine ⟨fun hl => ?_, fun hl => ?_, fun e hl he => ?_⟩
      · rwa [hl] at hx
      · rwa [hl] at hx
      · rw [hl] at hx
        simpa [he] using hx
  · rintro hfeed h q rfl
    have hx := exec_qpop_feed hfeed h
    rw [joined_of_feed hfeed]
    unfold State.qpopFeed at hx
    refine ⟨fun hd => ?_, fun hd => ⟨fun hl => ?_, fun hl => ?_, fun e hl he => ?_⟩⟩
    · rwa [if_pos hd] at hx
    · rwa [if_neg hd, hl] at hx
    · rwa [if_neg hd, hl] at hx
    · rw [if_neg hd, hl] at hx
      simpa [he] using hx
  · exact issue_alone h

end Sys2Proof.Machine

/-!
PROOF (R116, R252, R253): a tile set from an image reads it back.
-/
namespace Sys2Proof.Machine

-- One theorem after the other: in parallel they ask for more threads than the host allows.
set_option Elab.async false

/-- A write that names another cell leaves a cell. -/
theorem Regs.apply_vcell_of_ne (r : Regs) {b : Nat} {x : RegWr} {b' c' n' l' : Nat}
    (h : ∀ c n l v, x = .cell c n l v → cellKey b' c' n' l' ≠ cellKey b c n l) : (r.apply b x).vcell b' c' n' l' = r.vcell b' c' n' l' := by
  cases x with
  | cell c n l w => exact mget_mput_ne _ _ _ (h c n l w rfl)
  | p c l n v => simp only [Regs.apply, Regs.setP]; split <;> rfl
  | _ => rfl

/-- A write that names the partial of another element leaves a partial. -/
theorem Regs.apply_part_of_ne (r : Regs) {b : Nat} {x : RegWr} {b' c' n' l' : Nat}
    (h : ∀ c n l v, x = .part c n l v → cellKey b' c' n' l' ≠ cellKey b c n l) : (r.apply b x).part b' c' n' l' = r.part b' c' n' l' := by
  cases x with
  | part c n l w => exact mget_mput_ne _ _ _ (h c n l w rfl)
  | p c l n v => simp only [Regs.apply, Regs.setP]; split <;> rfl
  | _ => rfl

/-- After writes that agree on a cell, it holds what they say of it, or what it held. -/
theorem Regs.applyAll_vcell (r : Regs) (b : Nat) {ws : List RegWr} {b' c' n' l' : Nat} {w : Word}
    (hall : ∀ c n l v, .cell c n l v ∈ ws → cellKey b' c' n' l' = cellKey b c n l → v = w)
    (hone : r.vcell b' c' n' l' = w ∨ ∃ c n l v, .cell c n l v ∈ ws ∧ cellKey b' c' n' l' = cellKey b c n l) :
    (r.applyAll b ws).vcell b' c' n' l' = w := by
  unfold Regs.applyAll
  induction ws generalizing r with
  | nil => simpa using hone
  | cons x ws ih =>
    rw [List.foldl_cons]
    refine ih _ (fun c n l v h => hall c n l v (List.mem_cons_of_mem _ h)) ?_
    by_cases hx : ∃ c n l v, x = .cell c n l v ∧ cellKey b' c' n' l' = cellKey b c n l
    · obtain ⟨c, n, l, v, rfl, hk⟩ := hx
      left
      rw [Regs.apply, Regs.vcell_setCell, if_pos hk]
      exact hall c n l v List.mem_cons_self hk
    · rw [Regs.apply_vcell_of_ne r fun c n l v he hk => hx ⟨c, n, l, v, he, hk⟩]
      refine hone.imp_right fun ⟨c, n, l, v, hmem, hk⟩ => ⟨c, n, l, v, ?_, hk⟩
      exact (List.mem_cons.mp hmem).resolve_left fun he => hx ⟨c, n, l, v, he.symm, hk⟩

/-- After writes that agree on a partial, it is what they say of it, or what it was. -/
theorem Regs.applyAll_part (r : Regs) (b : Nat) {ws : List RegWr} {b' c' n' l' : Nat} {w : Partial}
    (hall : ∀ c n l v, .part c n l v ∈ ws → cellKey b' c' n' l' = cellKey b c n l → v = w)
    (hone : r.part b' c' n' l' = w ∨ ∃ c n l v, .part c n l v ∈ ws ∧ cellKey b' c' n' l' = cellKey b c n l) :
    (r.applyAll b ws).part b' c' n' l' = w := by
  unfold Regs.applyAll
  induction ws generalizing r with
  | nil => simpa using hone
  | cons x ws ih =>
    rw [List.foldl_cons]
    refine ih _ (fun c n l v h => hall c n l v (List.mem_cons_of_mem _ h)) ?_
    by_cases hx : ∃ c n l v, x = .part c n l v ∧ cellKey b' c' n' l' = cellKey b c n l
    · obtain ⟨c, n, l, v, rfl, hk⟩ := hx
      left
      rw [Regs.apply, Regs.part, Regs.setPart, mget_mput, if_pos hk]
      exact hall c n l v List.mem_cons_self hk
    · rw [Regs.apply_part_of_ne r fun c n l v he hk => hx ⟨c, n, l, v, he, hk⟩]
      refine hone.imp_right fun ⟨c, n, l, v, hmem, hk⟩ => ⟨c, n, l, v, ?_, hk⟩
      exact (List.mem_cons.mp hmem).resolve_left fun he => hx ⟨c, n, l, v, he.symm, hk⟩

theorem mem_zip_range {α : Type} {n : Nat} {l : List α} (d : α) (hl : l.length = n) {x : Nat × α} :
    x ∈ (List.range n).zip l ↔ x.1 < n ∧ x.2 = l.getD x.1 d := by
  rw [List.mem_iff_getElem]
  constructor
  · rintro ⟨i, hi, rfl⟩
    have hi' : i < l.length := by simp at hi; omega
    exact ⟨by simp; omega, by simp [hi']⟩
  · rintro ⟨h1, h2⟩
    exact ⟨x.1, by simp; omega, Prod.ext (by simp) (by simp [h2, hl, h1])⟩

/-- The element of an image. -/
def tileElem (rows : List (List Nat)) (row col : Nat) : Nat := (rows.getD row []).getD col 0

/-- The writes of a tile: each element its pattern, its partial reset. -/
theorem mem_tileWr {c cell : Nat} {rows : List (List Nat)} (hrows : rows.length = 32) (hcols : ∀ r ∈ rows, r.length = 32) {x : RegWr} :
    x ∈ tileWr c cell rows ↔ ∃ row col, row < 32 ∧ col < 32 ∧
      (x = .cell c (cell + col) row (BitVec.ofNat 32 (tileElem rows row col)) ∨ x = .part c (cell + col) row .reset) := by
  have hcol : ∀ row, row < 32 → (rows.getD row []).length = 32 := fun row h => hcols _ (by simp [List.getD_eq_getElem?_getD, hrows, h])
  simp only [tileWr, List.mem_flatMap, List.mem_cons, List.not_mem_nil, or_false]
  constructor
  · rintro ⟨e, he, y, hy, hx⟩
    obtain ⟨h1, h2⟩ := (mem_zip_range [] hrows).mp he
    obtain ⟨h3, h4⟩ := (mem_zip_range 0 (h2 ▸ hcol _ h1)).mp hy
    exact ⟨e.1, y.1, h1, h3, by rw [tileElem, ← h2, ← h4]; exact hx⟩
  · rintro ⟨row, col, h1, h2, hx⟩
    exact ⟨(row, rows.getD row []), (mem_zip_range [] hrows).mpr ⟨h1, rfl⟩, (col, tileElem rows row col),
      (mem_zip_range 0 (hcol _ h1)).mpr ⟨h2, rfl⟩, hx⟩

/-- Settles O32: the writes of a tile agree on each of its cells, and name no other. -/
theorem tileSetExact : Obligations.TileSetExact := by
  intro s i rows hcrew htile hrows helems
  have hmem := @mem_tileWr s.sch.cur.crew (s.tileAt i) rows hrows fun r hr => (helems r hr).1
  have hset : (s.setTile i rows).regs = s.regs.applyAll s.sch.cur.blk (tileWr s.sch.cur.crew (s.tileAt i) rows) := rfl
  refine ⟨fun row col hrow hcol => ⟨?_, ?_⟩, fun b c n l hc hn hl hout => ⟨?_, ?_⟩⟩ <;> rw [hset]
  · have hlt : tileElem rows row col < 2 ^ 32 := by
      have hr : rows.getD row [] ∈ rows := by simp [List.getD_eq_getElem?_getD, hrows, hrow]
      obtain ⟨hlen, hall⟩ := helems _ hr
      have hc : col < (rows.getD row []).length := by omega
      have helem : tileElem rows row col = (rows.getD row [])[col] := by
        rw [tileElem, List.getD_eq_getElem?_getD (l := rows.getD row []), List.getElem?_eq_getElem hc, Option.getD_some]
      exact helem ▸ hall _ (List.getElem_mem hc)
    rw [Regs.elemAt, Regs.applyAll_vcell (w := BitVec.ofNat 32 (tileElem rows row col))]
    · exact Nat.mod_eq_of_lt hlt
    · intro c n l v hv hk
      obtain ⟨row', col', hrow', hcol', hx | hx⟩ := hmem.mp hv
      · cases hx
        obtain ⟨-, -, hn, rfl⟩ := cellKey_inj hcrew (by omega) hrow hcrew (by omega) hrow' hk
        rw [Nat.add_left_cancel hn]
      · cases hx
    · exact .inr ⟨_, _, _, _, hmem.mpr ⟨row, col, hrow, hcol, .inl rfl⟩, rfl⟩
  · refine Regs.applyAll_part _ _ (fun c n l v hv hk => ?_) (.inr ⟨_, _, _, _, hmem.mpr ⟨row, col, hrow, hcol, .inr rfl⟩, rfl⟩)
    obtain ⟨row', col', -, -, hx | hx⟩ := hmem.mp hv <;> cases hx
    rfl
  · refine Regs.applyAll_vcell _ _ (fun c' n' l' v hv hk => ?_) (.inl rfl)
    obtain ⟨row, col, hrow, hcol, hx | hx⟩ := hmem.mp hv <;> cases hx
    obtain ⟨rfl, rfl, rfl, -⟩ := cellKey_inj hc hn hl hcrew (by omega) hrow hk
    exact absurd ⟨rfl, rfl, by omega, by omega⟩ hout
  · refine Regs.applyAll_part _ _ (fun c' n' l' v hv hk => ?_) (.inl rfl)
    obtain ⟨row, col, hrow, hcol, hx | hx⟩ := hmem.mp hv <;> cases hx
    obtain ⟨rfl, rfl, rfl, -⟩ := cellKey_inj hc hn hl hcrew (by omega) hrow hk
    exact absurd ⟨rfl, rfl, by omega, by omega⟩ hout

end Sys2Proof.Machine

/-!
PROOF (R265 to R277): the copy instructions and the tensor descriptors.
-/
namespace Sys2Proof.Machine

-- One theorem after the other: in parallel they ask for more threads than the host allows.
set_option Elab.async false

/-! ## What the copies share (Table 17.12) -/

theorem copyStarts_of_exec {i : Instr} {s t : State} {e : Engine} (h : exec i s = .next (t.startCopy e)) : CopyStarts i s t e := by
  unfold State.startCopy at h
  refine ⟨fun hw => ?_, fun hw => ?_⟩
  · rwa [if_pos hw] at h
  · rwa [if_neg (Bool.eq_false_iff.mp hw)] at h

theorem spadRange_of_exec {i : Instr} {s t : State} {o n : Nat} {act : State → State} {go : Prop} (h : exec i s = .next (t.spadRange o n act))
    (hgo : exec i s = .next (act t) → go) : SpadRange i s t o n go := by
  unfold State.spadRange at h
  refine ⟨fun hmis => ?_, fun hal hb => ?_, fun hal hb => hgo ?_⟩
  · rwa [if_pos hmis] at h
  · rwa [if_neg (by simp [hal]), if_pos hb] at h
  · rwa [if_neg (by simp [hal]), if_neg (by omega)] at h

theorem afterCells_bad {α : Type} {c : Trap} (hc : c ≠ .eccunc) (va : Nat) (u : State) (act : α → State → State) :
    afterCells (.bad (c, some va), u) act = u.shardsDone.copyTrap c va := by
  unfold afterCells
  split <;> simp_all

theorem afterCells_bad_free {α : Type} {c : Trap} (hc : c ≠ .eccunc) (u : State) (act : α → State → State) :
    afterCells (.bad (c, none), u) act = u.shardsDone.copyTrapFree c := by
  unfold afterCells
  split <;> simp_all

theorem afterCells_of_exec {α : Type} {i : Instr} {s : State} {r : Tried CellTrap α × State} {act : α → State → State} {go : α → State → Prop}
    (h : exec i s = .next (afterCells r act)) (hgo : ∀ x u, exec i s = .next (act x u) → go x u) : AfterCells i s r go := by
  refine ⟨?_, ?_, ?_, fun c u hc => ⟨?_, ?_⟩⟩
  · rintro x u rfl
    exact hgo x u h
  · rintro u rfl
    exact h
  · rintro va u rfl
    exact h
  · rintro va rfl
    exact h.trans (congrArg _ (afterCells_bad hc va u act))
  · rintro rfl
    exact h.trans (congrArg _ (afterCells_bad_free hc u act))

/-- The descriptor of a box copy, or its ILLOP. -/
theorem boxRules_of_exec {i : Instr} {s : State} {a : Field} {act : TDesc → State} {go : TDesc → List (List Int) → Prop}
    (h : exec i s = .next (s.withBox a act))
    (hgo : ∀ td, exec i s = .next (act td) → go td (boxCells td.image (s.copyOrigin a 2 (tdRank td.image)))) : BoxRules i s a go := by
  unfold State.withBox State.withTd at h
  refine ⟨fun hno => ?_, ?_⟩
  · rwa [hno] at h
  · rintro td htd o rfl
    rw [htd] at h
    dsimp only at h
    refine ⟨fun hodd => ?_, fun hodd => hgo td ?_⟩
    · rwa [if_pos hodd] at h
    · rwa [if_neg (Bool.eq_false_iff.mp hodd)] at h

/-- A box copied into scratchpad areas. -/
theorem cells_of_copyIn {i : Instr} {s t : State} {td : TDesc} {a : Field} {blks : List Nat} (h : exec i s = .next (t.copyIn td a blks)) :
    Cells i s t td false (boxCells td.image (t.copyOrigin a 2 (tdRank td.image))) fun x u =>
      CopyStarts i s u { Engine.blank with moves := imageMoves blks (u.opK a 1).toNat (x.pasOf u td), trs := x.trs } :=
  afterCells_of_exec h fun _ _ hx => copyStarts_of_exec hx

/-! ## Into scratchpads (R270, R271) -/

theorem boxCopiesComplete : BoxCopiesCompleteClaim := by
  rintro a m s o rfl
  refine ⟨fun h => ?_, fun h hp => ?_⟩
  · have hx : exec (.cpy a m) s = .next (s.withBox a _) := issue_alone h
    exact boxRules_of_exec hx fun td hx => spadRange_of_exec hx fun hx => cells_of_copyIn hx
  · have hx : exec (.cpym a m) s = .next (s.copyMembers a m) := (issue_alone h).trans (congrArg _ (atPoint_alone hp))
    refine boxRules_of_exec hx fun td hx => spadRange_of_exec hx fun hx => ?_
    rintro named hnamed
    refine ⟨?_, ?_⟩
    · rintro ⟨x, hxn, rfl⟩
      rwa [if_pos (List.any_eq_true.mpr ⟨none, hnamed ▸ hxn, rfl⟩)] at hx
    · rintro blks rfl
      rw [← hnamed, if_neg (by simp)] at hx
      dsimp only at hx
      rw [show (blks.map some).filterMap id = blks by simp] at hx
      refine ⟨?_, fun hres => ?_⟩
      · rintro ⟨b, hb, hres⟩
        rwa [if_pos (List.any_eq_true.mpr ⟨b, hb, by simp [hres]⟩)] at hx
      · rw [if_neg (by simpa using hres)] at hx
        exact cells_of_copyIn hx

/-! ## Into operand queues (R272, R276) -/

/-- The window of a copy into a queue: QUEUE, or as `go` says. -/
theorem copyQueue_of_exec {i : Instr} {s : State} {m : CopyMod} {fits : Nat → Bool} {act : State → State} (h : exec i s = .next (s.copyQueue m fits act)) :
    (s.winDepth s.sch.cur.blk m.qn.toNat = 0 ∨ fits (s.winPanel s.sch.cur.blk m.qn.toNat) = false ∨ (s.sch.cur.feed = false ∧ m.qtr.toNat ≠ s.curQtr) →
      Next (exec i s) (s.copyTrap .queue 0)) ∧
    (s.winDepth s.sch.cur.blk m.qn.toNat ≠ 0 → fits (s.winPanel s.sch.cur.blk m.qn.toNat) = true → (s.sch.cur.feed = true ∨ m.qtr.toNat = s.curQtr) →
      exec i s = .next (act s)) := by
  unfold State.copyQueue at h
  refine ⟨fun hq => ?_, fun hd hf hq => ?_⟩
  · rwa [if_pos (by rcases hq with hq | hq | ⟨hq, hq'⟩ <;> simp [*])] at h
  · rwa [if_neg (by rcases hq with hq | hq <;> simp [*])] at h

/-- What SMELT does once it issues. -/
def State.smeltIssue (s : State) (a : Field) (m : CopyMod) : State :=
  if 4096 < (s.opK a 1).toNat then s.illop 2 false
  else if (s.opK a 0).toNat % 4 ≠ 0 then s.copyTrap .misalign (s.opK a 0).toNat
  else if (s.launchOf s.sch.cur.blk).scratch < (s.opK a 0).toNat + 4 * (s.opK a 1).toNat then s.copyTrap .bounds (s.opK a 0).toNat
  else s.copyQueue m (fun p => p == 2048) fun t => t.smelt m (s.opK a 0).toNat (s.opK a 1).toNat

theorem exec_smelt {a : Field} {m : CopyMod} {s : State} (h : s.passes (.smelt a m) { copyIssue a 2 s with feedOnly := true } = true) :
    exec (.smelt a m) s = .next (s.smeltIssue a m) := issue_alone h

/-- SMELT of a list that stands in scratchpad. -/
theorem State.smelt_eq {s t : State} {m : CopyMod} {o n : Nat} {ok : Nat → Bool} (hf : s.forkWaits = false)
    (ha : s.lineAbsent s.sch.cur.blk o (4 * n) = false) (hok : ok = fun (p : Nat) => decide (p < s.quota (s.ctxOf s.sch.cur.blk)))
    (ht : t = (s.pageList s.sch.cur.blk o n).foldl (fun t p =>
      if ok p then (if s.leads s.sch.cur.blk then t.heatUp (s.ctxOf s.sch.cur.blk) p else t) else t.logViolation s.sch.cur.blk p s.sch.cur.pc 0 0 3) s)
    (hft : t.forkWaits = false) :
    s.smelt m o n = t.forkCopy { Engine.blank with
      panels := t.panelsFor m (smeltPanels m (((s.reserve (s.ctxOf s.sch.cur.blk)).map fun r => r.ch).getD 0) ((s.pageList s.sch.cur.blk o n).filter ok)) } := by
  subst hok ht
  unfold State.smelt
  dsimp only
  rw [if_neg (by simp [hf, ha])]
  exact if_neg (Bool.eq_false_iff.mp hft)

theorem queueCopiesComplete : QueueCopiesCompleteClaim := by
  rintro a m s blk q rfl rfl
  refine ⟨fun h => ?_, ?_⟩
  · have hx : exec (.cpyq a m) s = .next (s.withBox a _) := issue_alone h
    refine boxRules_of_exec hx fun td hx => ?_
    obtain ⟨hno, hgo⟩ := copyQueue_of_exec hx
    refine ⟨fun hq => hno (by simpa using hq), fun hd hp hq => ?_⟩
    exact afterCells_of_exec (hgo hd (by simpa using hp) hq) fun _ _ hx => copyStarts_of_exec hx
  · rintro h o n rfl rfl
    have hx := exec_smelt h
    unfold State.smeltIssue at hx
    refine ⟨fun hn => ?_, fun hn hmis => ?_, fun hn hal hb => ?_, fun hn hal hb hfeed => ?_⟩
    · rwa [if_pos hn] at hx
    · rwa [if_neg (by omega), if_pos hmis] at hx
    · rwa [if_neg (by omega), if_neg (by simp [hal]), if_pos hb] at hx
    · rw [if_neg (by omega), if_neg (by simp [hal]), if_neg (by omega)] at hx
      obtain ⟨hno, hgo⟩ := copyQueue_of_exec hx
      refine ⟨fun hq => hno (hq.imp_right fun hq => .inl (by simpa using hq)), fun hd hp => hgo hd (by simpa using hp) (.inl hfeed), ?_⟩
      rintro hd hp hf ha t ok hok ht hft
      exact (hgo hd (by simpa using hp) (.inl hfeed)).trans (congrArg _ (State.smelt_eq hf ha hok ht hft))

/-! ## Rows, out to memory, transposed (R273 to R275) -/

theorem rowCopiesComplete : RowCopiesCompleteClaim := by
  rintro a m s j rfl
  refine ⟨fun h => ?_, ?_⟩
  · have hx : exec (.cpyix a m) s = .next ((s.joined (if m.ixv = 1 then .whole else .crew)).copyIx a m) := issue_of_passes h
    generalize s.joined (if m.ixv = 1 then .whole else .crew) = j at hx ⊢
    unfold State.copyIx State.withTd at hx
    refine ⟨fun hno => ?_, ?_⟩
    · rwa [hno] at hx
    · rintro td htd x rows o n base rfl rfl rfl rfl rfl
      rw [htd] at hx
      dsimp only at hx
      refine ⟨fun hbad => ?_, ?_⟩
      · rwa [if_pos (by simpa using hbad)] at hx
      · rintro hr ho es pitch rfl rfl
        rw [if_neg (by simp [hr, ho])] at hx
        refine spadRange_of_exec hx fun hx => ⟨?_, fun hrows => ?_⟩
        · rintro ⟨r, hr, hle⟩
          rwa [if_pos (List.any_eq_true.mpr ⟨r, hr, by simpa using hle⟩)] at hx
        · rw [if_neg (by simpa using hrows)] at hx
          exact afterCells_of_exec hx fun _ _ hx => copyStarts_of_exec hx
  · rintro h hp o rfl
    have hx : exec (.cpys a m) s = .next (s.copyOut a) := issueCommit_alone h hp
    exact boxRules_of_exec hx fun td hx => spadRange_of_exec hx fun hx => afterCells_of_exec hx fun _ _ hx => copyStarts_of_exec hx

theorem transposeCompletes : TransposeCompletesClaim := by
  intro a m s h hp
  have hx : exec (.txpose a m) s = .next (s.transpose a) := issueCommit_alone h hp
  unfold State.transpose State.withTd at hx
  refine ⟨fun hno => ?_, ?_⟩
  · cases h0 : s.copyTd a 0 with
    | none => rwa [h0] at hx
    | some td =>
      rw [h0] at hno hx
      dsimp only at hx
      rwa [hno.resolve_left (by simp)] at hx
  · rintro td td2 htd htd2 x y o p rfl rfl rfl rfl
    rw [htd] at hx
    dsimp only at hx
    rw [htd2] at hx
    dsimp only at hx
    refine ⟨fun hbad => ?_, fun h1 h2 h3 h4 h5 => ⟨fun hb => ?_, ?_⟩⟩
    · by_cases hshape : (decide (tdRank td.image ≠ 2) || decide (tdRank td2.image ≠ 2) || decide (tdFmt td.image ≠ tdFmt td2.image)) = true
      · rwa [if_pos hshape] at hx
      · have hodd : (originOdd td.image (s.copyOrigin a 2 2) || originOdd td2.image (s.copyOrigin a 4 2)) = true := by
          simp only [Bool.or_eq_true, decide_eq_true_eq, not_or] at hshape ⊢
          obtain ⟨⟨h1, h2⟩, h3⟩ := hshape
          exact ((hbad.resolve_left h1).resolve_left h2).resolve_left h3
        rwa [if_neg hshape, if_pos hodd] at hx
    · rwa [if_neg (by simp [h1, h2, h3]), if_neg (by simp [h4, h5]), if_pos hb] at hx
    · rintro hb bs rfl
      rw [if_neg (by simp [h1, h2, h3]), if_neg (by simp [h4, h5]), if_neg (by omega)] at hx
      exact afterCells_of_exec hx fun _ _ hx => copyStarts_of_exec hx

/-- Settles O36: the copies into scratchpads, into queues, of rows and out, and transposed. -/
theorem copiesComplete : Obligations.CopiesComplete := ⟨boxCopiesComplete, queueCopiesComplete, rowCopiesComplete, transposeCompletes⟩

/-! ## Descriptors (R265, R266, R277) -/

/-- TDMK, once its checks have passed. -/
theorem State.tdmk_ok {s : State} {d a : Field} {m : MemMod} (hpol : s.polIllop m false true = false) {va : Nat} {x : Member}
    (hva : va = (BitVec.ofInt 64 ((s.regs.kval s.sch.cur.blk s.sch.cur.crew a.num true).toNat + memOff m)).toNat)
    (hx : x = ⟨lowLane s.sch.cur.members, s.sch.cur.crew⟩) (hal : va % 256 = 0) {t : State} {lanes : List LaneAcc} {oob : List Member}
    (hc : s.checkLanes 64 2 { r := true } ((List.range 4).map fun i => (x, va + 64 * i)) [] = .ok t lanes oob)
    (hb : t.loadBlocked [⟨x, va, ((List.range 4).zip lanes).flatMap fun e => e.2.parts.map fun p => { p with off := p.off + 64 * e.1 }⟩] = false) :
    (s.tdmk d a m).sch.cur.wait = .pend t.pipe.nextId ∧ (s.tdmk d a m).sch.cur.adv = 2 ∧ (s.tdmk d a m).regs = t.regs ∧
    (s.tdmk d a m).mem = t.mem ∧ (s.tdmk d a m).sp = t.sp := by
  subst hva hx
  unfold State.tdmk
  simp only [hpol, hal, hc, hb, Bool.false_eq_true, if_false, ne_eq, not_true]
  refine ⟨rfl, rfl, ?_, ?_, ?_⟩ <;> simp

/-- The state that TDFREE of a handle leaves. -/
def State.freeTd (s : State) (b h : Nat) : State := { s with sp := { s.sp with tds := s.sp.tds.filter fun x => !(x.blk == b && x.handle == h) } }

theorem State.freeTd_tdesc (s : State) (b h : Nat) : (s.freeTd b h).tdesc b h = none := by
  refine List.find?_eq_none.mpr fun x hx hbad => ?_
  have := (List.mem_filter.mp hx).2
  rw [hbad] at this
  cases this

theorem State.freeTd_tdesc_ne (s : State) {b h b' h' : Nat} (hne : (b', h') ≠ (b, h)) : (s.freeTd b h).tdesc b' h' = s.tdesc b' h' := by
  unfold State.tdesc State.freeTd
  dsimp only
  rw [List.find?_filter]
  congr 1
  funext x
  by_cases hx : x.blk = b' ∧ x.handle = h'
  · obtain ⟨rfl, rfl⟩ := hx
    have : ¬(x.blk = b ∧ x.handle = h) := fun ⟨h1, h2⟩ => hne (by rw [h1, h2])
    have : (x.blk == b && x.handle == h) = false := Bool.eq_false_iff.mpr (by simpa using this)
    simp [this]
  · have : (x.blk == b' && x.handle == h') = false := by simpa using hx
    simp [this]

theorem exec_tdfree {k : BitVec 6} {s : State} (h : s.passes (.tdfree k) { bound := .crew, feed := true, keys := [.k s.sch.cur.blk s.sch.cur.crew k.toNat] } = true) :
    exec (.tdfree k) s = .next (if 32 ≤ (s.regs.kreg s.sch.cur.blk s.sch.cur.crew k.toNat).toNat then s.illop 1 false
      else (s.freeTd s.sch.cur.blk (s.regs.kreg s.sch.cur.blk s.sch.cur.crew k.toNat).toNat).advance 1) := issue_alone h

@[simp] theorem State.noteOver_bundles (s : State) (b : Nat) : (s.noteOver b).sch.bundles = s.sch.bundles := by
  unfold State.noteOver
  split
  · simp
  · rfl

/-- Where the feed thread of a block has ended, no bundle is that thread's. -/
theorem stopFeed_bundles {s : State} {b : Nat} {u : Bundle} (h : u ∈ (s.stopFeed b).sch.bundles) : ¬(u.blk = b ∧ u.feed = true) := by
  have := (List.mem_filter.mp (show u ∈ s.sch.bundles.filter _ from h)).2
  rintro ⟨rfl, hf⟩
  simp [hf] at this

/-- Settles O37: instruction by instruction. -/
theorem descriptorsComplete : Obligations.DescriptorsComplete := by
  intro d a k m s
  refine ⟨?_, ?_, fun h => ⟨(issue_alone h).trans rfl, fun u hu => stopFeed_bundles (by simpa using hu)⟩⟩
  · rintro h va x hva hx
    have hexec : exec (.tdmk d a m) s = .next (s.tdmk d a m) := issue_alone h
    refine ⟨fun hpol => hexec.trans (congrArg _ (if_pos hpol)), fun hpol hmis => ?_, fun hpol hal t lanes oob hc hb =>
      ⟨_, hexec, State.tdmk_ok hpol hva hx hal hc hb⟩⟩
    subst hva
    exact hexec.trans (congrArg _ ((if_neg (Bool.eq_false_iff.mp hpol)).trans (if_pos hmis)))
  · rintro h n rfl
    have hx := exec_tdfree h
    refine ⟨fun hn => ?_, fun hn => ?_⟩
    · rwa [if_pos hn] at hx
    · rw [if_neg (by omega)] at hx
      exact ⟨_, hx, State.freeTd_tdesc s _ _, rfl, rfl, fun b n hne => State.freeTd_tdesc_ne s hne⟩

end Sys2Proof.Machine

/-!
PROOF (R17 to R19, R30, R178, R187 to R190, R310, R311, R355): the issue stage and its events.
-/
namespace Sys2Proof.Machine

-- One theorem after the other: in parallel they ask for more threads than the host allows.
set_option Elab.async false

/-! ## The order of candidates (R19) -/

theorem lexLt_irrefl (a : List Nat) : lexLt a a = false := by
  induction a with
  | nil => rfl
  | cons x t ih => simp [lexLt, ih]

theorem lexLt_asymm {a b : List Nat} (h : lexLt a b = true) : lexLt b a = false := by
  induction a generalizing b with
  | nil => cases h
  | cons x s ih =>
    cases b with
    | nil => rfl
    | cons y t =>
      simp only [lexLt, Bool.or_eq_true, decide_eq_true_eq, Bool.and_eq_true, beq_iff_eq] at h
      simp only [lexLt, Bool.or_eq_false_iff, decide_eq_false_iff_not, Bool.and_eq_false_iff, beq_eq_false_iff_ne]
      rcases h with h | ⟨rfl, h⟩
      · omega
      · exact ⟨by omega, .inr (ih h)⟩

/-- No key behind one that is not behind a third is before it. -/
theorem lexLt_trans_false {a b c : List Nat} (hl : a.length = b.length) (hl' : b.length = c.length) (hab : lexLt b a = false) (hbc : lexLt c b = false) :
    lexLt c a = false := by
  induction a generalizing b c with
  | nil =>
    obtain rfl : b = [] := List.length_eq_zero_iff.mp hl.symm
    exact hbc
  | cons x s ih =>
    obtain ⟨y, t, rfl⟩ := List.exists_cons_of_length_eq_add_one hl.symm
    obtain ⟨z, u, rfl⟩ := List.exists_cons_of_length_eq_add_one (hl'.symm.trans hl.symm)
    simp only [List.length_cons, Nat.add_right_cancel_iff] at hl hl'
    simp only [lexLt, Bool.or_eq_false_iff, decide_eq_false_iff_not, Bool.and_eq_false_iff, beq_eq_false_iff_ne] at hab hbc ⊢
    refine ⟨by omega, ?_⟩
    by_cases hzx : z = x
    · have hyx : y = x := by omega
      subst hzx hyx
      exact .inr (ih hl hl' (hab.2.resolve_left (by simp)) (hbc.2.resolve_left (by simp)))
    · exact .inl hzx

/-- The order of a candidate with its key: none before it that follows it. -/
def CandLe (c d : List Nat × Cand) : Prop := lexLt d.1 c.1 = false

theorem mem_insertCand {c x : List Nat × Cand} {l : List (List Nat × Cand)} : x ∈ insertCand c l ↔ x = c ∨ x ∈ l := by
  induction l with
  | nil => simp [insertCand]
  | cons d t ih =>
    rw [insertCand]
    split
    · exact List.mem_cons
    · rw [List.mem_cons, ih, List.mem_cons]
      exact or_left_comm

theorem insertCand_pairwise {c : List Nat × Cand} {l : List (List Nat × Cand)} (hlen : ∀ x ∈ l, x.1.length = c.1.length)
    (h : l.Pairwise CandLe) : (insertCand c l).Pairwise CandLe := by
  induction l with
  | nil => simp [insertCand]
  | cons d t ih =>
    obtain ⟨hd, ht⟩ := List.pairwise_cons.mp h
    have hdlen := hlen d List.mem_cons_self
    rw [insertCand]
    split
    · next hlt =>
      refine List.pairwise_cons.mpr ⟨fun x hx => ?_, h⟩
      rcases List.mem_cons.mp hx with rfl | hx
      · exact lexLt_asymm hlt
      · exact lexLt_trans_false hdlen.symm (hdlen.trans (hlen x (List.mem_cons_of_mem _ hx)).symm) (lexLt_asymm hlt) (hd x hx)
    · next hlt =>
      refine List.pairwise_cons.mpr ⟨fun x hx => ?_, ih (fun x hx => hlen x (List.mem_cons_of_mem _ hx)) ht⟩
      rcases mem_insertCand.mp hx with rfl | hx
      · exact Bool.eq_false_iff.mpr hlt
      · exact hd x hx

theorem foldl_insertCand {n : Nat} {l m : List (List Nat × Cand)} (hl : ∀ x ∈ l, x.1.length = n) (hm : ∀ x ∈ m, x.1.length = n) (h : m.Pairwise CandLe) :
    (l.foldl (fun l c => insertCand c l) m).Pairwise CandLe ∧ ∀ x, x ∈ l.foldl (fun l c => insertCand c l) m → x ∈ l ∨ x ∈ m := by
  induction l generalizing m with
  | nil => exact ⟨h, fun x hx => .inr hx⟩
  | cons c l ih =>
    have hc := hl c List.mem_cons_self
    obtain ⟨h1, h2⟩ := ih (m := insertCand c m) (fun x hx => hl x (List.mem_cons_of_mem _ hx))
      (fun x hx => (mem_insertCand.mp hx).elim (fun e => e ▸ hc) (hm x)) (insertCand_pairwise (fun x hx => (hm x hx).trans hc.symm) h)
    refine ⟨h1, fun x hx => ?_⟩
    rcases h2 x hx with hx | hx
    · exact .inl (List.mem_cons_of_mem _ hx)
    · exact (mem_insertCand.mp hx).imp_left fun (e : x = c) => e ▸ List.mem_cons_self

/-- The candidates of a quarter stand in their order. -/
theorem candidates_pairwise (s : State) (core qtr : Nat) :
    (s.candidates core qtr).Pairwise fun c d => lexLt (s.orderOf core d) (s.orderOf core c) = false := by
  unfold State.candidates
  dsimp only
  generalize hl : List.filterMap _ _ ++ List.map _ _ = l
  have hkey : ∀ x ∈ l, x.1 = s.orderOf core x.2 := by
    rintro x hx
    rw [← hl] at hx
    rcases List.mem_append.mp hx with hx | hx
    · obtain ⟨n, -, hx⟩ := List.mem_filterMap.mp hx
      obtain ⟨r, hr, rfl⟩ := Option.map_eq_some_iff.mp hx
      simp [State.orderOf, hr]
    · obtain ⟨u, -, rfl⟩ := List.mem_map.mp hx
      rfl
  have hlen : ∀ x ∈ l, x.1.length = 4 := fun x hx => by
    rw [hkey x hx]
    cases x.2 <;> rfl
  obtain ⟨hsorted, hmem⟩ := foldl_insertCand hlen (m := []) (by simp) .nil
  refine List.pairwise_map.mpr (hsorted.imp_of_mem fun {c d} hc hd h => ?_)
  have hc' := hkey c ((hmem c hc).resolve_right (by simp))
  have hd' := hkey d ((hmem d hd).resolve_right (by simp))
  rw [← hc', ← hd']
  exact h

/-- Of a list in order, none that holds goes before the first that does. -/
theorem find_first_of_pairwise {α : Type} {R : α → α → Prop} {p : α → Bool} {l : List α} {c : α} (hrefl : R c c) (h : l.Pairwise R) (hc : l.find? p = some c) :
    ∀ e ∈ l, p e = true → R c e := by
  obtain ⟨-, as, bs, rfl, has⟩ := List.find?_eq_some_iff_append.mp hc
  intro e he hp
  rcases List.mem_append.mp he with he | he
  · exact absurd hp (by simpa using has e he)
  · rcases List.mem_cons.mp he with rfl | he
    · exact hrefl
    · exact (List.pairwise_cons.mp (List.pairwise_append.mp h).2.1).1 e he

/-- One step of a quarter's choice. -/
def State.pickStep (s : State) (p : Picks) (c : Cand) : Picks :=
  if p.vec.isSome && p.uni.isSome then p
  else if (s.candNeeds c).uniform then (if p.uni.isNone then { p with uni := some (c, s.candNeeds c) } else p)
  else if p.vec.isNone then { p with vec := some (c, s.candNeeds c) } else p

/-- Each path takes the first candidate that it issues. -/
theorem foldl_pickStep (s : State) (l : List Cand) (p : Picks) :
    (l.foldl s.pickStep p).vec = p.vec.or ((l.find? fun c => !(s.candNeeds c).uniform).map fun c => (c, s.candNeeds c)) ∧
    (l.foldl s.pickStep p).uni = p.uni.or ((l.find? fun c => (s.candNeeds c).uniform).map fun c => (c, s.candNeeds c)) := by
  induction l generalizing p with
  | nil => simp
  | cons c l ih =>
    rw [List.foldl_cons, (ih _).1, (ih _).2, List.find?_cons, List.find?_cons, State.pickStep]
    obtain ⟨vec, uni⟩ := p
    cases hu : (s.candNeeds c).uniform <;> cases vec <;> cases uni <;> simp

theorem picks_eq (s : State) (core qtr : Nat) (uni : Bool) : (if uni = true then (s.picks core qtr).uni else (s.picks core qtr).vec) =
    (((s.candidates core qtr).find? fun c => (s.candNeeds c).uniform == uni).map fun c => (c, s.candNeeds c)) := by
  have h := foldl_pickStep s (s.candidates core qtr) { vec := none, uni := none }
  rw [← show s.picks core qtr = (s.candidates core qtr).foldl s.pickStep _ from rfl] at h
  cases uni
  · simpa using h.1
  · simpa using h.2

/-- Settles O39: the candidates stand in order, and each path takes its first. -/
theorem issueSelectsFirst : Obligations.IssueSelectsFirst := by
  rintro s core qtr uni pick rfl
  rw [picks_eq]
  refine ⟨fun hnone e he => ?_, fun c n hsome => ?_⟩
  · rw [Option.map_eq_none_iff] at hnone
    simpa using List.find?_eq_none.mp hnone e he
  · obtain ⟨c', hc, heq⟩ := Option.map_eq_some_iff.mp hsome
    cases heq
    refine ⟨List.mem_of_find?_eq_some hc, rfl, by simpa using List.find?_some hc, fun e he hu => ?_⟩
    exact find_first_of_pairwise (lexLt_irrefl _) (candidates_pairwise s core qtr) hc e he (by simpa using hu)

/-! ## What a quarter issues (R310, R311) -/

theorem takeCand_grantTo (s : State) (core qtr : Nat) (e : Cand × Needs) (c : Cand) :
    (s.grantTo core qtr e).takeCand c = ((s.takeCand c).1, (s.takeCand c).2.grantTo core qtr e) := by
  unfold State.grantTo
  split
  · rfl
  · cases c <;> rfl

@[simp] theorem State.grantTo_sched (s : State) (core qtr : Nat) (e : Cand × Needs) : (s.grantTo core qtr e).sch.curOn = s.sch.curOn ∧
    (s.grantTo core qtr e).sch.bundles = s.sch.bundles := by
  unfold State.grantTo
  split <;> exact ⟨rfl, rfl⟩

theorem State.grantTo_grant (s : State) {core qtr : Nat} {e : Cand × Needs} {x : CoreUnit} (h : e.2.unit = some x) :
    mget 0 (s.grantTo core qtr e).sch.grant (2 * core + x.num) = (qtr + 1) % 4 := by
  rw [State.grantTo, h]
  exact (mget_mput _ _ _ _ _).trans (if_pos rfl)

theorem State.grantTo_keeps_grant {s : State} {core qtr : Nat} (e : Cand × Needs) {x : CoreUnit}
    (h : mget 0 s.sch.grant (2 * core + x.num) = (qtr + 1) % 4) : mget 0 (s.grantTo core qtr e).sch.grant (2 * core + x.num) = (qtr + 1) % 4 := by
  unfold State.grantTo
  split
  · exact h
  · refine (mget_mput _ _ _ _ _).trans ?_
    split
    · rfl
    · exact h

theorem takeCand_curOn (s : State) (c : Cand) : (s.takeCand c).2.sch.curOn = s.sch.curOn := by
  cases c <;> rfl

/-- A bundle that keeps some thread stays among the bundles. -/
theorem mem_addBundles (s : State) {u : Bundle} (h : u.members ≠ []) : u ∈ (s.addBundles [u]).sch.bundles := by
  simp [State.addBundles, h]

/-- The bundle of a candidate that goes, its unit granted. -/
theorem takesCand_select {core qtr : Nat} {s t : State} {e : Cand × Needs} {u : Bundle} (hregs : t.regs = s.regs) (hmem : t.mem = s.mem) :
    TakesCand core qtr s e u ((t.grantTo core qtr e).select u) :=
  ⟨rfl, rfl, fun _ hx => (t.grantTo_grant hx :), by simpa [State.select] using hregs, by simpa [State.select] using hmem⟩

/-- A candidate that its unit refuses stays, ahead of the others. -/
theorem keepCand_stays (s : State) {c : Cand} (h : (s.takeCand c).1.members ≠ []) :
    (s.keepCand c).sch.curOn = s.sch.curOn ∧ { (s.takeCand c).1 with ahead := 2 } ∈ (s.keepCand c).sch.bundles ∧ (s.keepCand c).regs = s.regs ∧
    (s.keepCand c).mem = s.mem := by
  refine ⟨?_, mem_addBundles _ h, ?_, ?_⟩
  · exact takeCand_curOn s c
  · simp [State.keepCand]
  · simp [State.keepCand]

/-- What a quarter issues, by what its paths chose and its units refuse. -/
theorem picksIssue_of_next {core qtr : Nat} {s : State} {o : Host.Outcome State Fault Refusal} (h : o = .next (s.issuePicks core qtr (s.picks core qtr))) :
    PicksIssue core qtr s o := by
  unfold PicksIssue
  dsimp only
  generalize s.picks core qtr = p at h ⊢
  obtain ⟨vec, uni⟩ := p
  subst h
  refine ⟨?_, ?_, ?_, ?_, ?_, ?_⟩
  · rintro rfl rfl
    rfl
  · rintro x rfl rfl
    refine ⟨fun hr => ?_, fun hr hne => ⟨_, rfl, ?_⟩⟩
    · refine ⟨_, rfl, ?_⟩
      simp only [State.issuePicks, Option.filter_some, hr, Bool.not_false, if_true, Option.isNone_some, Bool.false_eq_true, if_false, Option.filter_none,
        Option.isNone_none, takeCand_grantTo]
      exact takesCand_select (by simp) (by simp)
    · simp only [State.issuePicks, Option.filter_some, hr, Bool.not_true, Bool.false_eq_true, if_false, Option.isNone_none, if_true, Option.filter_none]
      exact keepCand_stays s hne
  · rintro y rfl rfl
    refine ⟨fun hr => ?_, fun hr hne => ⟨_, rfl, ?_⟩⟩
    · refine ⟨_, rfl, ?_⟩
      simp only [State.issuePicks, Option.filter_none, Option.bind_none, Option.filter_some, hr, Bool.not_false, if_true, Option.isNone_some,
        Bool.false_eq_true, if_false, Option.isNone_none, takeCand_grantTo]
      exact takesCand_select (by simp) (by simp)
    · simp only [State.issuePicks, Option.filter_none, Option.bind_none, Option.filter_some, hr, Bool.not_true, Bool.false_eq_true, if_false,
        Option.isNone_none, if_true]
      exact keepCand_stays s hne
  · rintro x y rfl rfl hx hy
    refine ⟨fun hp => ⟨_, rfl, ?_⟩, fun hp hd => ⟨_, rfl, ?_⟩, fun hp hd hne => ⟨_, rfl, ?_⟩⟩
    · simp only [State.issuePicks, Option.filter_some, hx, hy, Bool.not_false, if_true, Option.bind_some, Option.isNone_some, Bool.false_eq_true, if_false,
        takeCand_grantTo, if_pos hp]
      exact ⟨⟨rfl, rfl, fun _ hu => State.grantTo_keeps_grant y (State.grantTo_grant _ hu), by simp [State.select], by simp [State.select]⟩, trivial⟩
    · simp only [State.issuePicks, Option.filter_some, hx, hy, Bool.not_false, if_true, Option.bind_some, Option.isNone_some, Bool.false_eq_true, if_false,
        takeCand_grantTo, if_neg (Nat.not_le.mpr hp), hd]
      exact takesCand_select (by simp) (by simp)
    · simp only [State.issuePicks, Option.filter_some, hx, hy, Bool.not_false, if_true, Option.bind_some, Option.isNone_some, Bool.false_eq_true, if_false,
        takeCand_grantTo, if_neg (Nat.not_le.mpr hp), hd]
      refine ⟨⟨rfl, rfl, fun _ hu => State.grantTo_grant _ hu, by simp [State.select], by simp [State.select]⟩, ?_⟩
      exact mem_addBundles _ hne
  · rintro x y rfl rfl hx hy
    refine ⟨_, rfl, ?_⟩
    simp only [State.issuePicks, Option.filter_some, hx, hy, Bool.not_false, Bool.not_true, if_true, Option.bind_none, Option.isNone_some, Option.isNone_none,
      Bool.false_eq_true, if_false, takeCand_grantTo]
    exact takesCand_select (by simp [State.keepCand]) (by simp [State.keepCand])
  · rintro x y rfl rfl hx hy
    refine ⟨_, rfl, ?_⟩
    simp only [State.issuePicks, Option.filter_some, hx, hy, Bool.not_false, Bool.not_true, if_true, Option.bind_some, Option.isNone_some, Option.isNone_none,
      Bool.false_eq_true, if_false, takeCand_grantTo]
    exact takesCand_select (by simp [State.keepCand]) (by simp [State.keepCand])

/-! ## The scheduler's events -/

theorem aaeNext_selects {s : State} {core qtr : Nat} {u : Bundle} (hoff : s.sch.curOn = false) (hq : 4 ≤ qtr) (hu : s.aaeNext core = some u) :
    ∃ t, Next (exec (.issueSelect core qtr) s) t ∧ t.sch.cur = u ∧ t.sch.curOn = true ∧ mget 0 t.sch.aae core = u.blk ∧
      t.sch.bundles = s.sch.bundles.erase u ∧ t.regs = s.regs ∧ t.mem = s.mem := by
  refine ⟨State.select { s with sch := { s.sch with aae := mput 0 s.sch.aae core u.blk, bundles := s.sch.bundles.erase u } } u, ?_, rfl, rfl, ?_, rfl, rfl, rfl⟩
  · change execIssueSelect core qtr s = _
    rw [execIssueSelect, if_neg (by simp [hoff]), if_pos hq, hu]
  · exact (mget_mput _ _ _ _ _).trans (if_pos rfl)

theorem barResume_resumes {s : State} {blk id : Nat} {cl : Bool} {here : Bundle → Bool} {u : Bundle} {c : Nat}
    (hhere : here = fun v => v.blk == blk && !v.feed && (v.wait.barGo id cl).isSome) (hu : s.sch.bundles.find? here = some u) (hc : u.wait.barGo id cl = some c) :
    ∃ t, Next (exec (.barResume blk id cl) s) t ∧ t.clk = (s.reach c).clk ∧ t.regs = s.regs ∧ t.mem = s.mem ∧
      t.sch.bundles = s.sch.bundles.map fun v => if here v = true then v.resume else v := by
  subst hhere
  refine ⟨(s.reach c).mapBundles _, ?_, rfl, rfl, rfl, rfl⟩
  change execBarResume blk id cl s = _
  simp only [execBarResume, hu, hc, Option.getD_some]

theorem yieldExpire_resumes {s : State} {n c : Nat} {u : Bundle} (hu : s.sch.bundles[n]? = some u) (hw : u.wait = .yielded c) :
    ∃ t, Next (exec (.yieldExpire n) s) t ∧ t.clk = (s.reach c).clk ∧ t.regs = s.regs ∧ t.sch.bundles = s.sch.bundles.set n (u.step u.adv t.now) := by
  refine ⟨{ (s.reach c) with sch := { (s.reach c).sch with bundles := s.sch.bundles.set n (u.step u.adv (s.reach c).now) } }, ?_, rfl, rfl, rfl⟩
  change execYieldExpire n s = _
  simp only [execYieldExpire, hu, hw, State.reach_sch]

/-- Settles O38: event by event. -/
theorem schedulerEventsComplete : Obligations.SchedulerEventsComplete := by
  intro core qtr n blk id l cl s
  refine ⟨?_, fun hoff hq u hu => aaeNext_selects hoff hq hu, fun x hx => ⟨?_, ?_⟩, fun here u c hhere hu hc => barResume_resumes hhere hu hc,
    fun u c hu hw => yieldExpire_resumes hu hw, ?_⟩
  · rintro hoff hq u rfl
    have hx : exec (.issueSelect core qtr) s = .next (if (s.refileHeld core qtr).gated core then s.refileHeld core qtr
        else (s.refileHeld core qtr).issuePicks core qtr ((s.refileHeld core qtr).picks core qtr)) := by
      change execIssueSelect core qtr s = _
      rw [execIssueSelect, if_neg (by simp [hoff]), if_neg (by omega)]
    refine ⟨fun hg => ?_, fun hg => ?_⟩
    · rwa [if_pos hg] at hx
    · rw [if_neg (Bool.eq_false_iff.mp hg)] at hx
      exact picksIssue_of_next hx
  · change execBinAged n s = _
    rw [execBinAged, hx]
  · change execBinOverdue n s = _
    rw [execBinOverdue, hx]
  · rintro x rfl
    refine ⟨fun h0 => ?_, fun h0 h1 => ?_, fun h0 h1 => ?_⟩ <;> change execLbarReleaseWindow l s = _ <;> unfold execLbarReleaseWindow <;> dsimp only
    · rw [if_pos (by simp [h0])]
    · rw [if_neg (by simpa using h0), if_neg (by simpa using h1)]
    · rw [if_neg (by simpa using h0), if_pos (by simpa using h1), h1]

end Sys2Proof.Machine

/-!
PROOF (R87, R91, R109, R192, R206, R213): results land, stores leave, fences visit, monitors poll, and the work-queue unit performs.
-/
namespace Sys2Proof.Machine

-- One theorem after the other: in parallel they ask for more threads than the host allows.
set_option Elab.async false

/-! ## What an acquire and the barriers leave in the pipe -/

@[simp] theorem State.acquire_queues (s : State) (b scope : Nat) : (s.acquire b scope).pipe.nextId = s.pipe.nextId ∧
    (s.acquire b scope).pipe.pends = s.pipe.pends ∧ (s.acquire b scope).pipe.sbuf = s.pipe.sbuf ∧ (s.acquire b scope).pipe.reqs = s.pipe.reqs ∧
    (s.acquire b scope).pipe.acks = s.pipe.acks := by
  unfold State.acquire
  dsimp only
  by_cases h2 : 2 ≤ scope <;> by_cases h3 : 3 ≤ scope <;> simp [h2, h3, State.l1Flash, State.setL1]

@[simp] theorem State.barCheck_queues (s : State) (b id : Nat) (cl : Bool) : (s.barCheck b id cl).pipe.pends = s.pipe.pends ∧
    (s.barCheck b id cl).pipe.sbuf = s.pipe.sbuf ∧ (s.barCheck b id cl).pipe.reqs = s.pipe.reqs ∧ (s.barCheck b id cl).pipe.acks = s.pipe.acks := by
  unfold State.barCheck
  dsimp only
  generalize (if cl = true then s.groupOf b else [b]) = bs
  split
  · refine ⟨?_, ?_, ?_, ?_⟩
    · exact (foldl_frame (F := fun t : State => t.pipe.pends) (fun t b => by simp) _ _).trans (by simp)
    · exact (foldl_frame (F := fun t : State => t.pipe.sbuf) (fun t b => by simp) _ _).trans (by simp)
    · exact (foldl_frame (F := fun t : State => t.pipe.reqs) (fun t b => by simp) _ _).trans (by simp)
    · exact (foldl_frame (F := fun t : State => t.pipe.acks) (fun t b => by simp) _ _).trans (by simp)
  · simp

@[simp] theorem State.recheck_queues (s : State) (b : Nat) : (s.recheck b).pipe.pends = s.pipe.pends ∧ (s.recheck b).pipe.sbuf = s.pipe.sbuf ∧
    (s.recheck b).pipe.reqs = s.pipe.reqs ∧ (s.recheck b).pipe.acks = s.pipe.acks := by
  unfold State.recheck State.checkBars
  dsimp only
  refine ⟨?_, ?_, ?_, ?_⟩ <;> rw [(State.lbarCheck_frame _ _).2.2.1]
  · exact foldl_frame (F := fun t : State => t.pipe.pends) (fun t b => by simp) _ _
  · exact foldl_frame (F := fun t : State => t.pipe.sbuf) (fun t b => by simp) _ _
  · exact foldl_frame (F := fun t : State => t.pipe.reqs) (fun t b => by simp) _ _
  · exact foldl_frame (F := fun t : State => t.pipe.acks) (fun t b => by simp) _ _

/-! ## RESULT_LAND (R109) -/

@[simp] theorem State.landWith_regs (s : State) (p : Pend) (ws : List RegWr) :
    (s.landWith p ws).regs = s.regs.applyAll p.blk (ws.filter (s.wanted p.blk)) := by
  unfold State.landWith
  dsimp only
  split <;> simp

/-- The result that has landed is pending no more. -/
theorem State.landWith_pend (s : State) (p : Pend) (ws : List RegWr) : (s.landWith p ws).pend p.id = none := by
  have hp : (s.landWith p ws).pipe.pends = (s.pipe.pends.filter fun q => q.id != p.id).map fun q =>
      if (q.mirror == some p.id) = true then { q with outs := ws, parts := 0, mirror := none, poisoned := p.poisoned } else q := by
    unfold State.landWith
    dsimp only
    split <;> simp only [State.recheck_queues, State.resumePend_frame, State.acquire_queues] <;> rfl
  rw [State.pend, hp]
  refine List.find?_eq_none.mpr fun q hq => ?_
  obtain ⟨r, hr, rfl⟩ := List.mem_map.mp hq
  have hid := (List.mem_filter.mp hr).2
  split <;> simpa using hid

/-- RESULT_LAND of an operation that has all its parts. -/
theorem exec_resultLand {s : State} {n : Nat} {p : Pend} (hp : s.pend n = some p) (hparts : p.parts = 0) (hm : p.mirror = none)
    (hkv : p.plan ≠ .kvtest) (href : p.plan ≠ .refill) :
    exec (.resultLand n) s = if p.poisoned then .next (((s.dropPend n).toMirrors p []).eccunc p.blk true)
      else match p.plan with
        | .tdmk kd => .next (s.landTdmk p kd)
        | .recld r => .next (s.landRecld p r)
        | _ => .next (s.landWith p p.writes) := by
  change execResultLand n s = _
  simp only [execResultLand, hp]
  rw [if_neg (by simp [hparts, hm, hkv, href])] <;> rfl

theorem State.pend_id {s : State} {n : Nat} {p : Pend} (h : s.pend n = some p) : p.id = n := by simpa using List.find?_some h

theorem resultLand_lands {s : State} {n : Nat} {p : Pend} (hp : s.pend n = some p) (hparts : p.parts = 0) (hm : p.mirror = none) :
    (p.poisoned = true → p.plan ≠ .kvtest → p.plan ≠ .refill → Next (exec (.resultLand n) s) (((s.dropPend n).toMirrors p []).eccunc p.blk true)) ∧
    (p.poisoned = false → (∀ kd, p.plan ≠ .tdmk kd) → (∀ r, p.plan ≠ .recld r) → p.plan ≠ .kvtest → p.plan ≠ .refill →
      ∃ t, Next (exec (.resultLand n) s) t ∧ t.regs = s.regs.applyAll p.blk (p.writes.filter (s.wanted p.blk)) ∧ t.pend n = none ∧ t.mem = s.mem) ∧
    (p.poisoned = false → ∀ kd, p.plan = .tdmk kd → Next (exec (.resultLand n) s) (s.landTdmk p kd)) ∧
    (p.poisoned = false → ∀ r, p.plan = .recld r → Next (exec (.resultLand n) s) (s.landRecld p r)) := by
  refine ⟨fun hbad hkv href => ?_, fun hbad htd hrec hkv href => ⟨s.landWith p p.writes, ?_, by simp, ?_, by simp⟩, fun hbad kd hplan => ?_, fun hbad r hplan => ?_⟩
  · rw [Next, exec_resultLand hp hparts hm hkv href, if_pos hbad]
  · rw [Next, exec_resultLand hp hparts hm hkv href, if_neg (by simp [hbad])]
    split
    · next kd h => exact absurd h (htd kd)
    · next r h => exact absurd h (hrec r)
    · rfl
  · rw [← State.pend_id hp]
    exact State.landWith_pend s p _
  · rw [Next, exec_resultLand hp hparts hm (by simp [hplan]) (by simp [hplan]), if_neg (by simp [hbad]), hplan]
  · rw [Next, exec_resultLand hp hparts hm (by simp [hplan]) (by simp [hplan]), if_neg (by simp [hbad]), hplan]

/-! ## Stores and fences (R87, R91) -/

theorem storeBufferLeave_sends {s : State} {n : Nat} {e : SbEntry} (he : (s.pipe.sbuf.find? fun e => e.id == n) = some e) (hl : s.mayLeave e = true) :
    ∃ t, Next (exec (.storeBufferLeave n) s) t ∧ t.regs = s.regs ∧ t.mem = s.mem ∧
      t.pipe.reqs = s.pipe.reqs ++ [{
        id := s.pipe.nextId, slice := e.home, core := e.core, ctx := e.ctx, pa := e.pa, kind := .store n e.bytes, pend := 0,
        tkeep := polKeep e.pol, tnorm := polNorm e.pol, ccls := e.ccls, ilv := e.ilv, charged := false, heldTo := 0, at' := s.now }] := by
  rw [show exec (.storeBufferLeave n) s = execStoreBufferLeave n s from rfl, execStoreBufferLeave, he]
  dsimp only
  rw [if_neg (by simp [hl])]
  refine ⟨_, rfl, ?_, ?_, ?_⟩
  · simp
  · simp
  · rw [(State.recheck_queues _ _).2.2.1]
    rfl

theorem partDones_queues (s : State) (ps : List Nat) : (ps.foldl (fun t p => t.partDone p) s).pipe.sbuf = s.pipe.sbuf ∧
    (ps.foldl (fun t p => t.partDone p) s).pipe.acks = s.pipe.acks :=
  ⟨foldl_frame (F := fun t : State => t.pipe.sbuf) (f := fun t p => t.partDone p) (fun _ _ => rfl) _ _,
    foldl_frame (F := fun t : State => t.pipe.acks) (f := fun t p => t.partDone p) (fun _ _ => rfl) _ _⟩

theorem storeAck_frees {s : State} {n : Nat} {a : Ack} (ha : (s.pipe.acks.find? fun a => a.id == n) = some a) :
    ∃ t, Next (exec (.storeAck n) s) t ∧ t.regs = s.regs ∧ t.mem = s.mem ∧ t.pipe.sbuf = (s.pipe.sbuf.filter fun e => e.id != a.entry) ∧
      t.pipe.acks = s.pipe.acks.filter fun x => x.id != n := by
  rw [show exec (.storeAck n) s = execStoreAck n s from rfl, execStoreAck, ha]
  refine ⟨_, rfl, ?_, ?_, ?_, ?_⟩
  · refine (foldl_frame (F := fun t : State => t.regs) (fun t b => by simp) _ _).trans ?_
    exact foldl_frame (F := fun t : State => t.regs) (fun t b => by simp) _ _
  · refine (foldl_mem _ _ (fun t b => by simp) _).trans ?_
    exact foldl_mem _ _ (fun t b => by simp) _
  · refine (foldl_frame (F := fun t : State => t.pipe.sbuf) (fun t b => by simp) _ _).trans ?_
    exact congrArg (List.filter _) (partDones_queues s a.pends).1
  · refine (foldl_frame (F := fun t : State => t.pipe.acks) (fun t b => by simp) _ _).trans ?_
    exact congrArg (List.filter _) (partDones_queues s a.pends).2

theorem fencerVisit_visits {s : State} {n : Nat} {f : Fencer} (hf : (s.sch.fencers.find? fun f => f.id == n) = some f) :
    (∀ k rest, f.cores = k :: rest → (f.crews.any fun c => s.releaseWaits f.blk c f.scope) = false → s.coreBusy k = false →
      ∃ t, Next (exec (.fencerVisit n) s) t ∧ (∀ x ∈ t.pipe.l1, x.core ≠ k) ∧ t.regs = s.regs ∧ t.mem = s.mem ∧
        t.sch.fencers = s.sch.fencers.map fun g => if (g.id == n) = true then { g with cores := rest } else g) ∧
    (f.cores = [] → ∃ t, Next (exec (.fencerVisit n) s) t ∧ t.regs = s.regs ∧ t.mem = s.mem ∧
      (t.sch.fencers = s.sch.fencers.filter fun g => g.id != n) ∧
      t.sch.bundles = s.sch.bundles.map fun u => if (u.wait == .fencer n) = true then u.resume else u) := by
  refine ⟨fun k rest hc hw hb => ?_, fun hc => ?_⟩
  · refine ⟨{ (s.setL1 (s.pipe.l1.filter fun x => x.core != k)) with
        sch := { s.sch with fencers := s.sch.fencers.map fun g => if g.id == n then { g with cores := rest } else g } }, ?_, fun x hx => ?_, rfl, rfl, rfl⟩
    · change execFencerVisit n s = _
      simp only [execFencerVisit, hf, hc, hw, hb, Bool.false_eq_true, if_false]
    · simpa using (List.mem_filter.mp hx).2
  · rw [show exec (.fencerVisit n) s = execFencerVisit n s from rfl, execFencerVisit, hf]
    dsimp only
    rw [hc]
    refine ⟨_, rfl, ?_, ?_, ?_, ?_⟩
    · simp
    · simp
    · simp [State.mapBundles]
    · simp [State.mapBundles]

/-! ## Monitors (R192, R213) -/

/-- With no monitor that has read poison, none is consumed. -/
theorem badMonitors_of_good {s : State} (h : ∀ m ∈ s.pipe.mons, m.bad = false) : s.badMonitors = s := by
  have hbad : (s.pipe.mons.filter fun m => m.bad) = [] := List.filter_eq_nil_iff.mpr fun m hm => by simp [h m hm]
  have hmons : (s.pipe.mons.map fun m => { m with bad := false }) = s.pipe.mons := by
    refine (List.map_congr_left fun m hm => ?_).trans (List.map_id _)
    rw [← h m hm]
    rfl
  rw [State.badMonitors, hbad, hmons]
  rfl

/-- What the stop of a launch leaves. -/
structure State.StopsOnly (s t : State) : Prop where
  blocks : t.disp.blocks = s.disp.blocks
  uids : (t.disp.launches.map fun l => l.uid) = s.disp.launches.map fun l => l.uid
  free : ∀ u, (s.launch u).guarded = false → (t.launch u).guarded = false
  stopped : ∀ u, (s.launch u).stopped = true → (t.launch u).stopped = true

namespace State.StopsOnly

theorem refl (s : State) : s.StopsOnly s := ⟨rfl, rfl, fun _ h => h, fun _ h => h⟩

theorem trans {s t u : State} (h : s.StopsOnly t) (k : t.StopsOnly u) : s.StopsOnly u :=
  ⟨k.blocks.trans h.blocks, k.uids.trans h.uids, fun n hn => k.free n (h.free n hn), fun n hn => k.stopped n (h.stopped n hn)⟩

theorem of_disp {s t : State} (h : t.disp = s.disp) : s.StopsOnly t :=
  ⟨by rw [h], by rw [h], fun u hu => by rw [State.launch, h]; exact hu, fun u hu => by rw [State.launch, h]; exact hu⟩

end State.StopsOnly

/-- A launch after one is set. -/
theorem State.launch_setLaunch (s : State) (x : Launch) (u : Nat) : (s.setLaunch x).launch u =
    ((s.disp.launches.find? (·.uid == u)).map fun l => if u = x.uid then x else l).getD .none := by
  unfold State.launch State.setLaunch
  dsimp only
  congr 1
  induction s.disp.launches with
  | nil => rfl
  | cons y t ih =>
    rw [List.map_cons, List.find?_cons, List.find?_cons, ih]
    have huid : (if y.uid == x.uid then x else y).uid = y.uid := by
      split
      · next h => exact (beq_iff_eq.mp h).symm
      · rfl
    rw [huid]
    by_cases hu : y.uid = u
    · subst hu
      simp
    · rw [beq_eq_false_iff_ne.mpr hu]

theorem State.setLaunch_uids (s : State) (x : Launch) : ((s.setLaunch x).disp.launches.map fun l => l.uid) = s.disp.launches.map fun l => l.uid := by
  rw [show (s.setLaunch x).disp.launches = s.disp.launches.map fun y => if y.uid == x.uid then x else y from rfl, List.map_map]
  refine List.map_congr_left fun y _ => ?_
  by_cases h : y.uid = x.uid <;> simp [h]

theorem Launch.none_guarded : Launch.none.guarded = false := by decide +kernel

/-- The launch that a stop leaves. -/
def State.stoppedLaunch (s : State) (u status : Nat) : Launch :=
  { s.launch u with stopped := true, status := max (s.launch u).status status, counter := s.outstanding u, nextBlk := (s.launch u).total }

/-- A launch that is there has the number it is looked up by. -/
theorem State.launch_uid (s : State) (u : Nat) : (s.launch u).uid = u ∨ s.launch u = .none := by
  rw [State.launch]
  cases hf : s.disp.launches.find? (·.uid == u) with
  | none => exact .inr rfl
  | some l => exact .inl (by simpa using List.find?_some hf)

/-- The stop of a launch. -/
theorem State.stopLaunch_stopsOnly (s : State) (u status : Nat) : s.StopsOnly (s.stopLaunch u status) := by
  refine .trans (t := s.setLaunch (s.stoppedLaunch u status)) ?_ (.of_disp rfl)
  refine ⟨rfl, s.setLaunch_uids _, fun n hn => ?_, fun n hn => ?_⟩ <;> rw [State.launch_setLaunch] <;> rw [State.launch] at hn
  · cases hf : s.disp.launches.find? (·.uid == n) with
    | none => exact Launch.none_guarded
    | some l =>
      rw [hf] at hn
      rw [Option.map_some, Option.getD_some]
      split
      · next huid =>
        change (s.launch u).guarded = false
        rcases s.launch_uid u with h | h
        · obtain rfl : n = u := huid.trans h
          rw [State.launch, hf]
          exact hn
        · rw [h]
          exact Launch.none_guarded
      · exact hn
  · cases hf : s.disp.launches.find? (·.uid == n) with
    | none =>
      rw [hf] at hn
      cases hn
    | some l =>
      rw [hf] at hn
      rw [Option.map_some, Option.getD_some]
      split
      · rfl
      · exact hn

theorem State.stopLaunch_stopped (s : State) (u status : Nat) : ((s.stopLaunch u status).launch u).stopped = true ∨ ∀ l ∈ s.disp.launches, l.uid ≠ u := by
  cases hf : s.disp.launches.find? (·.uid == u) with
  | none => exact .inr fun l hl => by simpa using List.find?_eq_none.mp hf l hl
  | some l =>
    left
    have hl : s.launch u = l := by rw [State.launch, hf]; rfl
    have huid : l.uid = u := by simpa using List.find?_some hf
    change ((s.setLaunch (s.stoppedLaunch u status)).launch u).stopped = true
    rw [State.launch_setLaunch, hf, Option.map_some, Option.getD_some, if_pos (by rw [State.stoppedLaunch, hl]; exact huid.symm)]
    rfl

theorem State.eccunc_stopsOnly (s : State) (b : Nat) (own : Bool) : s.StopsOnly (s.eccunc b own) := by
  unfold State.eccunc
  split
  · exact .of_disp (by simp)
  · exact s.stopLaunch_stopsOnly _ _

theorem mem_dedup {α : Type} [DecidableEq α] {a : α} {l : List α} : a ∈ dedup l ↔ a ∈ l := by
  suffices h : ∀ acc : List α, a ∈ l.foldl (fun acc a => if a ∈ acc then acc else acc ++ [a]) acc ↔ a ∈ acc ∨ a ∈ l by
    rw [dedup, h []]
    simp
  induction l with
  | nil => simp
  | cons b l ih =>
    intro acc
    rw [List.foldl_cons, ih]
    split
    · next hb =>
      rw [List.mem_cons]
      exact ⟨fun h => h.imp_right .inr, fun h => h.elim .inl fun h => h.elim (fun e => .inl (e ▸ hb)) .inr⟩
    · simp [or_assoc]

/-- The launch of a block has been stopped, or is gone. -/
def State.Halted (s t : State) (b : Nat) : Prop :=
  (t.launch (s.block b).launch).stopped = true ∨ ∀ l ∈ s.disp.launches, l.uid ≠ (s.block b).launch

theorem State.eccunc_halted {s t : State} (h : s.StopsOnly t) {b : Nat} (own : Bool) (hfree : s.guardedBlk b = false) : s.Halted (t.eccunc b own) b := by
  have hblock : t.block b = s.block b := by rw [State.block, State.block, h.blocks]
  have hg : t.guardedBlk b = false := by
    rw [State.guardedBlk, State.launchOf, hblock]
    exact h.free _ hfree
  rw [State.eccunc, if_neg (Bool.eq_false_iff.mp hg), State.killBlock, hblock]
  refine (t.stopLaunch_stopped (s.block b).launch 2).imp_right fun hgone l hl => ?_
  have : l.uid ∈ t.disp.launches.map fun l => l.uid := h.uids ▸ List.mem_map_of_mem hl
  obtain ⟨l', hl', he⟩ := List.mem_map.mp this
  exact he ▸ hgone l' hl'

theorem foldl_eccunc_stops {bs : List Nat} (t : State) : t.StopsOnly (bs.foldl (fun t b => t.eccunc b false) t) := by
  induction bs generalizing t with
  | nil => exact .refl t
  | cons c bs ih => exact (t.eccunc_stopsOnly c false).trans (ih _)

theorem foldl_eccunc_halted {s : State} {bs : List Nat} {t : State} (h : s.StopsOnly t) :
    ∀ b ∈ bs, s.guardedBlk b = false → s.Halted (bs.foldl (fun t b => t.eccunc b false) t) b := by
  induction bs generalizing t with
  | nil => simp
  | cons c bs ih =>
    have hc : s.StopsOnly (t.eccunc c false) := h.trans (t.eccunc_stopsOnly c false)
    intro b hb hfree
    rcases List.mem_cons.mp hb with rfl | hb
    · have hrest := (foldl_eccunc_stops (bs := bs) (t.eccunc b false)).stopped
      exact (State.eccunc_halted h false hfree).imp_left (hrest _)
    · exact ih hc b hb hfree

/-- A monitor that has read poison stops the launch of its block (R213). -/
theorem badMonitors_halts {s : State} {m : Mon} (hm : m ∈ s.pipe.mons) (hbad : m.bad = true) (hfree : s.guardedBlk m.blk = false) :
    s.Halted s.badMonitors m.blk :=
  foldl_eccunc_halted (s := s) (t := { s with pipe := { s.pipe with mons := s.pipe.mons.map fun m => { m with bad := false } } }) (.of_disp rfl) m.blk (mem_dedup.mpr (List.mem_map.mpr ⟨m, List.mem_filter.mpr ⟨hm, hbad⟩, rfl⟩)) hfree

theorem State.pollAgain_launch (s : State) (n u : Nat) : (s.pollAgain n).launch u = s.launch u := by
  rw [State.launch, State.launch]
  simp

/-! ## The work-queue unit (R206) -/

/-- The work-queue unit's oldest operation is performed on the queue behind it. -/
theorem exec_wqExecute {s : State} {q : WqOp} {rest : List WqOp} (h : s.disp.wq = q :: rest) :
    exec .wqExecute s = .next (State.wqRun { s with disp := { s.disp with wq := rest } } q) := by
  change execWqExecute s = _
  simp only [execWqExecute, h]

/-- A word pushed by the unit. -/
theorem wqPush_writes {v : State} {q : WqOp} {l : Launch} {h pa : Nat} {w : State}
    (hw : w = (((v.unitDone wqWalker).homeWrite h pa (atOffsets (natToBytes 4 q.value.toNat))).setLaunch l).wqLand q [.q q.crew q.qd true] false false) :
    w.regs = v.regs ∧ (v.oneHome h (lineOf pa) → w.memBytes pa 4 = natToBytes 4 q.value.toNat) ∧ ∀ a, a < pa ∨ pa + 4 ≤ a → w.memByte a = v.memByte a := by
  have hmem : w.mem = ((v.unitDone wqWalker).homeWrite h pa (atOffsets (natToBytes 4 q.value.toNat))).mem := by rw [hw]; simp
  refine ⟨by rw [hw]; simp, fun hone => ?_, fun a ha => ?_⟩
  · rw [State.memBytes_congr hmem]
    simpa using State.homeWrite_memBytes (s := v.unitDone wqWalker) (natToBytes 4 q.value.toNat) hone
  · rw [State.memByte_congr hmem, State.homeWrite_memByte_ne]
    · rfl
    · intro e he
      have := atOffsets_lt he
      rw [natToBytes_length] at this
      omega

/-- Settles O40: event by event. -/
theorem landingEventsComplete : Obligations.LandingEventsComplete := by
  intro n s
  refine ⟨fun p hp hparts hm => resultLand_lands hp hparts hm, fun e he hl => storeBufferLeave_sends he hl, fun a ha => storeAck_frees ha,
    fun f hf => fencerVisit_visits hf, fun hgood m r hm ha hk hd hr => ?_, ⟨s.badMonitors.pollAgain n, rfl, fun m hm hbad hfree => ?_⟩, ?_⟩
  · change execWaitcmpPoll n s = _
    rw [execWaitcmpPoll, badMonitors_of_good hgood, State.pollAgain, hm]
    simp only [ha, hk, hd, Bool.or_self, Bool.false_eq_true, if_false, hr]
  · rw [State.pollAgain_launch]
    exact (badMonitors_halts hm hbad hfree).imp_right fun h => by simpa using h
  · rintro q rest hq u l rfl rfl
    have hx := exec_wqExecute hq
    unfold State.wqRun at hx
    rw [show State.launchOf { s with disp := { s.disp with wq := rest } } q.blk = s.launchOf q.blk from rfl] at hx
    generalize s.launchOf q.blk = l at hx ⊢
    generalize ({ s with disp := { s.disp with wq := rest } } : State) = u at hx ⊢
    dsimp only at hx
    refine ⟨fun hp he => ?_, fun hp he => ?_, ?_⟩
    · rwa [if_pos (by simp [hp, he])] at hx
    · rwa [if_neg (by simp [hp]), if_pos (by simp [hp, he])] at hx
    · rintro hroom va rfl
      have hempty : ¬(!q.push && decide (l.wqTail ≤ l.wqHead)) = true := by
        rcases hroom with ⟨hp, h⟩ | ⟨hp, -⟩
        · simp [Nat.not_le.mpr h]
        · simp [hp]
      have hfull : ¬(q.push && decide (2 ^ l.wql ≤ l.wqTail - l.wqHead)) = true := by
        rcases hroom with ⟨hp, -⟩ | ⟨hp, h⟩
        · simp [hp]
        · simp [Nat.not_le.mpr h]
      rw [if_neg hempty, if_neg hfull] at hx
      refine ⟨fun t ht => ?_, fun t ht => ?_, ?_⟩
      · rwa [ht] at hx
      · rwa [ht] at hx
      · rintro x t ht h pa rfl rfl
        rw [ht] at hx
        dsimp only at hx
        refine ⟨fun hhole => ?_, fun hhole hr => ?_, fun hhole hr => ⟨fun hw => ?_, ?_, ?_⟩⟩
        · rwa [if_pos hhole] at hx
        · rwa [if_neg (Bool.eq_false_iff.mp hhole), if_pos (by simpa using hr)] at hx
        · rwa [if_neg (Bool.eq_false_iff.mp hhole), if_neg (by simpa using hr), hw] at hx
        · rintro w v hw rfl hp
          rw [if_neg (Bool.eq_false_iff.mp hhole), if_neg (by simpa using hr), hw] at hx
          dsimp only at hx
          rw [if_neg (Bool.eq_false_iff.mp hp)] at hx
          exact ⟨fun hb => by rwa [if_pos hb] at hx, fun hb => by rwa [if_neg (Bool.eq_false_iff.mp hb)] at hx⟩
        · rintro v hw hp
          rw [if_neg (Bool.eq_false_iff.mp hhole), if_neg (by simpa using hr), hw] at hx
          dsimp only at hx
          rw [if_pos hp] at hx
          exact ⟨_, hx, wqPush_writes rfl⟩

end Sys2Proof.Machine

/-!
PROOF (R60 to R64, R82, R97, R219): what the slices' accesses leave of memory.
-/
namespace Sys2Proof.Machine

-- One theorem after the other: in parallel they ask for more threads than the host allows.
set_option Elab.async false

/-! ## Which lines the slices hold -/

/-- Which line of which slice an entry of the MSC holds. -/
def MscLine.name (m : MscLine) : Nat × Nat := (m.slice, m.line)

theorem State.mapLines_names {s : State} {f : MscLine → Bool} {g : MscLine → MscLine} (h : ∀ m, (g m).name = m.name) :
    (s.mapLines f g).sl.lines.map MscLine.name = s.sl.lines.map MscLine.name := by
  simp only [State.mapLines, State.setLines, List.map_map]
  refine List.map_congr_left fun m _ => ?_
  simp only [Function.comp]
  split
  · exact h m
  · rfl

/-! ## Own copies (R82) -/

/-- The slices hold the same lines, and every line of which the second state has an own copy has one in the first. -/
structure State.LinesStay (s t : State) : Prop where
  names : t.sl.lines.map MscLine.name = s.sl.lines.map MscLine.name
  owns : ∀ a, t.ownAt a → s.ownAt a

namespace State.LinesStay

theorem trans {s t u : State} (h : s.LinesStay t) (k : t.LinesStay u) : s.LinesStay u := ⟨k.names.trans h.names, fun a ha => h.owns a (k.owns a ha)⟩

theorem of_lines {s t : State} (h : t.sl.lines = s.sl.lines) : s.LinesStay t := ⟨by rw [h], fun a ha => by
  unfold State.ownAt at ha ⊢
  rwa [h] at ha⟩

theorem refl (s : State) : s.LinesStay s := of_lines rfl

theorem foldl {α : Type} {f : State → α → State} (h : ∀ (s : State) a, s.LinesStay (f s a)) (l : List α) (s : State) : s.LinesStay (l.foldl f s) := by
  induction l generalizing s with
  | nil => exact refl s
  | cons a l ih => exact (h s a).trans (ih (f s a))

theorem poisonHome (s : State) (slice line : Nat) (bad : BitVec 8) : s.LinesStay (s.poisonHome slice line bad) := by
  unfold State.poisonHome
  split
  · next d hd =>
    obtain ⟨m, hm, hown⟩ := Option.bind_eq_some_iff.mp hd
    have hline := List.find?_some hm
    rw [Bool.and_eq_true, beq_iff_eq, beq_iff_eq] at hline
    refine ⟨State.mapLines_names fun _ => rfl, ?_⟩
    rintro a ⟨x, hx, hxl, hxo⟩
    obtain ⟨y, hy, rfl⟩ := List.mem_map.mp hx
    by_cases hc : (y.slice == slice && y.line == line) = true
    · rw [if_pos hc] at hxl
      rw [Bool.and_eq_true, beq_iff_eq, beq_iff_eq] at hc
      exact ⟨m, List.mem_of_find?_eq_some hm, hline.2.trans (hc.2.symm.trans hxl), by simp [hown]⟩
    · rw [if_neg hc] at hxl hxo
      exact ⟨y, hy, hxl, hxo⟩
  · exact of_lines rfl

theorem logArray (s : State) (slice : Nat) (e : BitVec 256) : s.LinesStay (s.logArray slice e) := of_lines (by
  unfold State.logArray State.logPush
  dsimp only
  split
  · rfl
  · split
    · simp
    · rfl)

theorem logBus (s : State) (slice a : Nat) (write : Bool) (hits : List Hit) (action grp spare : Nat) :
    s.LinesStay (s.logBus slice a write hits action grp spare) := of_lines (by
  unfold State.logBus State.logPush
  dsimp only
  split
  · simp
  · rfl)

theorem decodeWord (s : State) (slice a mode lid : Nat) (sweep : Bool) (w : Nat) (bs : List Nat) : s.LinesStay (s.decodeWord slice a mode lid sweep w bs) := by
  unfold State.decodeWord
  dsimp only
  split
  · exact refl s
  · split
    · exact logArray s _ _
    · split
      · split
        · exact (logArray s _ _).trans (poisonHome _ _ _ _)
        · exact (logArray s _ _).trans (poisonHome _ _ _ _)
      · exact logArray s _ _

theorem setEcc (s : State) (slice : Nat) (e : SliceEcc) : s.LinesStay (s.setEcc slice e) := of_lines rfl
theorem msi (s : State) (v : Nat) : s.LinesStay (s.msi v) := of_lines (by simp)

theorem decodeLine (s : State) (slice a lid : Nat) (sweep : Bool) : s.LinesStay (s.decodeLine slice a lid sweep) := by
  unfold State.decodeLine
  dsimp only
  split
  · exact refl s
  · exact (setEcc s _ _).trans (foldl (fun t w => decodeWord t _ _ _ _ _ _ _) _ _)

theorem poisonPair (s : State) (slice a : Nat) : s.LinesStay (s.poisonPair slice a) := by
  unfold State.poisonPair
  refine foldl (fun t x => ?_) _ _
  split
  · exact poisonHome _ _ _ _
  · exact refl _

theorem busLimit (s : State) (slice a : Nat) (write : Bool) (hits : List Hit) : s.LinesStay (s.busLimit slice a write hits) := by
  unfold State.busLimit
  dsimp only
  split
  · exact ((setEcc s _ _).trans (logBus _ _ _ _ _ _ _ _)).trans (msi _ _)
  · refine (poisonPair s slice a).trans ?_
    split
    · exact logBus _ _ _ _ _ _ _ _
    · split
      · exact logBus _ _ _ _ _ _ _ _
      · split
        · exact (logBus _ _ _ _ _ _ _ _).trans (of_lines rfl)
        · exact ((setEcc _ _ _).trans (logBus _ _ _ _ _ _ _ _)).trans (msi _ _)

theorem busTransfer (s : State) (slice a : Nat) (write : Bool) : s.LinesStay (s.busTransfer slice a write) := by
  unfold State.busTransfer
  dsimp only
  split
  · exact refl s
  · split
    · exact of_lines rfl
    · split
      · refine trans ?_ (logBus _ _ _ _ _ _ _ _)
        exact of_lines rfl
      · refine trans ?_ (busLimit _ _ _ _ _)
        exact of_lines rfl

theorem arrayRead (s : State) (slice a lid : Nat) : s.LinesStay (s.arrayRead slice a lid) := (decodeLine s slice a lid false).trans (busTransfer _ _ _ _)

theorem tagLine (s : State) (slice a : Nat) : s.LinesStay (s.tagLine slice a) := by
  unfold State.tagLine
  dsimp only
  split <;> exact of_lines rfl

theorem arrayWrites (ls : List (Nat × Nat)) (s : State) : s.LinesStay (s.arrayWrites ls) := by
  unfold State.arrayWrites
  refine foldl (fun t p => ?_) _ _
  split
  · exact (busTransfer _ _ _ _).trans (foldl (fun t y => tagLine t _ _) _ _)
  · exact refl t

theorem writeLine (s : State) (slice line : Nat) : s.LinesStay (s.writeLine slice line) := by
  unfold State.writeLine
  split
  · exact arrayWrites _ _
  · exact refl s

theorem readLine (s : State) (slice line lid : Nat) : s.LinesStay (s.readLine slice line lid) := by
  unfold State.readLine
  split
  · exact arrayRead _ _ _ _
  · exact refl s

end State.LinesStay

/-! ## Atomics that stand at their points -/

/-- No atomic that stands at its point writes the byte. -/
def State.atomsMiss (s : State) (a : Nat) : Prop := ∀ r ∈ s.pipe.atoms, r.writesByte a = false

theorem State.atomsMiss_of_subset {s t : State} {a : Nat} (hs : s.atomsMiss a) (h : ∀ r ∈ t.pipe.atoms, r ∈ s.pipe.atoms) : t.atomsMiss a := fun r hr => hs r (h r hr)

@[simp] theorem State.acquire_atoms (s : State) (b scope : Nat) : (s.acquire b scope).pipe.atoms = s.pipe.atoms := by
  unfold State.acquire
  dsimp only
  by_cases h2 : 2 ≤ scope <;> by_cases h3 : 3 ≤ scope <;> simp [h2, h3, State.l1Flash, State.setL1]

@[simp] theorem State.l1Reply_atoms (s : State) (slice core ctx line : Nat) (fill : Bool) : (s.l1Reply slice core ctx line fill).pipe.atoms = s.pipe.atoms := by
  unfold State.l1Reply
  dsimp only
  repeat' split
  all_goals rfl

@[simp] theorem State.wakeMonitors_atoms (s : State) : s.wakeMonitors.pipe.atoms = s.pipe.atoms := by
  unfold State.wakeMonitors
  dsimp only
  split
  · rfl
  · exact foldl_frame (F := fun t : State => t.pipe.atoms) (fun t u => by simp) _ _

@[simp] theorem State.readMonitors_atoms (s : State) (f : Mon → Bool) (g : Mon → Mon) : (s.readMonitors f g).pipe.atoms = s.pipe.atoms := by
  unfold State.readMonitors
  dsimp only
  split
  · have h := foldl_frame (F := fun t : State => t.pipe.atoms)
      (f := fun t (m : Mon) => t.l1Reply m.slice (t.block m.blk).core (t.ctxOf m.blk) (lineOf m.pa) false) (fun t m => by simp) (s.pipe.mons.filter f) s
    split
    · rw [State.due_pipe, State.wakeMonitors_atoms]
      exact h
    · rw [State.wakeMonitors_atoms]
      exact h
  · rfl

@[simp] theorem State.homeWrite_atoms (s : State) (slice pa : Nat) (bs : List (Nat × Byte)) : (s.homeWrite slice pa bs).pipe.atoms = s.pipe.atoms := by
  unfold State.homeWrite State.monWrite
  dsimp only
  split <;> simp

@[simp] theorem State.mapPend_atoms (s : State) (n : Nat) (f : Pend → Pend) : (s.mapPend n f).pipe.atoms = s.pipe.atoms := rfl
@[simp] theorem State.abufUpdate_atoms (s : State) (cl line : Nat) (bs : List (Nat × Byte)) : (s.abufUpdate cl line bs).pipe.atoms = s.pipe.atoms := rfl
@[simp] theorem State.l1Drop_atoms (s : State) (core line : Nat) : (s.l1Drop core line).pipe.atoms = s.pipe.atoms := rfl

@[simp] theorem State.atomicCopy_atoms (s : State) (r : Req) (op wid lane crew v n pt wt : Nat) (data : List Byte) (bad : BitVec 8) :
    (s.atomicCopy r op wid lane crew v n pt wt data bad).pipe.atoms = s.pipe.atoms := by
  unfold State.atomicCopy
  dsimp only
  repeat' split
  all_goals rfl

@[simp] theorem State.atomicAt_atoms (s : State) (r : Req) (op wid lane crew v n pt wt : Nat) :
    (s.atomicAt r op wid lane crew v n pt wt).pipe.atoms = s.pipe.atoms := by
  unfold State.atomicAt
  dsimp only
  split
  · rw [State.atomicCopy_atoms]
    split
    · rfl
    · simp
  · split
    · simp
    · simp only [State.mapPend_atoms, State.abufUpdate_atoms, State.l1Drop_atoms, State.homeWrite_atoms, State.mscHit_frame]

/-- What an atomic at its point leaves of memory: a byte that it does not write. -/
theorem State.atomicAt_memByte {s : State} {r : Req} {op wid lane crew v n pt wt a : Nat} (hk : r.kind = .atomic op wid lane crew v n pt wt)
    (hw : r.writesByte a = false) : (s.atomicAt r op wid lane crew v n pt wt).memByte a = s.memByte a := by
  by_cases h1 : pt = 1
  · refine State.memByte_congr ?_ a
    rw [State.atomicAt, if_pos h1]
    simp only [State.atomicCopy_frame]
    split <;> simp
  · by_cases h2 : pt = 2
    · refine State.memByte_congr ?_ a
      rw [State.atomicAt, if_neg h1, if_pos h2]
      simp
    · rw [State.memByte_congr (State.atomicAt_mem h1 h2), State.atomHome, State.homeWrite_memByte_ne, State.memByte_congr (by simp : _ = s.mem)]
      intro e he
      have := atOffsets_lt he
      rw [natToBytes_length] at this
      simp [Req.writesByte, hk, h1, h2] at hw
      omega

theorem State.atomAct_atoms (s : State) (r : Req) : ∀ x ∈ (s.atomAct r).pipe.atoms, x ∈ s.pipe.atoms := by
  unfold State.atomAct
  split
  · exact fun x hx => hx
  · dsimp only
    split
    · split
      · exact fun x hx => (List.mem_filter.mp hx).1
      · rw [State.atomicAt_atoms]
        exact fun x hx => (List.mem_filter.mp hx).1
    · exact fun x hx => (List.mem_filter.mp hx).1

theorem State.atomAct_memByte {s : State} {r : Req} {a : Nat} (hw : r.writesByte a = false) : (s.atomAct r).memByte a = s.memByte a := by
  unfold State.atomAct
  split
  · rfl
  · dsimp only
    split
    · next hk =>
      split
      · rfl
      · exact State.atomicAt_memByte hk hw
    · rfl

theorem foldl_atomAct {l : List Req} {a : Nat} (hl : ∀ r ∈ l, r.writesByte a = false) (s : State) :
    (l.foldl State.atomAct s).memByte a = s.memByte a ∧ ∀ x ∈ (l.foldl State.atomAct s).pipe.atoms, x ∈ s.pipe.atoms := by
  induction l generalizing s with
  | nil => exact ⟨rfl, fun x hx => hx⟩
  | cons r l ih =>
    obtain ⟨h1, h2⟩ := ih (fun x hx => hl x (List.mem_cons_of_mem _ hx)) (s.atomAct r)
    exact ⟨h1.trans (State.atomAct_memByte (hl r List.mem_cons_self)), fun x hx => State.atomAct_atoms s r x (h2 x hx)⟩

/-- A write-back of a copy of its own leaves the bytes of other lines. -/
theorem State.backOwn_memByte (s : State) {m : MscLine} {a : Nat} (h : m.own = none ∨ m.line ≠ a / 64) : (s.backOwn m).memByte a = s.memByte a := by
  unfold State.backOwn
  split
  · next d hd =>
    split
    · have hline : m.line ≠ a / 64 := h.resolve_left (by simp [hd])
      rw [State.memByte, State.memByte]
      rcases s.putBehind_cells 8 (64 * m.line) ((List.range 64).zip d.1) d.2 with k | k
      · rw [k]
      · rw [k]
        refine Mem.putAt_ne _ _ _ _ fun e he => ?_
        have := (List.of_mem_zip (show (e.1, e.2) ∈ _ from he)).1
        rw [List.mem_range] at this
        omega
    · rfl
  · rfl

/-- A byte that no atomic at its point writes stays as it is while those that may act. -/
structure State.KeepsByte (a : Nat) (s t : State) : Prop where
  byte : t.memByte a = s.memByte a
  atoms : t.atomsMiss a

namespace State.KeepsByte

variable {a : Nat}

theorem refl {s : State} (h : s.atomsMiss a) : KeepsByte a s s := ⟨rfl, h⟩
theorem trans {s t u : State} (h : KeepsByte a s t) (k : KeepsByte a t u) : KeepsByte a s u := ⟨k.byte.trans h.byte, k.atoms⟩

theorem of_eq {s t : State} (hs : s.atomsMiss a) (hcells : t.mem.cells = s.mem.cells) (hatoms : t.pipe.atoms = s.pipe.atoms) : KeepsByte a s t :=
  ⟨by rw [State.memByte, hcells, State.memByte], fun r hr => hs r (hatoms ▸ hr)⟩

theorem foldl {α : Type} {f : State → α → State} {l : List α} (h : ∀ s : State, s.atomsMiss a → ∀ x ∈ l, KeepsByte a s (f s x)) {s : State} (hs : s.atomsMiss a) :
    KeepsByte a s (l.foldl f s) := by
  induction l generalizing s with
  | nil => exact refl hs
  | cons x l ih =>
    have hx := h s hs x List.mem_cons_self
    exact hx.trans (ih (fun s hs x hx => h s hs x (List.mem_cons_of_mem _ hx)) hx.atoms)

/-- The atomics that an instruction lets act. -/
theorem actFit {t : State} (ht : t.atomsMiss a) : KeepsByte a t ((t.pipe.atoms.filter fun r => r.fit).foldl State.atomAct t) := by
  obtain ⟨h1, h2⟩ := foldl_atomAct (l := t.pipe.atoms.filter fun r => r.fit) (fun r hr => ht r (List.mem_filter.mp hr).1) t
  exact ⟨h1, State.atomsMiss_of_subset ht h2⟩

theorem settleAtoms {s : State} (hs : s.atomsMiss a) (i here : Nat) : KeepsByte a s (s.settleAtoms i here) := by
  unfold State.settleAtoms
  dsimp only
  split
  · exact actFit hs
  · split
    · have hbad : KeepsByte a s ((s.pipe.atoms.filter fun r => r.atomOf i && !r.fit).foldl State.atomBad
          { s with pipe := { s.pipe with atoms := s.pipe.atoms.filter fun r => !((s.pipe.atoms.filter fun r => r.atomOf i && !r.fit).contains r) } }) := by
        refine trans (t := { s with pipe := { s.pipe with atoms := s.pipe.atoms.filter fun r => !((s.pipe.atoms.filter fun r => r.atomOf i && !r.fit).contains r) } })
          ⟨rfl, fun r hr => hs r (List.mem_filter.mp hr).1⟩ (foldl (fun t ht r _ => of_eq ht (by simp) (by simp)) ?_)
        exact fun r hr => hs r (List.mem_filter.mp hr).1
      exact hbad.trans (actFit hbad.atoms)
    · have hmark : KeepsByte a s { s with pipe := { s.pipe with atoms := s.pipe.atoms.map fun r => if r.atomOf i then { r with fit := true } else r } } := by
        refine ⟨rfl, fun r hr => ?_⟩
        obtain ⟨x, hx, rfl⟩ := List.mem_map.mp hr
        split <;> exact hs x hx
      exact hmark.trans (actFit hmark.atoms)

theorem atomHere {s : State} (hs : s.atomsMiss a) {r : Req} (hr : r.writesByte a = false) : KeepsByte a s (s.atomHere r) := by
  have hadd : KeepsByte a s { s with pipe := { s.pipe with atoms := s.pipe.atoms ++ [{ r with there := true }] } } := by
    refine ⟨rfl, fun x hx => ?_⟩
    rcases List.mem_append.mp hx with hx | hx
    · exact hs x hx
    · rw [List.mem_singleton.mp hx]
      exact hr
  exact hadd.trans (settleAtoms hadd.atoms _ _)

theorem homeWrite {s : State} (hs : s.atomsMiss a) (slice pa : Nat) {bs : List (Nat × Byte)} (h : ∀ e ∈ bs, a ≠ pa + e.1) : KeepsByte a s (s.homeWrite slice pa bs) :=
  ⟨State.homeWrite_memByte_ne s slice pa a bs h, fun r hr => hs r (by simpa using hr)⟩

/-- A request performed at its home point. -/
theorem perform {s : State} (hs : s.atomsMiss a) {r : Req} (hr : r.writesByte a = false) : KeepsByte a s (s.perform r) := by
  unfold State.perform
  dsimp only
  split
  · exact of_eq hs (by simp) (by simp [State.sameRead])
  · next id bs hk =>
    have hbs : ∀ e ∈ bs, a ≠ r.pa + e.1 := fun e he hae => by
      rw [Req.writesByte, hk] at hr
      exact List.any_eq_false.mp hr e he (beq_iff_eq.mpr hae.symm)
    refine (homeWrite hs r.slice r.pa hbs).trans (of_eq (homeWrite hs r.slice r.pa hbs).atoms ?_ ?_)
    · split <;> simp
    · split <;> simp
  · exact atomHere hs hr
  · split
    · exact of_eq hs (by simp) (by simp)
    · exact refl hs
  · exact of_eq hs (by simp [State.monitorAt]) (by simp [State.monitorAt])

theorem serveHere {s : State} (hs : s.atomsMiss a) {r : Req} (hr : r.writesByte a = false) : KeepsByte a s (s.serveHere r) := by
  unfold State.serveHere
  dsimp only
  split
  · exact perform hs hr
  · have hread : KeepsByte a s (s.readLine r.slice (lineOf r.pa) (s.reqLaunch r)) := of_eq hs (by simp) (by simp)
    exact hread.trans (perform hread.atoms hr)

/-- A write-back of a copy of its own, of another line. -/
theorem backOwn {s : State} (hs : s.atomsMiss a) {m : MscLine} (h : m.own = none ∨ m.line ≠ a / 64) : KeepsByte a s (s.backOwn m) :=
  ⟨State.backOwn_memByte s h, fun r hr => hs r (by simpa using hr)⟩

end State.KeepsByte

/-! ## Fills and write-backs -/

theorem mem_insertBy {α : Type} {f : α → Nat} {a x : α} {l : List α} : x ∈ insertBy f a l ↔ x = a ∨ x ∈ l := by
  induction l with
  | nil => simp [insertBy]
  | cons b t ih =>
    rw [insertBy]
    split
    · exact List.mem_cons
    · rw [List.mem_cons, ih, List.mem_cons]
      exact or_left_comm

theorem mem_sortBy {α : Type} {f : α → Nat} {x : α} {l : List α} : x ∈ sortBy f l ↔ x ∈ l := by
  suffices h : ∀ acc : List α, x ∈ l.foldl (fun acc a => insertBy f a acc) acc ↔ x ∈ acc ∨ x ∈ l by
    rw [sortBy, h []]
    simp
  induction l with
  | nil => simp
  | cons b l ih =>
    intro acc
    rw [List.foldl_cons, ih, mem_insertBy, List.mem_cons]
    exact or_assoc.trans or_left_comm

theorem State.victim_mem {s : State} {slice set tenant way : Nat} {m : MscLine} (h : s.victim slice set tenant = some (way, some m)) : m ∈ s.sl.lines := by
  unfold State.victim at h
  dsimp only at h
  split at h
  · cases h
  · split at h
    · next x hx =>
      cases h
      simp only [Option.orElse_eq_or, Option.or_eq_some_iff] at hx
      have hpick : ∀ {l : List MscLine} {p q r : MscLine → Bool}, (sortBy (·.used) (((l.filter p).filter q).filter r)).head? = some m → m ∈ l := fun hm =>
        (List.mem_filter.mp (List.mem_filter.mp (List.mem_filter.mp (mem_sortBy.mp (List.mem_of_head? hm))).1).1).1
      obtain h1 | ⟨-, h1 | ⟨-, h1⟩⟩ := hx <;> exact hpick h1
    · cases h

theorem State.mscFillLine_keepsByte {s t : State} {a slice line loc tenant cls : Nat} {dirty : Bool} (hs : s.atomsMiss a) (ho : ¬s.ownAt a)
    (h : s.mscFillLine slice line loc tenant cls dirty = some t) : State.KeepsByte a s t := by
  unfold State.mscFillLine at h
  dsimp only at h
  split at h
  · cases h
    exact .refl hs
  · split at h
    · cases h
      exact .refl hs
    · next way old hv =>
      split at h
      · cases h
        exact .of_eq hs rfl rfl
      · next m =>
        split at h
        · cases h
        · cases h
          have hm : m.own = none ∨ m.line ≠ a / 64 :=
            Classical.or_iff_not_imp_left.mpr fun hown hline => ho ⟨m, State.victim_mem hv, hline, hown⟩
          have hput : ∀ ls, State.KeepsByte a s ((s.setLines ls).backOwn m) := fun ls =>
            (State.KeepsByte.of_eq (t := s.setLines ls) hs rfl rfl).trans (.backOwn (s := s.setLines ls) hs hm)
          split
          · exact (hput _).trans (.of_eq (hput _).atoms rfl rfl)
          · exact hput _

theorem State.fillMsc_keepsByte {s t : State} {a slice line loc tenant cls lid : Nat} {u : LineUse} (hs : s.atomsMiss a) (ho : ¬s.ownAt a)
    (h : s.fillMsc slice line loc tenant cls lid u = some t) : State.KeepsByte a s t := by
  unfold State.fillMsc at h
  dsimp only at h
  generalize (if u == LineUse.whole then [] else stackTrip slice line (flitsOf false 64)) = trip at h
  split at h
  · cases h
  · obtain ⟨v, hv, rfl⟩ := Option.map_eq_some_iff.mp h
    have hfill : State.KeepsByte a s v := by
      split at hv
      · split at hv
        · have hread : ∀ w, State.KeepsByte a s (s.arrayRead slice w 0) := fun w => .of_eq hs (by simp) (by simp)
          exact (hread _).trans (State.mscFillLine_keepsByte (hread _).atoms (fun h => ho ((State.LinesStay.arrayRead _ _ _ _).owns _ h)) hv)
        · exact State.mscFillLine_keepsByte hs ho hv
      · exact State.mscFillLine_keepsByte hs ho hv
    refine hfill.trans ?_
    split
    · exact .of_eq hfill.atoms (by simp) (by simp)
    · split
      · exact .of_eq hfill.atoms (by simp) (by simp)
      · exact .of_eq hfill.atoms (by simp) (by simp)

theorem State.mscFillLine_regs {s t : State} {slice line loc tenant cls : Nat} {dirty : Bool} (h : s.mscFillLine slice line loc tenant cls dirty = some t) :
    t.regs = s.regs ∧ t.pipe = s.pipe := by
  unfold State.mscFillLine at h
  dsimp only at h
  repeat' split at h
  all_goals cases h
  all_goals simp [State.setLines]

theorem State.fillMsc_regs {s t : State} {slice line loc tenant cls lid : Nat} {u : LineUse} (h : s.fillMsc slice line loc tenant cls lid u = some t) :
    t.regs = s.regs ∧ t.pipe = s.pipe := by
  unfold State.fillMsc at h
  dsimp only at h
  generalize (if u == LineUse.whole then [] else stackTrip slice line (flitsOf false 64)) = trip at h
  split at h
  · cases h
  · obtain ⟨v, hv, rfl⟩ := Option.map_eq_some_iff.mp h
    have hfill : v.regs = s.regs ∧ v.pipe = s.pipe := by
      repeat' split at hv
      all_goals simpa using State.mscFillLine_regs hv
    repeat' split
    all_goals simpa using hfill

/-- A line of which no own copy exists is another line than that of an own copy. -/
theorem State.own_or_line {s : State} {a : Nat} (ho : ¬s.ownAt a) {m : MscLine} (hm : m ∈ s.sl.lines) : m.own = none ∨ m.line ≠ a / 64 :=
  Classical.or_iff_not_imp_left.mpr fun hown hline => ho ⟨m, hm, hline, hown⟩

/-! ## Requests at a slice -/

@[simp] theorem State.joinFill_atoms (s : State) (r : Req) : (s.joinFill r).pipe.atoms = s.pipe.atoms := by
  unfold State.joinFill
  dsimp only
  split <;> rfl

/-- What serving a request leaves as it is: the registers, and a byte that it and the atomics at their points do not write. -/
theorem State.serveReq_keeps {s t : State} {r : Req} (h : s.serveReq r = some t) : t.regs = s.regs ∧
    ∀ a, s.atomsMiss a → r.writesByte a = false → ¬s.ownAt a → State.KeepsByte a s t := by
  unfold State.serveReq at h
  dsimp only at h
  split at h
  · cases h
  · cases h
    exact ⟨by simp, fun a hs hr _ => .serveHere hs hr⟩
  · split at h
    · split at h <;> cases h
      exact ⟨by simp, fun a hs hr _ => .perform hs hr⟩
    · split at h
      · cases h
        exact ⟨by simp, fun a hs hr _ => .of_eq hs (by simp) (by simp)⟩
      · split at h
        · cases h
          refine ⟨by simp, fun a hs hr _ => ?_⟩
          have hhit : KeepsByte a s (s.mscHit r.slice (lineOf r.pa) r.kind.isWrite) := .of_eq hs (by simp) (by simp)
          exact hhit.trans (.serveHere hhit.atoms hr)
        · split at h
          · cases h
            split
            · refine ⟨by simp, fun a hs hr _ => .perform hs ?_⟩
              simp [Req.writesByte]
            · exact ⟨by simp, fun a hs hr _ => .perform hs hr⟩
          · split at h
            · split at h <;> cases h
              refine ⟨by simp, fun a hs hr _ => ?_⟩
              have hcross : KeepsByte a s (s.crossAll (stackTrip r.slice (lineOf r.pa) (flitsOf r.kind.isWrite 64))) := .of_eq hs (by simp) (by simp)
              exact hcross.trans (.perform hcross.atoms hr)
            · split at h
              · split at h
                · cases h
                  exact ⟨by simp, fun a hs hr _ => .perform hs hr⟩
                · split at h
                  · obtain ⟨v, hv, rfl⟩ := Option.map_eq_some_iff.mp h
                    refine ⟨by simp [State.fillMsc_regs hv], fun a hs hr ho => ?_⟩
                    have hfill := State.fillMsc_keepsByte hs ho hv
                    exact hfill.trans (.perform hfill.atoms hr)
                  · cases h
                    exact ⟨by simp, fun a hs hr _ => .of_eq hs (by simp) (by simp)⟩
              · cases h
                exact ⟨by simp, fun a hs hr _ => .of_eq hs (by simp) (by simp)⟩

theorem State.serveFirst_some {s u : State} {before l : List Req} {r : Req} (h : s.serveFirst before l = some (r, u)) : s.serveReq r = some u := by
  induction l generalizing before with
  | nil => cases h
  | cons x l ih =>
    rw [State.serveFirst] at h
    split at h
    · next hx =>
      cases h
      split at hx
      · cases hx
      · exact hx
    · exact ih h

/-- What serving the requests behind a fill leaves as it is. -/
theorem State.serveBehind_keeps (n slice line : Nat) (l : List Req) (s : State) : (State.serveBehind n slice line l s).regs = s.regs ∧
    ∀ a, s.atomsMiss a → (∀ r ∈ l, r.writesByte a = false) → State.KeepsByte a s (State.serveBehind n slice line l s) := by
  induction l generalizing s with
  | nil => exact ⟨rfl, fun a hs _ => .of_eq hs rfl rfl⟩
  | cons r l ih =>
    rw [State.serveBehind]
    split
    · exact ⟨rfl, fun a hs _ => .of_eq hs rfl rfl⟩
    · dsimp only
      split
      · refine ⟨by rw [(ih _).1]; simp, fun a hs hl => ?_⟩
        have hhit := KeepsByte.of_eq (s := s) (t := State.mscHit { s with pipe := { s.pipe with fills := s.pipe.fills.map fun (f : Fill) => if f.id == n then { f with reqs := l } else f } }
          slice line true) hs (by simp) (by simp)
        have hperf := hhit.trans (.perform hhit.atoms (hl r List.mem_cons_self))
        exact hperf.trans ((ih _).2 a hperf.atoms fun x hx => hl x (List.mem_cons_of_mem _ hx))
      · refine ⟨by rw [(ih _).1]; simp, fun a hs hl => ?_⟩
        have hleft := KeepsByte.of_eq (s := s) (t := { s with pipe := { s.pipe with fills := s.pipe.fills.map fun (f : Fill) => if f.id == n then { f with reqs := l } else f } })
          hs rfl rfl
        have hperf := hleft.trans (.perform hleft.atoms (hl r List.mem_cons_self))
        exact hperf.trans ((ih _).2 a hperf.atoms fun x hx => hl x (List.mem_cons_of_mem _ hx))

/-! ## Lines written back (R82) -/

theorem State.putBehind_names (s : State) (unit pa : Nat) (bs : List (Nat × Byte)) (bad : BitVec 8) :
    (s.putBehind unit pa bs bad).sl.lines.map MscLine.name = s.sl.lines.map MscLine.name := by
  unfold State.putBehind
  dsimp only
  split
  · split
    · exact State.mapLines_names fun _ => rfl
    · exact State.mapLines_names (f := fun x => x.shares (pa / 64)) fun _ => rfl
  · rfl

theorem State.backOwn_names (s : State) (m : MscLine) : (s.backOwn m).sl.lines.map MscLine.name = s.sl.lines.map MscLine.name := by
  unfold State.backOwn
  split
  · split
    · exact State.putBehind_names _ _ _ _ _
    · rfl
  · rfl

theorem State.homePut_names (s : State) (slice pa : Nat) (bs : List (Nat × Byte)) :
    (s.homePut slice pa bs).sl.lines.map MscLine.name = s.sl.lines.map MscLine.name := by
  unfold State.homePut
  dsimp only
  split
  · exact State.putBehind_names _ _ _ _ _
  · split
    · rfl
    · split
      · exact State.mapLines_names fun _ => rfl
      · exact (State.putBehind_names _ _ _ _ _).trans (State.mapLines_names fun _ => rfl)

/-- A write at a home takes no line into the slices, and drops none. -/
theorem State.homeWrite_names (s : State) (slice pa : Nat) (bs : List (Nat × Byte)) :
    (s.homeWrite slice pa bs).sl.lines.map MscLine.name = s.sl.lines.map MscLine.name := by
  unfold State.homeWrite State.monWrite
  dsimp only
  have hwrite := (LinesStay.writeLine (s.homePut slice pa bs) slice (lineOf pa)).names.trans (s.homePut_names slice pa bs)
  split
  · exact hwrite
  · rw [(State.readMonitors_frame _ _ _).2.2.2.1]
    exact (LinesStay.readLine _ _ _ _).names.trans hwrite

/-- What writing lines back and dropping them leaves: none of them, and every byte of which no home has a copy of its own. -/
theorem State.flushLines_some {s t : State} {f : MscLine → Bool} (h : s.flushLines f = some t) :
    (∀ n ∈ t.sl.lines.map MscLine.name, ∃ m : MscLine, m.name = n ∧ f m = false) ∧ ∀ a, ¬s.ownAt a → t.memByte a = s.memByte a := by
  unfold State.flushLines at h
  dsimp only at h
  split at h
  · cases h
  · cases h
    generalize hv : (s.sl.lines.filter fun m => f m && m.dirty).foldl (fun (t : State) m => t.arrayRead m.slice (t.wayLine m.slice m.set m.way) 0) _ = v
    have hcells : v.mem.cells = s.mem.cells := by
      rw [← hv, foldl_frame (F := fun t : State => t.mem.cells) (fun t m => by simp)]
      simp
    constructor
    · intro n hn
      rw [foldl_frame (F := fun t : State => t.sl.lines.map MscLine.name) (fun t m => State.backOwn_names t m)] at hn
      obtain ⟨m, hm, rfl⟩ := List.mem_map.mp hn
      exact ⟨m, rfl, by simpa using (List.mem_filter.mp hm).2⟩
    · intro a ho
      have hback : ∀ (l : List MscLine) (u : State), (∀ m ∈ l, m ∈ s.sl.lines) → (l.foldl State.backOwn u).memByte a = u.memByte a := by
        intro l
        induction l with
        | nil => exact fun u _ => rfl
        | cons m l ih => exact fun u hl => (ih _ fun x hx => hl x (List.mem_cons_of_mem _ hx)).trans (State.backOwn_memByte u (State.own_or_line ho (hl m List.mem_cons_self)))
      rw [hback _ _ fun m hm => (List.mem_filter.mp hm).1, State.memByte, State.memByte, ← hcells]
      rfl

end Sys2Proof.Machine

/-!
PROOF (StoreEventsComplete: R60 to R64, R72, R77, R79, R82, R322 to R325).
-/
namespace Sys2Proof.Machine

-- One theorem after the other: in parallel they ask for more threads than the host allows.
set_option Elab.async false

theorem execSliceServe_keeps {n : Nat} {s u : State} {r : Req} (h : s.serveFirst [] (s.queueOf n) = some (r, u)) :
    ∃ t, Next (exec (.sliceServe n) s) t ∧ t.regs = s.regs ∧ (t.pipe.reqs.all fun x => x.id != r.id) = true ∧
      ∀ a, (∀ x ∈ r :: s.pipe.atoms, x.writesByte a = false) → ¬ s.ownAt a → t.memByte a = s.memByte a := by
  obtain ⟨hregs, hkeep⟩ := State.serveReq_keeps (State.serveFirst_some h)
  rw [show exec (.sliceServe n) s = execSliceServe n s from rfl, execSliceServe, h]
  refine ⟨_, rfl, by simpa using hregs, ?_, fun a ha ho => ?_⟩
  · rw [List.all_eq_true]
    exact fun x hx => (List.mem_filter.mp hx).2
  · have hb := (hkeep a (fun x hx => ha x (List.mem_cons_of_mem _ hx)) (ha r List.mem_cons_self) ho).byte
    rw [← hb]
    exact State.memByte_congr (by simp) a

theorem execMscFill_keeps {n : Nat} {s t : State} {f : Fill} (hf : (s.pipe.fills.find? fun f => f.id == n) = some f)
    (h : s.fillMsc f.slice f.line f.loc f.tenant f.cls ((f.reqs.head?.map s.reqLaunch).getD 0) .read = some t) :
    ∃ u, Next (exec (.mscFill n) s) u ∧ u.regs = s.regs ∧
      ∀ a, (∀ r ∈ f.reqs ++ s.pipe.atoms, r.writesByte a = false) → ¬ s.ownAt a → u.memByte a = s.memByte a := by
  rw [show exec (.mscFill n) s = execMscFill n s from rfl, execMscFill, hf]
  dsimp only
  rw [h]
  obtain ⟨hregs, hkeep⟩ := State.serveBehind_keeps n f.slice f.line f.reqs t
  refine ⟨_, rfl, hregs.trans (State.fillMsc_regs h).1, fun a ha ho => ?_⟩
  have hfill := State.fillMsc_keepsByte (fun r hr => ha r (List.mem_append_right _ hr)) ho h
  exact (hfill.trans (hkeep a hfill.atoms fun r hr => ha r (List.mem_append_left _ hr))).byte

theorem execMaskApply_sets {n : Nat} {s : State} {e : Nat × Nat × BitVec 16 × Nat} (h : (s.sl.maskNext.find? fun e => e.1 == n) = some e) :
    ∃ t, Next (exec (.maskApply n) s) t ∧ t.wayMask n e.2.1 = e.2.2.1 ∧ t.mem = s.mem ∧
      (∀ x, x < 16 → e.2.1 < 16 → x ≠ e.2.1 → t.wayMask n x = s.wayMask n x) ∧ t.sl.maskNext = s.sl.maskNext.erase e := by
  rw [show exec (.maskApply n) s = execMaskApply n s from rfl, execMaskApply, h]
  refine ⟨_, rfl, mget_mput_self _ _ _ _, rfl, fun x _ _ hne => mget_mput_ne _ _ _ ?_, rfl⟩
  omega

theorem execHmapTakeEffect_sets {n : Nat} {s t : State} {e : Nat × BitVec 16} {f : MscLine → Bool} (h : (s.sl.hmapNext.find? fun e => e.1 == n) = some e)
    (hf : f = fun m => (paRegion (m.line * 64) == .hbm || paRegion (m.line * 64) == .pin) && hmapRegion (m.line * 64) == n) (ht : s.flushLines f = some t) :
    ∃ t, Next (exec (.hmapTakeEffect n) s) t ∧ mget 0 t.sl.hmap n = e.2 ∧ (∀ m ∈ t.sl.lines, f m = false) ∧
      ∀ a, ¬ s.ownAt a → t.memByte a = s.memByte a := by
  obtain ⟨hlines, hbytes⟩ := State.flushLines_some ht
  rw [show exec (.hmapTakeEffect n) s = execHmapTakeEffect n s from rfl, execHmapTakeEffect, h]
  dsimp only
  rw [← hf, ht]
  refine ⟨_, rfl, mget_mput_self _ _ _ _, fun m hm => ?_, fun a ho => hbytes a ho⟩
  obtain ⟨x, hx, hfx⟩ := hlines m.name (List.mem_map_of_mem hm)
  simp only [hf] at hfx ⊢
  rwa [(Prod.mk.inj hx).2] at hfx

/-- Settles O41: what a slice, a fill and a write-back leave of memory is the frame of each of their parts; the other events are their own next states. -/
theorem storeEventsComplete : Obligations.StoreEventsComplete := by
  unfold Obligations.StoreEventsComplete
  intro n v s
  refine ⟨fun r u h => execSliceServe_keeps h, fun f t hf h => execMscFill_keeps hf h, ?_, ?_, fun e h => execMaskApply_sets h, ?_, ?_, ?_, ?_⟩
  · rintro i e hi he _ rfl
    have hx : exec (.writebackSend n) s = execWritebackSend n s := rfl
    rw [hx, execWritebackSend, hi]
    dsimp only
    rw [he]
    constructor
    · intro hp
      exact if_pos hp
    · rintro hp _ rfl
      exact if_neg (Bool.eq_false_iff.mp hp)
  · intro i hi
    change execWritebackFree n s = _
    rw [execWritebackFree, hi]
  · intro hb hn hv
    change execHmapWrite n v s = _
    rw [execHmapWrite, if_neg]
    simp only [Bool.or_eq_true, decide_eq_true_eq]
    rintro ((h | h) | h)
    · omega
    · omega
    · exact hv h
  · intro e f h hf
    refine ⟨fun hno => ?_, fun hsome => ?_⟩
    · change execHmapTakeEffect n s = _
      rw [execHmapTakeEffect, h]
      dsimp only
      rw [← hf, hno]
    · obtain ⟨t, ht⟩ := Option.ne_none_iff_exists'.mp hsome
      exact execHmapTakeEffect_sets h hf ht
  · intro w hw hwalk
    have hx : exec (.walkLevelRead n) s = execWalkLevelRead n s := rfl
    rw [hx, execWalkLevelRead, hw]
    dsimp only
    rw [if_neg (by simp only [hwalk]; decide)]
    constructor
    · intro htab
      exact if_pos (by rw [htab]; rfl)
    · rintro va rfl htab v rfl
      rw [if_neg (by simp only [htab]; decide)]
      constructor
      · intro ht
        rw [ht]
      · intro t ht
        rw [ht]
        dsimp only
        exact ⟨fun x hr => by rw [hr], fun hr => by rw [hr], fun p hr => by rw [hr]⟩
  · rintro l rfl
    refine ⟨rfl, fun hw hwide hr => ?_, fun w hr => ?_⟩
    · change execLinkWiden n s = _
      rw [execLinkWiden]
      exact if_pos (by simp [hw, hwide, hr])
    · change execLinkRenegotiationEnd n s = _
      rw [execLinkRenegotiationEnd, hr]

end Sys2Proof.Machine

/-!
PROOF (PinEventsComplete: R64, R69 to R73, R76, R226).
-/
namespace Sys2Proof.Machine

-- One theorem after the other: in parallel they ask for more threads than the host allows.
set_option Elab.async false

/-! ## Array accesses leave the pins and the partition -/

theorem foldl_pins {α : Type} {f : State → α → State} (h : ∀ s a, (f s a).sl.pins = s.sl.pins ∧ (f s a).sl.kinds = s.sl.kinds) (l : List α) (s : State) :
    (l.foldl f s).sl.pins = s.sl.pins ∧ (l.foldl f s).sl.kinds = s.sl.kinds :=
  ⟨foldl_frame (F := fun t : State => t.sl.pins) (fun s a => (h s a).1) l s, foldl_frame (F := fun t : State => t.sl.kinds) (fun s a => (h s a).2) l s⟩

@[simp] theorem State.crossAll_pins (s : State) (ls : List (Nat × Nat)) : (s.crossAll ls).sl.pins = s.sl.pins ∧ (s.crossAll ls).sl.kinds = s.sl.kinds := by
  unfold State.crossAll
  exact foldl_pins (fun t e => by simp [State.cross, State.setLink]) _ _

@[simp] theorem State.poisonHome_pins (s : State) (slice line : Nat) (bad : BitVec 8) :
    (s.poisonHome slice line bad).sl.pins = s.sl.pins ∧ (s.poisonHome slice line bad).sl.kinds = s.sl.kinds := by
  unfold State.poisonHome
  split <;> exact ⟨rfl, rfl⟩

@[simp] theorem State.msi_pins (s : State) (v : Nat) : (s.msi v).sl.pins = s.sl.pins ∧ (s.msi v).sl.kinds = s.sl.kinds := by
  simp

@[simp] theorem State.logPush_pins (s : State) (key cap : Nat) (e : BitVec 256) :
    (s.logPush key cap e).sl.pins = s.sl.pins ∧ (s.logPush key cap e).sl.kinds = s.sl.kinds := by
  unfold State.logPush
  dsimp only
  split <;> simp

@[simp] theorem State.logArray_pins (s : State) (slice : Nat) (e : BitVec 256) :
    (s.logArray slice e).sl.pins = s.sl.pins ∧ (s.logArray slice e).sl.kinds = s.sl.kinds := by
  unfold State.logArray
  dsimp only
  split <;> simp

@[simp] theorem State.logBus_pins (s : State) (slice a : Nat) (write : Bool) (hits : List Hit) (action grp spare : Nat) :
    (s.logBus slice a write hits action grp spare).sl.pins = s.sl.pins ∧ (s.logBus slice a write hits action grp spare).sl.kinds = s.sl.kinds := by
  simp [State.logBus]

@[simp] theorem State.setEcc_pins (s : State) (slice : Nat) (e : SliceEcc) : (s.setEcc slice e).sl.pins = s.sl.pins ∧ (s.setEcc slice e).sl.kinds = s.sl.kinds :=
  ⟨rfl, rfl⟩

@[simp] theorem State.poisonLine_pins (s : State) (slice line w n : Nat) :
    (s.poisonLine slice line w n).sl.pins = s.sl.pins ∧ (s.poisonLine slice line w n).sl.kinds = s.sl.kinds := by
  simp [State.poisonLine]

@[simp] theorem State.rowError_pins (s : State) (row : Nat) (corrected : Bool) :
    (s.rowError row corrected).sl.pins = s.sl.pins ∧ (s.rowError row corrected).sl.kinds = s.sl.kinds := ⟨rfl, rfl⟩

@[simp] theorem State.tagLine_pins (s : State) (slice a : Nat) : (s.tagLine slice a).sl.pins = s.sl.pins ∧ (s.tagLine slice a).sl.kinds = s.sl.kinds := by
  unfold State.tagLine
  dsimp only
  split <;> exact ⟨rfl, rfl⟩

@[simp] theorem State.decodeWord_pins (s : State) (slice a mode lid : Nat) (sweep : Bool) (w : Nat) (bs : List Nat) :
    (s.decodeWord slice a mode lid sweep w bs).sl.pins = s.sl.pins ∧ (s.decodeWord slice a mode lid sweep w bs).sl.kinds = s.sl.kinds := by
  unfold State.decodeWord
  dsimp only
  (repeat' split) <;> simp

@[simp] theorem State.decodeLine_pins (s : State) (slice a lid : Nat) (sweep : Bool) :
    (s.decodeLine slice a lid sweep).sl.pins = s.sl.pins ∧ (s.decodeLine slice a lid sweep).sl.kinds = s.sl.kinds := by
  unfold State.decodeLine
  dsimp only
  split
  · exact ⟨rfl, rfl⟩
  · exact foldl_pins (fun t w => by simp) _ _

@[simp] theorem State.poisonPair_pins (s : State) (slice a : Nat) : (s.poisonPair slice a).sl.pins = s.sl.pins ∧ (s.poisonPair slice a).sl.kinds = s.sl.kinds := by
  unfold State.poisonPair
  exact foldl_pins (fun t w => by split <;> simp) _ _

@[simp] theorem State.busLimit_pins (s : State) (slice a : Nat) (write : Bool) (hits : List Hit) :
    (s.busLimit slice a write hits).sl.pins = s.sl.pins ∧ (s.busLimit slice a write hits).sl.kinds = s.sl.kinds := by
  unfold State.busLimit
  dsimp only
  (repeat' split) <;> simp

@[simp] theorem State.busTransfer_pins (s : State) (slice a : Nat) (write : Bool) :
    (s.busTransfer slice a write).sl.pins = s.sl.pins ∧ (s.busTransfer slice a write).sl.kinds = s.sl.kinds := by
  unfold State.busTransfer
  dsimp only
  (repeat' split) <;> simp

@[simp] theorem State.arrayRead_pins (s : State) (slice a lid : Nat) : (s.arrayRead slice a lid).sl.pins = s.sl.pins ∧ (s.arrayRead slice a lid).sl.kinds = s.sl.kinds := by
  simp [State.arrayRead]

@[simp] theorem State.arrayWrites_pins (ls : List (Nat × Nat)) (s : State) : (s.arrayWrites ls).sl.pins = s.sl.pins ∧ (s.arrayWrites ls).sl.kinds = s.sl.kinds := by
  unfold State.arrayWrites
  refine foldl_pins (fun t p => ?_) _ _
  split
  · obtain ⟨h1, h2⟩ := foldl_pins (f := fun (t : State) (y : Nat × Nat) => t.tagLine y.1 y.2) (fun t y => by simp) _ (t.busTransfer _ _ true)
    exact ⟨h1.trans (State.busTransfer_pins _ _ _ _).1, h2.trans (State.busTransfer_pins _ _ _ _).2⟩
  · exact ⟨rfl, rfl⟩

@[simp] theorem State.hbmFill_pins (s : State) (slice a line lid : Nat) :
    (s.hbmFill slice a line lid).sl.pins = s.sl.pins ∧ (s.hbmFill slice a line lid).sl.kinds = s.sl.kinds := by
  unfold State.hbmFill
  dsimp only
  constructor
  · refine (foldl_pins (fun t h => ?_) _ _).1.trans ?_
    · (repeat' split) <;> simp
    · split <;> rfl
  · refine (foldl_pins (fun t h => ?_) _ _).2.trans ?_
    · (repeat' split) <;> simp
    · split <;> rfl

@[simp] theorem State.putBehind_pins (s : State) (unit pa : Nat) (bs : List (Nat × Byte)) (bad : BitVec 8) :
    (s.putBehind unit pa bs bad).sl.pins = s.sl.pins ∧ (s.putBehind unit pa bs bad).sl.kinds = s.sl.kinds := by
  unfold State.putBehind
  dsimp only
  (repeat' split) <;> exact ⟨rfl, rfl⟩

@[simp] theorem State.backOwn_pins (s : State) (m : MscLine) : (s.backOwn m).sl.pins = s.sl.pins ∧ (s.backOwn m).sl.kinds = s.sl.kinds := by
  unfold State.backOwn
  (repeat' split) <;> simp

theorem State.flushLines_kinds {s t : State} {f : MscLine → Bool} (h : s.flushLines f = some t) : t.sl.kinds = s.sl.kinds := by
  unfold State.flushLines at h
  dsimp only at h
  split at h
  · cases h
  · cases h
    rw [foldl_frame (F := fun t : State => t.sl.kinds) (fun t m => by simp)]
    exact (foldl_frame (F := fun t : State => t.sl.kinds) (fun t m => by simp) _ _).trans (State.crossAll_pins _ _).2

/-! ## A discarded pin's bytes (R71) -/

theorem mget_foldl_mput {α : Type} [DecidableEq α] (d v : α) (f : Nat → Nat) (l : List Nat) (m : SMap α) (k : Nat) :
    mget d (l.foldl (fun m i => mput d m (f i) v) m) k = if k ∈ l.map f then v else mget d m k := by
  induction l generalizing m with
  | nil => simp
  | cons i l ih =>
    rw [List.foldl_cons, ih, mget_mput]
    by_cases h : k ∈ l.map f
    · rw [if_pos h, if_pos (by rw [List.map_cons]; exact List.mem_cons_of_mem _ h)]
    · simp only [List.map_cons, List.mem_cons, h, or_false, if_false]

theorem Mem.erase_cells (m : Mem) (lines : List Nat) (a : Nat) : mget memDefault (m.erase lines).cells a = if a / 64 ∈ lines then memDefault else mget memDefault m.cells a := by
  unfold Mem.erase
  dsimp only
  generalize m.cells = c
  induction lines generalizing c with
  | nil => simp
  | cons x l ih =>
    rw [List.foldl_cons, ih, mget_foldl_mput]
    have hx : a ∈ (List.range 64).map (fun i => 64 * x + i) ↔ a / 64 = x := by
      rw [List.mem_map]
      constructor
      · rintro ⟨i, hi, rfl⟩
        rw [List.mem_range] at hi
        omega
      · rintro rfl
        exact ⟨a % 64, List.mem_range.mpr (Nat.mod_lt _ (by decide)), by omega⟩
    by_cases h1 : a / 64 ∈ l <;> by_cases h2 : a / 64 = x <;> simp [h1, h2, hx, -List.mem_map]

/-! ## The obligation -/

@[simp] theorem State.mapPin_frame (s : State) (id : Nat) (f : Pin → Pin) : (s.mapPin id f).mem = s.mem ∧ (s.mapPin id f).regs = s.regs := ⟨rfl, rfl⟩

@[simp] theorem State.pinEnded_mem (s : State) (p : Nat) : (s.pinEnded p).mem = s.mem := by
  unfold State.pinEnded
  dsimp only
  (repeat' split) <;> rfl

theorem execPinLineCopy_copies {n sl line : Nat} {s : State} {x : Pin} (hx : (s.sl.pins.find? fun x => x.id == n) = some x) (h0 : x.state = 0)
    (hl : x.nextLine sl = some line) (hp : s.pathHolds (stackTrip sl line (flitsOf false 64)) = false) :
    ∃ t, Next (exec (.pinLineCopy n sl) s) t ∧ t.mem.cells = s.mem.cells ∧
      t.sl.pins = s.sl.pins.map fun p => if (p.id == n) = true then
        (if (x.doLine line).allDone = true then { x.doLine line with state := 1 } else x.doLine line) else p := by
  rw [show exec (.pinLineCopy n sl) s = execPinLineCopy n sl s from rfl, execPinLineCopy, hx]
  dsimp only
  rw [if_pos h0, hl]
  dsimp only
  rw [if_neg (Bool.eq_false_iff.mp hp)]
  refine ⟨_, rfl, ?_, ?_⟩
  · split <;> simp
  · split <;> simp [State.mapPin]

theorem execPinLineWriteback_sends {n sl line : Nat} {s : State} {x : Pin} (hx : (s.sl.pins.find? fun x => x.id == n) = some x) (h2 : x.state = 2)
    (hs : sl ∈ x.started) (hl : x.nextLine sl = some line) (hp : s.pathHolds (stackTrip sl line (flitsOf true 64)) = false) :
    ∃ t, Next (exec (.pinLineWriteback n sl) s) t ∧
      (t.sl.pins = s.sl.pins.map fun p => if (p.id == n) = true then { p with sending := p.sending ++ [line] } else p) ∧ t.mem.cells = s.mem.cells := by
  rw [show exec (.pinLineWriteback n sl) s = execPinLineWriteback n sl s from rfl, execPinLineWriteback, hx]
  dsimp only
  rw [if_pos (by simp [h2, hs]), hl]
  dsimp only
  rw [if_neg (Bool.eq_false_iff.mp hp)]
  refine ⟨_, rfl, ?_, ?_⟩
  · split <;> simp [State.mapPin]
  · split <;> simp

/-- A pin whose drain may start at a slice is found by the event, and none of its guards holds. -/
theorem drainGuard_false {x : Pin} {sl : Nat} (he : x.ending = true) (h0 : x.state ≠ 0) (h3 : x.state ≠ 3) (hs : sl ∉ x.started) :
    ¬(!x.ending || x.state = 0 || x.state = 3 || x.started.contains sl) = true := by
  simp [he, h0, h3, hs]

/-- The lines of a draining pin at a slice. -/
theorem mem_drainLines {x : Pin} {sl line : Nat} :
    line ∈ (((if x.state = 1 then x.lines.map fun l => (l.1, l.2.1, false) else x.lines).filter fun l => l.2.1 == sl).map fun l => l.1) ↔
      ∃ l ∈ x.lines, l.2.1 = sl ∧ l.1 = line := by
  rw [List.mem_map]
  split
  · constructor
    · rintro ⟨_, hl, rfl⟩
      obtain ⟨hl, hsl⟩ := List.mem_filter.mp hl
      obtain ⟨m, hm, rfl⟩ := List.mem_map.mp hl
      exact ⟨m, hm, eq_of_beq hsl, rfl⟩
    · rintro ⟨m, hm, hsl, rfl⟩
      exact ⟨_, List.mem_filter.mpr ⟨List.mem_map_of_mem hm, beq_iff_eq.mpr hsl⟩, rfl⟩
  · constructor
    · rintro ⟨m, hl, rfl⟩
      obtain ⟨hm, hsl⟩ := List.mem_filter.mp hl
      exact ⟨m, hm, eq_of_beq hsl, rfl⟩
    · rintro ⟨m, hm, hsl, rfl⟩
      exact ⟨m, List.mem_filter.mpr ⟨hm, beq_iff_eq.mpr hsl⟩, rfl⟩

theorem execPinDrainStart_scratch {n sl : Nat} {s : State} {x : Pin} (hx : (s.sl.pins.find? fun x => x.id == n) = some x) (he : x.ending = true)
    (h0 : x.state ≠ 0) (h3 : x.state ≠ 3) (hs : sl ∉ x.started) (hr : x.resident = false) :
    ((x.lines.any fun l => l.2.1 == sl && s.lineBusy l.1) = true → Next (exec (.pinDrainStart n sl) s) s) ∧
    ((x.lines.any fun l => l.2.1 == sl && s.lineBusy l.1) = false → ∃ t, Next (exec (.pinDrainStart n sl) s) t ∧
      (∀ l ∈ x.lines, l.2.1 = sl → ∀ i, i < 64 → t.memByte (64 * l.1 + i) = memDefault) ∧
      ∀ a, (∀ l ∈ x.lines, l.2.1 = sl → a / 64 ≠ l.1) → t.memByte a = s.memByte a) := by
  rw [show exec (.pinDrainStart n sl) s = execPinDrainStart n sl s from rfl, execPinDrainStart, hx]
  dsimp only
  rw [if_neg (drainGuard_false he h0 h3 hs), if_neg (Bool.eq_false_iff.mp hr)]
  have hmem : ∀ line, line ∈ _ ↔ _ := fun line => mem_drainLines (x := x) (sl := sl) (line := line)
  generalize ((if x.state = 1 then x.lines.map fun l => (l.1, l.2.1, false) else x.lines).filter fun l => l.2.1 == sl).map (fun l => l.1) = mine at hmem ⊢
  have hbusy : mine.any s.lineBusy = x.lines.any fun l => l.2.1 == sl && s.lineBusy l.1 := by
    rw [Bool.eq_iff_iff, List.any_eq_true, List.any_eq_true]
    constructor
    · rintro ⟨line, hl, hb⟩
      obtain ⟨l, hmine, hsl, rfl⟩ := (hmem line).mp hl
      exact ⟨l, hmine, by simp [hsl, hb]⟩
    · rintro ⟨l, hl, hb⟩
      rw [Bool.and_eq_true, beq_iff_eq] at hb
      exact ⟨l.1, (hmem _).mpr ⟨l, hl, hb.1, rfl⟩, hb.2⟩
  rw [hbusy]
  refine ⟨fun hb => if_pos hb, fun hb => ?_⟩
  rw [if_neg (Bool.eq_false_iff.mp hb)]
  refine ⟨_, rfl, fun l hl hsl i hi => ?_, fun a ha => ?_⟩
  · rw [State.memByte, State.pinEnded_mem]
    refine (Mem.erase_cells _ _ _).trans (if_pos ((hmem _).mpr ⟨l, hl, hsl, ?_⟩))
    omega
  · rw [State.memByte, State.pinEnded_mem]
    refine (Mem.erase_cells _ _ _).trans (if_neg fun hm => ?_)
    obtain ⟨l, hl, hsl, h⟩ := (hmem _).mp hm
    exact ha l hl hsl h.symm

/-- Settles O42: the events of a pin are found by its number, and what they do to arrays leaves the pins and every byte; the discarded lines are erased. -/
theorem pinEventsComplete : Obligations.PinEventsComplete := by
  unfold Obligations.PinEventsComplete
  intro n sl s
  refine ⟨fun r hr hwait => ?_, fun r hr hover => ?_, fun x hx => ⟨fun h0 line p hl hp => ?_, fun he h0 h3 hs hres => execPinDrainStart_scratch hx he h0 h3 hs hres,
    fun he h1 hs hres => ?_, fun h2 hs line p hl hp => ?_, fun line hl => ?_⟩, fun r slice first count kind x rest hr hop hslices => ?_⟩
  · change execContractDecide s = _
    rw [execContractDecide, hr]
    exact if_neg (Bool.eq_false_iff.mp hwait)
  · rw [show exec (.contractComplete n) s = execContractComplete n s from rfl, execContractComplete, hr]
    dsimp only
    rw [if_neg (by simp only [hover]; decide)]
    by_cases hp : r.pend = 0
    · rw [if_pos hp]
      refine ⟨_, rfl, ?_, ?_, ?_, ?_, fun _ hc => ?_, fun h => absurd hp h⟩
      · split <;> rfl
      · split <;> rfl
      · split <;> rfl
      · split <;> rfl
      · rw [if_pos (by rw [hc]; exact beq_self_eq_true _)]
    · rw [if_neg hp]
      exact ⟨_, rfl, rfl, rfl, rfl, rfl, fun h => absurd h hp, fun _ => rfl⟩
  · subst hp
    refine ⟨fun hp => ?_, fun hp => execPinLineCopy_copies hx h0 hl hp⟩
    change execPinLineCopy n sl s = _
    rw [execPinLineCopy, hx]
    dsimp only
    rw [if_pos h0, hl]
    dsimp only
    rw [if_pos hp]
  · change execPinDrainStart n sl s = _
    rw [execPinDrainStart, hx]
    dsimp only
    rw [if_neg (drainGuard_false he (by omega) (by omega) hs), if_pos hres, if_pos h1]
  · subst hp
    refine ⟨fun hp => ?_, fun hp => execPinLineWriteback_sends hx h2 hs hl hp⟩
    change execPinLineWriteback n sl s = _
    rw [execPinLineWriteback, hx]
    dsimp only
    rw [if_pos (by simp [h2, hs]), hl]
    dsimp only
    rw [if_pos hp]
  · change execPinLineWritten n sl s = _
    rw [execPinLineWritten, hx]
    dsimp only
    rw [hl]
  · rw [show exec (.stpartApply n) s = execStpartApply n s from rfl, execStpartApply, hr]
    dsimp only
    rw [hop, hslices]
    dsimp only
    refine ⟨fun hno => by rw [hno], fun hsome => ?_⟩
    obtain ⟨t, ht⟩ := Option.ne_none_iff_exists'.mp hsome
    obtain ⟨hlines, hbytes⟩ := State.flushLines_some ht
    rw [ht]
    refine ⟨_, rfl, ?_, fun m hm => ?_, hbytes⟩
    · simp only [State.seqApplied, State.newKinds, State.flushLines_kinds ht]
    · obtain ⟨y, hy, hfy⟩ := hlines m.name (List.mem_map_of_mem hm)
      rw [(Prod.mk.inj hy).1] at hfy
      exact beq_eq_false_iff_ne.mp hfy

end Sys2Proof.Machine

/-!
PROOF (R60 to R63, R364): what an access of the package to the store leaves as it is.
-/
namespace Sys2Proof.Machine

-- One theorem after the other: in parallel they ask for more threads than the host allows.
set_option Elab.async false

/-- The second state follows from the first by accesses to the store: they move memory and the slices, and may send the host a message. -/
structure State.Accessed (s t : State) : Prop where
  clk : t.clk = s.clk
  regs : t.regs = s.regs
  sp : t.sp = s.sp
  kv : t.kv = s.kv
  gi : t.gi = s.gi
  disp : t.disp = s.disp
  pow : t.pow = s.pow
  grd : t.grd = s.grd
  host : t.host = { s.host with msix := t.host.msix, out := t.host.out }

namespace State.Accessed

theorem of_host {s t : State} (hclk : t.clk = s.clk) (hregs : t.regs = s.regs) (hsp : t.sp = s.sp) (hkv : t.kv = s.kv) (hgi : t.gi = s.gi)
    (hdisp : t.disp = s.disp) (hpow : t.pow = s.pow) (hgrd : t.grd = s.grd) (hhost : t.host = s.host) : s.Accessed t :=
  ⟨hclk, hregs, hsp, hkv, hgi, hdisp, hpow, hgrd, by rw [hhost]⟩

theorem refl (s : State) : s.Accessed s := of_host rfl rfl rfl rfl rfl rfl rfl rfl rfl

theorem trans {s t u : State} (h : s.Accessed t) (k : t.Accessed u) : s.Accessed u where
  clk := k.clk.trans h.clk
  regs := k.regs.trans h.regs
  sp := k.sp.trans h.sp
  kv := k.kv.trans h.kv
  gi := k.gi.trans h.gi
  disp := k.disp.trans h.disp
  pow := k.pow.trans h.pow
  grd := k.grd.trans h.grd
  host := k.host.trans (by rw [h.host])

theorem foldl {α : Type} {f : State → α → State} (h : ∀ (s : State) a, s.Accessed (f s a)) (l : List α) (s : State) : s.Accessed (l.foldl f s) := by
  induction l generalizing s with
  | nil => exact refl s
  | cons a l ih => exact (h s a).trans (ih (f s a))

theorem msi (s : State) (v : Nat) : s.Accessed (s.msi v) := by
  unfold State.msi State.hostWaits
  split <;> exact ⟨rfl, rfl, rfl, rfl, rfl, rfl, rfl, rfl, rfl⟩

/-- Only the slices and memory differ. -/
theorem of_sl {s t : State} (h : t = { s with mem := t.mem, sl := t.sl }) : s.Accessed t := by
  rw [h]
  exact of_host rfl rfl rfl rfl rfl rfl rfl rfl rfl

theorem poisonHome (s : State) (slice line : Nat) (bad : BitVec 8) : s.Accessed (s.poisonHome slice line bad) := by
  unfold State.poisonHome
  split <;> exact of_sl rfl

theorem poisonLine (s : State) (slice line w n : Nat) : s.Accessed (s.poisonLine slice line w n) := poisonHome _ _ _ _

theorem logPush (s : State) (key cap : Nat) (e : BitVec 256) : s.Accessed (s.logPush key cap e) := by
  unfold State.logPush
  dsimp only
  split
  · exact trans (of_sl rfl) (msi _ _)
  · exact of_sl rfl

theorem logArray (s : State) (slice : Nat) (e : BitVec 256) : s.Accessed (s.logArray slice e) := by
  unfold State.logArray
  dsimp only
  split
  · exact of_sl rfl
  · exact logPush _ _ _ _

theorem logBus (s : State) (slice a : Nat) (write : Bool) (hits : List Hit) (action grp spare : Nat) :
    s.Accessed (s.logBus slice a write hits action grp spare) := logPush _ _ _ _

theorem setEcc (s : State) (slice : Nat) (e : SliceEcc) : s.Accessed (s.setEcc slice e) := of_sl rfl

theorem decodeWord (s : State) (slice a mode lid : Nat) (sweep : Bool) (w : Nat) (bs : List Nat) : s.Accessed (s.decodeWord slice a mode lid sweep w bs) := by
  unfold State.decodeWord
  dsimp only
  split
  · exact refl s
  · split
    · exact logArray _ _ _
    · split
      · split <;> exact (logArray _ _ _).trans (poisonLine _ _ _ _ _)
      · exact logArray _ _ _

theorem decodeLine (s : State) (slice a lid : Nat) (sweep : Bool) : s.Accessed (s.decodeLine slice a lid sweep) := by
  unfold State.decodeLine
  dsimp only
  split
  · exact refl s
  · exact (setEcc _ _ _).trans (foldl (fun t w => decodeWord t _ _ _ _ _ _ _) _ _)

theorem poisonPair (s : State) (slice a : Nat) : s.Accessed (s.poisonPair slice a) := by
  unfold State.poisonPair
  refine foldl (fun t x => ?_) _ _
  split
  · exact poisonLine _ _ _ _ _
  · exact refl t

theorem busLimit (s : State) (slice a : Nat) (write : Bool) (hits : List Hit) : s.Accessed (s.busLimit slice a write hits) := by
  unfold State.busLimit
  dsimp only
  split
  · exact ((setEcc _ _ _).trans (logBus _ _ _ _ _ _ _ _)).trans (msi _ _)
  · refine (poisonPair s slice a).trans ?_
    split
    · exact logBus _ _ _ _ _ _ _ _
    · split
      · exact logBus _ _ _ _ _ _ _ _
      · split
        · exact (logBus _ _ _ _ _ _ _ _).trans (of_host rfl rfl rfl rfl rfl rfl rfl rfl rfl)
        · exact ((setEcc _ _ _).trans (logBus _ _ _ _ _ _ _ _)).trans (msi _ _)

theorem busTransfer (s : State) (slice a : Nat) (write : Bool) : s.Accessed (s.busTransfer slice a write) := by
  unfold State.busTransfer
  dsimp only
  split
  · exact refl s
  · split
    · exact of_sl rfl
    · split
      · exact trans (of_sl rfl) (logBus _ _ _ _ _ _ _ _)
      · exact trans (of_sl rfl) (busLimit _ _ _ _ _)

theorem arrayRead (s : State) (slice a lid : Nat) : s.Accessed (s.arrayRead slice a lid) := (decodeLine s slice a lid false).trans (busTransfer _ _ _ _)

theorem readLine (s : State) (slice line lid : Nat) : s.Accessed (s.readLine slice line lid) := by
  unfold State.readLine
  split
  · exact arrayRead _ _ _ _
  · exact refl s

theorem tagLine (s : State) (slice a : Nat) : s.Accessed (s.tagLine slice a) := by
  unfold State.tagLine
  dsimp only
  split
  · exact of_sl rfl
  · exact refl s

theorem arrayWrites (ls : List (Nat × Nat)) (s : State) : s.Accessed (s.arrayWrites ls) := by
  unfold State.arrayWrites
  refine foldl (fun t p => ?_) _ _
  split
  · exact (busTransfer _ _ _ _).trans (foldl (fun t y => tagLine t _ _) _ _)
  · exact refl t

theorem writeLine (s : State) (slice line : Nat) : s.Accessed (s.writeLine slice line) := by
  unfold State.writeLine
  split
  · exact arrayWrites _ _
  · exact refl s

theorem hbmFill (s : State) (slice a line lid : Nat) : s.Accessed (s.hbmFill slice a line lid) := by
  unfold State.hbmFill
  dsimp only
  refine trans (t := if (s.sl.phys.filterMap (PhysFault.onFill line)).isEmpty = true then s else
    { s with sl := { s.sl with phys := s.sl.phys.filter fun f => (f.onFill line).isNone } }) ?_ (foldl (fun t h => ?_) _ _)
  · split
    · exact refl s
    · exact of_sl rfl
  · split
    · exact of_sl rfl
    · refine trans (t := t.rowError (Config.hbmRow line) h.2) (of_sl rfl) (trans ?_ (logArray _ _ _))
      split <;> exact poisonLine _ _ _ _ _

theorem crossAll (s : State) (ls : List (Nat × Nat)) : s.Accessed (s.crossAll ls) := by
  unfold State.crossAll
  exact foldl (fun t e => of_sl rfl) _ _

theorem putBehind (s : State) (unit pa : Nat) (bs : List (Nat × Byte)) (bad : BitVec 8) : s.Accessed (s.putBehind unit pa bs bad) := by
  unfold State.putBehind
  dsimp only
  split
  · split <;> exact of_sl rfl
  · exact of_sl rfl

theorem backOwn (s : State) (m : MscLine) : s.Accessed (s.backOwn m) := by
  unfold State.backOwn
  split
  · split
    · exact putBehind _ _ _ _ _
    · exact refl s
  · exact refl s

theorem mscFillLine {s t : State} {slice line loc tenant cls : Nat} {dirty : Bool} (h : s.mscFillLine slice line loc tenant cls dirty = some t) : s.Accessed t := by
  unfold State.mscFillLine at h
  dsimp only at h
  split at h
  · cases h
    exact refl s
  · split at h
    · cases h
      exact refl s
    · split at h
      · cases h
        exact of_sl rfl
      · split at h
        · cases h
        · cases h
          split
          · exact trans (of_sl rfl) ((backOwn _ _).trans (of_sl rfl))
          · exact trans (of_sl rfl) (backOwn _ _)

theorem fillMsc {s t : State} {slice line loc tenant cls lid : Nat} {u : LineUse} (h : s.fillMsc slice line loc tenant cls lid u = some t) : s.Accessed t := by
  unfold State.fillMsc at h
  dsimp only at h
  generalize (if u == LineUse.whole then [] else stackTrip slice line (flitsOf false 64)) = trip at h
  split at h
  · cases h
  · obtain ⟨v, hv, rfl⟩ := Option.map_eq_some_iff.mp h
    have hfill : s.Accessed v := by
      split at hv
      · split at hv
        · exact (arrayRead _ _ _ _).trans (mscFillLine hv)
        · exact mscFillLine hv
      · exact mscFillLine hv
    refine (hfill.trans (crossAll v trip)).trans ?_
    split
    · exact refl _
    · split
      · exact (hbmFill _ _ _ _ _).trans (writeLine _ _ _)
      · exact refl _

theorem admitLine {s : State} {t : State × Bool} {slice line loc tenant ccls lid : Nat} {u : LineUse} {v : Via}
    (h : s.admitLine slice line loc tenant ccls lid u v = some t) : s.Accessed t.1 := by
  unfold State.admitLine at h
  dsimp only at h
  split at h
  · cases h
  · split at h
    · cases h
    · cases h
      exact crossAll _ _
    · split at h
      · cases h
      · split at h
        · cases h
          exact trans (of_sl rfl) (crossAll _ _)
        · split at h
          · obtain ⟨w, hw, rfl⟩ := Option.map_eq_some_iff.mp h
            exact (fillMsc hw).trans (crossAll _ _)
          · split at h
            · cases h
            · cases h
              exact (crossAll _ _).trans (crossAll _ _)

theorem touchLine {s t : State} {slice line loc tenant ccls lid : Nat} {u : LineUse} {v : Via}
    (h : s.touchLine slice line loc tenant ccls lid u v = some t) : s.Accessed t := by
  unfold State.touchLine at h
  obtain ⟨w, hw, rfl⟩ := Option.map_eq_some_iff.mp h
  split
  · exact (admitLine hw).trans (readLine _ _ _ _)
  · exact admitLine hw

theorem touchPhys {s t : State} {v : Via} {pa tenant ccls : Nat} {u : LineUse} (h : s.touchPhys v pa tenant ccls u = some t) : s.Accessed t := touchLine h

/-- Accesses one after the other, each of which may have to wait. -/
theorem bind_foldl {α : Type} {f : State → α → Option State} (hf : ∀ (s t : State) a, f s a = some t → s.Accessed t) {l : List α} {s t : State}
    (h : l.foldl (fun (t : Option State) a => t.bind fun t => f t a) (some s) = some t) : s.Accessed t := by
  induction l generalizing s with
  | nil =>
    cases h
    exact refl _
  | cons a l ih =>
    rw [List.foldl_cons, Option.bind_some] at h
    cases hfa : f s a with
    | none =>
      rw [hfa] at h
      have hnone : ∀ l : List α, l.foldl (fun (t : Option State) a => t.bind fun t => f t a) none = none := fun l => by
        induction l with
        | nil => rfl
        | cons b l ihl => exact ihl
      rw [hnone] at h
      cases h
    | some u =>
      rw [hfa] at h
      exact (hf s u a hfa).trans (ih h)

theorem hostReach {s t : State} {x n at' : Nat} {write : Bool} (h : s.hostReach x n at' write = some t) : s.Accessed t :=
  bind_foldl (fun _ _ _ h => touchPhys h) h

theorem homePut (s : State) (slice pa : Nat) (bs : List (Nat × Byte)) : s.Accessed (s.homePut slice pa bs) := by
  unfold State.homePut
  dsimp only
  split
  · exact putBehind _ _ _ _ _
  · split
    · exact of_sl rfl
    · split
      · exact of_sl rfl
      · exact trans (of_sl rfl) (putBehind _ _ _ _ _)

theorem monWrite (s : State) (slice line : Nat) : s.Accessed (s.monWrite slice line) := by
  unfold State.monWrite
  dsimp only
  split
  · exact refl s
  · next m hm =>
    refine (readLine s slice line (s.launchOf m.blk).id).trans ?_
    exact of_host (by simp) (by simp) (by simp) (by simp) (by simp) (by simp) (by simp) (by simp) (by simp)

theorem homeWrite (s : State) (slice pa : Nat) (bs : List (Nat × Byte)) : s.Accessed (s.homeWrite slice pa bs) :=
  ((homePut s slice pa bs).trans (writeLine _ _ _)).trans (monWrite _ _ _)

theorem hostPut (s : State) (x : Nat) (bs : List Byte) : s.Accessed (s.hostPut x bs) := homeWrite _ _ _ _

theorem hostWrite (s : State) (x : Nat) (bs : List Byte) : s.Accessed (s.hostWrite x bs) := by
  unfold State.hostWrite
  split
  · next t ht =>
    split at ht
    · exact (hostReach ht).trans (hostPut _ _ _)
    · cases ht
  · exact ⟨rfl, rfl, rfl, rfl, rfl, rfl, rfl, rfl, rfl⟩

end State.Accessed

end Sys2Proof.Machine

/-!
PROOF (DispatcherEventsComplete: R9 to R11, R204, R284, R302 to R309, R366, R368).
-/
namespace Sys2Proof.Machine

-- One theorem after the other: in parallel they ask for more threads than the host allows.
set_option Elab.async false

/-! ## Tables of the dispatcher -/

theorem mget_eq_or_mem {α : Type} (d : α) (m : SMap α) (k : Nat) : mget d m k = d ∨ (k, mget d m k) ∈ m := by
  induction m with
  | nil => exact .inl rfl
  | cons e m ih =>
    obtain ⟨n, v⟩ := e
    rw [mget]
    split
    · next h => exact .inr (h ▸ List.mem_cons_self)
    · exact ih.imp_right (List.mem_cons_of_mem _)

theorem mget_filter_of_false {α : Type} (d : α) (m : SMap α) {f : Nat × α → Bool} {k : Nat} (h : ∀ v, f (k, v) = false) : mget d (m.filter f) k = d := by
  rcases mget_eq_or_mem d (m.filter f) k with hk | hk
  · exact hk
  · have := (List.mem_filter.mp hk).2
    rw [h] at this
    cases this

/-- Reads after several writes of one value. -/
theorem mget_mputs_same {α : Type} [DecidableEq α] {d v : α} {m : SMap α} {l : List (Nat × α)} {k : Nat} (h : ∀ e ∈ l, e.2 = v) (hk : mget d m k = v ∨ k ∈ l.map fun e => e.1) :
    mget d (mputs d m l) k = v := by
  unfold mputs
  induction l generalizing m with
  | nil => exact hk.resolve_right List.not_mem_nil
  | cons e l ih =>
    rw [List.foldl_cons]
    refine ih (fun x hx => h x (List.mem_cons_of_mem _ hx)) ?_
    rw [mget_mput]
    split
    · exact .inl (h e List.mem_cons_self)
    · next hne =>
      rcases hk with hk | hk
      · exact .inl hk
      · exact .inr ((List.mem_cons.mp hk).resolve_left hne)

@[simp] theorem State.queue_setQueue_self (s : State) (q : Nat) (x : LQueue) : (s.setQueue q x).queue q = x := mget_mput_self _ _ _ _

theorem State.queue_setQueue (s : State) (q r : Nat) (x : LQueue) : (s.setQueue q x).queue r = if r = q then x else s.queue r := mget_mput _ _ _ _ _

/-- A launch that is in the table. -/
theorem State.launch_found {s : State} {u : Nat} (h : s.launch u ≠ .none) : s.disp.launches.find? (·.uid == u) = some (s.launch u) ∧ (s.launch u).uid = u := by
  unfold State.launch at h ⊢
  cases hf : s.disp.launches.find? (·.uid == u) with
  | none => rw [hf] at h; exact absurd rfl h
  | some l => exact ⟨rfl, by simpa using List.find?_some hf⟩

theorem State.launch_setLaunch_self {s : State} {u : Nat} (h : s.launch u ≠ .none) {x : Launch} (hx : x.uid = u) : (s.setLaunch x).launch u = x := by
  rw [State.launch_setLaunch, (State.launch_found h).1]
  simp [hx]

theorem State.block_found {s : State} {b : Nat} (h : s.block b ≠ .none) : (∃ y ∈ s.disp.blocks, y.id = b) ∧ (s.block b).id = b := by
  unfold State.block at h ⊢
  cases hf : s.disp.blocks.find? (·.id == b) with
  | none => rw [hf] at h; exact absurd rfl h
  | some y =>
    have hy : y.id = b := by simpa using List.find?_some hf
    exact ⟨⟨y, List.mem_of_find?_eq_some hf, hy⟩, hy⟩

theorem State.block_setBlock_of_found {s : State} {b : Nat} (h : s.block b ≠ .none) {x : Block} (hx : x.id = b) : (s.setBlock x).block b = x := by
  subst hx
  exact State.block_setBlock_self (State.block_found h).1

theorem State.setLaunch_launch_at {α : Type} {s : State} {u : Nat} {x : Launch} (g : Launch → α) {y : α} (h : s.launch u ≠ .none) (hx : x.uid = u) (hy : g x = y) :
    g ((s.setLaunch x).launch u) = y := by rw [State.launch_setLaunch_self h hx, hy]

theorem State.setBlock_block_at {α : Type} {s : State} {b : Nat} {x : Block} (g : Block → α) {y : α} (h : s.block b ≠ .none) (hx : x.id = b) (hy : g x = y) :
    g ((s.setBlock x).block b) = y := by rw [State.block_setBlock_of_found h hx, hy]

theorem State.block_congr {s t : State} (h : t.disp.blocks = s.disp.blocks) (b : Nat) : t.block b = s.block b := by rw [State.block, h, State.block]
theorem State.launch_congr {s t : State} (h : t.disp.launches = s.disp.launches) (u : Nat) : t.launch u = s.launch u := by rw [State.launch, h, State.launch]
theorem State.queue_congr {s t : State} (h : t.disp.queues = s.disp.queues) (q : Nat) : t.queue q = s.queue q := by rw [State.queue, h, State.queue]

/-! ## Completion entries (R366) -/

/-- A completion entry moves its queue's write position; the rest of it is an access. -/
theorem State.writeEntry_accessed (s : State) (q kind status id trel hostmax : Nat) :
    (s.setQueue q { s.queue q with cwritten := (s.queue q).cwritten + 1 }).Accessed (s.writeEntry q kind status id trel hostmax) := by
  unfold State.writeEntry
  dsimp only
  generalize hw : s.hostWrite _ _ = w
  have h : s.Accessed w := hw ▸ State.Accessed.hostWrite _ _ _
  refine Accessed.trans (t := w.setQueue q { s.queue q with cwritten := (s.queue q).cwritten + 1 }) ?_ (Accessed.msi _ _)
  refine ⟨h.clk, h.regs, h.sp, h.kv, h.gi, ?_, h.pow, h.grd, h.host⟩
  simp only [State.setQueue, h.disp]

theorem State.writeEntry_disp (s : State) (q kind status id trel hostmax : Nat) : (s.writeEntry q kind status id trel hostmax).disp =
    { s.disp with queues := mput .init s.disp.queues q { s.queue q with cwritten := (s.queue q).cwritten + 1 } } :=
  (State.writeEntry_accessed s q kind status id trel hostmax).disp

theorem State.writeEntry_queue_self (s : State) (q kind status id trel hostmax : Nat) :
    (s.writeEntry q kind status id trel hostmax).queue q = { s.queue q with cwritten := (s.queue q).cwritten + 1 } := by
  rw [State.queue, State.writeEntry_disp]
  exact mget_mput_self _ _ _ _

@[simp] theorem State.writeEntry_regs (s : State) (q kind status id trel hostmax : Nat) : (s.writeEntry q kind status id trel hostmax).regs = s.regs :=
  (State.writeEntry_accessed s q kind status id trel hostmax).regs

@[simp] theorem State.writeEntry_featLocked (s : State) (q kind status id trel hostmax : Nat) :
    (s.writeEntry q kind status id trel hostmax).host.featLocked = s.host.featLocked := by
  rw [(State.writeEntry_accessed s q kind status id trel hostmax).host]
  rfl

/-! ## Placement (R11, R308) -/

/-- The block that a new place gives. -/
def placedBlock (s : State) (l : Launch) (e : Nat × Site) : Block :=
  { Block.none with
    id := s.disp.nextBlk + e.1, launch := l.uid, lin := l.nextBlk + e.1, core := e.2.core, st := .placed,
    feedDone := false, spadBase := e.2.spad, cellBase := e.2.cells, placedAt := s.now, exclAt := some s.now }

theorem State.placeOne_blocks (s : State) (l : Launch) (lin : Nat) (x : Site) :
    (s.placeOne l lin x true none).disp.nextBlk = s.disp.nextBlk + 1 ∧
    (s.placeOne l lin x true none).disp.blocks = s.disp.blocks ++ [placedBlock s { l with nextBlk := lin } (0, x)] := ⟨rfl, rfl⟩

theorem foldl_placeOne_blocks (l : Launch) (xs : List Site) (s t : State) (k : Nat) (hclk : t.clk = s.clk) (hnext : t.disp.nextBlk = s.disp.nextBlk + k) :
    (((List.range' k xs.length).zip xs).foldl (fun (t : State) e => t.placeOne l (l.nextBlk + e.1) e.2 true none) t).disp.blocks =
      t.disp.blocks ++ ((List.range' k xs.length).zip xs).map (placedBlock s l) := by
  induction xs generalizing t k with
  | nil => simp
  | cons x xs ih =>
    simp only [List.length_cons, List.range'_succ, List.zip_cons_cons, List.foldl_cons, List.map_cons]
    obtain ⟨h1, h2⟩ := State.placeOne_blocks t l (l.nextBlk + k) x
    rw [ih (t.placeOne l (l.nextBlk + k) x true none) (k + 1) (by simpa using hclk) (by rw [h1, hnext]; omega), h2, List.append_assoc]
    congr 2
    simp only [placedBlock, State.now, hnext, hclk]
    rfl

theorem State.placeAt_blocks (s : State) (l : Launch) {x : Sites} (h : x.twin = []) :
    (s.placeAt l x).disp.blocks = s.disp.blocks ++ ((List.range x.prim.length).zip x.prim).map (placedBlock s l) := by
  unfold State.placeAt
  dsimp only
  simp only [h, List.getElem?_nil]
  rw [List.range_eq_range']
  exact foldl_placeOne_blocks l x.prim s s 0 rfl rfl

theorem State.watchSync_block_st {s : State} {b : Nat} (h : s.block b ≠ .none) : ((s.watchSync b).block b).st = (s.block b).st := by
  have hid := (State.block_found h).2
  unfold State.watchSync
  dsimp only
  split
  · split
    · exact State.setBlock_block_at Block.st h hid rfl
    · rfl
  · split
    · rfl
    · exact State.setBlock_block_at Block.st h hid rfl

theorem execCrewStart_runs {n : Nat} {s : State} (h : (s.block n).st = .placed) : ∃ t, Next (exec (.crewStart n) s) t ∧ (t.block n).st = .running ∧
    t.regs = s.regs ∧ t.mem = s.mem ∧ t.clk = (s.reach ((s.block n).placedAt + 128)).clk := by
  rw [show exec (.crewStart n) s = execCrewStart n s from rfl, execCrewStart]
  dsimp only
  rw [if_neg (by simp [h])]
  refine ⟨_, rfl, ?_, by simp, by simp, by simp⟩
  have hne : s.block n ≠ .none := fun hn => by rw [hn] at h; cases h
  have hset : (((s.reach ((s.block n).placedAt + 128)).setBlock { s.block n with st := .running }).block n) = { s.block n with st := .running } :=
    State.block_setBlock_of_found (s := s.reach ((s.block n).placedAt + 128)) hne (State.block_found hne).2
  rw [State.watchSync_block_st]
  · exact congrArg Block.st hset
  · exact fun hn => by cases congrArg Block.st (hset.symm.trans hn)

/-! ## Host lines (R303, R364) -/

/-- The dispatcher's copies of tail lines are dropped. -/
theorem foldl_unshare (es : SMap LQueue) (s : State) {q : Nat} (h : (s.queue q).shared = false ∨ q ∈ es.map fun e => e.1) :
    ((es.foldl (fun (t : State) e => t.setQueue e.1 { e.2 with shared := false }) s).queue q).shared = false := by
  induction es generalizing s with
  | nil => exact h.resolve_right List.not_mem_nil
  | cons e es ih =>
    rw [List.foldl_cons]
    refine ih _ ?_
    rw [State.queue_setQueue]
    split
    · exact .inl rfl
    · next hne => exact h.imp_right fun hm => (List.mem_cons.mp hm).resolve_left hne

/-- What a snoop that goes through leaves before the host's store: the line in no slice and in no queue. -/
def State.snooped (s : State) (line : Nat) : State :=
  ((s.dropHostLine (lineOf (hostPa (line * 64)))).tailsAt line).foldl (fun t e => t.setQueue e.1 { e.2 with shared := false })
    (s.dropHostLine (lineOf (hostPa (line * 64))))

theorem State.snooped_eq (s : State) (line : Nat) : s.snooped line = { s with
    sl := { s.sl with lines := s.sl.lines.filter fun m => m.line != lineOf (hostPa (line * 64)) }, disp := (s.snooped line).disp } := by
  unfold State.snooped
  generalize State.tailsAt _ line = es
  suffices h : ∀ (es : SMap LQueue) (t : State), es.foldl (fun t e => t.setQueue e.1 { e.2 with shared := false }) t =
      { t with disp := (es.foldl (fun t e => t.setQueue e.1 { e.2 with shared := false }) t).disp } from h es _
  intro es
  induction es with
  | nil => exact fun t => rfl
  | cons e es ih => exact fun t => ih (t.setQueue e.1 { e.2 with shared := false })

theorem State.snooped_queue {s : State} {line q : Nat} (h : lineOf (hostPa (s.queue q).tailpa) = lineOf (hostPa (line * 64))) :
    ((s.snooped line).queue q).shared = false := by
  refine foldl_unshare _ _ ?_
  rcases mget_eq_or_mem LQueue.init s.disp.queues q with hq | hq
  · left
    rw [show (s.dropHostLine (lineOf (hostPa (line * 64)))).queue q = .init from hq]
    rfl
  · exact .inr (List.mem_map.mpr ⟨_, List.mem_filter.mpr ⟨hq, beq_iff_eq.mpr h⟩, rfl⟩)

theorem State.snooped_lines {s : State} {line : Nat} : ∀ m ∈ (s.snooped line).sl.lines, m.line ≠ lineOf (hostPa (line * 64)) := by
  rw [State.snooped_eq]
  exact fun m hm => by simpa using (List.mem_filter.mp hm).2

/-- A snooped line of which the host's store is taken from those that wait. -/
def State.snoopTaken (s : State) (line : Nat) : State :=
  { s.snooped line with host := { (s.snooped line).host with stores := (s.snooped line).host.stores.eraseP fun e => e.1 == line } }

/-- What a snoop that goes through gives. -/
def State.snoopDone (s : State) (line : Nat) : State :=
  (((s.snooped line).host.stores.find? fun e => e.1 == line).map fun e => (s.snoopTaken line).hostPut (line * 64) (e.2.take 64)).getD (s.snooped line)

theorem State.snoopDone_eq (s : State) (line : Nat) : s.snoopDone line = ((s.host.stores.find? fun e => e.1 == line).map fun e =>
    (s.snoopTaken line).hostPut (line * 64) (e.2.take 64)).getD (s.snooped line) := by
  have hst : (s.snooped line).host.stores = s.host.stores := by rw [State.snooped_eq]
  unfold State.snoopDone
  rw [hst]

theorem execCxlSnoop_eq {n : Nat} {s : State} (h : s.snoopHeld n = false) : exec (.cxlSnoop n) s = .next (s.snoopDone n) := by
  change execCxlSnoop n s = _
  rw [execCxlSnoop, if_neg (Bool.eq_false_iff.mp h)]
  unfold State.snoopDone State.snoopTaken State.snooped
  dsimp only
  split
  · next hf => rw [hf, Option.map_none, Option.getD_none]
  · next e hf => rw [hf, Option.map_some, Option.getD_some]

theorem execCxlSnoop_drops {n pa : Nat} {s : State} (h : s.snoopHeld n = false) (hpa : pa = hostPa (n * 64)) : ∃ t, Next (exec (.cxlSnoop n) s) t ∧
    (∀ q, lineOf (hostPa (s.queue q).tailpa) = lineOf pa → (t.queue q).shared = false) ∧ (∀ m ∈ t.sl.lines, m.line ≠ lineOf pa) ∧ t.regs = s.regs ∧
    (∀ data, (s.host.stores.find? fun e => e.1 == n) = some (n, data) → ∀ i b, i < 64 → data[i]? = some b → t.memByte (pa + i) = b) ∧
    ((∀ e ∈ s.host.stores, e.1 ≠ n) → t.mem = s.mem) ∧
    ∀ a, (a < pa ∨ pa + 64 ≤ a) → t.memByte a = s.memByte a := by
  subst hpa
  rw [execCxlSnoop_eq h, State.snoopDone_eq]
  refine ⟨_, rfl, ?_⟩
  have hregs : (s.snooped n).regs = s.regs := by rw [State.snooped_eq]
  have hmem : (s.snooped n).mem = s.mem := by rw [State.snooped_eq]
  cases hf : s.host.stores.find? fun e => e.1 == n with
  | none =>
    exact ⟨fun q hq => State.snooped_queue hq, State.snooped_lines, hregs, fun data hd => (by cases hd), fun _ => hmem, fun a _ => State.memByte_congr hmem a⟩
  | some e =>
    have hone : (s.snoopTaken n).oneHome (homeSlice 0 0 (lineOf (hostPa (n * 64)))) (lineOf (hostPa (n * 64))) := fun m hm hl => absurd hl (State.snooped_lines m hm)
    refine ⟨fun q hq => ?_, fun m hm => ?_, ?_, fun data hd i b hi hb => ?_, fun hno => ?_, fun a ha => ?_⟩
    · refine (congrArg LQueue.shared (State.queue_congr (congrArg Disp.queues (State.Accessed.hostPut _ _ _).disp) q)).trans ?_
      exact State.snooped_queue hq
    · have hnames := State.homeWrite_names (s.snoopTaken n)
        (homeSlice 0 0 (lineOf (hostPa (n * 64)))) (hostPa (n * 64)) (atOffsets (e.2.take 64))
      have hm' := hnames ▸ List.mem_map_of_mem (f := MscLine.name) hm
      obtain ⟨y, hy, hye⟩ := List.mem_map.mp hm'
      rw [← (Prod.mk.inj hye).2]
      exact State.snooped_lines y hy
    · exact (State.Accessed.hostPut _ _ _).regs.trans hregs
    · cases hd
      have hlt : i < (data.take 64).length := by
        have := (List.getElem?_eq_some_iff.mp hb).1
        rw [List.length_take]
        omega
      have hget : (data.take 64)[i] = b := by
        rw [List.getElem_take]
        exact (List.getElem?_eq_some_iff.mp hb).2
      exact State.homeWrite_memByte (e := (i, b)) hone (by rw [atOffsets_map_fst]; exact List.nodup_range) (hget ▸ mem_atOffsets hlt)
    · exact absurd (by simpa using List.find?_some hf) (hno e (List.mem_of_find?_eq_some hf))
    · refine (State.homeWrite_memByte_ne _ _ _ _ _ fun x hx => ?_).trans (State.memByte_congr hmem a)
      have := atOffsets_lt hx
      rw [List.length_take] at this
      omega

/-! ## Records (R302 to R306) -/

theorem execTailReread_reads {n v ahead : Nat} {s u : State} (hw : s.watches n = true) (hu : s.hostReach (s.queue n).tailpa 4 0 false = some u)
    (hv : v = u.hostRead (s.queue n).tailpa 4) (ha : ahead = (v + 2 ^ 32 - (s.queue n).head % 2 ^ 32) % 2 ^ 32) :
    ∃ t, Next (exec (.tailReread n) s) t ∧ (t.queue n).tail = v ∧ (t.queue n).shared = true ∧ t.regs = s.regs ∧
      ((t.queue n).overrun = true ↔ 2 ^ (s.queue n).qlog < ahead) := by
  subst hv ha
  have hacc := State.Accessed.hostReach hu
  have hq : u.queue n = s.queue n := State.queue_congr (by rw [hacc.disp]) n
  rw [show exec (.tailReread n) s = execTailReread n s from rfl, execTailReread, if_pos hw, hu]
  dsimp only
  rw [hq]
  refine ⟨_, rfl, ?_⟩
  split
  · rw [State.writeEntry_queue_self, State.queue_setQueue_self]
    exact ⟨rfl, rfl, by rw [State.writeEntry_regs]; exact hacc.regs, decide_eq_true_iff⟩
  · rw [State.queue_setQueue_self]
    exact ⟨rfl, rfl, hacc.regs, decide_eq_true_iff⟩

/-- What taking a record into its levels leaves of the dispatcher: everything but the levels. -/
theorem State.joinLevels_eq (s : State) (l : Launch) (ks : List Nat) : s.joinLevels l ks = { s with disp := { s.disp with levels := (s.joinLevels l ks).disp.levels } } := by
  induction ks generalizing s with
  | nil => rfl
  | cons k ks ih =>
    rw [State.joinLevels]
    dsimp only
    split
    · rfl
    · split
      · rfl
      · rw [ih]

theorem State.closeLevels_eq (s : State) (l : Launch) : s.closeLevels l = { s with disp := { s.disp with levels := (s.closeLevels l).disp.levels } } := by
  unfold State.closeLevels
  generalize [1, 2, 3] = ks
  induction ks generalizing s with
  | nil => rfl
  | cons k ks ih =>
    rw [List.foldl_cons, ih]
    split <;> rfl

/-- A launch accepted: one more, and nothing else of the queues, the registers and the host's registers. -/
theorem State.accept_frame (s : State) (l : Launch) : (s.accept l).disp.queues = s.disp.queues ∧ (s.accept l).regs = s.regs ∧ (s.accept l).host = s.host ∧
    (s.accept l).disp.launches.length = s.disp.launches.length + 1 := by
  unfold State.accept
  dsimp only
  rw [State.closeLevels_eq, State.joinLevels_eq]
  split
  · simp [State.stopLaunch, State.due, State.setLaunch]
  · simp

/-- A queue of which a record has been taken. -/
def LQueue.taken (x : LQueue) (id : Nat) : LQueue := { x with head := (x.head + 1) % 2 ^ 32, lastId := max x.lastId id }

theorem execRecordTake_takes {n : Nat} {s u : State} {x : LQueue} {l : Launch} (hm : s.mayTake n = true) (hx : x = s.queue n)
    (hu : s.hostReach (x.qbase + 128 * (x.head % 2 ^ x.qlog)) 128 0 false = some u)
    (hl : l = Launch.ofRecord (s.disp.launches.length + 1) n x.ctx (BitVec.ofNat 1024 (u.hostRead (x.qbase + 128 * (x.head % 2 ^ x.qlog)) 128))) :
    ∃ t, Next (exec (.recordTake n) s) t ∧ (t.queue n).head = (x.head + 1) % 2 ^ 32 ∧ (t.queue n).lastId = max x.lastId l.id ∧
      t.host.featLocked = true ∧ t.regs = s.regs ∧
      t.disp.launches.length = s.disp.launches.length + (if u.refuses x l = true then 0 else 1) := by
  subst hx
  have hacc := State.Accessed.hostReach hu
  have hq : u.queue n = s.queue n := State.queue_congr (by rw [hacc.disp]) n
  rw [show exec (.recordTake n) s = execRecordTake n s from rfl, execRecordTake, if_pos hm, hu]
  dsimp only
  rw [hq, hacc.disp, ← hl]
  generalize hw : State.hostWrite (u.setQueue n _) _ _ = w
  have hwacc : (u.setQueue n ((s.queue n).taken l.id)).Accessed w := hw ▸ State.Accessed.hostWrite _ _ _
  have hwq : w.queue n = (s.queue n).taken l.id :=
    (State.queue_congr (congrArg Disp.queues hwacc.disp) n).trans (State.queue_setQueue_self _ _ _)
  have hlen : w.disp.launches.length = s.disp.launches.length := by
    rw [hwacc.disp, ← hacc.disp]
    rfl
  have hregs : w.regs = s.regs := hwacc.regs.trans hacc.regs
  refine ⟨_, rfl, ?_⟩
  split
  · have hqe := State.writeEntry_queue_self ({ w with host := { w.host with featLocked := true } }.noteDone (s.queue n).ctx l.id 3) n 0 3 l.id 0
      (u.freshValue.toNat % 2 ^ 32)
    have hde := State.writeEntry_disp ({ w with host := { w.host with featLocked := true } }.noteDone (s.queue n).ctx l.id 3) n 0 3 l.id 0
      (u.freshValue.toNat % 2 ^ 32)
    refine ⟨(congrArg LQueue.head hqe).trans (congrArg LQueue.head hwq), (congrArg LQueue.lastId hqe).trans (congrArg LQueue.lastId hwq), ?_, ?_, ?_⟩
    · exact State.writeEntry_featLocked _ _ _ _ _ _ _
    · exact (State.writeEntry_regs _ _ _ _ _ _ _).trans hregs
    · exact (congrArg (fun d : Disp => d.launches.length) hde).trans hlen
  · obtain ⟨h1, h2, h3, h4⟩ := State.accept_frame { w with host := { w.host with featLocked := true } } l
    rw [State.queue_congr h1 n]
    exact ⟨congrArg LQueue.head hwq, congrArg LQueue.lastId hwq, by rw [h3], h2.trans hregs, by rw [h4]; exact congrArg (· + 1) hlen⟩

/-! ## Segments (R284) -/

theorem State.clearSegment_slot (s : State) (l : Launch) (seg : Nat) {slot : Nat} (h1 : l.gbase ≤ slot) (h2 : slot < l.gbase + l.glen) :
    (s.clearSegment l seg).slotHdr slot = { SlotHdr.init with seg := seg } ∧ ∀ i, i < 16 → (s.clearSegment l seg).slotWord slot i = 0 := by
  refine ⟨mget_mputs_same (fun e he => ?_) (.inr ?_), fun i hi => mget_filter_of_false _ _ fun v => ?_⟩
  · obtain ⟨i, -, rfl⟩ := List.mem_map.mp he
    rfl
  · rw [List.map_map, List.mem_map]
    exact ⟨slot - l.gbase, List.mem_range.mpr (by omega), by simp only [Function.comp]; omega⟩
  · have hdiv : (slot * 16 + i) / 16 = slot := by omega
    simp [hdiv, h1, h2]

theorem execSegmentClear_released {n : Nat} {s : State} {l : Launch} (hl : l = s.launch n) (h : l.st = .released) :
    ∃ t, Next (exec (.segmentClear n) s) t ∧ (t.launch n).st = .cleared ∧ t.regs = s.regs ∧ t.mem = s.mem ∧
      t.clk = (s.reach (revolutionFrom l.clearFrom)).clk ∧
      ∀ slot, l.gbase ≤ slot → slot < l.gbase + l.glen → t.slotHdr slot = { SlotHdr.init with seg := l.gseg } ∧ ∀ i, i < 16 → t.slotWord slot i = 0 := by
  subst hl
  have hne : s.launch n ≠ .none := fun hn => by rw [hn] at h; cases h
  rw [show exec (.segmentClear n) s = execSegmentClear n s from rfl, execSegmentClear]
  dsimp only
  rw [if_pos (by rw [h]; rfl)]
  refine ⟨_, rfl, ?_, rfl, rfl, rfl, fun slot h1 h2 => State.clearSegment_slot (s.reach (revolutionFrom (s.launch n).clearFrom)) _ _ h1 h2⟩
  exact State.setLaunch_launch_at Launch.st hne (State.launch_found hne).2 rfl

theorem execSegmentClear_ended {n : Nat} {s : State} {l : Launch} (hl : l = s.launch n) (hr : l.st ≠ .released)
    (h : l.st = .ended ∨ s.launchOver l = true) (h1 : l.segState = 1) :
    ∃ t, Next (exec (.segmentClear n) s) t ∧ t.regs = s.regs ∧ t.mem = s.mem ∧ t.clk = (s.reach (revolutionFrom l.clearFrom)).clk ∧
      ∀ slot, l.gbase ≤ slot → slot < l.gbase + l.glen → t.slotHdr slot = SlotHdr.init ∧ ∀ i, i < 16 → t.slotWord slot i = 0 := by
  subst hl
  have hcond : (((s.launch n).st == .ended || s.launchOver (s.launch n)) && (s.launch n).segState == 1) = true := by
    simpa [h1] using h
  rw [show exec (.segmentClear n) s = execSegmentClear n s from rfl, execSegmentClear, if_neg (by simpa using hr), if_pos hcond]
  exact ⟨_, rfl, rfl, rfl, rfl, fun slot h1 h2 => State.clearSegment_slot (s.reach (revolutionFrom (s.launch n).clearFrom)) _ 0 h1 h2⟩

/-! ## Completion (R9, R10, R306) -/

theorem State.barCheck_blks (s : State) (b id : Nat) (cl : Bool) : (s.barCheck b id cl).sch.bundles.map Bundle.blk = s.sch.bundles.map Bundle.blk := by
  unfold State.barCheck
  dsimp only
  generalize (if cl = true then s.groupOf b else [b]) = bs
  split
  · simp only [State.mapBundles, List.map_map]
    rw [foldl_frame (F := fun t : State => t.sch) (fun t b => by simp) _ _]
    simp only [State.noteArrivals_frame]
    refine List.map_congr_left fun u _ => ?_
    simp only [Function.comp]
    split <;> rfl
  · simp

theorem State.lbarCheck_blks (s : State) (u : Nat) : (s.lbarCheck u).sch.bundles.map Bundle.blk = s.sch.bundles.map Bundle.blk := by
  unfold State.lbarCheck
  dsimp only
  split
  · simp only [State.setLaunch, State.mapBundles, List.map_map]
    rw [foldl_frame (F := fun t : State => t.sch) (fun t b => by simp) _ _]
    simp only [State.noteArrivals_frame, State.noteLbar_frame]
    refine List.map_congr_left fun u _ => ?_
    simp only [Function.comp]
    split <;> rfl
  · simp

/-- Barriers that may complete are looked at again: no bundle leaves its block. -/
theorem State.recheck_blks (s : State) (b : Nat) : (s.recheck b).sch.bundles.map Bundle.blk = s.sch.bundles.map Bundle.blk := by
  refine (State.lbarCheck_blks _ _).trans ?_
  exact foldl_frame (F := fun t : State => t.sch.bundles.map Bundle.blk) (fun t e => State.barCheck_blks _ _ _ _) _ _

/-- What a launch keeps when it is set to one of its number. -/
theorem State.setLaunch_launch_keeps {α : Type} {s : State} {u : Nat} {x : Launch} (g : Launch → α) (hx : x.uid = (s.launch u).uid) (hg : g x = g (s.launch u)) :
    g ((s.setLaunch x).launch u) = g (s.launch u) := by
  by_cases h : s.launch u = .none
  · rw [State.launch_setLaunch]
    cases hu : s.disp.launches.find? (·.uid == u) with
    | none => rw [h]; rfl
    | some l =>
      have hl : s.launch u = l := by rw [State.launch, hu]; rfl
      simp only [Option.map_some, Option.getD_some]
      split
      · exact hg
      · rw [hl]
  · rw [State.launch_setLaunch_self h (hx.trans (State.launch_found h).2), hg]

theorem State.lbarCheck_disp (s : State) (u : Nat) : (s.lbarCheck u).disp.blocks = s.disp.blocks ∧ ((s.lbarCheck u).launch u).counter = (s.launch u).counter := by
  have hnote : ((s.noteLbar u).launch u).counter = (s.launch u).counter := State.setLaunch_launch_keeps Launch.counter rfl rfl
  have harr : ∀ bs p, ((s.noteLbar u).noteArrivals bs p).disp = (s.noteLbar u).disp := fun bs p => by simp
  unfold State.lbarCheck
  dsimp only
  generalize hv : (s.noteLbar u).noteArrivals (s.liveBlocks u) (fun w => w == Wait.lbar false) = v
  have hdisp : v.disp = (s.noteLbar u).disp := hv ▸ harr _ _
  have hcount : (v.launch u).counter = (s.launch u).counter := (congrArg Launch.counter (State.launch_congr (by rw [hdisp]) u)).trans hnote
  have hblocks : v.disp.blocks = s.disp.blocks := by rw [hdisp]; rfl
  split
  · generalize hfold : List.foldl (fun (t : State) b => t.usedGo b 33) v _ = w
    have hw : w.disp = v.disp := by
      rw [← hfold]
      exact foldl_frame (F := fun t : State => t.disp) (fun t b => by simp) _ _
    refine ⟨by simp only [State.setLaunch, State.mapBundles, hw, hblocks], ?_⟩
    have hl : ∀ f, (w.mapBundles f).launch u = v.launch u := fun f => State.launch_congr (by simp only [State.mapBundles, hw]) u
    refine (State.setLaunch_launch_keeps Launch.counter ?_ ?_).trans ((congrArg Launch.counter (hl _)).trans hcount)
    · rw [hl]
    · rw [hl]
  · exact ⟨hblocks, hcount⟩

@[simp] theorem State.recheck_blocks (s : State) (b : Nat) : (s.recheck b).disp.blocks = s.disp.blocks := by
  rw [State.recheck, (State.lbarCheck_disp _ _).1, (State.checkBars_frame s b).2.2.2.2.2.2.2.1]

theorem State.recheck_counter (s : State) (b : Nat) : ((s.recheck b).launch (s.block b).launch).counter = (s.launch (s.block b).launch).counter := by
  have hbars : (s.checkBars b).disp = s.disp := by simp
  rw [State.recheck, (State.lbarCheck_disp _ _).2, State.launch_congr (congrArg Disp.launches hbars)]

/-- A launch of which a block has completed. -/
def State.childEnded (s : State) (n : Nat) : Launch :=
  let l := s.launch (s.block n).launch
  let k := if (s.block n).primary then l.counter - 1 else l.counter
  { l with counter := k, clearFrom := if k = 0 then s.now else l.clearFrom }

/-- What a block that completes leaves, before barriers that awaited it are looked at. -/
def State.blockEnded (s : State) (n : Nat) : State :=
  let t := ((s.setBlock { s.block n with st := .complete, run := none, placeable := false, inPlace := false, leftAt := s.now }).setLaunch (s.childEnded n)).releaseBlock n
  { t with grd := { t.grd with
    pairs := t.grd.pairs.filter fun (p : Pair) => !((p.primary == n || p.twin == n) && (t.block p.primary).st == BlkState.complete && (t.block p.twin).st == BlkState.complete)
    snaps := t.grd.snaps.filter fun k => k.blk != n } }

theorem exec_blockComplete {n : Nat} {s : State} (h : s.blockOver n = true)
    (hg : (s.launchOf n).guarded = false ∨ (s.launchOf n).stopped = true ∨ s.mayGo n 34 = true) :
    ∃ is, exec (.blockComplete n) s = .next (((s.blockEnded n).recheck n).due is) := by
  have hgo : ¬((s.launch (s.block n).launch).guarded && !(s.launch (s.block n).launch).stopped && !s.mayGo n 34) = true := by
    unfold State.launchOf at hg
    rcases hg with hg | hg | hg <;> simp [hg]
  refine ⟨if (s.childEnded n).counter = 0 then [.levelComplete 0 (s.launch (s.block n).launch).uid] else [], ?_⟩
  change execBlockComplete n s = _
  rw [execBlockComplete, if_neg (by simp [h]), if_neg hgo]
  rfl

theorem State.blockOver_found {s : State} {n : Nat} (h : s.blockOver n = true) : s.block n ≠ .none := by
  unfold State.blockOver at h
  simp only [Bool.and_eq_true, bne_iff_ne, ne_eq] at h
  obtain ⟨⟨⟨⟨hid, -⟩, -⟩, -⟩, -⟩ := h
  exact fun hn => hid (by rw [hn]; rfl)

theorem State.blockEnded_block {s : State} {n : Nat} (h : s.block n ≠ .none) : (s.blockEnded n).block n =
    { s.block n with st := .complete, run := none, placeable := false, inPlace := false, leftAt := s.now } :=
  State.block_setBlock_of_found h (State.block_found h).2

theorem State.blockEnded_frame (s : State) (n : Nat) : (s.blockEnded n).sch.bundles = s.sch.bundles.filter (fun u => u.blk != n) ∧
    (s.blockEnded n).regs = s.regs.offBlock n ∧ (s.blockEnded n).mem.cells = s.mem.cells := ⟨rfl, rfl, rfl⟩

theorem State.blockEnded_counter {s : State} {n : Nat} (h : (s.block n).primary = true) :
    ((s.blockEnded n).launch (s.block n).launch).counter = (s.launchOf n).counter - 1 := by
  have hcount : (s.childEnded n).counter = (s.launchOf n).counter - 1 := by
    unfold State.childEnded
    rw [h]
    rfl
  by_cases hl : s.launch (s.block n).launch = .none
  · have hz : (s.launchOf n).counter = 0 := by rw [State.launchOf, hl]; rfl
    have hkeep := State.setLaunch_launch_keeps (s := s.setBlock { s.block n with st := .complete, run := none, placeable := false, inPlace := false, leftAt := s.now })
      (u := (s.block n).launch) (x := s.childEnded n) Launch.counter rfl (hcount.trans (by rw [hz]; exact hz.symm))
    exact hkeep.trans (hz.trans (by rw [hz]))
  · exact State.setLaunch_launch_at (s := s.setBlock _) Launch.counter hl (State.launch_found hl).2 hcount

theorem execBlockComplete_completes {n : Nat} {s : State} {l : Launch} (hl : l = s.launchOf n) (h : s.blockOver n = true)
    (hg : l.guarded = false ∨ l.stopped = true ∨ s.mayGo n 34 = true) :
    ∃ t, Next (exec (.blockComplete n) s) t ∧ (t.block n).st = .complete ∧ (∀ u ∈ t.sch.bundles, u.blk ≠ n) ∧ t.regs = s.regs.offBlock n ∧
      t.mem.cells = s.mem.cells ∧ ((s.block n).primary = true → (t.launchOf n).counter = l.counter - 1) := by
  subst hl
  obtain ⟨is, hx⟩ := exec_blockComplete h hg
  have hblock := State.blockEnded_block (State.blockOver_found h)
  have hcounter := State.blockEnded_counter (s := s) (n := n)
  obtain ⟨hbundles, hregs, hcells⟩ := s.blockEnded_frame n
  generalize s.blockEnded n = v at hx hblock hbundles hregs hcells hcounter
  have hblocks : ((v.recheck n).due is).block n = v.block n := State.block_congr (by simp) n
  refine ⟨_, hx, ?_, fun u hu => ?_, ?_, ?_, fun hp => ?_⟩
  · rw [hblocks, hblock]
  · have hm := v.recheck_blks n ▸ List.mem_map_of_mem (f := Bundle.blk) hu
    rw [hbundles] at hm
    obtain ⟨v, hv, hvu⟩ := List.mem_map.mp hm
    rw [← hvu]
    simpa using (List.mem_filter.mp hv).2
  · rw [← hregs]
    simp
  · rw [← hcells]
    simp
  · have hcount : ((v.recheck n).launch (s.block n).launch).counter = (v.launch (s.block n).launch).counter := by
      have := v.recheck_counter n
      rwa [hblock] at this
    rw [State.launchOf, hblocks, hblock, State.launch_congr (s := v.recheck n) (t := (v.recheck n).due is) (by simp), hcount, hcounter hp]

end Sys2Proof.Machine

/-!
PROOF (DispatcherEventsComplete: the completion of levels, cancels, and the whole of it: R9 to R11, R73, R204, R306).
-/
namespace Sys2Proof.Machine

-- One theorem after the other: in parallel they ask for more threads than the host allows.
set_option Elab.async false

/-! ## Levels (R306) -/

/-- What a child that is done changes: the levels, and the agenda. -/
theorem State.childDone_disp (s : State) (ctx kind id status queue : Nat) :
    (s.childDone ctx kind id status queue).disp = { s.disp with levels := (s.childDone ctx kind id status queue).disp.levels } ∧
    (s.childDone ctx kind id status queue).regs = s.regs := by
  unfold State.childDone
  dsimp only
  split
  · exact ⟨rfl, rfl⟩
  · split
    · split <;> exact ⟨rfl, rfl⟩
    · exact ⟨rfl, rfl⟩

/-- A level after those of a context, kind and id have been changed. -/
theorem State.mapLevel_level {s : State} {ctx kind id c k i : Nat} {f : Level → Level} (hf : ∀ v, (f v).ctx = v.ctx ∧ (f v).kind = v.kind ∧ (f v).id = v.id) :
    (s.mapLevel ctx kind id f).level c k i = (s.level c k i).map fun v => if c = ctx ∧ k = kind ∧ i = id then f v else v := by
  unfold State.level State.mapLevel
  dsimp only
  rw [List.find?_map]
  have hcomp : (fun v : Level => v.ctx == c && v.kind == k && v.id == i) ∘ (fun v => if (v.ctx == ctx && v.kind == kind && v.id == id) = true then f v else v) =
      fun v => v.ctx == c && v.kind == k && v.id == i := funext fun v => by
    obtain ⟨h1, h2, h3⟩ := hf v
    simp only [Function.comp]
    split <;> simp [h1, h2, h3]
  rw [hcomp]
  cases hv : s.disp.levels.find? fun v => v.ctx == c && v.kind == k && v.id == i with
  | none => rfl
  | some v =>
    have hp := List.find?_some hv
    simp only [Bool.and_eq_true, beq_iff_eq] at hp
    obtain ⟨⟨rfl, rfl⟩, rfl⟩ := hp
    simp only [Option.map_some, Bool.and_eq_true, beq_iff_eq, and_assoc]

/-- A child that is done touches the levels of its parent's kind alone. -/
theorem State.childDone_level {s : State} {ctx kind id status queue c k i : Nat} (h : k ≠ kind) : (s.childDone ctx kind id status queue).level c k i = s.level c k i := by
  have hmap := State.mapLevel_level (s := s) (ctx := ctx) (kind := kind) (id := id) (c := c) (k := k) (i := i)
    (f := fun v => { v with counter := v.counter - 1, anyKilled := v.anyKilled || status == 2, anyCancelled := v.anyCancelled || status == 1, queue := queue })
    fun v => ⟨rfl, rfl, rfl⟩
  have hid : (s.level c k i).map (fun v => if c = ctx ∧ k = kind ∧ i = id then
      { v with counter := v.counter - 1, anyKilled := v.anyKilled || status == 2, anyCancelled := v.anyCancelled || status == 1, queue := queue } else v) = s.level c k i := by
    simp [h]
  unfold State.childDone
  dsimp only
  split
  · rfl
  · split
    · split <;> exact hmap.trans hid
    · exact hmap.trans hid

/-- What a launch that completes leaves: itself ended, and an entry in its queue. -/
theorem State.finishLaunch_disp (s : State) (l : Launch) :
    (s.finishLaunch l).disp.launches = (s.setLaunch { l with
      st := .ended, segState := if l.segState = 1 then 1 else 2, clearFrom := if l.nextBlk = 0 then s.now else l.clearFrom }).disp.launches ∧
    (s.finishLaunch l).disp.queues = mput .init s.disp.queues l.queue { s.queue l.queue with cwritten := (s.queue l.queue).cwritten + 1 } ∧
    (s.finishLaunch l).regs = s.regs := by
  unfold State.finishLaunch
  dsimp only
  refine ⟨?_, ?_, ?_⟩
  · rw [(State.childDone_disp _ _ _ _ _ _).1, State.writeEntry_disp]
    rfl
  · rw [(State.childDone_disp _ _ _ _ _ _).1, State.writeEntry_disp]
    rfl
  · rw [(State.childDone_disp _ _ _ _ _ _).2, State.writeEntry_regs]
    rfl

theorem execLevelComplete_launch {n : Nat} {s t : State} {l : Launch} (hl : l = { s.launch n with st := .ending }) (h : s.launchOver (s.launch n) = true)
    (ht : t = (s.endPins fun p => p.ofLevel l.ctx 0 n).setLaunch l) :
    (t.pinsLeft l.ctx 0 n = true → Next (exec (.levelComplete 0 n) s) t) ∧
    (t.pinsLeft l.ctx 0 n = false → ∃ u, Next (exec (.levelComplete 0 n) s) u ∧ (u.launch n).st = .ended ∧
      (u.queue l.queue).cwritten = (s.queue l.queue).cwritten + 1 ∧ u.regs = s.regs) := by
  have hx : exec (.levelComplete 0 n) s = .next (if t.pinsLeft l.ctx 0 n then t else t.finishLaunch l) := by
    subst ht hl
    change execLevelComplete 0 n s = _
    rw [execLevelComplete, if_pos rfl]
    exact if_neg (by simp [h])
  rw [hx]
  refine ⟨fun hp => congrArg _ (if_pos hp), fun hp => ⟨_, congrArg _ (if_neg (Bool.eq_false_iff.mp hp)), ?_⟩⟩
  have hne : s.launch n ≠ .none := fun hn => by
    rw [hn] at h
    cases h
  have htl : t.launch n = l := by
    rw [ht]
    exact State.launch_setLaunch_self (s := s.endPins _) hne (by rw [hl]; exact (State.launch_found hne).2)
  have hnone : t.launch n ≠ .none := fun hn => by
    have hst : l.st = .ended := by rw [← htl, hn]; rfl
    rw [hl] at hst
    cases hst
  obtain ⟨h1, h2, h3⟩ := State.finishLaunch_disp t l
  refine ⟨?_, ?_, ?_⟩
  · rw [State.launch_congr h1]
    exact State.setLaunch_launch_at Launch.st hnone (by rw [← htl]; exact (State.launch_found hnone).2) rfl
  · rw [State.queue, h2, mget_mput_self, ht]
    rfl
  · rw [h3, ht]
    rfl

/-- What a graph, phase or job that completes leaves of it. -/
theorem State.finishLevel_level {s : State} {v : Level} (h : s.level v.ctx v.kind v.id = some v) :
    (s.finishLevel v).level v.ctx v.kind v.id = some { v with ended := true } ∧ (s.finishLevel v).regs = s.regs := by
  have hset : (s.mapLevel v.ctx v.kind v.id fun x => { x with ended := true }).level v.ctx v.kind v.id = some { v with ended := true } := by
    rw [State.mapLevel_level (f := fun x => { x with ended := true }) fun _ => ⟨rfl, rfl, rfl⟩, h]
    simp
  unfold State.finishLevel
  dsimp only
  generalize hw : State.writeEntry _ _ _ _ _ _ _ = w
  have hwl : w.level v.ctx v.kind v.id = some { v with ended := true } := by
    rw [State.level, ← hw, State.writeEntry_disp]
    exact hset
  have hwr : w.regs = s.regs := by
    rw [← hw, State.writeEntry_regs]
    rfl
  split
  · exact ⟨hwl, hwr⟩
  · exact ⟨(State.childDone_level (by omega)).trans hwl, (State.childDone_disp _ _ _ _ _ _).2.trans hwr⟩

theorem execLevelComplete_level {n kind : Nat} {s t : State} {v : Level} (hk : kind ≠ 0) (hv : s.level (n / 2 ^ 32) kind (n % 2 ^ 32) = some v)
    (h : v.isOver = true) (ht : t = (s.endPins fun p => p.ofLevel v.ctx kind v.id)) :
    (t.pinsLeft v.ctx kind v.id = true → Next (exec (.levelComplete kind n) s) t) ∧
    (t.pinsLeft v.ctx kind v.id = false → ∃ u w, Next (exec (.levelComplete kind n) s) u ∧ u.level (n / 2 ^ 32) kind (n % 2 ^ 32) = some w ∧
      w.ended = true ∧ u.regs = s.regs) := by
  have hx : exec (.levelComplete kind n) s = .next (if t.pinsLeft v.ctx kind v.id then t else t.finishLevel v) := by
    subst ht
    change execLevelComplete kind n s = _
    rw [execLevelComplete, if_neg hk, hv]
    exact if_neg (by simp [h])
  rw [hx]
  refine ⟨fun hp => congrArg _ (if_pos hp), fun hp => ⟨_, { v with ended := true }, congrArg _ (if_neg (Bool.eq_false_iff.mp hp)), ?_⟩⟩
  have hp := List.find?_some hv
  simp only [Bool.and_eq_true, beq_iff_eq] at hp
  obtain ⟨⟨hc, hkind⟩, hid⟩ := hp
  have htv : t.level v.ctx v.kind v.id = some v := by
    rw [ht, hc, hkind, hid]
    exact hv
  obtain ⟨h1, h2⟩ := State.finishLevel_level htv
  refine ⟨?_, rfl, by rw [h2, ht]; rfl⟩
  rw [← hc, ← hkind, ← hid]
  exact h1

/-! ## Cancels (R204) -/

/-- Launches stopped one after the other, all of them in the table. -/
theorem foldl_stopLaunch (ls : List Launch) (s : State) (h : ∀ l ∈ ls, l.uid ∈ s.disp.launches.map fun l => l.uid) :
    s.StopsOnly (ls.foldl (fun t l => t.stopLaunch l.uid 1) s) ∧ ∀ l ∈ ls, ((ls.foldl (fun t l => t.stopLaunch l.uid 1) s).launch l.uid).stopped = true := by
  induction ls generalizing s with
  | nil => exact ⟨.refl s, fun l hl => (by cases hl)⟩
  | cons x ls ih =>
    have hstop := s.stopLaunch_stopsOnly x.uid 1
    obtain ⟨h1, h2⟩ := ih (s.stopLaunch x.uid 1) fun l hl => by
      rw [hstop.uids]
      exact h l (List.mem_cons_of_mem _ hl)
    refine ⟨hstop.trans h1, fun l hl => ?_⟩
    rcases List.mem_cons.mp hl with rfl | hl
    · refine h1.stopped _ ((s.stopLaunch_stopped l.uid 1).resolve_right fun hno => ?_)
      obtain ⟨y, hy, hyu⟩ := List.mem_map.mp (h l List.mem_cons_self)
      exact hno y hy hyu
    · exact h2 l hl

theorem execCancelArrive_stops {s : State} {c : CancelRec} {rest : List CancelRec} (h : s.disp.cancels = c :: rest) :
    ∃ t, Next (exec .cancelArrive s) t ∧ t.disp.cancels = rest ∧ t.regs = s.regs ∧ t.mem = s.mem ∧
      ∀ l ∈ s.disp.launches, l.inLevel c.ctx c.kind c.id = true → (t.launch l.uid).stopped = true := by
  rw [show exec .cancelArrive s = execCancelArrive s from rfl, execCancelArrive, h]
  refine ⟨_, rfl, ?_⟩
  unfold State.cancelNow
  dsimp only
  obtain ⟨-, hstop⟩ := foldl_stopLaunch (s.disp.launches.filter fun l => l.inLevel c.ctx c.kind c.id) { s with disp := { s.disp with cancels := rest } }
    fun l hl => List.mem_map_of_mem (f := fun l : Launch => l.uid) (List.mem_filter.mp hl).1
  refine ⟨?_, ?_, ?_, fun l hl hin => hstop l (List.mem_filter.mpr ⟨hl, hin⟩)⟩
  · exact foldl_frame (F := fun t : State => t.disp.cancels) (fun t l => by simp [State.stopLaunch, State.due, State.setLaunch]) _ _
  · exact foldl_frame (F := fun t : State => t.regs) (fun t l => by simp [State.stopLaunch, State.due, State.setLaunch]) _ _
  · exact foldl_frame (F := fun t : State => t.mem) (fun t l => by simp [State.stopLaunch, State.due, State.setLaunch]) _ _

theorem State.noteOver_sch (s : State) (b : Nat) : (s.noteOver b).sch = { s.sch with agenda := (s.noteOver b).sch.agenda } := by
  unfold State.noteOver
  split <;> rfl

/-- What discarding a stopped block's operations leaves of the threads and of the block. -/
theorem State.stopDone_threads (s : State) (b : Nat) : (s.stopDone b).sch.bins = s.sch.bins ∧ (s.stopDone b).sch.bundles = s.sch.bundles ∧
    (s.block b ≠ .none → ((s.stopDone b).block b).st = (s.block b).st) := by
  unfold State.stopDone
  dsimp only
  generalize hv : State.lapseHolds _ b = v
  have hsch : v.sch.bins = s.sch.bins ∧ v.sch.bundles = s.sch.bundles := by
    rw [← hv, (State.lapseHolds_frame _ _).2.1]
    exact ⟨rfl, rfl⟩
  have hdisp : v.disp = s.disp := by
    rw [← hv, (State.lapseHolds_frame _ _).2.2.2.2.2.2.2.2.1]
    rfl
  rw [State.noteOver_sch]
  refine ⟨by simpa using hsch.1, by simpa using hsch.2, fun h => ?_⟩
  rw [State.block_congr (s := v.setBlock _) (by simp; rfl)]
  have hb : v.block b = s.block b := State.block_congr (by rw [hdisp]) b
  exact State.setBlock_block_at Block.st (by rw [hb]; exact h) (State.block_found h).2 rfl

/-- What stopping a block leaves of the threads: those that wait are gone, and those that run go on to their next header. -/
def State.cutBlock (s : State) (n : Nat) : State :=
  let x := s.block n
  let runs := x.st == .running || x.st == .draining || x.st == .stopping
  let t := s.setBlock { x with st := .stopping }
  let keep := fun (u : Bundle) => u.blk != n || (runs && !u.stopsNow)
  let on := fun (c : Nat) => !(s.halted n c (c == feedCrew)) && !s.crewBusy n c
  let cut := fun (u : Bundle) => if u.blk != n then u else if u.feed then { u with feed := on feedCrew } else { u with members := u.members.filter fun m => on m.crew }
  { t with sch := { t.sch with
    bins := t.sch.bins.filter fun m => m.blk != n
    arrs := t.sch.arrs.filter fun r => r.blk != n
    bundles := ((t.sch.bundles.filter keep).map cut).filter fun u => u.feed || !u.members.isEmpty } }

theorem exec_cancelStop {n : Nat} {s : State} (h : (s.launchOf n).stopped = true) (hst : (s.block n).st ≠ .complete) :
    exec (.cancelStop n) s = .next (if (s.cutBlock n).everyBundle.any fun u => u.blk == n then s.cutBlock n else (s.cutBlock n).stopDone n) := by
  change execCancelStop n s = _
  rw [execCancelStop, if_neg (by unfold State.launchOf at h; simp [h, hst])]
  rfl

theorem State.cutBlock_bundles {s : State} {n : Nat} : ∀ u ∈ (s.cutBlock n).sch.bundles, u.blk = n → u.stopsNow = false := by
  intro u hu hn
  obtain ⟨v, hv, rfl⟩ := List.mem_map.mp (List.mem_filter.mp hu).1
  have hkeep := (List.mem_filter.mp hv).2
  by_cases hvn : v.blk = n
  · have hrun : v.stopsNow = false := by
      simp only [hvn, bne_self_eq_false, Bool.false_or, Bool.and_eq_true, Bool.not_eq_true'] at hkeep
      exact hkeep.2
    rw [if_neg (by simp [hvn])]
    split <;> exact hrun
  · rw [if_pos (by simpa using hvn)] at hn
    exact absurd hn hvn

theorem execCancelStop_stops {n : Nat} {s : State} (h : (s.launchOf n).stopped = true) (hst : (s.block n).st ≠ .complete) :
    ∃ t, Next (exec (.cancelStop n) s) t ∧ (t.block n).st = .stopping ∧ (∀ m ∈ t.sch.bins, m.blk ≠ n) ∧ t.mem = s.mem ∧
      ∀ u ∈ t.sch.bundles, u.blk = n → u.stopsNow = false := by
  have hne : s.block n ≠ .none := fun hn => hst (by rw [hn]; rfl)
  have hcut : (s.cutBlock n).block n = { s.block n with st := .stopping } := State.block_setBlock_of_found hne (State.block_found hne).2
  have hbins : ∀ m ∈ (s.cutBlock n).sch.bins, m.blk ≠ n := fun m hm => by simpa using (List.mem_filter.mp hm).2
  refine ⟨_, exec_cancelStop h hst, ?_⟩
  split
  · exact ⟨by rw [hcut], hbins, rfl, State.cutBlock_bundles⟩
  · obtain ⟨h1, h2, h3⟩ := (s.cutBlock n).stopDone_threads n
    refine ⟨?_, by rw [h1]; exact hbins, by rw [(State.stopDone_frame _ _).2.1]; rfl, by rw [h2]; exact State.cutBlock_bundles⟩
    rw [h3 ?_, hcut]
    exact fun hn => by cases congrArg Block.st (hcut.symm.trans hn)

/-! ## The obligation -/

theorem execLaunchRelease_cases {n : Nat} {s : State} (hw : (s.launch n).st = .waiting) (hs : (s.launch n).stopped = false) :
    ((∃ p ∈ s.preds (s.launch n), ∃ c, p = some c ∧ c ≠ 0) → Next (exec (.launchRelease n) s) (s.stopLaunch n 1)) ∧
    ((∀ p ∈ s.preds (s.launch n), p = some 0) → s.segBusy (s.launch n) = false →
      Next (exec (.launchRelease n) s) (s.setLaunch { s.launch n with
        st := if (s.launch n).glen = 0 then .cleared else .released, releasedAt := s.now, waitFrom := s.now, clearFrom := s.now })) := by
  have hx : exec (.launchRelease n) s = execLaunchRelease n s := rfl
  rw [hx, execLaunchRelease]
  dsimp only
  rw [if_neg (by simp [hw, hs])]
  constructor
  · rintro ⟨p, hp, c, rfl, hc⟩
    refine if_pos (List.any_eq_true.mpr ⟨_, hp, ?_⟩)
    simpa using hc
  · intro hall hseg
    rw [if_neg, if_neg]
    · rw [Bool.or_eq_true, hseg, List.any_eq_true]
      rintro (⟨p, hp, hnone⟩ | h)
      · rw [hall p hp] at hnone
        cases hnone
      · cases h
    · rw [List.any_eq_true]
      rintro ⟨p, hp, h⟩
      rw [hall p hp] at h
      simp at h

/-- Settles O43: each event is its own next state; what is left to say of one is what its parts leave of the tables of the dispatcher. -/
theorem dispatcherEventsComplete : Obligations.DispatcherEventsComplete := by
  unfold Obligations.DispatcherEventsComplete
  intro n kind s
  refine ⟨fun u x h => ⟨?_, fun ht => ?_⟩, fun b core h => ?_, fun h => execCrewStart_runs h, fun hu hf => ?_, fun h => ?_, fun h pa hpa => execCxlSnoop_drops h hpa,
    fun hw hr => ?_, fun hw u v ahead hu hv ha => execTailReread_reads hw hu hv ha, fun hm hr => ?_, fun hm x l u hx hu hl => execRecordTake_takes hm hx hu hl,
    fun hw hs => execLaunchRelease_cases hw hs, fun l hl h => execSegmentClear_released hl h, fun l hl hr h h1 => execSegmentClear_ended hl hr h h1,
    fun l hl h hg => execBlockComplete_completes hl h hg, fun l t hl h ht => execLevelComplete_launch hl h ht,
    fun v t hk hv h ht => execLevelComplete_level hk hv h ht, fun c rest h => execCancelArrive_stops h, fun h hst => execCancelStop_stops h hst⟩
  · change execPlaceBlock s = _
    rw [execPlaceBlock, h]
  · exact State.placeAt_blocks s (s.launch u) ht
  · change execPlaceBlock s = _
    rw [execPlaceBlock, h]
  · change execLaunchBlocking n s = _
    rw [execLaunchBlocking]
    exact if_pos (by simp [hu, hf])
  · change execCxlSnoop n s = _
    rw [execCxlSnoop, if_pos h]
  · change execTailReread n s = _
    rw [execTailReread, if_pos hw, hr]
  · change execRecordTake n s = _
    rw [execRecordTake, if_pos hm, hr]

end Sys2Proof.Machine

/-!
PROOF (SwapEventsComplete: R319, R321, R361).
-/
namespace Sys2Proof.Machine

-- One theorem after the other: in parallel they ask for more threads than the host allows.
set_option Elab.async false

/-- Block 0 of a pair whose other half is in no table comes back while its energy quota is spent. -/
def restoredAlone : State :=
  { State.reset with
    disp := { State.reset.disp with blocks := [{ Block.none with st := .restoring, quotaWait := true }] }
    grd := { State.reset.grd with pairs := [Pair.fresh 0 7 []] } }

/-- The state of block 0 after the end of its restore. -/
theorem restoredAlone_after : exec (.swapRestoreDone 0) restoredAlone = .next ((restoredAlone.acquire 0 3).runAgain 0 |>.stopHalves 0 3) := by
  change execSwapRestoreDone 0 restoredAlone = _
  rfl

/-- Refutes O44: a pre-emption looks at the watchdogs of both halves of a pair, and one that is in no table reads as the record of block number 0, complete, which is
then put in place of block 0: the block that has just been restored, and is to wait for its quota, is left complete. -/
theorem not_swapEventsComplete : ¬ Obligations.SwapEventsComplete := by
  unfold Obligations.SwapEventsComplete
  intro h
  obtain ⟨-, -, hrestore, -⟩ := h 0 0 restoredAlone
  have hst : (restoredAlone.block 0).st = .restoring := by decide +kernel
  have htouch : (restoredAlone.touchRun 0 .read).isSome = true := by decide +kernel
  have hwait : (restoredAlone.block 0).quotaWait = true := by decide +kernel
  obtain ⟨t, hnext, ht, -⟩ := (hrestore hst).2 htouch
  rw [if_pos hwait] at ht
  obtain rfl := Host.Outcome.next.inj (restoredAlone_after.symm.trans hnext)
  have hcomplete : ((((restoredAlone.acquire 0 3).runAgain 0).stopHalves 0 3).block 0).st = .complete := by decide +kernel
  rw [ht] at hcomplete
  cases hcomplete

end Sys2Proof.Machine

/-!
PROOF (EngineEventsComplete: R99, R101, R229 to R232, R242, R294 to R296).
-/
namespace Sys2Proof.Machine

-- One theorem after the other: in parallel they ask for more threads than the host allows.
set_option Elab.async false

/-! ## Writes of many keys -/

theorem mget_mputs_of_notMem {α : Type} [DecidableEq α] {d : α} {m : SMap α} {l : List (Nat × α)} {k : Nat} (h : k ∉ l.map fun e => e.1) :
    mget d (mputs d m l) k = mget d m k := by
  unfold mputs
  induction l generalizing m with
  | nil => rfl
  | cons e l ih =>
    rw [List.map_cons, List.mem_cons, not_or] at h
    rw [List.foldl_cons, ih h.2, mget_mput_ne _ _ _ h.1]

theorem mget_mputs_of_mem {α : Type} [DecidableEq α] {d : α} {m : SMap α} {l : List (Nat × α)} {e : Nat × α} (hl : (l.map fun e => e.1).Nodup) (he : e ∈ l) :
    mget d (mputs d m l) e.1 = e.2 := by
  induction l generalizing m with
  | nil => cases he
  | cons x l ih =>
    rw [List.map_cons, List.nodup_cons] at hl
    rcases List.mem_cons.mp he with rfl | he
    · exact (mget_mputs_of_notMem hl.1).trans (mget_mput_self _ _ _ _)
    · exact ih hl.2 he

/-- Values written at consecutive keys. -/
def keyed {α : Type} (base : Nat) (row : List α) : List (Nat × α) := ((List.range row.length).zip row).map fun e => (base + e.1, e.2)

theorem keyed_map_fst {α : Type} (base : Nat) (row : List α) : ((keyed base row).map fun e => e.1) = (List.range row.length).map (base + ·) := by
  rw [keyed, List.map_map]
  have : (fun e : Nat × α => e.1) ∘ (fun e : Nat × α => (base + e.1, e.2)) = (base + ·) ∘ Prod.fst := rfl
  rw [this, ← List.map_map, List.map_fst_zip (by simp)]

theorem nodup_range_map_add (base n : Nat) : ((List.range n).map (base + ·)).Nodup :=
  List.pairwise_map.mpr (List.nodup_range.imp fun h hadd => h (Nat.add_left_cancel hadd))

theorem mget_keyed {α : Type} [DecidableEq α] (d : α) (m : SMap α) (base : Nat) (row : List α) :
    (List.range row.length).map (fun i => mget d (mputs d m (keyed base row)) (base + i)) = row := by
  refine List.ext_getElem (by simp) fun i h1 h2 => ?_
  simp only [List.getElem_map, List.getElem_range]
  refine mget_mputs_of_mem (e := (base + i, row[i])) ?_ ?_
  · rw [keyed_map_fst]
    exact nodup_range_map_add base _
  · exact List.mem_map.mpr ⟨(i, row[i]), List.mem_iff_getElem.mpr ⟨i, by simpa using h2, by simp⟩, rfl⟩

theorem mget_keyed_of_lt_or_le {α : Type} [DecidableEq α] (d : α) (m : SMap α) {base k : Nat} (row : List α) (h : k < base ∨ base + row.length ≤ k) :
    mget d (mputs d m (keyed base row)) k = mget d m k := by
  refine mget_mputs_of_notMem fun hk => ?_
  rw [keyed_map_fst, List.mem_map] at hk
  obtain ⟨i, hi, rfl⟩ := hk
  rw [List.mem_range] at hi
  omega

/-! ## Heat decay (R295) -/

theorem mget_foldl_change {α : Type} [DecidableEq α] {d : α} {p : α → Prop} [DecidablePred p] {g : α → α} (hd : ¬p d) {l m : SMap α} (hl : mwf d l = true) (k : Nat) :
    mget d (l.foldl (fun m e => if p e.2 then mput d m e.1 (g e.2) else m) m) k = if p (mget d l k) then g (mget d l k) else mget d m k := by
  induction l generalizing m with
  | nil => simp [mget, hd]
  | cons e l ih =>
    obtain ⟨n, v⟩ := e
    simp only [mwf, Bool.and_eq_true, List.all_eq_true, decide_eq_true_eq] at hl
    obtain ⟨⟨-, hlt⟩, hwf⟩ := hl
    rw [List.foldl_cons, ih hwf, mget]
    by_cases hk : n = k
    · subst hk
      have hnone : mget d l n = d := (mget_eq_or_mem d l n).resolve_right fun hm => Nat.lt_irrefl _ (hlt _ hm)
      rw [hnone, if_neg hd, if_pos rfl]
      split
      · exact mget_mput_self _ _ _ _
      · rfl
    · rw [if_neg hk]
      split
      · rfl
      · split
        · exact mget_mput_ne _ _ _ (Ne.symm hk)
        · rfl

theorem execHeatDecay_halves {s : State} (h : mwf KvPage.init s.kv.pages = true) : ∃ t, Next (exec .heatDecay s) t ∧ t.regs = s.regs ∧ t.mem = s.mem ∧
    ∀ c p, t.page c p = if 0 < (s.page c p).count then { s.page c p with heat := (s.page c p).heat / 2 } else s.page c p := by
  refine ⟨_, rfl, rfl, rfl, fun c p => ?_⟩
  exact mget_foldl_change (p := fun x : KvPage => 0 < x.count) (g := fun (x : KvPage) => { x with heat := x.heat / 2 }) (by decide) h _

/-! ## Accesses of a unit -/

namespace State.Accessed

theorem reachSlice {s t : State} {slice n : Nat} {v : Via} {write : Bool} (h : s.reachSlice slice n v write = some t) : s.Accessed t := by
  unfold State.reachSlice at h
  dsimp only at h
  split at h
  · cases h
  · cases h
    exact foldl (fun t _ => crossAll t _) _ _

theorem arrayReads (lid : Nat) (ls : List (Nat × Nat)) (s : State) : s.Accessed (s.arrayReads lid ls) := by
  unfold State.arrayReads
  refine foldl (fun t p => ?_) _ _
  split
  · exact (foldl (fun t y => decodeLine t _ _ _ _) _ _).trans (busTransfer _ _ _ _)
  · exact refl t

theorem linesWritten (s : State) (ls : List (Nat × Nat)) : s.Accessed (s.linesWritten ls) :=
  (arrayWrites _ _).trans (foldl (fun t _ => monWrite t _ _) _ _)

theorem backAdmit {s : State} {ctx : Nat} {r : Reserve} {write : Bool} {v : Via} {pas : List Nat} {q : State × List (Nat × Nat)}
    (h : s.backAdmit ctx r write v pas = some q) : s.Accessed q.1 := by
  induction pas generalizing s q with
  | nil =>
    cases h
    exact refl s
  | cons pa pas ih =>
    rw [State.backAdmit] at h
    obtain ⟨t, ht, h⟩ := Option.bind_eq_some_iff.mp h
    obtain ⟨p, hp, rfl⟩ := Option.map_eq_some_iff.mp h
    change s.Accessed p.1
    exact (admitLine ht).trans (ih hp)

theorem backRead {s t : State} {ctx : Nat} {r : Reserve} {v : Via} {pas : List Nat} (h : s.backRead ctx r v pas = some t) : s.Accessed t := by
  obtain ⟨q, hq, rfl⟩ := Option.map_eq_some_iff.mp h
  exact (backAdmit hq).trans (arrayReads _ _ _)

theorem backWrite {s t : State} {ctx : Nat} {r : Reserve} {v : Via} {ls : List (Nat × List (Byte × Bool))} (h : s.backWrite ctx r v ls = some t) : s.Accessed t := by
  obtain ⟨q, hq, rfl⟩ := Option.map_eq_some_iff.mp h
  exact (backAdmit hq).trans ((foldl (fun u l => (homePut u _ _ _).trans (poisonHome _ _ _ _)) _ _).trans (linesWritten _ _))

theorem evictPair {s t : State} {ctx page : Nat} {x : KvPage} {r : Reserve} {q : Nat} (h : s.evictPair ctx page x r q = some t) : s.Accessed t :=
  (arrayReads _ _ _).trans (backWrite h)

end State.Accessed

theorem State.reachSlice_mem {s t : State} {slice n : Nat} {v : Via} {write : Bool} (h : s.reachSlice slice n v write = some t) :
    t.mem = s.mem ∧ t.pipe = s.pipe := by
  unfold State.reachSlice at h
  dsimp only at h
  split at h
  · cases h
  · cases h
    exact ⟨foldl_mem _ _ (fun t _ => by simp) _, foldl_frame (F := fun t : State => t.pipe) (fun t _ => by simp) _ _⟩

theorem State.page_congr {s t : State} (h : t.kv.pages = s.kv.pages) (ctx p : Nat) : t.page ctx p = s.page ctx p := by rw [State.page, h, State.page]

@[simp] theorem State.page_setPage_self (s : State) (ctx p : Nat) (x : KvPage) : (s.setPage ctx p x).page ctx p = x := mget_mput_self _ _ _ _

theorem State.page_setPage_ne (s : State) {ctx p q : Nat} (x : KvPage) (h : p ≠ q) : (s.setPage ctx p x).page ctx q = s.page ctx q :=
  mget_mput_ne _ _ _ (by unfold pageKey; omega)

theorem State.freePage_page (s : State) (ctx p : Nat) : (s.freePage ctx p).page ctx p = .init := State.page_setPage_self _ _ _ _

theorem State.kvReach_frame {s t : State} {o : KvRec} {p n : Nat} {write : Bool} (h : s.kvReach o p n write = some t) :
    t.kv = s.kv ∧ t.regs = s.regs ∧ t.mem = s.mem ∧ t.pipe = s.pipe := by
  unfold State.kvReach at h
  split at h
  · cases h
    exact ⟨rfl, rfl, rfl, rfl⟩
  · have ha := State.Accessed.reachSlice h
    obtain ⟨h1, h2⟩ := State.reachSlice_mem h
    exact ⟨ha.kv, ha.regs, h1, h2⟩

/-! ## Engines -/

theorem State.engCharge_ok {s c : State} {e : Engine} {cs : List Nat} (h : s.engCharge e cs = .ok c) : c.kv = s.kv ∧ c.regs = s.regs := by
  unfold State.engCharge at h
  dsimp only at h
  split at h
  · cases h
    simp [State.mapEngine]
  · split at h
    · cases h
    · split at h <;> cases h
      simp

theorem execEngineWriteLand_moves {n : Nat} {s : State} {e : Engine} (he : s.engine n = some e) (hm : e.moves ≠ []) :
    exec (.engineWriteLand n) s = match s.engCharge e (chargesOfMoves (s.nextMoves e)) with
      | .error t => .next t
      | .ok t => match t.performMoves e (s.nextMoves e) with
        | none => .next s
        | some u => .next (u.mapEngine n fun x => { x with moves := x.moves.drop (s.nextMoves e).length, at' := s.now }) := by
  change execEngineWriteLand n s = _
  obtain ⟨m, rest, hmr⟩ := List.exists_cons_of_ne_nil hm
  rw [execEngineWriteLand, he]
  dsimp only
  rw [hmr] <;> rfl

theorem State.engine_congr {s t : State} (h : t.sp.engines = s.sp.engines) (n : Nat) : t.engine n = s.engine n := by rw [State.engine, h, State.engine]

theorem State.engine_mapEngine (s : State) (n : Nat) {f : Engine → Engine} (hf : ∀ e, (f e).id = e.id) : (s.mapEngine n f).engine n = (s.engine n).map f := by
  unfold State.engine State.mapEngine
  dsimp only
  rw [List.find?_map]
  have hcomp : (fun e : Engine => e.id == n) ∘ (fun e => if (e.id == n) = true then f e else e) = fun e => e.id == n := funext fun e => by
    simp only [Function.comp]
    split <;> simp [hf]
  rw [hcomp]
  cases he : s.sp.engines.find? fun e => e.id == n with
  | none => rfl
  | some e => rw [Option.map_some, if_pos (List.find?_some he), Option.map_some]

/-! ## Appends (R229) -/

/-- What writing a row of a resident page leaves: the row there, every other page as it is, and the page but for its slot and its dirty bit. -/
structure State.RowWritten (ctx p slot : Nat) (row : List (BitVec 16)) (s t : State) : Prop where
  row : t.rowOf ctx p slot = row
  page : t.page ctx p = { s.page ctx p with present := (s.page ctx p).present ||| 1 <<< slot, dirty := (s.page ctx p).dirty || (s.page ctx p).st == .resident }
  pages : ∀ q, p ≠ q → t.page ctx q = s.page ctx q
  rows : ∀ q j, p ≠ q → j < 64 → t.rowOf ctx q j = s.rowOf ctx q j
  regs : t.regs = s.regs
  engine : ∀ n, t.engine n = s.engine n

theorem State.rowOf_congr {s t : State} (h : t.kv.rows = s.kv.rows) (ctx p j : Nat) : t.rowOf ctx p j = s.rowOf ctx p j := by rw [State.rowOf, h, State.rowOf]

theorem State.appendRow_resident {s t : State} {v : Via} {ctx p slot : Nat} {r : Reserve} {row : List (BitVec 16)} (hres : (s.page ctx p).st = .resident)
    (hslot : slot < 64) (hrow : row.length = 256) (h : s.appendRow v ctx p slot r row = some t) : State.RowWritten ctx p slot row s t := by
  unfold State.appendRow at h
  dsimp only at h
  obtain ⟨u, hu, h⟩ := Option.bind_eq_some_iff.mp h
  have hacc := State.Accessed.reachSlice hu
  rw [if_neg (by rw [hres]; decide)] at h
  cases h
  have hkv : ∀ ls w, ((u.setElems ctx p (8 * slot) row).arrayWrites ls |>.setPage ctx p w).kv.rows =
      mputs 0 s.kv.rows (keyed (pageKey ctx p * 16384 + 32 * (8 * slot)) row) := fun ls w => by
    simp only [State.setPage, State.arrayWrites_frame, State.setElems, hacc.kv]
    rfl
  refine ⟨?_, State.page_setPage_self _ _ _ _, fun q hq => ?_, fun q j hq hj => ?_, ?_, fun n => State.engine_congr ?_ n⟩
  · unfold State.rowOf
    rw [hkv]
    have := mget_keyed 0 s.kv.rows (pageKey ctx p * 16384 + 32 * (8 * slot)) row
    rw [hrow, show 32 * (8 * slot) = 256 * slot from by omega] at this
    rwa [show 32 * (8 * slot) = 256 * slot from by omega]
  · rw [State.page_setPage_ne _ _ hq]
    refine State.page_congr ?_ ctx q
    simp only [State.arrayWrites_frame, State.setElems, hacc.kv]
  · unfold State.rowOf
    rw [hkv]
    refine List.map_congr_left fun c hc => mget_keyed_of_lt_or_le _ _ _ ?_
    rw [List.mem_range] at hc
    rw [hrow]
    unfold pageKey
    omega
  · simp only [State.setPage, State.arrayWrites_frame, State.setElems, hacc.regs]
  · simp only [State.setPage, State.arrayWrites_frame, State.setElems, hacc.sp]

/-- What widening a hallmark leaves: the page is a key page, and nothing else moves that an append writes. -/
theorem State.widenHall_page (s : State) (ctx p ch : Nat) (row : List (BitVec 16)) : (s.widenHall ctx p ch row).page ctx p = { s.page ctx p with isKey := true } ∧
    (∀ q, p ≠ q → (s.widenHall ctx p ch row).page ctx q = s.page ctx q) :=
  ⟨State.page_setPage_self _ _ _ _, fun _ hq => State.page_setPage_ne _ _ hq⟩

theorem execKvappPerform_writes {n ctx k u slot : Nat} {s c : State} {e : Engine} {krow vrow : List (BitVec 16)} {rest : List Move} {r : Reserve} (he : s.engine n = some e)
    (hm : e.moves = .kvWrite ctx k u slot krow vrow :: rest) (hr : s.reserveAt ctx e.gen = some r)
    (hk : (s.page ctx k).st = .resident) (hu : (s.page ctx u).st = .resident) (hne : k ≠ u) (hslot : slot < 64) (hkrow : krow.length = 256) (hvrow : vrow.length = 256)
    (hc : s.engCharge e (chargesOfMoves [.kvWrite ctx k u slot krow vrow]) = .ok c) {v : Via}
    (hv : v = ({ unitVia (c.block e.blk).core 64 with at' := e.at' } : Via)) :
    (((c.appendRow v ctx k slot r krow).bind fun t => t.appendRow v ctx u slot r vrow) = none → Next (exec (.kvappPerform n) s) s) ∧
    (((c.appendRow v ctx k slot r krow).bind fun t => t.appendRow v ctx u slot r vrow) ≠ none →
    ∃ t, Next (exec (.kvappPerform n) s) t ∧ t.rowOf ctx k slot = krow ∧ t.rowOf ctx u slot = vrow ∧ t.regs = s.regs ∧
      (t.page ctx k).present = (s.page ctx k).present ||| 1 <<< slot ∧ (t.page ctx u).present = (s.page ctx u).present ||| 1 <<< slot ∧
      (t.page ctx k).isKey = true ∧ t.engine n = (c.engine n).map fun x => { x with moves := rest }) := by
  subst hv
  have hready : ∀ p, (s.page ctx p).st = .resident → s.readyPage ctx p k u r = (s, true) := fun p hp => by
    unfold State.readyPage
    dsimp only
    rw [hp]
  have hx : exec (.kvappPerform n) s = execKvappPerform n s := rfl
  rw [hx, execKvappPerform, he]
  dsimp only
  rw [hm]
  dsimp only
  rw [hr]
  dsimp only
  rw [hready k hk]
  dsimp only
  rw [if_neg (by decide), hready u hu]
  dsimp only
  rw [if_neg (by decide), hc]
  dsimp only
  refine ⟨fun hno => by rw [hno], fun hsome => ?_⟩
  obtain ⟨w, hw⟩ := Option.ne_none_iff_exists'.mp hsome
  rw [hw]
  obtain ⟨a, ha, hw⟩ := Option.bind_eq_some_iff.mp hw
  obtain ⟨hckv, hcregs⟩ := State.engCharge_ok hc
  have hpc : ∀ p, c.page ctx p = s.page ctx p := fun p => State.page_congr (by rw [hckv]) ctx p
  have h1 := State.appendRow_resident (by rw [hpc]; exact hk) hslot hkrow ha
  have h2 := State.appendRow_resident (by rw [h1.pages u hne, hpc]; exact hu) hslot hvrow hw
  obtain ⟨hwk, hwo⟩ := w.widenHall_page ctx k r.ch krow
  have hpk : w.page ctx k = a.page ctx k := h2.pages k (Ne.symm hne)
  refine ⟨_, rfl, ?_, ?_, ?_, ?_, ?_, ?_, ?_⟩
  · exact (h2.rows k slot (Ne.symm hne) hslot).trans h1.row
  · exact h2.row
  · exact h2.regs.trans (h1.regs.trans hcregs)
  · refine (congrArg KvPage.present hwk).trans ?_
    rw [hpk, h1.page, hpc]
  · refine (congrArg KvPage.present (hwo u hne)).trans ?_
    rw [h2.page, h1.pages u hne, hpc]
  · exact congrArg KvPage.isKey hwk
  · refine (State.engine_mapEngine (w.widenHall ctx k r.ch krow) n (f := fun x => { x with moves := rest }) fun _ => rfl).trans ?_
    rw [State.engine_congr (s := w) (t := w.widenHall ctx k r.ch krow) rfl n, h2.engine, h1.engine]

/-! ## Count tests, forks and frees (R229, R230) -/

theorem execKvCountTest_first {n k u slot : Nat} {s t : State} {o : KvRec} {krow vrow : List (BitVec 16)} (ho : (s.kv.ops.find? fun o => o.id == n) = some o)
    (hop : o.op = .test k u none none slot krow vrow) (hf : s.firstOn o k = true) (ht : s.kvReach o k 0 true = some t) {ok : Bool}
    (hok : ok = ((s.reserveAt o.ctx o.gen).isNone || (s.page o.ctx k).count ≤ 1)) :
    exec (.kvCountTest n) s = .next (if ok then t.setKvOp n (.test k u (some true) none slot krow vrow) else t.kvVerdict o k u slot krow vrow false) := by
  subst hok
  obtain ⟨hkv, -, -, -⟩ := State.kvReach_frame ht
  have hpage : t.page o.ctx k = s.page o.ctx k := State.page_congr (by rw [hkv]) _ _
  have hres : t.reserveAt o.ctx o.gen = s.reserveAt o.ctx o.gen := by rw [State.reserveAt, State.reserve, hkv, State.reserveAt, State.reserve]
  change execKvCountTest n s = _
  rw [execKvCountTest, ho]
  dsimp only
  rw [hop]
  dsimp only
  simp only [Option.isNone_none, hf, Bool.and_self, if_true, ht, hpage, hres]
  cases (s.reserveAt o.ctx o.gen).isNone || decide ((s.page o.ctx k).count ≤ 1) <;> rfl

theorem execKvCountTest_second {n k u slot : Nat} {s : State} {o : KvRec} {krow vrow : List (BitVec 16)} (ho : (s.kv.ops.find? fun o => o.id == n) = some o)
    (hop : o.op = .test k u (some true) none slot krow vrow) (hf : s.firstOn o u = true) {ok : Bool}
    (hok : ok = ((s.reserveAt o.ctx o.gen).isNone || (s.page o.ctx u).count ≤ 1)) :
    (s.kvReach o u 0 true = none → Next (exec (.kvCountTest n) s) (s.setKvOp n (.test k u (some true) none slot krow vrow))) ∧
    ∀ t, s.kvReach o u 0 true = some t → Next (exec (.kvCountTest n) s) (t.kvVerdict o k u slot krow vrow ok) := by
  subst hok
  have hx : exec (.kvCountTest n) s = execKvCountTest n s := rfl
  rw [hx, execKvCountTest, ho]
  dsimp only
  rw [hop]
  dsimp only
  simp only [Option.isNone_some, Option.isNone_none, Bool.false_and, Bool.true_and, Bool.false_eq_true, if_false, beq_self_eq_true, hf, if_true]
  constructor
  · intro hno
    rw [hno]
  · intro t ht
    obtain ⟨hkv, -, -, -⟩ := State.kvReach_frame ht
    have hpage : t.page o.ctx u = s.page o.ctx u := State.page_congr (by rw [hkv]) _ _
    have hres : t.reserveAt o.ctx o.gen = s.reserveAt o.ctx o.gen := by rw [State.reserveAt, State.reserve, hkv, State.reserveAt, State.reserve]
    rw [ht]
    dsimp only
    rw [hpage, hres, Bool.true_and]

/-- What the outcome of an operation changes of its record: the results that its crew waits for. -/
theorem State.kvLand_result (s : State) (o : KvRec) (ws : List RegWr) : (s.kvLand o ws).kv.pages = s.kv.pages ∧ (s.kvLand o ws).regs = s.regs ∧
    (s.kvLand o ws).mem = s.mem ∧
    (s.kvLand o ws).pipe.pends = s.pipe.pends.map fun x => if (x.id == o.pend) = true then { x with outs := ws, parts := 0 } else x := ⟨rfl, rfl, rfl, rfl⟩

section
variable {n p : Nat} {s : State} {o : KvRec} (ho : (s.kv.ops.find? fun o => o.id == n) = some o) (hf : s.firstOn o p = true)
  (hm : (s.page o.ctx p).moving = false) (ha : s.appending o.ctx p = false)
include ho hf hm

include ha in
theorem execKvPageOp_fork {kd qd : Nat} (hop : o.op = .fork p kd qd) : exec (.kvPageOp n) s = .next (((s.kvReach o p 0 true).map fun t => t.forkPage o p kd qd).getD s) := by
  change execKvPageOp n s = _
  rw [execKvPageOp, ho]
  dsimp only
  rw [hop]
  dsimp only
  rw [if_neg (by simp [hf, hm, ha])]

include ha in
theorem execKvPageOp_free (hop : o.op = .free p) : exec (.kvPageOp n) s = .next (((s.kvReach o p 0 true).map fun t => t.unrefPage o p).getD s) := by
  change execKvPageOp n s = _
  rw [execKvPageOp, ho]
  dsimp only
  rw [hop]
  dsimp only
  rw [if_neg (by simp [hf, hm, ha])]

theorem execKvPageOp_hallmark {kd cell : Nat} {r : Reserve} (hop : o.op = .hallmark p kd cell) (hr : s.reserveAt o.ctx o.gen = some r) :
    exec (.kvPageOp n) s = .next (((s.kvReach o p 1024 false).map fun t => t.kvLand o (s.hallWrs o p kd cell r.ch)).getD s) := by
  change execKvPageOp n s = _
  rw [execKvPageOp, ho]
  dsimp only
  rw [hop]
  dsimp only
  rw [if_neg (by simp [hf, hm])]
  cases ht : s.kvReach o p 1024 false with
  | none => rfl
  | some t =>
    obtain ⟨hkv, -, -, -⟩ := State.kvReach_frame ht
    have hres : t.reserveAt o.ctx o.gen = some r := by
      rw [← hr, State.reserveAt, State.reserve, hkv, State.reserveAt, State.reserve]
    have hpage : t.page o.ctx p = s.page o.ctx p := State.page_congr (by rw [hkv]) _ _
    have hword : ∀ ctx q ch i j mx empty, t.hallWord ctx q ch i j mx empty = s.hallWord ctx q ch i j mx empty := fun ctx q ch i j mx empty => by
      simp only [State.hallWord, hkv]
    have hw : t.hallWrs o p kd cell r.ch = s.hallWrs o p kd cell r.ch := by
      simp only [State.hallWrs, hpage, hres, hr, hword]
    simp only [Option.map_some, Option.getD_some, hres, hw]

end

/-- The pages of a context and its contract are what the operation's request finds. -/
theorem State.kvReach_page {s t : State} {o : KvRec} {p n : Nat} {write : Bool} (h : s.kvReach o p n write = some t) :
    t.page o.ctx p = s.page o.ctx p ∧ t.reserveAt o.ctx o.gen = s.reserveAt o.ctx o.gen := by
  obtain ⟨hkv, -, -, -⟩ := State.kvReach_frame h
  exact ⟨State.page_congr (by rw [hkv]) _ _, by rw [State.reserveAt, State.reserve, hkv, State.reserveAt, State.reserve]⟩

theorem State.forkPage_counts {s t : State} {o : KvRec} {p kd qd : Nat} (hr : (s.reserveAt o.ctx o.gen).isSome = true) (ht : s.kvReach o p 0 true = some t)
    (h0 : (s.page o.ctx p).count ≠ 0) (h1 : (s.page o.ctx p).count ≠ 1023) : (t.forkPage o p kd qd).page o.ctx p = { s.page o.ctx p with count := (s.page o.ctx p).count + 1 } ∧
    (t.forkPage o p kd qd).regs = s.regs ∧ (t.forkPage o p kd qd).mem = s.mem ∧
    (t.forkPage o p kd qd).pipe.pends = s.pipe.pends.map fun x => if (x.id == o.pend) = true then
      { x with outs := [.k o.crew kd (BitVec.ofNat 32 ((s.page o.ctx p).count + 1)), .q o.crew qd false], parts := 0 } else x := by
  obtain ⟨-, hregs, hmem, hpipe⟩ := State.kvReach_frame ht
  obtain ⟨hpage, hres⟩ := State.kvReach_page ht
  unfold State.forkPage
  dsimp only
  rw [hpage, hres, if_neg (by simp [hr, h0, h1])]
  refine ⟨(State.page_congr (State.kvLand_result _ _ _).1 _ _).trans (State.page_setPage_self _ _ _ _), hregs, hmem, ?_⟩
  rw [← hpipe]
  rfl

theorem State.forkPage_refused {s t : State} {o : KvRec} {p kd qd : Nat} (hr : (s.reserveAt o.ctx o.gen).isSome = true) (ht : s.kvReach o p 0 true = some t)
    (h : (s.page o.ctx p).count = 0 ∨ (s.page o.ctx p).count = 1023) :
    t.forkPage o p kd qd = t.kvLand o [.k o.crew kd (BitVec.ofNat 32 (s.page o.ctx p).count), .q o.crew qd true] := by
  obtain ⟨hpage, hres⟩ := State.kvReach_page ht
  unfold State.forkPage
  dsimp only
  rw [hpage, hres, if_pos (by rcases h with h | h <;> simp [h]), if_pos hr]

theorem State.unrefPage_last {s t : State} {o : KvRec} {p : Nat} (hr : (s.reserveAt o.ctx o.gen).isSome = true) (ht : s.kvReach o p 0 true = some t)
    (h : (s.page o.ctx p).count = 1) : (t.unrefPage o p).page o.ctx p = .init ∧ (t.unrefPage o p).regs = s.regs ∧ (t.unrefPage o p).mem.cells = s.mem.cells := by
  obtain ⟨-, hregs, hmem, -⟩ := State.kvReach_frame ht
  obtain ⟨hpage, hres⟩ := State.kvReach_page ht
  have hlive : (s.reserveAt o.ctx o.gen).isNone = false := by simpa using hr
  unfold State.unrefPage
  dsimp only
  rw [hpage, hres, if_neg (by simp [hlive, h]), if_pos h]
  refine ⟨(State.page_congr (State.kvLand_result _ _ _).1 _ _).trans (State.freePage_page _ _ _), hregs, ?_⟩
  rw [← hmem]
  rfl

theorem State.unrefPage_counts {s t : State} {o : KvRec} {p : Nat} (hr : (s.reserveAt o.ctx o.gen).isSome = true) (ht : s.kvReach o p 0 true = some t)
    (h : 1 < (s.page o.ctx p).count) : (t.unrefPage o p).page o.ctx p = { s.page o.ctx p with count := (s.page o.ctx p).count - 1 } ∧
    (t.unrefPage o p).regs = s.regs ∧ (t.unrefPage o p).mem = s.mem := by
  obtain ⟨-, hregs, hmem, -⟩ := State.kvReach_frame ht
  obtain ⟨hpage, hres⟩ := State.kvReach_page ht
  have hlive : (s.reserveAt o.ctx o.gen).isNone = false := by simpa using hr
  unfold State.unrefPage
  dsimp only
  rw [hpage, hres, if_neg (by simp [hlive]; omega), if_neg (by omega)]
  exact ⟨(State.page_congr (State.kvLand_result _ _ _).1 _ _).trans (State.page_setPage_self _ _ _ _), hregs, hmem⟩

/-! ## Transfers of pages (R294) -/

/-- Where a page goes whose transfer has ended, and what that leaves. -/
theorem State.moved_page (s : State) (ctx p : Nat) : (s.moved ctx p).regs = s.regs ∧ (s.moved ctx p).mem.cells = s.mem.cells ∧
    (s.moved ctx p).page ctx p = if ((s.backing ctx).any fun r => r.ended) = true then .init else s.page ctx p := by
  unfold State.moved
  dsimp only
  cases (s.backing ctx).any fun r => r.ended
  · exact ⟨rfl, rfl, rfl⟩
  · simp only [Bool.not_true, Bool.false_eq_true, if_false, if_true]
    split <;> exact ⟨rfl, rfl, State.freePage_page s ctx p⟩

/-- The end of the copy of a page that leaves its frame. -/
def State.evictEnd (t : State) (ctx page : Nat) : State :=
  ((t.dropRows ctx page).setPage ctx page { t.page ctx page with st := .evicted, dirty := false, frame := none, pos := 0 }).moved ctx page
/-- The end of the copy of a page into its frame. -/
def State.installEnd (t : State) (ctx page : Nat) : State :=
  (t.setPage ctx page { t.page ctx page with st := .resident, dirty := false, pos := 0 }).moved ctx page

theorem State.evictEnd_frame (t : State) (ctx page : Nat) : (t.evictEnd ctx page).regs = t.regs ∧ (t.evictEnd ctx page).mem.cells = t.mem.cells ∧
    (t.evictEnd ctx page).page ctx page = if ((t.backing ctx).any fun r => r.ended) = true then .init
      else { t.page ctx page with st := .evicted, dirty := false, frame := none, pos := 0 } := by
  unfold State.evictEnd
  obtain ⟨h1, h2, h3⟩ := State.moved_page ((t.dropRows ctx page).setPage ctx page { t.page ctx page with st := .evicted, dirty := false, frame := none, pos := 0 }) ctx page
  rw [State.page_setPage_self] at h3
  exact ⟨h1, h2, h3⟩

theorem State.installEnd_frame (t : State) (ctx page : Nat) : (t.installEnd ctx page).regs = t.regs ∧ (t.installEnd ctx page).mem.cells = t.mem.cells ∧
    (t.installEnd ctx page).page ctx page = if ((t.backing ctx).any fun r => r.ended) = true then .init
      else { t.page ctx page with st := .resident, dirty := false, pos := 0 } := by
  unfold State.installEnd
  obtain ⟨h1, h2, h3⟩ := State.moved_page (t.setPage ctx page { t.page ctx page with st := .resident, dirty := false, pos := 0 }) ctx page
  rw [State.page_setPage_self] at h3
  exact ⟨h1, h2, h3⟩

theorem exec_pageEvictDone {ctx page : Nat} {s : State} (h : (s.page ctx page).st = .evicting) : exec (.pageEvictDone ctx page) s =
    .next (if (s.page ctx page).dirty then s.movePage ctx page (s.evictPair ctx page (s.page ctx page)) (fun t => t.evictEnd ctx page) else s.evictEnd ctx page) := by
  change execPageEvictDone ctx page s = _
  rw [execPageEvictDone]
  exact if_neg (by simp [h])

theorem exec_pageInstallDone {ctx page : Nat} {s : State} (h : (s.page ctx page).st = .installing) : exec (.pageInstallDone ctx page) s =
    .next (s.movePage ctx page (s.installPair ctx page (s.page ctx page)) (fun t => t.installEnd ctx page)) := by
  change execPageInstallDone ctx page s = _
  rw [execPageInstallDone]
  exact if_neg (by simp [h])

theorem State.movePage_none {s : State} {ctx page : Nat} {copy : Reserve → Nat → Option State} {finish : State → State}
    (h : s.backing ctx = none ∨ (s.page ctx page).nextPair = none) : s.movePage ctx page copy finish = finish s := by
  have hno : ((s.backing ctx).bind fun r => (s.page ctx page).nextPair.map fun q => (r, q)) = none := by
    rcases h with h | h <;> simp [h]
  unfold State.movePage
  rw [hno]

theorem State.movePage_some {s : State} {ctx page q : Nat} {r : Reserve} {copy : Reserve → Nat → Option State} {finish : State → State}
    (hr : s.backing ctx = some r) (hq : (s.page ctx page).nextPair = some q) : s.movePage ctx page copy finish = ((copy r q).map fun t =>
      if { t.page ctx page with pos := q + 1, at' := s.now }.nextPair.isNone then finish (t.setPage ctx page { t.page ctx page with pos := q + 1, at' := s.now })
      else t.setPage ctx page { t.page ctx page with pos := q + 1, at' := s.now }).getD s := by
  unfold State.movePage
  rw [hr, Option.bind_some, hq, Option.map_some]
  dsimp only
  cases copy r q <;> rfl

theorem State.installPair_frame {s t : State} {ctx page : Nat} {x : KvPage} {r : Reserve} {q : Nat} (h : s.installPair ctx page x r q = some t) :
    t.regs = s.regs ∧ t.kv.pages = s.kv.pages ∧ t.kv.res = s.kv.res := by
  obtain ⟨u, hu, rfl⟩ := Option.map_eq_some_iff.mp h
  have ha := State.Accessed.backRead hu
  simp [State.setElems, State.poisonWords, ha.regs, ha.kv]

/-! ## The obligation -/

theorem execPageEvictDone_ends {ctx page : Nat} {s t : State} {y : KvPage} (h : exec (.pageEvictDone ctx page) s = .next (t.evictEnd ctx page)) (hregs : t.regs = s.regs)
    (hres : t.kv.res = s.kv.res) (hy : t.page ctx page = y) : ∃ u, (Next (exec (.pageEvictDone ctx page) s) u ∧ u.regs = s.regs ∧
      u.page ctx page = if ((s.backing ctx).any fun r => r.ended) = true then .init else { y with st := .evicted, dirty := false, frame := none, pos := 0 }) ∧
      u.mem.cells = t.mem.cells := by
  obtain ⟨h1, h2, h3⟩ := State.evictEnd_frame t ctx page
  refine ⟨_, ⟨h, h1.trans hregs, ?_⟩, h2⟩
  rw [h3, hy, State.backing, hres, State.backing]

theorem execPageInstallDone_ends {ctx page : Nat} {s t : State} {y : KvPage} (h : exec (.pageInstallDone ctx page) s = .next (t.installEnd ctx page)) (hregs : t.regs = s.regs)
    (hres : t.kv.res = s.kv.res) (hy : t.page ctx page = y) : ∃ u, (Next (exec (.pageInstallDone ctx page) s) u ∧ u.regs = s.regs ∧
      u.page ctx page = if ((s.backing ctx).any fun r => r.ended) = true then .init else { y with st := .resident, dirty := false, pos := 0 }) ∧
      u.mem.cells = t.mem.cells := by
  obtain ⟨h1, h2, h3⟩ := State.installEnd_frame t ctx page
  refine ⟨_, ⟨h, h1.trans hregs, ?_⟩, h2⟩
  rw [h3, hy, State.backing, hres, State.backing]

theorem execEngineComplete_completes {n : Nat} {s : State} {e : Engine} (he : s.engine n = some e) (hm : e.moves = []) (hp : e.panels = []) (ha : e.assay = none) :
    ∃ t, Next (exec (.engineComplete n) s) t ∧ (∀ x ∈ t.sp.engines, x.id ≠ n) ∧
      t.regs = s.regs ∧ t.mem = s.mem ∧ t.pipe.pends = s.pipe.pends.map fun p => if (p.id == e.pend) = true then { p with parts := p.parts - 1 } else p := by
  rw [show exec (.engineComplete n) s = execEngineComplete n s from rfl, execEngineComplete, he]
  dsimp only
  rw [if_neg (by simp [hm, hp, ha])]
  refine ⟨_, rfl, ?_⟩
  generalize hv : (if e.toMem = true then _ else _ : State) = v
  have hvf : v.sp.engines = s.sp.engines.filter (fun x => x.id != n) ∧ v.regs = s.regs ∧ v.mem = s.mem ∧ v.pipe = s.pipe := by
    rw [← hv]
    split <;> exact ⟨rfl, rfl, rfl, rfl⟩
  obtain ⟨h1, h2, h3, h4⟩ := hvf
  refine ⟨fun x hx => ?_, by simpa using h2, by simpa using h3, ?_⟩
  · simp only [State.noteOver_frame, State.recheck_frame, State.partDone_frame, h1] at hx
    simpa using (List.mem_filter.mp hx).2
  · simp only [State.noteOver_frame, State.recheck_queues]
    rw [← h4]
    rfl

theorem execEngineWriteLand_cases {n : Nat} {s : State} {e : Engine} {ms : List Move} (he : s.engine n = some e) (hm : e.moves ≠ []) (hms : ms = s.nextMoves e) :
    (∀ c u, s.engCharge e (chargesOfMoves ms) = .ok c → c.performMoves e ms = some u →
      Next (exec (.engineWriteLand n) s) (u.mapEngine n fun x => { x with moves := x.moves.drop ms.length, at' := s.now })) ∧
    (∀ c, s.engCharge e (chargesOfMoves ms) = .ok c → c.performMoves e ms = none → Next (exec (.engineWriteLand n) s) s) ∧
    (∀ c, s.engCharge e (chargesOfMoves ms) = .error c → Next (exec (.engineWriteLand n) s) c) := by
  subst hms
  rw [execEngineWriteLand_moves he hm]
  refine ⟨fun c u hc hu => ?_, fun c hc hu => ?_, fun c hc => ?_⟩
  · rw [hc]
    dsimp only
    rw [hu]
  · rw [hc]
    dsimp only
    rw [hu]
  · rw [hc]

theorem execPanelLand_cases {n : Nat} {s : State} {e : Engine} {p : Panel} (he : s.engine n = some e) (hp : (e.panels.find? fun p => p.entry.isSome) = some p) :
    (∀ c u, s.engCharge e p.charges = .ok c → c.landPanel e p (p.entry.getD 0) = some u →
      Next (exec (.panelLand n) s) (u.mapEngine n fun x => { x with panels := x.panels.filter fun y => y.entry != p.entry })) ∧
    (∀ c, s.engCharge e p.charges = .ok c → c.landPanel e p (p.entry.getD 0) = none → Next (exec (.panelLand n) s) s) ∧
    (∀ c, s.engCharge e p.charges = .error c → Next (exec (.panelLand n) s) c) := by
  have hx : exec (.panelLand n) s = execPanelLand n s := rfl
  rw [hx, execPanelLand, he]
  dsimp only
  rw [hp]
  dsimp only
  refine ⟨fun c u hc hu => ?_, fun c hc hu => ?_, fun c hc => ?_⟩
  · rw [hc]
    dsimp only
    rw [hu]
  · rw [hc]
    dsimp only
    rw [hu]
  · rw [hc]

theorem execPageEvictDone_cases {ctx page : Nat} {s : State} (hst : (s.page ctx page).st = .evicting) {finish : KvPage → State → Prop}
    (hfin : finish = fun y t => Next (exec (.pageEvictDone ctx page) s) t ∧ t.regs = s.regs ∧
      t.page ctx page = if ((s.backing ctx).any fun r => r.ended) = true then .init else { y with st := .evicted, dirty := false, frame := none, pos := 0 }) :
    ((s.page ctx page).dirty = false ∨ s.backing ctx = none ∨ (s.page ctx page).nextPair = none → ∃ t, finish (s.page ctx page) t ∧ t.mem.cells = s.mem.cells) ∧
    (∀ r q, (s.page ctx page).dirty = true → s.backing ctx = some r → (s.page ctx page).nextPair = some q →
      (s.evictPair ctx page (s.page ctx page) r q = none → Next (exec (.pageEvictDone ctx page) s) s) ∧
      ∀ t y, s.evictPair ctx page (s.page ctx page) r q = some t → y = { s.page ctx page with pos := q + 1, at' := s.now } →
        (y.nextPair ≠ none → Next (exec (.pageEvictDone ctx page) s) (t.setPage ctx page y)) ∧
        (y.nextPair = none → ∃ u, finish y u ∧ u.mem.cells = t.mem.cells)) := by
  subst hfin
  have hx := exec_pageEvictDone hst
  constructor
  · intro hno
    refine execPageEvictDone_ends (t := s) ?_ rfl rfl rfl
    rw [hx]
    rcases hno with hd | hno
    · rw [hd, if_neg (by decide)]
    · rw [State.movePage_none hno, ite_self]
  · intro r q hd hr hq
    rw [hd, if_pos rfl, State.movePage_some hr hq] at hx
    refine ⟨fun hno => ?_, ?_⟩
    · rw [hx, hno]
      rfl
    · rintro t y ht rfl
      have ha := State.Accessed.evictPair ht
      have hpage : t.page ctx page = s.page ctx page := State.page_congr (by rw [ha.kv]) _ _
      rw [ht, Option.map_some, Option.getD_some, hpage] at hx
      refine ⟨fun hn => ?_, fun hn => ?_⟩
      · rw [hx, if_neg (by simpa using hn)]
      · rw [if_pos (by rw [hn]; rfl)] at hx
        exact execPageEvictDone_ends (t := t.setPage ctx page { s.page ctx page with pos := q + 1, at' := s.now }) hx ha.regs
          (show t.kv.res = s.kv.res by rw [ha.kv]) (State.page_setPage_self _ _ _ _)

theorem execPageInstallDone_cases {ctx page : Nat} {s : State} (hst : (s.page ctx page).st = .installing) {finish : KvPage → State → Prop}
    (hfin : finish = fun y t => Next (exec (.pageInstallDone ctx page) s) t ∧ t.regs = s.regs ∧
      t.page ctx page = if ((s.backing ctx).any fun r => r.ended) = true then .init else { y with st := .resident, dirty := false, pos := 0 }) :
    (s.backing ctx = none ∨ (s.page ctx page).nextPair = none → ∃ t, finish (s.page ctx page) t ∧ t.mem.cells = s.mem.cells) ∧
    (∀ r q, s.backing ctx = some r → (s.page ctx page).nextPair = some q →
      (s.installPair ctx page (s.page ctx page) r q = none → Next (exec (.pageInstallDone ctx page) s) s) ∧
      ∀ t y, s.installPair ctx page (s.page ctx page) r q = some t → y = { s.page ctx page with pos := q + 1, at' := s.now } →
        (y.nextPair ≠ none → Next (exec (.pageInstallDone ctx page) s) (t.setPage ctx page y)) ∧
        (y.nextPair = none → ∃ u, finish y u ∧ u.mem.cells = t.mem.cells)) := by
  subst hfin
  have hx := exec_pageInstallDone hst
  constructor
  · intro hno
    refine execPageInstallDone_ends (t := s) ?_ rfl rfl rfl
    rw [hx, State.movePage_none hno]
  · intro r q hr hq
    rw [State.movePage_some hr hq] at hx
    refine ⟨fun hno => ?_, ?_⟩
    · rw [hx, hno]
      rfl
    · rintro t y ht rfl
      obtain ⟨hregs, hpages, hres⟩ := State.installPair_frame ht
      have hpage : t.page ctx page = s.page ctx page := State.page_congr hpages _ _
      rw [ht, Option.map_some, Option.getD_some, hpage] at hx
      refine ⟨fun hn => ?_, fun hn => ?_⟩
      · rw [hx, if_neg (by simpa using hn)]
      · rw [if_pos (by rw [hn]; rfl)] at hx
        exact execPageInstallDone_ends (t := t.setPage ctx page { s.page ctx page with pos := q + 1, at' := s.now }) hx hregs hres
          (State.page_setPage_self _ _ _ _)

/-- Settles O45: an engine's and a page's event is its own next state; an append's rows, a fork's count and the end of a transfer are read back from it. -/
theorem engineEventsComplete : Obligations.EngineEventsComplete := by
  unfold Obligations.EngineEventsComplete
  intro n ctx page s
  refine ⟨fun e he => ⟨fun ms hm hms => execEngineWriteLand_cases he hm hms, fun q hm hq => ?_, fun p hp => execPanelLand_cases he hp,
    fun hm hp ha => execEngineComplete_completes he hm hp ha,
    fun k u slot krow vrow rest r c hm hr hk hu hne hslot hkrow hvrow _ _ hc v hv => execKvappPerform_writes he hm hr hk hu hne hslot hkrow hvrow hc hv⟩,
    fun o k u slot krow vrow ok ho hok => ⟨fun hop hf t ht => ?_, fun hop hf => execKvCountTest_second ho hop hf (by rw [hok])⟩,
    fun o p ho hf hr hm ha => ⟨fun hop hno => ?_, fun kd qd hop ht h0 h1 => ?_, fun kd qd t hop ht h => ?_, fun hop ht h => ?_, fun hop ht h => ?_, fun kd cell r hop hr => ?_⟩,
    ?_, ?_, fun h => execHeatDecay_halves h⟩
  · change execEngineWriteLand n s = _
    rw [execEngineWriteLand, he]
    dsimp only
    rw [hm]
    dsimp only
    rw [hq]
  · have hx := execKvCountTest_first ho hop hf ht (ok := ok k) (by rw [hok])
    refine ⟨fun hk => ?_, fun hk => ?_⟩ <;> rw [hk] at hx <;> exact hx
  · rcases hop with hop | ⟨kd, qd, hop⟩
    · rw [execKvPageOp_free ho hf hm ha hop, hno]
      rfl
    · rw [execKvPageOp_fork ho hf hm ha hop, hno]
      rfl
  · obtain ⟨t, ht⟩ := Option.ne_none_iff_exists'.mp ht
    refine ⟨_, (execKvPageOp_fork ho hf hm ha hop).trans (by rw [ht]; rfl), State.forkPage_counts hr ht h0 h1⟩
  · rw [execKvPageOp_fork ho hf hm ha hop, ht, Option.map_some, Option.getD_some, State.forkPage_refused hr ht h]
  · obtain ⟨t, ht⟩ := Option.ne_none_iff_exists'.mp ht
    exact ⟨_, (execKvPageOp_free ho hf hm ha hop).trans (by rw [ht]; rfl), State.unrefPage_last hr ht h⟩
  · obtain ⟨t, ht⟩ := Option.ne_none_iff_exists'.mp ht
    exact ⟨_, (execKvPageOp_free ho hf hm ha hop).trans (by rw [ht]; rfl), State.unrefPage_counts hr ht h⟩
  · rw [execKvPageOp_hallmark ho hf hm hop hr]
    refine ⟨fun hno => by rw [hno]; rfl, fun t ht => by rw [ht]; rfl⟩
  · rintro x finish rfl hst hfin
    exact execPageEvictDone_cases hst hfin
  · rintro x finish rfl hst hfin
    exact execPageInstallDone_cases hst hfin

end Sys2Proof.Machine

/-!
PROOF (GuardedPairsCompare: R341 to R343).
-/
namespace Sys2Proof.Machine

-- One theorem after the other: in parallel they ask for more threads than the host allows.
set_option Elab.async false

/-- A crew of block 1, primary of the pair of blocks 1 and 2, that the comparison has let go on. Its record 0 spans 4 KiB, and no translation is held. -/
def letGoUntranslated : State :=
  let s := State.reset.withFetchWord 32 0
  { s.setTlb [] with
    sp := { s.sp with recs := mput 0 s.sp.recs 64 (BitVec.ofNat 256 (0x100400 + 0x1000 * 2 ^ 64 + 4 * 2 ^ 112 + 2 ^ 188)) }
    grd := { s.grd with pairs := [{ Pair.fresh 1 2 [] with go := [(1, s.sch.cur.code)] }] } }

/-- WAITCMP of four bytes through record 0. -/
def waitcmpOfRecordZero : Instr := .waitcmp 0 5 2 4 0 { recNo := 0, pol := 0, wid := 2, off := 0 }

/-- The wait of the bundle in hand after an instruction. -/
def waitAfter (i : Instr) (s : State) : Option Wait := match exec i s with
  | .next t => some t.sch.cur.wait
  | _ => none

theorem waitAfter_of_next {i : Instr} {s t : State} (h : exec i s = .next t) : waitAfter i s = some t.sch.cur.wait := by
  rw [waitAfter, h]

/-- The shared form of the WAITCMP in a state. -/
def waitcmpForm (s : State) : SharedForm := (sharedOf s waitcmpOfRecordZero).getD { q := {}, recs := none, act := id }

theorem letGoUntranslated_after : waitAfter waitcmpOfRecordZero letGoUntranslated = some .crew := by decide +kernel

/-- Refutes O60: a WAITCMP that meets a walk makes its crew wait as a whole, where the action that the statement gives it waits to issue again. -/
theorem not_guardedPairsCompare : ¬ Obligations.GuardedPairsCompare := by
  unfold Obligations.GuardedPairsCompare
  intro h
  have hpass : letGoUntranslated.passes waitcmpOfRecordZero (waitcmpForm letGoUntranslated).q = true := by decide +kernel
  have hgo : letGoUntranslated.pairOf (letGoUntranslated.joined (waitcmpForm letGoUntranslated).q.bound).sch.cur.blk =
      some { Pair.fresh 1 2 [] with go := [(1, letGoUntranslated.sch.cur.code)] } := by decide +kernel
  obtain ⟨-, -, hact⟩ := h waitcmpOfRecordZero letGoUntranslated letGoUntranslated (waitcmpForm letGoUntranslated) _ _ _ rfl (by decide +kernel) hpass rfl rfl rfl hgo
  have hretry := (hact (.inr (by decide +kernel)) _ rfl).1 (by decide +kernel)
  have hwait := (letGoUntranslated_after.symm.trans (waitAfter_of_next hretry)).symm
  have hagain : ((waitcmpForm letGoUntranslated).act letGoUntranslated).sch.cur.wait = .again := by decide +kernel
  rw [hagain] at hwait
  cases hwait

end Sys2Proof.Machine

/-!
PROOF (CommandEventsComplete: R374).
-/
namespace Sys2Proof.Machine

-- One theorem after the other: in parallel they ask for more threads than the host allows.
set_option Elab.async false

/-- A fault in inspect mode of crew 0 of block 0 that holds no thread. -/
def threadlessFault : FaultRec :=
  { id := 0, seq := 0, blk := 0, feed := false, crew := 0, lane := 0, pc := 0, clause := none, after := none, cls := .illop, code := 0, va := 0, time := 0,
    threads := [], words := 1, nextWord := false, toCore := false, inspect := true, written := true, moved := false }

/-- The selection of the debug window, as reset leaves it, is crew 0 of block 0, which is halted at a fault that holds no thread. -/
def threadlessHalt : State :=
  { State.reset with
    disp := { State.reset.disp with blocks := [{ Block.none with st := .running }] }
    sch := { State.reset.sch with faults := [threadlessFault] }
    host := { State.reset.host with boot := 5 } }

/-- The bundles after an instruction. -/
def bundlesAfter (i : Instr) (s : State) : Option (List Bundle) := match exec i s with
  | .next t => some t.sch.bundles
  | _ => none

theorem bundlesAfter_of_next {i : Instr} {s t : State} (h : exec i s = .next t) : bundlesAfter i s = some t.sch.bundles := by
  rw [bundlesAfter, h]

theorem threadlessHalt_after : bundlesAfter .dbgStep threadlessHalt = some [] := by decide +kernel

/-- Refutes O50: DBG_STEP on a halted crew whose fault holds no thread puts no bundle among the bundles. -/
theorem not_commandEventsComplete : ¬ Obligations.CommandEventsComplete := by
  unfold Obligations.CommandEventsComplete
  intro h
  obtain ⟨-, -, -, -, -, -, -, -, -, -, hdbg, -⟩ := h 0 0 0 0 0 threadlessHalt (by decide +kernel)
  have hblock : threadlessHalt.dbgBlock = some 0 := by decide +kernel
  obtain ⟨-, -, hstep, -⟩ := hdbg 0 threadlessHalt.dbgCrew hblock rfl (by decide +kernel)
  obtain ⟨t, hnext, -, -, -, hbundle⟩ := hstep (by decide +kernel)
  obtain ⟨u, hu, -⟩ := hbundle threadlessFault (by decide +kernel) rfl rfl
  have hempty := Option.some.inj (threadlessHalt_after.symm.trans (bundlesAfter_of_next hnext))
  rw [← hempty] at hu
  cases hu

end Sys2Proof.Machine

/-!
PROOF (LanesCompute: R113, R116, R137 to R139, R42).
-/
namespace Sys2Proof.Machine

-- One theorem after the other: in parallel they ask for more threads than the host allows.
set_option Elab.async false

/-! ## Writes of cells and flags -/

/-- A write of a vector register's cell, or of flags. -/
def RegWr.cellOrFlags : RegWr → Bool
  | .cell _ _ _ _ => true
  | .flags _ _ => true
  | _ => false

/-- What writes of cells and flags leave: everything but the cells and the flags. -/
structure Regs.SameButCells (r t : Regs) : Prop where
  k : t.k = r.k
  q : t.q = r.q
  p : t.p = r.p
  call : t.call = r.call
  parts : t.parts = r.parts
  crewSt : ∀ b c, t.crewSt b c = { r.crewSt b c with cfps := (t.crewSt b c).cfps }

theorem Regs.SameButCells.refl (r : Regs) : r.SameButCells r := ⟨rfl, rfl, rfl, rfl, rfl, fun _ _ => rfl⟩

theorem Regs.SameButCells.trans {r s t : Regs} (h : r.SameButCells s) (h' : s.SameButCells t) : r.SameButCells t := by
  refine ⟨h'.k.trans h.k, h'.q.trans h.q, h'.p.trans h.p, h'.call.trans h.call, h'.parts.trans h.parts, fun b c => ?_⟩
  rw [h'.crewSt b c, h.crewSt b c]

/-- Flags change the crew they name alone. -/
theorem Regs.crewSt_orFlags_of_ne (r : Regs) {b c b' c' : Nat} (f : BitVec 5) (h : crewKey b' c' ≠ crewKey b c) :
    (r.orFlags b c f).crewSt b' c' = r.crewSt b' c' := by
  unfold Regs.orFlags
  rw [Regs.crewSt_setCrew, if_neg h]

theorem Regs.SameButCells.orFlags (r : Regs) (b c : Nat) (f : BitVec 5) : r.SameButCells (r.orFlags b c f) := by
  refine ⟨rfl, rfl, rfl, rfl, rfl, fun b' c' => ?_⟩
  by_cases h : crewKey b' c' = crewKey b c
  · have hold : r.crewSt b' c' = r.crewSt b c := congrArg (mget CrewSt.init r.crew) h
    unfold Regs.orFlags
    rw [Regs.crewSt_setCrew, if_pos h, hold]
  · rw [Regs.crewSt_orFlags_of_ne r f h]

theorem Regs.SameButCells.apply (r : Regs) (b : Nat) {w : RegWr} (h : w.cellOrFlags = true) : r.SameButCells (r.apply b w) := by
  cases w with
  | cell c n l v => exact ⟨rfl, rfl, rfl, rfl, rfl, fun _ _ => rfl⟩
  | flags c f => exact .orFlags r b c f
  | k | q | p | part => cases h

theorem Regs.SameButCells.applyAll (r : Regs) (b : Nat) {ws : List RegWr} (h : ∀ w ∈ ws, w.cellOrFlags = true) : r.SameButCells (r.applyAll b ws) := by
  unfold Regs.applyAll
  induction ws generalizing r with
  | nil => exact .refl r
  | cons w ws ih =>
    exact (Regs.SameButCells.apply r b (h w List.mem_cons_self)).trans (ih _ fun x hx => h x (List.mem_cons_of_mem w hx))

/-- A crew that no write of flags names keeps its state. -/
theorem Regs.applyAll_crewSt (r : Regs) (b : Nat) {ws : List RegWr} {b' c' : Nat} (h : ∀ w ∈ ws, w.cellOrFlags = true)
    (hne : ∀ c f, .flags c f ∈ ws → crewKey b' c' ≠ crewKey b c) : (r.applyAll b ws).crewSt b' c' = r.crewSt b' c' := by
  unfold Regs.applyAll
  induction ws generalizing r with
  | nil => rfl
  | cons w ws ih =>
    rw [List.foldl_cons, ih _ (fun x hx => h x (List.mem_cons_of_mem w hx)) fun c f hf => hne c f (List.mem_cons_of_mem w hf)]
    cases w with
    | cell c n l v => rfl
    | flags c f => exact Regs.crewSt_orFlags_of_ne r f (hne c f List.mem_cons_self)
    | k | q | p | part => cases h _ List.mem_cons_self

/-! ## The writes of a compute instruction -/

section
variable (sh : Shape) (fn : LaneFn) (d a b : Field) (g : Guard) (s : State)

/-- What a compute instruction gives for a thread: its result and its flags. -/
def State.laneResult (m : Member) : DWord × FFlags :=
  fn (s.regs.fenv s.sch.cur.blk m.crew) (s.regs.aval s.sch.cur.blk m a sh.wa) (s.regs.bval s.sch.cur.blk m sh.cst b sh.wb)
    (s.regs.vval s.sch.cur.blk m d sh.wd)

theorem computeWr_vector (hd : d.isK = false) : computeWr sh fn d a b g s =
    (s.lanesOn g).flatMap fun m => s.regs.vwr s.sch.cur.blk m d sh.wd (s.laneResult sh fn d a b m).1 ++ flagWr m.crew (s.laneResult sh fn d a b m).2 := by
  unfold computeWr
  rw [if_neg (Bool.eq_false_iff.mp hd)]
  rfl

variable {sh fn d a b g s}

theorem mem_vwr {r : Regs} {blk : Nat} {m : Member} {wide : Bool} {x : DWord} {w : RegWr} : w ∈ r.vwr blk m d wide x ↔
    w = .cell m.crew (r.cellOf blk m.crew d) m.lane (lo x) ∨ wide = true ∧ w = .cell m.crew (r.cellOf blk m.crew d + 1) m.lane (hi x) := by
  cases wide <;> simp [Regs.vwr]

theorem mem_flagWr {c : Nat} {f : FFlags} {w : RegWr} : w ∈ flagWr c f ↔ f ≠ 0 ∧ w = .flags c f := by
  unfold flagWr
  split <;> simp_all

theorem cellOrFlags_of_mem_computeWr (hd : d.isK = false) {w : RegWr} (hw : w ∈ computeWr sh fn d a b g s) : w.cellOrFlags = true := by
  rw [computeWr_vector sh fn d a b g s hd] at hw
  obtain ⟨m, -, hm⟩ := List.mem_flatMap.mp hw
  rcases List.mem_append.mp hm with hv | hf
  · rcases mem_vwr.mp hv with rfl | ⟨-, rfl⟩ <;> rfl
  · obtain ⟨-, rfl⟩ := mem_flagWr.mp hf
    rfl

theorem cell_mem_computeWr (hd : d.isK = false) {c n l : Nat} {v : Word} : .cell c n l v ∈ computeWr sh fn d a b g s ↔
    ∃ m ∈ s.lanesOn g, c = m.crew ∧ l = m.lane ∧ (n = s.regs.cellOf s.sch.cur.blk m.crew d ∧ v = lo (s.laneResult sh fn d a b m).1 ∨
      sh.wd = true ∧ n = s.regs.cellOf s.sch.cur.blk m.crew d + 1 ∧ v = hi (s.laneResult sh fn d a b m).1) := by
  rw [computeWr_vector sh fn d a b g s hd, List.mem_flatMap]
  refine exists_congr fun m => and_congr_right fun _ => ?_
  rw [List.mem_append, mem_vwr, mem_flagWr]
  simp only [RegWr.cell.injEq, reduceCtorEq, and_false, or_false]
  constructor
  · rintro (⟨hc, hn, hl, hv⟩ | ⟨hwide, hc, hn, hl, hv⟩)
    · exact ⟨hc, hl, .inl ⟨hn, hv⟩⟩
    · exact ⟨hc, hl, .inr ⟨hwide, hn, hv⟩⟩
  · rintro ⟨hc, hl, ⟨hn, hv⟩ | ⟨hwide, hn, hv⟩⟩
    · exact .inl ⟨hc, hn, hl, hv⟩
    · exact .inr ⟨hwide, hc, hn, hl, hv⟩

theorem flags_mem_computeWr (hd : d.isK = false) {c : Nat} {f : BitVec 5} (h : .flags c f ∈ computeWr sh fn d a b g s) : ∃ m ∈ s.lanesOn g, c = m.crew := by
  rw [computeWr_vector sh fn d a b g s hd] at h
  obtain ⟨m, hm, hw⟩ := List.mem_flatMap.mp h
  refine ⟨m, hm, ?_⟩
  rcases List.mem_append.mp hw with hv | hf
  · rcases mem_vwr.mp hv with h | ⟨-, h⟩ <;> cases h
  · obtain ⟨-, h⟩ := mem_flagWr.mp hf
    cases h
    rfl

/-! ## The cells after it -/

/-- The threads of the bundle have registers. -/
def State.ThreadsFit (s : State) (d : Field) : Prop :=
  ∀ m ∈ s.sch.cur.members, m.lane < 32 ∧ m.crew < 32 ∧ s.regs.cellOf s.sch.cur.blk m.crew d + 1 < 1024

theorem State.ThreadsFit.lanesOn (hfit : s.ThreadsFit d) {m : Member} (hm : m ∈ s.lanesOn g) :
    m.lane < 32 ∧ m.crew < 32 ∧ s.regs.cellOf s.sch.cur.blk m.crew d + 1 < 1024 := hfit m (List.mem_filter.mp hm).1

/-- A cell that is written belongs to a thread that is on, and is that thread's d or, where the result is wide, the one behind. -/
theorem cellKey_written (hd : d.isK = false) (hfit : s.ThreadsFit d) {blk c n l c' n' l' : Nat} {v : Word} (hc : c < 32) (hn : n < 1024) (hl : l < 32)
    (hv : .cell c' n' l' v ∈ computeWr sh fn d a b g s) (hk : cellKey blk c n l = cellKey s.sch.cur.blk c' n' l') :
    blk = s.sch.cur.blk ∧ (⟨l, c⟩ : Member) ∈ s.lanesOn g ∧
      (n = s.regs.cellOf s.sch.cur.blk c d ∧ v = lo (s.laneResult sh fn d a b ⟨l, c⟩).1 ∨
        sh.wd = true ∧ n = s.regs.cellOf s.sch.cur.blk c d + 1 ∧ v = hi (s.laneResult sh fn d a b ⟨l, c⟩).1) := by
  obtain ⟨m, hm, rfl, rfl, hcell⟩ := (cell_mem_computeWr hd).mp hv
  obtain ⟨hlane, hcrew, hcells⟩ := hfit.lanesOn hm
  obtain ⟨rfl, rfl, rfl, rfl⟩ := cellKey_inj hc hn hl hcrew (by rcases hcell with ⟨rfl, -⟩ | ⟨-, rfl, -⟩ <;> omega) hlane hk
  exact ⟨rfl, hm, hcell⟩

/-- The low word of the result stands in d. -/
theorem wrote_vcell_low (hd : d.isK = false) (hfit : s.ThreadsFit d) {m : Member} (hm : m ∈ s.lanesOn g) :
    (s.regs.applyAll s.sch.cur.blk (computeWr sh fn d a b g s)).vcell s.sch.cur.blk m.crew (s.regs.cellOf s.sch.cur.blk m.crew d) m.lane =
      lo (s.laneResult sh fn d a b m).1 := by
  obtain ⟨hlane, hcrew, hcells⟩ := hfit.lanesOn hm
  refine Regs.applyAll_vcell _ _ (fun c n l v hv hk => ?_) (.inr ⟨_, _, _, _, (cell_mem_computeWr hd).mpr ⟨m, hm, rfl, rfl, .inl ⟨rfl, rfl⟩⟩, rfl⟩)
  obtain ⟨-, -, ⟨-, hlow⟩ | ⟨-, hn, -⟩⟩ := cellKey_written hd hfit hcrew (Nat.lt_of_succ_lt hcells) hlane hv hk
  · exact hlow
  · exact absurd hn (by omega)

/-- The high word of a wide result stands behind d. -/
theorem wrote_vcell_high (hd : d.isK = false) (hfit : s.ThreadsFit d) (hw : sh.wd = true) {m : Member} (hm : m ∈ s.lanesOn g) :
    (s.regs.applyAll s.sch.cur.blk (computeWr sh fn d a b g s)).vcell s.sch.cur.blk m.crew (s.regs.cellOf s.sch.cur.blk m.crew d + 1) m.lane =
      hi (s.laneResult sh fn d a b m).1 := by
  obtain ⟨hlane, hcrew, hcells⟩ := hfit.lanesOn hm
  refine Regs.applyAll_vcell _ _ (fun c n l v hv hk => ?_) (.inr ⟨_, _, _, _, (cell_mem_computeWr hd).mpr ⟨m, hm, rfl, rfl, .inr ⟨hw, rfl, rfl⟩⟩, rfl⟩)
  obtain ⟨-, -, ⟨hn, -⟩ | ⟨-, -, hhigh⟩⟩ := cellKey_written hd hfit hcrew hcells hlane hv hk
  · exact absurd hn (by omega)
  · exact hhigh

/-- Every other cell reads as before. -/
theorem wrote_vcell_other (hd : d.isK = false) (hfit : s.ThreadsFit d) {blk c n l : Nat} (hc : c < 32) (hn : n < 1024) (hl : l < 32)
    (hout : blk = s.sch.cur.blk → (⟨l, c⟩ : Member) ∈ s.lanesOn g →
      n ≠ s.regs.cellOf s.sch.cur.blk c d ∧ (sh.wd = true → n ≠ s.regs.cellOf s.sch.cur.blk c d + 1)) :
    (s.regs.applyAll s.sch.cur.blk (computeWr sh fn d a b g s)).vcell blk c n l = s.regs.vcell blk c n l := by
  refine Regs.applyAll_vcell _ _ (fun c' n' l' v hv hk => ?_) (.inl rfl)
  obtain ⟨hblk, hm, hcell⟩ := cellKey_written hd hfit hc hn hl hv hk
  obtain ⟨hlow, hhigh⟩ := hout hblk hm
  rcases hcell with ⟨h, -⟩ | ⟨hw, h, -⟩
  · exact absurd h hlow
  · exact absurd h (hhigh hw)

end

/-- Settles O57: each cell that the instruction writes is d, or behind d, of a thread that is on, and no two threads share a cell. -/
theorem lanesCompute : Obligations.LanesCompute := by
  unfold Obligations.LanesCompute
  rintro sh fn d a b g s t blk rfl rfl hd - hfit
  change s.ThreadsFit d at hfit
  have hsame := Regs.SameButCells.applyAll s.regs s.sch.cur.blk fun w hw => cellOrFlags_of_mem_computeWr (sh := sh) (fn := fn) (a := a) (b := b) (g := g) (s := s) hd hw
  have hregs : (s.computed sh fn d a b g).regs = s.regs.applyAll s.sch.cur.blk (computeWr sh fn d a b g s) := rfl
  rw [hregs]
  refine ⟨?_, ?_, ?_, hsame.crewSt, hsame.k, hsame.q, hsame.p, hsame.call, hsame.parts, rfl, rfl, rfl, rfl, rfl⟩
  · rintro m hm x n rfl rfl
    obtain ⟨hlane, hcrew, -⟩ := hfit.lanesOn hm
    exact ⟨wrote_vcell_low hd hfit hm, fun hw => wrote_vcell_high hd hfit hw hm,
      fun k hk hlow hhigh => wrote_vcell_other hd hfit hcrew hk hlane fun _ _ => ⟨hlow, hhigh⟩⟩
  · intro b' c n l hc hn hl hout
    exact wrote_vcell_other hd hfit hc hn hl fun hb hm => (hout.elim (fun h => h hb) fun h => h hm).elim
  · intro c hc hc33
    refine Regs.applyAll_crewSt _ _ (fun w hw => cellOrFlags_of_mem_computeWr hd hw) fun c' f hf hk => ?_
    obtain ⟨m, hm, rfl⟩ := flags_mem_computeWr hd hf
    exact hc m hm (by unfold crewKey at hk; omega)

end Sys2Proof.Machine

/-!
PROOF (TrapEntry: R111, R127, R128, R312 to R314).
-/
namespace Sys2Proof.Machine

-- One theorem after the other: in parallel they ask for more threads than the host allows.
set_option Elab.async false

/-! ## The record of a fault -/

/-- The fault that an exception of the bundle in hand raises: its threads, with those that have arrived where it is bound to a crew. -/
def State.raised (s : State) (i : TrapInfo) : FaultRec :=
  s.mkFault i s.sch.cur (laneSort (s.sch.cur.members ++
    if i.bound && !s.sch.cur.feed then s.arrivedElsewhere s.sch.cur.blk s.sch.cur.crew s.sch.cur.pc else []))

/-- The state in which an exception has been recorded, before the block or the crew stops. -/
def State.recorded (s : State) (i : TrapInfo) : State :=
  let h := if i.bound && !s.sch.cur.feed then s.sch.withdraw s.sch.cur.blk s.sch.cur.crew s.sch.cur.pc else s.sch
  let t := if i.cls == .xlate then s.dropVerdicts (s.launchOf s.sch.cur.blk).ctx else s
  { t with sch := { h with faults := h.faults ++ [s.raised i], nextFault := h.nextFault + 1, curOn := false, cur := Bundle.none } }

theorem takeTrap_of_fault {s : State} {i : TrapInfo} (h : i.cls ≠ .eccunc) : s.takeTrap i =
    if (s.launchOf s.sch.cur.blk).inspect then ((s.recorded i).faultGirth (s.raised i)).due [.faultEntryWrite (s.raised i).id]
    else ((s.recorded i).stopBlock s.sch.cur.blk 2).due [.faultEntryWrite (s.raised i).id] := by
  unfold State.takeTrap
  rw [if_neg (by simpa using h)]
  rfl

theorem takeTrap_of_eccunc {s : State} {i : TrapInfo} (h : i.cls = .eccunc) (hg : (s.launchOf s.sch.cur.blk).guarded = false) :
    s.takeTrap i = s.dropCur.killBlock s.sch.cur.blk := by
  unfold State.takeTrap
  rw [if_pos (by simpa using h), if_neg (Bool.eq_false_iff.mp hg)]

theorem recorded_frame (s : State) (i : TrapInfo) : (s.recorded i).regs = s.regs ∧ (s.recorded i).mem = s.mem ∧ (s.recorded i).sp = s.sp ∧
    (s.recorded i).pipe.pends = s.pipe.pends ∧ (s.recorded i).disp = s.disp ∧ (s.recorded i).sch.curOn = false := by
  unfold State.recorded
  split <;> split <;> exact ⟨rfl, rfl, rfl, rfl, rfl, rfl⟩

theorem raised_mem_recorded (s : State) (i : TrapInfo) : s.raised i ∈ (s.recorded i).sch.faults := List.mem_append_right _ (List.mem_singleton_self _)

theorem mem_raised_threads {s : State} {i : TrapInfo} {m : Member} (h : m ∈ s.sch.cur.members) : m ∈ (s.raised i).threads :=
  mem_sortBy.mpr (List.mem_append_left _ h)

theorem stopBlock_frame (s : State) (b why : Nat) : (s.stopBlock b why).regs = s.regs ∧ (s.stopBlock b why).mem = s.mem ∧ (s.stopBlock b why).sp = s.sp ∧
    (s.stopBlock b why).pipe.pends = s.pipe.pends := by
  simp

theorem leaveGirth_disp_sch (s : State) (b : Nat) : (s.leaveGirth b).disp = s.disp ∧ (s.leaveGirth b).sch = s.sch := by
  unfold State.leaveGirth
  obtain ⟨-, hsch, -, -, -, -, -, -, hdisp, -⟩ :=
    State.lapseHolds_frame { s with gi := { s.gi with ops := s.gi.ops.map fun (o : GirthOp) => if o.blk == b then { o with stop := noStop } else o } } b
  exact ⟨hdisp, hsch⟩

/-- A block that stops leaves the threads where they are. -/
theorem stopBlock_sch (s : State) (b why : Nat) : (s.stopBlock b why).sch.curOn = s.sch.curOn ∧ (s.stopBlock b why).sch.faults = s.sch.faults := by
  unfold State.stopBlock
  dsimp only
  split
  · simp only [State.due, (leaveGirth_disp_sch _ b).2]
    exact ⟨rfl, rfl⟩
  · split <;> exact ⟨rfl, rfl⟩

/-- A running block that stops drains, and its swap-out is due. -/
theorem stopBlock_running {s : State} {b : Nat} (why : Nat) (h : (s.block b).st = .running) :
    ((s.stopBlock b why).block b).st = .draining ∧ Instr.swapOut b ∈ (s.stopBlock b why).sch.agenda := by
  have hne : s.block b ≠ .none := fun hn => by rw [hn] at h; cases h
  unfold State.stopBlock
  simp only [h, beq_self_eq_true, Bool.true_or, if_true]
  refine ⟨?_, List.mem_append_right _ (List.mem_singleton_self _)⟩
  refine (congrArg Block.st (State.block_congr (congrArg Disp.blocks (leaveGirth_disp_sch _ b).1) b)).trans ?_
  exact State.setBlock_block_at Block.st hne (State.block_found hne).2 rfl

theorem faultGirth_frame (s : State) (f : FaultRec) : (s.faultGirth f).regs = s.regs ∧ (s.faultGirth f).mem = s.mem ∧ (s.faultGirth f).sp = s.sp ∧
    (s.faultGirth f).pipe.pends = s.pipe.pends ∧ (s.faultGirth f).disp = s.disp ∧ (s.faultGirth f).sch.curOn = s.sch.curOn ∧
      (s.faultGirth f).sch.faults = s.sch.faults := by
  simp

/-- An exception that is recorded leaves the registers and the memories; its record names the bundle's place. -/
theorem recorded_fault {s : State} {i : TrapInfo} : ∃ f ∈ (s.recorded i).sch.faults, f.id = s.sch.nextFault ∧ f.blk = s.sch.cur.blk ∧ f.feed = s.sch.cur.feed ∧
    f.pc = s.sch.cur.pc ∧ f.cls = i.cls ∧ f.code = i.code ∧ f.time = s.now ∧ f.inspect = (s.launchOf s.sch.cur.blk).inspect ∧ (∀ m ∈ s.sch.cur.members, m ∈ f.threads) ∧
    (f.toCore = true ↔ (s.ctx (s.launchOf s.sch.cur.blk).ctx).routing.getLsbD (i.cls.num - 1) = true ∨ (s.ctx (s.launchOf s.sch.cur.blk).ctx).fqset = false) := by
  refine ⟨s.raised i, raised_mem_recorded s i, rfl, rfl, rfl, rfl, rfl, rfl, rfl, rfl, fun m hm => mem_raised_threads hm, ?_⟩
  change s.routedToCore _ _ = true ↔ _
  simp [State.routedToCore]

/-! ## An opcode that FEATACC does not accept -/

theorem illopNow_of_feat {s : State} {i : Instr} {q : Issue} {n : Nat} (hq : q.feat = some n) (h : s.host.featacc.getLsbD n = false) : illopNow i q s = true := by
  simp [illopNow, hq, h]

theorem issue_unaccepted {s : State} {i : Instr} {q : Issue} {act : State → State} {n words : Nat} {whole : Bool} (h : s.host.featacc.getLsbD n = false)
    (hq : q.feat = some n) (hw : q.words = words) (hb : q.bound.all = whole) : issue i q s act = .next (s.illop words whole) := by
  rw [issue_illop (illopNow_of_feat hq h), hw, hb]

/-- An opcode that FEATACC does not accept raises ILLOP (R127). -/
theorem exec_unaccepted {s : State} {j : Instr} {n words : Nat} {whole : Bool} (hj : featureOf j = some (n, words, whole)) (h : s.host.featacc.getLsbD n = false) :
    exec j s = .next (s.illop words whole) := by
  unfold featureOf at hj
  split at hj <;> cases hj <;> exact issue_unaccepted h rfl rfl rfl

/-- Settles O58: an exception records its fault and stops the block or the crew; ECCUNC outside a guarded pair stops the launch. -/
theorem trapEntry : Obligations.TrapEntry := by
  unfold Obligations.TrapEntry
  rintro i s t u l rfl rfl rfl
  obtain ⟨hregs, hmem, hsp, hpends, hdisp, hon⟩ := recorded_frame s i
  refine ⟨fun hcls => ?_, fun hcls hg huid => ?_, fun j n words whole hj h => exec_unaccepted hj h⟩
  · rw [takeTrap_of_fault hcls]
    cases hin : (s.launchOf s.sch.cur.blk).inspect with
    | true =>
      obtain ⟨h1, h2, h3, h4, h5, h6, h7⟩ := faultGirth_frame (s.recorded i) (s.raised i)
      rw [if_pos rfl]
      refine ⟨h1.trans hregs, h2.trans hmem, h3.trans hsp, h4.trans hpends, h6.trans hon, ?_, fun _ => h5.trans hdisp, nofun⟩
      obtain ⟨f, hf, hrest⟩ := recorded_fault (s := s) (i := i)
      exact ⟨f, (congrArg (f ∈ ·) h7).mpr hf, hin ▸ hrest⟩
    | false =>
      obtain ⟨h1, h2, h3, h4⟩ := stopBlock_frame (s.recorded i) s.sch.cur.blk 2
      obtain ⟨h5, h6⟩ := stopBlock_sch (s.recorded i) s.sch.cur.blk 2
      rw [if_neg Bool.false_ne_true]
      refine ⟨h1.trans hregs, h2.trans hmem, h3.trans hsp, h4.trans hpends, h5.trans hon, ?_, nofun, fun _ hst => ?_⟩
      · obtain ⟨f, hf, hrest⟩ := recorded_fault (s := s) (i := i)
        exact ⟨f, (congrArg (f ∈ ·) h6).mpr hf, hin ▸ hrest⟩
      · rw [← State.block_congr (congrArg Disp.blocks hdisp)] at hst
        obtain ⟨hdrain, hswap⟩ := stopBlock_running 2 hst
        exact ⟨hdrain, List.mem_append_left _ hswap⟩
  · rw [takeTrap_of_eccunc hcls hg]
    have hne : s.launchOf s.sch.cur.blk ≠ .none := fun hn => huid (by rw [hn]; rfl)
    have hnum : (s.launchOf s.sch.cur.blk).uid = (s.block s.sch.cur.blk).launch := (State.launch_found hne).2
    refine ⟨rfl, rfl, rfl, ?_, ?_⟩
    · rw [hnum]
      exact State.setLaunch_launch_at Launch.stopped (s := s.dropCur) hne hnum rfl
    · rw [hnum]
      have hstatus : ((s.dropCur.killBlock s.sch.cur.blk).launch (s.block s.sch.cur.blk).launch).status = max (s.launchOf s.sch.cur.blk).status 2 :=
        State.setLaunch_launch_at Launch.status (s := s.dropCur) (x := s.dropCur.stoppedLaunch (s.block s.sch.cur.blk).launch 2) hne hnum rfl
      rw [hstatus]
      exact Nat.le_max_right _ 2

end Sys2Proof.Machine

/-!
PROOF (TrapReturn: R204, R314).
-/
namespace Sys2Proof.Machine

-- One theorem after the other: in parallel they ask for more threads than the host allows.
set_option Elab.async false

/-! ## The threads of a fault -/

/-- The bundle of a fault's threads, at the faulting instruction. -/
def FaultRec.threadsAt (f : FaultRec) (now : Nat) : Bundle :=
  { blk := f.blk, feed := f.feed, pc := f.pc, clause := f.clause, members := f.threads, wait := .ready, since := now, pass := false, adv := 0 }

/-- The bundle that leaves a fault: at the faulting instruction, or behind it. -/
def FaultRec.leaving (f : FaultRec) (skip : Bool) (now : Nat) : Bundle :=
  if skip || f.nextWord then
    { (f.threadsAt now).step f.words now with clause := if f.clause.isNone then f.after else ((f.threadsAt now).step f.words now).clause }
  else f.threadsAt now

/-- A fault's threads stand among the bundles. -/
def State.threadsBack (s : State) (f : FaultRec) (skip : Bool) : State :=
  let t := { s with sch := { s.sch with faults := s.sch.faults.filter (·.id != f.id) } }
  if f.moved then t else t.addBundles [f.leaving skip s.now]

/-- What a guarded pair notes of a fault that is left. -/
def State.pairNotes (s : State) (f : FaultRec) (skip : Bool) : State :=
  let t := if f.cls == .holdovf && !skip then
    match s.pairOf f.blk with
    | some p => s.mapPair p.primary fun q => { q with holdPts := q.holdPts ++ [(f.blk, threadsCode f.feed f.threads)] }
    | none => s
  else s
  if skip then t.spendGo f.blk (threadsCode f.feed f.threads) else t

/-- The block of a fault that is left: a halted crew's operations go back to the girth; a swapped block with no other fault may be placed. -/
def State.blockBack (s : State) (f : FaultRec) : State :=
  if f.inspect then s.backGirth (s.block f.blk).core
  else if s.sch.faults.any fun g => g.blk == f.blk && !g.inspect then s
  else (s.setBlock { s.block f.blk with placeable := true }).due (if (s.block f.blk).inPlace then [.swapRestore (s.block f.blk).id (s.block f.blk).core] else [])

theorem leaveTrap_eq (s : State) (f : FaultRec) (skip : Bool) : s.leaveTrap f skip = ((s.threadsBack f skip).pairNotes f skip).blockBack f := by
  rfl

theorem FaultRec.leaving_place (f : FaultRec) (skip : Bool) (now : Nat) : (f.leaving skip now).blk = f.blk ∧ (f.leaving skip now).feed = f.feed ∧
    (f.leaving skip now).members = f.threads ∧ (f.leaving skip now).wait = .ready ∧
    (f.leaving skip now).pc = if (skip || f.nextWord) = true then f.pc + BitVec.ofNat 32 (4 * f.words) else f.pc := by
  unfold FaultRec.leaving
  split <;> exact ⟨rfl, rfl, rfl, rfl, rfl⟩

/-! ## What each part of a return leaves -/

theorem threadsBack_frame (s : State) (f : FaultRec) (skip : Bool) : (s.threadsBack f skip).regs = s.regs ∧ (s.threadsBack f skip).mem = s.mem ∧
    (s.threadsBack f skip).disp = s.disp ∧ (s.threadsBack f skip).sch.faults = s.sch.faults.filter (·.id != f.id) := by
  unfold State.threadsBack
  dsimp only
  split <;> exact ⟨rfl, rfl, rfl, rfl⟩

theorem leaving_mem_threadsBack {s : State} {f : FaultRec} {skip : Bool} (hmoved : f.moved = false) (hthreads : f.feed = true ∨ f.threads ≠ []) :
    f.leaving skip s.now ∈ (s.threadsBack f skip).sch.bundles := by
  obtain ⟨-, hfeed, hmembers, -⟩ := f.leaving_place skip s.now
  unfold State.threadsBack
  rw [if_neg (Bool.eq_false_iff.mp hmoved)]
  refine List.mem_append_right _ (List.mem_filter.mpr ⟨List.mem_singleton_self _, ?_⟩)
  rw [hfeed, hmembers]
  simpa [List.isEmpty_iff] using hthreads

theorem pairNotes_frame (s : State) (f : FaultRec) (skip : Bool) : (s.pairNotes f skip).regs = s.regs ∧ (s.pairNotes f skip).mem = s.mem ∧
    (s.pairNotes f skip).disp = s.disp ∧ (s.pairNotes f skip).sch = s.sch := by
  unfold State.pairNotes
  dsimp only
  (repeat' split) <;> simp

theorem blockBack_frame (s : State) (f : FaultRec) : (s.blockBack f).regs = s.regs ∧ (s.blockBack f).mem = s.mem ∧ (s.blockBack f).sch.bundles = s.sch.bundles ∧
    (s.blockBack f).sch.faults = s.sch.faults := by
  unfold State.blockBack
  split
  · exact ⟨rfl, rfl, rfl, rfl⟩
  · split <;> exact ⟨rfl, rfl, rfl, rfl⟩

/-- A swapped block with no other fault may be placed. -/
theorem blockBack_placeable {s : State} {f : FaultRec} (hswap : f.inspect = false) (hlast : ∀ g ∈ s.sch.faults, g.blk = f.blk → g.inspect = true)
    (hne : s.block f.blk ≠ .none) : ((s.blockBack f).block f.blk).placeable = true := by
  unfold State.blockBack
  rw [if_neg (Bool.eq_false_iff.mp hswap), if_neg (by simpa using hlast)]
  exact State.setBlock_block_at (s := s) Block.placeable hne (State.block_found hne).2 rfl

theorem State.watchSync_block_placeable {s : State} {b : Nat} (h : s.block b ≠ .none) : ((s.watchSync b).block b).placeable = (s.block b).placeable := by
  have hid := (State.block_found h).2
  unfold State.watchSync
  dsimp only
  split
  · split
    · exact State.setBlock_block_at Block.placeable h hid rfl
    · rfl
  · split
    · rfl
    · exact State.setBlock_block_at Block.placeable h hid rfl

theorem watchSync_sch (s : State) (b : Nat) : (s.watchSync b).sch.bundles = s.sch.bundles ∧ (s.watchSync b).sch.faults = s.sch.faults := by
  unfold State.watchSync
  dsimp only
  split <;> split <;> exact ⟨rfl, rfl⟩

/-! ## RESUME and SKIP -/

/-- What the return of a fault's threads gives. -/
theorem continueFault_runs {s : State} {f : FaultRec} (skip : Bool) (hmoved : f.moved = false) (hthreads : f.feed = true ∨ f.threads ≠ [])
    (hrun : (s.launchOf f.blk).stopped = false) : (s.continueFault f skip).regs = s.regs ∧ (s.continueFault f skip).mem = s.mem ∧
    (∀ g ∈ (s.continueFault f skip).sch.faults, g.id ≠ f.id) ∧ ∃ u ∈ (s.continueFault f skip).sch.bundles, u.blk = f.blk ∧ u.feed = f.feed ∧ u.members = f.threads ∧
      u.wait = .ready ∧ u.pc = if (skip || f.nextWord) = true then f.pc + BitVec.ofNat 32 (4 * f.words) else f.pc := by
  obtain ⟨hregs, hmem, -, hfaults⟩ := threadsBack_frame s f skip
  obtain ⟨pregs, pmem, -, psch⟩ := pairNotes_frame (s.threadsBack f skip) f skip
  obtain ⟨bregs, bmem, bbundles, bfaults⟩ := blockBack_frame ((s.threadsBack f skip).pairNotes f skip) f
  unfold State.continueFault
  rw [if_neg (Bool.eq_false_iff.mp hrun), leaveTrap_eq]
  obtain ⟨wbundles, wfaults⟩ := watchSync_sch ((((s.threadsBack f skip).pairNotes f skip).blockBack f).stepOver f.blk f.crewNo) f.blk
  refine ⟨by simpa using bregs.trans (pregs.trans hregs), by simpa using bmem.trans (pmem.trans hmem), fun g hg => ?_, f.leaving skip s.now, ?_, f.leaving_place skip s.now⟩
  · rw [wfaults] at hg
    have hg : g ∈ (((s.threadsBack f skip).pairNotes f skip).blockBack f).sch.faults := hg
    rw [bfaults, psch, hfaults] at hg
    simpa using (List.mem_filter.mp hg).2
  · rw [wbundles]
    change _ ∈ (((s.threadsBack f skip).pairNotes f skip).blockBack f).sch.bundles
    rw [bbundles, psch]
    exact leaving_mem_threadsBack hmoved hthreads

/-- A block that was swapped out for its last fault may be placed again. -/
theorem continueFault_placeable {s : State} {f : FaultRec} (skip : Bool) (hrun : (s.launchOf f.blk).stopped = false) (hswap : f.inspect = false)
    (hne : s.block f.blk ≠ .none) (hlast : ∀ g ∈ s.sch.faults, g.blk = f.blk → g.inspect = false → g.id = f.id) :
    ((s.continueFault f skip).block f.blk).placeable = true := by
  obtain ⟨-, -, hdisp, hfaults⟩ := threadsBack_frame s f skip
  obtain ⟨-, -, pdisp, psch⟩ := pairNotes_frame (s.threadsBack f skip) f skip
  have hback : ((((s.threadsBack f skip).pairNotes f skip).blockBack f).block f.blk).placeable = true := by
    refine blockBack_placeable hswap (fun g hg hb => ?_) ?_
    · rw [psch, hfaults] at hg
      obtain ⟨hg, hid⟩ := List.mem_filter.mp hg
      refine Decidable.byContradiction fun hin => ?_
      exact absurd (hlast g hg hb (Bool.eq_false_iff.mpr hin)) (by simpa using hid)
    · rwa [State.block_congr (congrArg Disp.blocks (pdisp.trans hdisp))]
  unfold State.continueFault
  rw [if_neg (Bool.eq_false_iff.mp hrun), leaveTrap_eq, State.watchSync_block_placeable]
  · exact hback
  · intro hn
    have hn : (((s.threadsBack f skip).pairNotes f skip).blockBack f).block f.blk = .none := hn
    rw [hn] at hback
    cases hback

/-- RESUME and SKIP serve an entry of the driver's queue. -/
theorem exec_faultResume_entry {ctx seq : Nat} {f : FaultRec} {s : State} (hopen : 5 ≤ s.host.boot) (hidle : s.host.cmdRun = .idle) (hseq : seq < 2 ^ 32)
    (hf : s.entryOf ctx seq = some f) : exec (.faultResume ctx seq) s = .next ((s.continueFault f false).cmdEnd 0) ∧
      exec (.faultSkip ctx seq) s = .next ((s.continueFault f true).cmdEnd 0) := by
  constructor
  all_goals
    rw [exec]
    simp only [execFaultResume, execFaultSkip, State.faultCommand, State.command, State.open', State.serveFault, State.serveEntry]
    rw [if_neg (Nat.not_le.mpr hseq), if_pos (by simp [hopen, hidle]), hf]
    rfl

/-- Settles O59: a return files the threads of a fault that is left; those of a stopped launch stay, their entry served. -/
theorem trapReturn : Obligations.TrapReturn := by
  unfold Obligations.TrapReturn
  intro ctx seq f s hopen hidle hseq hf hmoved hthreads
  obtain ⟨hresume, hskip⟩ := exec_faultResume_entry hopen hidle hseq hf
  refine ⟨fun hrun => ⟨?_, ?_⟩, fun hstop i hi => ?_⟩
  · obtain ⟨hregs, hmem, hfaults, u, hu, hplace⟩ := continueFault_runs false hmoved hthreads hrun
    refine ⟨_, hresume, hregs, hmem, hfaults, rfl, ⟨u, hu, hplace⟩, fun hswap hblk hid hlast => ?_⟩
    exact continueFault_placeable false hrun hswap (fun hn => hblk (by rw [← hid, hn]; rfl)) hlast
  · obtain ⟨hregs, hmem, hfaults, u, hu, hplace⟩ := continueFault_runs true hmoved hthreads hrun
    exact ⟨_, hskip, hregs, hmem, hfaults, u, hu, hplace⟩
  · have hserved : ∀ skip, s.continueFault f skip = s.served f.id := fun skip => if_pos hstop
    have hall : ∀ g ∈ (s.served f.id).sch.faults, g.id = f.id → g.served = true := by
      intro g hg hid
      obtain ⟨x, -, rfl⟩ := List.mem_map.mp hg
      by_cases hx : x.id = f.id
      · simp [hx]
      · simp only [beq_iff_eq, hx, if_false] at hid
    rcases hi with rfl | rfl
    · exact ⟨(s.served f.id).cmdEnd 0, hresume.trans (by rw [hserved]), rfl, rfl, rfl, rfl, hall⟩
    · exact ⟨(s.served f.id).cmdEnd 0, hskip.trans (by rw [hserved]), rfl, rfl, rfl, rfl, hall⟩

end Sys2Proof.Machine

/-!
PROOF (GirthGuardEventsComplete, the girth: R234, R285 to R288, R290).
-/
namespace Sys2Proof.Machine

-- One theorem after the other: in parallel they ask for more threads than the host allows.
set_option Elab.async false

/-! ## Headers and words of a slot -/

@[simp] theorem State.slotHdr_setHdr_self (s : State) (n : Nat) (h : SlotHdr) : (s.setHdr n h).slotHdr n = h := mget_mput_self _ _ _ _

theorem State.slotHdr_setHdr_ne (s : State) {n m : Nat} (h : SlotHdr) (hm : m ≠ n) : (s.setHdr n h).slotHdr m = s.slotHdr m := mget_mput_ne _ _ _ hm

@[simp] theorem State.setWords_slotHdr (s : State) (slot i n : Nat) (ws : List Word) : (s.setWords slot i ws).slotHdr n = s.slotHdr n := rfl

/-- Words written to a slot read back. -/
theorem State.slotWord_setWords (s : State) (slot i j : Nat) {ws : List Word} (hj : j < ws.length) :
    (s.setWords slot i ws).slotWord slot (i + j) = ws.getD j 0 := by
  have hread := mget_keyed (0 : Word) s.gi.data (slot * 16 + i) ws
  have hat := congrArg (fun l => l.getD j 0) hread
  simpa [List.getD_eq_getElem?_getD, List.getElem?_range, hj, State.slotWord, State.setWords, keyed, Nat.add_assoc] using hat

/-- Other words read as before. -/
theorem State.slotWord_setWords_ne (s : State) {slot i m n : Nat} {ws : List Word} (h : m * 16 + n < slot * 16 + i ∨ slot * 16 + i + ws.length ≤ m * 16 + n) :
    (s.setWords slot i ws).slotWord m n = s.slotWord m n := mget_keyed_of_lt_or_le (0 : Word) s.gi.data ws h

/-- A reservation that is set apart, a header says the same. -/
def SlotHdr.bare (h : SlotHdr) : SlotHdr := { h with rsv := none }

theorem SlotHdr.bare_of_rsv_none {h : SlotHdr} (hr : h.rsv = none) : h.bare = h := by
  cases h
  cases hr
  rfl

/-! ## An operation that acts -/

/-- The pending operations after one of them has its results. -/
def State.pendsWith (s : State) (o : GirthOp) (ws : List RegWr) : List Pend :=
  s.pipe.pends.map fun p => if (p.id == o.pend) = true then { p with outs := ws, parts := 0 } else p

theorem State.girthActed_pends (s : State) (o : GirthOp) (ws : List RegWr) : (s.girthActed o ws).pipe.pends = s.pendsWith o ws := by
  unfold State.girthActed
  rw [(State.recheck_queues _ _).1]
  rfl

theorem State.girthActed_slots (s : State) (o : GirthOp) (ws : List RegWr) : (s.girthActed o ws).gi.hdr = s.gi.hdr ∧ (s.girthActed o ws).gi.data = s.gi.data := by
  unfold State.girthActed
  simp only [State.recheck_frame]
  exact ⟨rfl, rfl⟩

/-- The operations that stay after one has acted. -/
def State.OpsAfter (s : State) (o : GirthOp) (t : State) : Prop :=
  (∀ x ∈ t.gi.ops, x.pend ≠ o.pend) ∧ ∀ x ∈ s.gi.ops, x.pend ≠ o.pend → ∃ y ∈ t.gi.ops, y.pend = x.pend ∧ y.act = x.act

/-- Operations that are changed otherwise than in their number and act stay. -/
theorem State.OpsAfter.map {s t u : State} {o : GirthOp} (h : s.OpsAfter o t) (f : GirthOp → GirthOp) (hf : ∀ x, (f x).pend = x.pend ∧ (f x).act = x.act)
    (hu : u.gi.ops = t.gi.ops.map f) : s.OpsAfter o u := by
  obtain ⟨hgone, hstay⟩ := h
  refine ⟨fun x hx => ?_, fun x hx hne => ?_⟩
  · rw [hu] at hx
    obtain ⟨y, hy, rfl⟩ := List.mem_map.mp hx
    rw [(hf y).1]
    exact hgone y hy
  · obtain ⟨y, hy, hp, ha⟩ := hstay x hx hne
    exact ⟨f y, hu ▸ List.mem_map_of_mem hy, (hf y).1.trans hp, (hf y).2.trans ha⟩

theorem State.girthActed_ops {s r : State} (o : GirthOp) (ws : List RegWr) (hr : r.gi.ops = s.gi.ops) : s.OpsAfter o (r.girthActed o ws) := by
  have hfirst : s.OpsAfter o { r with gi := { r.gi with ops := r.gi.ops.filter fun x => x.pend != o.pend } } := by
    refine ⟨fun x hx => by simpa using (List.mem_filter.mp hx).2, fun x hx hne => ⟨x, List.mem_filter.mpr ⟨hr ▸ hx, by simpa using hne⟩, rfl, rfl⟩⟩
  unfold State.girthActed
  dsimp only
  generalize hu : State.backGirth _ _ = u
  have hback : s.OpsAfter o u := by
    rw [← hu]
    unfold State.backGirth
    refine State.OpsAfter.map hfirst _ (fun x => ?_) rfl
    split <;> exact ⟨rfl, rfl⟩
  exact State.OpsAfter.map hback id (fun _ => ⟨rfl, rfl⟩) (by simp)

/-! ## The rest of a passage -/

/-- After the one action of a passage nothing happens to the slot but a reservation. -/
theorem girthServe_used (s : State) (stop slot c : Nat) (l : List GirthOp) : s.girthServe stop slot c true l = s ∨
    l ≠ [] ∧ (s.slotHdr slot).rsv = none ∧ s.girthServe stop slot c true l = s.setHdr slot { s.slotHdr slot with rsv := some (stop, c + 392) } := by
  induction l generalizing s with
  | nil => exact .inl rfl
  | cons o rest ih =>
    have hskip := (ih s).imp_right fun h => And.intro (List.cons_ne_nil o rest) h.2
    rw [State.girthServe]
    split
    · exact hskip
    · split
      · exact hskip
      · dsimp only
        split
        · next hres =>
          have hnone : (s.slotHdr slot).rsv = none := by simpa using (Bool.and_eq_true_iff.mp hres).2
          refine .inr ⟨List.cons_ne_nil o rest, hnone, ?_⟩
          rcases ih (s.setHdr slot { s.slotHdr slot with rsv := some (stop, c + 392) }) with he | ⟨-, hr, -⟩
          · exact he
          · rw [State.slotHdr_setHdr_self] at hr
            cases hr
        · exact hskip

/-- The header that the rest of a passage leaves, the slot's words and the machine's other parts. -/
theorem girthServe_used_frame {s t : State} {stop slot c : Nat} {l : List GirthOp} (ht : s.girthServe stop slot c true l = t) :
    (t.slotHdr slot).bare = (s.slotHdr slot).bare ∧ (∀ m, m ≠ slot → t.slotHdr m = s.slotHdr m) ∧ t.gi.data = s.gi.data ∧ t.gi.ops = s.gi.ops ∧ t.pipe = s.pipe ∧
      t.regs = s.regs ∧ t.mem = s.mem ∧ t.clk = s.clk ∧
      ((t.slotHdr slot).rsv = (s.slotHdr slot).rsv ∨ l ≠ [] ∧ (t.slotHdr slot).rsv = some (stop, c + 392)) := by
  subst ht
  rcases girthServe_used s stop slot c l with h | ⟨hl, -, h⟩
  · rw [h]
    exact ⟨rfl, fun _ _ => rfl, rfl, rfl, rfl, rfl, rfl, rfl, .inl rfl⟩
  · rw [h, State.slotHdr_setHdr_self]
    exact ⟨rfl, fun m hm => s.slotHdr_setHdr_ne _ hm, rfl, rfl, rfl, rfl, rfl, rfl, .inr ⟨hl, rfl⟩⟩

/-- What a passage ends with: a reservation that ends in this cycle. -/
def State.dropRsv (t : State) (stop slot c : Nat) : State :=
  if (t.slotHdr slot).rsv.any fun r => r.1 == stop && r.2 == c then t.setHdr slot { t.slotHdr slot with rsv := none } else t

theorem dropRsv_later {t : State} {stop slot c : Nat} (h : ∀ r, (t.slotHdr slot).rsv = some r → r.2 ≠ c) : t.dropRsv stop slot c = t := by
  unfold State.dropRsv
  refine if_neg ?_
  rw [Option.any_eq_true]
  rintro ⟨r, hr, he⟩
  exact h r hr (by simpa using (Bool.and_eq_true_iff.mp he).2)

/-- The stop of a passage acts, or the hold that ends there. -/
theorem passage_eq (s : State) (stop slot c : Nat) : s.passage stop slot c =
    (if (s.settleSlot slot c |>.slotHdr slot).hold.any fun x => x.1 == stop && x.2.2.2 == c then
      (((s.settleSlot slot c).endHold slot).girthServe stop slot c true (((s.settleSlot slot c).endHold slot).girthReady stop slot c)).dropRsv stop slot c
    else ((s.settleSlot slot c).girthServe stop slot c false ((s.settleSlot slot c).girthReady stop slot c)).dropRsv stop slot c) := by
  unfold State.passage
  dsimp only
  split
  · next h => simp only [h]; rfl
  · next h => simp only [Bool.eq_false_iff.mpr h]; rfl

theorem settleSlot_of_free {s : State} {slot c : Nat} (hh : ∀ x, (s.slotHdr slot).hold = some x → c ≤ x.2.2.2)
    (hr : ∀ r, (s.slotHdr slot).rsv = some r → c ≤ r.2) : s.settleSlot slot c = s := by
  unfold State.settleSlot
  have hhold : ¬ ((s.slotHdr slot).hold.any fun x => x.2.2.2 < c) = true := by
    rw [Option.any_eq_true]
    rintro ⟨x, hx, hlt⟩
    exact absurd (hh x hx) (by simpa using hlt)
  have hrsv : ¬ ((s.slotHdr slot).rsv.any fun r => r.2 < c) = true := by
    rw [Option.any_eq_true]
    rintro ⟨r, hx, hlt⟩
    exact absurd (hr r hx) (by simpa using hlt)
  rw [if_neg hhold]
  exact if_neg hrsv

/-- No operation of a stop has looked for a revolution. -/
theorem girthMissed_of_none {s : State} {stop c : Nat} (h : ∀ x ∈ s.gi.ops, x.stop = stop → x.byTag = true → c < x.ready + 392) : s.girthMissed stop c = s := by
  have hnone : (s.gi.ops.filter fun o => o.stop == stop && o.byTag && decide (o.ready + 392 ≤ c)) = [] := by
    refine List.filter_eq_nil_iff.mpr fun x hx hb => ?_
    simp only [Bool.and_eq_true, beq_iff_eq, decide_eq_true_eq] at hb
    exact absurd (h x hx hb.1.1 hb.1.2) (Nat.not_lt.mpr hb.2)
  rw [State.girthMissed, hnone]
  rfl

/-! ## A passage whose first operation acts -/

/-- What a landed operation leaves but the slot's words and header. -/
structure State.Landed (s : State) (stop slot c : Nat) (o : GirthOp) (rest : List GirthOp) (h : SlotHdr) (ws : List RegWr) (t : State) : Prop where
  ops : s.OpsAfter o t
  regs : t.regs = s.regs
  mem : t.mem = s.mem
  others : ∀ m, m ≠ slot → t.slotHdr m = s.slotHdr m
  hdr : (t.slotHdr slot).bare = h
  rsv : (t.slotHdr slot).rsv = none ∨ rest ≠ [] ∧ (t.slotHdr slot).rsv = some (stop, c + 392)
  pends : t.pipe.pends = s.pendsWith o ws

/-- The first ready operation of a stop acts at the passage of a free slot. -/
theorem passNow_acts {s r : State} {stop slot c : Nat} {o : GirthOp} {rest : List GirthOp} {ws : List RegWr} (horder : s.inOrder stop slot c = true)
    (hmiss : ∀ x ∈ s.gi.ops, x.stop = stop → x.byTag = true → c < x.ready + 392) (hready : s.girthReady stop slot c = o :: rest)
    (hfirst : s.girthBehind o slot = false) (hhold : (s.slotHdr slot).hold = none) (hrsv : (s.slotHdr slot).rsv = none)
    (htry : (s.reach c).girthTry o slot c = some (r, ws)) (hregs : r.regs = s.regs) (hmem : r.mem = s.mem) (hops : r.gi.ops = s.gi.ops) (hpends : r.pipe.pends = s.pipe.pends)
    (hothers : ∀ m, m ≠ slot → r.slotHdr m = s.slotHdr m) (hfree : (r.slotHdr slot).rsv = none) :
    s.Landed stop slot c o rest (r.slotHdr slot) ws (s.passNow stop slot c) ∧ (s.passNow stop slot c).gi.data = r.gi.data := by
  have hpass : s.passNow stop slot c = (((r.girthActed o ws).girthServe stop slot c true rest).dropRsv stop slot c).notePass stop slot c := by
    unfold State.passNow
    rw [if_pos horder, girthMissed_of_none hmiss, passage_eq,
      settleSlot_of_free (s := s.reach c) (fun x hx => by rw [show (s.reach c).slotHdr slot = s.slotHdr slot from rfl, hhold] at hx; cases hx)
        (fun x hx => by rw [show (s.reach c).slotHdr slot = s.slotHdr slot from rfl, hrsv] at hx; cases hx),
      if_neg (by rw [show (s.reach c).slotHdr slot = s.slotHdr slot from rfl, hhold]; simp), show (s.reach c).girthReady stop slot c = o :: rest from hready, State.girthServe,
      if_neg (by rw [show (s.reach c).girthBehind o slot = s.girthBehind o slot from rfl, hfirst]; simp), htry]
    rfl
  obtain ⟨ahdr, adata⟩ := r.girthActed_slots o ws
  have aslot : ∀ m, (r.girthActed o ws).slotHdr m = r.slotHdr m := fun m => by rw [State.slotHdr, ahdr, State.slotHdr]
  obtain ⟨hbare, hne, hdata, huops, hpipe, huregs, humem, -, hlast⟩ := girthServe_used_frame (s := r.girthActed o ws) (stop := stop) (slot := slot) (c := c) (l := rest) rfl
  have hstay := dropRsv_later (t := (r.girthActed o ws).girthServe stop slot c true rest) (stop := stop) (slot := slot) (c := c) fun x hx => by
    rcases hlast with h | ⟨-, h⟩
    · rw [h, aslot, hfree] at hx
      cases hx
    · rw [h] at hx
      cases hx
      omega
  rw [hpass, hstay]
  refine ⟨⟨?_, ?_, ?_, fun m hm => ?_, ?_, ?_, ?_⟩, hdata.trans adata⟩
  · refine State.OpsAfter.map (State.girthActed_ops o ws hops) _ (fun x => ?_) (congrArg (List.map _) huops)
    split <;> exact ⟨rfl, rfl⟩
  · exact huregs.trans (by simp [hregs])
  · exact humem.trans (by simp [hmem])
  · exact (hne m hm).trans ((aslot m).trans (hothers m hm))
  · refine hbare.trans ?_
    rw [aslot, SlotHdr.bare_of_rsv_none hfree]
  · rcases hlast with h | h
    · exact .inl (h.trans (by rw [aslot, hfree]))
    · exact .inr h
  · refine (congrArg Pipe.pends hpipe).trans ?_
    rw [State.girthActed_pends, State.pendsWith, hpends, State.pendsWith]

/-! ## What each operation does -/

section
variable {s : State} {o : GirthOp} {slot c : Nat}

theorem girthTry_read {cell : Nat} {q : Option Nat} (h : o.act = .read cell q) :
    s.girthTry o slot c = some (s, s.slotWrs o slot cell ++ qWr o q (s.slotHdr slot).hold.isSome) := by
  simp only [State.girthTry, h]

theorem girthTry_update {op word v k kd : Nat} {w64 : Bool} {q : Option Nat} (h : o.act = .update op word w64 v k kd q) (hfree : (s.slotHdr slot).hold = none) :
    s.girthTry o slot c = some (s.girthUpdate o slot op word w64 v k kd q) := by
  simp [State.girthTry, h, SlotHdr.heldElse, hfree]

theorem girthTry_cinch {cell : Nat} (h : o.act = .cinch cell) (hfree : (s.slotHdr slot).hold = none) (hrsv : (s.slotHdr slot).rsv = none) :
    s.girthTry o slot c = some (s.setHdr slot { s.slotHdr slot with hold := some (o.stop, o.blk, o.crew, c + 392) }, s.slotWrs o slot cell) := by
  simp only [State.girthTry, h, hfree, SlotHdr.rsvElse, hrsv, Option.isSome_none, Option.any_none, Bool.or_self, Bool.false_eq_true, if_false]

theorem girthTry_mount {tag : Word} {data : List Word} {kd : Nat} (h : o.act = .mount tag data kd) (hfree : (s.slotHdr slot).hold = none)
    (hrsv : (s.slotHdr slot).rsv = none) (htag : (s.slotHdr slot).tag = 0) :
    s.girthTry o slot c = some ((s.setHdr slot { s.slotHdr slot with tag := tag }).setWords slot 0 data, [.k o.crew kd (BitVec.ofNat 32 slot)]) := by
  simp only [State.girthTry, h, hfree, SlotHdr.rsvElse, hrsv, htag, Option.isSome_none, Option.any_none, Bool.or_self, bne_self_eq_false, Bool.false_eq_true,
    if_false]

theorem girthTry_dismount {byTag : Option Word} {cell : Nat} {q : Option Nat} (h : o.act = .dismount byTag cell q) (hfree : (s.slotHdr slot).hold = none)
    (htag : ∀ g, byTag = some g → g = (s.slotHdr slot).tag) : s.girthTry o slot c =
      some (s.setHdr slot { s.slotHdr slot with tag := 0 }, s.slotWrs o slot cell ++ qWr o q (byTag.isSome || (s.slotHdr slot).tag != 0)) := by
  have hsame : byTag.any (fun g => g != (s.slotHdr slot).tag) = false := by
    cases byTag with
    | none => rfl
    | some g => simpa using htag g rfl
  simp only [State.girthTry, h, SlotHdr.heldElse, hfree, hsame, Option.isSome_none, Bool.false_and, Bool.or_self, Bool.false_eq_true, if_false]

/-- A 32-bit update writes its word. -/
theorem girthUpdate_word {op word v k kd new : Nat} {q : Option Nat} (hnew : new = atomNew op 32 (s.slotWord slot word).toNat v k) :
    s.girthUpdate o slot op word false v k kd q = (s.setWords slot word [BitVec.ofNat 32 new],
      kWrs o.crew kd [BitVec.ofNat 32 (s.slotWord slot word).toNat] ++
        qWr o q (if op = 12 then (s.slotWord slot word).toNat == v else new != (s.slotWord slot word).toNat)) := by
  subst hnew
  rfl

end

end Sys2Proof.Machine

/-!
PROOF (GirthGuardEventsComplete, passages, holds and reservations: R234, R285 to R288, R290).
-/
namespace Sys2Proof.Machine

-- One theorem after the other: in parallel they ask for more threads than the host allows.
set_option Elab.async false

/-! ## Passages -/

theorem exec_girthPassage {stop slot : Nat} {s : State} (hstop : stop < 384) (hslot : slot < 1568) (hlive : stop ∉ s.disp.retired) :
    exec (.girthPassage stop slot) s = .next (s.passNow stop slot (s.nextPass stop slot)) := by
  rw [show exec (.girthPassage stop slot) s = execGirthPassage stop slot s from rfl, execGirthPassage, State.passThrough]
  exact if_neg (by simp [hlive, hstop, hslot])

theorem stop_of_girthReady {s : State} {stop slot c : Nat} {o : GirthOp} {rest : List GirthOp} (h : s.girthReady stop slot c = o :: rest) : o.stop = stop := by
  have ho : o ∈ s.girthReady stop slot c := h ▸ List.mem_cons_self
  obtain ⟨-, hf⟩ := List.mem_filter.mp (mem_sortBy.mp ho)
  simp only [Bool.and_eq_true, beq_iff_eq] at hf
  exact hf.1.1.1

/-- The first ready operation of a stop at the passage of a free slot. -/
structure State.FirstReady (s : State) (stop slot c : Nat) (o : GirthOp) (rest : List GirthOp) : Prop where
  order : s.inOrder stop slot c = true
  missed : ∀ x ∈ s.gi.ops, x.stop = stop → x.byTag = true → c < x.ready + 392
  ready : s.girthReady stop slot c = o :: rest
  first : s.girthBehind o slot = false
  hold : (s.slotHdr slot).hold = none
  rsv : (s.slotHdr slot).rsv = none

section
variable {s : State} {stop slot c : Nat} {o : GirthOp} {rest : List GirthOp} (hf : s.FirstReady stop slot c o rest)
include hf

theorem passNow_read {cell : Nat} {q : Option Nat} (h : o.act = .read cell q) :
    s.Landed stop slot c o rest (s.slotHdr slot) (s.slotWrs o slot cell ++ qWr o q false) (s.passNow stop slot c) ∧ (s.passNow stop slot c).gi.data = s.gi.data := by
  refine passNow_acts hf.order hf.missed hf.ready hf.first hf.hold hf.rsv (r := s.reach c) ?_ rfl rfl rfl rfl (fun _ _ => rfl) hf.rsv
  rw [girthTry_read h, show (s.reach c).slotHdr slot = s.slotHdr slot from rfl, hf.hold]
  rfl

theorem passNow_update {op word v k kd new : Nat} {q : Option Nat} (h : o.act = .update op word false v k kd q)
    (hnew : new = atomNew op 32 (s.slotWord slot word).toNat v k) :
    s.Landed stop slot c o rest (s.slotHdr slot) (kWrs o.crew kd [BitVec.ofNat 32 (s.slotWord slot word).toNat] ++
        qWr o q (if op = 12 then (s.slotWord slot word).toNat == v else new != (s.slotWord slot word).toNat)) (s.passNow stop slot c) ∧
      (s.passNow stop slot c).gi.data = (s.setWords slot word [BitVec.ofNat 32 new]).gi.data := by
  refine passNow_acts hf.order hf.missed hf.ready hf.first hf.hold hf.rsv (r := (s.reach c).setWords slot word [BitVec.ofNat 32 new]) ?_ rfl rfl rfl rfl (fun _ _ => rfl) hf.rsv
  rw [girthTry_update (s := s.reach c) h hf.hold, girthUpdate_word (s := s.reach c) hnew]
  rfl

theorem passNow_cinch {cell : Nat} (h : o.act = .cinch cell) :
    s.Landed stop slot c o rest { s.slotHdr slot with hold := some (stop, o.blk, o.crew, c + 392) } (s.slotWrs o slot cell) (s.passNow stop slot c) ∧
      (s.passNow stop slot c).gi.data = s.gi.data := by
  have hstop := stop_of_girthReady hf.ready
  have hland := passNow_acts hf.order hf.missed hf.ready hf.first hf.hold hf.rsv
    (r := (s.reach c).setHdr slot { s.slotHdr slot with hold := some (o.stop, o.blk, o.crew, c + 392) }) (girthTry_cinch (s := s.reach c) h hf.hold hf.rsv) rfl rfl rfl rfl
    (fun m hm => (s.reach c).slotHdr_setHdr_ne _ hm) (by rw [State.slotHdr_setHdr_self]; exact hf.rsv)
  rw [State.slotHdr_setHdr_self, hstop] at hland
  exact hland

theorem passNow_mount {tag : Word} {data : List Word} {kd : Nat} (h : o.act = .mount tag data kd) (htag : (s.slotHdr slot).tag = 0) :
    s.Landed stop slot c o rest { s.slotHdr slot with tag := tag } [.k o.crew kd (BitVec.ofNat 32 slot)] (s.passNow stop slot c) ∧
      (s.passNow stop slot c).gi.data = (s.setWords slot 0 data).gi.data := by
  have hland := passNow_acts hf.order hf.missed hf.ready hf.first hf.hold hf.rsv
    (r := ((s.reach c).setHdr slot { s.slotHdr slot with tag := tag }).setWords slot 0 data) (girthTry_mount (s := s.reach c) h hf.hold hf.rsv htag) rfl rfl rfl rfl
    (fun m hm => (s.reach c).slotHdr_setHdr_ne _ hm) (by rw [State.setWords_slotHdr, State.slotHdr_setHdr_self]; exact hf.rsv)
  rw [State.setWords_slotHdr, State.slotHdr_setHdr_self] at hland
  exact hland

theorem passNow_dismount {byTag : Option Word} {cell : Nat} {q : Option Nat} (h : o.act = .dismount byTag cell q)
    (htag : ∀ g, byTag = some g → g = (s.slotHdr slot).tag) :
    s.Landed stop slot c o rest { s.slotHdr slot with tag := 0 } (s.slotWrs o slot cell ++ qWr o q (byTag.isSome || (s.slotHdr slot).tag != 0)) (s.passNow stop slot c) ∧
      (s.passNow stop slot c).gi.data = s.gi.data := by
  have hland := passNow_acts hf.order hf.missed hf.ready hf.first hf.hold hf.rsv
    (r := (s.reach c).setHdr slot { s.slotHdr slot with tag := 0 }) (girthTry_dismount (s := s.reach c) h hf.hold htag) rfl rfl rfl rfl
    (fun m hm => (s.reach c).slotHdr_setHdr_ne _ hm) (by rw [State.slotHdr_setHdr_self]; exact hf.rsv)
  rw [State.slotHdr_setHdr_self] at hland
  exact hland

end

theorem slotWord_congr {s t : State} (h : t.gi.data = s.gi.data) (m i : Nat) : t.slotWord m i = s.slotWord m i := by rw [State.slotWord, h, State.slotWord]

/-! ## The end of a hold -/

/-- The GCLOSE that the end of a hold performs. -/
def State.closer (s : State) (slot : Nat) (x : Nat × Nat × Nat × Nat) (o : GirthOp) : Bool :=
  o.slot == slot && (s.slotHdr slot).heldMine o && decide (o.ready ≤ x.2.2.2) && (match o.act with
    | .close _ _ => true
    | _ => false)

theorem endHold_lapses {s : State} {slot : Nat} {x : Nat × Nat × Nat × Nat} (h : (s.slotHdr slot).hold = some x) (hc : s.gi.ops.find? (s.closer slot x) = none) :
    s.endHold slot = s.setHdr slot { s.slotHdr slot with hold := none } := by
  unfold State.endHold
  dsimp only
  rw [h]
  dsimp only
  unfold State.closer at hc
  split
  · next he => exact absurd (he.symm.trans hc) nofun
  · rfl

theorem endHold_closes {s : State} {slot : Nat} {x : Nat × Nat × Nat × Nat} {o : GirthOp} {data : List Word} {q : Option Nat} (h : (s.slotHdr slot).hold = some x)
    (hc : s.gi.ops.find? (s.closer slot x) = some o) (ho : o.act = .close data q) :
    s.endHold slot = ((s.setHdr slot { s.slotHdr slot with hold := none }).setWords slot 0 data).girthActed o (qWr o q true) := by
  unfold State.endHold
  dsimp only
  rw [h]
  dsimp only
  unfold State.closer at hc
  split
  · next p he =>
    obtain rfl : o = p := Option.some.inj (hc.symm.trans he)
    rw [ho]
  · next he => exact absurd (hc.symm.trans he) nofun

theorem closer_congr {s t : State} {slot : Nat} (h : (t.slotHdr slot).hold = (s.slotHdr slot).hold) : t.closer slot = s.closer slot := by
  funext x o
  simp only [State.closer, SlotHdr.heldMine, h]

/-- What has ended before the end of a hold is a reservation at most. -/
theorem settleSlot_held {s : State} {slot c : Nat} {x : Nat × Nat × Nat × Nat} (h : (s.slotHdr slot).hold = some x) (hc : c ≤ x.2.2.2) :
    s.settleSlot slot c = s ∨ s.settleSlot slot c = s.setHdr slot (s.slotHdr slot).bare := by
  unfold State.settleSlot
  have hlater : ¬ ((s.slotHdr slot).hold.any fun x => x.2.2.2 < c) = true := by simp [h, hc]
  rw [if_neg hlater]
  dsimp only
  split
  · exact .inr rfl
  · exact .inl rfl

theorem dropRsv_frame (t : State) (stop slot c : Nat) : ((t.dropRsv stop slot c).slotHdr slot).bare = (t.slotHdr slot).bare ∧ (t.dropRsv stop slot c).gi.data = t.gi.data ∧
    (t.dropRsv stop slot c).pipe = t.pipe ∧ (t.dropRsv stop slot c).regs = t.regs ∧ (t.dropRsv stop slot c).mem = t.mem ∧ (t.dropRsv stop slot c).clk = t.clk := by
  unfold State.dropRsv
  split
  · rw [State.slotHdr_setHdr_self]
    exact ⟨rfl, rfl, rfl, rfl, rfl, rfl⟩
  · exact ⟨rfl, rfl, rfl, rfl, rfl, rfl⟩

/-- What the state says of a slot, its reservation set apart, and of what its passages may change beside it. -/
structure State.SlotAgrees (s : State) (slot : Nat) (t : State) : Prop where
  hdr : (t.slotHdr slot).bare = (s.slotHdr slot).bare
  data : t.gi.data = s.gi.data
  pipe : t.pipe = s.pipe
  regs : t.regs = s.regs
  mem : t.mem = s.mem
  clk : t.clk = s.clk

theorem State.SlotAgrees.trans {s t u : State} {slot : Nat} (h : s.SlotAgrees slot t) (k : t.SlotAgrees slot u) : s.SlotAgrees slot u :=
  ⟨k.hdr.trans h.hdr, k.data.trans h.data, k.pipe.trans h.pipe, k.regs.trans h.regs, k.mem.trans h.mem, k.clk.trans h.clk⟩

theorem State.SlotAgrees.dropRsv (t : State) (stop slot c : Nat) : t.SlotAgrees slot (t.dropRsv stop slot c) :=
  have ⟨h1, h2, h3, h4, h5, h6⟩ := dropRsv_frame t stop slot c
  ⟨h1, h2, h3, h4, h5, h6⟩

theorem State.SlotAgrees.girthServe (t : State) (stop slot c : Nat) (l : List GirthOp) : t.SlotAgrees slot (t.girthServe stop slot c true l) :=
  have ⟨h1, _, h2, _, h3, h4, h5, h6, _⟩ := girthServe_used_frame (s := t) (stop := stop) (slot := slot) (c := c) (l := l) rfl
  ⟨h1, h2, h3, h4, h5, h6⟩

theorem State.SlotAgrees.notePass (t : State) (stop slot c : Nat) : t.SlotAgrees slot (t.notePass stop slot c) := ⟨rfl, rfl, rfl, rfl, rfl, rfl⟩

theorem SlotHdr.bare_eq_iff {g h : SlotHdr} : g.bare = h.bare ↔ g.hold = h.hold ∧ g.tag = h.tag ∧ g.seg = h.seg := by
  cases g
  cases h
  simp only [SlotHdr.bare, SlotHdr.mk.injEq, and_true]
  exact ⟨fun ⟨hseg, htag, hhold⟩ => ⟨hhold, htag, hseg⟩, fun ⟨hhold, htag, hseg⟩ => ⟨hseg, htag, hhold⟩⟩

/-- The ending passage of a hold: an ended reservation goes, the hold ends, and nothing else acts. -/
theorem passNow_ends {s : State} {slot : Nat} {x : Nat × Nat × Nat × Nat} (h : (s.slotHdr slot).hold = some x) (horder : s.inOrder x.1 slot x.2.2.2 = true)
    (hmiss : ∀ y ∈ s.gi.ops, y.stop = x.1 → y.byTag = true → x.2.2.2 < y.ready + 392) :
    (((s.reach x.2.2.2).settleSlot slot x.2.2.2).endHold slot).SlotAgrees slot (s.passNow x.1 slot x.2.2.2) := by
  have hold : (((s.reach x.2.2.2).settleSlot slot x.2.2.2).slotHdr slot).hold = some x := by
    rcases settleSlot_held (s := s.reach x.2.2.2) h (Nat.le_refl _) with he | he
    · rw [he]
      exact h
    · rw [he, State.slotHdr_setHdr_self]
      exact h
  unfold State.passNow
  rw [if_pos horder, girthMissed_of_none hmiss, passage_eq, if_pos (by simp [hold])]
  exact ((State.SlotAgrees.girthServe _ _ _ _ _).trans (.dropRsv _ _ _ _)).trans (.notePass _ _ _ _)

theorem settleSlot_held_agrees {s : State} {slot c : Nat} {x : Nat × Nat × Nat × Nat} (h : (s.slotHdr slot).hold = some x) (hc : c ≤ x.2.2.2) :
    s.SlotAgrees slot (s.settleSlot slot c) ∧ (s.settleSlot slot c).gi.ops = s.gi.ops := by
  rcases settleSlot_held h hc with he | he
  · rw [he]
    exact ⟨⟨rfl, rfl, rfl, rfl, rfl, rfl⟩, rfl⟩
  · rw [he]
    refine ⟨⟨?_, rfl, rfl, rfl, rfl, rfl⟩, rfl⟩
    rw [State.slotHdr_setHdr_self]
    rfl

theorem exec_holdEnd {s : State} {slot : Nat} {x : Nat × Nat × Nat × Nat} (h : (s.slotHdr slot).hold = some x) :
    exec (.holdEnd slot) s = .next (s.passNow x.1 slot x.2.2.2) := by
  rw [show exec (.holdEnd slot) s = execHoldEnd slot s from rfl, execHoldEnd, h]

section
variable {s : State} {slot : Nat} {x : Nat × Nat × Nat × Nat} (h : (s.slotHdr slot).hold = some x) (horder : s.inOrder x.1 slot x.2.2.2 = true)
  (hmiss : ∀ y ∈ s.gi.ops, y.stop = x.1 → y.byTag = true → x.2.2.2 < y.ready + 392)
include h horder hmiss

/-- A hold that no GCLOSE ends lapses. -/
theorem hold_lapses (hc : s.gi.ops.find? (s.closer slot x) = none) : ((s.passNow x.1 slot x.2.2.2).slotHdr slot).hold = none ∧
    ((s.passNow x.1 slot x.2.2.2).slotHdr slot).tag = (s.slotHdr slot).tag ∧ ((s.passNow x.1 slot x.2.2.2).slotHdr slot).seg = (s.slotHdr slot).seg ∧
    (s.passNow x.1 slot x.2.2.2).gi.data = s.gi.data ∧ (s.passNow x.1 slot x.2.2.2).clk = (s.reach x.2.2.2).clk ∧ (s.passNow x.1 slot x.2.2.2).regs = s.regs := by
  obtain ⟨hagree, hops⟩ := settleSlot_held_agrees (s := s.reach x.2.2.2) h (Nat.le_refl _)
  obtain ⟨hhold, htag, hseg⟩ := SlotHdr.bare_eq_iff.mp hagree.hdr
  have hends := passNow_ends h horder hmiss
  generalize (s.reach x.2.2.2).settleSlot slot x.2.2.2 = v at hagree hops hhold htag hseg hends
  have hclose : v.gi.ops.find? (v.closer slot x) = none := by
    rw [hops, closer_congr hhold]
    exact hc
  rw [endHold_lapses (hhold.trans h) hclose] at hends
  obtain ⟨hh, ht, hs⟩ := SlotHdr.bare_eq_iff.mp hends.hdr
  rw [State.slotHdr_setHdr_self] at hh ht hs
  exact ⟨hh, ht.trans htag, hs.trans hseg, hends.data.trans hagree.data, hends.clk.trans hagree.clk, hends.regs.trans hagree.regs⟩

/-- The holder's GCLOSE writes the slot. -/
theorem hold_closes {o : GirthOp} {data : List Word} {q : Option Nat} (hc : s.gi.ops.find? (s.closer slot x) = some o) (ho : o.act = .close data q)
    (hdata : data.length = 16) : ((s.passNow x.1 slot x.2.2.2).slotHdr slot).hold = none ∧
    (∀ i, i < 16 → (s.passNow x.1 slot x.2.2.2).slotWord slot i = data.getD i 0) ∧ (s.passNow x.1 slot x.2.2.2).regs = s.regs ∧
    (s.passNow x.1 slot x.2.2.2).pipe.pends = s.pendsWith o (qWr o q true) := by
  obtain ⟨hagree, hops⟩ := settleSlot_held_agrees (s := s.reach x.2.2.2) h (Nat.le_refl _)
  obtain ⟨hhold, -, -⟩ := SlotHdr.bare_eq_iff.mp hagree.hdr
  have hends := passNow_ends h horder hmiss
  generalize (s.reach x.2.2.2).settleSlot slot x.2.2.2 = v at hagree hops hhold hends
  have hclose : v.gi.ops.find? (v.closer slot x) = some o := by
    rw [hops, closer_congr hhold]
    exact hc
  rw [endHold_closes (hhold.trans h) hclose ho] at hends
  obtain ⟨ahdr, adata⟩ := ((v.setHdr slot { v.slotHdr slot with hold := none }).setWords slot 0 data).girthActed_slots o (qWr o q true)
  obtain ⟨hh, -, -⟩ := SlotHdr.bare_eq_iff.mp hends.hdr
  refine ⟨hh.trans ?_, fun i hi => ?_, hends.regs.trans ?_, (congrArg Pipe.pends hends.pipe).trans ?_⟩
  · rw [State.slotHdr, ahdr]
    exact congrArg SlotHdr.hold (v.slotHdr_setHdr_self slot _)
  · rw [slotWord_congr (hends.data.trans adata)]
    have hword := (v.setHdr slot { v.slotHdr slot with hold := none }).slotWord_setWords slot 0 i (ws := data) (by omega)
    rwa [Nat.zero_add] at hword
  · exact (by simp : _ = v.regs).trans hagree.regs
  · rw [State.girthActed_pends]
    exact congrArg (fun p : Pipe => p.pends.map _) hagree.pipe

end

/-! ## The end of a reservation -/

theorem exec_reservationExpire {s : State} {slot : Nat} {r : Nat × Nat} (h : (s.slotHdr slot).rsv = some r) :
    exec (.reservationExpire slot) s = .next (s.passNow r.1 slot r.2) := by
  rw [show exec (.reservationExpire slot) s = execReservationExpire slot s from rfl, execReservationExpire, h]

/-- A passage ends with no reservation of its stop for its cycle. -/
theorem dropRsv_ends (t : State) (stop slot c : Nat) : ((t.dropRsv stop slot c).slotHdr slot).rsv ≠ some (stop, c) := by
  unfold State.dropRsv
  split
  · rw [State.slotHdr_setHdr_self]
    exact nofun
  · next h =>
    intro hr
    rw [hr] at h
    simp at h

/-- After the passage in which it ends a reservation is gone. -/
theorem passNow_rsv {s : State} {stop slot c : Nat} (horder : s.inOrder stop slot c = true) : ((s.passNow stop slot c).slotHdr slot).rsv ≠ some (stop, c) := by
  have hnote : ∀ t : State, (t.notePass stop slot c).slotHdr slot = t.slotHdr slot := fun _ => rfl
  unfold State.passNow
  rw [if_pos horder, passage_eq, hnote]
  split
  · exact dropRsv_ends _ _ _ _
  · exact dropRsv_ends _ _ _ _

theorem girthTry_frame {s : State} {o : GirthOp} {slot c : Nat} {r : State × List RegWr} (h : s.girthTry o slot c = some r) :
    r.1.regs = s.regs ∧ r.1.mem = s.mem ∧ r.1.host = s.host := by
  unfold State.girthTry at h
  dsimp only at h
  (repeat' split at h) <;> cases h <;> exact ⟨rfl, rfl, rfl⟩

@[simp] theorem State.girthServe_frame (s : State) (stop slot c : Nat) (used : Bool) (l : List GirthOp) : (s.girthServe stop slot c used l).regs = s.regs ∧
    (s.girthServe stop slot c used l).mem = s.mem ∧ (s.girthServe stop slot c used l).host = s.host := by
  induction l generalizing s used with
  | nil => exact ⟨rfl, rfl, rfl⟩
  | cons o rest ih =>
    rw [State.girthServe]
    split
    · exact ih s used
    · split
      · next r hr =>
        obtain ⟨h1, h2, h3⟩ := girthTry_frame hr
        split
        · exact ih s true
        · obtain ⟨i1, i2, i3⟩ := ih (r.1.girthActed o r.2) true
          exact ⟨i1.trans (by simp [h1]), i2.trans (by simp [h2]), i3.trans (by simp [h3])⟩
      · dsimp only
        split
        · exact ih _ used
        · exact ih s used

@[simp] theorem State.dropRsv_host (t : State) (stop slot c : Nat) : (t.dropRsv stop slot c).regs = t.regs ∧ (t.dropRsv stop slot c).mem = t.mem ∧
    (t.dropRsv stop slot c).host = t.host := by
  unfold State.dropRsv
  split <;> exact ⟨rfl, rfl, rfl⟩

@[simp] theorem State.passage_frame (s : State) (stop slot c : Nat) : (s.passage stop slot c).regs = s.regs ∧ (s.passage stop slot c).mem = s.mem ∧
    (s.passage stop slot c).host = s.host := by
  rw [passage_eq]
  split <;> simp

@[simp] theorem State.passNow_frame (s : State) (stop slot c : Nat) : (s.passNow stop slot c).regs = s.regs ∧ (s.passNow stop slot c).mem = s.mem ∧
    (s.passNow stop slot c).host = s.host := by
  unfold State.passNow
  split <;> simp

end Sys2Proof.Machine

/-!
PROOF (GirthGuardEventsComplete, guarded pairs: R343 to R345).
-/
namespace Sys2Proof.Machine

-- One theorem after the other: in parallel they ask for more threads than the host allows.
set_option Elab.async false

/-! ## The comparison -/

@[simp] theorem State.discardStore_frame (s : State) (h : HoldStore) : (s.discardStore h).regs = s.regs ∧ (s.discardStore h).mem = s.mem ∧
    (s.discardStore h).host = s.host ∧ (s.discardStore h).grd = s.grd := by
  have hpart : ∀ l : List Nat, l.foldl (fun t p => State.partDone t p) s = { s with pipe := (l.foldl (fun t p => State.partDone t p) s).pipe } := by
    intro l
    generalize s = v
    induction l generalizing v with
    | nil => rfl
    | cons p l ih => rw [List.foldl_cons, ih]; rfl
  unfold State.discardStore
  rw [hpart]
  exact ⟨rfl, rfl, rfl, rfl⟩

@[simp] theorem State.matched_frame (s : State) (p : Pair) : (s.matched p).regs = s.regs ∧ (s.matched p).mem = s.mem ∧ (s.matched p).host = s.host := by
  unfold State.matched
  refine ⟨?_, ?_, ?_⟩
  · exact (foldl_frame (F := fun t : State => t.regs) (fun t h => (t.discardStore_frame h).1) _ _).trans
      (foldl_frame (F := fun t : State => t.regs) (f := State.releaseStore) (fun t h => rfl) _ _)
  · exact (foldl_frame (F := fun t : State => t.mem) (fun t h => (t.discardStore_frame h).2.1) _ _).trans
      (foldl_frame (F := fun t : State => t.mem) (f := State.releaseStore) (fun t h => rfl) _ _)
  · exact (foldl_frame (F := fun t : State => t.host) (fun t h => (t.discardStore_frame h).2.2.1) _ _).trans
      (foldl_frame (F := fun t : State => t.host) (f := State.releaseStore) (fun t h => rfl) _ _)

/-- After a match nothing of the pair is held. -/
theorem matched_hold {s : State} {p : Pair} {h : HoldStore} (hh : h ∈ (s.matched p).grd.hold) : h.blk ≠ p.primary ∧ h.blk ≠ p.twin := by
  unfold State.matched State.mapPair State.dropHeld at hh
  obtain ⟨hh, htwin⟩ := List.mem_filter.mp hh
  obtain ⟨-, hprim⟩ := List.mem_filter.mp hh
  exact ⟨by simpa using hprim, by simpa using htwin⟩

/-- A pair that has rolled back twice is killed. -/
theorem rollBack_kills {s : State} {p : Pair} (h : 2 ≤ p.rollbacks) (huid : (s.launchOf p.primary).uid ≠ 0) : ((s.rollBack p).launchOf p.primary).stopped = true := by
  unfold State.rollBack
  dsimp only
  rw [if_pos h]
  generalize hv : State.mapPair _ p.primary _ = v
  have hdisp : v.disp = s.disp := by rw [← hv]; rfl
  have hlaunch : v.launchOf p.primary = s.launchOf p.primary := by
    rw [State.launchOf, State.launchOf, State.block_congr (congrArg Disp.blocks hdisp), State.launch_congr (congrArg Disp.launches hdisp)]
  have hne : v.launch (v.block p.primary).launch ≠ .none := fun hn => huid (by rw [← hlaunch, State.launchOf, hn]; rfl)
  exact State.setLaunch_launch_at Launch.stopped hne (State.launch_found hne).2 rfl

@[simp] theorem lapseClosing_launchOf (s : State) (p : Pair) (b : Nat) : (s.lapseClosing p).launchOf b = s.launchOf b := by
  have hdisp : (s.lapseClosing p).disp = s.disp := by simp
  rw [State.launchOf, State.launchOf, State.block_congr (congrArg Disp.blocks hdisp), State.launch_congr (congrArg Disp.launches hdisp)]

section
variable {s : State} {n : Nat} {p : Pair} (hp : (s.grd.pairs.find? fun p => p.primary == n) = some p)
include hp

theorem primary_of_find : p.primary = n := by simpa using List.find?_some hp

theorem exec_compareSignatures_bad (hr : p.restoring = false) (hs : (s.launchOf n).stopped = false) (hb : p.bad = true) (hc : p.checking = false) :
    exec (.compareSignatures n) s = .next (s.rollBack p) := by
  rw [show exec (.compareSignatures n) s = execCompareSignatures n s from rfl, execCompareSignatures, hp]
  dsimp only
  rw [if_neg (by simp [hr, hs]), if_pos (by simp [hb, hc])]

theorem exec_compareSignatures_arrived (hr : p.restoring = false) (hs : (s.launchOf n).stopped = false) (hb : p.bad = false ∨ p.checking = true) {c d : Nat}
    (hc : p.arrivalOf p.primary = some c) (hd : p.arrivalOf p.twin = some d) (hqp : s.quiet p.primary = true) (hqt : s.quiet p.twin = true) :
    exec (.compareSignatures n) s = .next (if p.checking then s.commitPair p
      else if c = d ∧ s.blockSig p.primary = s.blockSig p.twin then s.matched p else (s.lapseClosing p).rollBack p) := by
  rw [show exec (.compareSignatures n) s = execCompareSignatures n s from rfl, execCompareSignatures, hp]
  dsimp only
  rw [if_neg (by simp [hr, hs]), if_neg (by rcases hb with h | h <;> simp [h]), hc, hd]
  dsimp only
  rw [if_neg (by simp [hqp, hqt])]
  split
  · rfl
  · split <;> simp_all

/-! ## The checkpoint -/

/-- The state that a checkpoint leaves. -/
def State.checkpointed (s : State) (n : Nat) (p : Pair) : State :=
  { s with grd := { s.grd with
      snaps := (s.grd.snaps.filter fun (x : Snapshot) => x.blk != p.primary && x.blk != p.twin) ++ [s.snapOf p.primary, s.snapOf p.twin]
      sigs := tabOff 33 p.twin (tabOff 33 p.primary s.grd.sigs) } }.mapPair n fun (q : Pair) =>
    { q with checking := false, rollbacks := 0, acts0 := q.acts, ended0 := q.ended }

theorem exec_checkpointDone (hc : p.checking = true) (hgo : p.go = []) (ha : p.arrived = []) (hb : s.pairBusy p = false) :
    exec (.checkpointDone n) s = .next (s.checkpointed n p) := by
  rw [show exec (.checkpointDone n) s = execCheckpointDone n s from rfl, execCheckpointDone, hp]
  dsimp only
  rw [if_neg (by simp [hc, hgo, ha, hb])]
  rfl

end

/-- A signature of neither block is kept. -/
theorem mget_tabOff_tabOff (m : SMap DWord) {a b d c : Nat} (hd : d = a ∨ d = b) (hc : c < 33) : mget 0 (tabOff 33 b (tabOff 33 a m)) (crewKey d c) = 0 := by
  unfold tabOff
  rw [List.filter_filter]
  refine mget_filter_of_false _ _ fun v => ?_
  have hkey : crewKey d c / 33 = d := by unfold crewKey; omega
  rcases hd with rfl | rfl <;> simp [hkey]

theorem checkpointed_signature (s : State) (n : Nat) (p : Pair) {d c : Nat} (hd : d = p.primary ∨ d = p.twin) (hc : c < 33) : (s.checkpointed n p).signature d c = 0 :=
  mget_tabOff_tabOff s.grd.sigs hd hc

theorem checkpointed_snaps (s : State) (n : Nat) (p : Pair) : s.snapOf p.primary ∈ (s.checkpointed n p).grd.snaps ∧ s.snapOf p.twin ∈ (s.checkpointed n p).grd.snaps :=
  ⟨List.mem_append_right _ List.mem_cons_self, List.mem_append_right _ (List.mem_cons_of_mem _ List.mem_cons_self)⟩

/-! ## The rollback -/

@[simp] theorem State.restoreSnap_frame (s : State) (x : Snapshot) : (s.restoreSnap x).regs = s.regs.backBlock x.blk x.regs ∧ (s.restoreSnap x).mem.cells = s.mem.cells ∧
    (s.restoreSnap x).host = s.host ∧ (s.restoreSnap x).grd.pairs = s.grd.pairs := by
  unfold State.restoreSnap
  dsimp only
  generalize hv : (⟨_, _, _, _, _, _, _, _, _, _, _, _, _⟩ : State) = v
  have hbins : ∀ l : List Bin, (l.foldl (fun t m => State.restoreBin t (t.block x.blk).core m) v).regs = v.regs ∧
      (l.foldl (fun t m => State.restoreBin t (t.block x.blk).core m) v).mem = v.mem ∧ (l.foldl (fun t m => State.restoreBin t (t.block x.blk).core m) v).host = v.host ∧
      (l.foldl (fun t m => State.restoreBin t (t.block x.blk).core m) v).grd = v.grd := fun l =>
    ⟨foldl_frame (F := fun t : State => t.regs) (fun t m => by simp) l v, foldl_frame (F := fun t : State => t.mem) (fun t m => by simp) l v,
      foldl_frame (F := fun t : State => t.host) (fun t m => by simp) l v, foldl_frame (F := fun t : State => t.grd) (fun t m => by simp) l v⟩
  obtain ⟨hregs, hmem, hhost, hgrd⟩ := hbins x.bins
  simp only [State.watchSync_frame, State.setBlock_regs, State.setBlock_mem, State.setBlock_host, State.setBlock_grd]
  have hcells := congrArg Mem.cells hmem
  have hpairs := congrArg Guarded.pairs hgrd
  subst hv
  exact ⟨hregs, hcells, hhost, hpairs⟩

/-- The state that a rollback leaves. -/
def State.rolledBack (s : State) (n : Nat) (p : Pair) : State :=
  ((s.grd.snaps.filter fun x => x.blk == p.primary || x.blk == p.twin).foldl State.restoreSnap s).mapPair n fun (q : Pair) =>
    { q with restoring := false, checking := false, arrived := [], go := [], acts := q.acts0, ended := q.ended0, holdPts := [], rollbacks := q.rollbacks + 1 }

theorem exec_rollbackRestoreDone {s : State} {n : Nat} {p : Pair} (hp : (s.grd.pairs.find? fun p => p.primary == n) = some p) (hr : p.restoring = true)
    (hruns : s.pairRuns p = true) : exec (.rollbackRestoreDone n) s = .next (s.rolledBack n p) := by
  rw [show exec (.rollbackRestoreDone n) s = execRollbackRestoreDone n s from rfl, execRollbackRestoreDone, hp]
  dsimp only
  rw [if_neg (by simp [hr, hruns])]
  rfl

theorem rolledBack_restores {s : State} {n : Nat} {p : Pair} (hp : (s.grd.pairs.find? fun p => p.primary == n) = some p) {x y : Snapshot}
    (hxy : (s.grd.snaps.filter fun x => x.blk == p.primary || x.blk == p.twin) = [x, y]) :
    (s.rolledBack n p).regs = (s.regs.backBlock x.blk x.regs).backBlock y.blk y.regs ∧ (s.rolledBack n p).mem.cells = s.mem.cells ∧
      ∃ q ∈ (s.rolledBack n p).grd.pairs, q.primary = n ∧ q.restoring = false ∧ q.arrived = [] ∧ q.go = [] ∧ q.rollbacks = p.rollbacks + 1 := by
  unfold State.rolledBack
  rw [hxy, List.foldl_cons, List.foldl_cons, List.foldl_nil]
  obtain ⟨xregs, xmem, -, xpairs⟩ := s.restoreSnap_frame x
  obtain ⟨yregs, ymem, -, ypairs⟩ := (s.restoreSnap x).restoreSnap_frame y
  generalize (s.restoreSnap x).restoreSnap y = v at yregs ymem ypairs
  have hprim := primary_of_find hp
  refine ⟨yregs.trans (by rw [xregs]), ymem.trans xmem, _, List.mem_map.mpr ⟨p, ?_, rfl⟩, ?_⟩
  · rw [ypairs, xpairs]
    exact List.mem_of_find?_eq_some hp
  · rw [if_pos (List.find?_some hp)]
    exact ⟨hprim, rfl, rfl, rfl, rfl⟩

/-- What a landed operation leaves, part by part. -/
theorem State.Landed.parts {s t : State} {stop slot c : Nat} {o : GirthOp} {rest : List GirthOp} {h : SlotHdr} {ws : List RegWr}
    (hl : s.Landed stop slot c o rest h ws t) : (∀ x ∈ t.gi.ops, x.pend ≠ o.pend) ∧
      (∀ x ∈ s.gi.ops, x.pend ≠ o.pend → ∃ y ∈ t.gi.ops, y.pend = x.pend ∧ y.act = x.act) ∧ t.regs = s.regs ∧ t.mem = s.mem ∧
      (∀ m, m ≠ slot → t.slotHdr m = s.slotHdr m) ∧ ((t.slotHdr slot).rsv = none ∨ rest ≠ [] ∧ (t.slotHdr slot).rsv = some (stop, c + 392)) ∧
      t.pipe.pends = s.pendsWith o ws :=
  ⟨hl.ops.1, hl.ops.2, hl.regs, hl.mem, hl.others, hl.rsv, hl.pends⟩

/-- Settles O46: a passage, the end of a hold or of a reservation, the comparison, the checkpoint and the rollback, each by what it leaves. -/
theorem girthGuardEventsComplete : Obligations.GirthGuardEventsComplete := by
  unfold Obligations.GirthGuardEventsComplete
  intro stop slot n s
  refine ⟨?_, ?_, ?_, ?_⟩
  · rintro o c h rest lands hstop hslot hlive hc horder hmiss hready hfirst rfl hhold hrsv rfl
    have hnext : exec (.girthPassage stop slot) s = .next (s.passNow stop slot c) := hc ▸ exec_girthPassage hstop hslot hlive
    have hf : s.FirstReady stop slot c o rest := ⟨horder, hmiss, hready, hfirst, hhold, hrsv⟩
    refine ⟨fun cell q ho => ?_, fun op word v k kd q new ho hnew => ?_, fun cell ho => ?_, fun tag data kd ho htag hdata => ?_, fun byTag cell q ho htag => ?_⟩
    · obtain ⟨hl, hd⟩ := passNow_read hf ho
      exact ⟨_, ⟨hnext, hl.parts⟩, hl.hdr, hd⟩
    · obtain ⟨hl, hd⟩ := passNow_update hf ho hnew
      refine ⟨_, ⟨hnext, hl.parts⟩, ?_, hl.hdr, fun m i hmi => ?_⟩
      · rw [slotWord_congr hd]
        exact s.slotWord_setWords slot word 0 Nat.zero_lt_one
      · rw [slotWord_congr hd]
        exact s.slotWord_setWords_ne (by simp only [List.length_singleton]; omega)
    · obtain ⟨hl, hd⟩ := passNow_cinch hf ho
      exact ⟨_, ⟨hnext, hl.parts⟩, hd, hl.hdr⟩
    · obtain ⟨hl, hd⟩ := passNow_mount hf ho htag
      refine ⟨_, ⟨hnext, hl.parts⟩, hl.hdr, fun i hi => ?_⟩
      rw [slotWord_congr hd]
      have hword := s.slotWord_setWords slot 0 i (ws := data) (by omega)
      rwa [Nat.zero_add] at hword
    · obtain ⟨hl, hd⟩ := passNow_dismount hf ho htag
      exact ⟨_, ⟨hnext, hl.parts⟩, hd, hl.hdr⟩
  · rintro x close hx horder hmiss rfl
    refine ⟨fun hc => ⟨_, exec_holdEnd hx, hold_lapses hx horder hmiss hc⟩, fun o data q hc ho hdata => ⟨_, exec_holdEnd hx, hold_closes hx horder hmiss hc ho hdata⟩⟩
  · intro r hr horder
    exact ⟨_, exec_reservationExpire hr, passNow_rsv horder, (s.passNow_frame r.1 slot r.2).1, (s.passNow_frame r.1 slot r.2).2.1⟩
  · intro p hp
    obtain rfl := primary_of_find hp
    refine ⟨exec_compareSignatures_bad hp, fun hr hs hb c d hc hd hqp hqt => ?_, fun hc hgo ha hb => ?_, fun hr hruns x y hxy => ?_⟩
    · have hcmp := exec_compareSignatures_arrived hp hr hs hb hc hd hqp hqt
      refine ⟨fun hcheck => hcmp.trans (by rw [if_pos hcheck]), fun hcheck hcd hsig => ?_, fun hcheck hne => ?_⟩
      · refine ⟨s.matched p, hcmp.trans (by rw [if_neg (Bool.eq_false_iff.mp hcheck), if_pos ⟨hcd, hsig⟩]), fun h hh => matched_hold hh, ?_⟩
        exact ⟨(s.matched_frame p).1, (s.matched_frame p).2.1⟩
      · have hback : exec (.compareSignatures p.primary) s = .next ((s.lapseClosing p).rollBack p) := by
          rw [hcmp, if_neg (Bool.eq_false_iff.mp hcheck), if_neg fun h => hne.elim (absurd h.1) (absurd h.2)]
        exact ⟨fun _ => hback, fun htwo huid => ⟨_, hback, rollBack_kills htwo (by rwa [lapseClosing_launchOf])⟩⟩
    · refine ⟨s.checkpointed p.primary p, exec_checkpointDone hp hc hgo ha hb, (checkpointed_snaps s _ p).1, (checkpointed_snaps s _ p).2, fun c hc => ?_, rfl, rfl⟩
      exact ⟨checkpointed_signature s _ p (.inl rfl) hc, checkpointed_signature s _ p (.inr rfl) hc⟩
    · exact ⟨_, exec_rollbackRestoreDone hp hr hruns, rolledBack_restores hp hxy⟩

end Sys2Proof.Machine

/-!
PROOF (ErrorPowerEventsComplete: R332 to R334, R339, R346 to R348, R353, R356 to R358).
-/
namespace Sys2Proof.Machine

-- One theorem after the other: in parallel they ask for more threads than the host allows.
set_option Elab.async false

/-! ## Tables and messages -/

@[simp] theorem State.ecc_setEcc_self (s : State) (n : Nat) (e : SliceEcc) : (s.setEcc n e).ecc n = e := mget_mput_self _ _ _ _

@[simp] theorem State.bud_setBud_self (s : State) (n : Nat) (b : Budget) : (s.setBud n b).bud n = b := mget_mput_self _ _ _ _

/-- A message to the host depends on the host's part alone. -/
theorem State.msi_host_congr {s t : State} (v : Nat) (h : t.host = s.host) : (t.msi v).host = (s.msi v).host := by
  have hport : (t.port 0).retraining = (s.port 0).retraining := by rw [State.port, h, State.port]
  unfold State.msi
  rw [h, hport]
  split
  · rfl
  · unfold State.hostWaits
    rw [h]

theorem State.msi_parts (s : State) (v : Nat) : (s.msi v).regs = s.regs ∧ (s.msi v).mem = s.mem ∧ (s.msi v).sl = s.sl := by simp

/-! ## Error modes, sweeps, evacuations and repairs -/

section
variable {s : State} {n : Nat}

theorem exec_slceccWrite {v : Word} (hopen : 5 ≤ s.host.boot) (hn : n < 128) (hv : v.toNat % 4 < 2) :
    exec (.slceccWrite n v) s = .next (s.setEcc n ((s.ecc n).restart (v.toNat % 4))) := by
  rw [show exec (.slceccWrite n v) s = execSlceccWrite n v s from rfl, execSlceccWrite]
  have hbits : bits v.toNat 0 2 = v.toNat % 4 := by simp [bits]
  rw [hbits, if_neg (by simp [State.open', hopen, hn, hv])]

theorem exec_reencodeLine (hb : (s.ecc n).busy = true) : exec (.reencodeLine n) s =
    .next (State.setEcc { s with sl := { s.sl with tags := mput 0 s.sl.tags (n * arrayLines + (s.ecc n).pos) 0 } } n
      (if (s.ecc n).pos + 1 < arrayLines then { s.ecc n with pos := (s.ecc n).pos + 1 } else { s.ecc n with busy := false, pos := 0, passes := [] })) := by
  rw [show exec (.reencodeLine n) s = execReencodeLine n s from rfl, execReencodeLine]
  exact if_neg (by simp [hb])

theorem sweep_ecc (s : State) (n : Nat) : ((s.sweep n).ecc n).sweep = ((s.ecc n).sweep + 1) % arrayLines ∧ ((s.sweep n).ecc n).swept = s.now / 2048 + 1 := by
  unfold State.sweep
  dsimp only
  rw [State.ecc_setEcc_self]
  exact ⟨rfl, rfl⟩

theorem exec_sweepLine (hn : n < 128) (hs : (s.ecc n).swept ≠ s.now / 2048 + 1) : exec (.sweepLine n) s = .next (s.sweep n) ∧
    exec (.sweepForce n) s = .next ((s.reach (s.now / 2048 * 2048 + 2047)).sweep n) := by
  have hgo : ¬ (decide (128 ≤ n) || decide ((s.ecc n).swept = s.now / 2048 + 1)) = true := by simp [hn, hs]
  rw [show exec (.sweepLine n) s = execSweepLine n s from rfl, execSweepLine, show exec (.sweepForce n) s = execSweepForce n s from rfl, execSweepForce]
  constructor <;> rw [if_neg (by simpa using hgo)]

theorem exec_sliceEvacuate (hn : n < 128) (hnone : ∀ e ∈ s.sl.evacs, e.slice ≠ n) : exec (.sliceEvacuate n) s = .next (
    if s.spareSlice (sliceDie n) then { s with sl := { s.sl with
      sparesUsed := mput 0 s.sl.sparesUsed (sliceDie n) (mget 0 s.sl.sparesUsed (sliceDie n) + 1)
      evacs := s.sl.evacs ++ [{ slice := n, pos := 0, total := arrayLines }] } }
    else if (s.ecc n).degraded then s else (s.setEcc n { s.ecc n with degraded := true }).msi 65) := by
  rw [show exec (.sliceEvacuate n) s = execSliceEvacuate n s from rfl, execSliceEvacuate, if_neg (Nat.not_le.mpr hn), State.evacuate]
  dsimp only
  rw [if_neg (by simpa using hnone)]

/-- The state after the line of an evacuation has moved. -/
def State.evacMoved (s : State) (n : Nat) (e : Evac) : State :=
  let r := s.arrayRead n e.pos 0
  if e.pos + 1 < e.total then { r with sl := { r.sl with evacs := r.sl.evacs.map fun (x : Evac) => if x.slice == n then { x with pos := x.pos + 1 } else x } }
  else State.msi { r with sl := { r.sl with evacs := r.sl.evacs.filter fun (x : Evac) => x.slice != n, replaced := r.sl.replaced ++ [n] } } 65

theorem exec_evacLineMove {e : Evac} (he : (s.sl.evacs.find? fun e => sliceDie e.slice == sliceDie n) = some e) (hn : e.slice = n) :
    exec (.evacLineMove n) s = .next (s.evacMoved n e) := by
  rw [show exec (.evacLineMove n) s = execEvacLineMove n s from rfl, execEvacLineMove, he]
  dsimp only
  rw [if_neg (by simp [hn]), State.evacMoved]
  dsimp only
  split <;> rfl

theorem evacMoved_frame (s : State) (n : Nat) (e : Evac) : (s.evacMoved n e).regs = s.regs ∧ (s.evacMoved n e).mem = (s.arrayRead n e.pos 0).mem := by
  unfold State.evacMoved
  dsimp only
  split <;> simp

theorem evacMoved_more {e : Evac} (h : e.pos + 1 < e.total) : (s.evacMoved n e).sl.evacs =
    (s.arrayRead n e.pos 0).sl.evacs.map fun (x : Evac) => if (x.slice == n) = true then { x with pos := x.pos + 1 } else x := by
  unfold State.evacMoved
  dsimp only
  rw [if_pos h]

theorem evacMoved_last {e : Evac} (h : e.total ≤ e.pos + 1) : ((s.evacMoved n e).sl.evacs = (s.arrayRead n e.pos 0).sl.evacs.filter fun (x : Evac) => x.slice != n) ∧
    (s.evacMoved n e).sl.replaced = (s.arrayRead n e.pos 0).sl.replaced ++ [n] ∧ (s.evacMoved n e).host = ((s.arrayRead n e.pos 0).msi 65).host := by
  unfold State.evacMoved
  dsimp only
  rw [if_neg (Nat.not_lt.mpr h)]
  refine ⟨?_, ?_, State.msi_host_congr 65 rfl⟩ <;> rw [(State.msi_parts _ _).2.2]

/-- The state after a row that is due has been repaired. -/
def State.rowRepaired (s : State) (n : Nat) : State :=
  let k := mget 0 s.sl.rows n
  State.msi { s with sl := { s.sl with
    rows := if Config.rowSpare n k then mput 0 s.sl.rows n (k + 1) else s.sl.rows
    rowDue := s.sl.rowDue.erase n, rowErrs := s.sl.rowErrs.filter fun e => e.1 != n } } 65

theorem exec_hbmRowRepair : exec (.hbmRowRepair n) s = .next (if n ∈ s.sl.rowDue then s.rowRepaired n else s) := by
  rw [show exec (.hbmRowRepair n) s = execHbmRowRepair n s from rfl, execHbmRowRepair]
  split
  · next h => rw [if_neg (by simpa using h)]
  · next h =>
    rw [if_pos (by simpa using h)]
    rfl

theorem rowRepaired_parts (s : State) (n : Nat) :
    mget 0 (s.rowRepaired n).sl.rows n = mget 0 s.sl.rows n + (if Config.rowSpare n (mget 0 s.sl.rows n) = true then 1 else 0) ∧
      (s.rowRepaired n).sl.rowDue = s.sl.rowDue.erase n ∧ (s.rowRepaired n).host = (s.msi 65).host ∧ (s.rowRepaired n).regs = s.regs ∧ (s.rowRepaired n).mem = s.mem := by
  unfold State.rowRepaired
  dsimp only
  obtain ⟨hregs, hmem, hsl⟩ := State.msi_parts { s with sl := { s.sl with
    rows := if Config.rowSpare n (mget 0 s.sl.rows n) then mput 0 s.sl.rows n (mget 0 s.sl.rows n + 1) else s.sl.rows
    rowDue := s.sl.rowDue.erase n, rowErrs := s.sl.rowErrs.filter fun e => e.1 != n } } 65
  refine ⟨?_, ?_, State.msi_host_congr 65 rfl, hregs, hmem⟩
  · rw [hsl]
    dsimp only
    split
    · exact mget_mput_self _ _ _ _
    · rfl
  · rw [hsl]

theorem exec_slcinjWrite {w : DWord} (hopen : 5 ≤ s.host.boot) (hn : n < 128) (which : Bool) : exec (.slcinjWrite n which w) s =
    .next (s.setEcc n (if which then { s.ecc n with inj1 := injWrite (s.ecc n).inj1 w } else { s.ecc n with inj0 := injWrite (s.ecc n).inj0 w })) := by
  rw [show exec (.slcinjWrite n which w) s = execSlcinjWrite n which w s from rfl, execSlcinjWrite]
  exact if_neg (by simp [State.open', hopen, hn])

end

/-! ## Yokes (R353) -/

/-- The yoke that the close of a window leaves where no cluster of the pair is out, or one is. -/
theorem closeYoke_yoke (s : State) (n k : Nat) (iu il : BitVec 12) : (s.closeYoke n k iu il).yoke n = {
    pref := if s.clusterOut (2 * n) && !s.clusterOut (2 * n + 1) then 1 else if s.clusterOut (2 * n + 1) && !s.clusterOut (2 * n) then 0
      else if il.toNat < iu.toNat then 1 else 0
    glev := if s.clusterOut (2 * n) != s.clusterOut (2 * n + 1) then 0 else ((s.yoke n).levels iu.toNat il.toNat).2
    blev := ((s.yoke n).levels iu.toNat il.toNat).1
    iu := iu, il := il, win := k, past := ((k * 1024, (s.yoke n).pref, (s.yoke n).glev) :: (s.yoke n).past).take 3 } := mget_mput_self _ _ _ _

theorem closeYoke_frame (s : State) (n k : Nat) (iu il : BitVec 12) : (s.closeYoke n k iu il).regs = s.regs ∧ (s.closeYoke n k iu il).mem = s.mem ∧
    (s.closeYoke n k iu il).clk = s.clk := ⟨rfl, rfl, rfl⟩

/-- The two levels of R353, by the distance of the two counts. -/
theorem Yoke.levels_eq (y : Yoke) (iu il : Nat) : y.levels iu il =
    (if 25 * (max iu il - min iu il) ≤ 2 * max iu il then y.blev - 1 else if 25 * (max iu il - min iu il) ≤ 4 * max iu il then min (y.blev + 1) 4 else 4,
      if 25 * (max iu il - min iu il) ≤ 4 * max iu il then y.glev - 1 else min (y.glev + 1) 4) := by
  unfold Yoke.levels
  dsimp only
  split
  · rw [if_pos (by omega)]
  · split <;> rfl

/-- The state in which a yoke window closes: the one it ends in. -/
def State.atWindowEnd (s : State) (n : Nat) : State := if (s.yoke n).win < s.now / 1024 then s else s.reach ((s.now / 1024 + 1) * 1024)

theorem atWindowEnd_frame (s : State) (n : Nat) : (s.atWindowEnd n).regs = s.regs ∧ (s.atWindowEnd n).mem = s.mem ∧ (s.atWindowEnd n).yoke = s.yoke ∧
    (s.atWindowEnd n).clusterOut = s.clusterOut := by
  unfold State.atWindowEnd
  split <;> exact ⟨rfl, rfl, rfl, rfl⟩

theorem exec_yokeWindowEnd {s : State} {n : Nat} (iu il : BitVec 12) (hn : n < 24) : exec (.yokeWindowEnd n iu il) s =
    .next ((s.atWindowEnd n).closeYoke n (max (s.now / 1024 - 7) ((s.yoke n).win + 1)) iu il) := by
  rw [show exec (.yokeWindowEnd n iu il) s = execYokeWindowEnd n iu il s from rfl, execYokeWindowEnd]
  exact if_neg (Nat.not_le.mpr hn)

/-! ## Byte budgets (R356 to R358) -/

/-- What of a budget its waiting requests do not touch. -/
def Budget.fixed (b : Budget) : Nat × Nat × Nat := (b.budget, b.next, b.ivl)

theorem payFor_fixed (b : Budget) (cs : List Nat) : (payFor b cs).1.fixed = b.fixed := by
  induction cs generalizing b with
  | nil => rfl
  | cons c cs ih =>
    rw [payFor]
    split
    · rfl
    · split
      · exact ih _
      · rfl

theorem leavePort_fixed (s : State) (cl start : Nat) (w : PortWait) : ((s.leavePort cl start w).bud cl).fixed = (s.bud cl).fixed := by
  unfold State.leavePort
  dsimp only
  have hpay := payFor_fixed { s.bud cl with stall := (s.bud cl).stall + BitVec.ofNat 64 (w.stalled start) } w.charges
  split
  · next c he =>
    rw [he] at hpay
    exact (congrArg Budget.fixed (s.bud_setBud_self cl c)).trans hpay
  · next c cs hcs he =>
    rw [he] at hpay
    exact (congrArg Budget.fixed (s.bud_setBud_self cl _)).trans hpay

theorem foldl_leavePort_fixed (cl start : Nat) (ws : List PortWait) (s : State) : ((ws.foldl (State.leavePort cl start) s).bud cl).fixed = (s.bud cl).fixed :=
  foldl_frame (F := fun t : State => (t.bud cl).fixed) (fun t w => leavePort_fixed t cl start w) ws s

/-- A new interval brings the next budget into force. -/
theorem startInterval_fixed (s : State) (cl n : Nat) : ((s.startInterval cl n).bud cl).fixed = ((s.bud cl).next, (s.bud cl).next, n) := by
  unfold State.startInterval
  dsimp only
  rw [foldl_leavePort_fixed, State.bud_setBud_self]
  rfl

theorem startInterval_empty {s : State} {cl n : Nat} (h : (s.bud cl).port = []) : ((s.startInterval cl n).bud cl).rem = 64 * (s.bud cl).next := by
  unfold State.startInterval
  dsimp only
  rw [h, List.filter_nil, List.foldl_nil, State.bud_setBud_self]

theorem foldl_startInterval_next (cl : Nat) (f : Nat → Nat) (l : List Nat) (s : State) :
    ((l.foldl (fun t i => State.startInterval cl (f i) t) s).bud cl).next = (s.bud cl).next :=
  foldl_frame (F := fun t : State => (t.bud cl).next) (fun t i => congrArg (fun x => x.2.1) (startInterval_fixed t cl (f i))) l s

/-- The interval that a cluster stands in has started. -/
theorem interval_bud {s : State} {cl : Nat} (h : (s.bud cl).ivl < s.now / 2048) : ((s.interval cl).bud cl).fixed = ((s.bud cl).next, (s.bud cl).next, s.now / 2048) ∧
    ((s.bud cl).port = [] → ((s.interval cl).bud cl).rem = 64 * (s.bud cl).next) := by
  unfold State.interval
  dsimp only
  rw [if_neg (Nat.not_le.mpr h)]
  constructor
  · rw [startInterval_fixed, foldl_startInterval_next]
  · intro hport
    rw [hport, List.map_nil, List.sum_nil, Nat.min_zero, List.range_zero, List.foldl_nil]
    exact startInterval_empty hport

/-- The state in which the next interval of a cluster starts. -/
def State.atInterval (s : State) (cl : Nat) : State := if (s.bud cl).ivl < s.now / 2048 then s else s.reach s.nextInterval

theorem exec_budgetIntervalStart {s : State} {cl : Nat} (h : cl < 48) : exec (.budgetIntervalStart cl) s = .next ((s.atInterval cl).interval cl) := by
  rw [show exec (.budgetIntervalStart cl) s = execBudgetIntervalStart cl s from rfl, execBudgetIntervalStart, if_neg (Nat.not_le.mpr h)]
  rfl

theorem atInterval_frame (s : State) (cl : Nat) : (s.atInterval cl).regs = s.regs ∧ (s.atInterval cl).mem = s.mem ∧ (s.atInterval cl).bud cl = s.bud cl := by
  unfold State.atInterval
  split <;> exact ⟨rfl, rfl, rfl⟩

theorem atInterval_now {s : State} {cl : Nat} (hivl : (s.bud cl).ivl ≤ s.now / 2048) (hnow : s.now + 2048 < 2 ^ 64) :
    (s.atInterval cl).now / 2048 = max (s.now / 2048) ((s.bud cl).ivl + 1) := by
  unfold State.atInterval
  split
  · next h => exact (Nat.max_eq_left h).symm
  · next h =>
    have hreach : (s.reach s.nextInterval).now = max s.now s.nextInterval := by
      rw [State.reach, State.now]
      exact BitVec.toNat_ofNat _ _ |>.trans (Nat.mod_eq_of_lt (by rw [State.nextInterval]; omega))
    rw [hreach, State.nextInterval]
    omega

/-- Settles O47: each event by the table entry that it leaves. -/
theorem errorPowerEventsComplete : Obligations.ErrorPowerEventsComplete := by
  unfold Obligations.ErrorPowerEventsComplete
  intro n v w iu il s
  refine ⟨fun hopen hn hv => ?_, fun hb => ⟨fun hpos => ?_, fun hpos => ?_⟩, fun hn hs => ?_, fun hn hnone => ⟨fun hspare => ?_, fun hspare hdeg => ?_⟩, ?_, fun hdue => ?_, fun hdue => ?_,
    fun hopen hn which => ?_, ?_, fun hn hivl hnow => ?_, fun r hr hc hearlier => ⟨fun hport => ?_, fun hport => ?_⟩⟩
  · refine ⟨_, exec_slceccWrite hopen hn hv, ?_⟩
    rw [State.ecc_setEcc_self]
    exact ⟨rfl, rfl, rfl, rfl, rfl⟩
  · refine ⟨_, exec_reencodeLine hb, ?_, rfl⟩
    rw [State.ecc_setEcc_self, if_pos hpos]
  · refine ⟨_, exec_reencodeLine hb, ?_, rfl⟩
    rw [State.ecc_setEcc_self, if_neg (Nat.not_lt.mpr hpos)]
  · obtain ⟨hline, hforce⟩ := exec_sweepLine hn hs
    exact ⟨hforce, _, hline, (sweep_ecc s n).1, (sweep_ecc s n).2, by simp⟩
  · exact ⟨_, (exec_sliceEvacuate hn hnone).trans (congrArg Host.Outcome.next (if_pos hspare)), rfl, rfl, rfl⟩
  · refine ⟨_, (exec_sliceEvacuate hn hnone).trans (congrArg Host.Outcome.next
      ((if_neg (Bool.eq_false_iff.mp hspare)).trans (if_neg (Bool.eq_false_iff.mp hdeg)))), ?_, State.msi_host_congr 65 rfl, ?_, ?_⟩
    · rw [State.ecc, (State.msi_parts _ _).2.2]
      exact congrArg SliceEcc.degraded (s.ecc_setEcc_self n _)
    · exact (State.msi_parts _ _).1
    · exact (State.msi_parts _ _).2.1
  · rintro e r he hn rfl
    obtain ⟨hregs, hmem⟩ := evacMoved_frame s n e
    exact ⟨_, exec_evacLineMove he hn, hregs, hmem, by rw [hmem]; simp, evacMoved_more, evacMoved_last⟩
  · exact ⟨_, exec_hbmRowRepair.trans (by rw [if_pos hdue]), rowRepaired_parts s n⟩
  · exact exec_hbmRowRepair.trans (by rw [if_neg hdue])
  · refine ⟨_, exec_slcinjWrite hopen hn which, rfl, rfl, ?_⟩
    rw [State.ecc_setEcc_self]
  · rintro d x y k hn rfl rfl rfl rfl
    have hexec := exec_yokeWindowEnd (s := s) iu il hn
    obtain ⟨hregs, hmem, hyoke, hout⟩ := atWindowEnd_frame s n
    have hclose := closeYoke_yoke (s.atWindowEnd n) n (max (s.now / 1024 - 7) ((s.yoke n).win + 1)) iu il
    rw [hyoke, hout] at hclose
    refine ⟨fun hu hl => ⟨_, hexec, hregs, hmem, ?_, rfl⟩, fun hu hl => ⟨_, hexec, ?_, ?_⟩, fun hu hl => ⟨_, hexec, ?_, ?_⟩⟩
    · rw [hclose, hu, hl, Yoke.levels_eq]
      rfl
    all_goals
      rw [hclose, hu, hl]
      rfl
  · obtain ⟨hregs, hmem, hbud⟩ := atInterval_frame s n
    have hk := atInterval_now hivl hnow
    obtain ⟨hfixed, hrem⟩ := interval_bud (s := s.atInterval n) (cl := n) (by rw [hk, hbud]; omega)
    rw [hbud, hk] at hfixed
    rw [hbud] at hrem
    refine ⟨_, exec_budgetIntervalStart hn, congrArg (fun x => x.1) hfixed, congrArg (fun x => x.2.2) hfixed, ?_, ?_, hrem⟩
    · exact (by simp : _ = (s.atInterval n).regs).trans hregs
    · exact (by simp : _ = (s.atInterval n).mem).trans hmem
  all_goals
    rw [show exec (.clusterPortCharge n) s = execClusterPortCharge n s from rfl, execClusterPortCharge, hr]
    dsimp only
    have hnone : (s.pipe.reqs.any fun x => x.core == r.core && lineOf x.pa == lineOf r.pa && decide (x.id < r.id) && !x.charged) = false := by
      refine List.any_eq_false.mpr fun x hx hb => ?_
      simp only [Bool.and_eq_true, beq_iff_eq, decide_eq_true_eq, Bool.not_eq_true'] at hb
      obtain ⟨⟨⟨hcore, hline⟩, hid⟩, hx'⟩ := hb
      exact absurd (hearlier x hx hcore hline hid) (by simp [hx'])
    rw [hnone, hc, hport]
    rfl

end Sys2Proof.Machine

/-!
PROOF (HostEventsComplete, accesses of the host to lines: R82, R363, R364).
-/
namespace Sys2Proof.Machine

-- One theorem after the other: in parallel they ask for more threads than the host allows.
set_option Elab.async false

/-! ## A line that is admitted to its home -/

theorem State.LinesStay.crossAll (s : State) (ls : List (Nat × Nat)) : s.LinesStay (s.crossAll ls) := of_lines (by
  unfold State.crossAll
  exact foldl_frame (F := fun t : State => t.sl.lines) (f := fun t (e : Nat × Nat) => State.cross t e.1 e.2) (fun t e => rfl) _ _)

theorem State.LinesStay.hbmFill (s : State) (slice a line lid : Nat) : s.LinesStay (s.hbmFill slice a line lid) := by
  unfold State.hbmFill
  dsimp only
  refine trans (t := if (s.sl.phys.filterMap (PhysFault.onFill line)).isEmpty then s
    else { s with sl := { s.sl with phys := s.sl.phys.filter fun f => (f.onFill line).isNone } }) ?_ (foldl (fun t h => ?_) _ _)
  · split
    · exact refl s
    · exact of_lines rfl
  · have herr : t.LinesStay (t.rowError (Config.hbmRow line) h.2) := of_lines rfl
    split
    · exact herr
    · refine herr.trans (trans ?_ (logArray _ _ _))
      split <;> exact poisonHome _ _ _ _

/-- A line with one home keeps it while no line comes or goes. -/
theorem State.oneHome.stay {s t : State} {slice line : Nat} (h : s.oneHome slice line) (k : s.LinesStay t) : t.oneHome slice line := by
  intro m hm hl
  have hname : m.name ∈ s.sl.lines.map MscLine.name := k.names ▸ List.mem_map_of_mem hm
  obtain ⟨x, hx, hxm⟩ := List.mem_map.mp hname
  have hplace : x.slice = m.slice ∧ x.line = m.line := by simpa [MscLine.name] using hxm
  refine ⟨hplace.1 ▸ (h x hx (hplace.2.trans hl)).1, ?_⟩
  refine Classical.byContradiction fun hown => ?_
  obtain ⟨y, hy, hyl, hyo⟩ := k.owns (64 * line) ⟨m, hm, by omega, hown⟩
  exact hyo (h y hy (by omega)).2

/-- Bytes written behind another line leave the homes of a line. -/
theorem State.oneHome.putBehind {s : State} {slice line : Nat} (h : s.oneHome slice line) (unit pa : Nat) (bs : List (Nat × Byte)) (bad : BitVec 8) (hpa : pa / 64 ≠ line) :
    (s.putBehind unit pa bs bad).oneHome slice line := by
  have hmap : ∀ (g : MscLine → MscLine), (∀ m, (g m).line = m.line) → ∀ x ∈ s.sl.lines.map fun m => if m.shares (pa / 64) then g m else m, x.line = line →
      x.slice = slice ∧ x.own = none := by
    intro g hg x hx hl
    obtain ⟨y, hy, rfl⟩ := List.mem_map.mp hx
    by_cases hs : y.shares (pa / 64) = true
    · rw [if_pos hs, hg] at hl
      rw [MscLine.shares, Bool.and_eq_true, beq_iff_eq] at hs
      exact absurd (hs.1.symm.trans hl) hpa
    · rw [if_neg hs] at hl ⊢
      exact h y hy hl
  unfold State.putBehind
  dsimp only
  split
  · split
    · exact hmap _ fun _ => rfl
    · exact hmap _ fun _ => rfl
  · exact h

theorem State.oneHome.backOwn {s : State} {slice line : Nat} (h : s.oneHome slice line) {m : MscLine} (hm : m.line ≠ line) : (s.backOwn m).oneHome slice line := by
  unfold State.backOwn
  split
  · split
    · exact h.putBehind _ _ _ _ (by omega)
    · exact h
  · exact h

/-- The copy of a line that is taken into a way of its home. -/
def State.lineTaken (s : State) (slice line loc tenant cls way : Nat) (dirty : Bool) : MscLine :=
  { slice := slice, line := line, set := loc % s.mscSets slice, way := way, cls := cls, filler := tenant, dirty := dirty, used := s.now,
    own := (s.sl.lines.find? fun m => m.shares line).map fun _ => s.behind line, hbm := if dirty then s.lineData line else ([], 0) }

/-- What the admission of a line to its home leaves: one home, and the bytes of which no home holds a copy of its own. -/
structure State.Admits (s : State) (slice line : Nat) (t : State) : Prop where
  home : s.oneHome slice line → t.oneHome slice line
  byte : ∀ a, ¬ s.ownAt a → t.memByte a = s.memByte a

namespace State.Admits

theorem of_stay {s t : State} {slice line : Nat} (hstay : s.LinesStay t) (hcells : t.mem.cells = s.mem.cells) : s.Admits slice line t :=
  ⟨fun h => h.stay hstay, fun a _ => by rw [State.memByte, hcells, State.memByte]⟩

theorem then_stay {s t u : State} {slice line : Nat} (h : s.Admits slice line t) (hstay : t.LinesStay u) (hcells : u.mem.cells = t.mem.cells) : s.Admits slice line u :=
  ⟨fun ho => (h.home ho).stay hstay, fun a ha => (by rw [State.memByte, hcells, State.memByte] : u.memByte a = t.memByte a).trans (h.byte a ha)⟩

theorem after_stay {s t u : State} {slice line : Nat} (hstay : s.LinesStay t) (hcells : t.mem.cells = s.mem.cells) (h : t.Admits slice line u) : s.Admits slice line u :=
  ⟨fun ho => h.home (ho.stay hstay), fun a ha => (h.byte a fun hown => ha (hstay.owns a hown)).trans (by rw [State.memByte, hcells, State.memByte])⟩

/-- A victim's place is taken by a line that is not in its home. -/
theorem mscFillLine {s t : State} {slice line loc tenant cls : Nat} {dirty : Bool} (hnew : s.mscFind slice line = none)
    (h : s.mscFillLine slice line loc tenant cls dirty = some t) : s.Admits slice line t := by
  unfold State.mscFillLine at h
  dsimp only at h
  split at h
  · cases h
    exact of_stay (.refl s) rfl
  · split at h
    · cases h
      exact of_stay (.refl s) rfl
    · next way old hv =>
      have hput : ∀ (ls : List MscLine) (new : MscLine), (∀ m ∈ ls, m ∈ s.sl.lines) → new.slice = slice →
          new.own = (s.sl.lines.find? fun m => m.shares line).map (fun _ => s.behind line) → s.oneHome slice line → (s.setLines (ls ++ [new])).oneHome slice line := by
        intro ls new hls hslice hown ho m hm hl
        rcases List.mem_append.mp hm with hm | hm
        · exact ho m (hls m hm) hl
        · rw [List.mem_singleton.mp hm, hown, ho.find_shares hnew]
          exact ⟨hslice, rfl⟩
      split at h
      · cases h
        exact ⟨hput _ _ (fun m hm => hm) rfl rfl, fun a _ => rfl⟩
      · next m =>
        split at h
        · cases h
        · cases h
          have hvictim := State.victim_mem hv
          have hother : s.oneHome slice line → m.line ≠ line := fun ho hl =>
            List.find?_eq_none.mp hnew m hvictim (by simp [hl, (ho m hvictim hl).1])
          have hback : ∀ ls, (∀ x ∈ ls, x ∈ s.sl.lines) → ∀ new : MscLine, new.slice = slice → new.own = (s.sl.lines.find? fun m => m.shares line).map (fun _ => s.behind line) →
              s.Admits slice line ((s.setLines (ls ++ [new])).backOwn m) := fun ls hls new hslice hown =>
            ⟨fun ho => (hput ls new hls hslice hown ho).backOwn (hother ho), fun a ha =>
              (State.backOwn_memByte (s.setLines _) (State.own_or_line ha hvictim)).trans rfl⟩
          have hadmit := hback (s.sl.lines.filter fun x => !(x == m)) (fun x hx => (List.mem_filter.mp hx).1) (s.lineTaken slice line loc tenant cls way dirty) rfl rfl
          split
          · exact hadmit.then_stay (.of_lines rfl) rfl
          · exact hadmit

theorem fillMsc {s t : State} {slice line loc tenant cls lid : Nat} {u : LineUse} (hnew : s.mscFind slice line = none)
    (h : s.fillMsc slice line loc tenant cls lid u = some t) : s.Admits slice line t := by
  unfold State.fillMsc at h
  dsimp only at h
  generalize (if u == LineUse.whole then [] else stackTrip slice line (flitsOf false 64)) = trip at h
  split at h
  · cases h
  · obtain ⟨v, hv, rfl⟩ := Option.map_eq_some_iff.mp h
    have hfill : s.Admits slice line v := by
      split at hv
      · split at hv
        · refine after_stay (.arrayRead s slice _ 0) (by simp) (mscFillLine ?_ hv)
          rw [State.mscFind, List.find?_eq_none]
          intro m hm hp
          have hname : m.name ∈ s.sl.lines.map MscLine.name := (State.LinesStay.arrayRead s slice _ 0).names ▸ List.mem_map_of_mem hm
          obtain ⟨x, hx, hxm⟩ := List.mem_map.mp hname
          have hplace : x.slice = m.slice ∧ x.line = m.line := by simpa [MscLine.name] using hxm
          exact List.find?_eq_none.mp hnew x hx (by rw [hplace.1, hplace.2]; exact hp)
        · exact mscFillLine hnew hv
      · exact mscFillLine hnew hv
    have hcross := hfill.then_stay (.crossAll v trip) (by simp)
    split
    · exact hcross
    · split
      · exact (hcross.then_stay (.hbmFill _ _ _ _ _) (by simp)).then_stay (.writeLine _ _ _) (by simp)
      · exact hcross

theorem mscHit (s : State) (slice line n k : Nat) (w : Bool) : s.Admits slice line (s.mscHit n k w) := ⟨fun ho => ho.mscHit n k w, fun _ _ => rfl⟩

theorem touchLine {s t : State} {slice line loc tenant ccls lid : Nat} {u : LineUse} {v : Via} (h : s.touchLine slice line loc tenant ccls lid u v = some t) :
    s.Admits slice line t := by
  unfold State.touchLine at h
  obtain ⟨r, hr, rfl⟩ := Option.map_eq_some_iff.mp h
  have hadmit : s.Admits slice line r.1 := by
    unfold State.admitLine at hr
    dsimp only at hr
    split at hr
    · cases hr
    · split at hr
      · cases hr
      · cases hr
        exact of_stay (.crossAll s _) (by simp)
      · split at hr
        · cases hr
        · split at hr
          · cases hr
            exact (mscHit s slice line slice line u.writes).then_stay (.crossAll _ _) (by simp)
          · next hfind =>
            split at hr
            · obtain ⟨w, hw, rfl⟩ := Option.map_eq_some_iff.mp hr
              exact (fillMsc (by simpa using hfind) hw).then_stay (.crossAll _ _) (by simp)
            · split at hr
              · cases hr
              · cases hr
                exact (of_stay (.crossAll s _) (by simp)).then_stay (.crossAll _ _) (by simp)
  split
  · exact hadmit.then_stay (.readLine _ _ _ _) (by simp)
  · exact hadmit

end State.Admits

end Sys2Proof.Machine

/-!
PROOF (HostEventsComplete: R302, R327, R328, R340, R363 to R371).
-/
namespace Sys2Proof.Machine

-- One theorem after the other: in parallel they ask for more threads than the host allows.
set_option Elab.async false

/-! ## Commands leave memory -/

@[simp] theorem State.blockBack_quiet (s : State) (f : FaultRec) : (s.blockBack f).mem = s.mem ∧ (s.blockBack f).host = s.host := by
  unfold State.blockBack
  split
  · exact ⟨rfl, rfl⟩
  · split <;> exact ⟨rfl, rfl⟩

@[simp] theorem State.pairNotes_quiet (s : State) (f : FaultRec) (skip : Bool) : (s.pairNotes f skip).mem = s.mem ∧ (s.pairNotes f skip).host = s.host := by
  unfold State.pairNotes
  dsimp only
  (repeat' split) <;> simp

@[simp] theorem State.threadsBack_quiet (s : State) (f : FaultRec) (skip : Bool) : (s.threadsBack f skip).mem = s.mem ∧ (s.threadsBack f skip).host = s.host := by
  unfold State.threadsBack
  dsimp only
  split <;> exact ⟨rfl, rfl⟩

@[simp] theorem State.leaveTrap_quiet (s : State) (f : FaultRec) (skip : Bool) : (s.leaveTrap f skip).mem = s.mem ∧ (s.leaveTrap f skip).host = s.host := by
  rw [leaveTrap_eq]
  simp

@[simp] theorem State.continueFault_quiet (s : State) (f : FaultRec) (skip : Bool) : (s.continueFault f skip).mem = s.mem ∧
    (s.continueFault f skip).host.featacc = s.host.featacc := by
  unfold State.continueFault
  split <;> simp

theorem State.serveEntry_quiet {s t : State} {f : FaultRec} {action level id : Nat} (h : s.serveEntry f action level id = some t) :
    t.mem = s.mem ∧ t.host.featacc = s.host.featacc := by
  unfold State.serveEntry at h
  split at h
  · cases h
    simp
  · cases h
    simp
  · cases h
    simp
  · split at h <;> cases h
    simp
  · cases h

@[simp] theorem State.serveFault_quiet (s : State) (ctx seq action level id : Nat) : (s.serveFault ctx seq action level id).mem = s.mem ∧
    (s.serveFault ctx seq action level id).host.featacc = s.host.featacc := by
  unfold State.serveFault
  split
  · simp
  · next t ht =>
    obtain ⟨f, -, hf⟩ := Option.bind_eq_some_iff.mp ht
    simpa using State.serveEntry_quiet hf

@[simp] theorem State.endCtx_quiet (s : State) (ctx : Nat) : (s.endCtx ctx).mem = s.mem ∧ (s.endCtx ctx).host.featacc = s.host.featacc := by
  unfold State.endCtx
  dsimp only
  split
  · simp
  · simp only [State.cmdWait_frame, State.cmdWait_featacc, State.due_mem, State.due_host]
    have hstop : ∀ (l : List Launch) (t : State), (l.foldl (fun t l => State.stopLaunch t l.uid 1) t).mem = t.mem ∧ (l.foldl (fun t l => State.stopLaunch t l.uid 1) t).host = t.host :=
      fun l t => ⟨foldl_frame (F := fun t : State => t.mem) (fun t l => by simp) l t, foldl_frame (F := fun t : State => t.host) (fun t l => by simp) l t⟩
    have hqueue : ∀ (l : List Nat) (t : State), (l.foldl (fun t q => State.setQueue t q { t.queue q with stopped := true }) t).mem = t.mem ∧
        (l.foldl (fun t q => State.setQueue t q { t.queue q with stopped := true }) t).host = t.host :=
      fun l t => ⟨foldl_frame (F := fun t : State => t.mem) (f := fun t (q : Nat) => State.setQueue t q { t.queue q with stopped := true }) (fun t q => rfl) l t, foldl_frame (F := fun t : State => t.host) (f := fun t (q : Nat) => State.setQueue t q { t.queue q with stopped := true }) (fun t q => rfl) l t⟩
    exact ⟨(hqueue _ _).1.trans (hstop _ _).1, congrArg (fun h => h.featacc) ((hqueue _ _).2.trans (hstop _ _).2)⟩

@[simp] theorem State.runCommand_quiet (s : State) : s.runCommand.mem = s.mem ∧ s.runCommand.host.featacc = s.host.featacc := by
  unfold State.runCommand
  split
  case h_3 => split <;> simp
  all_goals simp

@[simp] theorem State.putReg_quiet (s : State) (r : MgmtReg) (v : DWord) : (s.putReg r v).mem = s.mem ∧ (s.putReg r v).host.featacc = s.host.featacc := by
  unfold State.putReg State.command
  dsimp only
  split <;> (repeat' split) <;> simp

/-! ## An access within one line -/

/-- The bytes of an access, by their offset in the line. -/
def bytesInLine (pa : Nat) (data : List Byte) : List (Nat × Byte) := ((List.range data.length).zip data).map fun e => (pa % 64 + e.1, e.2)

theorem dedup_constant {α : Type} [DecidableEq α] {a : α} {l : List α} (hne : l ≠ []) (h : ∀ x ∈ l, x = a) : dedup l = [a] := by
  have hrest : ∀ l : List α, (∀ x ∈ l, x = a) → l.foldl (fun acc x => if x ∈ acc then acc else acc ++ [x]) [a] = [a] := by
    intro l hl
    induction l with
    | nil => rfl
    | cons x l ih =>
      rw [List.foldl_cons, hl x List.mem_cons_self, if_pos (List.mem_singleton_self a)]
      exact ih fun y hy => hl y (List.mem_cons_of_mem x hy)
  cases l with
  | nil => exact absurd rfl hne
  | cons x l =>
    obtain rfl := h x List.mem_cons_self
    exact hrest l fun y hy => h y (List.mem_cons_of_mem x hy)

theorem hostParts_bytesInLine {pa : Nat} {data : List Byte} (hne : data ≠ []) (hfit : pa % 64 + data.length ≤ 64) : hostParts pa data = [(lineOf pa, bytesInLine pa data)] := by
  have hlen : 0 < data.length := List.length_pos_iff.mpr hne
  have hline : ∀ i, i < data.length → lineOf (pa + i) = lineOf pa := fun i hi => by unfold lineOf; omega
  have hmem : ∀ e ∈ (List.range data.length).zip data, e.1 < data.length := fun e he => List.mem_range.mp (List.of_mem_zip (show (e.1, e.2) ∈ _ from he)).1
  unfold hostParts
  dsimp only
  rw [dedup_constant (a := lineOf pa)]
  · rw [List.map_singleton, List.filter_eq_self.mpr fun e he => ?_, List.map_map]
    · refine congrArg (fun l => [(lineOf pa, l)]) (List.map_congr_left fun e he => ?_)
      have := hmem e he
      exact Prod.ext (by simp only [Function.comp_apply]; omega) rfl
    · obtain ⟨x, hx, rfl⟩ := List.mem_map.mp he
      exact beq_iff_eq.mpr (hline _ (hmem x hx))
  · simpa using hne
  · intro x hx
    rw [List.map_map] at hx
    obtain ⟨e, he, rfl⟩ := List.mem_map.mp hx
    exact hline _ (hmem e he)

theorem bytesInLine_map_fst (pa : Nat) (data : List Byte) : ((bytesInLine pa data).map fun e => e.1) = (List.range data.length).map (pa % 64 + ·) := keyed_map_fst (pa % 64) data

theorem mem_bytesInLine {pa i : Nat} {data : List Byte} (h : i < data.length) : (pa % 64 + i, data[i]) ∈ bytesInLine pa data :=
  List.mem_map.mpr ⟨(i, data[i]), List.mem_iff_getElem.mpr ⟨i, by simpa using h, by simp⟩, rfl⟩

theorem bytesInLine_lt {pa : Nat} {data : List Byte} {e : Nat × Byte} (he : e ∈ bytesInLine pa data) : pa % 64 ≤ e.1 ∧ e.1 < pa % 64 + data.length := by
  have hf : e.1 ∈ (List.range data.length).map (pa % 64 + ·) := bytesInLine_map_fst pa data ▸ List.mem_map_of_mem he
  obtain ⟨i, hi, h⟩ := List.mem_map.mp hf
  rw [List.mem_range] at hi
  omega

/-- Bytes written at the one home of their line read back. -/
theorem State.homeWrite_bytesInLine {s : State} {slice pa : Nat} (data : List Byte) (h : s.oneHome slice (lineOf pa)) :
    (s.homeWrite slice (lineOf pa * 64) (bytesInLine pa data)).memBytes pa data.length = data := by
  refine List.ext_getElem (by simp [State.memBytes]) fun i hi hi' => ?_
  simp only [State.memBytes, List.getElem_map, List.getElem_range]
  have hread := State.homeWrite_memByte (s := s) (slice := slice) (pa := lineOf pa * 64) (bs := bytesInLine pa data)
    (by rwa [show lineOf (lineOf pa * 64) = lineOf pa by unfold lineOf; omega])
    (by rw [bytesInLine_map_fst]; exact nodup_range_map_add _ _) (mem_bytesInLine hi')
  rwa [show lineOf pa * 64 + (pa % 64 + i) = pa + i by unfold lineOf; omega] at hread

/-- An access to a line: its admission to the home, and the write there. -/
theorem hostLines_one {s t : State} {port at' line : Nat} {write : Bool} {bs : List (Nat × Byte)} {il : Nat × Nat} (hil : il = s.physIlv (line * 64))
    (h : s.hostLines port at' write [(line, bs)] = some t) : ∃ r, s.Admits (homeSlice il.1 il.2 line) line r ∧ s.Accessed r ∧
      t = if write then r.homeWrite (homeSlice il.1 il.2 line) (line * 64) bs else r := by
  subst hil
  rw [State.hostLines] at h
  obtain ⟨r, hr, ht⟩ := Option.bind_eq_some_iff.mp h
  exact ⟨r, .touchLine hr, .touchLine hr, (Option.some.inj ht).symm⟩

theorem State.Accessed.hostLines {port at' : Nat} {write : Bool} {l : List (Nat × List (Nat × Byte))} {s t : State} (h : s.hostLines port at' write l = some t) :
    s.Accessed t := by
  induction l generalizing s with
  | nil =>
    cases h
    exact .refl _
  | cons x l ih =>
    rw [State.hostLines] at h
    obtain ⟨r, hr, ht⟩ := Option.bind_eq_some_iff.mp h
    refine State.Accessed.trans (.touchLine hr) (State.Accessed.trans ?_ (ih ht))
    split
    · exact .homeWrite _ _ _ _
    · exact .refl r

theorem State.Accessed.hostAccess {s t : State} {a : HostAcc} (h : s.hostAccess a = some t) : s.Accessed t := by
  unfold State.hostAccess at h
  split at h
  · cases h
  · exact .hostLines h

/-- What an access of the host within one line does to memory. -/
theorem hostAccess_bytes {s t : State} {n addr pa : Nat} {data : List Byte} {write : Bool} (hpa : pa = n * 2 ^ 37 + addr) (hne : data ≠ []) (hfit : pa % 64 + data.length ≤ 64)
    (h : s.hostAccess ⟨n, addr, data, write, s.now⟩ = some t) :
    (write = true → (∀ il, il = s.physIlv (lineOf pa * 64) → s.oneHome (homeSlice il.1 il.2 (lineOf pa)) (lineOf pa) → t.memBytes pa data.length = data) ∧
      ∀ a, a < pa ∨ pa + data.length ≤ a → ¬ s.ownAt a → t.memByte a = s.memByte a) ∧
    (write = false → ∀ a, ¬ s.ownAt a → t.memByte a = s.memByte a) := by
  unfold State.hostAccess at h
  split at h
  · cases h
  · rw [← hpa, hostParts_bytesInLine hne hfit] at h
    obtain ⟨r, hadmit, -, rfl⟩ := hostLines_one rfl h
    refine ⟨fun hw => ?_, fun hw a ha => ?_⟩
    · rw [if_pos hw]
      refine ⟨fun il hil hone => ?_, fun a ha hown => ?_⟩
      · subst hil
        exact State.homeWrite_bytesInLine data (hadmit.home hone)
      · rw [State.homeWrite_memByte_ne, hadmit.byte a hown]
        intro e he
        have := bytesInLine_lt he
        unfold lineOf
        omega
    · rw [if_neg (Bool.eq_false_iff.mp hw)]
      exact hadmit.byte a ha

/-! ## Ports -/

/-- Messages to the host that come or go. -/
theorem State.Accessed.messages (s : State) (m : List Nat) (o : List HostOut) : s.Accessed { s with host := { s.host with msix := m, out := o } } :=
  ⟨rfl, rfl, rfl, rfl, rfl, rfl, rfl, rfl, rfl⟩

theorem State.Accessed.hostSend (n : Nat) (s : State) : s.Accessed (s.hostSend n) := by
  induction n generalizing s with
  | zero => exact .refl s
  | succ n ih =>
    rw [State.hostSend]
    split
    · exact .refl s
    · next o rest _ =>
      cases o with
      | msi v =>
        dsimp only
        split
        · exact .refl s
        · exact (State.Accessed.messages s (v :: s.host.msix) rest).trans (ih _)
      | write x bs at' =>
        dsimp only
        split
        · next u hu => exact (State.Accessed.messages s s.host.msix rest).trans ((State.Accessed.hostReach hu).trans ((State.Accessed.hostPut _ _ _).trans (ih _)))
        · exact .refl s

/-- What the host's accesses and messages leave of its ports. -/
def State.SamePorts (s t : State) : Prop := t.regs = s.regs ∧ t.host.ports = s.host.ports ∧ t.host.boot = s.host.boot

theorem State.Accessed.samePorts {s t : State} (h : s.Accessed t) : s.SamePorts t := ⟨h.regs, by rw [h.host], by rw [h.host]⟩

theorem State.SamePorts.trans {s t u : State} (h : s.SamePorts t) (k : t.SamePorts u) : s.SamePorts u :=
  ⟨k.1.trans h.1, k.2.1.trans h.2.1, k.2.2.trans h.2.2⟩

theorem State.SamePorts.serveHeld (s : State) (port : Nat) : s.SamePorts (s.serveHeld port) := by
  unfold State.serveHeld
  split
  · exact ⟨rfl, rfl, rfl⟩
  · split
    · exact ⟨rfl, rfl, rfl⟩
    · next t ht =>
      obtain ⟨h1, h2, h3⟩ := (State.Accessed.hostAccess ht).samePorts
      exact ⟨h1, h2, h3⟩

theorem State.port_setPort (s : State) (n m : Nat) (p : Port) : (s.setPort n p).port m = if m = n then p else s.port m := by
  unfold State.setPort State.port
  exact mget_mput _ _ _ _ _

/-- The state in which a port has come up. -/
def State.portUp (s : State) (n : Nat) : State :=
  let t := s.setPort n { up := true, retraining := false }
  if (List.range 4).all fun n => (t.port n).up then { t with host := { t.host with boot := max t.host.boot 5 } } else t

theorem exec_linkUp {s : State} {n : Nat} (hn : n < 4) (hboot : 4 ≤ s.host.boot) : exec (.linkUp n) s =
    .next ((if (s.port n).retraining then ((s.portUp n).hostSend (s.portUp n).host.out.length).msi 65 else (s.portUp n).hostSend (s.portUp n).host.out.length).serveHeld n) := by
  rw [show exec (.linkUp n) s = execLinkUp n s from rfl, execLinkUp]
  exact if_neg (by simp [hn, hboot])

theorem portUp_port (s : State) (n m : Nat) : (s.portUp n).port m = if m = n then { up := true, retraining := false } else s.port m := by
  have hset := fun m => s.port_setPort n m { up := true, retraining := false }
  unfold State.portUp
  dsimp only
  split <;> exact hset m

theorem portUp_of_open {s : State} {n : Nat} (h : 5 ≤ s.host.boot) : s.portUp n = s.setPort n { up := true, retraining := false } := by
  have hmax : max (s.setPort n { up := true, retraining := false }).host.boot 5 = (s.setPort n { up := true, retraining := false }).host.boot := Nat.max_eq_left h
  unfold State.portUp
  dsimp only
  rw [hmax]
  split <;> rfl

theorem portUp_boot {s : State} {n : Nat} (hboot : s.host.boot = 4) :
    ((∀ m, m < 4 → m ≠ n → (s.port m).up = true) → (s.portUp n).host.boot = 5) ∧ ((∃ m, m < 4 ∧ m ≠ n ∧ (s.port m).up = false) → (s.portUp n).host.boot = 4) := by
  have hset := fun m => s.port_setPort n m { up := true, retraining := false }
  unfold State.portUp
  dsimp only
  constructor
  · intro hall
    rw [if_pos]
    · exact (congrArg (max · 5) hboot).trans rfl
    · refine List.all_eq_true.mpr fun m hm => ?_
      rw [hset]
      split
      · rfl
      · next hne => exact hall m (List.mem_range.mp hm) hne
  · rintro ⟨m, hm, hne, hdown⟩
    rw [if_neg]
    · exact hboot
    · intro hall
      have hup := List.all_eq_true.mp hall m (List.mem_range.mpr hm)
      rw [hset, if_neg hne, hdown] at hup
      cases hup

/-- A port trains in step 4 of start-up, which ends once all four have (R371). -/
theorem portsTrain : PortsTrainClaim := by
  unfold PortsTrainClaim
  intro n s hn hboot
  refine ⟨_, exec_linkUp hn (Nat.le_of_eq hboot.symm), ?_⟩
  generalize hv : State.hostSend (s.portUp n) _ = v
  have hsend : (s.portUp n).SamePorts v := hv ▸ (State.Accessed.hostSend _ _).samePorts
  have hmsi : v.SamePorts (if (s.port n).retraining then v.msi 65 else v) := by
    split
    · exact (State.Accessed.msi v 65).samePorts
    · exact ⟨rfl, rfl, rfl⟩
  obtain ⟨hregs, hports, hkeep⟩ := (hsend.trans hmsi).trans (.serveHeld _ n)
  refine ⟨?_, hregs.trans ?_, ?_⟩
  · rw [State.port, hports]
    exact (portUp_port s n n).trans (if_pos rfl)
  · unfold State.portUp
    dsimp only
    split <;> rfl
  · rw [hkeep]
    exact portUp_boot hboot

/-! ## Registers, firmware and reset -/

section
variable {s : State} (hopen : 5 ≤ s.host.boot)
include hopen

theorem exec_feataccWrite (v : Word) : exec (.feataccWrite v) s = .next (if s.host.featLocked then s
    else { s with host := { s.host with featacc := v &&& 0xF, featWritten := true, boot := max s.host.boot 6 } }) := by
  rw [show exec (.feataccWrite v) s = execFeataccWrite v s from rfl, execFeataccWrite]
  have hgate : (!s.open' || s.host.featLocked) = s.host.featLocked := by simp [State.open', hopen]
  rw [hgate]
  split <;> rfl

theorem exec_creadWrite {n : Nat} (hn : n < 64) (v : Word) : exec (.creadWrite n v) s = .next (s.setQueue n { s.queue n with cread := v.toNat }) := by
  rw [show exec (.creadWrite n v) s = execCreadWrite n v s from rfl, execCreadWrite]
  exact if_neg (by simp [State.open', hopen, hn])

theorem exec_fqreadWrite {n : Nat} (hn : n < 128) (v : Word) : exec (.fqreadWrite n v) s = .next (
    (s.setCtx n { s.ctx n with fqread := v.toNat }).due ((s.sch.faults.filter fun f => !f.toCore && !f.written && s.ctxOf f.blk == n).map fun f => Instr.faultEntryWrite f.id)) := by
  rw [show exec (.fqreadWrite n v) s = execFqreadWrite n v s from rfl, execFqreadWrite]
  exact if_neg (by simp [State.open', hopen, hn])

theorem exec_registerWrite (r : MgmtReg) (w : DWord) : exec (.registerWrite r w) s = .next (s.putReg r w) := by
  rw [show exec (.registerWrite r w) s = execRegisterWrite r w s from rfl]
  unfold execRegisterWrite
  exact congrArg Host.Outcome.next (if_pos (by rw [State.open', decide_eq_true hopen, Bool.or_true]))

theorem exec_logReadIndexWrite {n m key : Nat} {log : LogKind} (hn : n < 4) (hkey : key = logKey n log) (hlow : (mget .init s.sl.logs key).read ≤ m)
    (hhigh : m ≤ (mget .init s.sl.logs key).written) : exec (.logReadIndexWrite n log m) s = .next { s with sl := { s.sl with
      logs := mput .init s.sl.logs key { mget .init s.sl.logs key with read := m, entries := (mget .init s.sl.logs key).entries.filter fun e => m ≤ e.1 } } } := by
  subst hkey
  rw [show exec (.logReadIndexWrite n log m) s = execLogReadIndexWrite n log m s from rfl, execLogReadIndexWrite]
  dsimp only
  rw [if_neg (by simp [State.open', hopen, hn, hlow, hhigh])]

end

theorem State.ctx_setCtx_self (s : State) (c : Nat) (x : CtxPage) : (s.setCtx c x).ctx c = x := by
  unfold State.setCtx State.ctx
  exact mget_mput_self _ _ _ _

theorem exec_firmwareUpdate {s : State} (hopen : 5 ≤ s.host.boot) (svn image : Nat) : exec (.firmwareUpdate svn image) s =
    .next ((if fwVerifies svn image then { s with host := { s.host with fwSvn := svn, fwImage := image } } else s).msi 65) := by
  rw [show exec (.firmwareUpdate svn image) s = execFirmwareUpdate svn image s from rfl, execFirmwareUpdate]
  exact congrArg Host.Outcome.next (if_pos (by simp [State.open', hopen]))

/-- What a write of a register gives to its table. -/
theorem putReg_tables (s : State) (r : MgmtReg) (w : DWord) :
    (∀ c, r = .topTable c → c < 128 → ((s.putReg r w).ctx c).top = w.toNat) ∧ (∀ c, r = .privileged c → c < 128 → ((s.putReg r w).ctx c).privileged = w.getLsbD 0) ∧
      (∀ c, r = .tenant c → c < 128 → ((s.putReg r w).ctx c).tenant = w.toNat % 16) ∧ (∀ c, r = .wdl c → c < 128 → ((s.putReg r w).ctx c).wdl = w.toNat % 64) ∧
      (∀ c, r = .bpmask c → c < 128 → ((s.putReg r w).ctx c).bpmask = w.setWidth 16) ∧ (∀ c, r = .fqbase c → c < 128 → ((s.putReg r w).ctx c).fqbase = w.toNat) ∧
      (∀ q, r = .qbase q → q < 64 → ((s.putReg r w).queue q).qbase = w.toNat) ∧ (∀ q, r = .qlog q → q < 64 → ((s.putReg r w).queue q).qlog = w.toNat % 32) ∧
      (∀ q, r = .tailpa q → q < 64 → ((s.putReg r w).queue q).tailpa = w.toNat ∧ ((s.putReg r w).queue q).shared = false) ∧
      (∀ c, r = .clbudget c → c < 48 → ((s.putReg r w).bud c).next = w.toNat % 2 ^ 16) ∧
      (∀ i, r = .cmd i → i < 16 → mget 0 (s.putReg r w).host.cmd i = w.setWidth 32) ∧
      (r = .cmdgo → w = 1 → s.host.cmdRun = .idle → 5 ≤ s.host.boot → s.putReg r w = s.runCommand) ∧ (∀ i, r = .readOnly i ∨ r = .unnamed i → s.putReg r w = s) := by
  have hctx : ∀ {c : Nat} (f : CtxPage → CtxPage), c < 128 → (s.putCtx c f).ctx c = { f (s.ctx c) with live := true } := fun f hc => by
    rw [State.putCtx, if_pos hc, State.ctx_setCtx_self]
  have hqueue : ∀ {q : Nat} (f : LQueue → LQueue), q < 64 → (s.putQueue q f).queue q = f (s.queue q) := fun f hq => by
    rw [State.putQueue, if_pos hq, State.queue_setQueue_self]
  refine ⟨?_, ?_, ?_, ?_, ?_, ?_, ?_, ?_, ?_, ?_, ?_, ?_, ?_⟩
  case refine_3 | refine_4 =>
    rintro c rfl hc
    rw [State.putReg, hctx _ hc]
    simp [bits]
  case refine_7 =>
    rintro q rfl hq
    rw [State.putReg, hqueue _ hq]
  case refine_8 =>
    rintro q rfl hq
    rw [State.putReg, hqueue _ hq]
    simp [bits]
  case refine_9 =>
    rintro q rfl hq
    rw [State.putReg, hqueue _ hq]
    exact ⟨rfl, rfl⟩
  case refine_10 =>
    rintro c rfl hc
    rw [State.putReg, if_pos hc, State.bud_setBud_self]
    simp [bits]
  case refine_11 =>
    rintro i rfl hi
    rw [State.putReg, if_pos hi]
    exact mget_mput_self _ _ _ _
  case refine_12 =>
    rintro rfl rfl hidle hopen
    rw [State.putReg, if_pos (show (1 : DWord).toNat = 1 from rfl), State.command, if_pos (by simp [State.open', hopen, hidle])]
  case refine_13 =>
    rintro i (rfl | rfl) <;> rfl
  all_goals
    rintro c rfl hc
    rw [State.putReg, hctx _ hc]

/-- The registers, the accesses, the ports, firmware and the reset (R302, R327, R328, R340, R363 to R370). -/
theorem hostRegisters : HostRegistersClaim := by
  unfold HostRegistersClaim
  intro n v w s hopen
  refine ⟨fun hl => ?_, fun hl => ?_, fun hn => exec_creadWrite hopen hn v, fun hn => ?_, fun r => ?_, fun log m key r hn hkey hr hlow hhigh => ?_, ?_, ?_, fun hup => ?_, ?_,
    fun svn image => ⟨?_, ?_⟩, fun msg hn hup => ?_, ?_⟩
  · exact (exec_feataccWrite hopen v).trans (by rw [if_neg (Bool.eq_false_iff.mp hl)])
  · exact (exec_feataccWrite hopen v).trans (by rw [if_pos hl])
  · refine ⟨_, exec_fqreadWrite hopen hn v, ?_, rfl, rfl, fun f hf hcore hwritten hctx => ?_⟩
    · exact congrArg CtxPage.fqread (s.ctx_setCtx_self n _)
    · refine List.mem_append_right _ (List.mem_map.mpr ⟨f, List.mem_filter.mpr ⟨hf, ?_⟩, rfl⟩)
      simp [hcore, hwritten, hctx]
  · obtain ⟨h1, h2, h3, h4, h5, h6, h7, h8, h9, h10, h11, h12, h13⟩ := putReg_tables s r w
    exact ⟨_, exec_registerWrite hopen r w, congrArg Mem.cells (s.putReg_quiet r w).1, h1, h2, h3, h4, h5, h6, h7, h8, h9, h10, h11, fun hr hw hi => h12 hr hw hi hopen, h13⟩
  · subst hr
    exact ⟨_, exec_logReadIndexWrite hopen hn (hkey.trans (by cases log <;> rfl)) hlow hhigh, mget_mput_self _ _ _ _, rfl, rfl⟩
  · intro addr data write t pa hn hup hlen hheld hpa hne hfit ht
    refine ⟨?_, hostAccess_bytes hpa hne hfit ht⟩
    have hfree : (s.host.heldAcc.any fun a => a.port == n) = false := List.any_eq_false.mpr fun a ha => by simpa using hheld a ha
    rw [show exec (.hostMemAccess n addr data write) s = execHostMemAccess n addr data write s from rfl, execHostMemAccess, if_neg (by simpa [hn, hup] using hlen)]
    dsimp only
    rw [hfree, if_neg Bool.false_ne_true, ht]
  · rintro addr data write a hn hup hlen rfl hwait
    rw [show exec (.hostMemAccess n addr data write) s = execHostMemAccess n addr data write s from rfl, execHostMemAccess, if_neg (by simpa [hn, hup] using hlen)]
    dsimp only
    have hnone : (if (s.host.heldAcc.any fun a => a.port == n) = true then none else s.hostAccess ⟨n, addr, data, write, s.now⟩) = none := by
      split
      · rfl
      · next h => exact hwait.resolve_left h
    rw [hnone]
  · rw [show exec (.linkRetrain n) s = execLinkRetrain n s from rfl, execLinkRetrain]
    exact if_pos hup
  · rintro hn t rfl
    rw [exec_linkUp hn (by omega), portUp_of_open hopen]
    rfl
  · rintro hok hsvn
    exact (exec_firmwareUpdate hopen svn image).trans (by rw [if_pos (by simp [fwVerifies, hok, hsvn])])
  · intro hbad
    exact (exec_firmwareUpdate hopen svn image).trans (by rw [if_neg (by rcases hbad with h | h <;> simp [fwVerifies, h])])
  · rw [show exec (.spdmRequest n msg) s = execSpdmRequest n msg s from rfl, execSpdmRequest]
    exact if_neg (by simp [hn, hup])
  · exact ⟨_, rfl, rfl, rfl, rfl, rfl, rfl, rfl, rfl, rfl⟩

/-- Settles O49: each event by its equation, an access by the admission of its line to the home. -/
theorem hostEventsComplete : Obligations.HostEventsComplete := ⟨hostRegisters, portsTrain⟩

end Sys2Proof.Machine

/-!
PROOF (R82, R368): what keeps the canonical form of memory and the accepted features: accesses to the store.
-/
namespace Sys2Proof.Machine

-- One theorem after the other: in parallel they ask for more threads than the host allows.
set_option Elab.async false

/-- The second state keeps what the invariant says of the first: memory stays canonical, and FEATACC is as it was. -/
structure State.Kept (s t : State) : Prop where
  wf : s.mem.wf = true → t.mem.wf = true
  featacc : t.host.featacc = s.host.featacc

theorem State.Kept.inv {s t : State} (h : s.Kept t) (hs : Inv s) : Inv t := ⟨h.wf hs.1, by rw [h.featacc]; exact hs.2⟩

namespace State.Kept

theorem of_cells {s t : State} (hmem : t.mem.cells = s.mem.cells) (hacc : t.host.featacc = s.host.featacc) : s.Kept t :=
  ⟨fun h => by rwa [Mem.wf, hmem], hacc⟩

theorem refl (s : State) : s.Kept s := of_cells rfl rfl

theorem trans {s t u : State} (h : s.Kept t) (k : t.Kept u) : s.Kept u := ⟨fun hs => k.wf (h.wf hs), k.featacc.trans h.featacc⟩

theorem ite {s t u : State} {p : Prop} [Decidable p] (h : s.Kept t) (k : s.Kept u) : s.Kept (if p then t else u) := by
  split
  · exact h
  · exact k

theorem foldl {α : Type} {f : State → α → State} (h : ∀ (s : State) a, s.Kept (f s a)) (l : List α) (s : State) : s.Kept (l.foldl f s) := by
  induction l generalizing s with
  | nil => exact refl s
  | cons a l ih => exact (h s a).trans (ih (f s a))

/-- Steps one after the other, each of which may have to wait. -/
theorem bind_foldl {α : Type} {f : State → α → Option State} (hf : ∀ (s t : State) a, f s a = some t → s.Kept t) {l : List α} {s t : State}
    (h : l.foldl (fun (t : Option State) a => t.bind fun t => f t a) (some s) = some t) : s.Kept t := by
  have hnone : ∀ l : List α, l.foldl (fun (t : Option State) a => t.bind fun t => f t a) none = none := fun l => by
    induction l with
    | nil => rfl
    | cons b l ihl => exact ihl
  induction l generalizing s with
  | nil =>
    cases h
    exact refl _
  | cons a l ih =>
    rw [List.foldl_cons, Option.bind_some] at h
    cases hfa : f s a with
    | none =>
      rw [hfa, hnone] at h
      cases h
    | some u =>
      rw [hfa] at h
      exact (hf s u a hfa).trans (ih h)

theorem of_untouched {s t : State} (h : s.Untouched t) : s.Kept t := of_cells (by rw [h.mem]) (by rw [h.host])

theorem of_checkedTo {s t : State} (h : s.CheckedTo t) : s.Kept t := of_cells (by rw [h.mem]) h.featacc

theorem of_access {s t : State} (h : s.AccessKeeps t) : s.Kept t := of_cells h.cells h.featacc

/-! ## Memory -/

theorem memPut (s : State) (unit pa : Nat) (bs : List (Nat × Byte)) : s.Kept (s.memPut unit pa bs) := ⟨fun h => Mem.putAt_wf pa bs h, rfl⟩

theorem putBehind (s : State) (unit pa : Nat) (bs : List (Nat × Byte)) (bad : BitVec 8) : s.Kept (s.putBehind unit pa bs bad) := by
  have hput (t : State) (ws : List Nat) : t.Kept ((t.memPut unit pa bs).poisonWords ws) := (memPut t unit pa bs).trans (of_cells (by simp) (by simp))
  unfold State.putBehind
  dsimp only
  split
  · split
    · exact of_cells rfl rfl
    · exact trans (of_cells (by rfl) (by rfl)) (hput _ _)
  · exact hput s _

theorem backOwn (s : State) (m : MscLine) : s.Kept (s.backOwn m) := by
  unfold State.backOwn
  split
  · split
    · exact putBehind _ _ _ _ _
    · exact refl s
  · exact refl s

theorem homePut (s : State) (slice pa : Nat) (bs : List (Nat × Byte)) : s.Kept (s.homePut slice pa bs) := by
  unfold State.homePut
  dsimp only
  split
  · exact putBehind _ _ _ _ _
  · split
    · exact memPut _ _ _ _
    · split
      · exact of_cells rfl rfl
      · exact trans (of_cells (by rfl) (by rfl)) (putBehind _ _ _ _ _)

theorem homeWrite (s : State) (slice pa : Nat) (bs : List (Nat × Byte)) : s.Kept (s.homeWrite slice pa bs) :=
  ⟨State.homeWrite_wf slice pa bs, by simp⟩

theorem hostPut (s : State) (x : Nat) (bs : List Byte) : s.Kept (s.hostPut x bs) := homeWrite _ _ _ _

theorem freeLines (s : State) (lines : List Nat) : s.Kept (s.freeLines lines) := ⟨State.freeLines_wf lines, rfl⟩

theorem crossAll (s : State) (ls : List (Nat × Nat)) : s.Kept (s.crossAll ls) := of_cells (by simp) (by simp)

theorem writeLine (s : State) (slice line : Nat) : s.Kept (s.writeLine slice line) := of_cells (by simp) (by simp)

theorem arrayReads (lid : Nat) (ls : List (Nat × Nat)) (s : State) : s.Kept (s.arrayReads lid ls) := of_cells (by simp) (by simp)

theorem linesWritten (s : State) (ls : List (Nat × Nat)) : s.Kept (s.linesWritten ls) := of_cells (by simp) (by simp)

theorem carryHome (s : State) (slice pa : Nat) (ds : List (Byte × Bool)) : s.Kept (s.carryHome slice pa ds) := of_cells (by simp) (by simp)

/-! ## Lines of the slices -/

theorem mscFillLine {s t : State} {slice line loc tenant cls : Nat} {dirty : Bool} (h : s.mscFillLine slice line loc tenant cls dirty = some t) :
    s.Kept t := by
  unfold State.mscFillLine at h
  dsimp only at h
  split at h
  · cases h
    exact refl s
  · split at h
    · cases h
      exact refl s
    · split at h
      · cases h
        exact of_cells rfl rfl
      · split at h
        · cases h
        · cases h
          generalize hv : State.backOwn _ _ = v
          have hback : s.Kept v := hv ▸ trans (of_cells (by rfl) (by rfl)) (backOwn _ _)
          split
          · exact hback.trans (of_cells rfl rfl)
          · exact hback

theorem fillMsc {s t : State} {slice line loc tenant cls lid : Nat} {u : LineUse} (h : s.fillMsc slice line loc tenant cls lid u = some t) : s.Kept t := by
  unfold State.fillMsc at h
  dsimp only at h
  generalize (if u == LineUse.whole then [] else stackTrip slice line (flitsOf false 64)) = trip at h
  split at h
  · cases h
  · obtain ⟨v, hv, rfl⟩ := Option.map_eq_some_iff.mp h
    have hread (m : MscLine) : s.Kept (s.arrayRead slice (s.wayLine slice m.set m.way) 0) := of_cells (by simp) (by simp)
    have hfill : s.Kept v := by
      split at hv
      · split at hv
        · exact (hread _).trans (mscFillLine hv)
        · exact mscFillLine hv
      · exact mscFillLine hv
    refine (hfill.trans (crossAll v trip)).trans ?_
    split
    · exact refl _
    · split
      · exact of_cells (by simp) (by simp)
      · exact refl _

theorem admitLine {s : State} {t : State × Bool} {slice line loc tenant ccls lid : Nat} {u : LineUse} {v : Via}
    (h : s.admitLine slice line loc tenant ccls lid u v = some t) : s.Kept t.1 := by
  unfold State.admitLine at h
  dsimp only at h
  split at h
  · cases h
  · split at h
    · cases h
    · cases h
      exact crossAll _ _
    · split at h
      · cases h
      · split at h
        · cases h
          exact trans (of_cells (by rfl) (by rfl)) (crossAll _ _)
        · split at h
          · obtain ⟨w, hw, rfl⟩ := Option.map_eq_some_iff.mp h
            exact (fillMsc hw).trans (crossAll _ _)
          · split at h
            · cases h
            · cases h
              exact (crossAll _ _).trans (crossAll _ _)

theorem touchLine {s t : State} {slice line loc tenant ccls lid : Nat} {u : LineUse} {v : Via}
    (h : s.touchLine slice line loc tenant ccls lid u v = some t) : s.Kept t := by
  unfold State.touchLine at h
  obtain ⟨w, hw, rfl⟩ := Option.map_eq_some_iff.mp h
  refine (admitLine hw).trans ?_
  split
  · exact of_cells (by simp) (by simp)
  · exact refl _

theorem touchPhys {s t : State} {v : Via} {pa tenant ccls : Nat} {u : LineUse} (h : s.touchPhys v pa tenant ccls u = some t) : s.Kept t := touchLine h

theorem touchVia {s t : State} {v : Via} {x : Xlate} {va tenant ccls lid : Nat} {u : LineUse} (h : s.touchVia v x va tenant ccls lid u = some t) : s.Kept t :=
  touchLine h

theorem hostReach {s t : State} {x n at' : Nat} {write : Bool} (h : s.hostReach x n at' write = some t) : s.Kept t :=
  bind_foldl (fun _ _ _ h => touchPhys h) h

theorem hostWrite (s : State) (x : Nat) (bs : List Byte) : s.Kept (s.hostWrite x bs) := by
  unfold State.hostWrite
  split
  · next t ht =>
    split at ht
    · exact (hostReach ht).trans (hostPut _ _ _)
    · cases ht
  · exact of_cells rfl rfl

theorem hostSend (n : Nat) (s : State) : s.Kept (s.hostSend n) := by
  induction n generalizing s with
  | zero => exact refl s
  | succ n ih =>
    rw [State.hostSend]
    split
    · exact refl s
    · next o rest _ =>
      have hrest (m : List Nat) : s.Kept { s with host := { s.host with msix := m, out := rest } } := of_cells rfl rfl
      cases o with
      | msi v =>
        dsimp only
        split
        · exact refl s
        · exact (hrest _).trans (ih _)
      | write x bs at' =>
        dsimp only
        split
        · next u hu => exact (hrest s.host.msix).trans ((hostReach hu).trans ((hostPut _ _ _).trans (ih _)))
        · exact refl s

theorem hostLines {port at' : Nat} {write : Bool} {l : List (Nat × List (Nat × Byte))} {s t : State} (h : s.hostLines port at' write l = some t) : s.Kept t := by
  induction l generalizing s with
  | nil =>
    cases h
    exact refl _
  | cons x l ih =>
    rw [State.hostLines] at h
    obtain ⟨r, hr, ht⟩ := Option.bind_eq_some_iff.mp h
    refine (touchLine hr).trans (trans ?_ (ih ht))
    split
    · exact homeWrite _ _ _ _
    · exact refl r

theorem hostAccess {s t : State} {a : HostAcc} (h : s.hostAccess a = some t) : s.Kept t := by
  unfold State.hostAccess at h
  split at h
  · cases h
  · exact hostLines h

/-! ## Lines of a unit -/

theorem reachSlice {s t : State} {slice n : Nat} {v : Via} {write : Bool} (h : s.reachSlice slice n v write = some t) : s.Kept t :=
  of_cells (by rw [(State.reachSlice_mem h).1]) (by rw [(State.Accessed.reachSlice h).host])

theorem backAdmit {s : State} {ctx : Nat} {r : Reserve} {write : Bool} {v : Via} {pas : List Nat} {q : State × List (Nat × Nat)}
    (h : s.backAdmit ctx r write v pas = some q) : s.Kept q.1 := by
  induction pas generalizing s q with
  | nil =>
    cases h
    exact refl s
  | cons pa pas ih =>
    rw [State.backAdmit] at h
    obtain ⟨t, ht, h⟩ := Option.bind_eq_some_iff.mp h
    obtain ⟨p, hp, rfl⟩ := Option.map_eq_some_iff.mp h
    change s.Kept p.1
    exact (admitLine ht).trans (ih hp)

theorem backRead {s t : State} {ctx : Nat} {r : Reserve} {v : Via} {pas : List Nat} (h : s.backRead ctx r v pas = some t) : s.Kept t := by
  obtain ⟨q, hq, rfl⟩ := Option.map_eq_some_iff.mp h
  exact (backAdmit hq).trans (arrayReads _ _ _)

theorem backWrite {s t : State} {ctx : Nat} {r : Reserve} {v : Via} {ls : List (Nat × List (Byte × Bool))} (h : s.backWrite ctx r v ls = some t) : s.Kept t := by
  obtain ⟨q, hq, rfl⟩ := Option.map_eq_some_iff.mp h
  exact (backAdmit hq).trans ((foldl (fun u l => (homePut u _ _ _).trans (carryHome _ _ _ _)) _ _).trans (linesWritten _ _))

theorem evictPair {s t : State} {ctx page : Nat} {x : KvPage} {r : Reserve} {q : Nat} (h : s.evictPair ctx page x r q = some t) : s.Kept t :=
  (arrayReads _ _ _).trans (backWrite h)

end State.Kept

end Sys2Proof.Machine

/-!
PROOF (R82, R368): what keeps memory canonical and the accepted features: transfers, shared actions, queues and copies.
-/
namespace Sys2Proof.Machine

-- One theorem after the other: in parallel they ask for more threads than the host allows.
set_option Elab.async false

namespace State.Kept

theorem takeTrap (s : State) (i : TrapInfo) : s.Kept (s.takeTrap i) := of_untouched (.takeTrap s i)
theorem illop (s : State) (words : Nat) (bound : Bool) : s.Kept (s.illop words bound) := of_untouched (.illop s words bound)
theorem park (s : State) (w : Wait) (adv : Nat) : s.Kept (s.park w adv) := of_untouched (.park s w adv)
theorem advance (s : State) (n : Nat) : s.Kept (s.advance n) := of_untouched (.advance s n)
theorem queueTrap (s : State) (words : Nat) (bound : Bool) : s.Kept (s.queueTrap words bound) := takeTrap s _
theorem copyTrap (s : State) (c : Trap) (va : Nat) : s.Kept (s.copyTrap c va) := takeTrap s _
theorem copyTrapFree (s : State) (c : Trap) : s.Kept (s.copyTrapFree c) := of_cells (by simp) (by simp)
theorem setPipe (s : State) (p : Pipe) : s.Kept (s.setPipe p) := of_cells rfl rfl

theorem checkLanes {s t : State} {w words : Nat} {n : Need} {lanes : List (Member × Nat)} {oob : List Member}
    (h : (s.checkLanes w words n lanes oob).Reaches t) : s.Kept t := of_checkedTo (checkLanes_reaches h)

theorem checkOffsets {s t : State} {r : BitVec 256} {w words : Nat} {n : Need} {os : List (Member × Int)}
    (h : (s.checkOffsets r w words n os).Reaches t) : s.Kept t := of_checkedTo (checkOffsets_reaches h)

theorem checkRecord {s t : State} {r : BitVec 256} {off : Int} {w words : Nat} {n : Need} {lanes : List (Member × Nat)}
    (h : (s.checkRecord r off w words n lanes).Reaches t) : s.Kept t := of_checkedTo (checkRecord_reaches h)

theorem translate {s t : State} {core ctx va : Nat} {x : XRes} (h : s.translate core ctx va = (x, t)) : s.Kept t := by
  have hp := s.translate_setPipe core ctx va
  rw [h] at hp
  rw [show t = s.setPipe t.pipe from hp]
  exact setPipe s _

theorem codeCheck {s t : State} {pc : Word} (h : s.codeCheck pc = .ok t ∨ s.codeCheck pc = .miss t ∨ ∃ c va, s.codeCheck pc = .trap c va t) :
    s.Kept t := by
  unfold State.codeCheck at h
  dsimp only at h
  split at h
  · next he => rcases h with h | h | ⟨_, _, h⟩ <;> cases h; exact translate he
  · next he => rcases h with h | h | ⟨_, _, h⟩ <;> cases h; exact translate he
  · next he =>
    split at h <;> rcases h with h | h | ⟨_, _, h⟩ <;> cases h <;> exact translate he

/-! ## What an action of an instruction is wrapped in -/

/-- An action at targets that are reached (R170 to R177). -/
theorem withTargets {r s : State} {act : State → State} (hact : ∀ t : State, r.Kept t → r.Kept (act t)) (hs : r.Kept s) (gos : List (Nat × Word)) :
    r.Kept (s.withTargets act gos) := by
  induction gos generalizing s with
  | nil => exact hact s hs
  | cons e gos ih =>
    rw [State.withTargets]
    split
    · exact hs.trans (takeTrap s _)
    · split
      · next hc => exact (hs.trans (codeCheck (.inr (.inl hc)))).trans (park _ _ _)
      · next hc => exact (hs.trans (codeCheck (.inr (.inr ⟨_, _, hc⟩)))).trans (takeTrap _ _)
      · next hc => exact ih (hs.trans (codeCheck (.inl hc)))

section
variable {act : State → State} (hact : ∀ t : State, t.Kept (act t))
include hact

theorem withKeys (s : State) (keys : List RegKey) : s.Kept (s.withKeys keys act) := by
  have hk := scoreboard_untouched s keys
  unfold State.withKeys
  split
  · next t ht => exact of_untouched (by rw [ht] at hk; exact hk)
  · next t ht => exact trans (of_untouched (by rw [ht] at hk; exact hk)) (hact t)

theorem pushTo (s : State) (words q : Nat) : s.Kept (s.pushTo words q act) := by
  unfold State.pushTo
  dsimp only
  split
  · exact hact s
  · split
    · exact park s _ _
    · exact queueTrap s _ _

theorem share (s : State) : s.Kept (s.share act) := by
  have hmap (t : State) (b : Nat) (f : Pair → Pair) : t.Kept (t.mapPair b f) := of_cells rfl rfl
  unfold State.share
  dsimp only
  split
  · exact hact s
  · split
    · exact hact s
    · split
      · exact (hact s).trans (hmap _ _ _)
      · split
        · exact park s _ _
        · split
          · exact (hmap _ _ _).trans (takeTrap _ _)
          · exact ⟨fun h => by simpa [State.mirrored, State.monitorOver_frame] using h, by simpa [State.mirrored] using (hact s).featacc⟩

theorem atPoint (s : State) (rec : State → List (Nat × List Byte)) : s.Kept (s.atPoint rec act) := by
  unfold State.atPoint
  dsimp only
  split
  · exact hact s
  · split
    · split
      · exact hact s
      · exact (hact s).trans (of_cells (by simp) (by simp))
    · split
      · exact park s _ _
      · have hsign : s.Kept ((rec s).foldl (fun t e => t.sign s.sch.cur.blk e.1 e.2) s) := foldl (fun t e => of_cells (by simp) (by simp)) _ _
        exact (hsign.trans (of_cells (by simp) (by simp))).trans (park _ _ _)

theorem atCommitBoth (s : State) (rec : State → List (Nat × List Byte)) : s.Kept (s.atCommitBoth rec act) := atPoint hact s rec

theorem atCommit (s : State) (rec : State → List (Nat × List Byte)) : s.Kept (s.atCommit rec act) := atPoint (share hact) s rec

/-- An instruction whose action keeps them keeps them. -/
theorem of_issue {i : Instr} {q : Issue} {s t : State} (h : issue i q s act = .next t) : s.Kept t := by
  rcases issue_cases h with hs | ⟨u, hu, rfl⟩
  · exact of_untouched hs
  · exact (of_untouched hu).trans (hact u)

theorem of_issueShared {i : Instr} {q : Issue} {s t : State} (h : issueShared i q s act = .next t) : s.Kept t := of_issue (share hact) h

theorem of_issueCommit {i : Instr} {q : Issue} {s t : State} {rec : State → List (Nat × List Byte)} (h : issueCommit i q s rec act = .next t) : s.Kept t :=
  of_issue (fun u => atCommit hact u rec) h

end

end State.Kept

end Sys2Proof.Machine

/-!
PROOF (R82, R368): transfers, fences, queues, tiles and accesses keep memory canonical and the accepted features.
-/
namespace Sys2Proof.Machine

-- One theorem after the other: in parallel they ask for more threads than the host allows.
set_option Elab.async false

namespace State.Kept

/-! ## Transfers -/

theorem transfer (s : State) (words : Nat) (gos : List (Member × Word)) : s.Kept (s.transfer words gos) := of_cells (by simp) (by simp)

theorem jump (s : State) (words : Nat) (gos : List (Member × Word)) : s.Kept (s.jump words gos) := withTargets (fun t h => h.trans (transfer t _ _)) (refl s) _

section
variable {done : State → State} (hdone : ∀ t : State, t.Kept (done t))
include hdone

theorem storeAll {s t : State} (words flag : Nat) (isWrite : Bool) (pol : Nat → Word) (xs : List StoreAcc) (ht : s.Kept t) :
    s.Kept (s.storeAll t words flag isWrite pol xs done) := by
  unfold State.storeAll
  split
  · exact (ht.trans (of_cells (by simp) (by simp))).trans (hdone _)
  · exact park s _ _
  · exact takeTrap s _
  · exact trans (of_cells (by simp) (by simp)) (park _ _ _)

theorem storeOut {s t : State} (words : Nat) (pol : Nat → Word) (xs : List StoreAcc) (ht : s.Kept t) : s.Kept (s.storeOut t words pol xs done) := by
  have hcut (t : State) : t.Kept (t.cutReleases pol) := of_cells (by simp) (by simp)
  unfold State.storeOut
  split
  · exact park s _ _
  · refine storeAll (fun t => (hcut t).trans (hdone _)) _ _ _ _ _ ?_
    split
    · exact ht.trans (hcut t)
    · exact ht

end

theorem callWith (s : State) (gos : List (Member × Word)) : s.Kept (s.callWith gos) := by
  unfold State.callWith
  dsimp only
  split
  · exact takeTrap s _
  · have hgo (t : State) : t.Kept ((t.setRegs (t.regs.pushAll s.sch.cur.blk (gos.map fun e => e.1) t.sch.cur.returnPc)).transfer 1 gos) :=
      of_cells (by simp) (by simp)
    refine withTargets (fun t ht => ?_) (refl s) _
    split
    · exact ht.trans (takeTrap t _)
    · next hc => exact (ht.trans (checkLanes (.inl hc))).trans (park _ _ _)
    · next u lanes oob hc =>
      have hu := ht.trans (checkLanes (.inr ⟨lanes, oob, hc⟩))
      split
      · exact hu.trans (hgo u)
      · exact storeAll hgo _ _ _ _ _ hu

theorem returnTo (s : State) (gos : List (Member × Word)) : s.Kept (s.returnTo gos) := withTargets (fun t h => h.trans (of_cells (by simp) (by simp))) (refl s) _

theorem dropRefills (s : State) (u : Bundle) : s.Kept (s.dropRefills u) := of_cells (by simp) (by simp)

theorem returnWith (s : State) (ps : List Pend) (ms : List Member) : s.Kept (s.returnWith ps ms) := by
  unfold State.returnWith
  dsimp only
  split
  · exact (takeTrap s _).trans (dropRefills _ _)
  · split
    · exact returnTo s _
    · exact (returnTo s _).trans (dropRefills _ _)

theorem returnFrom (s : State) (ms : List Member) : s.Kept (s.returnFrom ms) := by
  unfold State.returnFrom
  dsimp only
  split
  · exact takeTrap s _
  · split
    · split
      · exact park s _ _
      · exact returnWith s _ _
    · split
      · exact takeTrap s _
      · next hc => exact (checkLanes (.inl hc)).trans (park _ _ _)
      · next t lanes oob hc =>
        split
        · exact park s _ _
        · exact (checkLanes (.inr ⟨lanes, oob, hc⟩)).trans (of_cells (by simp) (by simp))

/-! ## Fences -/

theorem fence (s : State) (ord scope : Nat) (girth : Bool) : s.Kept (s.fence ord scope girth) := by
  have hrel : s.Kept (if 2 ≤ ord then s.sch.cur.crews.foldl (fun t c => t.releaseFence s.sch.cur.blk c scope girth) s else s) := by
    split
    · exact foldl (fun t c => of_cells (by simp) (by simp)) _ s
    · exact refl s
  unfold State.fence
  dsimp only
  split
  · exact park s _ _
  · generalize (if 2 ≤ ord then _ else s) = t at hrel
    have hacq : t.Kept (if ord % 2 == 1 then t.acquire s.sch.cur.blk scope else t) := ite (of_cells (by simp) (by simp)) (refl t)
    exact (hrel.trans hacq).trans (of_cells (by simp) (by simp))

/-! ## Queues -/

theorem reserveFor (b : Nat) (ps : List Panel) (s : State) : s.Kept (s.reserveFor b ps).1 := by
  induction ps generalizing s with
  | nil => exact refl s
  | cons p ps ih => exact trans (of_cells (by simp) (by simp)) (ih (s.reservePanel b p).1)

theorem reservePanels (s : State) : s.Kept s.reservePanels := by
  unfold State.reservePanels
  refine foldl (fun t e => trans (reserveFor e.blk e.panels t) (of_cells ?_ ?_)) _ s <;> rfl

theorem popTake (s : State) (b qtr q n : Nat) : s.Kept (s.popTake b qtr q n) := trans (of_cells (by rfl) (by rfl)) (reservePanels _)

theorem qpush (s : State) (q : Nat) (a : Field) : s.Kept (s.qpush q a) := by
  unfold State.qpush
  dsimp only
  split
  · exact queueTrap s _ _
  · refine withKeys (fun t => ?_) s _
    split
    · exact park t _ _
    · refine pushTo (fun u => of_cells ?_ ?_) t _ _ <;> split <;> simp

theorem qpopCrew (s : State) (d : Field) (q : Nat) (m : QpopMod) : s.Kept (s.qpopCrew d q m) := by
  unfold State.qpopCrew
  dsimp only
  split
  · exact queueTrap s _ _
  · refine withKeys (fun t => ?_) s _
    split
    · exact park t _ _
    · exact queueTrap t _ _
    · split
      · exact takeTrap t _
      · refine trans (t := if m.peek = 1 then t else t.popTake s.sch.cur.blk t.curQtr q 1) ?_ (of_cells (by simp) (by simp))
        split
        · exact refl t
        · exact popTake t _ _ _ _

theorem qpopFeed (s : State) (d : Field) (q qtr : Nat) (m : QpopMod) : s.Kept (s.qpopFeed d q qtr m) := by
  unfold State.qpopFeed
  dsimp only
  split
  · exact queueTrap s _ _
  · split
    · exact park s _ _
    · exact queueTrap s _ _
    · split
      · exact takeTrap s _
      · refine trans (t := if m.peek = 1 then s else s.popTake s.sch.cur.blk qtr q 1) ?_ (of_cells (by simp) (by simp))
        split
        · exact refl s
        · exact popTake s _ _ _ _

/-! ## Tiles -/

theorem mma (s : State) (d a b : Nat) (m : MmaMod) (na : Nat) (f : ElemFn) : s.Kept (s.mma d a b m na f) := by
  have hpop (t : State) (keep : BitVec 1) (q n : Nat) : t.Kept (if keep = 1 then t else t.popTake s.sch.cur.blk s.curQtr q n) := by
    split
    · exact refl t
    · exact popTake t _ _ _ _
  unfold State.mma
  dsimp only
  split
  · exact queueTrap s _ _
  · split
    · exact queueTrap s _ _
    · exact queueTrap s _ _
    · exact park s _ _
    · exact park s _ _
    · split
      · exact takeTrap s _
      · exact ((hpop s m.ka a na).trans (hpop _ m.kb b 1)).trans (of_cells (by simp) (by simp))

theorem astoreQueue (s : State) (d a b : Field) (m : AstoreMod) : s.Kept (s.astoreQueue d a b m) := by
  unfold State.astoreQueue
  split
  · exact queueTrap s _ _
  · exact pushTo (fun t => of_cells (by simp) (by simp)) s _ _

theorem astoreMem (s : State) (d a b : Field) (m : AstoreMod) : s.Kept (s.astoreMem d a b m) := by
  unfold State.astoreMem
  dsimp only
  split
  · exact illop s _ _
  · split
    · exact illop s _ _
    · split
      · exact takeTrap s _
      · next hc => exact (checkOffsets (.inl hc)).trans (park _ _ _)
      · next t lanes oob hc =>
        have ht := checkOffsets (.inr ⟨lanes, oob, hc⟩)
        split
        · exact ht.trans (of_cells (by simp) (by simp))
        · exact storeOut (fun t => of_cells (by simp) (by simp)) _ _ _ (ht.trans (of_cells (by simp) (by simp)))

theorem aexpb (s : State) (d a b : Field) (push : Bool) : s.Kept (s.aexpb d a b push) := by
  unfold State.aexpb
  dsimp only
  split
  · exact of_cells (by simp) (by simp)
  · split
    · exact queueTrap s _ _
    · refine pushTo (fun t => of_cells ?_ ?_) s _ _ <;> simp

/-! ## Accesses -/

theorem spadStore (s : State) (m : MemMod) (peer : Bool) (r : SpadRes) (data : Member → List Byte × Nat) : s.Kept (s.spadStore m peer r data) := by
  unfold State.spadStore
  dsimp only
  split
  · exact illop s _ _
  · split
    · exact takeTrap s _
    · exact park s _ _
    · split
      · exact park s _ _
      · generalize hl : List.foldl _ s _ = t
        have ht : s.Kept t := hl ▸ foldl (fun t e => of_cells (by simp) (by simp)) _ s
        generalize hp : List.foldl _ t _ = u
        have hu : t.Kept u := hp ▸ foldl (fun t c => of_cells (by simp) (by simp)) _ t
        exact (ht.trans hu).trans (of_cells (by simp) (by simp))

theorem invLine (s : State) (core ctx va : Nat) : s.Kept (s.invLine core ctx va).1 := by
  unfold State.invLine
  split <;> next h => exact (translate h).trans (of_cells rfl rfl)

theorem recldMem (s : State) (a : Field) (m : MemMod) : s.Kept (s.recldMem a m) := by
  unfold State.recldMem
  dsimp only
  split
  · exact illop s _ _
  · split
    · exact takeTrap s _
    · next hc => exact (checkLanes (.inl hc)).trans (park _ _ _)
    · next t lanes oob hc =>
      split
      · exact park s _ _
      · exact (checkLanes (.inr ⟨lanes, oob, hc⟩)).trans (of_cells (by simp) (by simp))

end State.Kept

end Sys2Proof.Machine

/-!
PROOF (R82, R368): atomics, and what a slice does with a request, keep memory canonical and the accepted features.
-/
namespace Sys2Proof.Machine

-- One theorem after the other: in parallel they ask for more threads than the host allows.
set_option Elab.async false

namespace State.Kept

/-! ## Atomics at their points (R93, R219) -/

theorem atomicAt (s : State) (r : Req) (op wid lane crew v n pt wt : Nat) : s.Kept (s.atomicAt r op wid lane crew v n pt wt) := by
  refine ⟨fun h => ?_, by simp⟩
  unfold State.atomicAt
  dsimp only
  split
  · simpa [Mem.wf, apply_ite] using h
  · split
    · simpa [Mem.wf] using h
    · have hw := State.homeWrite_wf r.slice r.pa (atOffsets (natToBytes wid (atomNew op (8 * wid) (bytesToNat (natToBytes wid (bytesToNat
        ((s.mscHit r.slice (lineOf r.pa) true).homeBytes r.slice r.pa wid)))) v n))) (s := s.mscHit r.slice (lineOf r.pa) true) h
      simpa [Mem.wf] using hw

theorem atomAct (s : State) (r : Req) : s.Kept (s.atomAct r) := by
  unfold State.atomAct
  dsimp only
  split
  · exact refl s
  · split
    · split
      · exact of_cells (by simp) (by simp)
      · exact trans (of_cells (by rfl) (by rfl)) (atomicAt _ _ _ _ _ _ _ _ _ _)
    · exact of_cells rfl rfl

theorem settleAtoms (s : State) (i here : Nat) : s.Kept (s.settleAtoms i here) := by
  unfold State.settleAtoms
  refine trans ?_ (foldl (fun t r => atomAct t r) _ _)
  dsimp only
  split
  · exact refl s
  · split
    · exact trans (of_cells (by rfl) (by rfl)) (foldl (fun t r => of_cells (by simp) (by simp)) _ _)
    · exact of_cells rfl rfl

theorem atomHere (s : State) (r : Req) : s.Kept (s.atomHere r) := trans (of_cells (by rfl) (by rfl)) (settleAtoms _ _ _)

/-! ## Atomics at their issue -/

theorem startAtoms (s : State) (f : AtomForm) (inst c : Nat) (p : Pend) (pol : Word) (lanes : List LaneAcc) (args : Member → Nat × Nat) :
    s.Kept (s.startAtoms f inst c p pol lanes args) := by
  unfold State.startAtoms
  dsimp only
  split <;> exact trans (of_cells (by rfl) (by rfl)) (foldl (fun t a => of_cells (by simp) (by simp)) _ _)

theorem settled (s : State) (i n : Nat) (pol : Nat → Word) (acq : Bool) : s.Kept (((s.settleAtoms i 0).cutReleases pol).afterRead i acq n) :=
  (settleAtoms s i 0).trans (of_cells (by simp) (by simp))

theorem atomV (s : State) (f : AtomForm) (d a : Field) (ep sp : Nat) (g : Guard) (m : MemMod) : s.Kept (s.atomV f d a ep sp g m) := by
  unfold State.atomV
  dsimp only
  split
  · exact illop s _ _
  · split
    · exact takeTrap s _
    · next hc => exact (checkRecord (.inl hc)).trans (park _ _ _)
    · next t lanes oob hc =>
      split
      · exact park s _ _
      · exact ((checkRecord (.inr ⟨lanes, oob, hc⟩)).trans (foldl (fun t c => startAtoms t _ _ _ _ _ _ _) _ t)).trans (settled _ _ _ _ _)

theorem atomK (s : State) (f : AtomForm) (d a : Field) (ep : Nat) (g : Guard) (m : MemMod) : s.Kept (s.atomK f d a ep g m) := by
  unfold State.atomK
  dsimp only
  split
  · exact illop s _ _
  · split
    · exact takeTrap s _
    · next hc => exact (checkRecord (.inl hc)).trans (park _ _ _)
    · next t lanes oob hc =>
      split
      · exact park s _ _
      · exact ((checkRecord (.inr ⟨lanes, oob, hc⟩)).trans (startAtoms t _ _ _ _ _ _ _)).trans (settled _ _ _ _ _)

/-! ## Requests at a slice (R60 to R63) -/

theorem perform (s : State) (r : Req) : s.Kept (s.perform r) := by
  unfold State.perform
  dsimp only
  split
  · exact of_cells (by simp) (by simp)
  · next id bs hk =>
    have hw := homeWrite s r.slice r.pa bs
    split
    · exact hw.trans (of_cells rfl rfl)
    · exact hw.trans (of_cells (by simp) (by simp))
  · exact atomHere s r
  · exact ite (of_cells (by simp) (by simp)) (refl s)
  · exact of_cells (by simp) (by simp)

theorem serveHere (s : State) (r : Req) : s.Kept (s.serveHere r) := by
  unfold State.serveHere
  exact ite (perform s r) (trans (of_cells (by simp) (by simp)) (perform _ r))

theorem serveReq {s t : State} {r : Req} (h : s.serveReq r = some t) : s.Kept t := by
  have hcross (ls : List (Nat × Nat)) : s.Kept ((s.crossAll ls).perform r) := (crossAll s ls).trans (perform _ r)
  have hjoin : s.Kept (s.joinFill r) := of_cells (by simp) (by simp)
  unfold State.serveReq at h
  dsimp only at h
  split at h
  · cases h
  · cases h
    exact serveHere s r
  · split at h
    · split at h <;> cases h
      exact perform s r
    · split at h
      · cases h
        exact hjoin
      · split at h
        · cases h
          exact trans (of_cells (by rfl) (by rfl)) (serveHere _ r)
        · split at h
          · cases h
            split <;> exact perform s _
          · split at h
            · split at h <;> cases h
              exact hcross _
            · split at h
              · split at h
                · cases h
                  exact perform s r
                · split at h
                  · obtain ⟨u, hu, rfl⟩ := Option.map_eq_some_iff.mp h
                    exact (fillMsc hu).trans (perform u r)
                  · cases h
                    exact hjoin
              · cases h
                exact hjoin

theorem serveBehind (n slice line : Nat) (l : List Req) (s : State) : s.Kept (State.serveBehind n slice line l s) := by
  induction l generalizing s with
  | nil => exact of_cells rfl rfl
  | cons r rest ih =>
    rw [State.serveBehind]
    dsimp only
    split
    · exact of_cells rfl rfl
    · refine trans ?_ (ih _)
      exact ite (trans (of_cells (by rfl) (by rfl)) (perform _ r)) (trans (of_cells (by rfl) (by rfl)) (perform _ r))

end State.Kept

end Sys2Proof.Machine

/-!
PROOF (R82, R368): walks of the copy engines, tensor descriptors and copies keep memory canonical and the accepted features.
-/
namespace Sys2Proof.Machine

-- One theorem after the other: in parallel they ask for more threads than the host allows.
set_option Elab.async false

namespace State.Kept

/-! ## Walks -/

theorem walkTouch (die ctx va k level table : Nat) (s : State) : s.Kept (s.walkTouch die ctx va k level table).2 := by
  induction k generalizing level table s with
  | zero => exact refl s
  | succ k ih =>
    rw [State.walkTouch]
    split
    · exact refl s
    · next t ht =>
      have hst : s.Kept t := by
        split at ht
        · exact touchPhys ht
        · cases ht
          exact refl s
      split
      · exact hst.trans (ih _ _ t)
      · exact hst
      · exact hst

theorem copyWalker (core ctx : Nat) (s : State) (va : Nat) : s.Kept (State.copyWalker core ctx s va).2 := by
  unfold State.copyWalker
  split
  · exact refl s
  · split
    · next r hr =>
      rw [State.tlbHit_setPipe hr]
      exact setPipe s _
    · split
      · exact refl s
      · split
        · exact of_cells (by simp) (by simp)
        · have hw := walkTouch (coreDie core) ctx va 4 0 (s.ctx ctx).top s
          split
          · next x t ht => exact trans (by rwa [ht] at hw) (of_cells (by simp) (by simp))
          · exact hw

theorem andThen {ε α β : Type} {s : State} {r : Tried ε α × State} {f : α → State → Tried ε β × State} (hr : s.Kept r.2)
    (hf : ∀ a t, s.Kept t → s.Kept (f a t).2) : s.Kept (Tried.andThen r f).2 := by
  unfold Tried.andThen
  split
  · exact hf _ _ hr
  · exact hr
  · exact hr

theorem tryWalk {xl : Walker} (hxl : ∀ (s : State) va, s.Kept (xl s va).2) (s : State) (va : Nat) : s.Kept (xl.try s va).2 := by
  have h := hxl s va
  unfold Walker.try
  split <;> next he =>
    rw [he] at h
    exact h

theorem xlateBad {α : Type} {s : State} {r : Tried Nat α × State} (h : s.Kept r.2) : s.Kept (Machine.xlateBad r).2 := by
  unfold Machine.xlateBad
  split <;> exact h

theorem rangeTrs {xl : Walker} (hxl : ∀ (s : State) va, s.Kept (xl s va).2) (k va last : Nat) (s : State) : s.Kept (Machine.rangeTrs xl k va last s).2 := by
  induction k generalizing va s with
  | zero => exact refl s
  | succ k ih =>
    rw [Machine.rangeTrs]
    split
    · exact refl s
    · exact andThen (tryWalk hxl s va) fun x t ht => andThen (ht.trans (ih _ t)) fun l u hu => hu

theorem takeTrs {xl : Walker} (hxl : ∀ (s : State) va, s.Kept (xl s va).2) (ctx : Nat) (vas : List Nat) (trs : List Xlate) (s : State) :
    s.Kept (State.takeTrs xl ctx vas trs s).2 := by
  induction vas generalizing trs s with
  | nil => exact refl s
  | cons va vas ih =>
    rw [State.takeTrs]
    split
    · split
      · exact refl s
      · exact ih _ s
    · refine andThen (tryWalk hxl s va) fun x t ht => ?_
      split
      · exact ht
      · exact ht.trans (ih _ t)

/-! ## Shard entries and descriptors (R278, R279) -/

theorem sendShard (s : State) (w : TdUser) (va : Nat) : s.Kept (s.sendShard w va).2 := of_cells (by simp) (by simp)

theorem shardEntry (s : State) (w : TdUser) (va : Nat) : s.Kept (s.shardEntry w va).2 := by
  unfold State.shardEntry
  dsimp only
  refine andThen (xlateBad (tryWalk (copyWalker _ _) s va)) fun x t ht => ?_
  split
  · exact ht
  · have hsend := ht.trans (sendShard t w va)
    generalize t.sendShard w va = q at hsend ⊢
    split
    · exact hsend
    · split
      · exact hsend
      · split
        · exact hsend
        · next u hu =>
          have hut := hsend.trans (touchVia hu)
          split
          · exact hut
          · exact hut.trans (of_cells (by simp) (by simp))

theorem shardFrom (w : TdUser) (x : BitVec 2048) (c : List Nat) (k i : Nat) (s : State) : s.Kept (State.shardFrom w x c k i s).2 := by
  induction k generalizing i s with
  | zero => exact refl s
  | succ k ih =>
    rw [State.shardFrom]
    refine andThen (shardEntry s w _) fun e t ht => ?_
    split
    · exact ht
    · exact ht.trans (ih _ t)

theorem shoff (w : TdUser) (x : BitVec 2048) (c : List Nat) (s : State) : s.Kept (State.shoff w x c s).2 := by
  unfold State.shoff
  split
  · exact shardFrom _ _ _ _ _ s
  · exact refl s

theorem shoffs (w : TdUser) (x : BitVec 2048) (cs : List (List Nat)) (s : State) : s.Kept (State.shoffs w x cs s).2 := by
  induction cs generalizing s with
  | nil =>
    rw [State.shoffs]
    split <;> exact refl s
  | cons c cs ih =>
    rw [State.shoffs]
    exact andThen (shoff w x c s) fun v t ht => andThen (ht.trans (ih t)) fun r u hu => hu

theorem tdRanges {xl : Walker} (hxl : ∀ (s : State) va, s.Kept (xl s va).2) (x : BitVec 2048) (cs : List (List Nat × Int)) (trs : List Xlate) (s : State) :
    s.Kept (State.tdRanges xl x cs trs s).2 := by
  induction cs generalizing trs s with
  | nil => exact refl s
  | cons c cs ih =>
    rw [State.tdRanges]
    dsimp only
    split
    · exact refl s
    · split
      · exact refl s
      · refine andThen (xlateBad (rangeTrs hxl _ _ _ s)) fun ts t ht => ?_
        split
        · exact ht
        · exact ht.trans (ih _ t)

theorem tdMake (s : State) (w : TdUser) (x : BitVec 2048) : s.Kept (s.tdMake w x).2 := by
  unfold State.tdMake
  dsimp only
  split
  · exact refl s
  · split
    · exact refl s
    · exact andThen (shoffs _ _ _ s) fun sh t ht => andThen (ht.trans (tdRanges (copyWalker _ _) _ _ _ t)) fun trs u hu => hu

theorem cellTrs (td : TDesc) (write : Bool) (cells : List (List Int)) (s : State) : s.Kept (State.cellTrs td write cells s).2 := by
  unfold State.cellTrs
  dsimp only
  split
  · exact refl s
  · refine andThen (shoffs _ _ _ s) fun sh t ht => andThen (ht.trans (xlateBad (takeTrs (copyWalker _ _) _ _ _ t))) fun trs u hu => ?_
    split <;> exact hu

theorem cellTrs2 (s : State) (src : TDesc) (from' : List (List Int)) (dst : TDesc) (to' : List (List Int)) : s.Kept (s.cellTrs2 src from' dst to').2 := by
  have ha := cellTrs src false from' s
  have hb := ha.trans (cellTrs dst true to' _)
  unfold State.cellTrs2
  dsimp only
  split
  · exact hb
  · exact ha
  · exact hb
  · exact hb
  · exact hb
  · exact hb
  · exact hb

/-! ## Copies (R267 to R276) -/

theorem afterCells {α : Type} {s : State} {r : Tried CellTrap α × State} {act : α → State → State} (hr : s.Kept r.2)
    (hact : ∀ a t, s.Kept t → s.Kept (act a t)) : s.Kept (Machine.afterCells r act) := by
  unfold Machine.afterCells
  split
  · exact hact _ _ hr
  · exact hr.trans (park _ _ _)
  · exact hr.trans (of_cells (by simp) (by simp))
  · exact hr.trans (of_cells (by simp) (by simp))
  · exact hr.trans (of_cells (by simp) (by simp))

theorem withCells (s : State) (td : TDesc) (write : Bool) (cells : List (List Int)) {act : CellTrs → State → State}
    (hact : ∀ a t, s.Kept t → s.Kept (act a t)) : s.Kept (s.withCells td write cells act) := afterCells (cellTrs td write cells s) hact

theorem forkCopy (s : State) (e : Engine) : s.Kept (s.forkCopy e) := by
  unfold State.forkCopy
  dsimp only
  exact trans (trans (of_cells (by simp) (by simp)) (reservePanels _)) (advance _ _)

theorem startCopy (s : State) (e : Engine) : s.Kept (s.startCopy e) := by
  unfold State.startCopy
  exact ite (park s _ _) (forkCopy s e)

theorem spadRange (s : State) (o n : Nat) {act : State → State} (hact : s.Kept (act s)) : s.Kept (s.spadRange o n act) := by
  unfold State.spadRange
  exact ite (copyTrap s _ _) (ite (copyTrap s _ _) hact)

theorem withTd (s : State) (a : Field) (j : Nat) {act : TDesc → State} (hact : ∀ td, s.Kept (act td)) : s.Kept (s.withTd a j act) := by
  unfold State.withTd
  split
  · exact hact _
  · exact illop s _ _

theorem withBox (s : State) (a : Field) {act : TDesc → State} (hact : ∀ td, s.Kept (act td)) : s.Kept (s.withBox a act) :=
  withTd s a 0 fun td => ite (illop s _ _) (hact td)

theorem copyIn (s : State) (td : TDesc) (a : Field) (blks : List Nat) : s.Kept (s.copyIn td a blks) :=
  withCells s td _ _ fun _ t ht => ht.trans (startCopy t _)

theorem copyMembers (s : State) (a : Field) (m : CopyMod) : s.Kept (s.copyMembers a m) := by
  refine withBox s a fun td => spadRange s _ _ ?_
  dsimp only
  split
  · exact copyTrap s _ _
  · exact ite (park s _ _) (copyIn s td a _)

theorem copyIx (s : State) (a : Field) (m : CopyMod) : s.Kept (s.copyIx a m) := by
  refine withTd s a 0 fun td => ?_
  dsimp only
  refine ite (illop s _ _) (spadRange s _ _ (ite (copyTrapFree s _) (withCells s td _ _ fun c t ht => ht.trans (startCopy t _))))

theorem copyQueue (s : State) (m : CopyMod) (fits : Nat → Bool) {act : State → State} (hact : s.Kept (act s)) : s.Kept (s.copyQueue m fits act) := by
  unfold State.copyQueue
  exact ite (copyTrap s _ _) hact

theorem smelt (s : State) (m : CopyMod) (o n : Nat) : s.Kept (s.smelt m o n) := by
  unfold State.smelt
  dsimp only
  split
  · exact park s _ _
  · refine trans (foldl (fun t p => ?_) _ s) (startCopy _ _)
    exact ite (ite (of_cells (by simp) (by simp)) (refl t)) (of_cells (by simp) (by simp))

theorem copyOut (s : State) (a : Field) : s.Kept (s.copyOut a) :=
  withBox s a fun td => spadRange s _ _ (withCells s td _ _ fun _ t ht => ht.trans (startCopy t _))

theorem transpose (s : State) (a : Field) : s.Kept (s.transpose a) :=
  withTd s a 0 fun _ => withTd s a 1 fun _ => ite (illop s _ _) (ite (illop s _ _) (ite (copyTrapFree s _)
    (afterCells (cellTrs2 s _ _ _ _) fun _ t ht => ht.trans (startCopy t _))))

theorem tdmk (s : State) (d a : Field) (m : MemMod) : s.Kept (s.tdmk d a m) := by
  unfold State.tdmk
  dsimp only
  split
  · exact illop s _ _
  · split
    · exact copyTrap s _ _
    · split
      · exact takeTrap s _
      · next hc => exact (checkLanes (.inl hc)).trans (park _ _ _)
      · next t lanes oob hc =>
        split
        · exact park s _ _
        · exact (checkLanes (.inr ⟨lanes, oob, hc⟩)).trans (of_cells (by simp) (by simp))

end State.Kept

end Sys2Proof.Machine

/-!
PROOF (R82, R368): engines, the sequencer, the dispatcher and swaps keep memory canonical and the accepted features.
-/
namespace Sys2Proof.Machine

-- One theorem after the other: in parallel they ask for more threads than the host allows.
set_option Elab.async false

namespace State.Kept

theorem option_map {s : State} {o : Option State} {f : State → State} (ho : ∀ t, o = some t → s.Kept t) (hf : ∀ t : State, t.Kept (f t)) {u : State}
    (h : o.map f = some u) : s.Kept u := by
  obtain ⟨t, ht, rfl⟩ := Option.map_eq_some_iff.mp h
  exact (ho t ht).trans (hf t)

theorem setLaunch (s : State) (l : Launch) : s.Kept (s.setLaunch l) := of_cells rfl rfl
theorem setQueue (s : State) (q : Nat) (x : LQueue) : s.Kept (s.setQueue q x) := of_cells rfl rfl
theorem setCtx (s : State) (c : Nat) (x : CtxPage) : s.Kept (s.setCtx c x) := of_cells rfl rfl
theorem msi (s : State) (v : Nat) : s.Kept (s.msi v) := of_cells (by simp) (by simp)
theorem wqLand (s : State) (q : WqOp) (ws : List RegWr) (took poisoned : Bool) : s.Kept (s.wqLand q ws took poisoned) := of_cells (by simp) (by simp)
theorem unitDone (s : State) (n : Nat) : s.Kept (s.unitDone n) := of_cells (by simp) (by simp)
theorem trapPend (s : State) (id : Nat) (i : TrapInfo) : s.Kept (s.trapPend id i) := of_cells (by simp) (by simp)

/-! ## The work-queue unit (R206) -/

theorem unitWalk (w ctx : Nat) (s : State) (va : Nat) : s.Kept (State.unitWalker w ctx s va).2 := by
  unfold State.unitWalker
  split
  · exact refl s
  · split
    · exact refl s
    · exact of_cells (by simp) (by simp)

theorem unitWalker {w ctx va : Nat} {s t : State} {x : XRes} (h : State.unitWalker w ctx s va = (x, t)) : s.Kept t := by
  have hw := unitWalk w ctx s va
  rwa [h] at hw

theorem wqRun (s : State) (q : WqOp) : s.Kept (s.wqRun q) := by
  unfold State.wqRun
  extract_lets l va
  split
  · exact wqLand s _ _ _ _
  · split
    · exact wqLand s _ _ _ _
    · split
      · next hx => exact (unitWalker hx).trans (of_cells rfl rfl)
      · next hx => exact (unitWalker hx).trans ((unitDone _ _).trans (trapPend _ _ _))
      · next x t hx =>
        have ht := unitWalker hx
        have htrap (i : TrapInfo) := ht.trans ((unitDone t wqWalker).trans (trapPend _ q.pend i))
        extract_lets pa
        split
        · exact htrap _
        · generalize (if q.push then x.w else x.r) = ok
          split
          · exact htrap _
          · split
            · exact ht.trans (of_cells rfl rfl)
            · next u hu =>
              have hdone := (ht.trans (touchVia hu)).trans (unitDone u wqWalker)
              extract_lets v
              split
              · exact hdone.trans (((homeWrite v _ _ _).trans (setLaunch _ _)).trans (wqLand _ _ _ _ _))
              · split
                · exact hdone.trans (wqLand _ _ _ _ _)
                · exact hdone.trans ((setLaunch _ _).trans (wqLand _ _ _ _ _))

/-! ## Landings -/

theorem landTdmk (s : State) (p : Pend) (kd : Nat) : s.Kept (s.landTdmk p kd) := by
  have hr := tdMake s ⟨p.blk, p.crew⟩ (BitVec.ofNat 2048 (bytesToNat (p.lanes.flatMap fun l => l.bytes)))
  unfold State.landTdmk
  extract_lets image w r
  have ht : s.Kept (if r.1 = .wait then r.2 else r.2.dropShards w) := ite hr (hr.trans (of_cells rfl rfl))
  generalize (if r.1 = .wait then r.2 else r.2.dropShards w) = v at ht ⊢
  generalize r.1 = x
  split <;> rename_i he <;> cases he
  · exact ht
  · exact ht.trans (of_cells (by simp) (by simp))
  · exact ht.trans (trapPend _ _ _)
  · exact ite (ht.trans (trapPend _ _ _)) (ht.trans (of_cells (by simp) (by simp)))
  · split <;> exact ht.trans (of_cells (by simp) (by simp))

/-! ## Engines (R242) -/

theorem engPut (s : State) (e : Engine) (pa : Nat) (bs : List (Byte × Bool)) : s.Kept (s.engPut e pa bs) := by
  unfold State.engPut
  exact ite (refl s) ((homePut s _ _ _).trans (carryHome _ _ _ _))

theorem engPuts (s : State) (e : Engine) (dst : List (Option Nat)) (bs : List (Byte × Bool)) : s.Kept (s.engPuts e dst bs) := by
  unfold State.engPuts
  refine foldl (fun t line => ?_) _ s
  dsimp only
  split
  · exact refl t
  · exact ite (engPut t _ _ _) (foldl (fun u x => engPut u _ _ _) _ t)

theorem engAdmit {e : Engine} {write : Bool} {pas : List (Option Nat)} {lines : List Nat} {s : State} {q : State × List (Nat × Nat)}
    (h : s.engAdmit e write pas lines = some q) : s.Kept q.1 := by
  induction lines generalizing s q with
  | nil =>
    cases h
    exact refl s
  | cons line lines ih =>
    rw [State.engAdmit] at h
    dsimp only at h
    split at h
    · split at h
      · exact ih h
      · obtain ⟨t, ht, h⟩ := Option.bind_eq_some_iff.mp h
        obtain ⟨p, hp, rfl⟩ := Option.map_eq_some_iff.mp h
        change s.Kept p.1
        exact (reachSlice ht).trans (ih hp)
    · split at h
      · exact ih h
      · obtain ⟨t, ht, h⟩ := Option.bind_eq_some_iff.mp h
        obtain ⟨p, hp, rfl⟩ := Option.map_eq_some_iff.mp h
        change s.Kept p.1
        exact (admitLine ht).trans (ih hp)

theorem engRead {s t : State} {e : Engine} {pas : List (Option Nat)} {lines : List Nat} (h : s.engRead e pas lines = some t) : s.Kept t := by
  obtain ⟨q, hq, rfl⟩ := Option.map_eq_some_iff.mp h
  exact (engAdmit hq).trans (arrayReads _ _ _)

theorem actMove (s : State) (e : Engine) (m : Move) : s.Kept (s.actMove e m) := by
  cases m with
  | spadFromMem bs off pas => exact foldl (fun t b => ite (refl t) (of_cells (by simp) (by simp))) _ s
  | memFromSpad b off pas => exact engPuts s e _ _
  | memFromMem src dst => exact engPuts s e _ _
  | codeFromMem src dst => exact engPut s e _ _
  | kvWrite => exact refl s

theorem performMoves {s t : State} {e : Engine} {ms : List Move} (h : s.performMoves e ms = some t) : s.Kept t := by
  unfold State.performMoves at h
  dsimp only at h
  split at h
  · cases h
  · obtain ⟨u, hu, h⟩ := Option.bind_eq_some_iff.mp h
    obtain ⟨r, hr, rfl⟩ := Option.map_eq_some_iff.mp h
    exact (((engRead hu).trans (engAdmit hr)).trans (foldl (fun t m => actMove t e m) _ _)).trans (linesWritten _ _)

theorem engCharge {s t : State} {e : Engine} {cs : List Nat} (h : s.engCharge e cs = .ok t ∨ s.engCharge e cs = .error t) : s.Kept t := by
  unfold State.engCharge at h
  dsimp only at h
  split at h
  · rcases h with h | h <;> cases h
    exact of_cells (by simp) (by simp)
  · split at h
    · rcases h with h | h <;> cases h
      exact of_cells (by simp) (by simp)
    · split at h <;> rcases h with h | h <;> cases h <;> exact of_cells (by simp) (by simp)

theorem runAssay (s : State) (e : Engine) (q : AssaySt) : s.Kept (s.runAssay e q) := by
  unfold State.runAssay
  dsimp only
  split
  · exact refl s
  · split
    · exact of_cells (by simp) (by simp)
    · generalize hl : List.foldl _ s _ = t
      have ht : s.Kept t := hl ▸ foldl (fun t p => ite (of_cells (by simp) (by simp)) (refl t)) _ s
      generalize hh : (if s.leads e.blk then _ else t) = u
      have hu : t.Kept u := hh ▸ ite (foldl (fun t p => ite (of_cells (by simp) (by simp)) (refl t)) _ t) (refl t)
      exact (ht.trans hu).trans (of_cells (by simp) (by simp))

theorem dropItem (s : State) (e : Engine) (p : Panel) (page : Nat) : s.Kept (s.dropItem e p page) := by
  unfold State.dropItem
  exact trans (of_cells (by simp) (by simp)) (reservePanels _)

theorem readPanel {s t : State} {e : Engine} {p : Panel} (h : s.readPanel e p = some t) : s.Kept t :=
  option_map (fun _ => engRead) (fun t => of_cells (by simp) (by simp)) h

theorem landPanel {s t : State} {e : Engine} {p : Panel} {id : Nat} (h : s.landPanel e p id = some t) : s.Kept t := by
  have hread {f : State → State} (hf : ∀ t : State, t.Kept (f t)) (h : (s.readPanel e p).map f = some t) : s.Kept t := option_map (fun _ => readPanel) hf h
  unfold State.landPanel at h
  split at h
  · exact hread (fun t => of_cells (by simp) (by simp)) h
  · dsimp only at h
    split at h
    · cases h
      exact dropItem s e p _
    · split at h
      · cases h
      · exact hread (fun t => of_cells (by simp) (by simp)) h

/-! ## KV pages -/

theorem movePage (s : State) (ctx page : Nat) {copy : Reserve → Nat → Option State} {finish : State → State}
    (hcopy : ∀ r q t, copy r q = some t → s.Kept t) (hfinish : ∀ t : State, t.Kept (finish t)) : s.Kept (s.movePage ctx page copy finish) := by
  unfold State.movePage
  split
  · exact hfinish s
  · split
    · exact refl s
    · next t ht =>
      have hset (y : KvPage) : s.Kept (t.setPage ctx page y) := (hcopy _ _ _ ht).trans (of_cells (by simp) (by simp))
      exact ite ((hset _).trans (hfinish _)) (hset _)

theorem appendRow {s t : State} {v : Via} {ctx p i : Nat} {r : Reserve} {row : List (BitVec 16)} (h : s.appendRow v ctx p i r row = some t) : s.Kept t := by
  unfold State.appendRow at h
  dsimp only at h
  obtain ⟨u, hu, h⟩ := Option.bind_eq_some_iff.mp h
  refine (reachSlice hu).trans ?_
  split at h
  · exact option_map (fun _ => backWrite) (fun t => of_cells (by rfl) (by rfl)) h
  · cases h
    exact of_cells (by simp) (by simp)

theorem endReserve (s : State) (ctx : Nat) : s.Kept (s.endReserve ctx) := by
  unfold State.endReserve
  dsimp only
  exact (foldl (f := fun t (e : Nat × KvPage) => t.freePage ctx (e.1 % 2 ^ 32)) (fun t e => of_cells (by simp) (by simp)) _ s).trans (of_cells (by rfl) (by rfl))

/-! ## The contract sequencer -/

theorem flushLines {s t : State} {f : MscLine → Bool} (h : s.flushLines f = some t) : s.Kept t := by
  unfold State.flushLines at h
  dsimp only at h
  split at h
  · cases h
  · cases h
    refine trans ?_ (foldl (fun t m => backOwn t m) _ _)
    exact ((crossAll s _).trans (foldl (f := fun t (m : MscLine) => t.arrayRead m.slice (t.wayLine m.slice m.set m.way) 0)
      (fun t m => of_cells (by simp) (by simp)) _ _)).trans (of_cells (by rfl) (by rfl))

theorem resRecord {s : State} {r : SeqRec} {pa : Nat} {q : State × BitVec 4352} (h : s.resRecord r pa = some q) : s.Kept q.1 := by
  unfold State.resRecord at h
  split at h
  · cases h
    exact refl s
  · obtain ⟨t, ht, rfl⟩ := Option.map_eq_some_iff.mp h
    exact (hostReach ht).trans (of_cells rfl rfl)

/-! ## The dispatcher -/

theorem writeEntry (s : State) (q kind status id trel hostmax : Nat) : s.Kept (s.writeEntry q kind status id trel hostmax) := by
  unfold State.writeEntry
  exact ((hostWrite s _ _).trans (setQueue _ _ _)).trans (msi _ _)

theorem childDone (s : State) (ctx kind id status queue : Nat) : s.Kept (s.childDone ctx kind id status queue) := of_cells (by simp) (by simp)

theorem finishLaunch (s : State) (l : Launch) : s.Kept (s.finishLaunch l) := by
  unfold State.finishLaunch
  refine trans (trans ?_ (writeEntry _ _ _ _ _ _ _)) (childDone _ _ _ _ _ _)
  exact of_cells (by simp) (by simp)

theorem finishLevel (s : State) (v : Level) : s.Kept (s.finishLevel v) := by
  unfold State.finishLevel
  have hw : s.Kept ((s.mapLevel v.ctx v.kind v.id fun x => { x with ended := true }).drawn.drawn.writeEntry v.queue v.kind v.status v.id
      (Config.freeValue (s.clk.free + 1)).toNat (s.freshValue.toNat % 2 ^ 32)) := trans (of_cells (by simp) (by simp)) (writeEntry _ _ _ _ _ _ _)
  exact ite hw (hw.trans (of_cells (by simp) (by simp)))

theorem joinLevels (l : Launch) (ks : List Nat) (s : State) : s.Kept (s.joinLevels l ks) := by
  induction ks generalizing s with
  | nil => exact refl s
  | cons k ks ih =>
    rw [State.joinLevels]
    dsimp only
    split
    · exact refl s
    · split
      · exact of_cells (by simp) (by simp)
      · exact trans (of_cells (by rfl) (by rfl)) (ih _)

theorem accept (s : State) (l : Launch) : s.Kept (s.accept l) := by
  unfold State.accept
  extract_lets l t d u
  have ht : s.Kept t := (joinLevels l [1, 2, 3] s).trans (of_cells (by simp [t]) (by simp [t]))
  have hu : s.Kept u := ht.trans (of_cells rfl rfl)
  exact ite (hu.trans (of_cells (by simp) (by simp))) hu

theorem placeAt (s : State) (l : Launch) (x : Sites) : s.Kept (s.placeAt l x) := by
  unfold State.placeAt
  refine trans (foldl (fun t e => ?_) _ s) (of_cells (by rfl) (by rfl))
  split <;> exact of_cells (by simp) (by simp)

/-! ## Swaps -/

theorem saveAll (s : State) (bs : List Nat) : s.Kept (s.saveAll bs) := by
  have hsave (f : State → Nat → Option (Nat × Nat)) : s.Kept (bs.foldl (fun t b => t.saveBlock b (f t b)) s) :=
    foldl (fun t b => of_cells (by simp) (by simp)) bs s
  exact ite (hsave fun _ _ => none) (hsave fun t b => t.swapRun b)

theorem saveBytes (s : State) (b : Nat) : s.Kept (s.saveBytes b) := by
  unfold State.saveBytes
  dsimp only
  split
  · exact refl s
  · exact ⟨fun h => by simpa [Mem.wf] using Mem.putRun_wf _ _ h, by simp⟩

theorem touchRun {s t : State} {b : Nat} {u : LineUse} (h : s.touchRun b u = some t) : s.Kept t := by
  unfold State.touchRun at h
  split at h
  · cases h
    exact refl s
  · exact bind_foldl (fun _ _ _ h => touchPhys h) h

theorem writeFault (s : State) (f : FaultRec) : s.Kept (s.writeFault f) := by
  have hdone (t : State) (id seq : Nat) : t.Kept (t.faultWritten id seq) := of_cells (by simp) (by simp)
  unfold State.writeFault
  dsimp only
  split
  · exact trans (of_cells (by rfl) (by rfl)) (hdone _ _ _)
  · exact (((hostWrite s _ _).trans (setCtx _ _ _)).trans (hdone _ _ _)).trans (msi _ _)

end State.Kept

end Sys2Proof.Machine

/-!
PROOF (R82, R368): decisions of the sequencer, power, commands and the debug window keep memory canonical and the accepted features.
-/
namespace Sys2Proof.Machine

-- One theorem after the other: in parallel they ask for more threads than the host allows.
set_option Elab.async false

namespace State.Kept

/-! ## Decisions of the contract sequencer (R64 to R76) -/

theorem seqTrs (s : State) (ctx va n : Nat) : s.Kept (s.seqTrs ctx va n).2 := rangeTrs (unitWalk _ _) _ _ _ s

theorem seqTrs_eq {s t : State} {ctx va n : Nat} {x : Tried Nat (List Xlate)} (h : s.seqTrs ctx va n = (x, t)) : s.Kept t := by
  have hs := seqTrs s ctx va n
  rwa [h] at hs

theorem decided (s : State) (r : SeqRec) (st : Nat) (slices : List Nat) (pin : Nat) : s.Kept (s.decided r st slices pin) := of_cells (by simp) (by simp)

theorem apply {s : State} {d : Decision} (h : s.Kept d.2) (r : SeqRec) (pin : Nat) : s.Kept (d.apply r pin) := by
  unfold Decision.apply
  split
  · exact h.trans (decided _ _ _ _ _)
  · exact h

theorem decidePin (s : State) (r : SeqRec) (va n : Nat) (resident : Bool) (life : Nat) : s.Kept (s.decidePin r va n resident life).2 := by
  unfold State.decidePin
  split
  · exact refl s
  · split
    · next h => exact seqTrs_eq h
    · next h => exact seqTrs_eq h
    · next trs t h =>
      have ht := seqTrs_eq h
      dsimp only
      split
      · exact ht
      · split
        · exact ht
        · split
          · exact ht
          · split
            · exact ht
            · exact ht.trans (ite (of_cells rfl rfl) (trans (of_cells (by rfl) (by rfl)) (freeLines _ _)))

theorem decideUnpin (s : State) (r : SeqRec) (va : Nat) : s.Kept (s.decideUnpin r va).1.2 := by
  unfold State.decideUnpin
  split
  · exact refl s
  · exact of_cells (by simp) (by simp)

theorem decideResctr (s : State) (ctx gen : Nat) (x : BitVec 4352) : s.Kept (s.decideResctr ctx gen x).2 := by
  unfold State.decideResctr
  dsimp only
  split
  · exact refl s
  · split
    · next h => exact seqTrs_eq h
    · next h => exact seqTrs_eq h
    · next trs t h =>
      have ht := seqTrs_eq h
      split
      · exact ht
      · split
        · exact ht
        · split
          · exact ht
          · exact (ht.trans (endReserve t ctx)).trans (of_cells rfl rfl)

theorem decideResend (s : State) (ctx : Nat) : s.Kept (s.decideResend ctx).2 := by
  unfold State.decideResend
  split
  · exact refl s
  · split
    · exact refl s
    · exact endReserve s ctx

theorem decideOp (s : State) (r : SeqRec) : s.Kept (s.decideOp r) := by
  unfold State.decideOp
  split
  · exact apply (decidePin s r _ _ _ _) _ _
  · exact apply (decideUnpin s r _) _ _
  · split
    · exact decided s _ _ _ _
    · exact of_cells (by simp) (by simp)
  · exact decided s _ _ _ _
  · split
    · exact refl s
    · next t x hx => exact (resRecord hx).trans (apply (decideResctr t _ _ _) _ _)
  · exact apply (decideResend s _) _ _

/-! ## Power (R352 to R361) -/

theorem closeYokes (s : State) : s.Kept s.closeYokes := by
  unfold State.closeYokes
  dsimp only
  exact foldl (fun t i => foldl (fun t pair => ite (refl t) (of_cells (by simp) (by simp))) _ t) _ s

theorem spendQuota (s : State) (ctx : Nat) : s.Kept (s.spendQuota ctx) := by
  unfold State.spendQuota
  dsimp only
  exact (foldl (f := fun t b => (t.setBlock { t.block b with quotaWait := true, why := 3, spentAt := s.now / 1024 }).stopHalves b 3)
    (fun t b => of_cells (by simp) (by simp)) _ s).trans (setCtx _ _ _)

theorem chargeEnergy (s : State) (blk w amount : Nat) : s.Kept (s.chargeEnergy blk w amount) := by
  unfold State.chargeEnergy
  dsimp only
  exact ite (of_cells rfl rfl) (ite (trans (of_cells (by rfl) (by rfl)) (spendQuota _ _)) (of_cells rfl rfl))

theorem chargeBlocks (s : State) : s.Kept s.chargeBlocks := by
  unfold State.chargeBlocks
  dsimp only
  exact foldl (fun t x => trans (of_cells (by rfl) (by rfl)) (chargeEnergy t.drawn _ _ _)) _ s

theorem closeWindows (s : State) : s.Kept s.closeWindows := by
  unfold State.closeWindows
  exact ite (refl s) ((chargeBlocks s).trans (closeYokes _))

/-! ## Commands and the host's accesses -/

theorem command (s : State) {run : State → State} (hrun : s.Kept (run s)) : s.Kept (s.command run) := by
  unfold State.command
  exact ite hrun (refl s)

theorem faultCommand (s : State) (ctx seq action level id : Nat) : s.Kept (s.faultCommand ctx seq action level id) := by
  unfold State.faultCommand
  split
  · cases h : (s.entryIn true ctx (seq - 2 ^ 32)).bind fun f => s.serveEntry f action level id with
    | none => exact refl s
    | some t =>
      obtain ⟨f, -, hf⟩ := Option.bind_eq_some_iff.mp h
      obtain ⟨hmem, hacc⟩ := State.serveEntry_quiet hf
      exact of_cells (congrArg Mem.cells hmem) hacc
  · exact command s (of_cells (by simp) (by simp))

theorem endCtxDone (s : State) (ctx : Nat) : s.Kept (s.endCtxDone ctx) := by
  unfold State.endCtxDone
  split
  · exact refl s
  · extract_lets t u
    have ht : s.Kept t := of_cells (by simp [t]) (by simp [t])
    have hu : s.Kept u := ht.trans (ite (endReserve t ctx) (refl t))
    exact ite hu (hu.trans (of_cells (by simp) (by simp)))

theorem serveHeld (s : State) (port : Nat) : s.Kept (s.serveHeld port) := by
  unfold State.serveHeld
  split
  · exact refl s
  · split
    · exact refl s
    · next h => exact (hostAccess h).trans (of_cells rfl rfl)

theorem dbgDo (s : State) {act : Nat → Nat → State} (hact : ∀ b c, s.Kept (act b c)) : s.Kept (s.dbgDo act) := by
  unfold State.dbgDo
  split
  · exact ite (hact _ _) (refl s)
  · exact refl s

theorem putLive (s : State) (b c : Nat) (v : Word) : s.Kept (s.putLive b c v) := by
  unfold State.putLive
  extract_lets old gone fresh t x u h w
  have ht : s.Kept t := foldl (fun t m => of_cells (by simp) (by simp)) _ s
  have hu : s.Kept u := ht.trans (of_cells rfl rfl)
  have hw : s.Kept w := by
    dsimp only [w]
    split
    · exact hu.trans (of_cells rfl rfl)
    · exact hu
  exact hw.trans (of_cells (by simp) (by simp))

theorem setRegs (s : State) (r : Regs) : s.Kept (s.setRegs r) := of_cells rfl rfl

theorem putCrewWord (s : State) (b c i : Nat) (v : Word) : s.Kept (s.putCrewWord b c i v) := by
  unfold State.putCrewWord
  dsimp only
  split
  · exact ite (refl s) (setRegs s _)
  · exact ite (refl s) (setRegs s _)
  · exact ite (refl s) (setRegs s _)
  · exact ite (refl s) (setRegs s _)
  · exact ite (refl s) (setRegs s _)
  · exact putLive s b c v

theorem dbgPut (s : State) (b c off : Nat) (v : Word) : s.Kept (s.dbgPut b c off v) := by
  unfold State.dbgPut
  dsimp only
  refine ite (refl s) (ite (ite (refl s) (setRegs s _)) (ite (setRegs s _) (ite (setRegs s _) (ite (ite (refl s) (putCrewWord s _ _ _ _)) (ite ?_ (ite
    (ite (refl s) (setRegs s _)) (ite (ite (refl s) ?_) (ite (ite (refl s) (setRegs s _)) (ite (ite (refl s) (setRegs s _)) (refl s))))))))))
  · exact of_cells (by simp) (by simp)
  · exact of_cells (by simp) (by simp)

end State.Kept

end Sys2Proof.Machine

/-!
PROOF (R82, R368): every instruction keeps memory canonical and the accepted features.
-/
namespace Sys2Proof.Machine

-- One theorem after the other: in parallel they ask for more threads than the host allows.
set_option Elab.async false

namespace State.Kept

theorem wrote (s : State) (ws : List RegWr) (n : Nat) : s.Kept ((s.wrote ws).advance n) := of_cells (by simp) (by simp)

theorem startSeta (s : State) (ws : List RegWr) (n : Nat) : s.Kept ((s.startSeta ws).advance n) := of_cells (by simp) (by simp)

theorem compute {i : Instr} {sh : Shape} {fn : LaneFn} {d a b : Field} {g : Guard} {feed : Bool} {s t : State}
    (h : Machine.compute i sh fn d a b g feed s = .next t) : s.Kept t := of_issue (fun u => wrote u _ _) h

theorem computeLong {i : Instr} {sh : Shape} {fn : LaneFn} {d a b : Field} {g : Guard} {feed : Bool} {s t : State}
    (h : Machine.computeLong i sh fn d a b g feed s = .next t) : s.Kept t := of_issue (fun u => startSeta u _ _) h

theorem computeSfu {i : Instr} {fn : LaneFn} {d a : Field} {g : Guard} {s t : State} (h : Machine.computeSfu i fn d a g s = .next t) : s.Kept t :=
  of_issue (fun u => startSeta u _ _) h

theorem compare1 {i : Instr} {sh : Shape} {fn : FEnv → DWord → DWord → Bool × FFlags} {path : BitVec 1} {pred : BitVec 3} {a b : Field} {g : Guard}
    {feed : Bool} {s t : State} (h : Machine.compare1 i sh fn path pred a b g feed s = .next t) : s.Kept t := of_issue (fun u => wrote u _ _) h

theorem invLines (s : State) (vas : List Nat) (core ctx : Nat) :
    s.Kept (vas.foldl (fun (x : State × Bool) va => ((x.1.invLine core ctx va).1, x.2 || (x.1.invLine core ctx va).2)) (s, false)).1 := by
  suffices h : ∀ x : State × Bool, x.1.Kept (vas.foldl (fun x va => ((x.1.invLine core ctx va).1, x.2 || (x.1.invLine core ctx va).2)) x).1 from h (s, false)
  induction vas with
  | nil => exact fun x => refl x.1
  | cons va vas ih => exact fun x => (invLine x.1 core ctx va).trans (ih ((x.1.invLine core ctx va).1, x.2 || (x.1.invLine core ctx va).2))

theorem execBra {n : BitVec 1} {i : BitVec 14} {g : Guard} {s t : State} (h : Machine.execBra n i g s = .next t) : s.Kept t :=
  .of_issue (fun u => jump u _ _) h

theorem execBrau {n : BitVec 1} {q : BitVec 2} {i : BitVec 14} {g : Guard} {s t : State} (h : Machine.execBrau n q i g s = .next t) : s.Kept t := by
  refine .of_issue (fun u => ?_) h
  refine ite (withTargets (fun t ht => ht.trans ?_) (refl u) _) (advance u _)
  exact of_cells rfl rfl

theorem execJmp {g : Guard} {lit : Word} {s t : State} (h : Machine.execJmp g lit s = .next t) : s.Kept t :=
  .of_issue (fun u => jump u _ _) h

theorem execJmpi {a : Field} {g : Guard} {s t : State} (h : Machine.execJmpi a g s = .next t) : s.Kept t :=
  .of_issue (fun u => jump u _ _) h

theorem execCall {i : BitVec 14} {g : Guard} {s t : State} (h : Machine.execCall i g s = .next t) : s.Kept t :=
  .of_issue (fun u => callWith u _) h

theorem execCalli {a : Field} {g : Guard} {s t : State} (h : Machine.execCalli a g s = .next t) : s.Kept t :=
  .of_issue (fun u => callWith u _) h

theorem execRet {g : Guard} {s t : State} (h : Machine.execRet g s = .next t) : s.Kept t :=
  .of_issue (fun u => returnFrom u _) h

theorem execReform {s t : State} (h : Machine.execReform s = .next t) : s.Kept t := by
  refine .of_issue (fun u => ?_) h
  dsimp only
  (repeat' split) <;> exact of_cells (by simp) (by simp)

theorem execNop {s t : State} (h : Machine.execNop s = .next t) : s.Kept t :=
  .of_issue (fun u => of_cells (by simp) (by simp)) h

theorem execYieldI {s t : State} (h : Machine.execYieldI s = .next t) : s.Kept t :=
  .of_issue (fun u => of_cells (by simp) (by simp)) h

theorem execExit {g : Guard} {s t : State} (h : Machine.execExit g s = .next t) : s.Kept t :=
  .of_issue (fun u => of_cells (by simp) (by simp)) h

theorem execBar {scope : BitVec 1} {id : BitVec 4} {s t : State} (h : Machine.execBar scope id s = .next t) : s.Kept t :=
  .of_issue (fun u => of_cells (by simp) (by simp)) h

theorem execLbar {s t : State} (h : Machine.execLbar s = .next t) : s.Kept t :=
  .of_issue (fun u => of_cells (by simp) (by simp)) h

theorem execWaitcmp {u : BitVec 1} {cond : BitVec 3} {a b : Field} {g : Guard} {m : MemMod} {s t : State} (h : Machine.execWaitcmp u cond a b g m s = .next t) : s.Kept t := by
  refine .of_issueCommit (fun u => ite (illop u _ _) ?_) h
  split
  · exact takeTrap u _
  · next hc => exact (checkRecord (.inl hc)).trans (park _ _ _)
  · next v lanes oob hc =>
    have hv := checkRecord (.inr ⟨lanes, oob, hc⟩)
    exact ite (park u _ _) (hv.trans (of_cells (by simp) (by simp)))

theorem execFence {ord : BitVec 2} {scope : BitVec 3} {s t : State} (h : Machine.execFence ord scope s = .next t) : s.Kept t :=
  .of_issue (fun u => fence u _ _ _) h

theorem execGfence {scope : BitVec 3} {s t : State} (h : Machine.execGfence scope s = .next t) : s.Kept t :=
  .of_issue (fun u => atCommitBoth (fun t => fence t _ _ _) u _) h

theorem execFenceo {s t : State} (h : Machine.execFenceo s = .next t) : s.Kept t :=
  .of_issue (fun u => of_cells (by simp) (by simp)) h

theorem execFencer {scope : BitVec 3} {s t : State} (h : Machine.execFencer scope s = .next t) : s.Kept t :=
  .of_issue (fun u => of_cells (by simp) (by simp)) h

theorem execQpush {d a : Field} {s t : State} (h : Machine.execQpush d a s = .next t) : s.Kept t :=
  .of_issue (fun u => qpush u _ _) h

theorem execQpop {d a b : Field} {m : QpopMod} {s t : State} (h : Machine.execQpop d a b m s = .next t) : s.Kept t :=
  .of_issue (fun u => ite (qpopFeed u _ _ _ _) (qpopCrew u _ _ _)) h

theorem execQstat {d : BitVec 6} {a : Field} {s t : State} (h : Machine.execQstat d a s = .next t) : s.Kept t :=
  .of_issue (fun u => of_cells (by simp) (by simp)) h

theorem execQstatFeed {d : BitVec 6} {a b : Field} {s t : State} (h : Machine.execQstatFeed d a b s = .next t) : s.Kept t :=
  .of_issue (fun u => of_cells (by simp) (by simp)) h

theorem execMmab {d a b : Field} {m : MmaMod} {s t : State} (h : Machine.execMmab d a b m s = .next t) : s.Kept t :=
  .of_issue (fun u => mma u _ _ _ _ _ _) h

theorem execMmah {d a b : Field} {m : MmaMod} {s t : State} (h : Machine.execMmah d a b m s = .next t) : s.Kept t :=
  .of_issue (fun u => mma u _ _ _ _ _ _) h

theorem execMmai8 {d a b : Field} {m : MmaMod} {s t : State} (h : Machine.execMmai8 d a b m s = .next t) : s.Kept t :=
  .of_issue (fun u => mma u _ _ _ _ _ _) h

theorem execMmai84 {d a b : Field} {m : MmaMod} {s t : State} (h : Machine.execMmai84 d a b m s = .next t) : s.Kept t :=
  .of_issue (fun u => mma u _ _ _ _ _ _) h

theorem execMmai4 {d a b : Field} {m : MmaMod} {s t : State} (h : Machine.execMmai4 d a b m s = .next t) : s.Kept t :=
  .of_issue (fun u => mma u _ _ _ _ _ _) h

theorem execAclr {d : Field} {s t : State} (h : Machine.execAclr d s = .next t) : s.Kept t :=
  .of_issue (fun u => of_cells (by simp) (by simp)) h

theorem execAload {d a : Field} {m : AloadMod} {s t : State} (h : Machine.execAload d a m s = .next t) : s.Kept t :=
  .of_issue (fun u => of_cells (by simp) (by simp)) h

theorem execAstore {d a b : Field} {m : AstoreMod} {s t : State} (h : Machine.execAstore d a b m s = .next t) : s.Kept t :=
  .of_issue (fun u => ite (of_cells (by simp) (by simp)) (ite (astoreMem u _ _ _ _) (astoreQueue u _ _ _ _))) h

theorem execArowmx {d a b : Field} {s t : State} (h : Machine.execArowmx d a b s = .next t) : s.Kept t :=
  .of_issue (fun u => of_cells (by simp) (by simp)) h

theorem execAexpb {d a b : Field} {push : BitVec 1} {s t : State} (h : Machine.execAexpb d a b push s = .next t) : s.Kept t :=
  .of_issue (fun u => aexpb u _ _ _ _) h

theorem execAshift {d b : Field} {s t : State} (h : Machine.execAshift d b s = .next t) : s.Kept t :=
  .of_issue (fun u => of_cells (by simp) (by simp)) h

theorem execArowsm {d a b : Field} {s t : State} (h : Machine.execArowsm d a b s = .next t) : s.Kept t :=
  .of_issue (fun u => of_cells (by simp) (by simp)) h

theorem execLd {d a b : Field} {g : Guard} {m : MemMod} {s t : State} (h : Machine.execLd d a b g m s = .next t) : s.Kept t :=
  .of_issue (fun u => of_access (.load u _ _ _ _ _ _)) h

theorem execLdx {d a b : Field} {g : Guard} {m : MemMod} {s t : State} (h : Machine.execLdx d a b g m s = .next t) : s.Kept t :=
  .of_issue (fun u => of_access (.load u _ _ _ _ _ _)) h

theorem execLdk {d a b : Field} {g : Guard} {m : MemMod} {s t : State} (h : Machine.execLdk d a b g m s = .next t) : s.Kept t :=
  .of_issue (fun u => of_access (.loadK u _ _ _ _ _)) h

theorem execSt {d a : Field} {g : Guard} {m : MemMod} {s t : State} (h : Machine.execSt d a g m s = .next t) : s.Kept t :=
  .of_issue (fun u => of_access (.store u _ _ _ _)) h

theorem execStm {d a b : Field} {g : Guard} {m : MemMod} {s t : State} (h : Machine.execStm d a b g m s = .next t) : s.Kept t :=
  .of_issue (fun u => of_access (.store u _ _ _ _)) h

theorem execStk {d a : Field} {g : Guard} {m : MemMod} {s t : State} (h : Machine.execStk d a g m s = .next t) : s.Kept t :=
  .of_issue (fun u => of_access (.store u _ _ _ _)) h

theorem execLds {d a b : Field} {g : Guard} {m : MemMod} {s t : State} (h : Machine.execLds d a b g m s = .next t) : s.Kept t :=
  .of_issue (fun u => of_access (.spadLoad u _ _ _ _)) h

theorem execLdp {d a b : Field} {g : Guard} {m : MemMod} {s t : State} (h : Machine.execLdp d a b g m s = .next t) : s.Kept t :=
  .of_issue (fun u => of_access (.spadLoad u _ _ _ _)) h

theorem execSts {d a : Field} {g : Guard} {m : MemMod} {s t : State} (h : Machine.execSts d a g m s = .next t) : s.Kept t :=
  .of_issue (fun u => spadStore u _ _ _ _) h

theorem execStsm {d a b : Field} {g : Guard} {m : MemMod} {s t : State} (h : Machine.execStsm d a b g m s = .next t) : s.Kept t :=
  .of_issue (fun u => spadStore u _ _ _ _) h

theorem execStp {d a b : Field} {g : Guard} {m : MemMod} {s t : State} (h : Machine.execStp d a b g m s = .next t) : s.Kept t :=
  .of_issue (fun u => spadStore u _ _ _ _) h

theorem execInvl1 {g : Guard} {s t : State} (h : Machine.execInvl1 g s = .next t) : s.Kept t := by
  refine .of_issue (fun u => ?_) h
  refine trans (ite (refl u) ?_) (advance _ _)
  exact of_cells rfl rfl

theorem execInvl1Line {a : BitVec 6} {g : Guard} {s t : State} (h : Machine.execInvl1Line a g s = .next t) : s.Kept t := by
  refine .of_issue (fun u => ?_) h
  have hinv := invLines u ((crewsOf (u.lanesOn g)).map fun c => (u.regs.kval u.sch.cur.blk c a.toNat true).toNat) u.curCore (u.ctxOf u.sch.cur.blk)
  exact ite (hinv.trans (park _ _ _)) (hinv.trans (advance _ _))

theorem execPref {a b : Field} {g : Guard} {m : MemMod} {s t : State} (h : Machine.execPref a b g m s = .next t) : s.Kept t :=
  .of_issue (fun u => of_access (.pref u a b g m)) h

theorem execRecld {a b : Field} {g : Guard} {m : MemMod} {s t : State} (h : Machine.execRecld a b g m s = .next t) : s.Kept t :=
  .of_issue (fun u => ite (advance u _) (ite (recldMem u _ _) (of_cells (by simp) (by simp)))) h

theorem execAtom {d a b : Field} {g : Guard} {m : MemMod} {s t : State} (h : Machine.execAtom d a b g m s = .next t) : s.Kept t :=
  .of_issueCommit (fun u => atomV u _ _ _ _ _ _ _) h

theorem execRed {d a b : Field} {g : Guard} {m : MemMod} {s t : State} (h : Machine.execRed d a b g m s = .next t) : s.Kept t :=
  .of_issueCommit (fun u => atomV u _ _ _ _ _ _ _) h

theorem execCas {d a b : Field} {g : Guard} {m : MemMod} {s t : State} (h : Machine.execCas d a b g m s = .next t) : s.Kept t :=
  .of_issueCommit (fun u => atomV u _ _ _ _ _ _ _) h

theorem execAtomk {d a b : Field} {g : Guard} {m : MemMod} {s t : State} (h : Machine.execAtomk d a b g m s = .next t) : s.Kept t :=
  .of_issueCommit (fun u => atomK u _ _ _ _ _ _) h

theorem execPin {d a : Field} {g : Guard} {m : ContractMod} {s t : State} (h : Machine.execPin d a g m s = .next t) : s.Kept t :=
  .of_issueShared (fun u => of_cells (by simp) (by simp)) h

theorem execUnpin {d a : Field} {g : Guard} {m : ContractMod} {s t : State} (h : Machine.execUnpin d a g m s = .next t) : s.Kept t :=
  .of_issueShared (fun u => of_cells (by simp) (by simp)) h

theorem execCctr {d a : Field} {g : Guard} {m : ContractMod} {s t : State} (h : Machine.execCctr d a g m s = .next t) : s.Kept t :=
  .of_issueShared (fun u => of_cells (by simp) (by simp)) h

theorem execStpart {d a : Field} {g : Guard} {m : ContractMod} {s t : State} (h : Machine.execStpart d a g m s = .next t) : s.Kept t :=
  .of_issueShared (fun u => of_cells (by simp) (by simp)) h

theorem execKvapp {a : Field} {g : Guard} {m : KvMod} {s t : State} (h : Machine.execKvapp a g m s = .next t) : s.Kept t :=
  .of_issueCommit (fun u => ite (of_cells (by simp) (by simp)) (of_cells (by simp) (by simp))) h

theorem execKvfork {d a : Field} {g : Guard} {m : KvMod} {s t : State} (h : Machine.execKvfork d a g m s = .next t) : s.Kept t := by
  refine .of_issueShared (fun u => ?_) h
  dsimp only
  (repeat' split) <;> exact of_cells (by simp) (by simp)

theorem execKvfree {a : Field} {g : Guard} {m : KvMod} {s t : State} (h : Machine.execKvfree a g m s = .next t) : s.Kept t := by
  refine .of_issueShared (fun u => ?_) h
  dsimp only
  (repeat' split) <;> exact of_cells (by simp) (by simp)

theorem execKvhm {d a : Field} {g : Guard} {m : KvMod} {s t : State} (h : Machine.execKvhm d a g m s = .next t) : s.Kept t := by
  refine .of_issueShared (fun u => ?_) h
  dsimp only
  (repeat' split) <;> exact of_cells (by simp) (by simp)

theorem execAssay {d a : Field} {g : Guard} {m : KvMod} {s t : State} (h : Machine.execAssay d a g m s = .next t) : s.Kept t :=
  .of_issue (fun u => ite (of_cells (by simp) (by simp)) (of_cells (by simp) (by simp))) h

theorem execGread {d a : Field} {g : Guard} {m : GirthMod} {s t : State} (h : Machine.execGread d a g m s = .next t) : s.Kept t :=
  .of_issueCommit (fun u => of_cells (by simp) (by simp)) h

theorem execGupd {d a b : Field} {g : Guard} {m : GirthMod} {s t : State} (h : Machine.execGupd d a b g m s = .next t) : s.Kept t :=
  .of_issueCommit (fun u => of_cells (by simp) (by simp)) h

theorem execGcinch {d a : Field} {g : Guard} {m : GirthMod} {s t : State} (h : Machine.execGcinch d a g m s = .next t) : s.Kept t :=
  .of_issueCommit (fun u => of_cells (by simp) (by simp)) h

theorem execGclose {a b : Field} {g : Guard} {m : GirthMod} {s t : State} (h : Machine.execGclose a b g m s = .next t) : s.Kept t :=
  .of_issueCommit (fun u => of_cells (by simp) (by simp)) h

theorem execGmount {d a b : Field} {g : Guard} {m : GirthMod} {s t : State} (h : Machine.execGmount d a b g m s = .next t) : s.Kept t := by
  refine .of_issueCommit (fun u => ?_) h
  dsimp only
  (repeat' split) <;> exact of_cells (by simp) (by simp)

theorem execGdismt {d a : Field} {g : Guard} {m : GirthMod} {s t : State} (h : Machine.execGdismt d a g m s = .next t) : s.Kept t := by
  refine .of_issueCommit (fun u => ?_) h
  dsimp only
  (repeat' split) <;> exact of_cells (by simp) (by simp)

theorem execCpy {a : Field} {m : CopyMod} {s t : State} (h : Machine.execCpy a m s = .next t) : s.Kept t :=
  .of_issue (fun u => withBox u a fun td => spadRange u _ _ (copyIn u td a _)) h

theorem execCpym {a : Field} {m : CopyMod} {s t : State} (h : Machine.execCpym a m s = .next t) : s.Kept t :=
  .of_issue (fun u => atCommitBoth (fun t => copyMembers t a m) u _) h

theorem execCpyix {a : Field} {m : CopyMod} {s t : State} (h : Machine.execCpyix a m s = .next t) : s.Kept t :=
  .of_issue (fun u => copyIx u a m) h

theorem execCpyq {a : Field} {m : CopyMod} {s t : State} (h : Machine.execCpyq a m s = .next t) : s.Kept t :=
  .of_issue (fun u => withBox u a fun td => copyQueue u m _ (withCells u td _ _ fun _ t ht => ht.trans (startCopy t _))) h

theorem execSmelt {a : Field} {m : CopyMod} {s t : State} (h : Machine.execSmelt a m s = .next t) : s.Kept t :=
  .of_issue (fun u => ite (illop u _ _) (ite (copyTrap u _ _) (ite (copyTrap u _ _) (copyQueue u m _ (smelt u m _ _))))) h

theorem execCpys {a : Field} {m : CopyMod} {s t : State} (h : Machine.execCpys a m s = .next t) : s.Kept t :=
  .of_issueCommit (fun u => copyOut u a) h

theorem execTxpose {a : Field} {m : CopyMod} {s t : State} (h : Machine.execTxpose a m s = .next t) : s.Kept t :=
  .of_issueCommit (fun u => transpose u a) h

theorem execTdmk {d a : Field} {m : MemMod} {s t : State} (h : Machine.execTdmk d a m s = .next t) : s.Kept t :=
  .of_issue (fun u => tdmk u _ _ _) h

theorem execTdfree {a : BitVec 6} {s t : State} (h : Machine.execTdfree a s = .next t) : s.Kept t := by
  refine .of_issue (fun u => ?_) h
  dsimp only
  (repeat' split) <;> exact of_cells (by simp) (by simp)

theorem execFend {s t : State} (h : Machine.execFend s = .next t) : s.Kept t :=
  .of_issue (fun u => of_cells (by simp) (by simp)) h

theorem execIaddc {d a b : Field} {g : Guard} {s t : State} (h : Machine.execIaddc d a b g s = .next t) : s.Kept t :=
  .of_issue (fun u => of_cells (by simp) (by simp)) h

theorem execIsubb {d a b : Field} {g : Guard} {s t : State} (h : Machine.execIsubb d a b g s = .next t) : s.Kept t :=
  .of_issue (fun u => of_cells (by simp) (by simp)) h

theorem execSel {d a b : Field} {p : BitVec 3} {s t : State} (h : Machine.execSel d a b p s = .next t) : s.Kept t :=
  .of_issue (fun u => of_cells (by simp) (by simp)) h

theorem execHcmp2 {path : BitVec 1} {cond pred : BitVec 3} {a b : Field} {g : Guard} {s t : State} (h : Machine.execHcmp2 path cond pred a b g s = .next t) : s.Kept t :=
  .of_issue (fun u => of_cells (by simp) (by simp)) h

theorem execBcmp2 {path : BitVec 1} {cond pred : BitVec 3} {a b : Field} {g : Guard} {s t : State} (h : Machine.execBcmp2 path cond pred a b g s = .next t) : s.Kept t :=
  .of_issue (fun u => of_cells (by simp) (by simp)) h

theorem execMov {d a : Field} {g : Guard} {s t : State} (h : Machine.execMov d a g s = .next t) : s.Kept t :=
  .of_issue (fun u => of_cells (by simp) (by simp)) h

theorem execMovi {d : Field} {i : BitVec 14} {g : Guard} {s t : State} (h : Machine.execMovi d i g s = .next t) : s.Kept t :=
  .of_issue (fun u => of_cells (by simp) (by simp)) h

theorem execMovl {d : Field} {g : Guard} {lit : Word} {s t : State} (h : Machine.execMovl d g lit s = .next t) : s.Kept t :=
  .of_issue (fun u => of_cells (by simp) (by simp)) h

theorem execVote {d : Field} {g : Guard} {m : CrewMod} {s t : State} (h : Machine.execVote d g m s = .next t) : s.Kept t :=
  .of_issue (fun u => of_cells (by simp) (by simp)) h

theorem execShfl {d a b : Field} {g : Guard} {m : CrewMod} {s t : State} (h : Machine.execShfl d a b g m s = .next t) : s.Kept t :=
  .of_issue (fun u => of_cells (by simp) (by simp)) h

theorem execCred {d a : Field} {g : Guard} {m : CrewMod} {s t : State} (h : Machine.execCred d a g m s = .next t) : s.Kept t :=
  .of_issue (fun u => of_cells (by simp) (by simp)) h

theorem execCscan {d a : Field} {g : Guard} {m : CrewMod} {s t : State} (h : Machine.execCscan d a g m s = .next t) : s.Kept t :=
  .of_issue (fun u => of_cells (by simp) (by simp)) h

theorem execMatchEq {d a : Field} {g : Guard} {m : CrewMod} {s t : State} (h : Machine.execMatchEq d a g m s = .next t) : s.Kept t :=
  .of_issue (fun u => of_cells (by simp) (by simp)) h

theorem execCsync {g : Guard} {m : CrewMod} {s t : State} (h : Machine.execCsync g m s = .next t) : s.Kept t :=
  .of_issue (fun u => of_cells (by simp) (by simp)) h

theorem execPlop {path : BitVec 1} {r pb pa : BitVec 3} {lut : BitVec 4} {g : Guard} {s t : State} (h : Machine.execPlop path r pb pa lut g s = .next t) : s.Kept t :=
  .of_issue (fun u => of_cells (by simp) (by simp)) h

theorem execP2v {d : Field} {g : Guard} {s t : State} (h : Machine.execP2v d g s = .next t) : s.Kept t :=
  .of_issue (fun u => of_cells (by simp) (by simp)) h

theorem execV2p {path : BitVec 1} {a b : Field} {g : Guard} {s t : State} (h : Machine.execV2p path a b g s = .next t) : s.Kept t :=
  .of_issue (fun u => of_cells (by simp) (by simp)) h

theorem execRdsr {d : Field} {i : BitVec 7} {g : Guard} {s t : State} (h : Machine.execRdsr d i g s = .next t) : s.Kept t :=
  .of_issue (fun u => ite (park u _ _) (of_cells (by simp) (by simp))) h

theorem execWrsr {a : BitVec 6} {i : BitVec 7} {g : Guard} {s t : State} (h : Machine.execWrsr a i g s = .next t) : s.Kept t := by
  refine .of_issue (fun u => ?_) h
  dsimp only
  (repeat' split) <;> exact of_cells (by simp) (by simp)

theorem execWinbImm {i : BitVec 7} {g : Guard} {s t : State} (h : Machine.execWinbImm i g s = .next t) : s.Kept t :=
  .of_issue (fun u => ite (of_cells (by simp) (by simp)) (advance u _)) h

theorem execWinbReg {a : BitVec 6} {g : Guard} {s t : State} (h : Machine.execWinbReg a g s = .next t) : s.Kept t :=
  .of_issue (fun u => ite (of_cells (by simp) (by simp)) (advance u _)) h

theorem execCpart {w : BitVec 3} {g : Guard} {s t : State} (h : Machine.execCpart w g s = .next t) : s.Kept t := by
  refine .of_issue (fun u => ?_) h
  dsimp only
  (repeat' split) <;> exact of_cells (by simp) (by simp)

theorem execTrap {c : BitVec 7} {g : Guard} {s t : State} (h : Machine.execTrap c g s = .next t) : s.Kept t := by
  refine .of_issue (fun u => ?_) h
  dsimp only
  (repeat' split) <;> exact of_cells (by simp) (by simp)

theorem execCancelSelf {l : BitVec 2} {g : Guard} {s t : State} (h : Machine.execCancelSelf l g s = .next t) : s.Kept t := by
  refine .of_issueShared (fun u => ?_) h
  dsimp only
  (repeat' split) <;> exact of_cells (by simp) (by simp)

theorem execCancelId {a : BitVec 6} {l : BitVec 2} {g : Guard} {s t : State} (h : Machine.execCancelId a l g s = .next t) : s.Kept t :=
  .of_issueShared (fun u => ite (of_cells (by simp) (by simp)) (advance u _)) h

theorem execWqpop {d : BitVec 6} {q : BitVec 2} {g : Guard} {s t : State} (h : Machine.execWqpop d q g s = .next t) : s.Kept t :=
  .of_issueShared (fun u => ite (of_cells (by simp) (by simp)) (advance u _)) h

theorem execWqpush {a : BitVec 6} {q : BitVec 2} {g : Guard} {s t : State} (h : Machine.execWqpush a q g s = .next t) : s.Kept t :=
  .of_issueShared (fun u => ite (advance u _) (ite (park u _ _) (of_cells (by simp) (by simp)))) h

end State.Kept

end Sys2Proof.Machine

/-!
PROOF (R82, R368): the events of the issue stage, the store and the engines keep memory canonical and the accepted features.
-/
namespace Sys2Proof.Machine

-- One theorem after the other: in parallel they ask for more threads than the host allows.
set_option Elab.async false

namespace State.Kept

theorem execBinAged {n : Nat} {s t : State} (h : Machine.execBinAged n s = .next t) : s.Kept t := by
  unfold Machine.execBinAged at h
  split at h <;> cases h <;> exact of_cells (by simp) (by simp)

theorem execBinOverdue {n : Nat} {s t : State} (h : Machine.execBinOverdue n s = .next t) : s.Kept t := by
  unfold Machine.execBinOverdue at h
  split at h <;> cases h <;> exact of_cells (by simp) (by simp)

theorem execLbarReleaseWindow {l : Nat} {s t : State} (h : Machine.execLbarReleaseWindow l s = .next t) : s.Kept t := by
  unfold Machine.execLbarReleaseWindow at h
  dsimp only at h
  split at h
  · cases h
    exact of_cells (by simp) (by simp)
  · cases h
    split <;> exact of_cells (by simp) (by simp)

theorem execWqExecute {s t : State} (h : Machine.execWqExecute s = .next t) : s.Kept t := by
  unfold Machine.execWqExecute at h
  split at h <;> cases h
  · exact refl s
  · exact trans (of_cells (by rfl) (by rfl)) (wqRun _ _)

theorem execResultLand {n : Nat} {s t : State} (h : Machine.execResultLand n s = .next t) : s.Kept t := by
  unfold Machine.execResultLand at h
  split at h
  · cases h
    exact refl s
  · split at h
    · cases h
      exact refl s
    · split at h
      · cases h
        exact of_cells (by simp) (by simp)
      · split at h <;> cases h
        · exact landTdmk s _ _
        · exact of_cells (by simp) (by simp)
        · exact of_cells (by simp) (by simp)

theorem execStoreAck {n : Nat} {s t : State} (h : Machine.execStoreAck n s = .next t) : s.Kept t := by
  unfold Machine.execStoreAck at h
  split at h
  · cases h
    exact refl s
  · next a ha =>
    have hparts : s.Kept (a.pends.foldl (fun t p => t.partDone p) s) := foldl (fun t p => of_cells (by simp) (by simp)) _ s
    cases h
    exact hparts.trans (trans (of_cells (by rfl) (by rfl)) (foldl (fun t b => of_cells (by simp) (by simp)) _ _))

theorem execSliceServe {n : Nat} {s t : State} (h : Machine.execSliceServe n s = .next t) : s.Kept t := by
  unfold Machine.execSliceServe at h
  split at h <;> cases h
  · exact refl s
  · next hr => exact ((serveReq (State.serveFirst_some hr)).trans (crossAll _ _)).trans (of_cells (by rfl) (by rfl))

theorem execMscFill {n : Nat} {s t : State} (h : Machine.execMscFill n s = .next t) : s.Kept t := by
  unfold Machine.execMscFill at h
  split at h
  · cases h
    exact refl s
  · split at h <;> cases h
    · exact refl s
    · next hf => exact (fillMsc hf).trans (serveBehind _ _ _ _ _)

theorem execHmapTakeEffect {r : Nat} {s t : State} (h : Machine.execHmapTakeEffect r s = .next t) : s.Kept t := by
  unfold Machine.execHmapTakeEffect at h
  split at h
  · cases h
    exact refl s
  · dsimp only at h
    split at h <;> cases h
    · exact refl s
    · next hf => exact (flushLines hf).trans (of_cells rfl rfl)

theorem execWalkLevelRead {n : Nat} {s t : State} (h : Machine.execWalkLevelRead n s = .next t) : s.Kept t := by
  unfold Machine.execWalkLevelRead at h
  split at h
  · cases h
    exact refl s
  · dsimp only at h
    split at h
    · cases h
      exact refl s
    · split at h
      · cases h
        exact of_cells (by simp) (by simp)
      · split at h
        · cases h
          exact refl s
        · next u hu =>
          have hsu := touchPhys hu
          split at h <;> cases h <;> exact hsu.trans (of_cells (by simp) (by simp))

theorem mapEngine (s : State) (id : Nat) (f : Engine → Engine) : s.Kept (s.mapEngine id f) := of_cells rfl rfl

theorem execEngineWriteLand {n : Nat} {s t : State} (h : Machine.execEngineWriteLand n s = .next t) : s.Kept t := by
  unfold Machine.execEngineWriteLand at h
  split at h
  · cases h
    exact refl s
  · split at h
    · split at h <;> cases h
      · exact runAssay s _ _
      · exact refl s
    · dsimp only at h
      split at h
      · next hc =>
        cases h
        exact engCharge (.inr hc)
      · next hc =>
        split at h <;> cases h
        · exact refl s
        · next hm => exact ((engCharge (.inl hc)).trans (performMoves hm)).trans (mapEngine _ _ _)

theorem execPanelLand {n : Nat} {s t : State} (h : Machine.execPanelLand n s = .next t) : s.Kept t := by
  unfold Machine.execPanelLand at h
  split at h
  · cases h
    exact refl s
  · split at h
    · cases h
      exact refl s
    · split at h
      · next hc =>
        cases h
        exact engCharge (.inr hc)
      · next hc =>
        split at h <;> cases h
        · exact refl s
        · next hp => exact ((engCharge (.inl hc)).trans (landPanel hp)).trans (mapEngine _ _ _)

theorem execEngineComplete {n : Nat} {s t : State} (h : Machine.execEngineComplete n s = .next t) : s.Kept t := by
  unfold Machine.execEngineComplete at h
  split at h
  · cases h
    exact refl s
  · split at h
    · cases h
      exact refl s
    · dsimp only at h
      cases h
      split <;> exact of_cells (by simp) (by simp)

theorem execPageEvictDone {ctx page : Nat} {s t : State} (h : Machine.execPageEvictDone ctx page s = .next t) : s.Kept t := by
  have hfinish (t : State) (x : KvPage) : t.Kept (((t.dropRows ctx page).setPage ctx page x).moved ctx page) := of_cells (by simp) (by simp)
  unfold Machine.execPageEvictDone at h
  dsimp only at h
  split at h <;> cases h
  · exact refl s
  · exact ite (movePage s _ _ (fun _ _ _ => evictPair) fun t => hfinish t _) (hfinish s _)

theorem installPair {s t : State} {ctx page : Nat} {x : KvPage} {r : Reserve} {q : Nat} (h : s.installPair ctx page x r q = some t) : s.Kept t :=
  option_map (fun _ => backRead) (fun t => of_cells (by simp) (by simp)) h

theorem execPageInstallDone {ctx page : Nat} {s t : State} (h : Machine.execPageInstallDone ctx page s = .next t) : s.Kept t := by
  have hfinish (t : State) (x : KvPage) : t.Kept ((t.setPage ctx page x).moved ctx page) := of_cells (by simp) (by simp)
  unfold Machine.execPageInstallDone at h
  dsimp only at h
  split at h <;> cases h
  · exact refl s
  · exact movePage s _ _ (fun _ _ _ => installPair) fun t => hfinish t _

theorem readyPage (s : State) (ctx p k u : Nat) (r : Reserve) : s.Kept (s.readyPage ctx p k u r).1 := of_cells (by simp) (by simp)

theorem execKvappPerform {n : Nat} {s t : State} (h : Machine.execKvappPerform n s = .next t) : s.Kept t := by
  unfold Machine.execKvappPerform at h
  split at h
  · cases h
    exact refl s
  · split at h
    · dsimp only at h
      split at h
      · cases h
        exact mapEngine s _ _
      · next ctx k u slot krow vrow rest hm _ r hr =>
        have hk := readyPage s ctx k k u r
        split at h
        · cases h
          exact hk
        · have hu := hk.trans (readyPage (s.readyPage ctx k k u r).1 ctx u k u r)
          split at h
          · cases h
            exact hu
          · split at h
            · next hc =>
              cases h
              exact hu.trans (engCharge (.inr hc))
            · next hc =>
              split at h <;> cases h
              · exact refl s
              · next hb =>
                obtain ⟨v, hv, hw⟩ := Option.bind_eq_some_iff.mp hb
                exact ((((hu.trans (engCharge (.inl hc))).trans (appendRow hv)).trans (appendRow hw))).trans (of_cells (by simp) (by simp))
    · cases h
      exact refl s

theorem kvReach {s t : State} {o : KvRec} {p n : Nat} {write : Bool} (h : s.kvReach o p n write = some t) : s.Kept t := by
  unfold State.kvReach at h
  split at h
  · cases h
    exact refl s
  · exact reachSlice h

theorem execKvCountTest {n : Nat} {s t : State} (h : Machine.execKvCountTest n s = .next t) : s.Kept t := by
  have hverdict (t : State) (o : KvRec) (k u slot : Nat) (krow vrow : List (BitVec 16)) (ok : Bool) : t.Kept (t.kvVerdict o k u slot krow vrow ok) :=
    of_cells (by simp) (by simp)
  unfold Machine.execKvCountTest at h
  split at h
  · cases h
    exact refl s
  · split at h
    · extract_lets ok test a b at h
      have htest (t : State) (p : Nat) (r : Option Bool) : t.Kept (test t p r).1 := by
        dsimp only [test]
        split
        · split
          · next hu => exact kvReach hu
          · exact refl t
        · exact refl t
      have ha : s.Kept a.1 := htest s _ _
      have hb : s.Kept b.1 := by
        dsimp only [b]
        split
        · exact ha.trans (htest _ _ _)
        · exact ha
      split at h <;> cases h
      · exact hb.trans (hverdict _ _ _ _ _ _ _ _)
      · exact hb.trans (hverdict _ _ _ _ _ _ _ _)
      · exact hb.trans (hverdict _ _ _ _ _ _ _ _)
      · exact hb.trans (of_cells rfl rfl)
    · cases h
      exact refl s

theorem getD_map {s : State} {o : Option State} (ho : ∀ t, o = some t → s.Kept t) {f : State → State} (hf : ∀ t : State, t.Kept (f t)) :
    s.Kept ((o.map f).getD s) := by
  cases o with
  | none => exact refl s
  | some t => exact (ho t rfl).trans (hf t)

theorem execKvPageOp {n : Nat} {s t : State} (h : Machine.execKvPageOp n s = .next t) : s.Kept t := by
  unfold Machine.execKvPageOp at h
  split at h
  · cases h
    exact refl s
  · dsimp only at h
    split at h <;> cases h
    · exact ite (refl s) (getD_map (fun _ => kvReach) fun t => of_cells (by simp) (by simp))
    · exact ite (refl s) (getD_map (fun _ => kvReach) fun t => of_cells (by simp) (by simp))
    · exact ite (refl s) (getD_map (fun _ => kvReach) fun t => of_cells (by simp) (by simp))
    · exact refl s

theorem execStpartApply {n : Nat} {s t : State} (h : Machine.execStpartApply n s = .next t) : s.Kept t := by
  unfold Machine.execStpartApply at h
  split at h
  · cases h
    exact refl s
  · split at h <;> cases h
    · split
      · exact refl s
      · next hf => exact (flushLines hf).trans (of_cells (by simp) (by simp))
    · exact refl s

theorem execContractDecide {s t : State} (h : Machine.execContractDecide s = .next t) : s.Kept t := by
  unfold Machine.execContractDecide at h
  split at h
  · cases h
    exact refl s
  · split at h <;> cases h
    · exact refl s
    · exact decideOp s _

theorem pinEnded (s : State) (p : Nat) : s.Kept (s.pinEnded p) := of_cells (by simp) (by simp)

theorem execPinDrainStart {p sl : Nat} {s t : State} (h : Machine.execPinDrainStart p sl s = .next t) : s.Kept t := by
  unfold Machine.execPinDrainStart at h
  split at h
  · cases h
    exact refl s
  · split at h
    · cases h
      exact refl s
    · extract_lets lines y mine u at h
      split at h
      · cases h
        exact trans (of_cells (by rfl) (by rfl)) (pinEnded _ _)
      · split at h <;> cases h
        · exact refl s
        · have herase : s.Kept { u with mem := u.mem.erase mine } := ⟨Mem.erase_wf mine, rfl⟩
          exact herase.trans (pinEnded _ _)

theorem execPinLineWritten {p sl : Nat} {s t : State} (h : Machine.execPinLineWritten p sl s = .next t) : s.Kept t := by
  unfold Machine.execPinLineWritten at h
  split at h
  · cases h
    exact refl s
  · split at h <;> cases h
    · exact refl s
    · exact trans (of_cells (by rfl) (by rfl)) (pinEnded _ _)

end State.Kept

end Sys2Proof.Machine

/-!
PROOF (R82, R368): the events of the dispatcher, swaps, the girth, power, the host and its commands keep memory canonical.
-/
namespace Sys2Proof.Machine

-- One theorem after the other: in parallel they ask for more threads than the host allows.
set_option Elab.async false

namespace State.Kept

/-- What a step gives, where it gives a state. -/
theorem of_next {s t u : State} (h : (Host.Outcome.next u : Host.Outcome State Fault Refusal) = .next t) (hu : s.Kept u) : s.Kept t :=
  Host.Outcome.next.inj h ▸ hu

theorem execPlaceBlock {s t : State} (h : Machine.execPlaceBlock s = .next t) : s.Kept t := by
  unfold Machine.execPlaceBlock at h
  split at h <;> cases h
  · exact refl s
  · exact placeAt s _ _
  · exact of_cells rfl rfl

theorem execCxlSnoop {line : Nat} {s t : State} (h : Machine.execCxlSnoop line s = .next t) : s.Kept t := by
  unfold Machine.execCxlSnoop at h
  split at h
  · cases h
    exact ite (refl s) (of_cells rfl rfl)
  · extract_lets u v at h
    have hv : s.Kept v := trans (t := u) (of_cells (by simp [u]) (by simp [u])) (foldl (fun t e => of_cells (by rfl) (by rfl)) _ u)
    split at h
    · exact of_next h hv
    · exact of_next h (hv.trans (trans (of_cells (by rfl) (by rfl)) (hostPut _ _ _)))

theorem execTailReread {q : Nat} {s t : State} (h : Machine.execTailReread q s = .next t) : s.Kept t := by
  unfold Machine.execTailReread at h
  split at h
  · cases h
    exact refl s
  · next u hu =>
    have hsu : s.Kept u := by
      split at hu
      · exact hostReach hu
      · cases hu
    cases h
    exact ite ((hsu.trans (setQueue _ _ _)).trans (writeEntry _ _ _ _ _ _ _)) (hsu.trans (setQueue _ _ _))

theorem execRecordTake {q : Nat} {s t : State} (h : Machine.execRecordTake q s = .next t) : s.Kept t := by
  unfold Machine.execRecordTake at h
  split at h
  · cases h
    exact refl s
  · next u hu =>
    have hsu : s.Kept u := by
      split at hu
      · exact hostReach hu
      · cases hu
    extract_lets x r l v w h y at h
    have hw : s.Kept w := (hsu.trans (setQueue _ _ _)).trans (hostWrite v _ _)
    have hy : s.Kept y := hw.trans (of_cells rfl rfl)
    have hnote : y.Kept (y.noteDone x.ctx l.id 3) := of_cells rfl rfl
    have hdrawn (t : State) : t.Kept t.drawn := of_cells rfl rfl
    exact of_next h (ite ((hy.trans (hnote.trans (writeEntry _ _ _ _ _ _ _))).trans (hdrawn _)) (hy.trans (accept y l)))

theorem execLevelComplete {kind n : Nat} {s t : State} (h : Machine.execLevelComplete kind n s = .next t) : s.Kept t := by
  have hpins (f : Pin → Bool) : s.Kept (s.endPins f) := of_cells (by simp) (by simp)
  unfold Machine.execLevelComplete at h
  split at h
  · extract_lets l u at h
    split at h <;> cases h
    · exact refl s
    · have hu : s.Kept u := (hpins _).trans (setLaunch _ _)
      exact ite hu (hu.trans (finishLaunch _ _))
  · split at h
    · cases h
      exact refl s
    · extract_lets u at h
      split at h <;> cases h
      · exact refl s
      · exact ite (hpins _) ((hpins _).trans (finishLevel u _))

theorem stopHalves (s : State) (b why : Nat) : s.Kept (s.stopHalves b why) := of_cells (by simp) (by simp)

theorem execSwapOut {blk : Nat} {s t : State} (h : Machine.execSwapOut blk s = .next t) : s.Kept t := by
  unfold Machine.execSwapOut at h
  extract_lets hs u here at h
  split at h
  · cases h
    exact stopHalves s _ _
  · split at h
    · cases h
      exact ite (stopHalves s _ _) (refl s)
    · have hu : s.Kept u := foldl (fun t b => of_cells (by simp) (by simp)) _ s
      split at h
      · exact of_next h hu
      · exact of_next h (hu.trans (saveAll u _))

theorem watchSync (s : State) (b : Nat) : s.Kept (s.watchSync b) := of_cells (by simp) (by simp)

theorem execSwapSaveDone {blk : Nat} {s t : State} (h : Machine.execSwapSaveDone blk s = .next t) : s.Kept t := by
  unfold Machine.execSwapSaveDone at h
  extract_lets x at h
  split at h
  · cases h
    exact refl s
  · split at h <;> cases h
    · exact refl s
    · next hu => exact ((touchRun hu).trans (trans (of_cells (by rfl) (by rfl)) (saveBytes _ _))).trans (watchSync _ _)

theorem execSwapRestore {blk core : Nat} {s t : State} (h : Machine.execSwapRestore blk core s = .next t) : s.Kept t := by
  unfold Machine.execSwapRestore at h
  split at h
  · cases h
    exact refl s
  · split at h
    · split at h <;> cases h
      · exact foldl (fun t b => of_cells (by simp) (by simp)) _ s
      · exact refl s
    · split at h <;> cases h
      · exact refl s
      · exact (foldl (fun t e => of_cells (by simp) (by simp)) _ s).trans (setLaunch _ _)

theorem execSwapRestoreDone {blk : Nat} {s t : State} (h : Machine.execSwapRestoreDone blk s = .next t) : s.Kept t := by
  unfold Machine.execSwapRestoreDone at h
  extract_lets x at h
  split at h
  · cases h
    exact refl s
  · split at h
    · exact of_next h (refl s)
    · next u hu =>
      extract_lets mine h1 v w at h
      have hv : s.Kept v := (touchRun hu).trans (of_cells rfl rfl)
      have hbins : v.Kept (mine.foldl (fun t n => t.restoreBin x.core n) v) := foldl (fun t n => of_cells (by simp) (by simp)) mine v
      have hw : s.Kept w := (hv.trans hbins).trans (of_cells (by simp [w]) (by simp [w]))
      exact of_next h (ite (hw.trans (stopHalves _ _ _)) hw)

theorem execFaultEntryWrite {n : Nat} {s t : State} (h : Machine.execFaultEntryWrite n s = .next t) : s.Kept t := by
  unfold Machine.execFaultEntryWrite at h
  split at h
  · cases h
    exact refl s
  · extract_lets u at h
    have hu : s.Kept u := of_cells (by simp [u]) (by simp [u])
    split at h
    · exact of_next h hu
    · exact of_next h (hu.trans (writeFault u _))

theorem passNow (s : State) (stop slot c : Nat) : s.Kept (s.passNow stop slot c) := of_cells (by simp) (by simp)

theorem execGirthPassage {stop slot : Nat} {s t : State} (h : Machine.execGirthPassage stop slot s = .next t) : s.Kept t := by
  unfold Machine.execGirthPassage at h
  split at h <;> cases h
  · exact refl s
  · exact passNow s _ _ _

theorem execHoldEnd {slot : Nat} {s t : State} (h : Machine.execHoldEnd slot s = .next t) : s.Kept t := by
  unfold Machine.execHoldEnd at h
  split at h <;> cases h
  · exact refl s
  · exact passNow s _ _ _

theorem execReservationExpire {slot : Nat} {s t : State} (h : Machine.execReservationExpire slot s = .next t) : s.Kept t := by
  unfold Machine.execReservationExpire at h
  split at h <;> cases h
  · exact refl s
  · exact passNow s _ _ _

theorem rollBack (s : State) (p : Pair) : s.Kept (s.rollBack p) := of_cells (by simp) (by simp)

theorem execCompareSignatures {n : Nat} {s t : State} (h : Machine.execCompareSignatures n s = .next t) : s.Kept t := by
  have hcommit (p : Pair) : s.Kept (s.commitPair p) := of_cells (by simp) (by simp)
  have hmatched (p : Pair) : s.Kept (s.matched p) := of_cells (by simp) (by simp)
  have hlapse (p : Pair) : s.Kept (s.lapseClosing p) := of_cells (by simp) (by simp)
  unfold Machine.execCompareSignatures at h
  split at h
  · exact of_next h (refl s)
  · split at h
    · exact of_next h (refl s)
    · split at h
      · exact of_next h (rollBack s _)
      · split at h
        · split at h
          · exact of_next h (refl s)
          · split at h
            · exact of_next h (hcommit _)
            · split at h
              · exact of_next h (hmatched _)
              · exact of_next h ((hlapse _).trans (rollBack _ _))
        · exact of_next h (refl s)

theorem execRollbackRestoreDone {n : Nat} {s t : State} (h : Machine.execRollbackRestoreDone n s = .next t) : s.Kept t := by
  unfold Machine.execRollbackRestoreDone at h
  split at h
  · cases h
    exact refl s
  · split at h <;> cases h
    · exact refl s
    · exact (foldl (f := State.restoreSnap) (fun t x => of_cells (by simp) (by simp)) _ s).trans (of_cells (by rfl) (by rfl))

theorem reach (s : State) (n : Nat) : s.Kept (s.reach n) := of_cells rfl rfl

theorem sweep (s : State) (sl : Nat) : s.Kept (s.sweep sl) := of_cells (by simp) (by simp)

theorem execSweepLine {sl : Nat} {s t : State} (h : Machine.execSweepLine sl s = .next t) : s.Kept t := by
  unfold Machine.execSweepLine at h
  split at h <;> cases h
  · exact refl s
  · exact sweep s sl

theorem execSweepForce {sl : Nat} {s t : State} (h : Machine.execSweepForce sl s = .next t) : s.Kept t := by
  unfold Machine.execSweepForce at h
  split at h <;> cases h
  · exact refl s
  · exact (reach s _).trans (sweep _ sl)

theorem execSliceEvacuate {sl : Nat} {s t : State} (h : Machine.execSliceEvacuate sl s = .next t) : s.Kept t := by
  unfold Machine.execSliceEvacuate at h
  split at h <;> cases h
  · exact refl s
  · exact of_cells (by simp) (by simp)

theorem interval (s : State) (cl : Nat) : s.Kept (s.interval cl) := of_cells (by simp) (by simp)

theorem execBudgetIntervalStart {cl : Nat} {s t : State} (h : Machine.execBudgetIntervalStart cl s = .next t) : s.Kept t := by
  unfold Machine.execBudgetIntervalStart at h
  split at h <;> cases h
  · exact refl s
  · exact (ite (refl s) (reach s _)).trans (interval _ cl)

theorem execEnergyCharge {blk amount : Nat} {s t : State} (h : Machine.execEnergyCharge blk amount s = .next t) : s.Kept t := by
  unfold Machine.execEnergyCharge at h
  extract_lets x w at h
  split at h <;> cases h
  · exact refl s
  · exact (ite (refl s) (reach s _)).trans (chargeEnergy _ _ _ _)

theorem execQuotaRefill {ctx : Nat} {s t : State} (h : Machine.execQuotaRefill ctx s = .next t) : s.Kept t := by
  unfold Machine.execQuotaRefill at h
  extract_lets p u q v fits w mine at h
  split at h <;> cases h
  · exact refl s
  · have hv : s.Kept v := (reach s _).trans (setCtx _ _ _)
    have hw : v.Kept w := foldl (fun t l => setLaunch t _) _ v
    exact (hv.trans hw).trans (foldl (fun t x => of_cells (by simp) (by simp)) _ _)

/-! ## The host -/

theorem execFaultResume {ctx seq : Nat} {s t : State} (h : Machine.execFaultResume ctx seq s = .next t) : s.Kept t := by
  cases h
  exact faultCommand s _ _ _ _ _

theorem execFaultSkip {ctx seq : Nat} {s t : State} (h : Machine.execFaultSkip ctx seq s = .next t) : s.Kept t := by
  cases h
  exact faultCommand s _ _ _ _ _

theorem execFaultKill {ctx seq : Nat} {s t : State} (h : Machine.execFaultKill ctx seq s = .next t) : s.Kept t := by
  cases h
  exact faultCommand s _ _ _ _ _

theorem execFaultCancel {ctx seq : Nat} {level : BitVec 2} {id : Word} {s t : State} (h : Machine.execFaultCancel ctx seq level id s = .next t) : s.Kept t := by
  cases h
  exact faultCommand s _ _ _ _ _

/-- What a command of the command window changes, where it changes no cell of memory. -/
theorem of_command {s t : State} {run : State → State} (hmem : (run s).mem.cells = s.mem.cells) (hacc : (run s).host.featacc = s.host.featacc)
    (h : (Host.Outcome.next (s.command run) : Host.Outcome State Fault Refusal) = .next t) : s.Kept t := by
  cases h
  exact command s (of_cells hmem hacc)

theorem execCommandComplete {s t : State} (h : Machine.execCommandComplete s = .next t) : s.Kept t := by
  have hstop (f : Nat → Bool) : s.Kept (s.stopCores f) := of_cells (by simp) (by simp)
  unfold Machine.execCommandComplete at h
  split at h
  · cases h
    exact refl s
  · cases h
    exact ite (refl s) (of_cells (by simp) (by simp))
  · cases h
    exact refl s
  · cases h
    exact of_cells (by simp) (by simp)
  · cases h
    exact endCtxDone s _
  · split at h <;> cases h
    · exact of_cells (by simp) (by simp)
    · exact hstop _
  · split at h <;> cases h
    · exact of_cells (by simp) (by simp)
    · exact hstop _
  · cases h
    exact ite (refl s) (of_cells (by simp) (by simp))

theorem execHostMemAccess {port addr : Nat} {data : List Byte} {write : Bool} {s t : State} (h : Machine.execHostMemAccess port addr data write s = .next t) :
    s.Kept t := by
  unfold Machine.execHostMemAccess at h
  split at h
  · cases h
    exact refl s
  · extract_lets a at h
    split at h
    · next u hu =>
      cases h
      split at hu
      · cases hu
      · exact hostAccess hu
    · cases h
      exact of_cells rfl rfl

theorem execLinkRetrain {port : Nat} {s t : State} (h : Machine.execLinkRetrain port s = .next t) : s.Kept t := by
  unfold Machine.execLinkRetrain at h
  split at h <;> cases h
  · exact of_cells rfl rfl
  · exact refl s

theorem execLinkUp {port : Nat} {s t : State} (h : Machine.execLinkUp port s = .next t) : s.Kept t := by
  unfold Machine.execLinkUp at h
  split at h
  · cases h
    exact refl s
  · extract_lets u h1 v w at h
    have hv : s.Kept v := ite (of_cells rfl rfl) (of_cells rfl rfl)
    have hw : s.Kept w := hv.trans (hostSend _ v)
    cases h
    exact trans (ite (hw.trans (msi w _)) hw) (serveHeld _ _)

theorem execDbgResume {s t : State} (h : Machine.execDbgResume s = .next t) : s.Kept t := by
  cases h
  exact dbgDo s fun b c => trans (foldl (f := fun t f => t.continueFault f false) (fun t f => of_cells (by simp) (by simp)) _ s) (watchSync _ _)

theorem stepOn (s : State) (f : FaultRec) : s.Kept (s.stepOn f) := by
  unfold State.stepOn
  extract_lets u v w
  have hw : s.Kept w := ite (refl s) (of_cells (by simp) (by simp))
  exact ite (of_cells (by simp) (by simp)) (hw.trans (of_cells rfl rfl))

theorem execDbgStep {s t : State} (h : Machine.execDbgStep s = .next t) : s.Kept t := by
  cases h
  exact dbgDo s fun b c => ite (refl s) (trans (foldl (fun t f => stepOn t f) _ s) (of_cells (by rfl) (by rfl)))

theorem execDbgKill {s t : State} (h : Machine.execDbgKill s = .next t) : s.Kept t := by
  cases h
  exact dbgDo s fun b c => of_cells rfl rfl

theorem execDbgStateWrite {off : Nat} {v : Word} {s t : State} (h : Machine.execDbgStateWrite off v s = .next t) : s.Kept t := by
  unfold Machine.execDbgStateWrite at h
  split at h
  · cases h
    exact refl s
  · split at h <;> cases h
    · exact dbgPut s _ _ _ _
    · exact of_cells rfl rfl

end State.Kept

end Sys2Proof.Machine

/-!
PROOF (R82, R368): every instruction and event keeps the invariant.
-/
namespace Sys2Proof.Machine

-- One theorem after the other: in parallel they ask for more threads than the host allows.
set_option Elab.async false

namespace State.Kept

theorem execClauseHeader {wait : BitVec 12} {seta setb len : BitVec 4} {s t : State} (h : Machine.execClauseHeader wait seta setb len s = .next t) : s.Kept t := by
  unfold Machine.execClauseHeader at h
  dsimp only at h
  (repeat' split at h) <;> cases h <;> exact of_cells (by simp) (by simp)

theorem execIssueSelect {core qtr : Nat} {s t : State} (h : Machine.execIssueSelect core qtr s = .next t) : s.Kept t := by
  unfold Machine.execIssueSelect at h
  dsimp only at h
  (repeat' split at h) <;> cases h <;> exact of_cells (by simp) (by simp)

theorem execBarResume {blk id : Nat} {cluster : Bool} {s t : State} (h : Machine.execBarResume blk id cluster s = .next t) : s.Kept t := by
  unfold Machine.execBarResume at h
  dsimp only at h
  (repeat' split at h) <;> cases h <;> exact of_cells (by simp) (by simp)

theorem execYieldExpire {n : Nat} {s t : State} (h : Machine.execYieldExpire n s = .next t) : s.Kept t := by
  unfold Machine.execYieldExpire at h
  dsimp only at h
  (repeat' split at h) <;> cases h <;> exact of_cells (by simp) (by simp)

theorem execWaitcmpPoll {n : Nat} {s t : State} (h : Machine.execWaitcmpPoll n s = .next t) : s.Kept t := by
  cases h
  exact of_cells (by simp) (by simp)

theorem execCancelArrive {s t : State} (h : Machine.execCancelArrive s = .next t) : s.Kept t := by
  unfold Machine.execCancelArrive at h
  dsimp only at h
  (repeat' split at h) <;> cases h <;> exact of_cells (by simp) (by simp)

theorem execCancelStop {blk : Nat} {s t : State} (h : Machine.execCancelStop blk s = .next t) : s.Kept t := by
  unfold Machine.execCancelStop at h
  dsimp only at h
  (repeat' split at h) <;> cases h <;> exact of_cells (by simp) (by simp)

theorem execStoreBufferLeave {n : Nat} {s t : State} (h : Machine.execStoreBufferLeave n s = .next t) : s.Kept t := by
  unfold Machine.execStoreBufferLeave at h
  dsimp only at h
  (repeat' split at h) <;> cases h <;> exact of_cells (by simp) (by simp)

theorem execFencerVisit {n : Nat} {s t : State} (h : Machine.execFencerVisit n s = .next t) : s.Kept t := by
  unfold Machine.execFencerVisit at h
  dsimp only at h
  (repeat' split at h) <;> cases h <;> exact of_cells (by simp) (by simp)

theorem execCrewStart {blk : Nat} {s t : State} (h : Machine.execCrewStart blk s = .next t) : s.Kept t := by
  unfold Machine.execCrewStart at h
  dsimp only at h
  (repeat' split at h) <;> cases h <;> exact of_cells (by simp) (by simp)

theorem execBlockComplete {blk : Nat} {s t : State} (h : Machine.execBlockComplete blk s = .next t) : s.Kept t := by
  unfold Machine.execBlockComplete at h
  dsimp only at h
  (repeat' split at h) <;> cases h <;> exact of_cells (by simp) (by simp)

theorem execLaunchRelease {l : Nat} {s t : State} (h : Machine.execLaunchRelease l s = .next t) : s.Kept t := by
  unfold Machine.execLaunchRelease at h
  dsimp only at h
  (repeat' split at h) <;> cases h <;> exact of_cells (by simp) (by simp)

theorem execSegmentClear {l : Nat} {s t : State} (h : Machine.execSegmentClear l s = .next t) : s.Kept t := by
  unfold Machine.execSegmentClear at h
  dsimp only at h
  (repeat' split at h) <;> cases h <;> exact of_cells (by simp) (by simp)

theorem execLaunchBlocking {l : Nat} {s t : State} (h : Machine.execLaunchBlocking l s = .next t) : s.Kept t := by
  unfold Machine.execLaunchBlocking at h
  dsimp only at h
  (repeat' split at h) <;> cases h <;> exact of_cells (by simp) (by simp)

theorem execPreempt {blk : Nat} {s t : State} (h : Machine.execPreempt blk s = .next t) : s.Kept t := by
  cases h
  exact of_cells (by simp) (by simp)

theorem execWatchdog {rc : Nat} {s t : State} (h : Machine.execWatchdog rc s = .next t) : s.Kept t := by
  unfold Machine.execWatchdog at h
  dsimp only at h
  (repeat' split at h) <;> cases h <;> exact of_cells (by simp) (by simp)

theorem execWritebackSend {sl : Nat} {s t : State} (h : Machine.execWritebackSend sl s = .next t) : s.Kept t := by
  unfold Machine.execWritebackSend at h
  dsimp only at h
  (repeat' split at h) <;> cases h <;> exact of_cells (by simp) (by simp)

theorem execWritebackFree {sl : Nat} {s t : State} (h : Machine.execWritebackFree sl s = .next t) : s.Kept t := by
  unfold Machine.execWritebackFree at h
  dsimp only at h
  (repeat' split at h) <;> cases h <;> exact of_cells (by simp) (by simp)

theorem execMaskApply {sl : Nat} {s t : State} (h : Machine.execMaskApply sl s = .next t) : s.Kept t := by
  unfold Machine.execMaskApply at h
  dsimp only at h
  (repeat' split at h) <;> cases h <;> exact of_cells (by simp) (by simp)

theorem execContractComplete {n : Nat} {s t : State} (h : Machine.execContractComplete n s = .next t) : s.Kept t := by
  unfold Machine.execContractComplete at h
  dsimp only at h
  (repeat' split at h) <;> cases h <;> exact of_cells (by simp) (by simp)

theorem execPinLineCopy {p sl : Nat} {s t : State} (h : Machine.execPinLineCopy p sl s = .next t) : s.Kept t := by
  unfold Machine.execPinLineCopy at h
  dsimp only at h
  (repeat' split at h) <;> cases h <;> exact of_cells (by simp) (by simp)

theorem execPinLineWriteback {p sl : Nat} {s t : State} (h : Machine.execPinLineWriteback p sl s = .next t) : s.Kept t := by
  unfold Machine.execPinLineWriteback at h
  dsimp only at h
  (repeat' split at h) <;> cases h <;> exact of_cells (by simp) (by simp)

theorem execLinkWindowEnd {link : Nat} {s t : State} (h : Machine.execLinkWindowEnd link s = .next t) : s.Kept t := by
  cases h
  exact of_cells (by simp) (by simp)

theorem execLinkWiden {link : Nat} {s t : State} (h : Machine.execLinkWiden link s = .next t) : s.Kept t := by
  unfold Machine.execLinkWiden at h
  dsimp only at h
  (repeat' split at h) <;> cases h <;> exact of_cells (by simp) (by simp)

theorem execLinkRenegotiationEnd {link : Nat} {s t : State} (h : Machine.execLinkRenegotiationEnd link s = .next t) : s.Kept t := by
  unfold Machine.execLinkRenegotiationEnd at h
  dsimp only at h
  (repeat' split at h) <;> cases h <;> exact of_cells (by simp) (by simp)

theorem execHmapWrite {r : Nat} {v : BitVec 16} {s t : State} (h : Machine.execHmapWrite r v s = .next t) : s.Kept t := by
  unfold Machine.execHmapWrite at h
  dsimp only at h
  (repeat' split at h) <;> cases h <;> exact of_cells (by simp) (by simp)

theorem execHeatDecay {s t : State} (h : Machine.execHeatDecay s = .next t) : s.Kept t := by
  cases h
  exact of_cells (by simp) (by simp)

theorem execSlceccWrite {sl : Nat} {v : Word} {s t : State} (h : Machine.execSlceccWrite sl v s = .next t) : s.Kept t := by
  unfold Machine.execSlceccWrite at h
  dsimp only at h
  (repeat' split at h) <;> cases h <;> exact of_cells (by simp) (by simp)

theorem execReencodeLine {sl : Nat} {s t : State} (h : Machine.execReencodeLine sl s = .next t) : s.Kept t := by
  unfold Machine.execReencodeLine at h
  dsimp only at h
  (repeat' split at h) <;> cases h <;> exact of_cells (by simp) (by simp)

theorem execEvacLineMove {sl : Nat} {s t : State} (h : Machine.execEvacLineMove sl s = .next t) : s.Kept t := by
  unfold Machine.execEvacLineMove at h
  dsimp only at h
  (repeat' split at h) <;> cases h <;> exact of_cells (by simp) (by simp)

theorem execHbmRowRepair {row : Nat} {s t : State} (h : Machine.execHbmRowRepair row s = .next t) : s.Kept t := by
  unfold Machine.execHbmRowRepair at h
  dsimp only at h
  (repeat' split at h) <;> cases h <;> exact of_cells (by simp) (by simp)

theorem execSlcinjWrite {sl : Nat} {which : Bool} {v : DWord} {s t : State} (h : Machine.execSlcinjWrite sl which v s = .next t) : s.Kept t := by
  unfold Machine.execSlcinjWrite at h
  dsimp only at h
  (repeat' split at h) <;> cases h <;> exact of_cells (by simp) (by simp)

theorem execYokeWindowEnd {pair : Nat} {iu il : BitVec 12} {s t : State} (h : Machine.execYokeWindowEnd pair iu il s = .next t) : s.Kept t := by
  unfold Machine.execYokeWindowEnd at h
  dsimp only at h
  (repeat' split at h) <;> cases h <;> exact of_cells (by simp) (by simp)

theorem execClusterPortCharge {n : Nat} {s t : State} (h : Machine.execClusterPortCharge n s = .next t) : s.Kept t := by
  unfold Machine.execClusterPortCharge at h
  dsimp only at h
  (repeat' split at h) <;> cases h <;> exact of_cells (by simp) (by simp)

theorem execEqcfgWrite {ctx : Nat} {v : DWord} {s t : State} (h : Machine.execEqcfgWrite ctx v s = .next t) : s.Kept t := by
  unfold Machine.execEqcfgWrite at h
  dsimp only at h
  (repeat' split at h) <;> cases h <;> exact of_cells (by simp) (by simp)

theorem execCreadWrite {q : Nat} {v : Word} {s t : State} (h : Machine.execCreadWrite q v s = .next t) : s.Kept t := by
  unfold Machine.execCreadWrite at h
  dsimp only at h
  (repeat' split at h) <;> cases h <;> exact of_cells (by simp) (by simp)

theorem execFqreadWrite {ctx : Nat} {v : Word} {s t : State} (h : Machine.execFqreadWrite ctx v s = .next t) : s.Kept t := by
  unfold Machine.execFqreadWrite at h
  dsimp only at h
  (repeat' split at h) <;> cases h <;> exact of_cells (by simp) (by simp)

theorem execRegisterWrite {r : MgmtReg} {v : DWord} {s t : State} (h : Machine.execRegisterWrite r v s = .next t) : s.Kept t := by
  unfold Machine.execRegisterWrite at h
  dsimp only at h
  (repeat' split at h) <;> cases h <;> exact of_cells (by simp) (by simp)

theorem execDbgsel0Write {v : Word} {s t : State} (h : Machine.execDbgsel0Write v s = .next t) : s.Kept t := by
  unfold Machine.execDbgsel0Write at h
  dsimp only at h
  (repeat' split at h) <;> cases h <;> exact of_cells (by simp) (by simp)

theorem execFirmwareUpdate {svn image : Nat} {s t : State} (h : Machine.execFirmwareUpdate svn image s = .next t) : s.Kept t := by
  unfold Machine.execFirmwareUpdate at h
  dsimp only at h
  (repeat' split at h) <;> cases h <;> exact of_cells (by simp) (by simp)

theorem execSpdmRequest {port msg : Nat} {s t : State} (h : Machine.execSpdmRequest port msg s = .next t) : s.Kept t := by
  unfold Machine.execSpdmRequest at h
  dsimp only at h
  (repeat' split at h) <;> cases h <;> exact of_cells (by simp) (by simp)

theorem execCheckpointDone {n : Nat} {s t : State} (h : Machine.execCheckpointDone n s = .next t) : s.Kept t := by
  unfold Machine.execCheckpointDone at h
  dsimp only at h
  (repeat' split at h) <;> cases h <;> exact of_cells (by simp) (by simp)

theorem execLogReadIndexWrite {die : Nat} {log : LogKind} {v : Nat} {s t : State} (h : Machine.execLogReadIndexWrite die log v s = .next t) : s.Kept t := by
  unfold Machine.execLogReadIndexWrite at h
  dsimp only at h
  (repeat' split at h) <;> cases h <;> exact of_cells (by simp) (by simp)

end State.Kept

/-- An accepted write of FEATACC keeps the bits of FEAT0 alone (R368). -/
theorem inv_feataccWrite {v : Word} {s t : State} (h : execFeataccWrite v s = .next t) (hs : Inv s) : Inv t := by
  obtain ⟨hwf, hacc⟩ := hs
  unfold execFeataccWrite at h
  split at h <;> cases h
  · exact ⟨hwf, hacc⟩
  · refine ⟨hwf, ?_⟩
    change v &&& BitVec.ofNat 32 feat0Value &&& ~~~feat0 = 0
    rw [BitVec.and_assoc, show BitVec.ofNat 32 feat0Value &&& ~~~feat0 = 0 by decide]
    exact BitVec.and_zero

/-- A package reset keeps memory, and FEATACC takes its reset value (R371). -/
theorem inv_packageReset {s t : State} (h : execPackageReset s = .next t) (hs : Inv s) : Inv t := by
  cases h
  exact ⟨hs.1, resetInv.2⟩

/-- Every instruction and event keeps the invariant. -/
theorem exec_keepsInv {i : Instr} {s t : State} (h : exec i s = .next t) (hs : Inv s) : Inv t := by
  cases i with
  | feataccWrite => exact inv_feataccWrite h hs
  | packageReset => exact inv_packageReset h hs
  | iadd | isub | imul | imulhs | imulhu | imad | imad64 | imin | imax | iminu | imaxu | iabs | iadd64 | isub64 | imul64 | lea | lea64
  | and | or | xor | andn | orn | shl | shr | sar | rotl | fshl | fshr | bfe | bfi | popc | clz | clz64 | brev | bytep | fadd | fsub | fmul
  | ffma | fmin | fmax | fclass | frnd | fscl | hadd2 | hmul2 | hfma2 | hmin2 | hmax2 | badd2 | bmul2 | bfma2 | bmin2 | bmax2 | dadd | dmul
  | dfma | cvtf | cvti | pack2 => exact (State.Kept.compute h).inv hs
  | idiv | idivu | irem | iremu => exact (State.Kept.computeLong h).inv hs
  | rcp | rsq | sqrt | exp2 | log2 | sinp | cosp | tanh => exact (State.Kept.computeSfu h).inv hs
  | icmp | icmpu | fcmp | dcmp => exact (State.Kept.compare1 h).inv hs
  | shootdown | repairSpareCore | repairClusterDrain | repairClusterReturn | repairSpareSlice | repairHbmPageRetire | resctr | resend
  | ctxend | commandUnknown => exact (State.Kept.of_command (by simp) (by simp) h).inv hs
  | iaddc => exact (State.Kept.execIaddc h).inv hs
  | isubb => exact (State.Kept.execIsubb h).inv hs
  | sel => exact (State.Kept.execSel h).inv hs
  | hcmp2 => exact (State.Kept.execHcmp2 h).inv hs
  | bcmp2 => exact (State.Kept.execBcmp2 h).inv hs
  | mov => exact (State.Kept.execMov h).inv hs
  | movi => exact (State.Kept.execMovi h).inv hs
  | movl => exact (State.Kept.execMovl h).inv hs
  | bra => exact (State.Kept.execBra h).inv hs
  | brau => exact (State.Kept.execBrau h).inv hs
  | jmp => exact (State.Kept.execJmp h).inv hs
  | jmpi => exact (State.Kept.execJmpi h).inv hs
  | call => exact (State.Kept.execCall h).inv hs
  | calli => exact (State.Kept.execCalli h).inv hs
  | ret => exact (State.Kept.execRet h).inv hs
  | reform => exact (State.Kept.execReform h).inv hs
  | exit => exact (State.Kept.execExit h).inv hs
  | nop => exact (State.Kept.execNop h).inv hs
  | yieldI => exact (State.Kept.execYieldI h).inv hs
  | vote => exact (State.Kept.execVote h).inv hs
  | shfl => exact (State.Kept.execShfl h).inv hs
  | cred => exact (State.Kept.execCred h).inv hs
  | cscan => exact (State.Kept.execCscan h).inv hs
  | matchEq => exact (State.Kept.execMatchEq h).inv hs
  | csync => exact (State.Kept.execCsync h).inv hs
  | bar => exact (State.Kept.execBar h).inv hs
  | lbar => exact (State.Kept.execLbar h).inv hs
  | waitcmp => exact (State.Kept.execWaitcmp h).inv hs
  | fence => exact (State.Kept.execFence h).inv hs
  | fenceo => exact (State.Kept.execFenceo h).inv hs
  | fencer => exact (State.Kept.execFencer h).inv hs
  | plop => exact (State.Kept.execPlop h).inv hs
  | p2v => exact (State.Kept.execP2v h).inv hs
  | v2p => exact (State.Kept.execV2p h).inv hs
  | rdsr => exact (State.Kept.execRdsr h).inv hs
  | wrsr => exact (State.Kept.execWrsr h).inv hs
  | winbImm => exact (State.Kept.execWinbImm h).inv hs
  | winbReg => exact (State.Kept.execWinbReg h).inv hs
  | cpart => exact (State.Kept.execCpart h).inv hs
  | trap => exact (State.Kept.execTrap h).inv hs
  | cancelSelf => exact (State.Kept.execCancelSelf h).inv hs
  | cancelId => exact (State.Kept.execCancelId h).inv hs
  | wqpop => exact (State.Kept.execWqpop h).inv hs
  | wqpush => exact (State.Kept.execWqpush h).inv hs
  | ld => exact (State.Kept.execLd h).inv hs
  | st => exact (State.Kept.execSt h).inv hs
  | ldk => exact (State.Kept.execLdk h).inv hs
  | stk => exact (State.Kept.execStk h).inv hs
  | lds => exact (State.Kept.execLds h).inv hs
  | sts => exact (State.Kept.execSts h).inv hs
  | stsm => exact (State.Kept.execStsm h).inv hs
  | ldp => exact (State.Kept.execLdp h).inv hs
  | stp => exact (State.Kept.execStp h).inv hs
  | ldx => exact (State.Kept.execLdx h).inv hs
  | stm => exact (State.Kept.execStm h).inv hs
  | atom => exact (State.Kept.execAtom h).inv hs
  | atomk => exact (State.Kept.execAtomk h).inv hs
  | red => exact (State.Kept.execRed h).inv hs
  | cas => exact (State.Kept.execCas h).inv hs
  | invl1 => exact (State.Kept.execInvl1 h).inv hs
  | invl1Line => exact (State.Kept.execInvl1Line h).inv hs
  | pref => exact (State.Kept.execPref h).inv hs
  | recld => exact (State.Kept.execRecld h).inv hs
  | pin => exact (State.Kept.execPin h).inv hs
  | unpin => exact (State.Kept.execUnpin h).inv hs
  | cctr => exact (State.Kept.execCctr h).inv hs
  | stpart => exact (State.Kept.execStpart h).inv hs
  | kvapp => exact (State.Kept.execKvapp h).inv hs
  | kvfork => exact (State.Kept.execKvfork h).inv hs
  | kvfree => exact (State.Kept.execKvfree h).inv hs
  | kvhm => exact (State.Kept.execKvhm h).inv hs
  | assay => exact (State.Kept.execAssay h).inv hs
  | gread => exact (State.Kept.execGread h).inv hs
  | gupd => exact (State.Kept.execGupd h).inv hs
  | gcinch => exact (State.Kept.execGcinch h).inv hs
  | gclose => exact (State.Kept.execGclose h).inv hs
  | gmount => exact (State.Kept.execGmount h).inv hs
  | gdismt => exact (State.Kept.execGdismt h).inv hs
  | gfence => exact (State.Kept.execGfence h).inv hs
  | mmab => exact (State.Kept.execMmab h).inv hs
  | mmah => exact (State.Kept.execMmah h).inv hs
  | mmai8 => exact (State.Kept.execMmai8 h).inv hs
  | mmai84 => exact (State.Kept.execMmai84 h).inv hs
  | mmai4 => exact (State.Kept.execMmai4 h).inv hs
  | aclr => exact (State.Kept.execAclr h).inv hs
  | aload => exact (State.Kept.execAload h).inv hs
  | astore => exact (State.Kept.execAstore h).inv hs
  | arowmx => exact (State.Kept.execArowmx h).inv hs
  | aexpb => exact (State.Kept.execAexpb h).inv hs
  | ashift => exact (State.Kept.execAshift h).inv hs
  | arowsm => exact (State.Kept.execArowsm h).inv hs
  | qpush => exact (State.Kept.execQpush h).inv hs
  | qpop => exact (State.Kept.execQpop h).inv hs
  | qstat => exact (State.Kept.execQstat h).inv hs
  | qstatFeed => exact (State.Kept.execQstatFeed h).inv hs
  | cpy => exact (State.Kept.execCpy h).inv hs
  | cpym => exact (State.Kept.execCpym h).inv hs
  | cpyq => exact (State.Kept.execCpyq h).inv hs
  | cpyix => exact (State.Kept.execCpyix h).inv hs
  | smelt => exact (State.Kept.execSmelt h).inv hs
  | cpys => exact (State.Kept.execCpys h).inv hs
  | txpose => exact (State.Kept.execTxpose h).inv hs
  | tdmk => exact (State.Kept.execTdmk h).inv hs
  | tdfree => exact (State.Kept.execTdfree h).inv hs
  | fend => exact (State.Kept.execFend h).inv hs
  | clauseHeader => exact (State.Kept.execClauseHeader h).inv hs
  | issueSelect => exact (State.Kept.execIssueSelect h).inv hs
  | binAged => exact (State.Kept.execBinAged h).inv hs
  | binOverdue => exact (State.Kept.execBinOverdue h).inv hs
  | barResume => exact (State.Kept.execBarResume h).inv hs
  | lbarReleaseWindow => exact (State.Kept.execLbarReleaseWindow h).inv hs
  | yieldExpire => exact (State.Kept.execYieldExpire h).inv hs
  | waitcmpPoll => exact (State.Kept.execWaitcmpPoll h).inv hs
  | wqExecute => exact (State.Kept.execWqExecute h).inv hs
  | cancelArrive => exact (State.Kept.execCancelArrive h).inv hs
  | cancelStop => exact (State.Kept.execCancelStop h).inv hs
  | resultLand => exact (State.Kept.execResultLand h).inv hs
  | storeBufferLeave => exact (State.Kept.execStoreBufferLeave h).inv hs
  | storeAck => exact (State.Kept.execStoreAck h).inv hs
  | fencerVisit => exact (State.Kept.execFencerVisit h).inv hs
  | engineWriteLand => exact (State.Kept.execEngineWriteLand h).inv hs
  | panelLand => exact (State.Kept.execPanelLand h).inv hs
  | engineComplete => exact (State.Kept.execEngineComplete h).inv hs
  | placeBlock => exact (State.Kept.execPlaceBlock h).inv hs
  | crewStart => exact (State.Kept.execCrewStart h).inv hs
  | blockComplete => exact (State.Kept.execBlockComplete h).inv hs
  | levelComplete => exact (State.Kept.execLevelComplete h).inv hs
  | cxlSnoop => exact (State.Kept.execCxlSnoop h).inv hs
  | tailReread => exact (State.Kept.execTailReread h).inv hs
  | recordTake => exact (State.Kept.execRecordTake h).inv hs
  | launchRelease => exact (State.Kept.execLaunchRelease h).inv hs
  | segmentClear => exact (State.Kept.execSegmentClear h).inv hs
  | launchBlocking => exact (State.Kept.execLaunchBlocking h).inv hs
  | preempt => exact (State.Kept.execPreempt h).inv hs
  | swapOut => exact (State.Kept.execSwapOut h).inv hs
  | swapSaveDone => exact (State.Kept.execSwapSaveDone h).inv hs
  | swapRestore => exact (State.Kept.execSwapRestore h).inv hs
  | faultEntryWrite => exact (State.Kept.execFaultEntryWrite h).inv hs
  | watchdog => exact (State.Kept.execWatchdog h).inv hs
  | sliceServe => exact (State.Kept.execSliceServe h).inv hs
  | mscFill => exact (State.Kept.execMscFill h).inv hs
  | writebackSend => exact (State.Kept.execWritebackSend h).inv hs
  | writebackFree => exact (State.Kept.execWritebackFree h).inv hs
  | maskApply => exact (State.Kept.execMaskApply h).inv hs
  | contractDecide => exact (State.Kept.execContractDecide h).inv hs
  | contractComplete => exact (State.Kept.execContractComplete h).inv hs
  | pinLineCopy => exact (State.Kept.execPinLineCopy h).inv hs
  | pinDrainStart => exact (State.Kept.execPinDrainStart h).inv hs
  | pinLineWriteback => exact (State.Kept.execPinLineWriteback h).inv hs
  | pinLineWritten => exact (State.Kept.execPinLineWritten h).inv hs
  | stpartApply => exact (State.Kept.execStpartApply h).inv hs
  | linkWindowEnd => exact (State.Kept.execLinkWindowEnd h).inv hs
  | linkWiden => exact (State.Kept.execLinkWiden h).inv hs
  | linkRenegotiationEnd => exact (State.Kept.execLinkRenegotiationEnd h).inv hs
  | hmapWrite => exact (State.Kept.execHmapWrite h).inv hs
  | hmapTakeEffect => exact (State.Kept.execHmapTakeEffect h).inv hs
  | walkLevelRead => exact (State.Kept.execWalkLevelRead h).inv hs
  | kvCountTest => exact (State.Kept.execKvCountTest h).inv hs
  | kvappPerform => exact (State.Kept.execKvappPerform h).inv hs
  | pageEvictDone => exact (State.Kept.execPageEvictDone h).inv hs
  | pageInstallDone => exact (State.Kept.execPageInstallDone h).inv hs
  | kvPageOp => exact (State.Kept.execKvPageOp h).inv hs
  | heatDecay => exact (State.Kept.execHeatDecay h).inv hs
  | girthPassage => exact (State.Kept.execGirthPassage h).inv hs
  | holdEnd => exact (State.Kept.execHoldEnd h).inv hs
  | reservationExpire => exact (State.Kept.execReservationExpire h).inv hs
  | compareSignatures => exact (State.Kept.execCompareSignatures h).inv hs
  | rollbackRestoreDone => exact (State.Kept.execRollbackRestoreDone h).inv hs
  | slceccWrite => exact (State.Kept.execSlceccWrite h).inv hs
  | reencodeLine => exact (State.Kept.execReencodeLine h).inv hs
  | sweepLine => exact (State.Kept.execSweepLine h).inv hs
  | sweepForce => exact (State.Kept.execSweepForce h).inv hs
  | sliceEvacuate => exact (State.Kept.execSliceEvacuate h).inv hs
  | evacLineMove => exact (State.Kept.execEvacLineMove h).inv hs
  | hbmRowRepair => exact (State.Kept.execHbmRowRepair h).inv hs
  | slcinjWrite => exact (State.Kept.execSlcinjWrite h).inv hs
  | yokeWindowEnd => exact (State.Kept.execYokeWindowEnd h).inv hs
  | budgetIntervalStart => exact (State.Kept.execBudgetIntervalStart h).inv hs
  | clusterPortCharge => exact (State.Kept.execClusterPortCharge h).inv hs
  | energyCharge => exact (State.Kept.execEnergyCharge h).inv hs
  | quotaRefill => exact (State.Kept.execQuotaRefill h).inv hs
  | eqcfgWrite => exact (State.Kept.execEqcfgWrite h).inv hs
  | creadWrite => exact (State.Kept.execCreadWrite h).inv hs
  | fqreadWrite => exact (State.Kept.execFqreadWrite h).inv hs
  | registerWrite => exact (State.Kept.execRegisterWrite h).inv hs
  | faultResume => exact (State.Kept.execFaultResume h).inv hs
  | faultSkip => exact (State.Kept.execFaultSkip h).inv hs
  | faultKill => exact (State.Kept.execFaultKill h).inv hs
  | faultCancel => exact (State.Kept.execFaultCancel h).inv hs
  | commandComplete => exact (State.Kept.execCommandComplete h).inv hs
  | dbgResume => exact (State.Kept.execDbgResume h).inv hs
  | dbgStep => exact (State.Kept.execDbgStep h).inv hs
  | dbgKill => exact (State.Kept.execDbgKill h).inv hs
  | dbgsel0Write => exact (State.Kept.execDbgsel0Write h).inv hs
  | dbgStateWrite => exact (State.Kept.execDbgStateWrite h).inv hs
  | hostMemAccess => exact (State.Kept.execHostMemAccess h).inv hs
  | linkRetrain => exact (State.Kept.execLinkRetrain h).inv hs
  | firmwareUpdate => exact (State.Kept.execFirmwareUpdate h).inv hs
  | spdmRequest => exact (State.Kept.execSpdmRequest h).inv hs
  | swapRestoreDone => exact (State.Kept.execSwapRestoreDone h).inv hs
  | checkpointDone => exact (State.Kept.execCheckpointDone h).inv hs
  | linkUp => exact (State.Kept.execLinkUp h).inv hs
  | logReadIndexWrite => exact (State.Kept.execLogReadIndexWrite h).inv hs

end Sys2Proof.Machine

/-!
PROOF (R82, R368): a step keeps the invariant.
-/
namespace Sys2Proof.Machine

-- One theorem after the other: in parallel they ask for more threads than the host allows.
set_option Elab.async false

/-! ## Fetch (R107 to R111) -/

/-- The state that the fetch of a word ends in. -/
def FetchWord.state : FetchWord → State
  | .miss t => t
  | .trap _ _ t => t
  | .ok _ t => t

/-- The state that the fetch of an instruction ends in. -/
def Fetched.state : Fetched → State
  | .wait t => t
  | .instr _ t => t

namespace State.Kept

theorem fetchWord (s : State) (pc : Word) : s.Kept (s.fetchWord pc).state := by
  unfold State.fetchWord
  dsimp only
  split
  · next h => exact translate h
  · next h => exact translate h
  · next x t h =>
    have ht := translate h
    split
    · exact ht
    · split <;> exact ht.trans (of_cells (by simp [FetchWord.state]) (by simp [FetchWord.state]))

theorem fetchWord_eq {s : State} {pc : Word} {r : FetchWord} (h : s.fetchWord pc = r) : s.Kept r.state := h ▸ fetchWord s pc

theorem fetchTrap (s : State) (c : Trap) (va : Nat) : s.Kept (s.fetchTrap c va) := takeTrap s _

theorem noHeader (s : State) : s.Kept s.noHeader := of_cells (by simp) (by simp)

theorem missed (s : State) : s.Kept (s.park .again 0).putBack := of_cells (by simp) (by simp)

theorem decoded {s t : State} (h : s.Kept t) (r : Except DecodeError Instr) : s.Kept (Machine.decoded r t).state := by
  cases r with
  | ok i => exact h
  | error e => exact h.trans (illop t _ _)

theorem fetchCur (s : State) : s.Kept (Machine.fetchCur s).state := by
  unfold Machine.fetchCur
  dsimp only
  split
  · next h => exact trans (fetchWord_eq h) (missed _)
  · next h => exact trans (fetchWord_eq h) (fetchTrap _ _ _)
  · next w t h =>
    have ht : s.Kept t := fetchWord_eq h
    split
    · split
      · exact ht
      · exact ht.trans (noHeader t)
    · split
      · split
        · next h2 => exact ht.trans (trans (fetchWord_eq h2) (missed _))
        · next h2 => exact ht.trans (trans (fetchWord_eq h2) (fetchTrap _ _ _))
        · next h2 => exact decoded (ht.trans (fetchWord_eq h2)) _
      · exact decoded ht _

/-! ## After the instruction -/

theorem secondPath (s : State) (faulted : Bool) : s.Kept (s.secondPath faulted) := of_cells (by simp) (by simp)

theorem joinFault (s : State) (u : Bundle) (n : Nat) : s.Kept (s.joinFault u n) := of_cells (by simp) (by simp)

theorem afterInstr (s : State) (u : Bundle) (i : Instr) : s.Kept (s.afterInstr u i) := of_cells (by simp) (by simp)

theorem stepUsed (s : State) (u : Bundle) : s.Kept (s.stepUsed u) := of_cells (by simp) (by simp)

theorem afterFetch {s t : State} (h : s.Kept t) : s.Kept (s.afterFetch t) := (h.trans (ite (refl t) (stepUsed t _))).trans (secondPath _ _)

theorem putBack (s : State) : s.Kept s.putBack := of_cells (by simp) (by simp)

theorem settleHeat (s : State) : s.Kept s.settleHeat := of_cells (by simp) (by simp)

theorem ticked (s : State) : s.Kept s.ticked := of_cells rfl rfl

/-! ## What happens beside the events of the schedule -/

theorem bootStep (s : State) : s.Kept s.bootStep := of_cells (by simp) (by simp)

theorem fitSync (s : State) (l : Launch) : s.Kept (s.fitSync l) := of_cells (by simp) (by simp)

theorem wake (s : State) (core qtr : Nat) : s.Kept (s.wake core qtr) := of_cells rfl rfl

theorem due (s : State) (is : List Instr) : s.Kept (s.due is) := of_cells rfl rfl

end State.Kept

/-- An event keeps the invariant, whichever bundles it wakes. -/
theorem execWoken_keepsInv {i : Instr} {s t : State} (h : s.execWoken i = .next t) (hs : Inv s) : Inv t := by
  unfold State.execWoken at h
  split at h
  · exact exec_keepsInv h ((State.Kept.wake s _ _).inv hs)
  · exact exec_keepsInv h hs

/-- What the cycle does of itself keeps the invariant, as does the event that the schedule gives. -/
theorem autoStep_keepsInv {s t : State} (h : autoStep s = .next t) (hs : Inv s) : Inv t := by
  unfold autoStep at h
  extract_lets t₁ clk sch t₂ t₃ t₄ t₅ t₆ at h
  have h₂ : s.Kept t₂ := (State.Kept.closeWindows s).trans (.trans (.of_cells (by rfl) (by rfl)) (.bootStep _))
  have h₃ : s.Kept t₃ := h₂.trans (.foldl (fun t cl => .interval t cl) _ t₂)
  have h₄ : s.Kept t₄ := h₃.trans (.foldl (fun t l => .fitSync t l) _ t₃)
  have h₅ : s.Kept t₅ := h₄.trans ((State.Kept.due t₄ _).trans (.foldl (fun t p => .serveHeld t p) _ _))
  have h₆ : s.Kept t₆ := h₅.trans (.hostSend _ t₅)
  split at h
  · exact execWoken_keepsInv h (h₆.inv hs)
  · exact (State.Kept.of_next h h₆).inv hs

/-- What follows an instruction keeps the invariant. -/
theorem release_keepsInv {a t : State} {i : Instr} {o : Host.Outcome State Fault Refusal} (ho : ∀ u, o = .next u → Inv u) (h : release a i o = .next t) : Inv t := by
  cases o with
  | next s =>
    have hs := ho s rfl
    unfold release at h
    dsimp only at h
    refine (State.Kept.of_next h (.ite (.refl s) ?_)).inv hs
    exact (((State.Kept.ite (.joinFault s _ _) (.refl s)).trans (.afterInstr _ _ _)).trans (.putBack _)).trans (.secondPath _ _)
  | fault r => cases h
  | refused r => cases h

/-- The end of a step keeps the invariant. -/
theorem tick_keepsInv {o : Host.Outcome State Fault Refusal} {t : State} (ho : ∀ u, o = .next u → Inv u) (h : tick o = .next t) : Inv t := by
  cases o with
  | next s => exact (State.Kept.of_next h ((State.Kept.ite (.refl s) (.ticked s)).trans (.settleHeat _))).inv (ho s rfl)
  | fault r => cases h
  | refused r => cases h

/-- Settles O54: each way that a step goes keeps the invariant. -/
theorem stepKeepsInv : Obligations.StepKeepsInv := by
  intro s t hs h
  unfold step at h
  split at h
  · next e rest _ =>
    have hpop : s.Kept { s with sch := { s.sch with agenda := rest } } := .of_cells rfl rfl
    exact tick_keepsInv (fun u hu => exec_keepsInv hu (hpop.inv hs)) h
  · split at h
    · split at h
      · exact (State.Kept.of_next h ((State.Kept.ticked s).trans (.settleHeat _))).inv hs
      · have hfetch := State.Kept.fetchCur s
        split at h
        · next u hf =>
          have hu : s.Kept u := by rwa [hf] at hfetch
          exact tick_keepsInv (fun v hv => (State.Kept.of_next hv (.afterFetch hu)).inv hs) h
        · next i u hf =>
          have hu : s.Kept u := by rwa [hf] at hfetch
          exact tick_keepsInv (fun v hv => release_keepsInv (fun w hw => exec_keepsInv hw (hu.inv hs)) hv) h
    · exact tick_keepsInv (fun u hu => autoStep_keepsInv hu hs) h

end Sys2Proof.Machine
